-- ==== Sys2Proof/Word.lean ====
section
/-! DEFINITION. The word types of the Staolan S9 and the one shape in which keyed data is held. -/

namespace Sys2Proof

/-- A byte. -/
abbrev Byte := BitVec 8

/-- A Gulcen instruction word (R100), and a Brixem word (Table 15.5). -/
abbrev Word := BitVec 32

/-- A scalar register x0 to x31, and every 64-bit CSR. -/
abbrev XWord := BitVec 64

/-- Keyed data: a list of (key, value) pairs whose keys rise strictly. -/
abbrev Map (α : Type) := List (Nat × α)

end Sys2Proof
end

