-- ==== Sys2Proof/Syntax.lean ====
section
/-! DEFINITION. Instr: one constructor for every row of spec/opcode_table.json, in the table's order.

Rows 0 to 237 are the words that harts execute (majors of Table 5.4 and the PFX word of Table 5.7), rows 238 to 257 the
Brixem words that bank sequencers execute (Table 15.4), and the rest are the events of the device, its host link and its
firmware that the table lists as steps without a word.  A field of one bit is a Bool; a wider field is a bit vector; an
event carries what the outside world or the device's free choice supplies. -/

namespace Sys2Proof

inductive Instr where
  /-- ADD (R124). -/
  | add (d a b : BitVec 5) (w : Bool)
  /-- SUB (R124). -/
  | sub (d a b : BitVec 5) (w : Bool)
  /-- AND (R124). -/
  | and (d a b : BitVec 5)
  /-- OR (R124). -/
  | or (d a b : BitVec 5)
  /-- XOR (R124). -/
  | xor (d a b : BitVec 5)
  /-- ANDN (R124). -/
  | andn (d a b : BitVec 5)
  /-- SLL (R124). -/
  | sll (d a b : BitVec 5) (w : Bool)
  /-- SRL (R124). -/
  | srl (d a b : BitVec 5) (w : Bool)
  /-- SRA (R124). -/
  | sra (d a b : BitVec 5) (w : Bool)
  /-- SLT (R124). -/
  | slt (d a b : BitVec 5)
  /-- SLTU (R124). -/
  | sltu (d a b : BitVec 5)
  /-- MIN (R124). -/
  | min (d a b : BitVec 5)
  /-- MAX (R124). -/
  | max (d a b : BitVec 5)
  /-- MINU (R124). -/
  | minu (d a b : BitVec 5)
  /-- MAXU (R124). -/
  | maxu (d a b : BitVec 5)
  /-- MUL (R124). -/
  | mul (d a b : BitVec 5) (w : Bool)
  /-- MULH (R124). -/
  | mulh (d a b : BitVec 5)
  /-- MULHU (R124). -/
  | mulhu (d a b : BitVec 5)
  /-- DIV (R125). -/
  | div (d a b : BitVec 5) (w : Bool)
  /-- DIVU (R125). -/
  | divu (d a b : BitVec 5) (w : Bool)
  /-- REM (R125). -/
  | rem (d a b : BitVec 5) (w : Bool)
  /-- REMU (R125). -/
  | remu (d a b : BitVec 5) (w : Bool)
  /-- CLZ (R124). -/
  | clz (d a : BitVec 5) (w : Bool)
  /-- POPC (R124). -/
  | popc (d a : BitVec 5) (w : Bool)
  /-- ADDI (R126). -/
  | addi (d a : BitVec 5) (i : BitVec 12)
  /-- ANDI (R126). -/
  | andi (d a : BitVec 5) (i : BitVec 12)
  /-- ORI (R126). -/
  | ori (d a : BitVec 5) (i : BitVec 12)
  /-- XORI (R126). -/
  | xori (d a : BitVec 5) (i : BitVec 12)
  /-- SLTI (R126). -/
  | slti (d a : BitVec 5) (i : BitVec 12)
  /-- SLLI (R126). -/
  | slli (d a : BitVec 5) (s : BitVec 6)
  /-- SRLI (R126). -/
  | srli (d a : BitVec 5) (s : BitVec 6)
  /-- SRAI (R126). -/
  | srai (d a : BitVec 5) (s : BitVec 6)
  /-- LUI (R127). -/
  | lui (d : BitVec 5) (i : BitVec 20)
  /-- AUIPC (R127). -/
  | auipc (d : BitVec 5) (i : BitVec 20)
  /-- LD_B (R128). -/
  | ldB (d a : BitVec 5) (i : BitVec 12)
  /-- LD_H (R128). -/
  | ldH (d a : BitVec 5) (i : BitVec 12)
  /-- LD_W (R128). -/
  | ldW (d a : BitVec 5) (i : BitVec 12)
  /-- LD_D (R128). -/
  | ldD (d a : BitVec 5) (i : BitVec 12)
  /-- LD_BU (R128). -/
  | ldBu (d a : BitVec 5) (i : BitVec 12)
  /-- LD_HU (R128). -/
  | ldHu (d a : BitVec 5) (i : BitVec 12)
  /-- LD_WU (R128). -/
  | ldWu (d a : BitVec 5) (i : BitVec 12)
  /-- ST_B (R130). -/
  | stB (b a : BitVec 5) (i : BitVec 12)
  /-- ST_H (R130). -/
  | stH (b a : BitVec 5) (i : BitVec 12)
  /-- ST_W (R130). -/
  | stW (b a : BitVec 5) (i : BitVec 12)
  /-- ST_D (R130). -/
  | stD (b a : BitVec 5) (i : BitVec 12)
  /-- BEQ (R132). -/
  | beq (a b : BitVec 5) (i : BitVec 12)
  /-- BNE (R132). -/
  | bne (a b : BitVec 5) (i : BitVec 12)
  /-- BLT (R132). -/
  | blt (a b : BitVec 5) (i : BitVec 12)
  /-- BGE (R132). -/
  | bge (a b : BitVec 5) (i : BitVec 12)
  /-- BLTU (R132). -/
  | bltu (a b : BitVec 5) (i : BitVec 12)
  /-- BGEU (R132). -/
  | bgeu (a b : BitVec 5) (i : BitVec 12)
  /-- JAL (R133). -/
  | jal (d : BitVec 5) (i : BitVec 20)
  /-- JALR (R133). -/
  | jalr (d a : BitVec 5) (i : BitVec 15)
  /-- FADD (R137). -/
  | fadd (d a b : BitVec 5) (f : BitVec 2) (rm : BitVec 3)
  /-- FSUB (R137). -/
  | fsub (d a b : BitVec 5) (f : BitVec 2) (rm : BitVec 3)
  /-- FMUL (R137). -/
  | fmul (d a b : BitVec 5) (f : BitVec 2) (rm : BitVec 3)
  /-- FDIV (R137). -/
  | fdiv (d a b : BitVec 5) (f : BitVec 2) (rm : BitVec 3)
  /-- FSQRT (R137). -/
  | fsqrt (d a : BitVec 5) (f : BitVec 2) (rm : BitVec 3)
  /-- FMIN (R137). -/
  | fmin (d a b : BitVec 5) (f : BitVec 2)
  /-- FMAX (R137). -/
  | fmax (d a b : BitVec 5) (f : BitVec 2)
  /-- FMA (R138). -/
  | fma (d a b : BitVec 5) (f : BitVec 2) (rm : BitVec 3)
  /-- FEQ (R138). -/
  | feq (d a b : BitVec 5) (f : BitVec 2)
  /-- FLT (R138). -/
  | flt (d a b : BitVec 5) (f : BitVec 2)
  /-- FLE (R138). -/
  | fle (d a b : BitVec 5) (f : BitVec 2)
  /-- FCLASS (R139). -/
  | fclass (d a : BitVec 5) (f : BitVec 2)
  /-- FCVT_I (R140). -/
  | fcvtI (d a kind : BitVec 5) (f : BitVec 2) (rm : BitVec 3)
  /-- FCVT_F (R140). -/
  | fcvtF (d a kind : BitVec 5) (f : BitVec 2) (rm : BitVec 3)
  /-- FCVT (R140). -/
  | fcvt (d a kind : BitVec 5) (f : BitVec 2) (rm : BitVec 3)
  /-- FSGNJ (R137). -/
  | fsgnj (d a b : BitVec 5) (f : BitVec 2)
  /-- LD_ACQ (R208). -/
  | ldAcq (d a : BitVec 5) (s : BitVec 3) (w : Bool)
  /-- ST_REL (R208). -/
  | stRel (a b : BitVec 5) (s : BitVec 3) (w : Bool)
  /-- AMO_ADD (R208). -/
  | amoAdd (d a b : BitVec 5) (s : BitVec 3) (w : Bool)
  /-- AMO_AND (R208). -/
  | amoAnd (d a b : BitVec 5) (s : BitVec 3) (w : Bool)
  /-- AMO_OR (R208). -/
  | amoOr (d a b : BitVec 5) (s : BitVec 3) (w : Bool)
  /-- AMO_XOR (R208). -/
  | amoXor (d a b : BitVec 5) (s : BitVec 3) (w : Bool)
  /-- AMO_MIN (R208). -/
  | amoMin (d a b : BitVec 5) (s : BitVec 3) (w : Bool)
  /-- AMO_MAX (R208). -/
  | amoMax (d a b : BitVec 5) (s : BitVec 3) (w : Bool)
  /-- AMO_MINU (R208). -/
  | amoMinu (d a b : BitVec 5) (s : BitVec 3) (w : Bool)
  /-- AMO_MAXU (R208). -/
  | amoMaxu (d a b : BitVec 5) (s : BitVec 3) (w : Bool)
  /-- AMO_SWAP (R208). -/
  | amoSwap (d a b : BitVec 5) (s : BitVec 3) (w : Bool)
  /-- AMO_CAS (R208). -/
  | amoCas (d a b : BitVec 5) (s : BitVec 3) (w : Bool)
  /-- AMO_FMAX (R208). -/
  | amoFmax (d a b : BitVec 5) (s : BitVec 3)
  /-- FENCE (R213). -/
  | fence (s : BitVec 3)
  /-- SCOMMIT (R214). -/
  | scommit
  /-- BAR (R216). -/
  | bar (d a : BitVec 5) (s : BitVec 3)
  /-- BARARR (R216). -/
  | bararr (d a : BitVec 5) (s : BitVec 3)
  /-- BARWAIT (R216). -/
  | barwait (a b : BitVec 5) (s : BitVec 3)
  /-- CLAIM (R217). -/
  | claim (d a b : BitVec 5) (s : BitVec 3)
  /-- WAITT (R218). -/
  | waitt (d a : BitVec 5)
  /-- SENDT (R219). -/
  | sendt (a b : BitVec 5)
  /-- RECVCHK (R221). -/
  | recvchk (d a : BitVec 5)
  /-- WAITADDR (R222). -/
  | waitaddr (d a b : BitVec 5) (s : BitVec 3)
  /-- YIELD (R223). -/
  | yield
  /-- LAUNCH (R224). -/
  | launch (d a : BitVec 5)
  /-- XINV (R225). -/
  | xinv (a b : BitVec 5) (s : BitVec 3)
  /-- CSRR (R226). -/
  | csrr (d : BitVec 5) (c : BitVec 12)
  /-- CSRW (R226). -/
  | csrw (d a : BitVec 5) (c : BitVec 12)
  /-- CSRS (R226). -/
  | csrs (d a : BitVec 5) (c : BitVec 12)
  /-- CSRC (R226). -/
  | csrc (d a : BitVec 5) (c : BitVec 12)
  /-- TRAP (R228). -/
  | trap (a : BitVec 5) (i : BitVec 12)
  /-- TRET (R229). -/
  | tret
  /-- VSAVE (R231). -/
  | vsave (d a : BitVec 5)
  /-- VRESTORE (R231). -/
  | vrestore (d a : BitVec 5)
  /-- SCRUB (R231). -/
  | scrub (d a : BitVec 5)
  /-- CTXKILL (R231). -/
  | ctxkill (d a : BitVec 5)
  /-- SETOWN (R231). -/
  | setown (d a : BitVec 5)
  /-- VDECL (R152). -/
  | vdecl (d a : BitVec 5)
  /-- SETVL (R154). -/
  | setvl (d a b : BitVec 5)
  /-- VTAG (R155). -/
  | vtag (d t b : BitVec 5)
  /-- VSHAPE (R156). -/
  | vshape (t : Bool) (g : BitVec 2)
  /-- VMV (R159). -/
  | vmv (k : Bool) (d a : BitVec 5) (e qa : Bool)
  /-- VBCAST (R159). -/
  | vbcast (k : Bool) (d a : BitVec 5) (e : Bool)
  /-- VID (R159). -/
  | vid (k : Bool) (d : BitVec 5) (e : Bool)
  /-- VIDR (R159). -/
  | vidr (k : Bool) (d : BitVec 5) (e : Bool)
  /-- VXTRACT (R159). -/
  | vxtract (k : Bool) (d a b : BitVec 5) (qa : Bool)
  /-- VINSERT (R159). -/
  | vinsert (k : Bool) (d a b : BitVec 5)
  /-- VADD (R160). -/
  | vadd (k : Bool) (d a b : BitVec 5) (w e qa qb : Bool)
  /-- VSUB (R160). -/
  | vsub (k : Bool) (d a b : BitVec 5) (w e qa qb : Bool)
  /-- VMUL (R160). -/
  | vmul (k : Bool) (d a b : BitVec 5) (w e qa qb : Bool)
  /-- VMULH (R160). -/
  | vmulh (k : Bool) (d a b : BitVec 5) (w e qa qb : Bool)
  /-- VMIN (R160). -/
  | vmin (k : Bool) (d a b : BitVec 5) (w e qa qb : Bool)
  /-- VMAX (R160). -/
  | vmax (k : Bool) (d a b : BitVec 5) (w e qa qb : Bool)
  /-- VAND (R160). -/
  | vand (k : Bool) (d a b : BitVec 5) (w e qa qb : Bool)
  /-- VOR (R160). -/
  | vor (k : Bool) (d a b : BitVec 5) (w e qa qb : Bool)
  /-- VXOR (R160). -/
  | vxor (k : Bool) (d a b : BitVec 5) (w e qa qb : Bool)
  /-- VSLL (R160). -/
  | vsll (k : Bool) (d a b : BitVec 5) (w e qa qb : Bool)
  /-- VSRL (R160). -/
  | vsrl (k : Bool) (d a b : BitVec 5) (w e qa qb : Bool)
  /-- VSRA (R160). -/
  | vsra (k : Bool) (d a b : BitVec 5) (w e qa qb : Bool)
  /-- VABS (R160). -/
  | vabs (k : Bool) (d a : BitVec 5) (w e qa : Bool)
  /-- VWMAC (R164). -/
  | vwmac (k : Bool) (d a b : BitVec 5) (e qa qb : Bool)
  /-- VDIV (R160). -/
  | vdiv (k : Bool) (d a b : BitVec 5) (w e qa qb : Bool)
  /-- VREM (R160). -/
  | vrem (k : Bool) (d a b : BitVec 5) (w e qa qb : Bool)
  /-- VCMPEQ (R162). -/
  | vcmpeq (k : Bool) (d a b : BitVec 5) (e qa qb : Bool)
  /-- VCMPLT (R162). -/
  | vcmplt (k : Bool) (d a b : BitVec 5) (e qa qb : Bool)
  /-- VCMPLE (R162). -/
  | vcmple (k : Bool) (d a b : BitVec 5) (e qa qb : Bool)
  /-- VSEL (R163). -/
  | vsel (k : Bool) (d a b : BitVec 5) (w e qa qb : Bool)
  /-- VFADD (R165). -/
  | vfadd (k : Bool) (d a b : BitVec 5) (w e qa qb : Bool)
  /-- VFSUB (R165). -/
  | vfsub (k : Bool) (d a b : BitVec 5) (w e qa qb : Bool)
  /-- VFMUL (R165). -/
  | vfmul (k : Bool) (d a b : BitVec 5) (w e qa qb : Bool)
  /-- VFADD_X (R171). -/
  | vfaddX (k : Bool) (d a b : BitVec 5) (e qa qb : Bool)
  /-- VFSUB_X (R171). -/
  | vfsubX (k : Bool) (d a b : BitVec 5) (e qa qb : Bool)
  /-- VFMUL_X (R171). -/
  | vfmulX (k : Bool) (d a b : BitVec 5) (e qa qb : Bool)
  /-- VFMA (R167). -/
  | vfma (k : Bool) (d a b : BitVec 5) (e qa qb : Bool)
  /-- VFDIV (R165). -/
  | vfdiv (k : Bool) (d a b : BitVec 5) (w e qa qb : Bool)
  /-- VFSQRT (R165). -/
  | vfsqrt (k : Bool) (d a : BitVec 5) (w e qa : Bool)
  /-- VFRCP (R166). -/
  | vfrcp (k : Bool) (d a : BitVec 5) (w e qa : Bool)
  /-- VFEXP2 (R166). -/
  | vfexp2 (k : Bool) (d a : BitVec 5) (w e qa : Bool)
  /-- VFLOG2 (R166). -/
  | vflog2 (k : Bool) (d a : BitVec 5) (w e qa : Bool)
  /-- VFMIN (R165). -/
  | vfmin (k : Bool) (d a b : BitVec 5) (w e qa qb : Bool)
  /-- VFMAX (R165). -/
  | vfmax (k : Bool) (d a b : BitVec 5) (w e qa qb : Bool)
  /-- VFCMPEQ (R168). -/
  | vfcmpeq (k : Bool) (d a b : BitVec 5) (e qa qb : Bool)
  /-- VFCMPLT (R168). -/
  | vfcmplt (k : Bool) (d a b : BitVec 5) (e qa qb : Bool)
  /-- VFCMPLE (R168). -/
  | vfcmple (k : Bool) (d a b : BitVec 5) (e qa qb : Bool)
  /-- VFCLASS (R169). -/
  | vfclass (k : Bool) (d a : BitVec 5) (w e qa : Bool)
  /-- VDWADD (R172). -/
  | vdwadd (k : Bool) (d a b : BitVec 5) (e : Bool)
  /-- VDWMUL (R172). -/
  | vdwmul (k : Bool) (d a b : BitVec 5) (e : Bool)
  /-- VDWNORM (R172). -/
  | vdwnorm (k : Bool) (d a : BitVec 5) (e : Bool)
  /-- VREDSUM_X (R173). -/
  | vredsumX (k : Bool) (d a : BitVec 5) (e : Bool)
  /-- VCVT (R174). -/
  | vcvt (k : Bool) (d a : BitVec 5) (e qa : Bool)
  /-- VSCALE (R175). -/
  | vscale (k : Bool) (d a f : BitVec 5) (e qa : Bool)
  /-- VQUANT (R176). -/
  | vquant (k : Bool) (d a b : BitVec 5) (e qa qb : Bool)
  /-- VDEQ (R177). -/
  | vdeq (k : Bool) (d a b : BitVec 5) (e qa qb : Bool)
  /-- VLD (R180). -/
  | vld (k : Bool) (d a : BitVec 5) (sp o qa : Bool)
  /-- VLDS (R180). -/
  | vlds (k : Bool) (d a b : BitVec 5) (sp o qa : Bool)
  /-- VLDX (R180). -/
  | vldx (k : Bool) (d a b : BitVec 5) (sp o qa : Bool)
  /-- VLDB (R180). -/
  | vldb (k : Bool) (d a b : BitVec 5) (sp o qa : Bool)
  /-- VST (R184). -/
  | vst (k : Bool) (d a : BitVec 5) (sp o : Bool)
  /-- VSTS (R184). -/
  | vsts (k : Bool) (d a b : BitVec 5) (sp o : Bool)
  /-- VSTX (R184). -/
  | vstx (k : Bool) (d a b : BitVec 5) (sp o : Bool)
  /-- VSTT (R205). -/
  | vstt (d a b : BitVec 5)
  /-- VGATHER (R187). -/
  | vgather (k : Bool) (d a b : BitVec 5) (e qb : Bool)
  /-- VSLIDEUP (R188). -/
  | vslideup (k : Bool) (d a b : BitVec 5) (w e qa : Bool)
  /-- VSLIDEDN (R188). -/
  | vslidedn (k : Bool) (d a b : BitVec 5) (w e qa : Bool)
  /-- VCOMPRESS (R189). -/
  | vcompress (k : Bool) (d a b : BitVec 5) (e qa : Bool)
  /-- VEXPAND (R189). -/
  | vexpand (k : Bool) (d a b : BitVec 5) (e qa : Bool)
  /-- VREV (R188). -/
  | vrev (k : Bool) (d a : BitVec 5) (w e qa : Bool)
  /-- VMAND (R190). -/
  | vmand (k : Bool) (d a b : BitVec 5)
  /-- VMOR (R190). -/
  | vmor (k : Bool) (d a b : BitVec 5)
  /-- VMXOR (R190). -/
  | vmxor (k : Bool) (d a b : BitVec 5)
  /-- VMNOT (R190). -/
  | vmnot (k : Bool) (d a : BitVec 5)
  /-- VMPOP (R191). -/
  | vmpop (k : Bool) (d a : BitVec 5)
  /-- VMFFS (R191). -/
  | vmffs (k : Bool) (d a : BitVec 5)
  /-- VMSET (R190). -/
  | vmset (k : Bool) (d a : BitVec 5)
  /-- VMFFSR (R191). -/
  | vmffsr (k : Bool) (d a : BitVec 5)
  /-- VREDSUM (R193). -/
  | vredsum (k : Bool) (d a : BitVec 5) (e qa : Bool)
  /-- VREDMAX (R193). -/
  | vredmax (k : Bool) (d a : BitVec 5) (e qa : Bool)
  /-- VREDMIN (R193). -/
  | vredmin (k : Bool) (d a : BitVec 5) (e qa : Bool)
  /-- VREDAND (R193). -/
  | vredand (k : Bool) (d a : BitVec 5) (e qa : Bool)
  /-- VREDOR (R193). -/
  | vredor (k : Bool) (d a : BitVec 5) (e qa : Bool)
  /-- VSCANSUM (R194). -/
  | vscansum (k : Bool) (d a b : BitVec 5) (e qa : Bool)
  /-- VSCANMAX (R194). -/
  | vscanmax (k : Bool) (d a b : BitVec 5) (e qa : Bool)
  /-- VSCANAND (R194). -/
  | vscanand (k : Bool) (d a b : BitVec 5) (e qa : Bool)
  /-- VSEGSUM (R195). -/
  | vsegsum (k : Bool) (d a b : BitVec 5) (e qa : Bool)
  /-- VSEGMAX (R195). -/
  | vsegmax (k : Bool) (d a b : BitVec 5) (e qa : Bool)
  /-- TAGW (R201). -/
  | tagw (d a b : BitVec 5)
  /-- TAGR (R201). -/
  | tagr (d a : BitVec 5)
  /-- TMATCH (R201). -/
  | tmatch (d a : BitVec 5)
  /-- TOPR_SET (R201). -/
  | toprSet (d a b : BitVec 5) (y : BitVec 3)
  /-- TOPR_ADD (R201). -/
  | toprAdd (d a b : BitVec 5) (y : BitVec 3)
  /-- TOPR_MULS (R201). -/
  | toprMuls (d a b : BitVec 5) (y : BitVec 3)
  /-- TOPR_CLR (R201). -/
  | toprClr (d a : BitVec 5)
  /-- TOPR_RETAG (R201). -/
  | toprRetag (d a b : BitVec 5)
  /-- MZERO (R268). -/
  | mzero (d : BitVec 5)
  /-- MOP (R269). -/
  | mop (d a b : BitVec 5)
  /-- MLDW (R273). -/
  | mldw (d a b : BitVec 5)
  /-- MKEEP (R276). -/
  | mkeep (d a b : BitVec 5)
  /-- MDRAIN (R274). -/
  | mdrain (d a b : BitVec 5)
  /-- MTOV (R275). -/
  | mtov (d a b : BitVec 5)
  /-- MFROMV (R275). -/
  | mfromv (d a b : BitVec 5)
  /-- MWAIT (R265). -/
  | mwait
  /-- DCOPY (R277). -/
  | dcopy (d a b c : BitVec 5)
  /-- DCOPY2D (R278). -/
  | dcopy2d (d a : BitVec 5)
  /-- DFILL (R277). -/
  | dfill (d a b c : BitVec 5)
  /-- TKWAIT (R262). -/
  | tkwait (d a : BitVec 5) (s : BitVec 3)
  /-- TKTEST (R262). -/
  | tktest (d a : BitVec 5) (s : BitVec 3)
  /-- DDEAL (R279). -/
  | ddeal (d a : BitVec 5)
  /-- CMV (R282). -/
  | cmv (d a b c : BitVec 5)
  /-- CWRITE (R280). -/
  | cwrite (d a b : BitVec 5)
  /-- CCOMMIT (R281). -/
  | ccommit (d a : BitVec 5)
  /-- CSTAT (R283). -/
  | cstat (d a : BitVec 5)
  /-- CCAL (R283). -/
  | ccal (d a : BitVec 5)
  /-- BINST (R284). -/
  | binst (d a b c : BitVec 5)
  /-- BMSG (R285). -/
  | bmsg (d a b c : BitVec 5)
  /-- BSTAT (R286). -/
  | bstat (d a : BitVec 5)
  /-- VSCORE (R330). -/
  | vscore (k : Bool) (d a b : BitVec 5) (w : Bool)
  /-- VEXPM (R333). -/
  | vexpm (k : Bool) (d b : BitVec 5) (w : Bool)
  /-- VACCV (R334). -/
  | vaccv (k : Bool) (d b : BitVec 5)
  /-- VSOFTFIN (R335). -/
  | vsoftfin (k : Bool) (d a b : BitVec 5) (qa : Bool)
  /-- VTREEM (R336). -/
  | vtreem (k : Bool) (d a : BitVec 5)
  /-- VACCEPT (R337). -/
  | vaccept (k : Bool) (d a : BitVec 5)
  /-- VCOMMITM (R338). -/
  | vcommitm (k : Bool) (d a b : BitVec 5) (qa : Bool)
  /-- VMAXI (R339). -/
  | vmaxi (k : Bool) (d a b : BitVec 5)
  /-- PDLOOK (R344). -/
  | pdlook (d a b c : BitVec 5)
  /-- PDINS (R345). -/
  | pdins (d a b c : BitVec 5)
  /-- PDREF (R346). -/
  | pdref (d a : BitVec 5)
  /-- PDUNREF (R346). -/
  | pdunref (d a : BitVec 5)
  /-- PDSTAT (R347). -/
  | pdstat (d a : BitVec 5)
  /-- PFX (R112). -/
  | pfx (pm : BitVec 3) (pn : Bool) (em ek : BitVec 3) (dc : BitVec 5) (dce : Bool) (rm : BitVec 3) (sat : Bool)
  /-- HALT (R296). -/
  | bHalt
  /-- LI (R296). -/
  | bLi (d : BitVec 4) (i : BitVec 15)
  /-- BRIXEM_ADD (R296). -/
  | bAdd (d a b : BitVec 4) (i : BitVec 15)
  /-- BRIXEM_SUB (R296). -/
  | bSub (d a b : BitVec 4)
  /-- BRIXEM_AND (R296). -/
  | bAnd (d a b : BitVec 4)
  /-- SHL (R296). -/
  | bShl (d a : BitVec 4) (i : BitVec 6)
  /-- SHR (R296). -/
  | bShr (d a : BitVec 4) (i : BitVec 6)
  /-- BNZ (R296). -/
  | bBnz (a : BitVec 4) (i : BitVec 15)
  /-- BZ (R296). -/
  | bBz (a : BitVec 4) (i : BitVec 15)
  /-- LDQ (R296). -/
  | bLdq (d a : BitVec 4) (i : BitVec 15)
  /-- STQ (R296). -/
  | bStq (a b : BitVec 4) (i : BitVec 15)
  /-- MODE (R291). -/
  | bMode (i : Bool)
  /-- ACT (R296). -/
  | bAct (a : BitVec 4)
  /-- PRE (R296). -/
  | bPre
  /-- XLD (R296). -/
  | bXld (a : BitVec 4) (i : Bool)
  /-- MAC (R297). -/
  | bMac (a b : BitVec 4)
  /-- ACLR (R296). -/
  | bAclr
  /-- ACLR_ENTRY (R296). -/
  | bAclrEntry (b : BitVec 4)
  /-- ARD (R297). -/
  | bArd (a b : BitVec 4)
  /-- ROUT (R296). -/
  | bRout (a : BitVec 4) (i : BitVec 3)
  /-- DEVICE_RESET (R373). -/
  | deviceReset
  /-- BOOT_STAGE (R373). -/
  | bootStage (img : List Byte) (readable passes : Bool)
  /-- CORE_CYCLE (R9). -/
  | coreCycle
  /-- LANE_HOLD_EXPIRY (R25). -/
  | laneHoldExpiry (h : Nat)
  /-- LANE_GRANT (R24). -/
  | laneGrant (core : Nat)
  /-- BUDGET (R340). -/
  | budget
  /-- LAUNCH_WAIT_EXPIRY (R363). -/
  | launchWaitExpiry (ctx : Nat)
  /-- GANG_PLACEMENT (R359). -/
  | gangPlacement (ctx : Nat) (places : List Nat)
  /-- MEMBER_EXIT (R255). -/
  | memberExit (h : Nat)
  /-- BARRIER_COMPLETE (R215). -/
  | barrierComplete (gang bar : Nat)
  /-- WAITT_INSTANT (R44). -/
  | waittInstant (h : Nat)
  /-- WAITADDR_WAKE (R222). -/
  | waitaddrWake (h : Nat)
  /-- SENDT_ARRIVAL (R220). -/
  | sendtArrival (i : Nat)
  /-- MATRIX_EXECUTE (R264). -/
  | matrixExecute (h : Nat)
  /-- COPY_COMPLETE (R277). -/
  | copyComplete (cmd : Nat)
  /-- DEAL_PASSAGE (R341). -/
  | dealPassage (cmd : Nat)
  /-- CWRITE_COMPLETE (R280). -/
  | cwriteComplete (cmd : Nat)
  /-- VERSION_SWITCH (R311). -/
  | versionSwitch (cmd : Nat)
  /-- ARRAY_PASS (R418). -/
  | arrayPass (cmd tile : Nat) (plumbOk : Bool)
  /-- CMV_COMPLETE (R308). -/
  | cmvComplete (cmd : Nat)
  /-- RECALIBRATION (R309). -/
  | recalibration (ctx handle tile : Nat)
  /-- ROTATION_SWITCH (R310). -/
  | rotationSwitch (ctx handle : Nat)
  /-- HANDLER_START (R322). -/
  | handlerStart (chan : Nat)
  /-- MODE_SWITCH_DONE (R291). -/
  | modeSwitchDone (chan : Nat)
  /-- KITTY_SERVICE (R302). -/
  | kittyService (stack : Nat) (normalCost : Nat)
  /-- PATROL (R403). -/
  | patrol (code target at_ : Nat)
  /-- FAULT_HOLD_RELEASE (R422). -/
  | faultHoldRelease (ctx page : Nat)
  /-- CORE_SWITCH (R366). -/
  | coreSwitch (core ctx : Nat)
  /-- LOCAL_STORE_SAVE (R367). -/
  | localStoreSave (core : Nat)
  /-- KILL_SCRUB (R231). -/
  | killScrub (ctx : Nat) (bad : List Nat)
  /-- RELEASE_SCRUB (R379). -/
  | releaseScrub (ctx : Nat) (bad : List Nat)
  /-- ERROR_ENTRY_DONE (R427). -/
  | errorEntryDone (ctx : Nat)
  /-- LINK_DOWN (R424). -/
  | linkDown (link : Nat)
  /-- LINK_RETRAINED (R424). -/
  | linkRetrained (link : Nat)
  /-- PEER_PORT_FAIL (R425). -/
  | peerPortFail (port : Nat)
  /-- HOST_LINK_FAIL (R426). -/
  | hostLinkFail
  /-- HOST_LINK_RESET (R426). -/
  | hostLinkReset
  /-- IDE_INTEGRITY_FAILURE (R427). -/
  | ideIntegrityFailure (ctx : Nat)
  /-- TDISP_VIOLATION (R427). -/
  | tdispViolation (ctx : Nat)
  /-- FLR (R427). -/
  | flr (ctx : Nat)
  /-- LOCK_INTERFACE (R375). -/
  | lockInterface (ctx : Nat)
  /-- START_INTERFACE (R375). -/
  | startInterface (ctx : Nat)
  /-- STOP_INTERFACE (R379). -/
  | stopInterface (ctx : Nat)
  /-- GET_DEVICE_INTERFACE_REPORT (R369). -/
  | getDeviceInterfaceReport (ctx : Nat)
  /-- GET_DEVICE_INTERFACE_STATE (R369). -/
  | getDeviceInterfaceState (ctx : Nat)
  /-- GET_VERSION (R369). -/
  | getVersion
  /-- GET_CAPABILITIES (R369). -/
  | getCapabilities
  /-- NEGOTIATE_ALGORITHMS (R369). -/
  | negotiateAlgorithms (asym hash : Nat)
  /-- GET_DIGESTS (R369). -/
  | getDigests
  /-- GET_CERTIFICATE (R374). -/
  | getCertificate
  /-- CHALLENGE (R369). -/
  | challenge (nonce : List Byte)
  /-- GET_MEASUREMENTS (R374). -/
  | getMeasurements (signed : Bool) (nonce : List Byte)
  /-- KEY_EXCHANGE (R369). -/
  | keyExchange (data : List Byte)
  /-- FINISH (R369). -/
  | finish (data : List Byte)
  /-- IDE_KM (R369). -/
  | ideKm (fn : Nat) (key : BitVec 256)
  /-- D3COLD (R370). -/
  | d3cold
  /-- D3HOT_REQUEST (R370). -/
  | d3hotRequest
  /-- START (R352). -/
  | start (ctx : Nat) (hseq : XWord)
  /-- GRANT (R384). -/
  | grant (mseq : XWord)
  /-- EXPORT (R385). -/
  | exportAudit (mseq : XWord)
  /-- AUDITACK (R432). -/
  | auditack (v : XWord)
  /-- POWER_LIMIT (R386). -/
  | powerLimit (v : XWord)
  /-- POWER_WINDOW (R435). -/
  | powerWindow (watts : Nat)
  /-- REGISTER_WRITE (R5). -/
  | registerWrite (fn off : Nat) (v : XWord)
  /-- HOST_OR_PEER_WRITE (R249). -/
  | hostOrPeerWrite (peer : Bool) (pa : Nat) (data : List Byte)
  /-- CXL_MEM_READ (R372). -/
  | cxlMemRead (pa n : Nat)
  /-- SNOOP_INVALIDATE (R252). -/
  | snoopInvalidate (pa : Nat) (data : List Byte)
  /-- ILLEGAL (R108). -/
  | illegal (word : Word)
  /-- HANDLER_INSTALL (R284). -/
  | handlerInstall (chan : Nat)
  /-- PEER_READ (R407). -/
  | peerRead (pa n : Nat)
  /-- UNKNOWN_OP (R383). -/
  | unknownOp (mseq : XWord)
deriving DecidableEq, Repr

end Sys2Proof
end

