-- ==== Sys2Proof/Config.lean ====
section
/-! DEFINITION. What one Staolan S9 fixes (Tables 1.1 to 1.5, 2.6, 4.6, 22.2) and the values its manual leaves open.
An `opaque` constant is a FREE VALUE: it has no body, so nothing proved of the model can depend on what it is. -/

namespace Sys2Proof
namespace Config

/-! ### Figures of the package (Table 1.1, Table 1.3, R7, R10) -/

/-- Compute cores of the package: 8 dies of 96 (Table 1.1). -/
def cores : Nat := 768
/-- Harts of one core (Table 1.3). -/
def slots : Nat := 8
/-- The first of the four steward harts' keys (Table 1.1): context harts have keys 8·core + slot below it. -/
def stewardBase : Nat := 6144
/-- Steward harts (Table 1.1): their keys are `stewardBase` and the three after it. -/
def stewards : Nat := 4
/-- Compute dies (Table 1.1). -/
def dies : Nat := 8
/-- Cores of one cluster, and of one die (Table 1.1). -/
def coresPerCluster : Nat := 8
def coresPerDie : Nat := 96
/-- Bytes of one core's vector register file (Table 1.3). -/
def vrfBytes : Nat := 2097152
/-- Bytes and rows of one core's scratchpad (Table 1.3, R75, R78). -/
def spBytes : Nat := 2097152
def spRows : Nat := 32768
/-- Bytes of the weight buffer (R87). -/
def wbufBytes : Nat := 524288
/-- MTILE (R86, Table 10.4). -/
def mtile : Nat := 64
/-- Bytes of the strip store buffer (R29). -/
def storeBufBytes : Nat := 16384
/-- Tiles one load queue holds (R38). -/
def queueDepth : Nat := 4
/-- Outstanding tickets of one hart (R224, R261). -/
def maxTickets : Nat := 64
/-- Arrival records of one hart (R221). -/
def maxArrivals : Nat := 8
/-- Instructions of one matrix queue (R264). -/
def matrixQueue : Nat := 16
/-- Entries of one launch queue (R357). -/
def launchQueue : Nat := 32
/-- Records of the audit region (R380). -/
def auditSlots : Nat := 524288
/-- Pseudo-channels, and so slots of device memory (R287). -/
def channels : Nat := 1536
/-- Bytes of one slot and of one frame (R287, R97). -/
def slotBytes : Nat := 536870912
def frameBytes : Nat := 2097152
/-- Bytes of device memory (R92, Table 22.2). -/
def deviceBytes : Nat := 824633720832
/-- The first of the 1,024 frames that the steward keeps for itself at the end of device memory: the error queues, the audit
region and Dovetail's backing (R372, R409; the manual does not say where they lie, log entry 25). -/
def stewardFrame : Nat := 392192
/-- The audit region of 64 MiB, in steward frames (R372, R380). -/
def auditBase : Nat := 822553346048
def auditBytes : Nat := 67108864
/-- Host memory and the peer windows (Table 22.2). -/
def hostBase : Nat := 0x8000000000000
def peerBase : Nat := 0xC000000000000
def peerEnd : Nat := 0xE000000000000
/-- Weight arrays of one weight die, spares included (Table 1.1). -/
def arraysPerDie : Nat := 4352
/-- Arrays in service (R12). -/
def arraysInService : Nat := 16384
/-- The largest Dovetail partition total (R342). -/
def doveEntries : Nat := 4194304
/-- The kitty at device reset, and its caps (R301). -/
def kittyLevel : Nat := 65536
def kittyCredit : Nat := 4096

/-! ### Free values -/

/-- The free values that fresh choices draw, one for each number: ticket values, gang identifiers, IVs, ASIDs.  The
state's counter `free` says which is next. -/
opaque free : Nat → XWord

/-- Whether an agent that may act in a core cycle does so: a convoy drained, an engine's completion reached. -/
opaque happens : Nat → Bool

/-- What the host, the peers, the links and the other agents of the package do in a core cycle, beyond what the device does
of itself. -/
opaque outside : Nat → List Instr

/-- The bits of a register slot above an element narrower than the declared width, after a write of that element: a
function of the width in bytes, of the slot before and of the value written. -/
opaque highBits : Nat → XWord → XWord → XWord

/-- The resources that do not read back what a scrub wrote, by their numbers (R434), for the scrubs of which no event names them. -/
opaque failing : Nat → List Nat

/-- The conversion error of one array conversion code: within 1 of the ideal (R74). -/
opaque convErr : Nat → BitVec 2

/-- The AES-256 key of a context, for each entry to Locked (R375). -/
opaque ctxKey : Nat → BitVec 256

/-- The certificate chain of the device identity key (R374). -/
opaque certChain : List Byte

/-- A Falcon-1024 signature made with the identity key (R374, R385). -/
opaque signature : Nat → List Byte

/-- The bytes of an SPDM or TDISP response that only those standards lay out (R369). -/
opaque responseBytes : Nat → List Byte

end Config
end Sys2Proof
end

