-- ==== Sys2Proof/Machine/State.lean ====
section
/-! DEFINITION. The state of the Staolan S9 as plain data, the reasons a step stops, and the state after device reset. -/

namespace Sys2Proof
namespace Machine

/-! ### Formats, tiles and registers -/

/-- The format tags of Table 3.1. -/
inductive Fmt where
  | bits | i8 | u8 | i16 | u16 | i32 | u32 | i64 | f16 | bf16 | f32 | t8 | t6 | e8
deriving DecidableEq, Repr

/-- A tile: its format tag and its elements, one 64-bit slot per linear index (R18, R48). -/
structure Tile where
  tag : Fmt
  elems : Array XWord
deriving DecidableEq, Repr

/-- A vector register: committed copy and shadow twin (R28). -/
structure VReg where
  com : Tile
  twin : Option Tile
deriving DecidableEq, Repr

/-- A mask register: bit i of the number belongs to linear index i (R18, R190); committed copy and twin (R28). -/
structure MReg where
  com : Nat
  twin : Option Nat
deriving DecidableEq, Repr

/-- One buffered store (R29): S-space or memory, its translated address, its bytes and the virtual address it named. -/
structure StoreRec where
  sp : Bool
  addr : Nat
  data : List Byte
  va : XWord
deriving DecidableEq, Repr

/-- The attention descriptor and the per-row values of VEXPM that travel with `cv` (R328, R332). -/
structure Chain where
  desc : XWord
  idx : BitVec 5
  /-- After VEXPM: mn and alpha of each row, FP32, and the accumulator group. -/
  mn : Array (BitVec 32)
  alpha : Array (BitVec 32)
deriving DecidableEq, Repr

/-- The state of a hart that its convoys read and write, and that a faulting convoy leaves unchanged (R37). -/
structure Regs where
  /-- Address of the next word (R100). -/
  pc : XWord
  x : Vector XWord 32
  vl : Nat
  vr : Nat
  /-- VSHAPE (R157). -/
  gcode : BitVec 2
  tailZero : Bool
  frm : BitVec 3
  fflags : BitVec 7
  seed : BitVec 32
  /-- The 64 stochastic rounding generators (R60). -/
  gens : Vector (BitVec 32) 64
  /-- PFXS (R118). -/
  pfxFields : BitVec 25
  pfxValid : Bool
  vregs : Vector VReg 32
  masks : Vector MReg 8
  /-- Load queues q0 to q3, head first, and their tags (R38). -/
  queues : Vector (List Tile) 4
  qtags : Vector Fmt 4
  /-- The strip store buffer, oldest store first (R29). -/
  storeBuf : List StoreRec
  /-- Within a convoy: the fields of the PFX word that stands before the next member, with that word's address. -/
  pend : Option (BitVec 25 × XWord)
  /-- Within a convoy: the tile of the previous member (R36). -/
  cv : Option Tile
  /-- Within a convoy: what travels from VSCORE and VEXPM (R332). -/
  chain : Option Chain
  /-- Within a convoy: the fields of the PFX word that stands before its first member (R116). -/
  first : Option (BitVec 25)
  /-- Within a convoy: members retired so far (R391, TCn.MEMBER). -/
  member : Nat
deriving DecidableEq, Repr

/-- The checkpoint of the open strip (Table 2.2). -/
structure Ckpt where
  pc : XWord
  x : Vector XWord 32
  vl : Nat
  vr : Nat
  gcode : BitVec 2
  tailZero : Bool
  frm : BitVec 3
  fflags : BitVec 7
  seed : BitVec 32
  gens : Vector (BitVec 32) 64
  pfxFields : BitVec 25
  pfxValid : Bool
  qtags : Vector Fmt 4
deriving DecidableEq, Repr

/-- The trap registers of one level (Table 23.2). -/
structure TrapRegs where
  cause : BitVec 8
  restart : Bool
  fetch : Bool
  write : Bool
  sspace : Bool
  member : BitVec 2
  index : BitVec 19
  /-- TPn (bits 56:0). -/
  tp : BitVec 57
  tv : XWord
  pfx : BitVec 25
  pfxv : Bool
  ptl : BitVec 2
deriving DecidableEq, Repr

/-- An outstanding ticket (R261): its value, and its status word once complete. -/
structure Ticket where
  value : BitVec 16
  cmd : Nat
  status : Option XWord
deriving DecidableEq, Repr

/-- A record of SENDT arrivals (R221). -/
structure Arrival where
  slot : XWord
  stamp : BitVec 16
  count : Nat
deriving DecidableEq, Repr

/-- Why a hart waits (R46 and the rules named). -/
inductive Wait where
  /-- SETVL for lanes (R24): its effect stands and the groups are returned; a pre-emption goes back to it (R398).  The register
  that it wrote, and x[rd], VL and VR before it. -/
  | lanesSetvl (d : BitVec 5) (x : XWord) (vl vr : Nat)
  /-- CLAIM for lanes (R24, R398): the claim stands. -/
  | lanesClaim
  /-- WAITT (R44): until GTIME reaches the time. -/
  | time (t : Nat)
  /-- WAITADDR (R222): its operands; it reads again when it is woken. -/
  | addr (d a b : BitVec 5) (sc : BitVec 3)
  /-- BAR and BARWAIT (R216): the barrier and the generation awaited; BAR's arrival stands. -/
  | barrier (bar gen : Nat)
  /-- A member too far ahead to arrive (R215): executes again. -/
  | arrive
  /-- TKWAIT (R262): executes again. -/
  | ticket
  /-- MWAIT, MTOV and MFROMV, and a full matrix queue (R264, R265, R275): executes again. -/
  | matrix
  /-- An access to a line that an engine owns (R316) or that a handler's recall covers (R322): executes again. -/
  | line
  /-- A normal access held by a pseudo-channel's bank mode or switch (R290): executes again.  The channel, and the GTIME at
  which the access arrived. -/
  | bankMode (chan since : Nat)
  /-- SENDT to a member that is stopped (R367): executes again. -/
  | receiver
  /-- An access across a link that has left L0 (R424): executes again. -/
  | link
  /-- A repeated XLAT held for the page's leader (R421): executes again when released. -/
  | page (ctx page : Nat)
  /-- VOWN raised to the steward (R368): executes again when the steward resumes the hart. -/
  | vown
  /-- An exiting member whose tickets have not completed (R255). -/
  | exit
  /-- STW CTXKILL until the kill of the context is done (R230, R231). -/
  | kill (ctx : Nat)
deriving DecidableEq, Repr

/-- Where a hart slot stands. -/
inductive Live where
  | free      -- no hart
  | running
  | stopped   -- stopped for pre-emption (R47, R366)
deriving DecidableEq, Repr

/-- A vector operand descriptor of MOP, with its register-group data taken when it issued (R266, R269, Table 14.5). -/
structure MopOperand where
  desc : XWord
  /-- A register-group A: its format tag and element (i, k) at index i·K + k. -/
  group : Option (Fmt × Array XWord)
deriving DecidableEq, Repr

/-- An instruction in a hart's matrix queue (R264). -/
inductive MatrixOp where
  | zero (tile : Nat)
  | mop (tile k : Nat) (a b : MopOperand) (mwb : Nat)
  | load (cmd : Nat) (src : XWord) (line count : Nat)
  | drain (cmd tile : Nat) (desc : BitVec 256)
deriving DecidableEq, Repr

/-- One hart (R41, R43, Tables 2.6, 4.2, 4.4, 4.5, 19.6, 23.2). -/
structure Hart where
  live : Live
  /-- A steward hart (Table 1.1): the mode that STW and VOWN check. -/
  steward : Bool
  regs : Regs
  /-- The registers at the start of the convoy that is executing, once its first member has retired. -/
  undo : Option Regs
  ckpt : Ckpt
  /-- Stores of the open strip are performed as they issue (R30). -/
  early : Bool
  /-- GTIME when the open strip opened; while the hart is stopped, the cycles for which its strip has been open (R340). -/
  stripOpened : Nat
  /-- VDECL: granted VLMAX, N and WCODE (R22, R152). -/
  vlmax : Nat
  vn : Nat
  wcode : BitVec 2
  /-- Register space reserved by placement until the first VDECL (R360). -/
  reserve : Nat
  /-- SCP (Table 2.6). -/
  scp : BitVec 57
  tl : BitVec 2
  eft : Bool
  /-- THB.BASE, bits 56:10 (Table 23.2). -/
  thb : BitVec 47
  t1 : TrapRegs
  t2 : TrapRegs
  stampx : BitVec 16
  cyb : BitVec 32
  lat : BitVec 40
  tspanOff : BitVec 6
  tspanLen : BitVec 7
  /-- MWB.LINE (Table 4.4). -/
  mwb : BitVec 12
  ctx : Nat
  gang : Nat
  memberIdx : Nat
  timed : Bool
  cls : BitVec 2
  laneReq : Nat
  /-- GTIME of the last SETVL or CLAIM that took lanes (R25). -/
  laneSince : Nat
  tickets : List Ticket
  arrivals : List Arrival
  matrixQ : List MatrixOp
  wait : Option Wait
  /-- Since when the hart has been ready without issuing, in the order of `readyAt`, `instantAt` and `yieldAt` (R364). -/
  readySince : Nat
  /-- How many of the writes noted in `State.written` the hart executes instructions of: one number for each scope of Table 5.3,
  for the writers that the scope is the first to include (R90, R213). -/
  fenced : Vector Nat 5
  /-- How many of them stand before its last FENCE, XINV, AMO, CLAIM or tag operation: a walk for the hart returns its own among
  them (R98). -/
  ordered : Nat
  /-- Its declaration has been scrubbed (STW SCRUB kind 0), and no image of it restored since (R231, R368). -/
  scrubbed : Bool
  /-- The context key under which the state of the hart is saved while it is stopped (R366, R375). -/
  sealed : Option (BitVec 256)
  /-- The exact instant at which a timed hart issues next (R44). -/
  issueAt : Option Nat
deriving DecidableEq, Repr

/-! ### Cores, gangs and launches -/

/-- The gang number and local stores of a stopped holding gang (R367), saved under a key: they come back under that key alone. -/
structure LocalImage where
  gang : Nat
  /-- The context key under which it is saved (R375). -/
  key : BitVec 256
  request : Nat
  scratch : Map Byte
  tags : Map (BitVec 16)
  acc : Map (Array (BitVec 32))
  tflags : Map (BitVec 7)
  wbuf : Map Byte
  keep : BitVec 1024
  dealExpert : Nat
  dealRound : Nat
  dealRunning : Bool
  dealSlot : Nat
deriving DecidableEq, Repr

/-- A core's local stores and tables (Table 1.3, R24, R76, R86, R276, Table 21.4). -/
structure Core where
  /-- The holding gang and its rounded request (R76). -/
  holder : Option Nat
  /-- The context whose gang's data the local stores hold, or held last (R379). -/
  tenant : Option Nat
  request : Nat
  scratch : Map Byte
  tags : Map (BitVec 16)
  /-- Accumulator tiles a0 to a15 by number: element (i, j) at index 64·i + j, absent elements +0 (R86). -/
  acc : Map (Array (BitVec 32))
  /-- Tile flags (R267). -/
  tflags : Map (BitVec 7)
  wbuf : Map Byte
  keep : BitVec 1024
  /-- The deal position that MKEEP reads (R276). -/
  dealExpert : Nat
  dealRound : Nat
  dealRunning : Bool
  /-- Slots filled so far in the current round (R279). -/
  dealSlot : Nat
  /-- Lane groups, each with the hart slot that holds it (R24). -/
  lanes : Vector (Option Nat) 4
  /-- Harts waiting for lanes, earliest first: the slot and the GTIME at which it began to wait (R24). -/
  laneWait : List (Nat × Nat)
  /-- The slot that last took lanes (R24). -/
  laneLast : Nat
  /-- VOWN (Table 21.4). -/
  owner : BitVec 6
  owned : Bool
  clean : Bool
  /-- The context the core serves, none when idle (R359, R365). -/
  serves : Option Nat
  /-- GTIME of each class's last service in a cycle of step 2 of R364, for vector convoys and for others. -/
  servedVec : Vector Nat 4
  servedOther : Vector Nat 4
  /-- The saved local stores of stopped holding gangs (R367). -/
  saved : List LocalImage
  /-- The context that the core is being moved to, while the local stores of the one it leaves wait to be saved (R366, R367). -/
  moving : Option Nat
  retired : Bool
deriving DecidableEq, Repr

/-- A gang barrier (R215). -/
structure Barrier where
  completed : Nat
  /-- Arrivals made by each member. -/
  arrived : Map Nat
deriving DecidableEq, Repr

/-- A gang (R41, R215). -/
structure Gang where
  gid : BitVec 32
  ctx : Nat
  size : Nat
  cls : BitVec 2
  timed : Bool
  lanes : Nat
  sp : Nat
  record : XWord
  origin : Nat
  /-- The hart key of each member. -/
  members : Map Nat
  exited : List Nat
  bars : Map Barrier
  /-- The launching hart and the ticket's command, or the HSEQ of a root start. -/
  launcher : Option (Nat × Nat)
  rootHseq : Option XWord
deriving DecidableEq, Repr

/-- An accepted launch waiting in a launch queue (R357, R358). -/
structure Launch where
  spec : BitVec 512
  record : XWord
  launcher : Option (Nat × Nat)
  rootHseq : Option XWord
  deps : List Nat
  acceptedAt : Nat
  order : Nat
  /-- Waited 2^20 cycles eligible: stops later launches of its class and below (R363). -/
  blocking : Bool
  /-- GTIME at which it became eligible. -/
  eligibleAt : Option Nat
deriving DecidableEq, Repr

/-! ### Engine commands -/

/-- An installed handler (R292). -/
structure Handler where
  bound : Nat
  span : Nat
  words : Array Word
deriving DecidableEq, Repr

/-- What BINST finds in its image when it issues (R293): a handler, or the CODE and DETAIL with which its ticket ends. -/
inductive ImageRead where
  | good (h : Handler)
  | bad (code detail : Nat)
deriving DecidableEq, Repr

/-- A CMV under way (R281, R283, R304, R311): its handle and version, its input, where its output and status words go,
the integer results of the tiles done, and its counts. -/
structure CmvJob where
  handle : Nat
  version : Nat
  input : List Byte
  out : Nat
  stat : Nat
  split : Bool
  fp : Bool
  done : Map (Array Int)
  retries : Nat
  sat : Nat
  satBits : Nat
  discards : Map Nat
deriving DecidableEq, Repr

/-- What a started engine command will do (R277 to R286). -/
inductive CmdKind where
  | copy (dst src : XWord) (n : Nat) (dsp ssp : Bool)
  | copy2d (desc : BitVec 512)
  | fill (dst pat : XWord) (n : Nat) (dsp : Bool)
  | deal (desc : BitVec 256) (passages : Nat) (cores : List Nat)
  | mload
  | mdrain
  | cwrite (handle : Nat) (desc : BitVec 256)
  | ccommit (handle : Nat)
  | cmv (job : CmvJob)
  | ccal (handle : Nat) (left : List Nat)
  | binst (image : ImageRead) (target slot : Nat)
  | bmsg (target : Nat) (va : XWord) (slot : Nat) (args : List XWord) (reply count : Nat)
  | launch
deriving DecidableEq, Repr

/-- A started command, in the package's order of starts (R317). -/
structure Cmd where
  hart : Nat
  core : Nat
  ctx : Nat
  gang : Nat
  op : Nat
  maj : Nat
  kind : CmdKind
  /-- 128-byte memory lines owned until completion (R316), by line number, and the virtual addresses of lines that did not
  translate at the start: they are owned wherever they come to translate. -/
  lines : List Nat
  late : List XWord
  /-- The pseudo-channel that the command's next access waits for, and the GTIME at which it came there (R290). -/
  since : Option (Nat × Nat) := none
deriving DecidableEq, Repr

/-- A SENDT transfer in flight (R219, R220). -/
structure Transfer where
  slot : XWord
  stamp : BitVec 16
  gang : Nat
  member : Nat
  hart : Nat
  core : Nat
  dst : Nat
  rows : List (List Byte)
  /-- The slot time, when the SENDT issued early enough for the rows to be in place at it (R45). -/
  due : Option Nat
deriving DecidableEq, Repr

/-! ### Memory stacks -/

/-- An accumulator entry of a bank unit (R73, R300): the value in units of 2^-48, its side flags and its residue. -/
structure AccEntry where
  v : BitVec 100
  nan : Bool
  pinf : Bool
  ninf : Bool
  ovf : Bool
  t : BitVec 4
deriving DecidableEq, Repr

/-- A running handler (Table 15.3). -/
structure Run where
  cmd : Nat
  hart : Nat
  slot : Nat
  b : Vector XWord 16
  pcw : Nat
  count : Nat
  lo : Nat
  hi : Nat
  openRow : Option Nat
  reply : Map Byte
  rows : Nat
  replyAt : Nat
  /-- Entry number and failing-bank mask of each ARD mismatch (R417). -/
  arith : List (Nat × Nat)
  /-- The operation of its next word has spent its tokens (R302). -/
  paid : Bool
deriving DecidableEq, Repr

/-- A pseudo-channel: mode, sequencer, bank units (R287 to R294). -/
structure Chan where
  /-- The context that owns the slot as dedicated, none when interleaved (R287). -/
  dedicated : Option Nat
  allBank : Bool
  /-- The mode a switch under way leads to (R291). -/
  switching : Option Bool
  handlers : Map Handler
  run : Option Run
  /-- Bank commands in arrival order (R284). -/
  queue : List Nat
  /-- X registers: value j of bank k at 16·k + j (R294). -/
  x : Map (BitVec 16)
  /-- Accumulator entries: entry e of bank k at 64·k + e (R73). -/
  acc : Map AccEntry
  retired : Bool
deriving DecidableEq, Repr

/-- An operation that waits for tokens (R302, Table 15.6): its cost, whether it is a bank operation, and the pseudo-channel whose
handler makes it, none for one of a normal access of another agent. -/
structure StackOp where
  cost : Nat
  bankOp : Bool
  chan : Option Nat
deriving DecidableEq, Repr

/-- A stack's kitty (R301), and the operations that wait for tokens, oldest first (R302). -/
structure Kitty where
  level : Nat
  credit : Nat
  waiting : List StackOp
deriving DecidableEq, Repr

/-! ### Weight arrays -/

/-- A version of a logical matrix (R280, R303). -/
structure Version where
  num : Nat
  weights : Array Byte
  scales : Option (Array (BitVec 32))
  /-- The array of each tile t·⌈N/1024⌉ + u. -/
  arrays : List Nat
  degraded : Bool
deriving DecidableEq, Repr

/-- A logical matrix handle of a context (R280 to R283). -/
structure Handle where
  kin : Nat
  n : Nat
  cur : Option Version
  pending : Option Version
  /-- Versions replaced but still fixed by a CMV in flight (R304). -/
  old : List Version
  commits : Nat
  /-- The tile being rotated and the spare it goes to (R310). -/
  rotating : Option (Nat × Nat)
deriving DecidableEq, Repr

/-- A physical weight array or spare: the context that holds it, failed, GTIME of its last calibration (R309, R419), and the
contexts of which it has held a tile and not been scrubbed since (R314). -/
structure WArray where
  owner : Option Nat
  failed : Bool
  calibrated : Nat
  held : List Nat
deriving DecidableEq, Repr

/-! ### Dovetail -/

/-- A Dovetail entry (R342). -/
structure DoveEntry where
  parent : Nat
  tokens : List (BitVec 32)
  page : XWord
  count : Nat
  /-- Order of its last use. -/
  used : Nat
deriving DecidableEq, Repr

/-- A context's partition (R342). -/
structure Dove where
  entries : Map DoveEntry
  next : Nat
  quota : Nat
deriving DecidableEq, Repr

/-! ### Contexts -/

/-- The states of Table 22.4. -/
inductive CtxState where
  | free | locked | run | error
deriving DecidableEq, Repr

/-- A grant, reserved or in force (R384). -/
structure Grant where
  frames : List Nat
  slots : List Nat
  arrays : Nat
  dvq : Nat
  nhvis : Nat
  peers : BitVec 8
  hosts : List (Nat × Nat)
  ptroot : Nat
  ptva : XWord
  framesVa : XWord
  ftpa : Nat
deriving DecidableEq, Repr

/-- A status record (Table 22.6). -/
structure StatusRec where
  dseq : XWord
  hseq : XWord
  kind : BitVec 8
  code : BitVec 8
  gtime : XWord
deriving DecidableEq, Repr

/-- Steps of a release, kill or entry to Error that wait for started work (R379, R231, R427). -/
inductive Pending where
  | kill (cause reason pc value : Nat) (gid member : Nat)
  | release
  | error
deriving DecidableEq, Repr

/-- A context (R375). -/
structure Ctx where
  state : CtxState
  asid : BitVec 16
  key : BitVec 256
  reserved : Option Grant
  grant : Option Grant
  hostVisible : Bool
  /-- Start register ADDR and HSEQ (Table 21.1). -/
  startAddr : BitVec 51
  startHseq : XWord
  lastHseq : XWord
  lastDseq : XWord
  /-- The last 16 status records, newest first (Table 22.5). -/
  status : List StatusRec
  rootLive : Bool
  /-- Sixteen launch queues, each oldest first (R357). -/
  queues : Map (List Launch)
  dove : Dove
  handles : Map Handle
  /-- Where STW VSAVE has written images of its harts, each an address and a number of bytes (R231, R379). -/
  images : List (Nat × Nat)
  /-- Error queue: number of the last record, and its physical base (R409). -/
  errLast : Nat
  errBase : Nat
  pending : List Pending
  /-- Whether the context has been killed since it left Free: it is killed once (R400, R433). -/
  killed : Bool
deriving DecidableEq, Repr

/-- What a well-formed page-table entry says (R94, R95): the table of the next level, or a page of some bytes with its R, W and
X. -/
inductive Mapped where
  | table (pa : Nat)
  | page (pa size : Nat) (r w x : Bool)
deriving DecidableEq, Repr

/-- A page-table entry that a die caches (R98): die, ASID, level, the virtual addresses for which it serves, and what it says.
Entries of every level are cached. -/
structure TlbEntry where
  die : Nat
  asid : BitVec 16
  level : Nat
  first : Nat
  reach : Nat
  entry : Mapped
deriving DecidableEq, Repr

/-- The leader of a page whose XLAT is delivered and not released (R421). -/
structure Leader where
  ctx : Nat
  page : Nat
  hart : Nat
  level : BitVec 2
deriving DecidableEq, Repr

/-! ### Host side -/

/-- An audit record (Table 22.9). -/
structure AuditRec where
  seq : XWord
  gtime : XWord
  type : BitVec 8
  ctx : BitVec 6
  data : BitVec 368
  chain : BitVec 512
deriving DecidableEq, Repr

/-- An error record (Table 25.4). -/
structure ErrRec where
  ctx : Option Nat
  eseq : Nat
  kind : Nat
  agent : Nat
  gid : BitVec 32
  va : XWord
  pa : Nat
  gtime : Nat
  aux : Nat
  aux2 : Nat
deriving DecidableEq, Repr

/-- What a structured SPDM answer states (R369): a version, a request that the responder supports, the asymmetric algorithm under
its vendor-defined identifier, a hash and its length in bytes. -/
inductive SpdmOption where
  | version (major minor : Nat)
  | request (code : Nat)
  | falcon1024
  | shake256 (bytes : Nat)
deriving DecidableEq, Repr

/-- An option of a standard of the host link (R369).  `other` stands for every one that Table 22.1 does not name. -/
inductive LinkOption where
  /-- PCIe: the number of lanes, the rate in GT/s, FLIT and non-FLIT mode, the link states above L0, ASPM, the virtual functions of
  SR-IOV, and a DOE mailbox on a function. -/
  | lanes (n : Nat)
  | rate (gts : Nat)
  | flit
  | nonFlit
  | lowPowerState (l : Nat)
  | aspm
  | virtualFunctions (n : Nat)
  | doe (fn : Nat)
  /-- IDE: selective streams, one for each of n functions, and link streams; the bits of an AES-GCM key. -/
  | selectiveIde (functions : Nat)
  | linkIde
  | aesGcm (bits : Nat)
  /-- TDISP and SPDM by their versions; the requests of SPDM are `SpdmOption`s. -/
  | tdisp (major minor : Nat)
  | spdm (major minor : Nat)
  /-- CXL: the version, the device type, its protocols, and IDE for CXL.cachemem in containment or in skid mode. -/
  | cxl (major minor : Nat)
  | cxlType (n : Nat)
  | cxlIo
  | cxlCache
  | cxlMem
  | cxlIdeContainment
  | cxlIdeSkid
  /-- Device power states D0 to D3hot, as 0 to 3, and D3cold, as 4. -/
  | powerState (d : Nat)
  | other (code : Nat)
deriving DecidableEq, Repr

/-- What the device last answered to a party outside it; an SPDM answer has its code, the options that it states, every other
being unsupported, and its bytes. -/
inductive Response where
  | none
  | bytes (l : List Byte)
  | poisoned
  | tdispOk (ctx : Nat)
  | tdispError (ctx : Nat)
  | tdiState (ctx : Nat) (st : CtxState)
  | tdiReport (ctx : Nat) (mmioBytes : Nat)
  | spdm (code : Nat) (offers : List SpdmOption) (body : List Byte)
deriving DecidableEq, Repr

/-- SPDM responder state (R369, R374). -/
structure Spdm where
  versioned : Bool
  capable : Bool
  negotiated : Bool
  session : Bool
  keyed : Bool
deriving DecidableEq, Repr

/-- Function 0's registers and the firmware state behind them (Tables 22.10, 22.12, 26.1, R373). -/
structure Device where
  /-- Measurement slots MS0 to MS7 (R373). -/
  ms : Vector (BitVec 512) 8
  /-- The next boot stage, and BOOTSTAT (Table 26.1). -/
  stage : Nat
  bootStage : BitVec 3
  bootResult : BitVec 2
  epoch : BitVec 24
  /-- A boot that would advance the epoch past its last value (R382). -/
  epochSpent : Bool
  powerLimit : BitVec 8
  throttleStep : BitVec 4
  throttleWindows : BitVec 32
  hostUp : Bool
  peersUp : BitVec 8
  pfail : BitVec 8
  retrain : BitVec 16
  /-- Links that have left L0, each with the GTIME at which it did: 0 the host, 1 + p peer port p (R424). -/
  linksDown : Map Nat
  /-- The host link has failed and not recovered (R426). -/
  hostFailed : Bool
  retiredCores : Nat
  retiredArrays : Nat
  retiredSlots : Nat
  retiredFrames : List Nat
  mseq : XWord
  mdone : XWord
  mreq : List Byte
  mresp : List Byte
  /-- CHAIN of the last audit record of this epoch, 0 before the first (R380, R382); the records themselves lie in the audit
  region of memory.  The registers of R432 follow. -/
  chain : BitVec 512
  floor : XWord
  next : XWord
  ack : XWord
  exported : XWord
  spdm : Spdm
  ideKeys : Map (BitVec 256)
  /-- Error records reported to function 0, newest first (R410). -/
  errors : List ErrRec
  /-- Steward memory: saved images of stopped harts' scalar state stay in `harts`; VOWN raised and not yet served (R368). -/
  vownRaised : List Nat
  response : Response
deriving DecidableEq, Repr

/-- An access of the host or of a peer that waits. -/
inductive Outside where
  | write (peer : Bool) (pa : Nat) (data : List Byte)
  | cxlRead (pa n : Nat)
  | peerRead (pa n : Nat)
  | snoop (pa : Nat) (data : List Byte)
  /-- A START whose record cannot be read yet (R352). -/
  | start (ctx : Nat) (hseq : XWord)
  /-- Writes of registers: of a BAR, of MSEQ, of AUDITACK and of the power limit (R376, R383, R386, R432). -/
  | register (fn off : Nat) (v : XWord)
  | request (mseq : XWord)
  | auditack (v : XWord)
  | power (v : XWord)
deriving DecidableEq, Repr

/-- Who made a write of memory, as far as a scope tells (R232, R234): a hart, an engine of a core, a bank handler, or an agent outside
the device. -/
inductive Writer where
  | hart (k : Nat)
  | engine (core : Nat)
  | handler
  | outside
deriving DecidableEq, Repr

/-- A write performed at the home: its writer, its address, and the bytes there before and after it. -/
structure Written where
  by_ : Writer
  pa : Nat
  old : List Byte
  new : List Byte
deriving DecidableEq, Repr

/-- An XINV that has completed: the ASID and the pages it covers (none: every page), its scope and core, and how many writes of
memory it came after (R98, R225). -/
structure Xinv where
  asid : BitVec 16
  first : Nat
  pages : Nat
  scope : Nat
  core : Nat
  upTo : Nat
deriving DecidableEq, Repr

/-- What an agent of the device does on its own, once it may; each is the event of Instr of that name. -/
inductive Own where
  | laneHold | laneGrant | launchExpiry | placement | memberExit | barrier | waitt | waitaddr | sendt | matrix
  | copy | deal | cwrite | version | pass | cmv | recalibrate | rotation | handler | modeDone
  | localSave | killScrub | releaseScrub | errorDone | handlerInstall | faultHold | vownService | linkFail | outside
deriving DecidableEq, Repr

/-- Whose turn it is. -/
inductive Turn where
  /-- A hart executes its next convoy. -/
  | hart (h : Nat)
  /-- A bank sequencer executes its next Brixem word. -/
  | bank (p : Nat)
  /-- An event of the device or of the outside world takes place. -/
  | event (e : Instr)
  /-- An agent of the device acts: what it does, and the one or two numbers it does it to. -/
  | own (k : Own) (a b : Nat)
  /-- The home poisons a unit that a walk found mismatched, and records it (R98, R406). -/
  | found (agent gang unit : Nat) (va : XWord)
deriving DecidableEq, Repr

/-- The whole package. -/
structure State where
  /-- Turns already decided, first to come first. -/
  agenda : List Turn
  /-- GTIME (R9, R44). -/
  gtime : Nat
  /-- MODEL'S OWN: number of the next free value. -/
  free : Nat
  /-- The hart whose convoy executes, by key 8·core + slot, and its state. -/
  cur : Nat
  hart : Hart
  /-- Every other hart that exists. -/
  harts : Map Hart
  /-- The sequencer whose Brixem word executes. -/
  bank : Nat
  cores : Map Core
  gangs : Map Gang
  nextGang : Nat
  /-- GANGID of every gang placed, by its number: error records of work that outlives its gang carry it (R410). -/
  gids : Map (BitVec 32)
  ctxs : Map Ctx
  cmds : Map Cmd
  nextCmd : Nat
  transfers : List Transfer
  chans : Map Chan
  kitties : Map Kitty
  warrays : Map WArray
  /-- Physical memory: device memory, host memory and peer windows, one cell per byte that is not 0. -/
  mem : List Host.Cell
  /-- The writes of memory performed so far, newest first: what a fetch, or a walk for the writer, may not return yet (R90, R98). -/
  written : List Written
  /-- 16-bit units whose stored residue is not the unit modulo 3, with the code stored; 3 is poison (R299, R406). -/
  badUnits : Map (BitVec 2)
  tlb : List TlbEntry
  /-- The XINVs completed so far, newest first: no access in the scope of one uses an entry that it dropped (R98, R225). -/
  xinvs : List Xinv
  leaders : List Leader
  /-- Accesses of the host and of peers that wait for a line, a bank or a link, or behind one, in arrival order, each with the GTIME
  of its arrival (R250, R290, R316, R424). -/
  waiting : List (Nat × Outside)
  dev : Device
deriving DecidableEq, Repr

/-! ### Why a step stops -/

/-- Why the machine stops. -/
inductive Fault where
  /-- Raised by an event that cannot take place in the state (no such command, hart, context or queue entry): the device
  never takes that step there.  Safe: no claim about a step that happens rests on it. -/
  | notEnabled (event : String)
  /-- Raised when a steward hart meets a cause: the manual gives a trap of a context's hart only (R387, R400), and none
  for the four steward harts.  Safe: nothing is claimed of what follows. -/
  | stewardCause (code : Nat)
  /-- Raised when a turn names a hart or sequencer that has nothing to execute.  Safe, as `notEnabled`. -/
  | noAgent (key : Nat)
deriving DecidableEq, Repr

/-- Why a step is refused. -/
inductive Refusal where
  /-- An instruction that this model gives no meaning yet, by its mnemonic.  Safe: nothing is claimed of it. -/
  | notModelled (mnemonic : String)
deriving DecidableEq, Repr

/-! ### Reset -/

/-- A tile of no elements and tag 0: a register before any VDECL. -/
def Tile.empty : Tile := { tag := .bits, elems := #[] }

/-- The generators at the start of a member: as R60 seeds them from SEED's reset value 0.  DEDUCED. -/
def initialGens : Vector (BitVec 32) 64 :=
  Vector.ofFn (fun l : Fin 64 => if l.val = 0 then 1 else BitVec.ofNat 32 (l.val * 0x9E3779B9))

/-- The registers of a member at its start (R41, R43, Tables 2.6, 3.5, 3.6, 5.9, 7.3). -/
def Regs.initial : Regs :=
  { pc := 0, x := Vector.replicate 32 0, vl := 0, vr := 1, gcode := 0, tailZero := false, frm := 0, fflags := 0,
    seed := 0, gens := initialGens, pfxFields := 0, pfxValid := false,
    vregs := Vector.replicate 32 { com := .empty, twin := none },
    masks := Vector.replicate 8 { com := 0, twin := none },
    queues := Vector.replicate 4 [], qtags := Vector.replicate 4 .bits, storeBuf := [],
    pend := none, cv := none, chain := none, first := none, member := 0 }

/-- A checkpoint of the initial registers. -/
def Ckpt.initial : Ckpt :=
  { pc := 0, x := Vector.replicate 32 0, vl := 0, vr := 1, gcode := 0, tailZero := false, frm := 0, fflags := 0,
    seed := 0, gens := initialGens, pfxFields := 0, pfxValid := false, qtags := Vector.replicate 4 .bits }

/-- Trap registers at the start of a member (Table 23.2). -/
def TrapRegs.initial : TrapRegs :=
  { cause := 0, restart := false, fetch := false, write := false, sspace := false, member := 0, index := 0, tp := 0,
    tv := 0, pfx := 0, pfxv := false, ptl := 0 }

/-- A hart slot that holds no hart. -/
def Hart.initial : Hart :=
  { live := .free, steward := false, regs := .initial, undo := none, ckpt := .initial, early := false, stripOpened := 0, vlmax := 0,
    vn := 0, wcode := 0, reserve := 0, scp := 0, tl := 0, eft := false, thb := 0, t1 := .initial, t2 := .initial,
    stampx := 0, cyb := 0, lat := 0x40000, tspanOff := 0, tspanLen := 64, mwb := 0, ctx := 0, gang := 0,
    memberIdx := 0, timed := false, cls := 0, laneReq := 1, laneSince := 0, tickets := [], arrivals := [],
    matrixQ := [], wait := none, readySince := 0, fenced := Vector.replicate 5 0, ordered := 0,
    scrubbed := false, sealed := none, issueAt := none }

/-- A core after reset: nothing held, VOWN 0, 0 and CLEAN 1 (Table 21.4). -/
def Core.initial : Core :=
  { holder := none, tenant := none, request := 0, scratch := [], tags := [], acc := [], tflags := [], wbuf := [], keep := 0,
    dealExpert := 0, dealRound := 0, dealRunning := false, dealSlot := 0, lanes := Vector.replicate 4 none,
    laneWait := [], laneLast := 7, owner := 0, owned := false, clean := true, serves := none,
    servedVec := Vector.replicate 4 0, servedOther := Vector.replicate 4 0, saved := [], moving := none, retired := false }

/-- A context in Free (Table 22.4). -/
def Ctx.initial : Ctx :=
  { state := .free, asid := 0, key := 0, reserved := none, grant := none, hostVisible := false, startAddr := 0,
    startHseq := 0, lastHseq := 0, lastDseq := 0, status := [], rootLive := false, queues := [],
    dove := { entries := [], next := 1, quota := 0 }, handles := [], images := [], errLast := 0, errBase := 0, pending := [], killed := false }

/-- A pseudo-channel after reset: normal mode, interleaved, all slots empty (R290, R292). -/
def Chan.initial : Chan :=
  { dedicated := none, allBank := false, switching := none, handlers := [], run := none, queue := [], x := [], acc := [],
    retired := false }

/-- A bank accumulator entry after ACLR. -/
def AccEntry.zero : AccEntry :=
  { v := 0, nan := false, pinf := false, ninf := false, ovf := false, t := 0 }

/-- A weight array after reset. -/
def WArray.initial : WArray := { owner := none, failed := false, calibrated := 0, held := [] }

/-- A kitty after reset (R301). -/
def Kitty.initial : Kitty := { level := Config.kittyLevel, credit := Config.kittyCredit, waiting := [] }

/-- Function 0 and the firmware at device reset (R373, Tables 22.10, 26.1).  The boot epoch is the first that a part
advances to. -/
def Device.initial : Device :=
  { ms := Vector.replicate 8 0, stage := 0, bootStage := 0, bootResult := 0, epoch := 1, epochSpent := false, powerLimit := 64,
    throttleStep := 0, throttleWindows := 0, hostUp := true, peersUp := 0, pfail := 0, retrain := 0, linksDown := [], hostFailed := false,
    retiredCores := 0, retiredArrays := 0, retiredSlots := 0, retiredFrames := [], mseq := 0, mdone := 0,
    mreq := List.replicate 256 0, mresp := List.replicate 256 0, chain := 0, floor := 0x10000000000,
    next := 0x10000000000, ack := 0x10000000000, exported := 0x10000000000,
    spdm := { versioned := false, capable := false, negotiated := false, session := false, keyed := false },
    ideKeys := [], errors := [], vownRaised := [], response := .none }

/-- The package right after device reset: no context, no hart, nothing in memory, the boot ROM about to load its first
stage (R373). -/
def State.reset : State :=
  { agenda := [], gtime := 0, free := 0, cur := 0, hart := .initial, harts := [], bank := 0, cores := [], gangs := [],
    nextGang := 1, gids := [], ctxs := [], cmds := [], nextCmd := 0, transfers := [], chans := [], kitties := [], warrays := [],
    mem := [], written := [], badUnits := [], tlb := [], xinvs := [], leaders := [], waiting := [], dev := .initial }

end Machine
end Sys2Proof
end

