-- ==== Sys2Proof/Machine/Bits.lean ====
section
/-! DEFINITION. Bit-field, extension and byte-order helpers, keyed lists, and sets of linear indices as numbers. -/

namespace Sys2Proof
namespace Machine

/-! ### Extension and fields -/

/-- The low `n` bits of a word, sign-extended or zero-extended to 64 bits. -/
def sext (n : Nat) (w : XWord) : XWord := (w.setWidth n).signExtend 64
def zext (n : Nat) (w : XWord) : XWord := (w.setWidth n).setWidth 64

/-- Bits lo+n−1 … lo of a number. -/
def bitsAt (v lo n : Nat) : Nat := v / 2 ^ lo % 2 ^ n

/-- Bits lo+n−1 … lo of a 64-bit word. -/
def xbits (w : XWord) (lo n : Nat) : Nat := bitsAt w.toNat lo n

/-- A 57-bit virtual address is canonical when bits 63:57 all equal bit 56 (R92). -/
def canonical (a : XWord) : Bool := sext 57 a == a

def alignedTo (a : XWord) (n : Nat) : Bool := a.toNat % n == 0

def xword (n : Nat) : XWord := BitVec.ofNat 64 n

/-- The smallest multiple of `k` at or above `n`. -/
def roundUp (n k : Nat) : Nat := (n + (k - 1)) / k * k

/-! ### Bytes, the lowest address first -/

def leNat : List Byte → Nat
  | [] => 0
  | b :: bs => b.toNat + 256 * leNat bs

def leBytes : Nat → Nat → List Byte
  | 0, _ => []
  | n + 1, v => BitVec.ofNat 8 v :: leBytes n (v / 256)

/-- A list of `n` consecutive numbers from `a`. -/
def span (a : Nat) : Nat → List Nat
  | 0 => []
  | n + 1 => a :: span (a + 1) n

/-! ### Keyed lists, keys strictly rising -/

def mget? {α : Type} : Map α → Nat → Option α
  | [], _ => none
  | (k, v) :: t, a => if a = k then some v else if a < k then none else mget? t a

def mgetD {α : Type} (m : Map α) (a : Nat) (d : α) : α := (mget? m a).getD d

def mset {α : Type} : Map α → Nat → α → Map α
  | [], a, x => [(a, x)]
  | (k, v) :: t, a, x =>
    if a = k then (a, x) :: t else if a < k then (a, x) :: (k, v) :: t else (k, v) :: mset t a x

def mdel {α : Type} : Map α → Nat → Map α
  | [], _ => []
  | (k, v) :: t, a => if a = k then t else if a < k then (k, v) :: t else (k, v) :: mdel t a

def mkeys {α : Type} (m : Map α) : List Nat := m.map (·.1)
def mvals {α : Type} (m : Map α) : List α := m.map (·.2)

/-- The values changed, keys kept. -/
def mmap {α : Type} (f : Nat → α → α) (m : Map α) : Map α := m.map (fun kv => (kv.1, f kv.1 kv.2))

/-- An entry kept only when it is not the value that an absent entry stands for. -/
def mput {α : Type} [DecidableEq α] (d : α) (m : Map α) (a : Nat) (x : α) : Map α := if x = d then mdel m a else mset m a x

/-! ### Sets of linear indices as numbers: bit i stands for index i -/

def inSet (m i : Nat) : Bool := m.testBit i
def addIndex (m i : Nat) : Nat := m ||| 2 ^ i

/-- The set of the indices of a list. -/
def setOf (is : List Nat) : Nat := is.foldl addIndex 0

/-- Bits that are set among the low `n`. -/
def countBits (m : Nat) : Nat → Nat
  | 0 => 0
  | n + 1 => countBits m n + (if m.testBit n then 1 else 0)

/-- Leading zeros among the low `n` bits. -/
def leadingZeros (m : Nat) : Nat → Nat
  | 0 => 0
  | n + 1 => if m.testBit n then 0 else 1 + leadingZeros m n

end Machine
end Sys2Proof
end

