-- ==== Sys2Proof/Machine/Crypto.lean ====
section
/-! DEFINITION. SHAKE256 (R373, R380) and AES-GCM-256 (R231), as FIPS 202, FIPS 197 and SP 800-38D give them: the manual
names the functions and leaves them to those standards (PRESUMED). -/

namespace Sys2Proof
namespace Machine

/-! ### SHAKE256 -/

/-- Rotation offsets of lane x + 5·y. -/
def keccakRot : List Nat :=
  [0, 1, 62, 28, 27, 36, 44, 6, 55, 20, 3, 10, 43, 25, 39, 41, 45, 15, 21, 8, 18, 2, 61, 56, 14]

def keccakRc : List XWord :=
  [0x0000000000000001, 0x0000000000008082, 0x800000000000808A, 0x8000000080008000, 0x000000000000808B, 0x0000000080000001,
   0x8000000080008081, 0x8000000000008009, 0x000000000000008A, 0x0000000000000088, 0x0000000080008009, 0x000000008000000A]
  ++ [0x000000008000808B, 0x800000000000008B, 0x8000000000008089, 0x8000000000008003, 0x8000000000008002, 0x8000000000000080,
   0x000000000000800A, 0x800000008000000A, 0x8000000080008081, 0x8000000000008080, 0x0000000080000001, 0x8000000080008008]

/-- Lane x + 5·y of a state. -/
def lane (a : Array XWord) (x y : Nat) : XWord := a.getD (x % 5 + 5 * (y % 5)) 0

def lanes25 (f : Nat → Nat → XWord) : Array XWord := ((span 0 25).map (fun i => f (i % 5) (i / 5))).toArray

/-- One round. -/
def keccakRound (a : Array XWord) (rc : XWord) : Array XWord :=
  let c := fun x => lane a x 0 ^^^ lane a x 1 ^^^ lane a x 2 ^^^ lane a x 3 ^^^ lane a x 4
  let cs := ((span 0 5).map c).toArray
  let d := fun x => cs.getD ((x + 4) % 5) 0 ^^^ (cs.getD ((x + 1) % 5) 0).rotateLeft 1
  let t := lanes25 (fun x y => lane a x y ^^^ d x)
  -- lane (y, 2x + 3y) of the permuted state is lane (x, y) rotated
  let b := lanes25 (fun x y =>
    let u := (x + 3 * y) % 5
    (lane t u x).rotateLeft (keccakRot.getD (u + 5 * x) 0))
  let e := lanes25 (fun x y => lane b x y ^^^ (~~~(lane b (x + 1) y) &&& lane b (x + 2) y))
  e.setIfInBounds 0 (lane e 0 0 ^^^ rc)

def keccakF (a : Array XWord) : Array XWord := keccakRc.foldl keccakRound a

/-- Bytes per block of SHAKE256. -/
def shakeRate : Nat := 136

/-- A block of bytes as the lanes that it is added to. -/
def absorbBlock (a : Array XWord) (block : List Byte) : Array XWord :=
  let v := leNat block
  a.mapIdx (fun i x => x ^^^ BitVec.ofNat 64 (v / 2 ^ (64 * i)))

def absorb : Nat → Array XWord → List Byte → Array XWord
  | 0, a, _ => a
  | n + 1, a, bs =>
    let rest := bs.drop shakeRate
    let a := keccakF (absorbBlock a (bs.take shakeRate))
    if rest.isEmpty then a else absorb n a rest

def stateBytes (a : Array XWord) : List Byte := a.toList.flatMap (fun x => leBytes 8 x.toNat)

def squeeze : Nat → Array XWord → Nat → List Byte
  | 0, _, _ => []
  | f + 1, a, n =>
    let out := (stateBytes a).take shakeRate
    if n ≤ shakeRate then out.take n else out ++ squeeze f (keccakF a) (n - shakeRate)

/-- The message with the SHAKE suffix and padding: a whole number of blocks. -/
def shakePad (m : List Byte) : List Byte :=
  let gap := shakeRate - m.length % shakeRate
  if gap = 1 then m ++ [0x9F] else m ++ 0x1F :: List.replicate (gap - 2) 0 ++ [0x80]

/-- SHAKE256 with an n-byte output. -/
def shake256 (m : List Byte) (n : Nat) : List Byte :=
  let p := shakePad m
  squeeze (n / shakeRate + 1) (absorb (p.length / shakeRate) (Array.replicate 25 0) p) n

/-! ### AES-256 -/

/-- Multiplication by x in GF(2^8), and by another element. -/
def xtime (b : Byte) : Byte := (b <<< 1) ^^^ (if b.msb then 0x1B else 0)

def gfMulFrom (b : Byte) : Nat → Byte → Byte → Byte
  | 0, _, r => r
  | n + 1, a, r => gfMulFrom b n (xtime a) (if b.getLsbD (8 - (n + 1)) then r ^^^ a else r)

def gfMul (a b : Byte) : Byte := gfMulFrom b 8 a 0

/-- b^254, the inverse. -/
def gfInv (b : Byte) : Byte :=
  let b2 := gfMul b b
  let b4 := gfMul b2 b2
  let b8 := gfMul b4 b4
  let b16 := gfMul b8 b8
  let b32 := gfMul b16 b16
  let b64 := gfMul b32 b32
  let b128 := gfMul b64 b64
  gfMul b128 (gfMul b64 (gfMul b32 (gfMul b16 (gfMul b8 (gfMul b4 b2)))))

def sbox (b : Byte) : Byte :=
  let i := gfInv b
  i ^^^ i.rotateLeft 1 ^^^ i.rotateLeft 2 ^^^ i.rotateLeft 3 ^^^ i.rotateLeft 4 ^^^ 0x63

def sboxTable : Array Byte := ((span 0 256).map (fun n => sbox (BitVec.ofNat 8 n))).toArray

def subByte (b : Byte) : Byte := sboxTable.getD b.toNat 0

/-- The next key word, from the words so far, latest first: word i of a 256-bit key schedule. -/
def nextWord (i : Nat) (rcon : Byte) (ws : List (List Byte)) : List Byte :=
  let t := ws.headD []
  let t := if i % 8 = 0 then (match (t.drop 1 ++ t.take 1).map subByte with
      | b :: bs => (b ^^^ rcon) :: bs
      | [] => [])
    else if i % 8 = 4 then t.map subByte
    else t
  List.zipWith (· ^^^ ·) t (ws.getD 7 [])

def expandFrom : Nat → Nat → Byte → List (List Byte) → List (List Byte)
  | 0, _, _, ws => ws
  | n + 1, i, rcon, ws => expandFrom n (i + 1) (if i % 8 = 0 then xtime rcon else rcon) (nextWord i rcon ws :: ws)

/-- A list cut into pieces of k. -/
def pieces {α : Type} (k : Nat) : Nat → List α → List (List α)
  | 0, _ => []
  | n + 1, l => l.take k :: pieces k n (l.drop k)

/-- The fifteen round keys of a 32-byte key. -/
def roundKeys (key : List Byte) : List (List Byte) :=
  let ws := (expandFrom 52 8 1 (pieces 4 8 key).reverse).reverse
  (pieces 4 15 ws).map List.flatten

def shiftRows (s : List Byte) : List Byte := (span 0 16).map (fun i => s.getD ((i + 4 * (i % 4)) % 16) 0)

def mixColumn (c : List Byte) : List Byte :=
  (span 0 4).map (fun i =>
    let g := fun j => c.getD ((i + j) % 4) 0
    xtime (g 0) ^^^ (xtime (g 1) ^^^ g 1) ^^^ g 2 ^^^ g 3)

def addKey (s k : List Byte) : List Byte := List.zipWith (· ^^^ ·) s k

def aesRounds : List (List Byte) → List Byte → List Byte
  | [], s => s
  | [k], s => addKey (shiftRows (s.map subByte)) k
  | k :: ks, s => aesRounds ks (addKey ((pieces 4 4 (shiftRows (s.map subByte))).flatMap mixColumn) k)

/-- One block under a key schedule. -/
def aesBlock (ks : List (List Byte)) (b : List Byte) : List Byte :=
  match ks with
  | [] => b
  | k :: rest => aesRounds rest (addKey b k)

/-! ### GCM -/

/-- A 16-byte block as a number, first byte highest. -/
def beNat (bs : List Byte) : Nat := bs.foldl (fun n b => 256 * n + b.toNat) 0
def beBytes (n v : Nat) : List Byte := (leBytes n v).reverse

/-- Product in GCM's field, block bit 0 the most significant bit. -/
def ghashMulFrom (x : Nat) : Nat → Nat → Nat → Nat
  | 0, _, z => z
  | n + 1, v, z =>
    ghashMulFrom x n (if v.testBit 0 then (v / 2) ^^^ (0xE1 * 2 ^ 120) else v / 2) (if x.testBit n then z ^^^ v else z)

def ghashMul (x y : Nat) : Nat := ghashMulFrom x 128 y 0

/-- Blocks of 16 bytes, the last one padded with zeros. -/
def blocks16 (bs : List Byte) : List (List Byte) :=
  (pieces 16 ((bs.length + 15) / 16) bs).map (fun b => b ++ List.replicate (16 - b.length) 0)

def ghash (h : Nat) (bs : List (List Byte)) : Nat := bs.foldl (fun y b => ghashMul (y ^^^ beNat b) h) 0

/-- Counter mode from counter value c on. -/
def ctrBlocks (ks : List (List Byte)) (iv : List Byte) : Nat → Nat → List Byte → List Byte
  | 0, _, _ => []
  | n + 1, c, bs =>
    List.zipWith (· ^^^ ·) (bs.take 16) (aesBlock ks (iv ++ beBytes 4 c)) ++ ctrBlocks ks iv n (c + 1) (bs.drop 16)

/-- The tag of a ciphertext with no associated data. -/
def gcmTag (ks : List (List Byte)) (iv ct : List Byte) : List Byte :=
  let h := beNat (aesBlock ks (List.replicate 16 0))
  let y := ghash h (blocks16 ct ++ [beBytes 8 0 ++ beBytes 8 (8 * ct.length)])
  List.zipWith (· ^^^ ·) (beBytes 16 y) (aesBlock ks (iv ++ beBytes 4 1))

/-- A 256-bit key as the 32 bytes of its key schedule, least significant byte first. -/
def keyBytes (k : BitVec 256) : List Byte := leBytes 32 k.toNat

/-- IV, ciphertext and tag of a plaintext. -/
def gcmSeal (key : BitVec 256) (iv pt : List Byte) : List Byte :=
  let ks := roundKeys (keyBytes key)
  let ct := ctrBlocks ks iv ((pt.length + 15) / 16) 2 pt
  iv ++ ct ++ gcmTag ks iv ct

/-- The plaintext of an image, when its tag holds. -/
def gcmOpen (key : BitVec 256) (image : List Byte) : Option (List Byte) :=
  if image.length < 28 then none
  else
    let ks := roundKeys (keyBytes key)
    let iv := image.take 12
    let ct := (image.drop 12).take (image.length - 28)
    if gcmTag ks iv ct = image.drop (image.length - 16) then some (ctrBlocks ks iv ((ct.length + 15) / 16) 2 ct) else none

end Machine
end Sys2Proof
end

