-- ==== Sys2Proof/WellFormed.lean ====
section
/-! DEFINITION. Which instructions are well formed: the operand rules of R104 to R107 and of the entries that the word alone
decides, and which instructions may join a convoy (R34). -/

namespace Sys2Proof

/-- A scope code of Table 5.3 (R105). -/
def scopeOk (s : BitVec 3) : Bool := decide (s.toNat ≤ 4)

/-- A va or vb field whose QA or QB bit is q: with q set it names q0 to q3 or `cv` (R104). -/
def sourceOk (q : Bool) (a : BitVec 5) : Bool := !q || decide (a.toNat ≤ 4)

/-- A W bit of 0 needs vd = 0 (R104). -/
def resultOk (w : Bool) (d : BitVec 5) : Bool := w || d == 0

/-- A field that names a mask register (R104). -/
def maskOk (m : BitVec 5) : Bool := decide (m.toNat ≤ 7)

/-- A field that names an accumulator tile (R104). -/
def tileOk (a : BitVec 5) : Bool := decide (a.toNat ≤ 15)

/-- The CSR numbers of Table 10.4 (R227). -/
def csrAssigned (c : BitVec 12) : Bool :=
  let n := c.toNat
  n ≤ 3 || (8 ≤ n && n ≤ 0xC) || n == 0x10 || (0x12 ≤ n && n ≤ 0x15) || n == 0x20 || n == 0x21 || (0x30 ≤ n && n ≤ 0x39)
    || (0x40 ≤ n && n ≤ 0x44) || n == 0x50

/-- Whether every field of an instruction holds a value that R103 to R107 and its own entry allow: the rules that the word
alone decides.  Rules that need the tags, the group factor or a register are checked where the instruction executes. -/
def Instr.wf : Instr → Bool
  | .add _ _ _ _ => true
  | .sub _ _ _ _ => true
  | .and _ _ _ => true
  | .or _ _ _ => true
  | .xor _ _ _ => true
  | .andn _ _ _ => true
  | .sll _ _ _ _ => true
  | .srl _ _ _ _ => true
  | .sra _ _ _ _ => true
  | .slt _ _ _ => true
  | .sltu _ _ _ => true
  | .min _ _ _ => true
  | .max _ _ _ => true
  | .minu _ _ _ => true
  | .maxu _ _ _ => true
  | .mul _ _ _ _ => true
  | .mulh _ _ _ => true
  | .mulhu _ _ _ => true
  | .div _ _ _ _ => true
  | .divu _ _ _ _ => true
  | .rem _ _ _ _ => true
  | .remu _ _ _ _ => true
  | .clz _ _ _ => true
  | .popc _ _ _ => true
  | .addi _ _ _ => true
  | .andi _ _ _ => true
  | .ori _ _ _ => true
  | .xori _ _ _ => true
  | .slti _ _ _ => true
  | .slli _ _ _ => true
  | .srli _ _ _ => true
  | .srai _ _ _ => true
  | .lui _ _ => true
  | .auipc _ _ => true
  | .ldB _ _ _ => true
  | .ldH _ _ _ => true
  | .ldW _ _ _ => true
  | .ldD _ _ _ => true
  | .ldBu _ _ _ => true
  | .ldHu _ _ _ => true
  | .ldWu _ _ _ => true
  | .stB _ _ _ => true
  | .stH _ _ _ => true
  | .stW _ _ _ => true
  | .stD _ _ _ => true
  | .beq _ _ _ => true
  | .bne _ _ _ => true
  | .blt _ _ _ => true
  | .bge _ _ _ => true
  | .bltu _ _ _ => true
  | .bgeu _ _ _ => true
  | .jal _ _ => true
  | .jalr _ _ _ => true
  | .fadd _ _ _ _ rm => rm != 6
  | .fsub _ _ _ _ rm => rm != 6
  | .fmul _ _ _ _ rm => rm != 6
  | .fdiv _ _ _ _ rm => rm != 6
  | .fsqrt _ _ _ rm => rm != 6
  | .fmin _ _ _ _ => true
  | .fmax _ _ _ _ => true
  | .fma _ _ _ _ rm => rm != 6
  | .feq _ _ _ _ => true
  | .flt _ _ _ _ => true
  | .fle _ _ _ _ => true
  | .fclass _ _ _ => true
  | .fcvtI _ _ kind _ rm => rm != 6 && decide (kind.toNat ≤ 3)
  | .fcvtF _ _ kind _ rm => rm != 6 && decide (kind.toNat ≤ 3)
  | .fcvt _ _ kind _ rm => rm != 6 && decide (kind.toNat ≤ 3)
  | .fsgnj _ _ _ _ => true
  | .ldAcq _ _ s _ => scopeOk s
  | .stRel _ _ s _ => scopeOk s
  | .amoAdd _ _ _ s _ => scopeOk s
  | .amoAnd _ _ _ s _ => scopeOk s
  | .amoOr _ _ _ s _ => scopeOk s
  | .amoXor _ _ _ s _ => scopeOk s
  | .amoMin _ _ _ s _ => scopeOk s
  | .amoMax _ _ _ s _ => scopeOk s
  | .amoMinu _ _ _ s _ => scopeOk s
  | .amoMaxu _ _ _ s _ => scopeOk s
  | .amoSwap _ _ _ s _ => scopeOk s
  | .amoCas _ _ _ s _ => scopeOk s
  | .amoFmax _ _ _ s => scopeOk s
  | .fence s => scopeOk s
  | .scommit => true
  | .bar _ _ s => scopeOk s
  | .bararr _ _ s => scopeOk s
  | .barwait _ _ s => scopeOk s
  | .claim _ _ _ s => scopeOk s
  | .waitt _ _ => true
  | .sendt _ _ => true
  | .recvchk _ _ => true
  | .waitaddr _ _ _ s => scopeOk s
  | .yield => true
  | .launch _ _ => true
  | .xinv _ _ s => decide (s.toNat ≤ 3)
  | .csrr _ c => csrAssigned c
  | .csrw _ _ c => csrAssigned c
  | .csrs _ _ c => csrAssigned c
  | .csrc _ _ c => csrAssigned c
  | .trap _ _ => true
  | .tret => true
  | .vsave _ _ => true
  | .vrestore _ _ => true
  | .scrub _ _ => true
  | .ctxkill _ _ => true
  | .setown _ _ => true
  | .vdecl _ _ => true
  | .setvl _ _ _ => true
  | .vtag d t b => decide (t.toNat ≤ 13) && decide (b.toNat ≤ 1) && (b == 0 || decide (d.toNat ≤ 3))
  | .vshape _ _ => true
  | .vmv _ _ a _ qa => sourceOk qa a
  | .vbcast _ _ _ _ => true
  | .vid _ _ _ => true
  | .vidr _ _ _ => true
  | .vxtract _ _ a _ qa => sourceOk qa a
  | .vinsert _ _ _ _ => true
  | .vadd _ d a b w _ qa qb => sourceOk qa a && sourceOk qb b && resultOk w d
  | .vsub _ d a b w _ qa qb => sourceOk qa a && sourceOk qb b && resultOk w d
  | .vmul _ d a b w _ qa qb => sourceOk qa a && sourceOk qb b && resultOk w d
  | .vmulh _ d a b w _ qa qb => sourceOk qa a && sourceOk qb b && resultOk w d
  | .vmin _ d a b w _ qa qb => sourceOk qa a && sourceOk qb b && resultOk w d
  | .vmax _ d a b w _ qa qb => sourceOk qa a && sourceOk qb b && resultOk w d
  | .vand _ d a b w _ qa qb => sourceOk qa a && sourceOk qb b && resultOk w d
  | .vor _ d a b w _ qa qb => sourceOk qa a && sourceOk qb b && resultOk w d
  | .vxor _ d a b w _ qa qb => sourceOk qa a && sourceOk qb b && resultOk w d
  | .vsll _ d a b w _ qa qb => sourceOk qa a && sourceOk qb b && resultOk w d
  | .vsrl _ d a b w _ qa qb => sourceOk qa a && sourceOk qb b && resultOk w d
  | .vsra _ d a b w _ qa qb => sourceOk qa a && sourceOk qb b && resultOk w d
  | .vabs _ d a w _ qa => sourceOk qa a && resultOk w d
  | .vwmac _ _ a b _ qa qb => sourceOk qa a && sourceOk qb b
  | .vdiv _ d a b w _ qa qb => sourceOk qa a && sourceOk qb b && resultOk w d
  | .vrem _ d a b w _ qa qb => sourceOk qa a && sourceOk qb b && resultOk w d
  | .vcmpeq _ d a b _ qa qb => sourceOk qa a && sourceOk qb b && maskOk d
  | .vcmplt _ d a b _ qa qb => sourceOk qa a && sourceOk qb b && maskOk d
  | .vcmple _ d a b _ qa qb => sourceOk qa a && sourceOk qb b && maskOk d
  | .vsel _ d a b w _ qa qb => sourceOk qa a && sourceOk qb b && resultOk w d
  | .vfadd _ d a b w _ qa qb => sourceOk qa a && sourceOk qb b && resultOk w d
  | .vfsub _ d a b w _ qa qb => sourceOk qa a && sourceOk qb b && resultOk w d
  | .vfmul _ d a b w _ qa qb => sourceOk qa a && sourceOk qb b && resultOk w d
  | .vfaddX _ _ a b _ qa qb => sourceOk qa a && sourceOk qb b
  | .vfsubX _ _ a b _ qa qb => sourceOk qa a && sourceOk qb b
  | .vfmulX _ _ a b _ qa qb => sourceOk qa a && sourceOk qb b
  | .vfma _ _ a b _ qa qb => sourceOk qa a && sourceOk qb b
  | .vfdiv _ d a b w _ qa qb => sourceOk qa a && sourceOk qb b && resultOk w d
  | .vfsqrt _ d a w _ qa => sourceOk qa a && resultOk w d
  | .vfrcp _ d a w _ qa => sourceOk qa a && resultOk w d
  | .vfexp2 _ d a w _ qa => sourceOk qa a && resultOk w d
  | .vflog2 _ d a w _ qa => sourceOk qa a && resultOk w d
  | .vfmin _ d a b w _ qa qb => sourceOk qa a && sourceOk qb b && resultOk w d
  | .vfmax _ d a b w _ qa qb => sourceOk qa a && sourceOk qb b && resultOk w d
  | .vfcmpeq _ d a b _ qa qb => sourceOk qa a && sourceOk qb b && maskOk d
  | .vfcmplt _ d a b _ qa qb => sourceOk qa a && sourceOk qb b && maskOk d
  | .vfcmple _ d a b _ qa qb => sourceOk qa a && sourceOk qb b && maskOk d
  | .vfclass _ d a w _ qa => sourceOk qa a && resultOk w d
  | .vdwadd _ _ _ _ _ => true
  | .vdwmul _ _ _ _ _ => true
  | .vdwnorm _ _ _ _ => true
  | .vredsumX _ _ _ _ => true
  | .vcvt _ _ a _ qa => sourceOk qa a
  | .vscale _ _ a f _ qa => sourceOk qa a && (f == 1 || f == 8 || f == 11 || f == 12)
  | .vquant _ _ a b _ qa qb => sourceOk qa a && sourceOk qb b
  | .vdeq _ _ a b _ qa qb => sourceOk qa a && sourceOk qb b
  | .vld _ d _ sp o qa => (!o || sp) && (!qa || decide (d.toNat ≤ 3))
  | .vlds _ d _ _ sp o qa => (!o || sp) && (!qa || decide (d.toNat ≤ 3))
  | .vldx _ d _ _ sp o qa => (!o || sp) && (!qa || decide (d.toNat ≤ 3))
  | .vldb _ d _ _ sp o qa => (!o || sp) && (!qa || decide (d.toNat ≤ 3))
  | .vst _ _ _ sp o => (!o || sp)
  | .vsts _ _ _ _ sp o => (!o || sp)
  | .vstx _ _ _ _ sp o => (!o || sp)
  | .vstt _ _ _ => true
  | .vgather _ _ _ b _ qb => sourceOk qb b
  | .vslideup _ d a _ w _ qa => sourceOk qa a && resultOk w d
  | .vslidedn _ d a _ w _ qa => sourceOk qa a && resultOk w d
  | .vcompress _ _ a b _ qa => sourceOk qa a && maskOk b
  | .vexpand _ _ a b _ qa => sourceOk qa a && maskOk b
  | .vrev _ d a w _ qa => sourceOk qa a && resultOk w d
  | .vmand _ d a b => maskOk d && maskOk a && maskOk b
  | .vmor _ d a b => maskOk d && maskOk a && maskOk b
  | .vmxor _ d a b => maskOk d && maskOk a && maskOk b
  | .vmnot _ d a => maskOk d && maskOk a
  | .vmpop _ _ a => maskOk a
  | .vmffs _ _ a => maskOk a
  | .vmset _ d _ => maskOk d
  | .vmffsr _ _ a => maskOk a
  | .vredsum _ _ a _ qa => sourceOk qa a
  | .vredmax _ _ a _ qa => sourceOk qa a
  | .vredmin _ _ a _ qa => sourceOk qa a
  | .vredand _ _ a _ qa => sourceOk qa a
  | .vredor _ _ a _ qa => sourceOk qa a
  | .vscansum _ _ a _ _ qa => sourceOk qa a
  | .vscanmax _ _ a _ _ qa => sourceOk qa a
  | .vscanand _ _ a _ _ qa => sourceOk qa a
  | .vsegsum _ _ a b _ qa => sourceOk qa a && maskOk b
  | .vsegmax _ _ a b _ qa => sourceOk qa a && maskOk b
  | .tagw _ _ _ => true
  | .tagr _ _ => true
  | .tmatch _ _ => true
  | .toprSet _ _ _ _ => true
  | .toprAdd _ _ _ _ => true
  | .toprMuls _ _ _ _ => true
  | .toprClr _ _ => true
  | .toprRetag _ _ _ => true
  | .mzero d => tileOk d
  | .mop d _ _ => tileOk d
  | .mldw _ _ _ => true
  | .mkeep _ _ _ => true
  | .mdrain _ a _ => tileOk a
  | .mtov _ a _ => tileOk a
  | .mfromv d _ _ => tileOk d
  | .mwait => true
  | .dcopy _ _ _ _ => true
  | .dcopy2d _ _ => true
  | .dfill _ _ _ _ => true
  | .tkwait _ _ s => scopeOk s
  | .tktest _ _ s => scopeOk s
  | .ddeal _ _ => true
  | .cmv _ _ _ _ => true
  | .cwrite _ _ _ => true
  | .ccommit _ _ => true
  | .cstat _ _ => true
  | .ccal _ _ => true
  | .binst _ _ _ _ => true
  | .bmsg _ _ _ _ => true
  | .bstat _ _ => true
  | .vscore _ d _ _ w => resultOk w d
  | .vexpm _ d _ w => resultOk w d
  | .vaccv _ _ _ => true
  | .vsoftfin _ _ a _ qa => sourceOk qa a
  | .vtreem _ d _ => maskOk d
  | .vaccept _ _ a => maskOk a
  | .vcommitm _ _ a _ qa => sourceOk qa a
  | .vmaxi _ _ _ b => maskOk b
  | .pdlook _ _ _ _ => true
  | .pdins _ _ _ _ => true
  | .pdref _ _ => true
  | .pdunref _ _ => true
  | .pdstat _ _ => true
  | .pfx pm pn _ _ dc dce rm _ => (!pn || pm != 0) && (dce || dc == 0) && rm != 7
  | .bHalt => true
  | .bLi _ _ => true
  | .bAdd _ _ _ _ => true
  | .bSub _ _ _ => true
  | .bAnd _ _ _ => true
  | .bShl _ _ _ => true
  | .bShr _ _ _ => true
  | .bBnz _ _ => true
  | .bBz _ _ => true
  | .bLdq _ _ _ => true
  | .bStq _ _ _ => true
  | .bMode _ => true
  | .bAct _ => true
  | .bPre => true
  | .bXld _ _ => true
  | .bMac _ _ => true
  | .bAclr => true
  | .bAclrEntry _ => true
  | .bArd _ _ => true
  | .bRout _ i => i != 0
  | .deviceReset => true
  | .bootStage _ _ _ => true
  | .coreCycle => true
  | .laneHoldExpiry _ => true
  | .laneGrant _ => true
  | .budget => true
  | .launchWaitExpiry _ => true
  | .gangPlacement _ _ => true
  | .memberExit _ => true
  | .barrierComplete _ _ => true
  | .waittInstant _ => true
  | .waitaddrWake _ => true
  | .sendtArrival _ => true
  | .matrixExecute _ => true
  | .copyComplete _ => true
  | .dealPassage _ => true
  | .cwriteComplete _ => true
  | .versionSwitch _ => true
  | .arrayPass _ _ _ => true
  | .cmvComplete _ => true
  | .recalibration _ _ _ => true
  | .rotationSwitch _ _ => true
  | .handlerStart _ => true
  | .modeSwitchDone _ => true
  | .kittyService _ _ => true
  | .patrol _ _ _ => true
  | .faultHoldRelease _ _ => true
  | .coreSwitch _ _ => true
  | .localStoreSave _ => true
  | .killScrub _ _ => true
  | .releaseScrub _ _ => true
  | .errorEntryDone _ => true
  | .linkDown _ => true
  | .linkRetrained _ => true
  | .peerPortFail _ => true
  | .hostLinkFail => true
  | .hostLinkReset => true
  | .ideIntegrityFailure _ => true
  | .tdispViolation _ => true
  | .flr _ => true
  | .lockInterface _ => true
  | .startInterface _ => true
  | .stopInterface _ => true
  | .getDeviceInterfaceReport _ => true
  | .getDeviceInterfaceState _ => true
  | .getVersion => true
  | .getCapabilities => true
  | .negotiateAlgorithms _ _ => true
  | .getDigests => true
  | .getCertificate => true
  | .challenge _ => true
  | .getMeasurements _ _ => true
  | .keyExchange _ => true
  | .finish _ => true
  | .ideKm _ _ => true
  | .d3cold => true
  | .d3hotRequest => true
  | .start _ _ => true
  | .grant _ => true
  | .exportAudit _ => true
  | .auditack _ => true
  | .powerLimit _ => true
  | .powerWindow _ => true
  | .registerWrite _ _ _ => true
  | .hostOrPeerWrite _ _ _ => true
  | .cxlMemRead _ _ => true
  | .snoopInvalidate _ _ => true
  | .illegal _ => true
  | .handlerInstall _ => true
  | .peerRead _ _ => true
  | .unknownOp _ => true

/-- Whether an instruction may join a convoy of several members (R34): the rows with a free K bit. -/
def Instr.joins : Instr → Bool
  | .add _ _ _ _ => false
  | .sub _ _ _ _ => false
  | .and _ _ _ => false
  | .or _ _ _ => false
  | .xor _ _ _ => false
  | .andn _ _ _ => false
  | .sll _ _ _ _ => false
  | .srl _ _ _ _ => false
  | .sra _ _ _ _ => false
  | .slt _ _ _ => false
  | .sltu _ _ _ => false
  | .min _ _ _ => false
  | .max _ _ _ => false
  | .minu _ _ _ => false
  | .maxu _ _ _ => false
  | .mul _ _ _ _ => false
  | .mulh _ _ _ => false
  | .mulhu _ _ _ => false
  | .div _ _ _ _ => false
  | .divu _ _ _ _ => false
  | .rem _ _ _ _ => false
  | .remu _ _ _ _ => false
  | .clz _ _ _ => false
  | .popc _ _ _ => false
  | .addi _ _ _ => false
  | .andi _ _ _ => false
  | .ori _ _ _ => false
  | .xori _ _ _ => false
  | .slti _ _ _ => false
  | .slli _ _ _ => false
  | .srli _ _ _ => false
  | .srai _ _ _ => false
  | .lui _ _ => false
  | .auipc _ _ => false
  | .ldB _ _ _ => false
  | .ldH _ _ _ => false
  | .ldW _ _ _ => false
  | .ldD _ _ _ => false
  | .ldBu _ _ _ => false
  | .ldHu _ _ _ => false
  | .ldWu _ _ _ => false
  | .stB _ _ _ => false
  | .stH _ _ _ => false
  | .stW _ _ _ => false
  | .stD _ _ _ => false
  | .beq _ _ _ => false
  | .bne _ _ _ => false
  | .blt _ _ _ => false
  | .bge _ _ _ => false
  | .bltu _ _ _ => false
  | .bgeu _ _ _ => false
  | .jal _ _ => false
  | .jalr _ _ _ => false
  | .fadd _ _ _ _ _ => false
  | .fsub _ _ _ _ _ => false
  | .fmul _ _ _ _ _ => false
  | .fdiv _ _ _ _ _ => false
  | .fsqrt _ _ _ _ => false
  | .fmin _ _ _ _ => false
  | .fmax _ _ _ _ => false
  | .fma _ _ _ _ _ => false
  | .feq _ _ _ _ => false
  | .flt _ _ _ _ => false
  | .fle _ _ _ _ => false
  | .fclass _ _ _ => false
  | .fcvtI _ _ _ _ _ => false
  | .fcvtF _ _ _ _ _ => false
  | .fcvt _ _ _ _ _ => false
  | .fsgnj _ _ _ _ => false
  | .ldAcq _ _ _ _ => false
  | .stRel _ _ _ _ => false
  | .amoAdd _ _ _ _ _ => false
  | .amoAnd _ _ _ _ _ => false
  | .amoOr _ _ _ _ _ => false
  | .amoXor _ _ _ _ _ => false
  | .amoMin _ _ _ _ _ => false
  | .amoMax _ _ _ _ _ => false
  | .amoMinu _ _ _ _ _ => false
  | .amoMaxu _ _ _ _ _ => false
  | .amoSwap _ _ _ _ _ => false
  | .amoCas _ _ _ _ _ => false
  | .amoFmax _ _ _ _ => false
  | .fence _ => false
  | .scommit => false
  | .bar _ _ _ => false
  | .bararr _ _ _ => false
  | .barwait _ _ _ => false
  | .claim _ _ _ _ => false
  | .waitt _ _ => false
  | .sendt _ _ => false
  | .recvchk _ _ => false
  | .waitaddr _ _ _ _ => false
  | .yield => false
  | .launch _ _ => false
  | .xinv _ _ _ => false
  | .csrr _ _ => false
  | .csrw _ _ _ => false
  | .csrs _ _ _ => false
  | .csrc _ _ _ => false
  | .trap _ _ => false
  | .tret => false
  | .vsave _ _ => false
  | .vrestore _ _ => false
  | .scrub _ _ => false
  | .ctxkill _ _ => false
  | .setown _ _ => false
  | .vdecl _ _ => false
  | .setvl _ _ _ => false
  | .vtag _ _ _ => false
  | .vshape _ _ => false
  | .vmv _ _ _ _ _ => true
  | .vbcast _ _ _ _ => true
  | .vid _ _ _ => true
  | .vidr _ _ _ => true
  | .vxtract _ _ _ _ _ => true
  | .vinsert _ _ _ _ => true
  | .vadd _ _ _ _ _ _ _ _ => true
  | .vsub _ _ _ _ _ _ _ _ => true
  | .vmul _ _ _ _ _ _ _ _ => true
  | .vmulh _ _ _ _ _ _ _ _ => true
  | .vmin _ _ _ _ _ _ _ _ => true
  | .vmax _ _ _ _ _ _ _ _ => true
  | .vand _ _ _ _ _ _ _ _ => true
  | .vor _ _ _ _ _ _ _ _ => true
  | .vxor _ _ _ _ _ _ _ _ => true
  | .vsll _ _ _ _ _ _ _ _ => true
  | .vsrl _ _ _ _ _ _ _ _ => true
  | .vsra _ _ _ _ _ _ _ _ => true
  | .vabs _ _ _ _ _ _ => true
  | .vwmac _ _ _ _ _ _ _ => true
  | .vdiv _ _ _ _ _ _ _ _ => true
  | .vrem _ _ _ _ _ _ _ _ => true
  | .vcmpeq _ _ _ _ _ _ _ => true
  | .vcmplt _ _ _ _ _ _ _ => true
  | .vcmple _ _ _ _ _ _ _ => true
  | .vsel _ _ _ _ _ _ _ _ => true
  | .vfadd _ _ _ _ _ _ _ _ => true
  | .vfsub _ _ _ _ _ _ _ _ => true
  | .vfmul _ _ _ _ _ _ _ _ => true
  | .vfaddX _ _ _ _ _ _ _ => true
  | .vfsubX _ _ _ _ _ _ _ => true
  | .vfmulX _ _ _ _ _ _ _ => true
  | .vfma _ _ _ _ _ _ _ => true
  | .vfdiv _ _ _ _ _ _ _ _ => true
  | .vfsqrt _ _ _ _ _ _ => true
  | .vfrcp _ _ _ _ _ _ => true
  | .vfexp2 _ _ _ _ _ _ => true
  | .vflog2 _ _ _ _ _ _ => true
  | .vfmin _ _ _ _ _ _ _ _ => true
  | .vfmax _ _ _ _ _ _ _ _ => true
  | .vfcmpeq _ _ _ _ _ _ _ => true
  | .vfcmplt _ _ _ _ _ _ _ => true
  | .vfcmple _ _ _ _ _ _ _ => true
  | .vfclass _ _ _ _ _ _ => true
  | .vdwadd _ _ _ _ _ => true
  | .vdwmul _ _ _ _ _ => true
  | .vdwnorm _ _ _ _ => true
  | .vredsumX _ _ _ _ => true
  | .vcvt _ _ _ _ _ => true
  | .vscale _ _ _ _ _ _ => true
  | .vquant _ _ _ _ _ _ _ => true
  | .vdeq _ _ _ _ _ _ _ => true
  | .vld _ _ _ _ _ _ => true
  | .vlds _ _ _ _ _ _ _ => true
  | .vldx _ _ _ _ _ _ _ => true
  | .vldb _ _ _ _ _ _ _ => true
  | .vst _ _ _ _ _ => true
  | .vsts _ _ _ _ _ _ => true
  | .vstx _ _ _ _ _ _ => true
  | .vstt _ _ _ => false
  | .vgather _ _ _ _ _ _ => true
  | .vslideup _ _ _ _ _ _ _ => true
  | .vslidedn _ _ _ _ _ _ _ => true
  | .vcompress _ _ _ _ _ _ => true
  | .vexpand _ _ _ _ _ _ => true
  | .vrev _ _ _ _ _ _ => true
  | .vmand _ _ _ _ => true
  | .vmor _ _ _ _ => true
  | .vmxor _ _ _ _ => true
  | .vmnot _ _ _ => true
  | .vmpop _ _ _ => true
  | .vmffs _ _ _ => true
  | .vmset _ _ _ => true
  | .vmffsr _ _ _ => true
  | .vredsum _ _ _ _ _ => true
  | .vredmax _ _ _ _ _ => true
  | .vredmin _ _ _ _ _ => true
  | .vredand _ _ _ _ _ => true
  | .vredor _ _ _ _ _ => true
  | .vscansum _ _ _ _ _ _ => true
  | .vscanmax _ _ _ _ _ _ => true
  | .vscanand _ _ _ _ _ _ => true
  | .vsegsum _ _ _ _ _ _ => true
  | .vsegmax _ _ _ _ _ _ => true
  | .tagw _ _ _ => false
  | .tagr _ _ => false
  | .tmatch _ _ => false
  | .toprSet _ _ _ _ => false
  | .toprAdd _ _ _ _ => false
  | .toprMuls _ _ _ _ => false
  | .toprClr _ _ => false
  | .toprRetag _ _ _ => false
  | .mzero _ => false
  | .mop _ _ _ => false
  | .mldw _ _ _ => false
  | .mkeep _ _ _ => false
  | .mdrain _ _ _ => false
  | .mtov _ _ _ => false
  | .mfromv _ _ _ => false
  | .mwait => false
  | .dcopy _ _ _ _ => false
  | .dcopy2d _ _ => false
  | .dfill _ _ _ _ => false
  | .tkwait _ _ _ => false
  | .tktest _ _ _ => false
  | .ddeal _ _ => false
  | .cmv _ _ _ _ => false
  | .cwrite _ _ _ => false
  | .ccommit _ _ => false
  | .cstat _ _ => false
  | .ccal _ _ => false
  | .binst _ _ _ _ => false
  | .bmsg _ _ _ _ => false
  | .bstat _ _ => false
  | .vscore _ _ _ _ _ => true
  | .vexpm _ _ _ _ => true
  | .vaccv _ _ _ => true
  | .vsoftfin _ _ _ _ _ => true
  | .vtreem _ _ _ => true
  | .vaccept _ _ _ => true
  | .vcommitm _ _ _ _ _ => true
  | .vmaxi _ _ _ _ => true
  | .pdlook _ _ _ _ => false
  | .pdins _ _ _ _ => false
  | .pdref _ _ => false
  | .pdunref _ _ => false
  | .pdstat _ _ => false
  | .pfx _ _ _ _ _ _ _ _ => false
  | .bHalt => false
  | .bLi _ _ => false
  | .bAdd _ _ _ _ => false
  | .bSub _ _ _ => false
  | .bAnd _ _ _ => false
  | .bShl _ _ _ => false
  | .bShr _ _ _ => false
  | .bBnz _ _ => false
  | .bBz _ _ => false
  | .bLdq _ _ _ => false
  | .bStq _ _ _ => false
  | .bMode _ => false
  | .bAct _ => false
  | .bPre => false
  | .bXld _ _ => false
  | .bMac _ _ => false
  | .bAclr => false
  | .bAclrEntry _ => false
  | .bArd _ _ => false
  | .bRout _ _ => false
  | .deviceReset => false
  | .bootStage _ _ _ => false
  | .coreCycle => false
  | .laneHoldExpiry _ => false
  | .laneGrant _ => false
  | .budget => false
  | .launchWaitExpiry _ => false
  | .gangPlacement _ _ => false
  | .memberExit _ => false
  | .barrierComplete _ _ => false
  | .waittInstant _ => false
  | .waitaddrWake _ => false
  | .sendtArrival _ => false
  | .matrixExecute _ => false
  | .copyComplete _ => false
  | .dealPassage _ => false
  | .cwriteComplete _ => false
  | .versionSwitch _ => false
  | .arrayPass _ _ _ => false
  | .cmvComplete _ => false
  | .recalibration _ _ _ => false
  | .rotationSwitch _ _ => false
  | .handlerStart _ => false
  | .modeSwitchDone _ => false
  | .kittyService _ _ => false
  | .patrol _ _ _ => false
  | .faultHoldRelease _ _ => false
  | .coreSwitch _ _ => false
  | .localStoreSave _ => false
  | .killScrub _ _ => false
  | .releaseScrub _ _ => false
  | .errorEntryDone _ => false
  | .linkDown _ => false
  | .linkRetrained _ => false
  | .peerPortFail _ => false
  | .hostLinkFail => false
  | .hostLinkReset => false
  | .ideIntegrityFailure _ => false
  | .tdispViolation _ => false
  | .flr _ => false
  | .lockInterface _ => false
  | .startInterface _ => false
  | .stopInterface _ => false
  | .getDeviceInterfaceReport _ => false
  | .getDeviceInterfaceState _ => false
  | .getVersion => false
  | .getCapabilities => false
  | .negotiateAlgorithms _ _ => false
  | .getDigests => false
  | .getCertificate => false
  | .challenge _ => false
  | .getMeasurements _ _ => false
  | .keyExchange _ => false
  | .finish _ => false
  | .ideKm _ _ => false
  | .d3cold => false
  | .d3hotRequest => false
  | .start _ _ => false
  | .grant _ => false
  | .exportAudit _ => false
  | .auditack _ => false
  | .powerLimit _ => false
  | .powerWindow _ => false
  | .registerWrite _ _ _ => false
  | .hostOrPeerWrite _ _ _ => false
  | .cxlMemRead _ _ => false
  | .snoopInvalidate _ _ => false
  | .illegal _ => false
  | .handlerInstall _ => false
  | .peerRead _ _ => false
  | .unknownOp _ => false

/-- The K bit of an instruction; 0 where the instruction forms a convoy of one (R34, R110). -/
def Instr.kbit : Instr → Bool
  | .vmv k _ _ _ _ => k
  | .vbcast k _ _ _ => k
  | .vid k _ _ => k
  | .vidr k _ _ => k
  | .vxtract k _ _ _ _ => k
  | .vinsert k _ _ _ => k
  | .vadd k _ _ _ _ _ _ _ => k
  | .vsub k _ _ _ _ _ _ _ => k
  | .vmul k _ _ _ _ _ _ _ => k
  | .vmulh k _ _ _ _ _ _ _ => k
  | .vmin k _ _ _ _ _ _ _ => k
  | .vmax k _ _ _ _ _ _ _ => k
  | .vand k _ _ _ _ _ _ _ => k
  | .vor k _ _ _ _ _ _ _ => k
  | .vxor k _ _ _ _ _ _ _ => k
  | .vsll k _ _ _ _ _ _ _ => k
  | .vsrl k _ _ _ _ _ _ _ => k
  | .vsra k _ _ _ _ _ _ _ => k
  | .vabs k _ _ _ _ _ => k
  | .vwmac k _ _ _ _ _ _ => k
  | .vdiv k _ _ _ _ _ _ _ => k
  | .vrem k _ _ _ _ _ _ _ => k
  | .vcmpeq k _ _ _ _ _ _ => k
  | .vcmplt k _ _ _ _ _ _ => k
  | .vcmple k _ _ _ _ _ _ => k
  | .vsel k _ _ _ _ _ _ _ => k
  | .vfadd k _ _ _ _ _ _ _ => k
  | .vfsub k _ _ _ _ _ _ _ => k
  | .vfmul k _ _ _ _ _ _ _ => k
  | .vfaddX k _ _ _ _ _ _ => k
  | .vfsubX k _ _ _ _ _ _ => k
  | .vfmulX k _ _ _ _ _ _ => k
  | .vfma k _ _ _ _ _ _ => k
  | .vfdiv k _ _ _ _ _ _ _ => k
  | .vfsqrt k _ _ _ _ _ => k
  | .vfrcp k _ _ _ _ _ => k
  | .vfexp2 k _ _ _ _ _ => k
  | .vflog2 k _ _ _ _ _ => k
  | .vfmin k _ _ _ _ _ _ _ => k
  | .vfmax k _ _ _ _ _ _ _ => k
  | .vfcmpeq k _ _ _ _ _ _ => k
  | .vfcmplt k _ _ _ _ _ _ => k
  | .vfcmple k _ _ _ _ _ _ => k
  | .vfclass k _ _ _ _ _ => k
  | .vdwadd k _ _ _ _ => k
  | .vdwmul k _ _ _ _ => k
  | .vdwnorm k _ _ _ => k
  | .vredsumX k _ _ _ => k
  | .vcvt k _ _ _ _ => k
  | .vscale k _ _ _ _ _ => k
  | .vquant k _ _ _ _ _ _ => k
  | .vdeq k _ _ _ _ _ _ => k
  | .vld k _ _ _ _ _ => k
  | .vlds k _ _ _ _ _ _ => k
  | .vldx k _ _ _ _ _ _ => k
  | .vldb k _ _ _ _ _ _ => k
  | .vst k _ _ _ _ => k
  | .vsts k _ _ _ _ _ => k
  | .vstx k _ _ _ _ _ => k
  | .vgather k _ _ _ _ _ => k
  | .vslideup k _ _ _ _ _ _ => k
  | .vslidedn k _ _ _ _ _ _ => k
  | .vcompress k _ _ _ _ _ => k
  | .vexpand k _ _ _ _ _ => k
  | .vrev k _ _ _ _ _ => k
  | .vmand k _ _ _ => k
  | .vmor k _ _ _ => k
  | .vmxor k _ _ _ => k
  | .vmnot k _ _ => k
  | .vmpop k _ _ => k
  | .vmffs k _ _ => k
  | .vmset k _ _ => k
  | .vmffsr k _ _ => k
  | .vredsum k _ _ _ _ => k
  | .vredmax k _ _ _ _ => k
  | .vredmin k _ _ _ _ => k
  | .vredand k _ _ _ _ => k
  | .vredor k _ _ _ _ => k
  | .vscansum k _ _ _ _ _ => k
  | .vscanmax k _ _ _ _ _ => k
  | .vscanand k _ _ _ _ _ => k
  | .vsegsum k _ _ _ _ _ => k
  | .vsegmax k _ _ _ _ _ => k
  | .vscore k _ _ _ _ => k
  | .vexpm k _ _ _ => k
  | .vaccv k _ _ => k
  | .vsoftfin k _ _ _ _ => k
  | .vtreem k _ _ => k
  | .vaccept k _ _ => k
  | .vcommitm k _ _ _ _ => k
  | .vmaxi k _ _ _ => k
  | _ => false

/-- The prefix word (R112). -/
def Instr.isPfx : Instr → Bool
  | .pfx .. => true
  | _ => false

/-- An instruction of a bank sequencer (Table 15.4). -/
def Instr.isBrixem : Instr → Bool
  | .bHalt => true
  | .bLi _ _ => true
  | .bAdd _ _ _ _ => true
  | .bSub _ _ _ => true
  | .bAnd _ _ _ => true
  | .bShl _ _ _ => true
  | .bShr _ _ _ => true
  | .bBnz _ _ => true
  | .bBz _ _ => true
  | .bLdq _ _ _ => true
  | .bStq _ _ _ => true
  | .bMode _ => true
  | .bAct _ => true
  | .bPre => true
  | .bXld _ _ => true
  | .bMac _ _ => true
  | .bAclr => true
  | .bAclrEntry _ => true
  | .bArd _ _ => true
  | .bRout _ _ => true
  | _ => false

/-- An event of the device or of the outside world, which has no word. -/
def Instr.isEvent : Instr → Bool
  | .deviceReset => true
  | .bootStage _ _ _ => true
  | .coreCycle => true
  | .laneHoldExpiry _ => true
  | .laneGrant _ => true
  | .budget => true
  | .launchWaitExpiry _ => true
  | .gangPlacement _ _ => true
  | .memberExit _ => true
  | .barrierComplete _ _ => true
  | .waittInstant _ => true
  | .waitaddrWake _ => true
  | .sendtArrival _ => true
  | .matrixExecute _ => true
  | .copyComplete _ => true
  | .dealPassage _ => true
  | .cwriteComplete _ => true
  | .versionSwitch _ => true
  | .arrayPass _ _ _ => true
  | .cmvComplete _ => true
  | .recalibration _ _ _ => true
  | .rotationSwitch _ _ => true
  | .handlerStart _ => true
  | .modeSwitchDone _ => true
  | .kittyService _ _ => true
  | .patrol _ _ _ => true
  | .faultHoldRelease _ _ => true
  | .coreSwitch _ _ => true
  | .localStoreSave _ => true
  | .killScrub _ _ => true
  | .releaseScrub _ _ => true
  | .errorEntryDone _ => true
  | .linkDown _ => true
  | .linkRetrained _ => true
  | .peerPortFail _ => true
  | .hostLinkFail => true
  | .hostLinkReset => true
  | .ideIntegrityFailure _ => true
  | .tdispViolation _ => true
  | .flr _ => true
  | .lockInterface _ => true
  | .startInterface _ => true
  | .stopInterface _ => true
  | .getDeviceInterfaceReport _ => true
  | .getDeviceInterfaceState _ => true
  | .getVersion => true
  | .getCapabilities => true
  | .negotiateAlgorithms _ _ => true
  | .getDigests => true
  | .getCertificate => true
  | .challenge _ => true
  | .getMeasurements _ _ => true
  | .keyExchange _ => true
  | .finish _ => true
  | .ideKm _ _ => true
  | .d3cold => true
  | .d3hotRequest => true
  | .start _ _ => true
  | .grant _ => true
  | .exportAudit _ => true
  | .auditack _ => true
  | .powerLimit _ => true
  | .powerWindow _ => true
  | .registerWrite _ _ _ => true
  | .hostOrPeerWrite _ _ _ => true
  | .cxlMemRead _ _ => true
  | .snoopInvalidate _ _ => true
  | .illegal _ => true
  | .handlerInstall _ => true
  | .peerRead _ _ => true
  | .unknownOp _ => true
  | _ => false

end Sys2Proof
end

