-- ==== Sys2Proof/Decode.lean ====
section
/-! DEFINITION. Words to instructions and back: the fields and formats of Tables 5.1, 5.2, 5.7, 14.1 and 15.5, the opcode
map of Table 5.4, and the decode rules R106 to R108.  Decoding is total: a word is an instruction or is rejected by name. -/

namespace Sys2Proof

/-! ### Fields and formats -/

/-- Bits lo+n−1 … lo of a word. -/
def fld {m : Nat} (w : BitVec m) (lo n : Nat) : BitVec n := w.extractLsb' lo n

/-- Bit i of a word. -/
def bit {m : Nat} (w : BitVec m) (i : Nat) : Bool := fld w i 1 == 1#1

/-- A value placed in a wider field whose upper bits are 0. -/
def pad {m : Nat} (n : Nat) (x : BitVec m) : BitVec n := x.setWidth n

/-- The formats with register fields at 24:20, 19:15 and 14:10 (Table 5.1). -/
def formR (maj : BitVec 6) (k : Bool) (d a b : BitVec 5) (low : BitVec 10) : Word :=
  maj ++ BitVec.ofBool k ++ d ++ a ++ b ++ low

/-- The formats with two register fields and 15 further bits (I, S, JR and Z of Table 5.1). -/
def formI (maj : BitVec 6) (k : Bool) (d a : BitVec 5) (low : BitVec 15) : Word :=
  maj ++ BitVec.ofBool k ++ d ++ a ++ low

/-- Format U (Table 5.2). -/
def formU (maj : BitVec 6) (k : Bool) (d : BitVec 5) (i : BitVec 20) : Word :=
  maj ++ BitVec.ofBool k ++ d ++ i

/-- Format B (Table 5.2). -/
def formB (maj : BitVec 6) (k : Bool) (c : BitVec 3) (a b : BitVec 5) (i : BitVec 12) : Word :=
  maj ++ BitVec.ofBool k ++ c ++ a ++ b ++ i

/-- The PFX word (Table 5.7). -/
def formP (pm : BitVec 3) (pn : Bool) (em ek : BitVec 3) (dc : BitVec 5) (dce : Bool) (rm : BitVec 3) (sat : Bool) : Word :=
  0x3E#6 ++ 0#1 ++ pm ++ BitVec.ofBool pn ++ em ++ ek ++ dc ++ BitVec.ofBool dce ++ rm ++ BitVec.ofBool sat ++ 0#5

/-- The Brixem word (Table 15.5). -/
def formBrixem (op : BitVec 5) (d a b : BitVec 4) (i : BitVec 15) : Word := op ++ d ++ a ++ b ++ i

/-- The low ten bits of each format: R of major 0x01 and of major 0x0A (R107), O, Y, V and VM, T, X (Tables 5.1, 9.1, 14.1);
the va field of VSHAPE (R156); fn3 and imm12 of I, S and Z. -/
def lowR (w : Bool) (op : BitVec 6) : BitVec 10 := BitVec.ofBool w ++ 0#3 ++ op
def lowF (f : BitVec 2) (rm : BitVec 3) (op : BitVec 5) : BitVec 10 := f ++ rm ++ op
def lowO (s : BitVec 3) (w : Bool) (op : BitVec 6) : BitVec 10 := s ++ BitVec.ofBool w ++ op
def lowY (s : BitVec 3) (op : BitVec 7) : BitVec 10 := s ++ op
def lowV (w e qa qb : Bool) (op : BitVec 6) : BitVec 10 :=
  BitVec.ofBool w ++ BitVec.ofBool e ++ BitVec.ofBool qa ++ BitVec.ofBool qb ++ op
def lowT (op : BitVec 4) (y : BitVec 3) : BitVec 10 := op ++ y ++ 0#3
def lowX (c op : BitVec 5) : BitVec 10 := c ++ op
def lowShape (t : Bool) (g : BitVec 2) : BitVec 5 := 0#2 ++ BitVec.ofBool t ++ g
def lowI (fn : BitVec 3) (i : BitVec 12) : BitVec 15 := fn ++ i

/-! ### Words to instructions -/

/-- Major 0x01, format R (Table 5.4). -/
def rawMajor01 (w : Word) : Option Instr :=
  match (fld w 0 6).toNat with
  | 0 => some (.add (fld w 20 5) (fld w 15 5) (fld w 10 5) (bit w 9))
  | 1 => some (.sub (fld w 20 5) (fld w 15 5) (fld w 10 5) (bit w 9))
  | 2 => some (.and (fld w 20 5) (fld w 15 5) (fld w 10 5))
  | 3 => some (.or (fld w 20 5) (fld w 15 5) (fld w 10 5))
  | 4 => some (.xor (fld w 20 5) (fld w 15 5) (fld w 10 5))
  | 5 => some (.andn (fld w 20 5) (fld w 15 5) (fld w 10 5))
  | 6 => some (.sll (fld w 20 5) (fld w 15 5) (fld w 10 5) (bit w 9))
  | 7 => some (.srl (fld w 20 5) (fld w 15 5) (fld w 10 5) (bit w 9))
  | 8 => some (.sra (fld w 20 5) (fld w 15 5) (fld w 10 5) (bit w 9))
  | 9 => some (.slt (fld w 20 5) (fld w 15 5) (fld w 10 5))
  | 10 => some (.sltu (fld w 20 5) (fld w 15 5) (fld w 10 5))
  | 11 => some (.min (fld w 20 5) (fld w 15 5) (fld w 10 5))
  | 12 => some (.max (fld w 20 5) (fld w 15 5) (fld w 10 5))
  | 13 => some (.minu (fld w 20 5) (fld w 15 5) (fld w 10 5))
  | 14 => some (.maxu (fld w 20 5) (fld w 15 5) (fld w 10 5))
  | 15 => some (.mul (fld w 20 5) (fld w 15 5) (fld w 10 5) (bit w 9))
  | 16 => some (.mulh (fld w 20 5) (fld w 15 5) (fld w 10 5))
  | 17 => some (.mulhu (fld w 20 5) (fld w 15 5) (fld w 10 5))
  | 18 => some (.div (fld w 20 5) (fld w 15 5) (fld w 10 5) (bit w 9))
  | 19 => some (.divu (fld w 20 5) (fld w 15 5) (fld w 10 5) (bit w 9))
  | 20 => some (.rem (fld w 20 5) (fld w 15 5) (fld w 10 5) (bit w 9))
  | 21 => some (.remu (fld w 20 5) (fld w 15 5) (fld w 10 5) (bit w 9))
  | 22 => some (.clz (fld w 20 5) (fld w 15 5) (bit w 9))
  | 23 => some (.popc (fld w 20 5) (fld w 15 5) (bit w 9))
  | _ => none

/-- Major 0x02, format I (Table 5.4). -/
def rawMajor02 (w : Word) : Option Instr :=
  match (fld w 12 3).toNat with
  | 0 => some (.addi (fld w 20 5) (fld w 15 5) (fld w 0 12))
  | 1 => some (.andi (fld w 20 5) (fld w 15 5) (fld w 0 12))
  | 2 => some (.ori (fld w 20 5) (fld w 15 5) (fld w 0 12))
  | 3 => some (.xori (fld w 20 5) (fld w 15 5) (fld w 0 12))
  | 4 => some (.slti (fld w 20 5) (fld w 15 5) (fld w 0 12))
  | 5 => some (.slli (fld w 20 5) (fld w 15 5) (fld w 0 6))
  | 6 => some (.srli (fld w 20 5) (fld w 15 5) (fld w 0 6))
  | 7 => some (.srai (fld w 20 5) (fld w 15 5) (fld w 0 6))
  | _ => none

/-- Major 0x05, format I (Table 5.4). -/
def rawMajor05 (w : Word) : Option Instr :=
  match (fld w 12 3).toNat with
  | 0 => some (.ldB (fld w 20 5) (fld w 15 5) (fld w 0 12))
  | 1 => some (.ldH (fld w 20 5) (fld w 15 5) (fld w 0 12))
  | 2 => some (.ldW (fld w 20 5) (fld w 15 5) (fld w 0 12))
  | 3 => some (.ldD (fld w 20 5) (fld w 15 5) (fld w 0 12))
  | 4 => some (.ldBu (fld w 20 5) (fld w 15 5) (fld w 0 12))
  | 5 => some (.ldHu (fld w 20 5) (fld w 15 5) (fld w 0 12))
  | 6 => some (.ldWu (fld w 20 5) (fld w 15 5) (fld w 0 12))
  | _ => none

/-- Major 0x06, format S (Table 5.4). -/
def rawMajor06 (w : Word) : Option Instr :=
  match (fld w 12 3).toNat with
  | 0 => some (.stB (fld w 20 5) (fld w 15 5) (fld w 0 12))
  | 1 => some (.stH (fld w 20 5) (fld w 15 5) (fld w 0 12))
  | 2 => some (.stW (fld w 20 5) (fld w 15 5) (fld w 0 12))
  | 3 => some (.stD (fld w 20 5) (fld w 15 5) (fld w 0 12))
  | _ => none

/-- Major 0x07, format B (Table 5.4). -/
def rawMajor07 (w : Word) : Option Instr :=
  match (fld w 22 3).toNat with
  | 0 => some (.beq (fld w 17 5) (fld w 12 5) (fld w 0 12))
  | 1 => some (.bne (fld w 17 5) (fld w 12 5) (fld w 0 12))
  | 2 => some (.blt (fld w 17 5) (fld w 12 5) (fld w 0 12))
  | 3 => some (.bge (fld w 17 5) (fld w 12 5) (fld w 0 12))
  | 4 => some (.bltu (fld w 17 5) (fld w 12 5) (fld w 0 12))
  | 5 => some (.bgeu (fld w 17 5) (fld w 12 5) (fld w 0 12))
  | _ => none

/-- Major 0x0A, format R (Table 5.4). -/
def rawMajor0A (w : Word) : Option Instr :=
  match (fld w 0 5).toNat with
  | 0 => some (.fadd (fld w 20 5) (fld w 15 5) (fld w 10 5) (fld w 8 2) (fld w 5 3))
  | 1 => some (.fsub (fld w 20 5) (fld w 15 5) (fld w 10 5) (fld w 8 2) (fld w 5 3))
  | 2 => some (.fmul (fld w 20 5) (fld w 15 5) (fld w 10 5) (fld w 8 2) (fld w 5 3))
  | 3 => some (.fdiv (fld w 20 5) (fld w 15 5) (fld w 10 5) (fld w 8 2) (fld w 5 3))
  | 4 => some (.fsqrt (fld w 20 5) (fld w 15 5) (fld w 8 2) (fld w 5 3))
  | 5 => some (.fmin (fld w 20 5) (fld w 15 5) (fld w 10 5) (fld w 8 2))
  | 6 => some (.fmax (fld w 20 5) (fld w 15 5) (fld w 10 5) (fld w 8 2))
  | 7 => some (.fma (fld w 20 5) (fld w 15 5) (fld w 10 5) (fld w 8 2) (fld w 5 3))
  | 8 => some (.feq (fld w 20 5) (fld w 15 5) (fld w 10 5) (fld w 8 2))
  | 9 => some (.flt (fld w 20 5) (fld w 15 5) (fld w 10 5) (fld w 8 2))
  | 10 => some (.fle (fld w 20 5) (fld w 15 5) (fld w 10 5) (fld w 8 2))
  | 11 => some (.fclass (fld w 20 5) (fld w 15 5) (fld w 8 2))
  | 12 => some (.fcvtI (fld w 20 5) (fld w 15 5) (fld w 10 5) (fld w 8 2) (fld w 5 3))
  | 13 => some (.fcvtF (fld w 20 5) (fld w 15 5) (fld w 10 5) (fld w 8 2) (fld w 5 3))
  | 14 => some (.fcvt (fld w 20 5) (fld w 15 5) (fld w 10 5) (fld w 8 2) (fld w 5 3))
  | 15 => some (.fsgnj (fld w 20 5) (fld w 15 5) (fld w 10 5) (fld w 8 2))
  | _ => none

/-- Major 0x0B, format O (Table 5.4). -/
def rawMajor0B (w : Word) : Option Instr :=
  match (fld w 0 6).toNat with
  | 0 => some (.ldAcq (fld w 20 5) (fld w 15 5) (fld w 7 3) (bit w 6))
  | 1 => some (.stRel (fld w 15 5) (fld w 10 5) (fld w 7 3) (bit w 6))
  | 2 => some (.amoAdd (fld w 20 5) (fld w 15 5) (fld w 10 5) (fld w 7 3) (bit w 6))
  | 3 => some (.amoAnd (fld w 20 5) (fld w 15 5) (fld w 10 5) (fld w 7 3) (bit w 6))
  | 4 => some (.amoOr (fld w 20 5) (fld w 15 5) (fld w 10 5) (fld w 7 3) (bit w 6))
  | 5 => some (.amoXor (fld w 20 5) (fld w 15 5) (fld w 10 5) (fld w 7 3) (bit w 6))
  | 6 => some (.amoMin (fld w 20 5) (fld w 15 5) (fld w 10 5) (fld w 7 3) (bit w 6))
  | 7 => some (.amoMax (fld w 20 5) (fld w 15 5) (fld w 10 5) (fld w 7 3) (bit w 6))
  | 8 => some (.amoMinu (fld w 20 5) (fld w 15 5) (fld w 10 5) (fld w 7 3) (bit w 6))
  | 9 => some (.amoMaxu (fld w 20 5) (fld w 15 5) (fld w 10 5) (fld w 7 3) (bit w 6))
  | 10 => some (.amoSwap (fld w 20 5) (fld w 15 5) (fld w 10 5) (fld w 7 3) (bit w 6))
  | 11 => some (.amoCas (fld w 20 5) (fld w 15 5) (fld w 10 5) (fld w 7 3) (bit w 6))
  | 12 => some (.amoFmax (fld w 20 5) (fld w 15 5) (fld w 10 5) (fld w 7 3))
  | _ => none

/-- Major 0x0C, format Y (Table 5.4). -/
def rawMajor0C (w : Word) : Option Instr :=
  match (fld w 0 7).toNat with
  | 0 => some (.fence (fld w 7 3))
  | 1 => some (.scommit)
  | 2 => some (.bar (fld w 20 5) (fld w 15 5) (fld w 7 3))
  | 3 => some (.bararr (fld w 20 5) (fld w 15 5) (fld w 7 3))
  | 4 => some (.barwait (fld w 15 5) (fld w 10 5) (fld w 7 3))
  | 5 => some (.claim (fld w 20 5) (fld w 15 5) (fld w 10 5) (fld w 7 3))
  | 6 => some (.waitt (fld w 20 5) (fld w 15 5))
  | 7 => some (.sendt (fld w 15 5) (fld w 10 5))
  | 8 => some (.recvchk (fld w 20 5) (fld w 15 5))
  | 9 => some (.waitaddr (fld w 20 5) (fld w 15 5) (fld w 10 5) (fld w 7 3))
  | 10 => some (.yield)
  | 11 => some (.launch (fld w 20 5) (fld w 15 5))
  | 12 => some (.xinv (fld w 15 5) (fld w 10 5) (fld w 7 3))
  | _ => none

/-- Major 0x0D, format Z (Table 5.4). -/
def rawMajor0D (w : Word) : Option Instr :=
  match (fld w 12 3).toNat with
  | 0 => some (.csrr (fld w 20 5) (fld w 0 12))
  | 1 => some (.csrw (fld w 20 5) (fld w 15 5) (fld w 0 12))
  | 2 => some (.csrs (fld w 20 5) (fld w 15 5) (fld w 0 12))
  | 3 => some (.csrc (fld w 20 5) (fld w 15 5) (fld w 0 12))
  | 4 => some (.trap (fld w 15 5) (fld w 0 12))
  | 5 => some (.tret)
  | 6 => (match (fld w 0 12).toNat with
    | 0 => some (.vsave (fld w 20 5) (fld w 15 5))
    | 1 => some (.vrestore (fld w 20 5) (fld w 15 5))
    | 2 => some (.scrub (fld w 20 5) (fld w 15 5))
    | 3 => some (.ctxkill (fld w 20 5) (fld w 15 5))
    | 4 => some (.setown (fld w 20 5) (fld w 15 5))
    | _ => none)
  | _ => none

/-- Major 0x10, format V (Table 5.4). -/
def rawMajor10 (w : Word) : Option Instr :=
  match (fld w 0 6).toNat with
  | 0 => some (.vdecl (fld w 20 5) (fld w 15 5))
  | 1 => some (.setvl (fld w 20 5) (fld w 15 5) (fld w 10 5))
  | 2 => some (.vtag (fld w 20 5) (fld w 15 5) (fld w 10 5))
  | 3 => some (.vshape (bit w 17) (fld w 15 2))
  | 4 => some (.vmv (bit w 25) (fld w 20 5) (fld w 15 5) (bit w 8) (bit w 7))
  | 5 => some (.vbcast (bit w 25) (fld w 20 5) (fld w 15 5) (bit w 8))
  | 6 => some (.vid (bit w 25) (fld w 20 5) (bit w 8))
  | 7 => some (.vidr (bit w 25) (fld w 20 5) (bit w 8))
  | 8 => some (.vxtract (bit w 25) (fld w 20 5) (fld w 15 5) (fld w 10 5) (bit w 7))
  | 9 => some (.vinsert (bit w 25) (fld w 20 5) (fld w 15 5) (fld w 10 5))
  | _ => none

/-- Major 0x11, format V (Table 5.4). -/
def rawMajor11 (w : Word) : Option Instr :=
  match (fld w 0 6).toNat with
  | 0 => some (.vadd (bit w 25) (fld w 20 5) (fld w 15 5) (fld w 10 5) (bit w 9) (bit w 8) (bit w 7) (bit w 6))
  | 1 => some (.vsub (bit w 25) (fld w 20 5) (fld w 15 5) (fld w 10 5) (bit w 9) (bit w 8) (bit w 7) (bit w 6))
  | 2 => some (.vmul (bit w 25) (fld w 20 5) (fld w 15 5) (fld w 10 5) (bit w 9) (bit w 8) (bit w 7) (bit w 6))
  | 3 => some (.vmulh (bit w 25) (fld w 20 5) (fld w 15 5) (fld w 10 5) (bit w 9) (bit w 8) (bit w 7) (bit w 6))
  | 4 => some (.vmin (bit w 25) (fld w 20 5) (fld w 15 5) (fld w 10 5) (bit w 9) (bit w 8) (bit w 7) (bit w 6))
  | 5 => some (.vmax (bit w 25) (fld w 20 5) (fld w 15 5) (fld w 10 5) (bit w 9) (bit w 8) (bit w 7) (bit w 6))
  | 6 => some (.vand (bit w 25) (fld w 20 5) (fld w 15 5) (fld w 10 5) (bit w 9) (bit w 8) (bit w 7) (bit w 6))
  | 7 => some (.vor (bit w 25) (fld w 20 5) (fld w 15 5) (fld w 10 5) (bit w 9) (bit w 8) (bit w 7) (bit w 6))
  | 8 => some (.vxor (bit w 25) (fld w 20 5) (fld w 15 5) (fld w 10 5) (bit w 9) (bit w 8) (bit w 7) (bit w 6))
  | 9 => some (.vsll (bit w 25) (fld w 20 5) (fld w 15 5) (fld w 10 5) (bit w 9) (bit w 8) (bit w 7) (bit w 6))
  | 10 => some (.vsrl (bit w 25) (fld w 20 5) (fld w 15 5) (fld w 10 5) (bit w 9) (bit w 8) (bit w 7) (bit w 6))
  | 11 => some (.vsra (bit w 25) (fld w 20 5) (fld w 15 5) (fld w 10 5) (bit w 9) (bit w 8) (bit w 7) (bit w 6))
  | 12 => some (.vabs (bit w 25) (fld w 20 5) (fld w 15 5) (bit w 9) (bit w 8) (bit w 7))
  | 13 => some (.vwmac (bit w 25) (fld w 20 5) (fld w 15 5) (fld w 10 5) (bit w 8) (bit w 7) (bit w 6))
  | 14 => some (.vdiv (bit w 25) (fld w 20 5) (fld w 15 5) (fld w 10 5) (bit w 9) (bit w 8) (bit w 7) (bit w 6))
  | 15 => some (.vrem (bit w 25) (fld w 20 5) (fld w 15 5) (fld w 10 5) (bit w 9) (bit w 8) (bit w 7) (bit w 6))
  | 16 => some (.vcmpeq (bit w 25) (fld w 20 5) (fld w 15 5) (fld w 10 5) (bit w 8) (bit w 7) (bit w 6))
  | 17 => some (.vcmplt (bit w 25) (fld w 20 5) (fld w 15 5) (fld w 10 5) (bit w 8) (bit w 7) (bit w 6))
  | 18 => some (.vcmple (bit w 25) (fld w 20 5) (fld w 15 5) (fld w 10 5) (bit w 8) (bit w 7) (bit w 6))
  | 19 => some (.vsel (bit w 25) (fld w 20 5) (fld w 15 5) (fld w 10 5) (bit w 9) (bit w 8) (bit w 7) (bit w 6))
  | _ => none

/-- Major 0x12, format V (Table 5.4). -/
def rawMajor12 (w : Word) : Option Instr :=
  match (fld w 0 6).toNat with
  | 0 => some (.vfadd (bit w 25) (fld w 20 5) (fld w 15 5) (fld w 10 5) (bit w 9) (bit w 8) (bit w 7) (bit w 6))
  | 1 => some (.vfsub (bit w 25) (fld w 20 5) (fld w 15 5) (fld w 10 5) (bit w 9) (bit w 8) (bit w 7) (bit w 6))
  | 2 => some (.vfmul (bit w 25) (fld w 20 5) (fld w 15 5) (fld w 10 5) (bit w 9) (bit w 8) (bit w 7) (bit w 6))
  | 3 => some (.vfaddX (bit w 25) (fld w 20 5) (fld w 15 5) (fld w 10 5) (bit w 8) (bit w 7) (bit w 6))
  | 4 => some (.vfsubX (bit w 25) (fld w 20 5) (fld w 15 5) (fld w 10 5) (bit w 8) (bit w 7) (bit w 6))
  | 5 => some (.vfmulX (bit w 25) (fld w 20 5) (fld w 15 5) (fld w 10 5) (bit w 8) (bit w 7) (bit w 6))
  | 6 => some (.vfma (bit w 25) (fld w 20 5) (fld w 15 5) (fld w 10 5) (bit w 8) (bit w 7) (bit w 6))
  | 7 => some (.vfdiv (bit w 25) (fld w 20 5) (fld w 15 5) (fld w 10 5) (bit w 9) (bit w 8) (bit w 7) (bit w 6))
  | 8 => some (.vfsqrt (bit w 25) (fld w 20 5) (fld w 15 5) (bit w 9) (bit w 8) (bit w 7))
  | 9 => some (.vfrcp (bit w 25) (fld w 20 5) (fld w 15 5) (bit w 9) (bit w 8) (bit w 7))
  | 10 => some (.vfexp2 (bit w 25) (fld w 20 5) (fld w 15 5) (bit w 9) (bit w 8) (bit w 7))
  | 11 => some (.vflog2 (bit w 25) (fld w 20 5) (fld w 15 5) (bit w 9) (bit w 8) (bit w 7))
  | 12 => some (.vfmin (bit w 25) (fld w 20 5) (fld w 15 5) (fld w 10 5) (bit w 9) (bit w 8) (bit w 7) (bit w 6))
  | 13 => some (.vfmax (bit w 25) (fld w 20 5) (fld w 15 5) (fld w 10 5) (bit w 9) (bit w 8) (bit w 7) (bit w 6))
  | 14 => some (.vfcmpeq (bit w 25) (fld w 20 5) (fld w 15 5) (fld w 10 5) (bit w 8) (bit w 7) (bit w 6))
  | 15 => some (.vfcmplt (bit w 25) (fld w 20 5) (fld w 15 5) (fld w 10 5) (bit w 8) (bit w 7) (bit w 6))
  | 16 => some (.vfcmple (bit w 25) (fld w 20 5) (fld w 15 5) (fld w 10 5) (bit w 8) (bit w 7) (bit w 6))
  | 17 => some (.vfclass (bit w 25) (fld w 20 5) (fld w 15 5) (bit w 9) (bit w 8) (bit w 7))
  | 18 => some (.vdwadd (bit w 25) (fld w 20 5) (fld w 15 5) (fld w 10 5) (bit w 8))
  | 19 => some (.vdwmul (bit w 25) (fld w 20 5) (fld w 15 5) (fld w 10 5) (bit w 8))
  | 20 => some (.vdwnorm (bit w 25) (fld w 20 5) (fld w 15 5) (bit w 8))
  | 21 => some (.vredsumX (bit w 25) (fld w 20 5) (fld w 15 5) (bit w 8))
  | _ => none

/-- Major 0x13, format V (Table 5.4). -/
def rawMajor13 (w : Word) : Option Instr :=
  match (fld w 0 6).toNat with
  | 0 => some (.vcvt (bit w 25) (fld w 20 5) (fld w 15 5) (bit w 8) (bit w 7))
  | 1 => some (.vscale (bit w 25) (fld w 20 5) (fld w 15 5) (fld w 10 5) (bit w 8) (bit w 7))
  | 2 => some (.vquant (bit w 25) (fld w 20 5) (fld w 15 5) (fld w 10 5) (bit w 8) (bit w 7) (bit w 6))
  | 3 => some (.vdeq (bit w 25) (fld w 20 5) (fld w 15 5) (fld w 10 5) (bit w 8) (bit w 7) (bit w 6))
  | _ => none

/-- Major 0x14, format VM (Table 5.4). -/
def rawMajor14 (w : Word) : Option Instr :=
  match (fld w 0 6).toNat with
  | 0 => some (.vld (bit w 25) (fld w 20 5) (fld w 15 5) (bit w 9) (bit w 8) (bit w 7))
  | 1 => some (.vlds (bit w 25) (fld w 20 5) (fld w 15 5) (fld w 10 5) (bit w 9) (bit w 8) (bit w 7))
  | 2 => some (.vldx (bit w 25) (fld w 20 5) (fld w 15 5) (fld w 10 5) (bit w 9) (bit w 8) (bit w 7))
  | 3 => some (.vldb (bit w 25) (fld w 20 5) (fld w 15 5) (fld w 10 5) (bit w 9) (bit w 8) (bit w 7))
  | _ => none

/-- Major 0x15, format VM (Table 5.4). -/
def rawMajor15 (w : Word) : Option Instr :=
  match (fld w 0 6).toNat with
  | 0 => some (.vst (bit w 25) (fld w 20 5) (fld w 15 5) (bit w 9) (bit w 8))
  | 1 => some (.vsts (bit w 25) (fld w 20 5) (fld w 15 5) (fld w 10 5) (bit w 9) (bit w 8))
  | 2 => some (.vstx (bit w 25) (fld w 20 5) (fld w 15 5) (fld w 10 5) (bit w 9) (bit w 8))
  | 3 => some (.vstt (fld w 20 5) (fld w 15 5) (fld w 10 5))
  | _ => none

/-- Major 0x16, format V (Table 5.4). -/
def rawMajor16 (w : Word) : Option Instr :=
  match (fld w 0 6).toNat with
  | 0 => some (.vgather (bit w 25) (fld w 20 5) (fld w 15 5) (fld w 10 5) (bit w 8) (bit w 6))
  | 1 => some (.vslideup (bit w 25) (fld w 20 5) (fld w 15 5) (fld w 10 5) (bit w 9) (bit w 8) (bit w 7))
  | 2 => some (.vslidedn (bit w 25) (fld w 20 5) (fld w 15 5) (fld w 10 5) (bit w 9) (bit w 8) (bit w 7))
  | 3 => some (.vcompress (bit w 25) (fld w 20 5) (fld w 15 5) (fld w 10 5) (bit w 8) (bit w 7))
  | 4 => some (.vexpand (bit w 25) (fld w 20 5) (fld w 15 5) (fld w 10 5) (bit w 8) (bit w 7))
  | 5 => some (.vrev (bit w 25) (fld w 20 5) (fld w 15 5) (bit w 9) (bit w 8) (bit w 7))
  | 6 => some (.vmand (bit w 25) (fld w 20 5) (fld w 15 5) (fld w 10 5))
  | 7 => some (.vmor (bit w 25) (fld w 20 5) (fld w 15 5) (fld w 10 5))
  | 8 => some (.vmxor (bit w 25) (fld w 20 5) (fld w 15 5) (fld w 10 5))
  | 9 => some (.vmnot (bit w 25) (fld w 20 5) (fld w 15 5))
  | 10 => some (.vmpop (bit w 25) (fld w 20 5) (fld w 15 5))
  | 11 => some (.vmffs (bit w 25) (fld w 20 5) (fld w 15 5))
  | 12 => some (.vmset (bit w 25) (fld w 20 5) (fld w 15 5))
  | 13 => some (.vmffsr (bit w 25) (fld w 20 5) (fld w 15 5))
  | _ => none

/-- Major 0x17, format V (Table 5.4). -/
def rawMajor17 (w : Word) : Option Instr :=
  match (fld w 0 6).toNat with
  | 0 => some (.vredsum (bit w 25) (fld w 20 5) (fld w 15 5) (bit w 8) (bit w 7))
  | 1 => some (.vredmax (bit w 25) (fld w 20 5) (fld w 15 5) (bit w 8) (bit w 7))
  | 2 => some (.vredmin (bit w 25) (fld w 20 5) (fld w 15 5) (bit w 8) (bit w 7))
  | 3 => some (.vredand (bit w 25) (fld w 20 5) (fld w 15 5) (bit w 8) (bit w 7))
  | 4 => some (.vredor (bit w 25) (fld w 20 5) (fld w 15 5) (bit w 8) (bit w 7))
  | 5 => some (.vscansum (bit w 25) (fld w 20 5) (fld w 15 5) (fld w 10 5) (bit w 8) (bit w 7))
  | 6 => some (.vscanmax (bit w 25) (fld w 20 5) (fld w 15 5) (fld w 10 5) (bit w 8) (bit w 7))
  | 7 => some (.vscanand (bit w 25) (fld w 20 5) (fld w 15 5) (fld w 10 5) (bit w 8) (bit w 7))
  | 8 => some (.vsegsum (bit w 25) (fld w 20 5) (fld w 15 5) (fld w 10 5) (bit w 8) (bit w 7))
  | 9 => some (.vsegmax (bit w 25) (fld w 20 5) (fld w 15 5) (fld w 10 5) (bit w 8) (bit w 7))
  | _ => none

/-- Major 0x18, format T (Table 5.4). -/
def rawMajor18 (w : Word) : Option Instr :=
  match (fld w 6 4).toNat with
  | 0 => some (.tagw (fld w 20 5) (fld w 15 5) (fld w 10 5))
  | 1 => some (.tagr (fld w 20 5) (fld w 15 5))
  | 2 => some (.tmatch (fld w 20 5) (fld w 15 5))
  | 3 => some (.toprSet (fld w 20 5) (fld w 15 5) (fld w 10 5) (fld w 3 3))
  | 4 => some (.toprAdd (fld w 20 5) (fld w 15 5) (fld w 10 5) (fld w 3 3))
  | 5 => some (.toprMuls (fld w 20 5) (fld w 15 5) (fld w 10 5) (fld w 3 3))
  | 6 => some (.toprClr (fld w 20 5) (fld w 15 5))
  | 7 => some (.toprRetag (fld w 20 5) (fld w 15 5) (fld w 10 5))
  | _ => none

/-- Major 0x19, format X (Table 5.4). -/
def rawMajor19 (w : Word) : Option Instr :=
  match (fld w 0 5).toNat with
  | 0 => some (.mzero (fld w 20 5))
  | 1 => some (.mop (fld w 20 5) (fld w 15 5) (fld w 10 5))
  | 2 => some (.mldw (fld w 20 5) (fld w 15 5) (fld w 10 5))
  | 3 => some (.mkeep (fld w 20 5) (fld w 15 5) (fld w 10 5))
  | 4 => some (.mdrain (fld w 20 5) (fld w 15 5) (fld w 10 5))
  | 5 => some (.mtov (fld w 20 5) (fld w 15 5) (fld w 10 5))
  | 6 => some (.mfromv (fld w 20 5) (fld w 15 5) (fld w 10 5))
  | 7 => some (.mwait)
  | _ => none

/-- Major 0x1A, format X (Table 5.4). -/
def rawMajor1A (w : Word) : Option Instr :=
  match (fld w 0 5).toNat with
  | 0 => some (.dcopy (fld w 20 5) (fld w 15 5) (fld w 10 5) (fld w 5 5))
  | 1 => some (.dcopy2d (fld w 20 5) (fld w 15 5))
  | 2 => some (.dfill (fld w 20 5) (fld w 15 5) (fld w 10 5) (fld w 5 5))
  | 3 => some (.tkwait (fld w 20 5) (fld w 15 5) (fld w 5 3))
  | 4 => some (.tktest (fld w 20 5) (fld w 15 5) (fld w 5 3))
  | 5 => some (.ddeal (fld w 20 5) (fld w 15 5))
  | _ => none

/-- Major 0x1B, format X (Table 5.4). -/
def rawMajor1B (w : Word) : Option Instr :=
  match (fld w 0 5).toNat with
  | 0 => some (.cmv (fld w 20 5) (fld w 15 5) (fld w 10 5) (fld w 5 5))
  | 1 => some (.cwrite (fld w 20 5) (fld w 15 5) (fld w 10 5))
  | 2 => some (.ccommit (fld w 20 5) (fld w 15 5))
  | 3 => some (.cstat (fld w 20 5) (fld w 15 5))
  | 4 => some (.ccal (fld w 20 5) (fld w 15 5))
  | _ => none

/-- Major 0x1C, format X (Table 5.4). -/
def rawMajor1C (w : Word) : Option Instr :=
  match (fld w 0 5).toNat with
  | 0 => some (.binst (fld w 20 5) (fld w 15 5) (fld w 10 5) (fld w 5 5))
  | 1 => some (.bmsg (fld w 20 5) (fld w 15 5) (fld w 10 5) (fld w 5 5))
  | 2 => some (.bstat (fld w 20 5) (fld w 15 5))
  | _ => none

/-- Major 0x1D, format V (Table 5.4, R327). -/
def rawMajor1D (w : Word) : Option Instr :=
  match (fld w 0 6).toNat with
  | 0 => some (.vscore (bit w 25) (fld w 20 5) (fld w 15 5) (fld w 10 5) (bit w 9))
  | 1 => some (.vexpm (bit w 25) (fld w 20 5) (fld w 10 5) (bit w 9))
  | 2 => some (.vaccv (bit w 25) (fld w 20 5) (fld w 10 5))
  | 3 => some (.vsoftfin (bit w 25) (fld w 20 5) (fld w 15 5) (fld w 10 5) (bit w 7))
  | 4 => some (.vtreem (bit w 25) (fld w 20 5) (fld w 15 5))
  | _ => none

/-- Major 0x1E, format V (Table 5.4). -/
def rawMajor1E (w : Word) : Option Instr :=
  match (fld w 0 6).toNat with
  | 0 => some (.vaccept (bit w 25) (fld w 20 5) (fld w 15 5))
  | 1 => some (.vcommitm (bit w 25) (fld w 20 5) (fld w 15 5) (fld w 10 5) (bit w 7))
  | 2 => some (.vmaxi (bit w 25) (fld w 20 5) (fld w 15 5) (fld w 10 5))
  | _ => none

/-- Major 0x1F, format X (Table 5.4). -/
def rawMajor1F (w : Word) : Option Instr :=
  match (fld w 0 5).toNat with
  | 0 => some (.pdlook (fld w 20 5) (fld w 15 5) (fld w 10 5) (fld w 5 5))
  | 1 => some (.pdins (fld w 20 5) (fld w 15 5) (fld w 10 5) (fld w 5 5))
  | 2 => some (.pdref (fld w 20 5) (fld w 15 5))
  | 3 => some (.pdunref (fld w 20 5) (fld w 15 5))
  | 4 => some (.pdstat (fld w 20 5) (fld w 15 5))
  | _ => none

/-- The instruction that a word names by its major opcode and op value (R106, Table 5.4); none where the table lists
neither.  Reserved fields are not looked at here. -/
def rawDecode (w : Word) : Option Instr :=
  match (fld w 26 6).toNat with
  | 0x01 => rawMajor01 w
  | 0x02 => rawMajor02 w
  | 0x03 => some (.lui (fld w 20 5) (fld w 0 20))
  | 0x04 => some (.auipc (fld w 20 5) (fld w 0 20))
  | 0x05 => rawMajor05 w
  | 0x06 => rawMajor06 w
  | 0x07 => rawMajor07 w
  | 0x08 => some (.jal (fld w 20 5) (fld w 0 20))
  | 0x09 => some (.jalr (fld w 20 5) (fld w 15 5) (fld w 0 15))
  | 0x0A => rawMajor0A w
  | 0x0B => rawMajor0B w
  | 0x0C => rawMajor0C w
  | 0x0D => rawMajor0D w
  | 0x10 => rawMajor10 w
  | 0x11 => rawMajor11 w
  | 0x12 => rawMajor12 w
  | 0x13 => rawMajor13 w
  | 0x14 => rawMajor14 w
  | 0x15 => rawMajor15 w
  | 0x16 => rawMajor16 w
  | 0x17 => rawMajor17 w
  | 0x18 => rawMajor18 w
  | 0x19 => rawMajor19 w
  | 0x1A => rawMajor1A w
  | 0x1B => rawMajor1B w
  | 0x1C => rawMajor1C w
  | 0x1D => rawMajor1D w
  | 0x1E => rawMajor1E w
  | 0x1F => rawMajor1F w
  | 0x3E => some (.pfx (fld w 22 3) (bit w 21) (fld w 18 3) (fld w 15 3) (fld w 10 5) (bit w 9) (fld w 6 3) (bit w 5))
  | _ => none

/-- The Brixem instruction that a word names by its op value (Table 15.4); for op 16 the immediate names the form.
(`noncomputable`: Lean's code generator gives a constructor past the 245th no tag; the kernel evaluates it.) -/
noncomputable def rawBrixem (w : Word) : Option Instr :=
  match (fld w 27 5).toNat with
  | 0 => some (.bHalt)
  | 1 => some (.bLi (fld w 23 4) (fld w 0 15))
  | 2 => some (.bAdd (fld w 23 4) (fld w 19 4) (fld w 15 4) (fld w 0 15))
  | 3 => some (.bSub (fld w 23 4) (fld w 19 4) (fld w 15 4))
  | 4 => some (.bAnd (fld w 23 4) (fld w 19 4) (fld w 15 4))
  | 5 => some (.bShl (fld w 23 4) (fld w 19 4) (fld w 0 6))
  | 6 => some (.bShr (fld w 23 4) (fld w 19 4) (fld w 0 6))
  | 7 => some (.bBnz (fld w 19 4) (fld w 0 15))
  | 8 => some (.bBz (fld w 19 4) (fld w 0 15))
  | 9 => some (.bLdq (fld w 23 4) (fld w 19 4) (fld w 0 15))
  | 10 => some (.bStq (fld w 19 4) (fld w 15 4) (fld w 0 15))
  | 11 => some (.bMode (bit w 0))
  | 12 => some (.bAct (fld w 19 4))
  | 13 => some (.bPre)
  | 14 => some (.bXld (fld w 19 4) (bit w 0))
  | 15 => some (.bMac (fld w 19 4) (fld w 15 4))
  | 16 => (match (fld w 0 15).toNat with
    | 0 => some .bAclr
    | 1 => some (.bAclrEntry (fld w 15 4))
    | _ => none)
  | 17 => some (.bArd (fld w 19 4) (fld w 15 4))
  | 18 => some (.bRout (fld w 19 4) (fld w 0 3))
  | _ => none

/-- The word that stands for an instruction (R102, Tables 5.1 to 5.4, 5.7 and 14.1), or for a Brixem instruction (Tables
15.4 and 15.5).  An event of Instr has no word: `encode` gives it 0, which no instruction of a hart has. -/
def encode : Instr → Word
  | .add d a b w => formR 0x01 false d a b (lowR w 0)
  | .sub d a b w => formR 0x01 false d a b (lowR w 1)
  | .and d a b => formR 0x01 false d a b (lowR false 2)
  | .or d a b => formR 0x01 false d a b (lowR false 3)
  | .xor d a b => formR 0x01 false d a b (lowR false 4)
  | .andn d a b => formR 0x01 false d a b (lowR false 5)
  | .sll d a b w => formR 0x01 false d a b (lowR w 6)
  | .srl d a b w => formR 0x01 false d a b (lowR w 7)
  | .sra d a b w => formR 0x01 false d a b (lowR w 8)
  | .slt d a b => formR 0x01 false d a b (lowR false 9)
  | .sltu d a b => formR 0x01 false d a b (lowR false 10)
  | .min d a b => formR 0x01 false d a b (lowR false 11)
  | .max d a b => formR 0x01 false d a b (lowR false 12)
  | .minu d a b => formR 0x01 false d a b (lowR false 13)
  | .maxu d a b => formR 0x01 false d a b (lowR false 14)
  | .mul d a b w => formR 0x01 false d a b (lowR w 15)
  | .mulh d a b => formR 0x01 false d a b (lowR false 16)
  | .mulhu d a b => formR 0x01 false d a b (lowR false 17)
  | .div d a b w => formR 0x01 false d a b (lowR w 18)
  | .divu d a b w => formR 0x01 false d a b (lowR w 19)
  | .rem d a b w => formR 0x01 false d a b (lowR w 20)
  | .remu d a b w => formR 0x01 false d a b (lowR w 21)
  | .clz d a w => formR 0x01 false d a 0 (lowR w 22)
  | .popc d a w => formR 0x01 false d a 0 (lowR w 23)
  | .addi d a i => formI 0x02 false d a (lowI 0 i)
  | .andi d a i => formI 0x02 false d a (lowI 1 i)
  | .ori d a i => formI 0x02 false d a (lowI 2 i)
  | .xori d a i => formI 0x02 false d a (lowI 3 i)
  | .slti d a i => formI 0x02 false d a (lowI 4 i)
  | .slli d a s => formI 0x02 false d a (lowI 5 (pad 12 s))
  | .srli d a s => formI 0x02 false d a (lowI 6 (pad 12 s))
  | .srai d a s => formI 0x02 false d a (lowI 7 (pad 12 s))
  | .lui d i => formU 0x03 false d i
  | .auipc d i => formU 0x04 false d i
  | .ldB d a i => formI 0x05 false d a (lowI 0 i)
  | .ldH d a i => formI 0x05 false d a (lowI 1 i)
  | .ldW d a i => formI 0x05 false d a (lowI 2 i)
  | .ldD d a i => formI 0x05 false d a (lowI 3 i)
  | .ldBu d a i => formI 0x05 false d a (lowI 4 i)
  | .ldHu d a i => formI 0x05 false d a (lowI 5 i)
  | .ldWu d a i => formI 0x05 false d a (lowI 6 i)
  | .stB b a i => formI 0x06 false b a (lowI 0 i)
  | .stH b a i => formI 0x06 false b a (lowI 1 i)
  | .stW b a i => formI 0x06 false b a (lowI 2 i)
  | .stD b a i => formI 0x06 false b a (lowI 3 i)
  | .beq a b i => formB 0x07 false 0 a b i
  | .bne a b i => formB 0x07 false 1 a b i
  | .blt a b i => formB 0x07 false 2 a b i
  | .bge a b i => formB 0x07 false 3 a b i
  | .bltu a b i => formB 0x07 false 4 a b i
  | .bgeu a b i => formB 0x07 false 5 a b i
  | .jal d i => formU 0x08 false d i
  | .jalr d a i => formI 0x09 false d a i
  | .fadd d a b f rm => formR 0x0A false d a b (lowF f rm 0)
  | .fsub d a b f rm => formR 0x0A false d a b (lowF f rm 1)
  | .fmul d a b f rm => formR 0x0A false d a b (lowF f rm 2)
  | .fdiv d a b f rm => formR 0x0A false d a b (lowF f rm 3)
  | .fsqrt d a f rm => formR 0x0A false d a 0 (lowF f rm 4)
  | .fmin d a b f => formR 0x0A false d a b (lowF f 0 5)
  | .fmax d a b f => formR 0x0A false d a b (lowF f 0 6)
  | .fma d a b f rm => formR 0x0A false d a b (lowF f rm 7)
  | .feq d a b f => formR 0x0A false d a b (lowF f 0 8)
  | .flt d a b f => formR 0x0A false d a b (lowF f 0 9)
  | .fle d a b f => formR 0x0A false d a b (lowF f 0 10)
  | .fclass d a f => formR 0x0A false d a 0 (lowF f 0 11)
  | .fcvtI d a kind f rm => formR 0x0A false d a kind (lowF f rm 12)
  | .fcvtF d a kind f rm => formR 0x0A false d a kind (lowF f rm 13)
  | .fcvt d a kind f rm => formR 0x0A false d a kind (lowF f rm 14)
  | .fsgnj d a b f => formR 0x0A false d a b (lowF f 0 15)
  | .ldAcq d a s w => formR 0x0B false d a 0 (lowO s w 0)
  | .stRel a b s w => formR 0x0B false 0 a b (lowO s w 1)
  | .amoAdd d a b s w => formR 0x0B false d a b (lowO s w 2)
  | .amoAnd d a b s w => formR 0x0B false d a b (lowO s w 3)
  | .amoOr d a b s w => formR 0x0B false d a b (lowO s w 4)
  | .amoXor d a b s w => formR 0x0B false d a b (lowO s w 5)
  | .amoMin d a b s w => formR 0x0B false d a b (lowO s w 6)
  | .amoMax d a b s w => formR 0x0B false d a b (lowO s w 7)
  | .amoMinu d a b s w => formR 0x0B false d a b (lowO s w 8)
  | .amoMaxu d a b s w => formR 0x0B false d a b (lowO s w 9)
  | .amoSwap d a b s w => formR 0x0B false d a b (lowO s w 10)
  | .amoCas d a b s w => formR 0x0B false d a b (lowO s w 11)
  | .amoFmax d a b s => formR 0x0B false d a b (lowO s false 12)
  | .fence s => formR 0x0C false 0 0 0 (lowY s 0)
  | .scommit => formR 0x0C false 0 0 0 (lowY 0 1)
  | .bar d a s => formR 0x0C false d a 0 (lowY s 2)
  | .bararr d a s => formR 0x0C false d a 0 (lowY s 3)
  | .barwait a b s => formR 0x0C false 0 a b (lowY s 4)
  | .claim d a b s => formR 0x0C false d a b (lowY s 5)
  | .waitt d a => formR 0x0C false d a 0 (lowY 0 6)
  | .sendt a b => formR 0x0C false 0 a b (lowY 0 7)
  | .recvchk d a => formR 0x0C false d a 0 (lowY 0 8)
  | .waitaddr d a b s => formR 0x0C false d a b (lowY s 9)
  | .yield => formR 0x0C false 0 0 0 (lowY 0 10)
  | .launch d a => formR 0x0C false d a 0 (lowY 0 11)
  | .xinv a b s => formR 0x0C false 0 a b (lowY s 12)
  | .csrr d c => formI 0x0D false d 0 (lowI 0 c)
  | .csrw d a c => formI 0x0D false d a (lowI 1 c)
  | .csrs d a c => formI 0x0D false d a (lowI 2 c)
  | .csrc d a c => formI 0x0D false d a (lowI 3 c)
  | .trap a i => formI 0x0D false 0 a (lowI 4 i)
  | .tret => formI 0x0D false 0 0 (lowI 5 0)
  | .vsave d a => formI 0x0D false d a (lowI 6 0)
  | .vrestore d a => formI 0x0D false d a (lowI 6 1)
  | .scrub d a => formI 0x0D false d a (lowI 6 2)
  | .ctxkill d a => formI 0x0D false d a (lowI 6 3)
  | .setown d a => formI 0x0D false d a (lowI 6 4)
  | .vdecl d a => formR 0x10 false d a 0 (lowV true false false false 0)
  | .setvl d a b => formR 0x10 false d a b (lowV true false false false 1)
  | .vtag d t b => formR 0x10 false d t b (lowV true false false false 2)
  | .vshape t g => formR 0x10 false 0 (lowShape t g) 0 (lowV false false false false 3)
  | .vmv k d a e qa => formR 0x10 k d a 0 (lowV true e qa false 4)
  | .vbcast k d a e => formR 0x10 k d a 0 (lowV true e false false 5)
  | .vid k d e => formR 0x10 k d 0 0 (lowV true e false false 6)
  | .vidr k d e => formR 0x10 k d 0 0 (lowV true e false false 7)
  | .vxtract k d a b qa => formR 0x10 k d a b (lowV true false qa false 8)
  | .vinsert k d a b => formR 0x10 k d a b (lowV true false false false 9)
  | .vadd k d a b w e qa qb => formR 0x11 k d a b (lowV w e qa qb 0)
  | .vsub k d a b w e qa qb => formR 0x11 k d a b (lowV w e qa qb 1)
  | .vmul k d a b w e qa qb => formR 0x11 k d a b (lowV w e qa qb 2)
  | .vmulh k d a b w e qa qb => formR 0x11 k d a b (lowV w e qa qb 3)
  | .vmin k d a b w e qa qb => formR 0x11 k d a b (lowV w e qa qb 4)
  | .vmax k d a b w e qa qb => formR 0x11 k d a b (lowV w e qa qb 5)
  | .vand k d a b w e qa qb => formR 0x11 k d a b (lowV w e qa qb 6)
  | .vor k d a b w e qa qb => formR 0x11 k d a b (lowV w e qa qb 7)
  | .vxor k d a b w e qa qb => formR 0x11 k d a b (lowV w e qa qb 8)
  | .vsll k d a b w e qa qb => formR 0x11 k d a b (lowV w e qa qb 9)
  | .vsrl k d a b w e qa qb => formR 0x11 k d a b (lowV w e qa qb 10)
  | .vsra k d a b w e qa qb => formR 0x11 k d a b (lowV w e qa qb 11)
  | .vabs k d a w e qa => formR 0x11 k d a 0 (lowV w e qa false 12)
  | .vwmac k d a b e qa qb => formR 0x11 k d a b (lowV true e qa qb 13)
  | .vdiv k d a b w e qa qb => formR 0x11 k d a b (lowV w e qa qb 14)
  | .vrem k d a b w e qa qb => formR 0x11 k d a b (lowV w e qa qb 15)
  | .vcmpeq k d a b e qa qb => formR 0x11 k d a b (lowV true e qa qb 16)
  | .vcmplt k d a b e qa qb => formR 0x11 k d a b (lowV true e qa qb 17)
  | .vcmple k d a b e qa qb => formR 0x11 k d a b (lowV true e qa qb 18)
  | .vsel k d a b w e qa qb => formR 0x11 k d a b (lowV w e qa qb 19)
  | .vfadd k d a b w e qa qb => formR 0x12 k d a b (lowV w e qa qb 0)
  | .vfsub k d a b w e qa qb => formR 0x12 k d a b (lowV w e qa qb 1)
  | .vfmul k d a b w e qa qb => formR 0x12 k d a b (lowV w e qa qb 2)
  | .vfaddX k d a b e qa qb => formR 0x12 k d a b (lowV true e qa qb 3)
  | .vfsubX k d a b e qa qb => formR 0x12 k d a b (lowV true e qa qb 4)
  | .vfmulX k d a b e qa qb => formR 0x12 k d a b (lowV true e qa qb 5)
  | .vfma k d a b e qa qb => formR 0x12 k d a b (lowV true e qa qb 6)
  | .vfdiv k d a b w e qa qb => formR 0x12 k d a b (lowV w e qa qb 7)
  | .vfsqrt k d a w e qa => formR 0x12 k d a 0 (lowV w e qa false 8)
  | .vfrcp k d a w e qa => formR 0x12 k d a 0 (lowV w e qa false 9)
  | .vfexp2 k d a w e qa => formR 0x12 k d a 0 (lowV w e qa false 10)
  | .vflog2 k d a w e qa => formR 0x12 k d a 0 (lowV w e qa false 11)
  | .vfmin k d a b w e qa qb => formR 0x12 k d a b (lowV w e qa qb 12)
  | .vfmax k d a b w e qa qb => formR 0x12 k d a b (lowV w e qa qb 13)
  | .vfcmpeq k d a b e qa qb => formR 0x12 k d a b (lowV true e qa qb 14)
  | .vfcmplt k d a b e qa qb => formR 0x12 k d a b (lowV true e qa qb 15)
  | .vfcmple k d a b e qa qb => formR 0x12 k d a b (lowV true e qa qb 16)
  | .vfclass k d a w e qa => formR 0x12 k d a 0 (lowV w e qa false 17)
  | .vdwadd k d a b e => formR 0x12 k d a b (lowV true e false false 18)
  | .vdwmul k d a b e => formR 0x12 k d a b (lowV true e false false 19)
  | .vdwnorm k d a e => formR 0x12 k d a 0 (lowV true e false false 20)
  | .vredsumX k d a e => formR 0x12 k d a 0 (lowV true e false false 21)
  | .vcvt k d a e qa => formR 0x13 k d a 0 (lowV true e qa false 0)
  | .vscale k d a f e qa => formR 0x13 k d a f (lowV true e qa false 1)
  | .vquant k d a b e qa qb => formR 0x13 k d a b (lowV true e qa qb 2)
  | .vdeq k d a b e qa qb => formR 0x13 k d a b (lowV true e qa qb 3)
  | .vld k d a sp o qa => formR 0x14 k d a 0 (lowV sp o qa false 0)
  | .vlds k d a b sp o qa => formR 0x14 k d a b (lowV sp o qa false 1)
  | .vldx k d a b sp o qa => formR 0x14 k d a b (lowV sp o qa false 2)
  | .vldb k d a b sp o qa => formR 0x14 k d a b (lowV sp o qa false 3)
  | .vst k d a sp o => formR 0x15 k d a 0 (lowV sp o false false 0)
  | .vsts k d a b sp o => formR 0x15 k d a b (lowV sp o false false 1)
  | .vstx k d a b sp o => formR 0x15 k d a b (lowV sp o false false 2)
  | .vstt d a b => formR 0x15 false d a b (lowV true false false false 3)
  | .vgather k d a b e qb => formR 0x16 k d a b (lowV true e false qb 0)
  | .vslideup k d a b w e qa => formR 0x16 k d a b (lowV w e qa false 1)
  | .vslidedn k d a b w e qa => formR 0x16 k d a b (lowV w e qa false 2)
  | .vcompress k d a b e qa => formR 0x16 k d a b (lowV true e qa false 3)
  | .vexpand k d a b e qa => formR 0x16 k d a b (lowV true e qa false 4)
  | .vrev k d a w e qa => formR 0x16 k d a 0 (lowV w e qa false 5)
  | .vmand k d a b => formR 0x16 k d a b (lowV true false false false 6)
  | .vmor k d a b => formR 0x16 k d a b (lowV true false false false 7)
  | .vmxor k d a b => formR 0x16 k d a b (lowV true false false false 8)
  | .vmnot k d a => formR 0x16 k d a 0 (lowV true false false false 9)
  | .vmpop k d a => formR 0x16 k d a 0 (lowV true false false false 10)
  | .vmffs k d a => formR 0x16 k d a 0 (lowV true false false false 11)
  | .vmset k d a => formR 0x16 k d a 0 (lowV true false false false 12)
  | .vmffsr k d a => formR 0x16 k d a 0 (lowV true false false false 13)
  | .vredsum k d a e qa => formR 0x17 k d a 0 (lowV true e qa false 0)
  | .vredmax k d a e qa => formR 0x17 k d a 0 (lowV true e qa false 1)
  | .vredmin k d a e qa => formR 0x17 k d a 0 (lowV true e qa false 2)
  | .vredand k d a e qa => formR 0x17 k d a 0 (lowV true e qa false 3)
  | .vredor k d a e qa => formR 0x17 k d a 0 (lowV true e qa false 4)
  | .vscansum k d a b e qa => formR 0x17 k d a b (lowV true e qa false 5)
  | .vscanmax k d a b e qa => formR 0x17 k d a b (lowV true e qa false 6)
  | .vscanand k d a b e qa => formR 0x17 k d a b (lowV true e qa false 7)
  | .vsegsum k d a b e qa => formR 0x17 k d a b (lowV true e qa false 8)
  | .vsegmax k d a b e qa => formR 0x17 k d a b (lowV true e qa false 9)
  | .tagw d a b => formR 0x18 false d a b (lowT 0 0)
  | .tagr d a => formR 0x18 false d a 0 (lowT 1 0)
  | .tmatch d a => formR 0x18 false d a 0 (lowT 2 0)
  | .toprSet d a b y => formR 0x18 false d a b (lowT 3 y)
  | .toprAdd d a b y => formR 0x18 false d a b (lowT 4 y)
  | .toprMuls d a b y => formR 0x18 false d a b (lowT 5 y)
  | .toprClr d a => formR 0x18 false d a 0 (lowT 6 0)
  | .toprRetag d a b => formR 0x18 false d a b (lowT 7 0)
  | .mzero d => formR 0x19 false d 0 0 (lowX 0 0)
  | .mop d a b => formR 0x19 false d a b (lowX 0 1)
  | .mldw d a b => formR 0x19 false d a b (lowX 0 2)
  | .mkeep d a b => formR 0x19 false d a b (lowX 0 3)
  | .mdrain d a b => formR 0x19 false d a b (lowX 0 4)
  | .mtov d a b => formR 0x19 false d a b (lowX 0 5)
  | .mfromv d a b => formR 0x19 false d a b (lowX 0 6)
  | .mwait => formR 0x19 false 0 0 0 (lowX 0 7)
  | .dcopy d a b c => formR 0x1A false d a b (lowX c 0)
  | .dcopy2d d a => formR 0x1A false d a 0 (lowX 0 1)
  | .dfill d a b c => formR 0x1A false d a b (lowX c 2)
  | .tkwait d a s => formR 0x1A false d a 0 (lowX (pad 5 s) 3)
  | .tktest d a s => formR 0x1A false d a 0 (lowX (pad 5 s) 4)
  | .ddeal d a => formR 0x1A false d a 0 (lowX 0 5)
  | .cmv d a b c => formR 0x1B false d a b (lowX c 0)
  | .cwrite d a b => formR 0x1B false d a b (lowX 0 1)
  | .ccommit d a => formR 0x1B false d a 0 (lowX 0 2)
  | .cstat d a => formR 0x1B false d a 0 (lowX 0 3)
  | .ccal d a => formR 0x1B false d a 0 (lowX 0 4)
  | .binst d a b c => formR 0x1C false d a b (lowX c 0)
  | .bmsg d a b c => formR 0x1C false d a b (lowX c 1)
  | .bstat d a => formR 0x1C false d a 0 (lowX 0 2)
  | .vscore k d a b w => formR 0x1D k d a b (lowV w false false false 0)
  | .vexpm k d b w => formR 0x1D k d 4 b (lowV w false true false 1)
  | .vaccv k d b => formR 0x1D k d 4 b (lowV true false true false 2)
  | .vsoftfin k d a b qa => formR 0x1D k d a b (lowV true false qa false 3)
  | .vtreem k d a => formR 0x1D k d a 0 (lowV true false false false 4)
  | .vaccept k d a => formR 0x1E k d a 0 (lowV true false false false 0)
  | .vcommitm k d a b qa => formR 0x1E k d a b (lowV true false qa false 1)
  | .vmaxi k d a b => formR 0x1E k d a b (lowV true false false false 2)
  | .pdlook d a b c => formR 0x1F false d a b (lowX c 0)
  | .pdins d a b c => formR 0x1F false d a b (lowX c 1)
  | .pdref d a => formR 0x1F false d a 0 (lowX 0 2)
  | .pdunref d a => formR 0x1F false d a 0 (lowX 0 3)
  | .pdstat d a => formR 0x1F false d a 0 (lowX 0 4)
  | .pfx pm pn em ek dc dce rm sat => formP pm pn em ek dc dce rm sat
  | .bHalt => formBrixem 0 0 0 0 0
  | .bLi d i => formBrixem 1 d 0 0 i
  | .bAdd d a b i => formBrixem 2 d a b i
  | .bSub d a b => formBrixem 3 d a b 0
  | .bAnd d a b => formBrixem 4 d a b 0
  | .bShl d a i => formBrixem 5 d a 0 (pad 15 i)
  | .bShr d a i => formBrixem 6 d a 0 (pad 15 i)
  | .bBnz a i => formBrixem 7 0 a 0 i
  | .bBz a i => formBrixem 8 0 a 0 i
  | .bLdq d a i => formBrixem 9 d a 0 i
  | .bStq a b i => formBrixem 10 0 a b i
  | .bMode i => formBrixem 11 0 0 0 (pad 15 (BitVec.ofBool i))
  | .bAct a => formBrixem 12 0 a 0 0
  | .bPre => formBrixem 13 0 0 0 0
  | .bXld a i => formBrixem 14 0 a 0 (pad 15 (BitVec.ofBool i))
  | .bMac a b => formBrixem 15 0 a b 0
  | .bAclr => formBrixem 16 0 0 0 0
  | .bAclrEntry b => formBrixem 16 0 0 b 1
  | .bArd a b => formBrixem 17 0 a b 0
  | .bRout a i => formBrixem 18 0 a 0 (pad 15 i)
  | .deviceReset => 0
  | .bootStage _ _ _ => 0
  | .coreCycle => 0
  | .laneHoldExpiry _ => 0
  | .laneGrant _ => 0
  | .budget => 0
  | .launchWaitExpiry _ => 0
  | .gangPlacement _ _ => 0
  | .memberExit _ => 0
  | .barrierComplete _ _ => 0
  | .waittInstant _ => 0
  | .waitaddrWake _ => 0
  | .sendtArrival _ => 0
  | .matrixExecute _ => 0
  | .copyComplete _ => 0
  | .dealPassage _ => 0
  | .cwriteComplete _ => 0
  | .versionSwitch _ => 0
  | .arrayPass _ _ _ => 0
  | .cmvComplete _ => 0
  | .recalibration _ _ _ => 0
  | .rotationSwitch _ _ => 0
  | .handlerStart _ => 0
  | .modeSwitchDone _ => 0
  | .kittyService _ _ => 0
  | .patrol _ _ _ => 0
  | .faultHoldRelease _ _ => 0
  | .coreSwitch _ _ => 0
  | .localStoreSave _ => 0
  | .killScrub _ _ => 0
  | .releaseScrub _ _ => 0
  | .errorEntryDone _ => 0
  | .linkDown _ => 0
  | .linkRetrained _ => 0
  | .peerPortFail _ => 0
  | .hostLinkFail => 0
  | .hostLinkReset => 0
  | .ideIntegrityFailure _ => 0
  | .tdispViolation _ => 0
  | .flr _ => 0
  | .lockInterface _ => 0
  | .startInterface _ => 0
  | .stopInterface _ => 0
  | .getDeviceInterfaceReport _ => 0
  | .getDeviceInterfaceState _ => 0
  | .getVersion => 0
  | .getCapabilities => 0
  | .negotiateAlgorithms _ _ => 0
  | .getDigests => 0
  | .getCertificate => 0
  | .challenge _ => 0
  | .getMeasurements _ _ => 0
  | .keyExchange _ => 0
  | .finish _ => 0
  | .ideKm _ _ => 0
  | .d3cold => 0
  | .d3hotRequest => 0
  | .start _ _ => 0
  | .grant _ => 0
  | .exportAudit _ => 0
  | .auditack _ => 0
  | .powerLimit _ => 0
  | .powerWindow _ => 0
  | .registerWrite _ _ _ => 0
  | .hostOrPeerWrite _ _ _ => 0
  | .cxlMemRead _ _ => 0
  | .snoopInvalidate _ _ => 0
  | .illegal _ => 0
  | .handlerInstall _ => 0
  | .peerRead _ _ => 0
  | .unknownOp _ => 0

/-- Why a word is no instruction (R106, R108). -/
inductive Reject where
  /-- Its major opcode or its op value is not listed in Table 5.4 (or Table 15.4). -/
  | unlisted
  /-- A field that it does not use is not 0. -/
  | reserved
  /-- A field holds a value that R103 to R107 or its entry forbids. -/
  | operand
deriving DecidableEq, Repr

/-- What a hart reads from a word: the instruction it names, when no unused field is set and every field is allowed. -/
def decodeWord (w : Word) : Except Reject Instr :=
  match rawDecode w with
  | none => .error .unlisted
  | some i => if encode i ≠ w then .error .reserved else if i.wf then .ok i else .error .operand

/-- What a bank sequencer reads from a Brixem word (R293, R296). -/
noncomputable def decodeBrixem (w : Word) : Except Reject Instr :=
  match rawBrixem w with
  | none => .error .unlisted
  | some i => if encode i ≠ w then .error .reserved else if i.wf then .ok i else .error .operand

/-- A word with its K bit cleared. -/
def clearK (w : Word) : Word := fld w 26 6 ++ 0#1 ++ fld w 0 25

/-- The word of VEXPM or VACCV with `cv` as va, when it names another operand that R104 allows there: R332 makes that a breach of
the convoy's composition, and no ILLEGAL. -/
def chainWord (w : Word) : Word :=
  if fld w 26 6 = 0x1D#6 ∧ (fld w 0 6 = 1#6 ∨ fld w 0 6 = 2#6) ∧ sourceOk (bit w 7) (fld w 15 5) then
    fld w 20 12 ++ 4#5 ++ fld w 8 7 ++ 1#1 ++ fld w 0 7
  else w

/-- What a hart reads from the word of a convoy member (R34, R35, R108, R110, R332): the flag tells of a word that is no ILLEGAL
but breaks its convoy wherever it stands, a K bit of 1 on an instruction that forms a convoy of one and a va other than `cv` in
the attention chain. -/
def decodeMember (w : Word) : Except Reject (Instr × Bool) :=
  match decodeWord w with
  | .ok i => .ok (i, false)
  | .error e =>
    match decodeWord (chainWord w) with
    | .ok i => .ok (i, true)
    | .error _ =>
      match decodeWord (clearK w) with
      | .ok i => if i.joins || i.isPfx then .error e else .ok (i, bit w 25)
      | .error _ => .error e

/-- The four bytes of a word, the lowest address first (R100), and the word that four bytes hold. -/
def wordBytes (w : Word) : List Byte := [fld w 0 8, fld w 8 8, fld w 16 8, fld w 24 8]
def bytesWord : List Byte → Word
  | [b0, b1, b2, b3] => b3 ++ b2 ++ b1 ++ b0
  | _ => 0

/-- The instruction that the bits of an opcode-table row stand for: its bytes laid out as storage holds them, read as a hart
reads them, or, where that rejects them, as a bank sequencer does.  A Brixem word can have the bits of a hart's word; the
agent that fetches it decides, and this function, which has only the bits, takes the hart's reading first. -/
noncomputable def decodeTableWord (nbits w : Nat) : Option Instr :=
  if nbits > 32 then none
  else
    let word := bytesWord (wordBytes (BitVec.ofNat 32 (w % 2 ^ nbits)))
    match decodeWord word with
    | .ok i => some i
    | .error _ =>
      match decodeBrixem word with
      | .ok i => some i
      | .error _ => none

end Sys2Proof
end

