-- ==== Sys2Proof/Machine/Memory.lean ====
section
/-! DEFINITION. Bytes at addresses, in one canonical form: addresses strictly rising, no byte equal to 0, which every
unlisted address reads as.  Physical memory (Table 22.2), a scratchpad and a weight buffer are all held so.  That memory
nothing has written reads as 0 is the model's choice (DESIGN CHOICE); a local store reads 0 when a gang takes it (R76). -/

namespace Sys2Proof
namespace Machine

/-- What an unlisted address reads as. -/
def unlisted : Byte := 0

def memRead : List Host.Cell → Nat → Byte
  | [], _ => unlisted
  | (k, v) :: t, a => if a = k then v else if a < k then unlisted else memRead t a

/-- The write of one byte. -/
def memWrite : List Host.Cell → Nat → Byte → List Host.Cell
  | [], a, b => if b = unlisted then [] else [(a, b)]
  | (k, v) :: t, a, b =>
    if a = k then (if b = unlisted then t else (a, b) :: t)
    else if a < k then (if b = unlisted then (k, v) :: t else (a, b) :: (k, v) :: t)
    else (k, v) :: memWrite t a b

def memReadN (m : List Host.Cell) (a n : Nat) : List Byte := (span a n).map (memRead m)

def memWriteN (m : List Host.Cell) : Nat → List Byte → List Host.Cell
  | _, [] => m
  | a, b :: bs => memWriteN (memWrite m a b) (a + 1) bs

/-- Every byte of a range set to 0: its entries go. -/
def memZero (m : List Host.Cell) (a n : Nat) : List Host.Cell := m.filter (fun c => c.1 < a || a + n ≤ c.1)

/-- The canonical form: addresses strictly rising from `lo`, no byte equal to what an unlisted address reads as. -/
def memWfFrom (lo : Nat) : List Host.Cell → Bool
  | [] => true
  | (k, v) :: t => decide (lo ≤ k) && v != unlisted && memWfFrom (k + 1) t

def Memory.wf (m : List Host.Cell) : Bool := memWfFrom 0 m

end Machine
end Sys2Proof
end

