-- ==== Sys2Proof/Machine/Flags.lean ====
section
/-! DEFINITION. The exceptions of Table 3.6, the exception sets of Table 3.7 and the FFLAGS update (R62 to R64). -/

namespace Sys2Proof
namespace Machine

/-! ### The seven exceptions, at their FFLAGS bits (Table 3.6) -/

abbrev Flags := BitVec 7

def Flags.none : Flags := 0
def Flags.nx : Flags := 0x01
def Flags.uf : Flags := 0x02
def Flags.of : Flags := 0x04
def Flags.dz : Flags := 0x08
def Flags.nv : Flags := 0x10
def Flags.ex : Flags := 0x20
def Flags.sa : Flags := 0x40

/-- The flags of a condition. -/
def Flags.when (c : Bool) (f : Flags) : Flags := if c then f else 0

/-- The exception set that an EK value selects (Table 3.7). -/
def exceptionSet (ek : BitVec 3) : Flags :=
  match ek.toNat with
  | 0 => Flags.nv ||| Flags.of ||| Flags.dz
  | 1 => Flags.nv
  | 2 => Flags.of
  | 3 => Flags.nv ||| Flags.of ||| Flags.dz ||| Flags.uf
  | 4 => Flags.nx
  | 5 => Flags.ex
  | 6 => Flags.sa
  | _ => 0x7F

/-- Whether an element's flags belong to the selected set (R64). -/
def excepts (ek : BitVec 3) (f : Flags) : Bool := f &&& exceptionSet ek != 0

/-- FFLAGS after an instruction that raises `f`: each exception sets its bit, and none is cleared (R62). -/
def accrue (fflags f : Flags) : Flags := fflags ||| f

end Machine
end Sys2Proof
end

