-- ==== Sys2Proof/Machine/Num.lean ====
section
/-! DEFINITION. Numbers of chapter "Number formats and exact arithmetic": exact values, the six rounding modes, the IEEE,
tapered and E8 formats, exact pairs and double words. -/

namespace Sys2Proof
namespace Machine

/-! ### Exact values -/

/-- A number that an encoding stands for: NaN, an infinity, or (−1)^neg · m · 2^e, zeros with their sign. -/
inductive Val where
  | nan
  | inf (neg : Bool)
  | fin (neg : Bool) (m : Nat) (e : Int)
deriving DecidableEq, Repr

/-- A binary format by the widths of its exponent and fraction fields (Table 3.2). -/
structure FpFmt where
  eb : Nat
  fb : Nat
deriving DecidableEq, Repr

def fp16 : FpFmt := { eb := 5, fb := 10 }
def bf16 : FpFmt := { eb := 8, fb := 7 }
def fp32 : FpFmt := { eb := 8, fb := 23 }
def fp64 : FpFmt := { eb := 11, fb := 52 }

def FpFmt.bits (f : FpFmt) : Nat := 1 + f.eb + f.fb
def FpFmt.bias (f : FpFmt) : Int := 2 ^ (f.eb - 1) - 1
/-- Exponent of the least significant bit of the subnormals. -/
def FpFmt.qmin (f : FpFmt) : Int := 1 - f.bias - f.fb
/-- Exponent field of infinities and NaNs, in place. -/
def FpFmt.top (f : FpFmt) : Nat := (2 ^ f.eb - 1) * 2 ^ f.fb
/-- The canonical NaN (Table 3.2). -/
def FpFmt.nan (f : FpFmt) : Nat := f.top + 2 ^ (f.fb - 1)
def FpFmt.sign (f : FpFmt) (neg : Bool) : Nat := if neg then 2 ^ (f.eb + f.fb) else 0

/-- The value of an encoding (R50). -/
def FpFmt.val (f : FpFmt) (w : Nat) : Val :=
  let neg := w.testBit (f.eb + f.fb)
  let ex := w / 2 ^ f.fb % 2 ^ f.eb
  let fr := w % 2 ^ f.fb
  if ex = 2 ^ f.eb - 1 then (if fr = 0 then .inf neg else .nan)
  else if ex = 0 then .fin neg fr f.qmin
  else .fin neg (2 ^ f.fb + fr) (f.qmin + (ex - 1))

/-- An encoding with every NaN made the canonical one (R51). -/
def FpFmt.canon (f : FpFmt) (w : Nat) : Nat := if f.val w = .nan then f.nan else w

/-- An exact integer as a value; 0 is +0. -/
def Val.ofInt (i : Int) : Val := .fin (decide (i < 0)) i.natAbs 0

def Val.isZero : Val → Bool
  | .fin _ m _ => m == 0
  | _ => false

def Val.isFinite : Val → Bool
  | .fin .. => true
  | _ => false

def Val.neg : Val → Val
  | .nan => .nan
  | .inf s => .inf (!s)
  | .fin s m e => .fin (!s) m e

def Val.abs : Val → Val
  | .nan => .nan
  | .inf _ => .inf false
  | .fin _ m e => .fin false m e

/-- The signed multiple of 2^base that a finite value is, for base at or below its exponent. -/
def scaled (neg : Bool) (m : Nat) (e base : Int) : Int :=
  let k : Nat := m * 2 ^ (e - base).toNat
  if neg then - (k : Int) else k

/-- Order of two values; no order with NaN. -/
def Val.lt : Val → Val → Bool
  | .nan, _ => false
  | _, .nan => false
  | .inf a, .inf b => a && !b
  | .inf a, .fin .. => a
  | .fin .., .inf b => !b
  | .fin s m e, .fin t n d =>
    if m == 0 && n == 0 then false
    else if m == 0 then !t
    else if n == 0 then s
    else if s != t then s
    else
      let le := (Nat.log2 m : Int) + e
      let ld := (Nat.log2 n : Int) + d
      if le != ld then (decide (le < ld)) != s
      else
        let base := if e ≤ d then e else d
        decide (scaled s m e base < scaled t n d base)

/-- Equality of two values: zeros are equal, NaN equals nothing. -/
def Val.eq (a b : Val) : Bool :=
  match a, b with
  | .nan, _ => false
  | _, .nan => false
  | _, _ => !a.lt b && !b.lt a

def Val.le (a b : Val) : Bool := a.lt b || a.eq b

/-! ### Exact operations -/

/-- a + b, exactly.  `down` says whether a zero sum of values that are not both negative zeros has sign −, as roundTowardNegative
gives it (R59).  Opposite infinities give NaN with NV (Table 3.6). -/
def Val.add (down : Bool) : Val → Val → Val × Flags
  | .nan, _ => (.nan, 0)
  | _, .nan => (.nan, 0)
  | .inf a, .inf b => if a == b then (.inf a, 0) else (.nan, Flags.nv)
  | .inf a, .fin .. => (.inf a, 0)
  | .fin .., .inf b => (.inf b, 0)
  | .fin s m e, .fin t n d =>
    if m == 0 && n == 0 then (.fin (if s == t then s else down) 0 0, 0)
    else if m == 0 then (.fin t n d, 0)
    else if n == 0 then (.fin s m e, 0)
    else
      let base := if e ≤ d then e else d
      let z := scaled s m e base + scaled t n d base
      if z = 0 then (.fin down 0 0, 0) else (.fin (decide (z < 0)) z.natAbs base, 0)

/-- a · b, exactly.  Zero times an infinity gives NaN with NV. -/
def Val.mul : Val → Val → Val × Flags
  | .nan, _ => (.nan, 0)
  | _, .nan => (.nan, 0)
  | .inf a, .inf b => (.inf (a != b), 0)
  | .inf a, .fin t n _ => if n == 0 then (.nan, Flags.nv) else (.inf (a != t), 0)
  | .fin s m _, .inf b => if m == 0 then (.nan, Flags.nv) else (.inf (s != b), 0)
  | .fin s m e, .fin t n d => (.fin (s != t) (m * n) (e + d), 0)

/-- a · b + c, exactly (R138, R167). -/
def Val.fma (down : Bool) (a b c : Val) : Val × Flags :=
  let (p, f) := a.mul b
  let (r, g) := p.add down c
  (r, f ||| g)

/-- Extra bits of an inexact quotient, root, power or logarithm below its most significant bit. -/
def extraBits : Nat := 120

/-- A magnitude m · 2^e known up to a remainder: with `more`, the exact magnitude lies strictly between m and m + 1 units.
The appended bit keeps every later rounding decision right. -/
def sticky (m : Nat) (e : Int) (more : Bool) : Nat × Int := (2 * m + (if more then 1 else 0), e - 1)

/-- a / b (Table 6.4, Table 7.6): a finite nonzero value over zero gives an infinity with DZ, 0/0 and ∞/∞ NaN with NV. -/
def Val.div : Val → Val → Val × Flags
  | .nan, _ => (.nan, 0)
  | _, .nan => (.nan, 0)
  | .inf _, .inf _ => (.nan, Flags.nv)
  | .inf a, .fin t _ _ => (.inf (a != t), 0)
  | .fin s _ _, .inf b => (.fin (s != b) 0 0, 0)
  | .fin s m e, .fin t n d =>
    if n == 0 then (if m == 0 then (.nan, Flags.nv) else (.inf (s != t), Flags.dz))
    else if m == 0 then (.fin (s != t) 0 0, 0)
    else
      let k := extraBits + Nat.log2 n
      let q := m * 2 ^ k / n
      let (q', e') := sticky q (e - d - k) (m * 2 ^ k % n != 0)
      (.fin (s != t) q' e', 0)

/-- ⌊√n⌋ below 2^(i+1), by its bits from i down, given the bits above. -/
def isqrtFrom (n : Nat) : Nat → Nat → Nat
  | 0, r => if (r + 1) * (r + 1) ≤ n then r + 1 else r
  | i + 1, r =>
    let r' := r + 2 ^ (i + 1)
    isqrtFrom n i (if r' * r' ≤ n then r' else r)

/-- ⌊√n⌋. -/
def isqrt (n : Nat) : Nat := isqrtFrom n (Nat.log2 n / 2 + 1) 0

/-- √a: √(−0) = −0, a negative nonzero value gives NaN with NV. -/
def Val.sqrt : Val → Val × Flags
  | .nan => (.nan, 0)
  | .inf neg => if neg then (.nan, Flags.nv) else (.inf false, 0)
  | .fin neg m e =>
    if m == 0 then (.fin neg 0 0, 0)
    else if neg then (.nan, Flags.nv)
    else
      let (m, e) := if e % 2 = 0 then (m, e) else (2 * m, e - 1)
      let n := m * 2 ^ (2 * extraBits)
      let r := isqrt n
      let (r', e') := sticky r (e / 2 - extraBits) (r * r != n)
      (.fin false r' e', 0)

/-- ln 2 in units of 2^-240, truncated. -/
def ln2 : Nat := 0xb17217f7d1cf79abc9e3b39803f2f6af40f343267298b62d8a0d175b8baa

/-- Σ y^k/k! for k from `j`, in units of 2^-240, given the term of k = j. -/
def expSeries (y : Nat) : Nat → Nat → Nat → Nat
  | 0, _, t => t
  | fuel + 1, j, t => t + expSeries y fuel (j + 1) (t * y / 2 ^ 240 / (j + 1))

/-- Σ z^(2k+1)/(2k+1), in units of 2^-240, for z² = `zz` and the power `t` of z to the odd `j`. -/
def atanhSeries (zz : Nat) : Nat → Nat → Nat → Nat
  | 0, _, _ => 0
  | fuel + 1, j, t => t / j + atanhSeries zz fuel (j + 2) (t * zz / 2 ^ 240)

/-- 2^a (Table 7.6), exact for an integer a.  An exponent beyond every format's range stands for any such. -/
def Val.exp2 : Val → Val × Flags
  | .nan => (.nan, 0)
  | .inf neg => if neg then (.fin false 0 0, 0) else (.inf false, 0)
  | .fin neg m e =>
    if m == 0 then (.fin false 1 0, 0)
    else if (Nat.log2 m : Int) + e ≥ 14 then (.fin false 1 (if neg then -20000 else 20000), 0)
    else if e ≥ 0 then (.fin false 1 (scaled neg m e 0), 0)
    else
      -- a = n + f with n an integer and 0 ≤ f < 1, f in units of 2^e
      let u := (-e).toNat
      let i := scaled neg m e e
      let n := i / ((2 ^ u : Nat) : Int)
      let f := (i % ((2 ^ u : Nat) : Int)).toNat
      if f = 0 then (.fin false 1 n, 0)
      else
        let y := f * ln2 / 2 ^ u
        let r := expSeries y 80 0 (2 ^ 240)
        let (r', e') := sticky r ((n : Int) - 240) true
        (.fin false r' e', 0)

/-- log2 a (Table 7.6), exact for a power of two. -/
def Val.log2 : Val → Val × Flags
  | .nan => (.nan, 0)
  | .inf neg => if neg then (.nan, Flags.nv) else (.inf false, 0)
  | .fin neg m e =>
    if m == 0 then (.inf true, Flags.dz)
    else if neg then (.nan, Flags.nv)
    else
      let l := Nat.log2 m
      if m = 2 ^ l then (Val.ofInt (l + e), 0)
      else
        -- z = (x − 1)/(x + 1) for the mantissa x of 1 ≤ x < 2
        let z := (m - 2 ^ l) * 2 ^ 240 / (m + 2 ^ l)
        let r : Nat := 2 * atanhSeries (z * z / 2 ^ 240) 130 1 z * 2 ^ 240 / ln2
        let t : Int := (l + e) * (2 ^ 240 : Nat) + r
        let (r', e') := sticky (if t < 0 then t.natAbs - 1 else t.natAbs) (-240) true
        (.fin (decide (t < 0)) r' e', 0)

/-- minimumNumber and maximumNumber (R51): the other operand where one is NaN; −0 below +0. -/
def Val.minNum (a b : Val) : Val :=
  match a, b with
  | .nan, _ => b
  | _, .nan => a
  | _, _ => if a.lt b then a else if b.lt a then b else (match a with | .fin s _ _ => if s then a else b | _ => a)

def Val.maxNum (a b : Val) : Val :=
  match a, b with
  | .nan, _ => b
  | _, .nan => a
  | _, _ => if a.lt b then b else if b.lt a then a else (match a with | .fin s _ _ => if s then b else a | _ => a)

/-! ### Rounding (R58 to R60) -/

/-- A rounding mode number of Table 3.4, with the generator state that RSR uses. -/
structure Rnd where
  mode : Nat
  gen : BitVec 32
deriving DecidableEq, Repr

/-- RNE, whatever the generator. -/
def Rnd.rne : Rnd := { mode := 0, gen := 0 }

/-- One step of a generator (R60). -/
def genStep (s : BitVec 32) : BitVec 32 :=
  let fb := s.getLsbD 31 ^^ s.getLsbD 21 ^^ s.getLsbD 1 ^^ s.getLsbD 0
  (s <<< 1) ||| (BitVec.ofBool fb).setWidth 32

/-- Before a rounding under RSR the generator steps once, exact results, infinities and NaNs included (R60). -/
def Rnd.next (r : Rnd) : Rnd := if r.mode = 5 then { r with gen := genStep r.gen } else r

/-- The mode that rounds toward −∞, under which an exact zero sum is −0. -/
def Rnd.down (r : Rnd) : Bool := r.mode == 2

/-- Whether a magnitude that lies `rem` of `unit` above the even or odd candidate goes to the next one (Table 3.4, R60). -/
def roundsUp (r : Rnd) (neg odd : Bool) (rem unit : Nat) : Bool :=
  match r.mode with
  | 0 => unit < 2 * rem || (unit == 2 * rem && odd)
  | 1 => false
  | 2 => neg && rem != 0
  | 3 => !neg && rem != 0
  | 4 => unit ≤ 2 * rem
  | _ => r.gen.toNat * unit < rem * 2 ^ 32

/-- m · 2^e as a multiple of 2^q, rounded: the multiple, and whether it is inexact. -/
def roundAt (r : Rnd) (neg : Bool) (m : Nat) (e q : Int) : Nat × Bool :=
  if q ≤ e then (m * 2 ^ (e - q).toNat, false)
  else
    let k := (q - e).toNat
    let a := m >>> k
    let rem := m % 2 ^ k
    (if roundsUp r neg (a % 2 == 1) rem (2 ^ k) then a + 1 else a, rem != 0)

/-- Result of a rounding: encoding, flags, and the generator after it. -/
structure Rounded where
  bits : Nat
  flags : Flags
  gen : BitVec 32
deriving DecidableEq, Repr

/-- What overflow gives (R59): infinity, or the largest finite magnitude, by mode and sign. -/
def overflowBits (f : FpFmt) (r : Rnd) (neg : Bool) : Nat :=
  let toInf := match r.mode with
    | 1 => false
    | 2 => neg
    | 3 => !neg
    | _ => true
  f.sign neg + (if toInf then f.top else f.top - 1)

/-- A value rounded once to a binary format with the generator already stepped (R51, R59, R60).  Under RSR too, a result is tiny
when it is so after rounding, here by the random bits, to an unbounded exponent (DESIGN CHOICE, log entry 35). -/
def roundCore (f : FpFmt) (r : Rnd) : Val → Nat × Flags
  | .nan => (f.nan, 0)
  | .inf neg => (f.sign neg + f.top, 0)
  | .fin neg m e =>
    if m = 0 then (f.sign neg, 0)
    else
      let l : Int := (Nat.log2 m : Int) + e
      let emin := f.qmin + f.fb
      let q := if l - f.fb < f.qmin then f.qmin else l - f.fb
      let (sig, inexact) := roundAt r neg m e q
      let mag := (q - f.qmin).toNat * 2 ^ f.fb + sig
      -- RSR overflows exactly where RNE does
      let exceeds :=
        if r.mode ≤ 4 then f.top ≤ mag
        else
          let (sigN, _) := roundAt Rnd.rne neg m e q
          f.top ≤ (q - f.qmin).toNat * 2 ^ f.fb + sigN
      if exceeds then (overflowBits f r neg, Flags.of ||| Flags.nx)
      else
        let mag := if f.top ≤ mag then f.top - 1 else mag
        -- tininess after rounding, to the format's precision with an unbounded exponent
        let tiny :=
          if emin ≤ l then false
          else if l < emin - 1 then true
          else (roundAt r neg m e (l - f.fb)).1 < 2 ^ (f.fb + 1)
        (f.sign neg + mag, Flags.when inexact Flags.nx ||| Flags.when (inexact && tiny) Flags.uf)

/-- A value rounded once to a binary format. -/
def roundTo (f : FpFmt) (r : Rnd) (v : Val) : Rounded :=
  let r' := r.next
  let (b, fl) := roundCore f r' v
  { bits := b, flags := fl, gen := r'.gen }

/-- A value rounded to an integer in a range (R65, R140): out of range gives the nearest bound and NaN gives 0, with NV. -/
def roundToInt (lo hi : Int) (r : Rnd) (v : Val) : Int × Flags × BitVec 32 :=
  let r' := r.next
  match v with
  | .nan => (0, Flags.nv, r'.gen)
  | .inf neg => (if neg then lo else hi, Flags.nv, r'.gen)
  | .fin neg m e =>
    let (k, inexact) := if m = 0 then (0, false)
      else if (Nat.log2 m : Int) + e > 128 then (2 ^ 128, false) else roundAt r' neg m e 0
    let i : Int := if neg then -(k : Int) else k
    if i < lo then (lo, Flags.nv, r'.gen)
    else if hi < i then (hi, Flags.nv, r'.gen)
    else (i, Flags.when inexact Flags.nx, r'.gen)

/-! ### Tapered formats and E8 (R52 to R57) -/

/-- Length of the regime run of a magnitude of `top` + 1 bits: the bits equal to bit `top`, from it down (R52). -/
def regimeRun (m top : Nat) : Nat → Nat
  | 0 => 1
  | fuel + 1 =>
    let n := top + 1 - (fuel + 1)
    if m.testBit (fuel) == m.testBit top then regimeRun m top fuel else n

/-- The magnitude of a T8 code's field (R52): a mantissa and an exponent. -/
def t8Mag (m : Nat) : Nat × Int :=
  let n := regimeRun m 6 6
  let n := if n > 6 then 6 else n
  let k : Int := if m.testBit 6 then n - 1 else -n
  let left := 6 - n
  let e : Int := if left ≥ 1 ∧ m.testBit (left - 1) then 1 else 0
  let fw := left - 1
  (2 ^ fw + m % 2 ^ fw, 2 * k + e - fw)

/-- The magnitude of a T6 code's field (R53). -/
def t6Mag (m : Nat) : Nat × Int :=
  let n := regimeRun m 4 4
  let n := if n > 4 then 4 else n
  let k : Int := if m.testBit 4 then n - 1 else -n
  let left := 4 - n
  (2 ^ left + m % 2 ^ left, k - left)

/-- A tapered format: the number of magnitude bits (7 or 5) and the value of each magnitude. -/
structure Taper where
  mb : Nat
  mag : Nat → Nat × Int

def taper8 : Taper := { mb := 7, mag := t8Mag }
def taper6 : Taper := { mb := 5, mag := t6Mag }

/-- The value of a tapered code; bits above the sign are ignored (R54). -/
def Taper.val (t : Taper) (w : Nat) : Val :=
  let m := w % 2 ^ t.mb
  let neg := w.testBit t.mb
  if m = 0 then .fin neg 0 0
  else if m = 2 ^ t.mb - 1 then .nan
  else .fin neg (t.mag m).1 (t.mag m).2

/-- The magnitude value of a code, 0 for code 0. -/
def Taper.magVal (t : Taper) (m : Nat) : Val := if m = 0 then .fin false 0 0 else .fin false (t.mag m).1 (t.mag m).2

/-- The largest code whose magnitude is at or below x, by its bits from i down. -/
def Taper.below (t : Taper) (x : Val) : Nat → Nat → Nat
  | 0, c => c
  | i + 1, c =>
    let c' := c + 2 ^ i
    Taper.below t x i (if c' < 2 ^ t.mb - 1 && (t.magVal c').le x then c' else c)

/-- Rounding to T8 or T6 (R55).  A NaN takes the code whose magnitude is all ones, with sign 0: 0x7F, and for T6, whose code R55
does not give, 0x1F (DESIGN CHOICE, log entry 35). -/
def Taper.round (t : Taper) (r : Rnd) (v : Val) : Rounded :=
  let r' := r.next
  let big := 2 ^ t.mb - 2
  let sgn := fun neg => if neg then 2 ^ t.mb else 0
  match v with
  | .nan => { bits := 2 ^ t.mb - 1, flags := 0, gen := r'.gen }
  | .inf neg => { bits := sgn neg + big, flags := Flags.of ||| Flags.nx, gen := r'.gen }
  | .fin neg m e =>
    if m = 0 then { bits := sgn neg, flags := 0, gen := r'.gen }
    else
      let x := Val.fin false m e
      let c := t.below x t.mb 0
      let a := t.magVal c
      if x.eq a then { bits := sgn neg + c, flags := 0, gen := r'.gen }
      else if c = big then { bits := sgn neg + big, flags := Flags.of ||| Flags.nx, gen := r'.gen }
      else
        -- the distance from a, and from a to the next magnitude, in one unit
        let d := (x.add false a.neg).1
        let g := ((t.magVal (c + 1)).add false a.neg).1
        let up := match d, g with
          | .fin _ dm de, .fin _ gm ge =>
            let base := if de ≤ ge then de else ge
            roundsUp r' neg (c % 2 == 1) (scaled false dm de base).toNat (scaled false gm ge base).toNat
          | _, _ => false
        let c' := if up then c + 1 else c
        { bits := sgn neg + c', flags := Flags.nx ||| Flags.when (c' == 0) Flags.uf, gen := r'.gen }

/-- The value of an E8 code (R56). -/
def e8Val (w : Nat) : Val :=
  if w % 256 = 255 then .nan else .fin false 1 ((w % 256 : Nat) - 127 : Int)

/-- Conversion to E8 (R174). -/
def e8Round (v : Val) : Nat × Flags :=
  match v with
  | .fin false m e =>
    if m = 0 then (0xFF, Flags.nv)
    else
      let l : Int := (Nat.log2 m : Int) + e
      let inexact := Flags.when (m != 2 ^ Nat.log2 m) Flags.nx
      if l < -127 then (0, inexact ||| Flags.uf)
      else if 127 < l then (254, inexact ||| Flags.of)
      else ((l + 127).toNat, inexact)
  | _ => (0xFF, Flags.nv)

/-! ### Formats of elements (Table 3.1) -/

def Fmt.code : Fmt → Nat
  | .bits => 0 | .i8 => 1 | .u8 => 2 | .i16 => 3 | .u16 => 4 | .i32 => 5 | .u32 => 6 | .i64 => 7
  | .f16 => 8 | .bf16 => 9 | .f32 => 10 | .t8 => 11 | .t6 => 12 | .e8 => 13

/-- The format of a tag code; codes 14 to 31 are reserved (R48). -/
def Fmt.ofCode? (n : Nat) : Option Fmt :=
  match n with
  | 0 => some .bits | 1 => some .i8 | 2 => some .u8 | 3 => some .i16 | 4 => some .u16 | 5 => some .i32 | 6 => some .u32
  | 7 => some .i64 | 8 => some .f16 | 9 => some .bf16 | 10 => some .f32 | 11 => some .t8 | 12 => some .t6 | 13 => some .e8
  | _ => none

/-- Width in registers in bytes; 0 stands for the declared width (tag 0). -/
def Fmt.bytes : Fmt → Nat
  | .bits => 0 | .i8 => 1 | .u8 => 1 | .i16 => 2 | .u16 => 2 | .i32 => 4 | .u32 => 4 | .i64 => 8
  | .f16 => 2 | .bf16 => 2 | .f32 => 4 | .t8 => 1 | .t6 => 1 | .e8 => 1

def Fmt.isInt : Fmt → Bool
  | .i8 | .u8 | .i16 | .u16 | .i32 | .u32 | .i64 => true
  | _ => false

def Fmt.isFloat : Fmt → Bool
  | .f16 | .bf16 | .f32 => true
  | _ => false

def Fmt.signed : Fmt → Bool
  | .i8 | .i16 | .i32 | .i64 => true
  | _ => false

def Fmt.fp : Fmt → FpFmt
  | .f16 => fp16
  | .bf16 => Sys2Proof.Machine.bf16
  | _ => fp32

/-- The significand precision of a float format (R68). -/
def FpFmt.precision (f : FpFmt) : Nat := f.fb + 1

/-- The integer that the low bits of a register slot hold in an integer format. -/
def intOf (signed : Bool) (bits : Nat) (w : XWord) : Int :=
  let u := w.toNat % 2 ^ bits
  if signed && decide (2 ^ (bits - 1) ≤ u) then (u : Int) - 2 ^ bits else u

def Fmt.int (f : Fmt) (w : XWord) : Int := intOf f.signed (8 * f.bytes) w

/-- The value that the low bits of a slot hold, in any format with values. -/
def Fmt.val (f : Fmt) (w : XWord) : Val :=
  match f with
  | .t8 => taper8.val (w.toNat % 256)
  | .t6 => taper6.val (w.toNat % 64)
  | .e8 => e8Val (w.toNat % 256)
  | .f16 | .bf16 | .f32 => f.fp.val (w.toNat % 2 ^ f.fp.bits)
  | _ => Val.ofInt (f.int w)

/-- An integer wrapped to a number of bits, as the low bits of a slot. -/
def wrapBits (bits : Nat) (i : Int) : XWord := BitVec.ofNat 64 (i % (2 ^ bits : Nat)).toNat

/-- Bounds of an integer format of `bits` bits. -/
def intLo (signed : Bool) (bits : Nat) : Int := if signed then -(2 ^ (bits - 1) : Nat) else 0
def intHi (signed : Bool) (bits : Nat) : Int := if signed then (2 ^ (bits - 1) : Nat) - 1 else (2 ^ bits : Nat) - 1

/-- An exact integer result in an integer format: wrapped, or with SAT clamped with SA (R49). -/
def narrowInt (f : Fmt) (sat : Bool) (i : Int) : XWord × Flags :=
  let b := 8 * f.bytes
  if sat then
    let lo := intLo f.signed b
    let hi := intHi f.signed b
    if i < lo then (wrapBits b lo, Flags.sa) else if hi < i then (wrapBits b hi, Flags.sa) else (wrapBits b i, 0)
  else (wrapBits b i, 0)

/-- Whether a conversion performs a rounding (Table 3.8): a source that is no integer rounds to an integer; an integer rounds to a
binary float; between binary floats only widening is exact (R140); a block-scaled source converts as FP32 does; T8 and T6 round by
R55.  Equal formats round nothing.  DEDUCED for the vector conversions. -/
def convRounds (src dst : Fmt) : Bool :=
  src != dst && match dst with
  | .i8 | .u8 | .i16 | .u16 | .i32 | .u32 | .i64 => !src.isInt
  | .t8 | .t6 => true
  | .e8 | .bits => false
  | .f32 => src.isInt
  | .bf16 | .f16 => true

/-- Conversion of one element between formats (Table 3.8, R55, R174), where a rounding is due under the mode. -/
def convert (src dst : Fmt) (sat : Bool) (r : Rnd) (w : XWord) : XWord × Flags × BitVec 32 :=
  if src = dst && !src.isFloat && src != .t8 && src != .t6 && src != .e8 then (w, 0, r.gen)
  else
    let rr := if convRounds src dst then r else { r with mode := 0 }
    match dst with
    | .i8 | .u8 | .i16 | .u16 | .i32 | .u32 | .i64 =>
      if src.isInt then
        let (b, f) := narrowInt dst sat (src.int w)
        (b, f, r.gen)
      else
        let bits := 8 * dst.bytes
        let (i, f, g) := roundToInt (intLo dst.signed bits) (intHi dst.signed bits) rr (src.val w)
        (wrapBits bits i, f, if r.mode = 5 then g else r.gen)
    | .t8 =>
      let o := taper8.round rr (src.val w)
      (BitVec.ofNat 64 o.bits, o.flags, o.gen)
    | .t6 =>
      let o := taper6.round rr (src.val w)
      (BitVec.ofNat 64 o.bits, o.flags, o.gen)
    | .e8 =>
      let (b, f) := e8Round (src.val w)
      (BitVec.ofNat 64 b, f, r.gen)
    | .f16 | .bf16 | .f32 =>
      let o := roundTo dst.fp rr (src.val w)
      (BitVec.ofNat 64 o.bits, o.flags, o.gen)
    | .bits => (w, 0, r.gen)

/-! ### Exact pairs and double words (R66 to R69) -/

/-- A pair of encodings in one format, with the flags of the steps that made it. -/
structure Pair where
  h : Nat
  l : Nat
  flags : Flags
deriving DecidableEq, Repr

/-- R66 and R67 for an exact sum or product `x`, where `x` is a finite value of finite inputs; `mul` marks a product. -/
def exactPair (f : FpFmt) (mul finiteIn : Bool) (x : Val) (fl : Flags) : Pair :=
  let (h, fh) := roundCore f Rnd.rne x
  let overflow := fh &&& Flags.of != 0
  if !finiteIn || overflow then { h := h, l := 0, flags := fl ||| fh }
  else
    let d := (x.add false (f.val h).neg).1
    let (l, fd) := roundCore f Rnd.rne d
    let l := if (f.val l).isZero then 0 else l
    let ex := mul && fd &&& Flags.nx != 0
    { h := h, l := l, flags := fh ||| Flags.when ex (Flags.ex ||| Flags.nx) }

/-- TwoSum and TwoProd of encodings (R66, R67). -/
def twoSum (f : FpFmt) (a b : Nat) : Pair :=
  let x := f.val a
  let y := f.val b
  let (z, fl) := x.add false y
  exactPair f false (x.isFinite && y.isFinite) z fl

def twoProd (f : FpFmt) (a b : Nat) : Pair :=
  let x := f.val a
  let y := f.val b
  let (z, fl) := x.mul y
  exactPair f true (x.isFinite && y.isFinite) z fl

/-- round(a + b, RNE) of two encodings. -/
def addRne (f : FpFmt) (a b : Nat) : Nat × Flags :=
  let (z, fl) := (f.val a).add false (f.val b)
  let (h, fh) := roundCore f Rnd.rne z
  (h, fl ||| fh)

/-- A pair with a NaN or an infinite component gives (that head, +0); flags stay those of the steps (R68). -/
def pairSpecial (f : FpFmt) (vs : List Nat) (p : Pair) : Pair :=
  if vs.any (fun v => f.val v == .nan) then { p with h := f.nan, l := 0 }
  else if vs.any (fun v => !(f.val v).isFinite) then { p with l := 0 }
  else p

/-- DWNorm (R68). -/
def dwNorm (f : FpFmt) (h l : Nat) : Pair := pairSpecial f [h, l] (twoSum f h l)

/-- DWAdd (R68). -/
def dwAdd (f : FpFmt) (ah al bh bl : Nat) : Pair :=
  let s := twoSum f ah bh
  let t := twoSum f al bl
  let (sl, f1) := addRne f s.l t.h
  let s2 := twoSum f s.h sl
  let (sl2, f2) := addRne f s2.l t.l
  let r := twoSum f s2.h sl2
  pairSpecial f [ah, al, bh, bl]
    { r with flags := s.flags ||| t.flags ||| f1 ||| s2.flags ||| f2 ||| r.flags }

/-- DWMul (R68): ah·bl + al·bh exactly, with one rounding. -/
def dwMul (f : FpFmt) (ah al bh bl : Nat) : Pair :=
  let p := twoProd f ah bh
  let (x, f1) := (f.val ah).mul (f.val bl)
  let (y, f2) := (f.val al).mul (f.val bh)
  let (z, f3) := x.add false y
  let (t, f4) := roundCore f Rnd.rne z
  let (pl, f5) := addRne f p.l t
  let r := twoSum f p.h pl
  pairSpecial f [ah, al, bh, bl]
    { r with flags := p.flags ||| f1 ||| f2 ||| f3 ||| f4 ||| f5 ||| r.flags }

/-! ### Exact sums (R70, R71) -/

/-- A sum of values taken exactly, from +0; opposite infinities give NaN with NV.  DESIGN CHOICE: R71 does not say whether NV is
raised when a NaN operand stands beside infinities of both signs; here it is when the infinities meet before the NaN (log entry
16). -/
def sumExact (vs : List (Val × Flags)) : Val × Flags :=
  vs.foldl (fun (acc : Val × Flags) (v : Val × Flags) =>
    let (z, f) := acc.1.add false v.1
    (z, acc.2 ||| v.2 ||| f)) (.fin false 0 0, 0)

/-! ### Class codes (R139, R169) -/

/-- KIND, NEG and INTEGRAL of an encoding. -/
def FpFmt.classOf (f : FpFmt) (w : Nat) : Nat :=
  let v := f.val w
  let kind := match v with
    | .nan => 4
    | .inf _ => 3
    | .fin _ m _ => if m = 0 then 0 else if w / 2 ^ f.fb % 2 ^ f.eb = 0 then 1 else 2
  let integral := match v with
    | .fin _ m e => m == 0 || decide (0 ≤ e) || m % 2 ^ (-e).toNat == 0
    | _ => false
  kind + (if w.testBit (f.eb + f.fb) then 8 else 0) + (if integral then 16 else 0)

end Machine
end Sys2Proof
end

