-- ==== Sys2Proof/Machine/MopDesc.lean ====
section
/-! DEFINITION. The operand descriptor of MOP (Table 14.5), and the bytes of S-space that a queued matrix instruction reads
(R266, R270). -/

namespace Sys2Proof
namespace Machine

/-- The descriptor of Table 14.5. -/
def mopBase (d : XWord) : Nat := xbits d 0 21
def mopScaled (d : XWord) : Bool := d.getLsbD 24
def mopColumns (d : XWord) : Bool := d.getLsbD 25
def mopSource (d : XWord) : Bool := d.getLsbD 26
def mopSparse (d : XWord) : Bool := d.getLsbD 27
def mopPitch (d : XWord) : Nat := xbits d 32 15
def mopScaleRow (d : XWord) : Nat := xbits d 48 15

def mopFormat (d : XWord) : Option Fmt :=
  match xbits d 21 3 with
  | 0 => some .f16 | 1 => some .bf16 | 2 => some .i8 | 3 => some .t8 | 4 => some .t6
  | _ => none

/-- Bytes from BASE on that an S-space operand's elements reach. -/
def mopExtent (d : XWord) (w k : Nat) : Nat :=
  if mopColumns d then 64 * (mopPitch d * ((k - 1) * w / 64) + 64) else 64 * ((k - 1) * mopPitch d) + 64 * w

/-- S-space ranges that an operand of MOP reads at its point, as first byte and length: its elements, and its scale rows. -/
def MopOperand.spReads (o : MopOperand) (k : Nat) : List (Nat × Nat) :=
  (match o.group, mopFormat o.desc with
    | none, some f => if mopSource o.desc then [(mopBase o.desc, mopExtent o.desc f.bytes k)] else []
    | _, _ => [])
    ++ (if mopScaled o.desc then [(64 * mopScaleRow o.desc, 64 * ((k + 31) / 32))] else [])

/-- S-space ranges that a queued matrix instruction reads at its point. -/
def MatrixOp.spReads : MatrixOp → List (Nat × Nat)
  | .zero _ => []
  | .mop _ k a b _ => a.spReads k ++ b.spReads k
  | .load .. => []
  | .drain .. => []

end Machine
end Sys2Proof
end

