-- ==== Sys2Proof/Machine/Ops.lean ====
section
/-! DEFINITION. The named operations that instructions share: registers, address checks and translation, memory and S-space
accesses, strips and their commit, taking a trap and returning from one, and the end of a context. -/

namespace Sys2Proof
namespace Machine

abbrev Result := Host.Outcome State Fault Refusal

/-- A cause as it is met: its code of Table 23.1, the value for TVL, the access bits, the sequence index of the element, and
the 16-bit units that reads and walks up to it found mismatched (R406), each with the virtual address of the access, and how far the
free values are used up. -/
structure Trap where
  code : Nat
  tv : XWord
  fetch : Bool := false
  write : Bool := false
  sspace : Bool := false
  index : Nat := 0
  found : List (Nat × XWord) := []
  drawn : Nat := 0
deriving DecidableEq, Repr

/-- Why an instruction does not complete in this step: it meets a cause, or it waits. -/
inductive Stop where
  | trap (t : Trap)
  | wait (w : Wait)
deriving DecidableEq, Repr

/-- What an instruction's effect yields. -/
abbrev Eff := Except Stop

/-! ### Cause codes (Table 23.1) -/

def cILLEGAL : Nat := 0x01
def cCONVOY : Nat := 0x02
def cOVLP : Nat := 0x03
def cPRIV : Nat := 0x04
def cDIVZ : Nat := 0x05
def cALIGN : Nat := 0x06
def cXLAT : Nat := 0x07
def cPROT : Nat := 0x08
def cPOISON : Nat := 0x09
def cSTAMP : Nat := 0x0A
def cBUDGET : Nat := 0x0B
def cQLEFT : Nat := 0x0C
def cTRAPI : Nat := 0x0E
def cENGINE : Nat := 0x0F
def cDECL : Nat := 0x10

/-- The handler entry of a cause (Table 23.1). -/
def causeGroup (code : Nat) : Nat :=
  if code = cDIVZ then 1
  else if code = cALIGN ∨ code = cXLAT ∨ code = cPROT ∨ code = cPOISON then 2
  else if code = cBUDGET ∨ code = cQLEFT then 3
  else if code = cSTAMP then 4
  else if code = cTRAPI then 5
  else if code = cENGINE then 6
  else 0

/-- Whether a cause is delivered as a strip-restart at trap level 0 (Table 23.1). -/
def causeRestarts (t : Trap) : Bool :=
  !t.fetch && (t.code == cALIGN || t.code == cXLAT || t.code == cPROT || t.code == cPOISON || t.code == cBUDGET
    || t.code == cQLEFT)

/-! ### State accessors -/

def State.regs (s : State) : Regs := s.hart.regs
def State.setHart (s : State) (h : Hart) : State := { s with hart := h }
def State.setRegs (s : State) (r : Regs) : State := { s with hart := { s.hart with regs := r } }

/-- Scalar register read: x0 reads 0 (R122). -/
def readX (r : Regs) (i : BitVec 5) : XWord := if i = 0 then 0 else r.x[i.toNat]

/-- Scalar register write: a write to x0 is discarded (R122). -/
def writeX (r : Regs) (i : BitVec 5) (v : XWord) : Regs := if i = 0 then r else { r with x := r.x.set i.toNat v }

def State.x (s : State) (i : BitVec 5) : XWord := readX s.regs i
def State.setX (s : State) (i : BitVec 5) (v : XWord) : State := s.setRegs (writeX s.regs i v)
def State.setPc (s : State) (v : XWord) : State := s.setRegs { s.regs with pc := v }
/-- The next word (R100). -/
def State.advance (s : State) : State := s.setPc (s.regs.pc + 4)
/-- FFLAGS with the exceptions raised (R62). -/
def State.raise (s : State) (f : Flags) : State := s.setRegs { s.regs with fflags := accrue s.regs.fflags f }

/-- The place in R364's order of a hart that becomes ready within core cycle n: after every hart that was ready at its choice. -/
def readyAt (n : Nat) : Nat := 3 * n + 2
/-- That of a hart whose instant opens core cycle n (R218): it takes part in the cycle's choice, after those ready before. -/
def instantAt (n : Nat) : Nat := 3 * n
/-- That of a hart that executes YIELD in core cycle n: the last at the next cycle's choice, before those that become ready later. -/
def yieldAt (n : Nat) : Nat := 3 * n + 4

/-- Whether a key is that of one of the four steward harts (R7, Table 1.1). -/
def stewardKey (k : Nat) : Bool := decide (Config.stewardBase ≤ k) && decide (k < Config.stewardBase + Config.stewards)

/-- The core and slot of the executing hart, and its core's compute die.  DESIGN CHOICE (log entry 61): core c lies on die c / 96, in
cluster c / 8; Table 1.1 gives the counts alone. -/
def State.coreId (s : State) : Nat := s.cur / 8
def State.slotId (s : State) : Nat := s.cur % 8
def State.dieId (s : State) : Nat := s.coreId / Config.coresPerDie
def State.coreAt (s : State) (c : Nat) : Core := mgetD s.cores c .initial
def State.setCoreAt (s : State) (c : Nat) (k : Core) : State := { s with cores := mset s.cores c k }
def State.core (s : State) : Core := s.coreAt s.coreId
def State.setCore (s : State) (k : Core) : State := s.setCoreAt s.coreId k
def State.ctxAt (s : State) (c : Nat) : Ctx := mgetD s.ctxs c .initial
def State.setCtxAt (s : State) (c : Nat) (k : Ctx) : State := { s with ctxs := mset s.ctxs c k }
def State.ctx (s : State) : Ctx := s.ctxAt s.hart.ctx
def State.hartAt (s : State) (k : Nat) : Hart := if k = s.cur then s.hart else mgetD s.harts k .initial
def State.setHartAt (s : State) (k : Nat) (h : Hart) : State :=
  if k = s.cur then { s with hart := h } else { s with harts := mset s.harts k h }
def State.chanAt (s : State) (p : Nat) : Chan := mgetD s.chans p .initial
def State.setChanAt (s : State) (p : Nat) (c : Chan) : State := { s with chans := mset s.chans p c }

/-- Every hart that exists, by key. -/
def State.allHarts (s : State) : List (Nat × Hart) := (s.cur, s.hart) :: s.harts

/-- Every hart changed. -/
def State.mapHarts (s : State) (f : Nat → Hart → Hart) : State :=
  { s with hart := f s.cur s.hart, harts := mmap f s.harts }

/-- The executing hart becomes the one with key k. -/
def State.focus (s : State) (k : Nat) : State :=
  if k = s.cur then s
  else
    let rest := if s.hart = .initial then mdel s.harts s.cur else mset s.harts s.cur s.hart
    { s with cur := k, hart := mgetD rest k .initial, harts := mdel rest k }

/-- A free value is used up: the next one has the next number. -/
def State.draw (s : State) : State := { s with free := s.free + 1 }

/-! ### Instruction outcomes that several entries share -/

/-- ILLEGAL at the executing instruction's own word (R108). -/
def illegal {α : Type} (s : State) : Eff α := .error (.trap { code := cILLEGAL, tv := s.regs.pc })
/-- DECL at the executing instruction's own word. -/
def declFault {α : Type} (s : State) : Eff α := .error (.trap { code := cDECL, tv := s.regs.pc })
def privFault {α : Type} (s : State) : Eff α := .error (.trap { code := cPRIV, tv := s.regs.pc })
def protFault {α : Type} (tv : XWord) (sspace write : Bool) (index : Nat := 0) : Eff α :=
  .error (.trap { code := cPROT, tv := tv, sspace := sspace, write := write, index := index })
def illegalWhen (s : State) (c : Bool) : Eff Unit := if c then illegal s else .ok ()

/-! ### Residues, poison and the error queue (R299, R405 to R411) -/

/-- The context that owns a frame, through its grant (R97). -/
def Grant.owns (g : Grant) (frame : Nat) : Bool := g.frames.contains frame || g.slots.contains (frame / 256)

def ownerOf (s : State) (pa : Nat) : Option Nat :=
  (s.ctxs.find? (fun c => match c.2.grant with
    | some g => decide (pa < Config.deviceBytes) && g.owns (pa / Config.frameBytes)
    | none => false)).map (·.1)

/-- Bytes written at the home with good residues: the units wholly covered lose any bad code. -/
def clearUnits (bad : Map (BitVec 2)) (pa n : Nat) : Map (BitVec 2) :=
  bad.filter (fun u => !(decide (pa ≤ 2 * u.1) && decide (2 * u.1 + 2 ≤ pa + n)))

/-- Bytes of memory replaced, with the note of who wrote what over what (R90, R98). -/
def State.put (s : State) (by_ : Writer) (pa : Nat) (data : List Byte) : State :=
  { s with
    mem := memWriteN s.mem pa data
    written := { by_ := by_, pa := pa, old := memReadN s.mem pa data.length, new := data } :: s.written }

/-- Bytes that the device itself writes, whole (R411, R353). -/
def State.devWrite (s : State) (pa : Nat) (data : List Byte) : State :=
  { s.put .outside pa data with badUnits := clearUnits s.badUnits pa data.length }

/-- The gang identifier of a gang's number, whether or not the gang still lives; 0 for none. -/
def State.gidOf (s : State) (gang : Nat) : BitVec 32 := mgetD s.gids gang 0

/-- An error record of Table 25.4, as 64 bytes. -/
def errBytes (e : ErrRec) : List Byte :=
  leBytes 8 e.eseq ++ leBytes 4 (e.kind + 256 * e.agent) ++ leBytes 4 e.gid.toNat ++ leBytes 8 e.va.toNat ++ leBytes 8 e.pa
    ++ leBytes 8 e.gtime ++ leBytes 2 e.aux ++ leBytes 2 e.aux2 ++ List.replicate 20 0

/-- An error record appended to the queue of a context, if any, and reported to function 0 (R409 to R411). -/
def State.reportError (s : State) (ctx : Option Nat) (kind agent gang va pa aux aux2 : Nat) : State :=
  let base : ErrRec :=
    { ctx := ctx, eseq := 0, kind := kind, agent := agent, gid := s.gidOf gang, va := xword va, pa := pa, gtime := s.gtime,
      aux := aux, aux2 := aux2 }
  match ctx with
  | none => { s with dev := { s.dev with errors := base :: s.dev.errors } }
  | some c =>
    let k := s.ctxAt c
    let e := k.errLast + 1
    let rec' := { base with eseq := e }
    let s := s.setCtxAt c { k with errLast := e }
    let s := { s with dev := { s.dev with errors := rec' :: s.dev.errors } }
    let s := s.devWrite (k.errBase + 64 * (1 + (e - 1) % 255)) (errBytes rec')
    s.devWrite k.errBase (leBytes 8 e)

/-- A read at the home that finds mismatched units poisons each and records it once (R406).  `agent` and `gang` are those of
Table 25.4. -/
def State.foundBad (s : State) (agent gang : Nat) (units : List (Nat × XWord)) : State :=
  units.foldl (fun s u =>
    match mget? s.badUnits u.1 with
    | none => s
    | some c =>
      if c = 3 then s
      else
        let s := { s with badUnits := mset s.badUnits u.1 3 }
        s.reportError (ownerOf s (2 * u.1)) 1 agent gang u.2.toNat (2 * u.1) 0 0) s

/-- The units that the walks of the executing instruction have found so far; their turns come first (R406). -/
def State.finds (s : State) : List (Nat × XWord) :=
  (s.agenda.map (fun t => match t with
    | .found _ _ u va => some (u, va)
    | _ => none)).takeWhile Option.isSome |>.filterMap id

/-- A cause met after accesses that have led to `s`: what their walks have found is found. -/
def keepFinds {α : Type} (s : State) (r : Eff α) : Eff α :=
  match r with
  | .error (.trap t) => .error (.trap { t with found := s.finds ++ t.found, drawn := max s.free t.drawn })
  | r => r

/-- The two units at the ends of a range that it covers in part. -/
def partUnits (pa n : Nat) : List Nat :=
  (if n = 0 then [] else if pa % 2 = 1 then [pa / 2] else [])
    ++ (if (pa + n) % 2 = 1 ∧ (n > 1 ∨ pa % 2 = 0) then [(pa + n) / 2] else [])

/-- Whether the home discards a write: through the window of a failed peer port (R425), or into the audit region, which only
the audit unit writes (R380). -/
def discards (s : State) (pa : Nat) : Bool :=
  (decide (Config.peerBase ≤ pa) && s.dev.pfail.getLsbD ((pa - Config.peerBase) / 2 ^ 46))
    || (decide (Config.auditBase ≤ pa) && decide (pa < Config.auditBase + Config.auditBytes))

/-- The writer of a write by an agent of Table 25.4, for the hart that executes or that an engine works for. -/
def State.writerOf (s : State) (agent : Nat) : Writer :=
  match agent with
  | 0 => .hart s.cur
  | 1 => .engine s.coreId
  | 2 => .handler
  | _ => .outside

/-- The write of bytes to memory at the home, by an agent (R408): a unit covered in part keeps or takes poison when it was bad,
and its record names no virtual address for the host or a peer (Table 25.4).  A write that the home discards has no effect. -/
def State.homeWrite (s : State) (agent gang : Nat) (va : XWord) (pa : Nat) (data : List Byte) : State :=
  if discards s pa then s
  else
    let n := data.length
    let s := s.put (s.writerOf agent) pa data
    let s := (partUnits pa n).foldl (fun s u =>
      match mget? s.badUnits u with
      | none => s
      | some c =>
        if c = 3 then s
        else
          let b := if 2 * u < pa then pa else 2 * u
          let s := { s with badUnits := mset s.badUnits u 3 }
          s.reportError (ownerOf s (2 * u)) 2 agent gang (if 4 ≤ agent then 0 else va.toNat + (b - pa)) (2 * u) 0 0) s
    { s with badUnits := clearUnits s.badUnits pa n }

/-- The write of a range of any length at the home: its bytes in the audit region are discarded (R380). -/
def State.rangeWrite (s : State) (agent gang : Nat) (va : XWord) (pa : Nat) (data : List Byte) : State :=
  let top := Config.auditBase + Config.auditBytes
  let s := s.homeWrite agent gang va pa (data.take (Config.auditBase - pa))
  s.homeWrite agent gang (va + xword (max pa top - pa)) (max pa top) (data.drop (top - pa))

/-- Whether a byte lies in a unit that a read would not take as good. -/
def badByte (s : State) (pa : Nat) : Bool := (mget? s.badUnits (pa / 2)).isSome

/-! ### Translation (R92 to R98, R371) -/

/-- The kinds of access of Table 4.8. -/
inductive Access where
  | read | write | update | fetch
deriving DecidableEq, Repr

/-- A translated page: the physical address of its 4 KiB and its permissions. -/
structure Leaf where
  page : Nat
  r : Bool
  w : Bool
  x : Bool
deriving DecidableEq, Repr

def Leaf.allows (l : Leaf) : Access → Bool
  | .read => l.r
  | .write => l.w
  | .update => l.r && l.w
  | .fetch => l.x

/-- Virtual-address bits that index the table of a level (Table 4.6). -/
def levelIndex (va : Nat) : Nat → Nat
  | 3 => bitsAt va 39 18
  | 2 => bitsAt va 30 9
  | 1 => bitsAt va 21 9
  | _ => bitsAt va 12 9

/-- Bytes of virtual addresses that one entry of a level covers, which a leaf there maps. -/
def levelSize : Nat → Nat
  | 3 => 2 ^ 39
  | 2 => 2 ^ 30
  | 1 => 2 ^ 21
  | _ => 2 ^ 12

def allIn (a n step : Nat) (p : Nat → Bool) : Bool := (span 0 (n / step)).all (fun i => p (a + i * step))

/-- Whether ranges of a base and a size cover the addresses from one to another; each range helps once. -/
def covered (rs : List (Nat × Nat)) (hi : Nat) : Nat → Nat → Bool
  | 0, lo => decide (hi ≤ lo)
  | fuel + 1, lo =>
    decide (hi ≤ lo) || (match rs.find? (fun r => decide (r.1 ≤ lo) && decide (lo < r.1 + r.2)) with
      | some r => covered rs hi fuel (r.1 + r.2)
      | none => false)

/-- Whether a context may map a page: XLAT for a reserved range, PROT for what it does not own (R97, R371). -/
def mayMap (g : Grant) (base size : Nat) : Except Nat Unit :=
  if base < Config.deviceBytes then
    if (if size ≤ Config.frameBytes then g.owns (base / Config.frameBytes)
        else allIn (base / Config.frameBytes) (size / Config.frameBytes) 1 g.owns)
    then .ok () else .error cPROT
  else if base < Config.hostBase then .error cXLAT
  else if base < Config.peerBase then
    if covered g.hosts (base + size) g.hosts.length base then .ok () else .error cPROT
  else if base < Config.peerEnd then
    if g.peers.getLsbD ((base - Config.peerBase) / 2 ^ 46) then .ok () else .error cPROT
  else .error cXLAT

/-- Where a context sees its error queue: EQ of R409, from FRAMES and NFRAMES. -/
def errorQueueVa (g : Grant) : Nat :=
  (g.framesVa.toNat + 8 * (g.frames.length + 256 * g.slots.length) + 0xFFFF) / 0x10000 * 0x10000

/-- Whether a leaf is the one that the steward writes for the error queue: at EQ, readable and no more (R97, R445). -/
def stewardLeaf (c : Ctx) (g : Grant) (va : Nat) (e : Mapped) : Bool :=
  let p := va / 4096 * 4096
  let q := errorQueueVa g
  decide (q ≤ p) && decide (p < q + 16384) && e == .page (c.errBase + (p - q)) 4096 true false false

/-- One entry of a page table as it is read at a level (R94, R95).  A G64 entry serves its whole aligned 64 KiB. -/
def readEntry (e va lv : Nat) : Except Nat Mapped :=
  let pa := bitsAt e 12 40 * 4096
  let page := fun (pa size : Nat) => Mapped.page pa size (e.testBit 2) (e.testBit 3) (e.testBit 4)
  if e.testBit 0 = false then .error cXLAT
  else if bitsAt e 6 6 ≠ 0 ∨ bitsAt e 52 12 ≠ 0 then .error cXLAT
  else if e.testBit 5 ∧ lv ≠ 0 then .error cXLAT
  else if e.testBit 1 = false then (if lv = 0 then .error cXLAT else .ok (.table pa))
  else if lv = 3 then .error cXLAT
  else if (e.testBit 3 && !e.testBit 2) || !(e.testBit 2 || e.testBit 3 || e.testBit 4) then .error cXLAT
  else if e.testBit 5 then (if bitsAt pa 12 4 = bitsAt va 12 4 then .ok (page (pa / 65536 * 65536) 65536) else .error cXLAT)
  else if pa % levelSize lv ≠ 0 then .error cXLAT
  else .ok (page pa (levelSize lv))

/-- Bytes of virtual addresses for which an entry of a level serves. -/
def Mapped.reach (lv : Nat) : Mapped → Nat
  | .table _ => levelSize lv
  | .page _ size _ _ _ => size

/-- Whether a cached entry serves an address at a level. -/
def TlbEntry.serves (die : Nat) (asid : BitVec 16) (lv va : Nat) (e : TlbEntry) : Bool :=
  e.die == die && e.asid == asid && e.level == lv && decide (e.first ≤ va) && decide (va < e.first + e.reach)

/-- What a walk leaves behind: the number of the next free value, the entries that it puts into the caches, and the addresses of
those that it read at the home. -/
structure Walk where
  free : Nat
  new : List TlbEntry
  read : List Nat
deriving DecidableEq, Repr

/-- Some bytes from an address on as they were before a write. -/
def Written.undo (w : Written) (at_ : Nat) (bytes : List Byte) : List Byte :=
  bytes.zipIdx.map (fun b => if w.pa ≤ at_ + b.2 then (w.old[at_ + b.2 - w.pa]?).getD b.1 else b.1)

/-- Whether a write changed one of n bytes from an address on. -/
def Written.touches (w : Written) (at_ n : Nat) : Bool := decide (w.pa < at_ + n) && decide (at_ < w.pa + w.new.length)

/-- The smallest scope of Table 5.3 that holds a core and another, cores numbered as log entry 61 says. -/
def coreLevel (a b : Nat) : Nat :=
  if Config.cores ≤ a ∨ Config.cores ≤ b then 3
  else if a = b then 0
  else if a / Config.coresPerCluster = b / Config.coresPerCluster then 1
  else if a / Config.coresPerDie = b / Config.coresPerDie then 2
  else 3

/-- Whether an XINV covers a part of some bytes from a virtual address on (R225). -/
def Xinv.covers (x : Xinv) (from_ n : Nat) : Bool :=
  x.pages == 0 || (decide (from_ / 4096 < x.first + x.pages) && decide (x.first < (from_ + n) / 4096))

/-- Whether a hart of a core may no longer use an entry that stood in its table up to the write of a number: it was valid, and an
XINV in whose scope the core lies has dropped it since (R98, R225). -/
def droppedFor (s : State) (core : Nat) (asid : BitVec 16) (lv va upTo : Nat) (m : Except Nat Mapped) : Bool :=
  match m with
  | .ok e => s.xinvs.any (fun x =>
      x.asid == asid && decide (upTo < x.upTo) && decide (coreLevel core x.core ≤ x.scope)
        && x.covers (va / e.reach lv * e.reach lv) (e.reach lv))
  | .error _ => false

/-- The earlier values of some bytes that a walk for a hart may still return, each with the number of the write that replaced it:
those before its own writes, newest first, that no instruction of R98 orders before the access; `ordered` is how many of all writes
are so ordered. -/
def earlierValues (hart ordered at_ : Nat) : List Written → List Byte → List (List Byte × Nat)
  | [], _ => []
  | w :: ws, bytes =>
    if ws.length < ordered then []
    else if !w.touches at_ bytes.length then earlierValues hart ordered at_ ws bytes
    else if w.by_ = .hart hart then (w.undo at_ bytes, ws.length) :: earlierValues hart ordered at_ ws (w.undo at_ bytes)
    else []

/-- The entry that a walk uses at a level: the one now in its table; or, in a walk for the executing hart's own access, one that
stood there before stores of the hart that no instruction of R98 orders before it, and that no XINV has dropped; or one that a cache of the die still holds for
the address.  Where there is more than one, any may serve, and a free value chooses (R98, R401).  The table is read only from
device memory in a frame that the context owns (R97); for a table anywhere else the model raises PROT too (log entry 57). -/
def entryFor (s : State) (own : Bool) (die : Nat) (c : Ctx) (g : Grant) (va lv table : Nat) (w : Walk) : Except Nat Mapped × Walk :=
  let at_ := table + 8 * levelIndex va lv
  let owned := decide (table < Config.deviceBytes) && g.owns (table / Config.frameBytes)
  let bytes := memReadN s.mem at_ 8
  let entry := fun (l : List Byte) => readEntry (leNat l) va lv
  let fresh : Except Nat Mapped := if owned then entry bytes else .error cPROT
  let cached := ((s.tlb.filter (TlbEntry.serves die c.asid lv va)).map (fun e => Except.ok e.entry)).filter (fun m => m != fresh)
  let old := if owned && own then earlierValues s.cur s.hart.ordered at_ s.written bytes else []
  let earlier := ((old.map (fun o => (entry o.1, o.2))).filter
    (fun o => o.1 != fresh && !droppedFor s s.coreId c.asid lv va o.2 o.1)).map (·.1)
  let now := if owned then { w with read := at_ :: w.read } else w
  if cached.isEmpty && earlier.isEmpty then (fresh, now)
  else
    let n := (Config.free w.free).toNat % (cached.length + earlier.length + 1)
    match cached[n]? with
    | some m => (m, { w with free := w.free + 1 })
    | none => ((earlier[n - cached.length]?).getD fresh, { now with free := w.free + 1 })

/-- An entry put into the caches of a die, once. -/
def Walk.keep (w : Walk) (tlb : List TlbEntry) (die : Nat) (asid : BitVec 16) (lv va : Nat) (m : Mapped) : Walk :=
  let n := m.reach lv
  let e : TlbEntry := { die := die, asid := asid, level := lv, first := va / n * n, reach := n, entry := m }
  if tlb.contains e then w else { w with new := e :: w.new }

/-- The walk from a table on, level by level (R95, R97). -/
def walkFrom (s : State) (own : Bool) (die : Nat) (c : Ctx) (g : Grant) (va : Nat) : List Nat → Nat → Walk → Except Nat Leaf × Walk
  | [], _, w => (.error cXLAT, w)
  | lv :: rest, table, w =>
    match entryFor s own die c g va lv table w with
    | (.error k, w) => (.error k, w)
    | (.ok m, w) =>
      let w := w.keep s.tlb die c.asid lv va m
      match m with
      | .table next => walkFrom s own die c g va rest next w
      | .page pa size r wr x =>
        let l : Leaf := { page := pa + va % size / 4096 * 4096, r := r, w := wr, x := x }
        if stewardLeaf c g va m then (.ok l, w)
        else match mayMap g pa size with
          | .error k => (.error k, w)
          | .ok () => (.ok l, w)

/-- A walk of a context's page tables by the walker of a die (R93); `own` says that it is for an access of the executing hart. -/
def walk (s : State) (own : Bool) (die ctx va : Nat) : Except Nat Leaf × Walk :=
  let c := s.ctxAt ctx
  let w : Walk := { free := s.free, new := [], read := [] }
  match c.grant with
  | none => (.error cPROT, w)
  | some g => walkFrom s own die c g va [3, 2, 1, 0] g.ptroot w

/-- Units that a walk read and found mismatched, with the address that it translated (R406).  It takes the bytes that stand in
them as they are: the manual gives the walker no outcome (log entry 57). -/
def walkFound (s : State) (w : Walk) (va : XWord) : List (Nat × XWord) :=
  ((w.read.flatMap (fun a => span (a / 2) 4)).filter (fun u => match mget? s.badUnits u with
    | some c => c != 3
    | none => false)).map (fun u => (u, va))

/-- The state after a walk for an access: entries cached, and the mismatched units about to be poisoned and recorded. -/
def State.walked (s : State) (agent : Nat) (w : Walk) (va : XWord) : State :=
  { s with
    tlb := w.new ++ s.tlb, free := w.free
    agenda := (walkFound s w va).map (fun u => Turn.found agent s.hart.gang u.1 u.2) ++ s.agenda }

/-- The wait for a link that has left L0 (R424). -/
def linkWait (s : State) (pa : Nat) : Option Wait :=
  if Config.hostBase ≤ pa ∧ pa < Config.peerBase ∧ (mget? s.dev.linksDown 0).isSome then some .link
  else if Config.peerBase ≤ pa ∧ (mget? s.dev.linksDown (1 + (pa - Config.peerBase) / 2 ^ 46)).isSome then some .link
  else none

/-- The wait for a bank mode (R290), or for the footprint of a running handler (R322). -/
def bankWait (s : State) (pa : Nat) : Option Wait :=
  if pa < Config.deviceBytes then
    match mget? s.chans (pa / Config.slotBytes) with
    | none => none
    | some c =>
      if c.allBank || c.switching.isSome then some (.bankMode (pa / Config.slotBytes) s.gtime)
      else match c.run with
        | some r => if r.lo ≤ pa % Config.slotBytes ∧ pa % Config.slotBytes < r.hi then some .line else none
        | none => none
  else none

/-- Whether a command owns a 128-byte line of memory (R316). -/
def Cmd.ownsLine (s : State) (c : Cmd) (line : Nat) : Bool :=
  c.lines.contains line || c.late.any (fun va =>
    match (walk s false (c.core / Config.coresPerDie) c.ctx (va.toNat % 2 ^ 57)).1 with
    | .ok l => (l.page + va.toNat % 4096) / 128 == line
    | .error _ => false)

/-- The wait that a hart's access to a physical address meets: a link, a line that an engine command owns (R316), a bank. -/
def accessWait (s : State) (pa : Nat) : Option Wait :=
  match linkWait s pa with
  | some w => some w
  | none => if s.cmds.any (fun c => c.2.ownsLine s (pa / 128)) then some .line else bankWait s pa

/-! ### Accesses from outside, and the order of arrival (R250, R290) -/

/-- What an access from outside touches: whether it is the host's, its address and its bytes; none for one that is no access of
memory. -/
def Outside.bytes : Outside → Option (Bool × Nat × Nat)
  | .write peer pa data => some (!peer, pa, data.length)
  | .cxlRead pa n => some (true, pa, n)
  | .peerRead pa n => some (false, pa, n)
  | .snoop pa data => some (true, pa, data.length)
  | _ => none

/-- Whether an access from outside crosses the host link: all but those of peers do (R424). -/
def Outside.ofHost (o : Outside) : Bool :=
  match o.bytes with
  | some (host, _, _) => host
  | none => true

/-- The address that a start register names. -/
def startVa (c : Ctx) : XWord := sext 57 (xword (64 * c.startAddr.toNat))

/-- The translation of a part of a launch record: by a walk of no die's, which uses no cache. -/
def recordWalk (s : State) (ctx : Nat) (va : XWord) : Except Nat Leaf × Walk := walk s false Config.dies ctx (va.toNat % 2 ^ 57)

/-- What the read of a start's record touches, each an address and a number of bytes: the page-table entries of its two parts, and the
parts that translate (R352). -/
def recordSpans (s : State) (ctx : Nat) : List (Nat × Nat) :=
  let va := startVa (s.ctxAt ctx)
  [va, va + 64].flatMap (fun va =>
    if !canonical va then []
    else
      let (l, w) := recordWalk s ctx va
      w.read.map (fun a => (a, 8)) ++ (match l with | .ok l => [(l.page + va.toNat % 4096, 64)] | .error _ => []))

/-- Whether a line of n bytes is held: owned by an engine, recalled by a handler, in a bank that does not serve it, or behind a link
(R290, R316, R322, R424). -/
def spanHeld (s : State) (pa n : Nat) : Bool :=
  n != 0 && (span (pa / 128) ((pa + n - 1) / 128 + 1 - pa / 128)).any (fun l => (accessWait s (128 * l)).isSome)

/-- What an access from outside touches of memory. -/
def Outside.spans (s : State) : Outside → List (Nat × Nat)
  | .start ctx _ => recordSpans s ctx
  | o => (match o.bytes with | some (_, pa, n) => [(pa, n)] | none => [])

/-- Whether an access from outside is held: one of the host's by its link (R424), and any by what it touches. -/
def Outside.held (s : State) (o : Outside) : Bool :=
  (o.ofHost && (mget? s.dev.linksDown 0).isSome) || (o.spans s).any (fun r => spanHeld s r.1 r.2)

/-- Whether an access from outside that arrives now waits: behind others (R250), or because it is held. -/
def Outside.waits (s : State) (o : Outside) : Bool := !s.waiting.isEmpty || o.held s

/-- An access from outside joins those that wait (R250). -/
def State.defer (s : State) (o : Outside) : State := { s with waiting := s.waiting ++ [(s.gtime, o)] }

/-- Whether n bytes of memory lie, in part, in the slot of a pseudo-channel. -/
def inSlot (p pa n : Nat) : Bool :=
  n != 0 && decide (pa < (p + 1) * Config.slotBytes) && decide (p * Config.slotBytes < pa + n)

/-- Whether a running hart waits for a pseudo-channel's bank mode, apart from one of key k and from those that came at a time or
after it. -/
def olderHart (s : State) (k : Option Nat) (p since : Nat) : Bool :=
  s.allHarts.any (fun h => some h.1 != k && h.2.live == .running && (match h.2.wait with
    | some (.bankMode q t) => q == p && decide (t < since)
    | _ => false))

/-- Whether an engine command waits for a pseudo-channel, apart from one and from those that came at a time or after it. -/
def olderEngine (s : State) (cmd : Option Nat) (p since : Nat) : Bool :=
  s.cmds.any (fun c => some c.1 != cmd && (match c.2.since with
    | some (q, t) => q == p && decide (t < since)
    | none => false))

/-- Whether the access from outside that has waited longest came before a time, touches a pseudo-channel and is held by nothing
else. -/
def olderOutside (s : State) (p since : Nat) : Bool :=
  match s.waiting with
  | (t, o) :: _ => decide (t < since) && (o.spans s).any (fun r => inSlot p r.1 r.2) && !o.held s
  | [] => false

/-- Whether a pseudo-channel serves normal accesses (R290). -/
def normalMode (s : State) (p : Nat) : Bool := !(s.chanAt p).allBank && (s.chanAt p).switching.isNone

/-- Whether a hart that waits for a pseudo-channel since a time comes next there: the channel is in normal mode, and no access has
waited for it longer (R290). -/
def bankTurnOf (s : State) (k p since : Nat) : Bool :=
  normalMode s p && !olderHart s (some k) p since && !olderEngine s none p since && !olderOutside s p since

/-- The same of an engine command that waits there. -/
def engineTurnOf (s : State) (cmd p since : Nat) : Bool :=
  normalMode s p && !olderHart s none p since && !olderEngine s (some cmd) p since && !olderOutside s p since

/-- The wait of an engine command's access to a physical address for those that came to its pseudo-channel earlier; reads that a hart
makes as it issues a command wait as the hart's own do. -/
def engineWait (s : State) (cmd pa : Nat) : Option Wait :=
  let p := pa / Config.slotBytes
  match mget? s.cmds cmd with
  | some c =>
    let t := match c.since with
      | some (q, t) => if q = p then t else s.gtime + 1
      | none => s.gtime + 1
    if pa < Config.deviceBytes && !engineTurnOf s cmd p t then some (.bankMode p s.gtime) else none
  | none => none

/-! ### The address of an access -/

/-- The physical address of one access for the executing hart, with the checks of R129 and R181 in their order: canonical form,
alignment, walk and ownership, permission.  `agent` is the one that Table 25.4 names for the reads of the walk, which wait for a
bank as any read does (R290, R322).  A steward hart's addresses are physical (DESIGN CHOICE). -/
def locatedBy (agent : Nat) (s : State) (acc : Access) (va : XWord) (align index : Nat) : Eff (Nat × State) :=
  let wr := acc = .write || acc = .update
  let stop := fun (code drawn : Nat) (found : List (Nat × XWord)) => Except.error (Stop.trap
    { code := code, tv := va, write := wr, fetch := acc = .fetch, index := index, drawn := drawn, found := s.finds ++ found })
  if !s.hart.steward && !canonical va then stop cXLAT s.free []
  else if !alignedTo va align then stop cALIGN s.free []
  else if s.hart.steward then .ok (va.toNat % 2 ^ 52, s)
  else
    let (l, w) := walk s (agent == 0) s.dieId s.hart.ctx (va.toNat % 2 ^ 57)
    match w.read.findSome? (bankWait s) with
    | some x => .error (.wait x)
    | none =>
      match l with
      | .error code => stop code w.free (walkFound s w va)
      | .ok l =>
        if !l.allows acc then stop cPROT w.free (walkFound s w va)
        else .ok (l.page + va.toNat % 4096, s.walked agent w va)

/-- The physical address of an access that the executing hart makes itself. -/
def located (s : State) (acc : Access) (va : XWord) (align index : Nat) : Eff (Nat × State) := locatedBy 0 s acc va align index

/-- The physical address of one access, once it need not wait. -/
def access (s : State) (acc : Access) (va : XWord) (align index : Nat) : Eff (Nat × State) :=
  match located s acc va align index with
  | .error e => .error e
  | .ok (pa, s) =>
    match accessWait s pa with
    | some w => .error (.wait w)
    | none => .ok (pa, s)

/-! ### Loads and stores (R29, R128 to R130, R181) -/

/-- The newest buffered byte at an address, if any (R29). -/
def forwarded (buf : List StoreRec) (sp : Bool) (a : Nat) : Option Byte :=
  buf.foldl (fun r t => if t.sp = sp ∧ t.addr ≤ a ∧ a < t.addr + t.data.length then t.data[a - t.addr]? else r) none

/-- Bytes of memory as the hart reads them: buffered bytes forwarded, the others from the home. -/
def seenBytes (s : State) (pa n : Nat) : List Byte :=
  (span pa n).map (fun a => (forwarded s.regs.storeBuf false a).getD (memRead s.mem a))

/-- The bytes of a read that lie in bad units, and its units that are mismatched but not yet poisoned. -/
def readCheck (s : State) (va : XWord) (pa n : Nat) : List Nat × List (Nat × XWord) :=
  let badAt := (span 0 n).filter (fun i => (forwarded s.regs.storeBuf false (pa + i)).isNone && badByte s (pa + i))
  (badAt, (badAt.map (fun i => ((pa + i) / 2, va))).filter (fun u => mget? s.badUnits u.1 != some 3))

/-- POISON for a read that meets a bad unit, or that crosses a failed peer port (R407, R425). -/
def poisonCheck (s : State) (acc : Access) (va : XWord) (pa n index : Nat) : Eff Unit :=
  let mk := fun (i : Nat) (found : List (Nat × XWord)) => Except.error (Stop.trap
    { code := cPOISON, tv := va + xword i, write := acc = .update, fetch := acc = .fetch, index := index,
      found := s.finds ++ found, drawn := s.free })
  if Config.peerBase ≤ pa ∧ s.dev.pfail.getLsbD ((pa - Config.peerBase) / 2 ^ 46) then mk 0 []
  else match readCheck s va pa n with
    | ([], _) => .ok ()
    | (i :: _, found) => mk i found

/-! ### Fetch (R90, R100, R390) -/

/-- The smallest scope that holds the hart of a key and a writer.  DESIGN CHOICE (log entry 59): an engine is in the instances of its
core, a bank handler in the device's, and what the device itself writes in the system's; Table 11.1 places none of them. -/
def Writer.level (k : Nat) : Writer → Nat
  | .hart j => coreLevel (k / 8) (j / 8)
  | .engine c => coreLevel (k / 8) c
  | .handler => 3
  | .outside => 4

/-- Whether the executing hart does not execute a write yet, the one after `i` others: it is not its own, and the hart has executed
no FENCE since at a scope that includes the writer (R90). -/
def unseen (s : State) (i : Nat) (w : Written) : Bool :=
  w.by_ != .hart s.cur && decide ((s.hart.fenced.toList.getD (w.by_.level s.cur) 0) ≤ i)

/-- A byte as the executing hart fetches it: as it was before the first write to it that the hart does not execute yet, with those
of the later ones that it does. -/
def fetchedByte (s : State) (a : Nat) : Byte :=
  let here := (s.written.reverse.zipIdx.filter (fun w => w.1.touches a 1)).dropWhile (fun w => !unseen s w.2 w.1)
  match here with
  | [] => memRead s.mem a
  | (w, _) :: later =>
    later.foldl (fun b x => if unseen s x.2 x.1 then b else x.1.new.getD (a - x.1.pa) b) (w.old.getD (a - w.pa) unlisted)

/-- The word at a physical address as the executing hart fetches it. -/
def fetchedWord (s : State) (pa : Nat) : Word := bytesWord ((span pa 4).map (fetchedByte s))

/-- The word at an address, read for execution from the home: a hart does not execute its own buffered stores. -/
def fetchWord (s : State) (a : XWord) : Eff (Word × State) := do
  let (pa, s) ← access s .fetch a 4 0
  poisonCheck (s.setRegs { s.regs with storeBuf := [] }) .fetch a pa 4 0
  return (fetchedWord s pa, s)

/-- A load of n bytes from memory at a virtual address. -/
def loadBytes (s : State) (acc : Access) (va : XWord) (n align index : Nat) : Eff (List Byte × State) := do
  let (pa, s) ← access s acc va align index
  poisonCheck s acc va pa n index
  return (seenBytes s pa n, s)

def loadNat (s : State) (va : XWord) (n : Nat) : Eff (Nat × State) := do
  let (bs, s) ← loadBytes s .read va n n 0
  return (leNat bs, s)

/-- A store put into the strip store buffer (R29, R130). -/
def State.buffer (s : State) (t : StoreRec) : State :=
  s.setRegs { s.regs with storeBuf := s.regs.storeBuf ++ [t] }

/-- A store of bytes to memory at a virtual address: every check, then the buffer. -/
def storeBytes (s : State) (va : XWord) (align index : Nat) (data : List Byte) : Eff State := do
  let (pa, s) ← access s .write va align index
  return s.buffer { sp := false, addr := pa, data := data, va := va }

/-! ### S-space (R75 to R83) -/

/-- Whether the executing hart's gang holds its core's local stores (R77). -/
def State.holds (s : State) : Bool := !s.hart.steward && s.core.holder == some s.hart.gang

/-- The checks of one S-space access in the order of R181: bits above 20, alignment, the holding gang and its request. -/
def spCheck (s : State) (write : Bool) (a : XWord) (n align index : Nat) : Eff Nat :=
  if xbits a 21 43 ≠ 0 then protFault a true write index
  else if !alignedTo a align then
    .error (.trap { code := cALIGN, tv := a, sspace := true, write := write, index := index })
  else if !s.holds || decide (s.core.request < a.toNat + n) then protFault a true write index
  else .ok a.toNat

/-- Bytes of S-space as the hart reads them. -/
def spBytes (s : State) (a n : Nat) : List Byte :=
  let scratch := s.core.scratch
  (span a n).map (fun i => (forwarded s.regs.storeBuf true i).getD (memRead scratch i))

def spLoad (s : State) (a : XWord) (n align index : Nat) : Eff (List Byte) := do
  let p ← spCheck s false a n align index
  return spBytes s p n

def spStore (s : State) (a : XWord) (align index : Nat) (data : List Byte) : Eff State := do
  let p ← spCheck s true a data.length align index
  return s.buffer { sp := true, addr := p, data := data, va := a }

/-- Bytes of a core's scratchpad written at once (R81). -/
def State.spWrite (s : State) (core a : Nat) (data : List Byte) : State :=
  let k := s.coreAt core
  s.setCoreAt core { k with scratch := memWriteN k.scratch a data }

/-! ### Strips (R27 to R32) -/

def storeBytesHeld (r : Regs) : Nat := (r.storeBuf.map (fun t => t.data.length)).sum

def queuesEmpty (r : Regs) : Bool := r.queues.toList.all List.isEmpty

/-- QLEFT's value (R394). -/
def qleftWord (r : Regs) (reason queue : Nat) : XWord :=
  let mask := (span 0 4).foldl (fun m i => if (r.queues.toList.getD i []).isEmpty then m else addIndex m i) 0
  xword (mask + 16 * reason + 256 * queue)

def qleft {α : Type} (s : State) (reason queue : Nat) : Eff α :=
  .error (.trap { code := cQLEFT, tv := qleftWord s.regs reason queue })

/-- One buffered store performed. -/
def State.perform (s : State) (t : StoreRec) : State :=
  if t.sp then s.spWrite s.coreId t.addr t.data else s.homeWrite 0 s.hart.gang t.va t.addr t.data

/-- Every buffered store performed, in program order (R238). -/
def State.performAll (s : State) : State :=
  (s.regs.storeBuf.foldl State.perform s).setRegs { s.regs with storeBuf := [] }

/-- Every written twin becomes the committed copy (R28). -/
def commitTwins (r : Regs) : Regs :=
  { r with
    vregs := r.vregs.map (fun v => match v.twin with | some t => { com := t, twin := none } | none => v)
    masks := r.masks.map (fun m => match m.twin with | some t => { com := t, twin := none } | none => m) }

def dropTwins (r : Regs) : Regs :=
  { r with
    vregs := r.vregs.map (fun v => { v with twin := none })
    masks := r.masks.map (fun m => { m with twin := none }) }

/-- The checkpoint of the registers, at a PC (Table 2.2). -/
def snapshot (r : Regs) (pc : XWord) : Ckpt :=
  { pc := pc, x := r.x, vl := r.vl, vr := r.vr, gcode := r.gcode, tailZero := r.tailZero, frm := r.frm, fflags := r.fflags,
    seed := r.seed, gens := r.gens, pfxFields := r.pfxFields, pfxValid := r.pfxValid, qtags := r.qtags }

/-- A new strip opens at a PC: its checkpoint is taken and SCP written (R27). -/
def State.openStrip (s : State) (pc : XWord) : State :=
  s.setHart { s.hart with ckpt := snapshot s.regs pc, scp := pc.setWidth 57, stripOpened := s.gtime, early := false }

/-- The stores of the strip performed and its twins committed. -/
def State.settle (s : State) : State :=
  let s := s.performAll
  s.setRegs (commitTwins s.regs)

/-- Whether the hart's matrix queue holds an instruction that has still to read some of n bytes of S-space (R266). -/
def queuedReads (s : State) (a n : Nat) : Bool :=
  s.hart.matrixQ.any (fun o => o.spReads.any (fun r => decide (r.1 < a + n) && decide (a < r.1 + r.2)))

/-- The wait of a store that is about to be performed: for the reads of the hart's queued matrix instructions (R266), or for a
link, an engine's line or a bank (R290, R316, R322, R424). -/
def storeWait (s : State) (t : StoreRec) : Option Wait :=
  if t.sp then (if queuedReads s t.addr t.data.length then some .matrix else none) else accessWait s t.addr

/-- The wait of a commit: that of the first buffered store that cannot be performed yet. -/
def commitWait (s : State) : Option Wait := s.regs.storeBuf.findSome? (storeWait s)

/-- A commit that an instruction makes: QLEFT while a queue holds a tile (R39); at trap level 0 a new strip at the given PC. -/
def commitAt (s : State) (pc : XWord) : Eff State :=
  if !queuesEmpty s.regs then qleft s 0 0
  else
    match commitWait s with
    | some w => .error (.wait w)
    | none =>
      let s := s.settle
      .ok (if s.hart.tl = 0 then s.openStrip pc else s)

/-- The lane groups of a hart slot returned (R24). -/
def dropLanes (k : Core) (slot : Nat) : Core :=
  { k with lanes := k.lanes.map (fun l => if l = some slot then none else l), laneWait := k.laneWait.filter (fun w => w.1 ≠ slot) }

/-- The registers of a hart after its open strip is discarded (Table 2.2). -/
def discardRegs (h : Hart) (r : Regs) : Regs :=
  let c := h.ckpt
  { dropTwins r with
    pc := c.pc, x := c.x, vl := c.vl, vr := c.vr, gcode := c.gcode, tailZero := c.tailZero, frm := c.frm,
    fflags := c.fflags, seed := c.seed, gens := c.gens, pfxFields := c.pfxFields, pfxValid := c.pfxValid,
    queues := Vector.replicate 4 [], qtags := c.qtags, storeBuf := [], pend := none, cv := none, chain := none, first := none,
    member := 0 }

/-- The executing hart's strip discarded and its lane groups returned, unless it is timed (R26); the strip's cycles count
afresh (R340). -/
def State.discard (s : State) : State :=
  let h := s.hart
  let s := s.setHart { h with regs := discardRegs h h.regs, undo := none, early := false, stripOpened := s.gtime }
  if h.timed then s else s.setCore (dropLanes s.core s.slotId)

/-! ### The end of a context (R231, R400) -/

/-- Every hart of a context stopped at a convoy boundary, its queued launches and its commands that have not started
cancelled (R231, R379): queued matrix instructions have not started; every other command started when it issued (R315). -/
def State.stopContext (s : State) (ctx : Nat) : State :=
  let s := s.mapHarts (fun _ h =>
    if h.ctx = ctx && !h.steward && h.live ≠ .free then
      { h with
        live := .stopped, regs := if h.tl = 0 then discardRegs h h.regs else h.regs, undo := none, matrixQ := [],
        wait := none, issueAt := none }
    else h)
  let s := { s with
    cmds := s.cmds.filter (fun c =>
      !(c.2.ctx = ctx && (match c.2.kind with | .mload => true | .mdrain => true | .launch => true | _ => false)))
    leaders := s.leaders.filter (fun l => l.ctx ≠ ctx)
    gangs := s.gangs.filter (fun g => g.2.ctx ≠ ctx) }
  s.setCtxAt ctx { s.ctxAt ctx with queues := [], rootLive := false, hostVisible := false }

def Pending.isKill : Pending → Bool
  | .kill .. => true
  | _ => false

/-- The kill of a context (R400): its harts stop now; its scrub and records follow once its started work is done.  A context appends one
KILL record, with its SCRUB, before it is Free (R433): one that has been killed already, or that is Free, is not killed again. -/
def State.killContext (s : State) (ctx cause reason : Nat) (pc value : XWord) (gid member : Nat) : State :=
  let s := s.stopContext ctx
  let c := s.ctxAt ctx
  if c.killed || c.state = .free then s
  else s.setCtxAt ctx { c with killed := true, pending := c.pending ++ [.kill cause reason pc.toNat value.toNat gid member] }

/-! ### Taking a trap and returning (R388 to R393, R229) -/

def trapRegsOf (h : Hart) (lvl : BitVec 2) : TrapRegs := if lvl = 2 then h.t2 else h.t1

def setTrapRegs (h : Hart) (lvl : BitVec 2) (t : TrapRegs) : Hart := if lvl = 2 then { h with t2 := t } else { h with t1 := t }

/-- The page of a fault that a leader may hold (R421). -/
def faultPage (t : Trap) : Nat := xbits t.tv 12 45

/-- Whether a cause is an XLAT of a page: an address that is not canonical lies in none (R92, R421). -/
def pageFault (t : Trap) : Bool := t.code == cXLAT && canonical t.tv

/-- Whether another hart of the context is the leader of the page whose XLAT this is (R421). -/
def heldByLeader (s : State) (t : Trap) : Bool :=
  pageFault t && s.leaders.any (fun l => l.ctx = s.hart.ctx && l.page = faultPage t && l.hart ≠ s.cur)

/-- Registers at the start of the executing convoy: a faulting convoy has no effect (R37). -/
def State.convoyStart (s : State) : State :=
  match s.hart.undo with
  | some r => s.setHart { s.hart with regs := r, undo := none }
  | none => s.setRegs { s.regs with member := 0 }

/-- Trap entry (R393) from a state whose strip has been committed or discarded and whose return address is known.  The convoy has
issued: the hart counts as ready since now (R364). -/
def enterTrap (s : State) (t : Trap) (restart : Bool) (member : Nat) (ret : XWord) : State :=
  let h := s.hart
  if h.tl = 2 ∨ h.thb = 0 then
    s.killContext h.ctx t.code (if h.tl = 2 then 0 else 1) ret t.tv (s.gidOf h.gang).toNat h.memberIdx
  else
    let lvl := h.tl + 1
    let r := h.regs
    let tr : TrapRegs :=
      { cause := BitVec.ofNat 8 t.code, restart := restart, fetch := t.fetch, write := t.write, sspace := t.sspace,
        member := BitVec.ofNat 2 member, index := BitVec.ofNat 19 t.index, tp := ret.setWidth 57, tv := t.tv,
        pfx := r.pfxFields, pfxv := r.pfxValid, ptl := h.tl }
    let base := h.thb.toNat * 1024
    let pc := sext 57 (xword (base + 64 * causeGroup t.code))
    let s := if pageFault t then
        { s with leaders := { ctx := h.ctx, page := faultPage t, hart := s.cur, level := lvl } :: s.leaders } else s
    let h := setTrapRegs h lvl tr
    s.setHart { h with tl := lvl, readySince := readyAt s.gtime, regs := { r with pfxValid := false, pc := pc } }

/-- What the checks before a cause have found and drawn takes its effect (R406); what earlier members have found has its turns
still to come. -/
def State.noting (s : State) (t : Trap) : State :=
  { s.foundBad 0 s.hart.gang (t.found.filter (fun u => !s.finds.contains u)) with free := max s.free t.drawn }

/-- Taking a trap: the one operation by which a cause of the executing hart is delivered (R388, R389, R393, R400, R421).
`s` is the state at the faulting member; the convoy's earlier members are undone. -/
def takeTrap (s : State) (t : Trap) : Result :=
  if s.hart.steward then .fault (.stewardCause t.code)
  else
    let member := s.regs.member
    let s := s.convoyStart.noting t
    if heldByLeader s t then .next (s.setHart { s.hart with wait := some (.page s.hart.ctx (faultPage t)) })
    else if s.hart.tl ≠ 0 then .next (enterTrap s t false member s.regs.pc)
    else if causeRestarts t || !queuesEmpty s.regs then
      let pc := s.hart.ckpt.pc
      .next (enterTrap s.discard t true member pc)
    else
      match commitWait s with
      | some w => .next (s.setHart { s.hart with wait := some w })
      | none =>
        let pc := s.regs.pc
        .next (enterTrap s.settle t false member pc)

/-- The harts that a page's leader held go on from their convoys (R422). -/
def State.releasePages (s : State) (ctx : Nat) (covers : Nat → Bool) : State :=
  s.mapHarts (fun _ h => match h.wait with
    | some (.page c p) => if c = ctx && covers p then { h with wait := none, readySince := readyAt s.gtime } else h
    | _ => h)

/-- The faults of which a hart is leader at a level, released (R422). -/
def State.releaseLeader (s : State) (hart : Nat) (lvl : BitVec 2) : State :=
  let mine := s.leaders.filter (fun l => l.hart = hart && l.level = lvl)
  let s := { s with leaders := s.leaders.filter (fun l => !(l.hart = hart && l.level = lvl)) }
  mine.foldl (fun s l => s.releasePages l.ctx (· = l.page)) s

/-- Return from a trap (R229): PC, status and level restored; at level 0 a new strip opens there. -/
def returnTrap (s : State) : State :=
  let h := s.hart
  let t := trapRegsOf h h.tl
  let s := s.releaseLeader s.cur h.tl
  let pc := t.tp.signExtend 64
  let s := s.setHart { s.hart with
    tl := h.tl - 1, regs := { s.hart.regs with pc := pc, pfxFields := t.pfx, pfxValid := t.pfxv } }
  if h.tl = 1 then s.openStrip pc else s

/-! ### How an instruction ends -/

/-- What follows when an instruction does not complete. -/
def stopped (s : State) : Stop → Result
  | .trap t => takeTrap s t
  | .wait w =>
    let s := s.convoyStart
    .next (s.setHart { s.hart with wait := some w })

/-- What a strip's registers become when the device commits before the convoy whose start was `r0` (R30): the twins written
before the convoy are committed copies, those the convoy wrote stay twins. -/
def splitTwins (r0 r1 : Regs) : Regs :=
  { r1 with
    vregs := Vector.ofFn (fun i => { com := (r0.vregs[i].twin).getD r0.vregs[i].com, twin := r1.vregs[i].twin })
    masks := Vector.ofFn (fun i => { com := (r0.masks[i].twin).getD r0.masks[i].com, twin := r1.masks[i].twin })
    storeBuf := r1.storeBuf.drop r0.storeBuf.length }

/-- What follows once the buffered stores of `s` can be performed; until then the convoy that began at `s0` waits. -/
def whenSettled (s0 s : State) (r : Result) : Result :=
  match commitWait s with
  | some w => stopped s0 (.wait w)
  | none => r

/-- The end of a convoy whose members all completed, from its start `r0` (R29, R30, R32).  At trap levels 1 and 2 it commits,
with QLEFT when it leaves a tile in a queue (R394).  A convoy that alone outgrows the store buffer and leaves a tile in a queue
cannot be a strip of one: its stores are performed and its strip stays open (DESIGN CHOICE, log entry 60). -/
def retire (s0 : State) (r0 : Regs) (s : State) : Result :=
  let first := s.regs.first
  let s := s.setHart { s.hart with
    undo := none, wait := none, readySince := readyAt s.gtime, regs := { s.regs with
      pend := none, cv := none, chain := none, first := none, member := 0 } }
  if s.hart.tl ≠ 0 then
    if !queuesEmpty s.regs then stopped s0 (.trap { code := cQLEFT, tv := qleftWord s.regs 0 0 })
    else whenSettled s0 s (.next s.settle)
  else if s.hart.early then whenSettled s0 s (.next s.performAll)
  else if storeBytesHeld s.regs ≤ Config.storeBufBytes then .next s
  else if queuesEmpty r0 then whenSettled s0 s (
    -- the device commits the strip before this convoy and opens a new one at it
    let r1 := s.regs
    let before := (s.setRegs { r1 with storeBuf := r0.storeBuf }).performAll
    -- the boundary may fall after the prefix of the first member, which is then latched (R116); a free choice
    let (s, c, r1) := match first with
      | some f =>
        if Config.happens s.free then
          (before.draw, { snapshot r0 (r0.pc + 4) with pfxFields := f, pfxValid := true }, { r1 with pfxFields := f })
        else (before.draw, snapshot r0 r0.pc, r1)
      | none => (before, snapshot r0 r0.pc, r1)
    let s := s.setHart { s.hart with
      regs := splitTwins r0 r1, ckpt := c, scp := c.pc.setWidth 57, stripOpened := s.gtime }
    if storeBytesHeld s.regs ≤ Config.storeBufBytes then .next s
    else if queuesEmpty s.regs then .next (s.settle.openStrip s.regs.pc)
    else .next (s.performAll.setHart { s.performAll.hart with early := true }))
  else whenSettled s0 s (.next (s.performAll.setHart { s.performAll.hart with early := true }))

/-- The end of a member of a convoy: the last one retires it; after another, the start of the convoy is kept for a fault. -/
def finishMember (s0 : State) (k : Bool) (r : Eff State) : Result :=
  match r with
  | .error e => stopped s0 e
  | .ok s =>
    let start := s0.hart.undo.getD s0.regs
    let s := s.advance
    if k then
      .next (s.setHart { s.hart with undo := some start, regs := { s.regs with pend := none, member := s.regs.member + 1 } })
    else retire s0 start s

/-- An instruction that belongs to the open strip and forms a convoy of one: its effect, and the next word. -/
def ordinary (f : State → Eff State) (s : State) : Result :=
  finishMember s false (f s)

/-- Whether an address is the launch record of the executing hart's gang (R255). -/
def atRecord (s : State) (a : XWord) : Bool :=
  !s.hart.steward && (match mget? s.gangs s.hart.gang with
    | some g => g.record == a
    | none => false)

/-- The exit of a member, once its transfer to the launch record is done: its strip committed, with QLEFT while a queue holds
a tile, and the wait for its stores and tickets (R255, R39).  `s0` is the state at the transfer. -/
def exitMember (s0 s : State) : Result :=
  if !queuesEmpty s.regs then stopped s0 (.trap { code := cQLEFT, tv := qleftWord s.regs 0 0 })
  else whenSettled s0 s (
    let s := s.settle
    let s := if s.hart.tl = 0 then s.openStrip s.regs.pc else s
    .next (s.setHart { s.hart with
      undo := none, wait := some .exit,
      regs := { s.regs with pend := none, cv := none, chain := none, first := none, member := 0 } }))

/-- A control transfer: the effect says whether it is taken and sets the PC itself; one to the launch record exits. -/
def transfer (f : State → Eff (Bool × State)) (s : State) : Result :=
  match f s with
  | .error e => stopped s e
  | .ok (taken, t) => if taken && atRecord t t.regs.pc then exitMember s t else retire s (s.hart.undo.getD s.regs) t

/-- The commit before an irreversible instruction, with the checkpoint at its own address, before its prefix if it has one
(R31, R111). -/
def preCommit (s : State) : Eff State :=
  if s.hart.tl ≠ 0 then .ok s
  else
    match s.hart.undo with
    | none => commitAt s s.regs.pc
    | some r0 => do
      let s1 ← commitAt s r0.pc
      return s1.setHart { s1.hart with undo := some { s1.regs with pc := r0.pc, pend := none, first := none } }

/-- An irreversible instruction (R31): the commit, then a strip of one that completes wholly or has no effect, then a new
strip at the next word.  The effect gives the next state and what it leaves of the hart once it has retired: a wait. -/
def irreversibleThen (f : State → Eff (State × (Hart → Hart))) (s : State) : Result :=
  match preCommit s with
  | .error e => stopped s e
  | .ok s1 =>
    match f s1 with
    | .error e => stopped s1 e
    | .ok (t, last) =>
      match retire s1 s1.regs t.advance with
      | .next u =>
        let u := if u.hart.tl = 0 then u.openStrip u.regs.pc else u
        .next (u.setHart (last u.hart))
      | o => o

/-- An irreversible instruction that leaves no wait. -/
def irreversible (f : State → Eff State) (s : State) : Result :=
  irreversibleThen (fun s => do return (← f s, id)) s

/-- SETVL and CLAIM (R27): the commit, and the strip opened at their own convoy stays open. -/
def opensStrip (f : State → Eff (State × (Hart → Hart))) (s : State) : Result :=
  match preCommit s with
  | .error e => stopped s e
  | .ok s1 =>
    match f s1 with
    | .error e => stopped s1 e
    | .ok (t, last) =>
      match retire s1 s1.regs t.advance with
      | .next u => .next (u.setHart (last u.hart))
      | o => o

/-- Every write so far is ordered before the accesses of the executing hart that follow (R98, R243). -/
def State.order (s : State) : State := s.setHart { s.hart with ordered := s.written.length }

/-- FENCE at a scope (R213): the hart executes what the writers in the scope have written so far (R90). -/
def State.fence (s : State) (sc : Nat) : State :=
  let s := s.order
  s.setHart { s.hart with fenced := Vector.ofFn (fun j : Fin 5 => if j.val ≤ sc then s.written.length else s.hart.fenced[j]) }

/-- A turn that comes before every other one decided so far. -/
def State.soon (s : State) (t : Turn) : State := { s with agenda := t :: s.agenda }

/-! ### Fresh names -/

/-- The first of the free values from `n` on, reduced to 1 … m, that is not in use; a search of `fuel` steps from there. -/
def freshFrom (used : List Nat) (m start : Nat) : Nat → Nat
  | 0 => start % m + 1
  | fuel + 1 => if used.contains (start % m + 1) then freshFrom used m (start + 1) fuel else start % m + 1

/-- A ticket value not outstanding for the executing hart (R224, R261). -/
def freshTicket (s : State) : BitVec 16 :=
  BitVec.ofNat 16 (freshFrom (s.hart.tickets.map (fun t => t.value.toNat)) 65535 (Config.free s.free).toNat 65)

/-- A command started or queued for the executing hart, with its ticket (R261). -/
def State.issue (s : State) (c : Cmd) (d : BitVec 5) : State :=
  let v := freshTicket s
  let n := s.nextCmd
  let s := { s with cmds := mset s.cmds n c, nextCmd := n + 1, free := s.free + 1 }
  let s := s.setHart { s.hart with tickets := s.hart.tickets ++ [{ value := v, cmd := n, status := none }] }
  s.setX d (v.setWidth 64)

end Machine
end Sys2Proof
end

