-- ==== Sys2Proof/Machine/Operands.lean ====
section
/-! DEFINITION. Vector operands: groups, queues and `cv` (R38, R104, R144, R145), the prefix (R111 to R115), the decode-time
causes of one member (Table 5.5), active elements and tails (R19, R114), element writes, and operation formats (R146). -/

namespace Sys2Proof
namespace Machine

/-! ### The prefix (Tables 5.7 and 5.8) -/

/-- The fields that act on a member. -/
structure Pfx where
  present : Bool
  pm : BitVec 3
  pn : Bool
  em : BitVec 3
  ek : BitVec 3
  dc : BitVec 5
  dce : Bool
  rm : BitVec 3
  sat : Bool
  /-- Address that a cause found in a prefix field reports (R111). -/
  at_ : XWord
deriving DecidableEq, Repr

/-- The fields of a prefix word, or of PFXS.  DESIGN CHOICE: bits 4:0, reserved in a prefix word, are ignored where PFXS was
written with them set; R118 does not say what a successor makes of them (log entry 55). -/
def Pfx.ofFields (v : BitVec 25) (addr : XWord) : Pfx :=
  { present := true, pm := fld v 22 3, pn := bit v 21, em := fld v 18 3, ek := fld v 15 3, dc := fld v 10 5, dce := bit v 9,
    rm := fld v 6 3, sat := bit v 5, at_ := addr }

/-- No prefix: the exception mask goes to m7 (R64), set 0, FRM. -/
def Pfx.absent : Pfx :=
  { present := false, pm := 0, pn := false, em := 7, ek := 0, dc := 0, dce := false, rm := 0, sat := false, at_ := 0 }

/-- The prefix of the member about to execute: the word before it, or the latched fields (R116). -/
def pfxOf (r : Regs) : Pfx :=
  match r.pend with
  | some (v, a) => .ofFields v a
  | none => if r.pfxValid then .ofFields r.pfxFields r.pc else .absent

/-- The latch is spent by the word that it acts on (R116). -/
def State.spendPfx (s : State) : State := s.setRegs { s.regs with pfxValid := false }

/-! ### What each convoy instruction names (Tables 2.5 and 5.6, and its entry) -/

/-- The unit classes of Table 2.5. -/
inductive VUnit where
  | load | store | fma | special | reduce | permute | generation
deriving DecidableEq, Repr

/-- Register groups that an instruction names, as (first, count), and how a prefix may act on it. -/
structure VecUse where
  unit : VUnit
  dst : List (Nat × Nat)
  srcs : List (Nat × Nat)
  e : Bool
  /-- Majors 0x14 and 0x15: only the predicate is allowed. -/
  memory : Bool := false
  /-- Only the head group of the pair is copied (R115). -/
  headCopy : Bool := false
  /-- RM other than 0 and 1 is forbidden (R66, R170, R327). -/
  rneOnly : Bool := false
  noPredicate : Bool := false
  noCopy : Bool := false
  noOverlap : Bool := false
  /-- A destination group that overlaps a source group is ILLEGAL (R339). -/
  noMeet : Bool := false
deriving DecidableEq, Repr

/-- A field that names a register group when it is not a queue or `cv`. -/
def reg (isReg : Bool) (f : BitVec 5) (n : Nat) : List (Nat × Nat) := if isReg then [(f.toNat, n)] else []

/-- What an instruction that takes a prefix names, under group factor g: every one that may join a convoy, and VSTT. -/
def vecUse (g : Nat) : Instr → Option VecUse
  | .vmv _ d a e qa => some ({ unit := .permute, dst := reg true d g, srcs := reg (!qa) a g, e := e } : VecUse)
  | .vbcast _ d _ e => some ({ unit := .permute, dst := reg true d g, srcs := [], e := e } : VecUse)
  | .vid _ d e => some ({ unit := .permute, dst := reg true d g, srcs := [], e := e } : VecUse)
  | .vidr _ d e => some ({ unit := .permute, dst := reg true d g, srcs := [], e := e } : VecUse)
  | .vxtract _ _ a _ qa => some ({ unit := .permute, dst := [], srcs := reg (!qa) a g, e := false, noPredicate := true } : VecUse)
  | .vinsert _ d _ _ => some ({ unit := .permute, dst := reg true d g, srcs := [], e := false, noPredicate := true } : VecUse)
  | .vadd _ d a b w e qa qb => some ({ unit := .fma, dst := reg w d g, srcs := reg (!qa) a g ++ reg (!qb) b g, e := e } : VecUse)
  | .vsub _ d a b w e qa qb => some ({ unit := .fma, dst := reg w d g, srcs := reg (!qa) a g ++ reg (!qb) b g, e := e } : VecUse)
  | .vmul _ d a b w e qa qb => some ({ unit := .fma, dst := reg w d g, srcs := reg (!qa) a g ++ reg (!qb) b g, e := e } : VecUse)
  | .vmulh _ d a b w e qa qb => some ({ unit := .fma, dst := reg w d g, srcs := reg (!qa) a g ++ reg (!qb) b g, e := e } : VecUse)
  | .vmin _ d a b w e qa qb => some ({ unit := .fma, dst := reg w d g, srcs := reg (!qa) a g ++ reg (!qb) b g, e := e } : VecUse)
  | .vmax _ d a b w e qa qb => some ({ unit := .fma, dst := reg w d g, srcs := reg (!qa) a g ++ reg (!qb) b g, e := e } : VecUse)
  | .vand _ d a b w e qa qb => some ({ unit := .fma, dst := reg w d g, srcs := reg (!qa) a g ++ reg (!qb) b g, e := e } : VecUse)
  | .vor _ d a b w e qa qb => some ({ unit := .fma, dst := reg w d g, srcs := reg (!qa) a g ++ reg (!qb) b g, e := e } : VecUse)
  | .vxor _ d a b w e qa qb => some ({ unit := .fma, dst := reg w d g, srcs := reg (!qa) a g ++ reg (!qb) b g, e := e } : VecUse)
  | .vsll _ d a b w e qa qb => some ({ unit := .fma, dst := reg w d g, srcs := reg (!qa) a g ++ reg (!qb) b g, e := e } : VecUse)
  | .vsrl _ d a b w e qa qb => some ({ unit := .fma, dst := reg w d g, srcs := reg (!qa) a g ++ reg (!qb) b g, e := e } : VecUse)
  | .vsra _ d a b w e qa qb => some ({ unit := .fma, dst := reg w d g, srcs := reg (!qa) a g ++ reg (!qb) b g, e := e } : VecUse)
  | .vabs _ d a w e qa => some ({ unit := .fma, dst := reg w d g, srcs := reg (!qa) a g, e := e } : VecUse)
  | .vwmac _ d a b e qa qb => some ({ unit := .fma, dst := reg true d (2 * g), srcs := reg (!qa) a g ++ reg (!qb) b g, e := e, noOverlap := true } : VecUse)
  | .vdiv _ d a b w e qa qb => some ({ unit := .special, dst := reg w d g, srcs := reg (!qa) a g ++ reg (!qb) b g, e := e } : VecUse)
  | .vrem _ d a b w e qa qb => some ({ unit := .special, dst := reg w d g, srcs := reg (!qa) a g ++ reg (!qb) b g, e := e } : VecUse)
  | .vcmpeq _ _ a b e qa qb => some ({ unit := .fma, dst := [], srcs := reg (!qa) a g ++ reg (!qb) b g, e := e } : VecUse)
  | .vcmplt _ _ a b e qa qb => some ({ unit := .fma, dst := [], srcs := reg (!qa) a g ++ reg (!qb) b g, e := e } : VecUse)
  | .vcmple _ _ a b e qa qb => some ({ unit := .fma, dst := [], srcs := reg (!qa) a g ++ reg (!qb) b g, e := e } : VecUse)
  | .vsel _ d a b w e qa qb => some ({ unit := .fma, dst := reg w d g, srcs := reg (!qa) a g ++ reg (!qb) b g, e := e } : VecUse)
  | .vfadd _ d a b w e qa qb => some ({ unit := .fma, dst := reg w d g, srcs := reg (!qa) a g ++ reg (!qb) b g, e := e } : VecUse)
  | .vfsub _ d a b w e qa qb => some ({ unit := .fma, dst := reg w d g, srcs := reg (!qa) a g ++ reg (!qb) b g, e := e } : VecUse)
  | .vfmul _ d a b w e qa qb => some ({ unit := .fma, dst := reg w d g, srcs := reg (!qa) a g ++ reg (!qb) b g, e := e } : VecUse)
  | .vfaddX _ d a b e qa qb => some ({ unit := .fma, dst := reg true d (2 * g), srcs := reg (!qa) a g ++ reg (!qb) b g, e := e, headCopy := true, rneOnly := true } : VecUse)
  | .vfsubX _ d a b e qa qb => some ({ unit := .fma, dst := reg true d (2 * g), srcs := reg (!qa) a g ++ reg (!qb) b g, e := e, headCopy := true, rneOnly := true } : VecUse)
  | .vfmulX _ d a b e qa qb => some ({ unit := .fma, dst := reg true d (2 * g), srcs := reg (!qa) a g ++ reg (!qb) b g, e := e, headCopy := true, rneOnly := true } : VecUse)
  | .vfma _ d a b e qa qb => some ({ unit := .fma, dst := reg true d g, srcs := reg (!qa) a g ++ reg (!qb) b g, e := e } : VecUse)
  | .vfdiv _ d a b w e qa qb => some ({ unit := .special, dst := reg w d g, srcs := reg (!qa) a g ++ reg (!qb) b g, e := e } : VecUse)
  | .vfsqrt _ d a w e qa => some ({ unit := .special, dst := reg w d g, srcs := reg (!qa) a g, e := e } : VecUse)
  | .vfrcp _ d a w e qa => some ({ unit := .special, dst := reg w d g, srcs := reg (!qa) a g, e := e } : VecUse)
  | .vfexp2 _ d a w e qa => some ({ unit := .special, dst := reg w d g, srcs := reg (!qa) a g, e := e } : VecUse)
  | .vflog2 _ d a w e qa => some ({ unit := .special, dst := reg w d g, srcs := reg (!qa) a g, e := e } : VecUse)
  | .vfmin _ d a b w e qa qb => some ({ unit := .fma, dst := reg w d g, srcs := reg (!qa) a g ++ reg (!qb) b g, e := e } : VecUse)
  | .vfmax _ d a b w e qa qb => some ({ unit := .fma, dst := reg w d g, srcs := reg (!qa) a g ++ reg (!qb) b g, e := e } : VecUse)
  | .vfcmpeq _ _ a b e qa qb => some ({ unit := .fma, dst := [], srcs := reg (!qa) a g ++ reg (!qb) b g, e := e } : VecUse)
  | .vfcmplt _ _ a b e qa qb => some ({ unit := .fma, dst := [], srcs := reg (!qa) a g ++ reg (!qb) b g, e := e } : VecUse)
  | .vfcmple _ _ a b e qa qb => some ({ unit := .fma, dst := [], srcs := reg (!qa) a g ++ reg (!qb) b g, e := e } : VecUse)
  | .vfclass _ d a w e qa => some ({ unit := .fma, dst := reg w d g, srcs := reg (!qa) a g, e := e } : VecUse)
  | .vdwadd _ d a b e => some ({ unit := .fma, dst := reg true d (2 * g), srcs := reg true a (2 * g) ++ reg true b (2 * g), e := e, headCopy := true, rneOnly := true } : VecUse)
  | .vdwmul _ d a b e => some ({ unit := .fma, dst := reg true d (2 * g), srcs := reg true a (2 * g) ++ reg true b (2 * g), e := e, headCopy := true, rneOnly := true } : VecUse)
  | .vdwnorm _ d a e => some ({ unit := .fma, dst := reg true d (2 * g), srcs := reg true a (2 * g), e := e, headCopy := true, rneOnly := true } : VecUse)
  | .vredsumX _ d a e => some ({ unit := .reduce, dst := reg true d (2 * g), srcs := reg true a (2 * g), e := e, headCopy := true, rneOnly := true } : VecUse)
  | .vcvt _ d a e qa => some ({ unit := .fma, dst := reg true d g, srcs := reg (!qa) a g, e := e } : VecUse)
  | .vscale _ d a _ e qa => some ({ unit := .reduce, dst := reg true d g, srcs := reg (!qa) a g, e := e } : VecUse)
  | .vquant _ d a b e qa qb => some ({ unit := .fma, dst := reg true d g, srcs := reg (!qa) a g ++ reg (!qb) b g, e := e } : VecUse)
  | .vdeq _ d a b e qa qb => some ({ unit := .fma, dst := reg true d g, srcs := reg (!qa) a g ++ reg (!qb) b g, e := e } : VecUse)
  | .vld _ d _ _ _ qa => some ({ unit := .load, dst := reg (!qa) d g, srcs := [], e := false, memory := true } : VecUse)
  | .vlds _ d _ _ _ _ qa => some ({ unit := .load, dst := reg (!qa) d g, srcs := [], e := false, memory := true } : VecUse)
  | .vldx _ d _ b _ _ qa => some ({ unit := .load, dst := reg (!qa) d g, srcs := reg true b g, e := false, memory := true } : VecUse)
  | .vldb _ d _ _ _ _ qa => some ({ unit := .load, dst := reg (!qa) d g, srcs := [], e := false, memory := true } : VecUse)
  | .vst _ d _ _ _ => some ({ unit := .store, dst := [], srcs := reg true d g, e := false, memory := true } : VecUse)
  | .vsts _ d _ _ _ _ => some ({ unit := .store, dst := [], srcs := reg true d g, e := false, memory := true } : VecUse)
  | .vstx _ d _ b _ _ => some ({ unit := .store, dst := [], srcs := reg true d g ++ reg true b g, e := false, memory := true } : VecUse)
  | .vstt d _ _ => some ({ unit := .store, dst := [], srcs := reg true d g, e := false, memory := true } : VecUse)
  | .vgather _ d a b e qb => some ({ unit := .permute, dst := reg true d g, srcs := reg true a g ++ reg (!qb) b g, e := e } : VecUse)
  | .vslideup _ d a _ w e qa => some ({ unit := .permute, dst := reg w d g, srcs := reg (!qa) a g, e := e } : VecUse)
  | .vslidedn _ d a _ w e qa => some ({ unit := .permute, dst := reg w d g, srcs := reg (!qa) a g, e := e } : VecUse)
  | .vcompress _ d a _ e qa => some ({ unit := .permute, dst := reg true d g, srcs := reg (!qa) a g, e := e, noPredicate := true } : VecUse)
  | .vexpand _ d a _ e qa => some ({ unit := .permute, dst := reg true d g, srcs := reg (!qa) a g, e := e, noPredicate := true } : VecUse)
  | .vrev _ d a w e qa => some ({ unit := .permute, dst := reg w d g, srcs := reg (!qa) a g, e := e } : VecUse)
  | .vmand _ _ _ _ => some ({ unit := .permute, dst := [], srcs := [], e := false } : VecUse)
  | .vmor _ _ _ _ => some ({ unit := .permute, dst := [], srcs := [], e := false } : VecUse)
  | .vmxor _ _ _ _ => some ({ unit := .permute, dst := [], srcs := [], e := false } : VecUse)
  | .vmnot _ _ _ => some ({ unit := .permute, dst := [], srcs := [], e := false } : VecUse)
  | .vmpop _ _ _ => some ({ unit := .permute, dst := [], srcs := [], e := false } : VecUse)
  | .vmffs _ d _ => some ({ unit := .permute, dst := reg true d g, srcs := [], e := false } : VecUse)
  | .vmset _ _ _ => some ({ unit := .permute, dst := [], srcs := [], e := false } : VecUse)
  | .vmffsr _ _ _ => some ({ unit := .permute, dst := [], srcs := [], e := false } : VecUse)
  | .vredsum _ d a e qa => some ({ unit := .reduce, dst := reg true d g, srcs := reg (!qa) a g, e := e } : VecUse)
  | .vredmax _ d a e qa => some ({ unit := .reduce, dst := reg true d g, srcs := reg (!qa) a g, e := e } : VecUse)
  | .vredmin _ d a e qa => some ({ unit := .reduce, dst := reg true d g, srcs := reg (!qa) a g, e := e } : VecUse)
  | .vredand _ d a e qa => some ({ unit := .reduce, dst := reg true d g, srcs := reg (!qa) a g, e := e } : VecUse)
  | .vredor _ d a e qa => some ({ unit := .reduce, dst := reg true d g, srcs := reg (!qa) a g, e := e } : VecUse)
  | .vscansum _ d a _ e qa => some ({ unit := .reduce, dst := reg true d g, srcs := reg (!qa) a g, e := e } : VecUse)
  | .vscanmax _ d a _ e qa => some ({ unit := .reduce, dst := reg true d g, srcs := reg (!qa) a g, e := e } : VecUse)
  | .vscanand _ d a _ e qa => some ({ unit := .reduce, dst := reg true d g, srcs := reg (!qa) a g, e := e } : VecUse)
  | .vsegsum _ d a _ e qa => some ({ unit := .reduce, dst := reg true d g, srcs := reg (!qa) a g, e := e } : VecUse)
  | .vsegmax _ d a _ e qa => some ({ unit := .reduce, dst := reg true d g, srcs := reg (!qa) a g, e := e } : VecUse)
  | .vscore _ d _ b w => some ({ unit := .fma, dst := reg w d g, srcs := reg true b g, e := false, rneOnly := true } : VecUse)
  | .vexpm _ d b w => some ({ unit := .special, dst := reg w d g, srcs := reg true b g, e := false, rneOnly := true } : VecUse)
  | .vaccv _ d b => some ({ unit := .generation, dst := reg true d g, srcs := reg true b g, e := false, rneOnly := true } : VecUse)
  | .vsoftfin _ d a _ qa => some ({ unit := .special, dst := reg true d g, srcs := reg (!qa) a g, e := false, rneOnly := true } : VecUse)
  | .vtreem _ _ a => some ({ unit := .permute, dst := [], srcs := reg true a g, e := false, rneOnly := true } : VecUse)
  | .vaccept _ d _ => some ({ unit := .reduce, dst := reg true d g, srcs := [], e := false, rneOnly := true } : VecUse)
  | .vcommitm _ _ a b qa => some ({ unit := .store, dst := [], srcs := reg (!qa) a g ++ reg true b g, e := false, rneOnly := true } : VecUse)
  | .vmaxi _ d a _ => some ({ unit := .generation, dst := reg true d (2 * g), srcs := reg true a g, e := false, rneOnly := true, noCopy := true, noMeet := true } : VecUse)
  | _ => none

/-- Group factor (R156), elements per row and capacity (R18). -/
def groupFactor (r : Regs) : Nat := 2 ^ r.gcode.toNat
def capacity (s : State) : Nat := groupFactor s.regs * s.hart.vlmax
def rowSize (s : State) : Nat := capacity s / s.regs.vr
/-- The declared width in bytes (R22). -/
def declWidth (s : State) : Nat := 2 ^ s.hart.wcode.toNat

def overlaps (a b : Nat × Nat) : Bool := decide (a.1 < b.1 + b.2) && decide (b.1 < a.1 + a.2)

/-- The group that a prefix copy writes (R115). -/
def copyGroup (u : VecUse) (p : Pfx) : Option (Nat × Nat) :=
  match u.dst with
  | [] => none
  | d :: _ => if p.dce then some (p.dc.toNat, if u.headCopy then d.2 / 2 else d.2) else none

/-- A prefix field that Table 5.6, Table 5.8 or the successor's entry does not allow (R111, R113 to R115).  DESIGN CHOICE: VACCV's
eviction group is no destination group that the copy must keep clear of; R115 does not say (log entry 55). -/
def pfxBad (u : VecUse) (p : Pfx) : Bool :=
  p.present &&
    ((!u.e && (p.em != 0 || p.ek != 0))
      || ((u.dst.isEmpty || u.memory || u.noCopy) && (p.dce || p.dc != 0))
      || (u.memory && (p.rm != 0 || p.sat))
      || (u.rneOnly && p.rm != 0 && p.rm != 1)
      || (u.noPredicate && p.pm != 0)
      || p.rm == 7 || (p.pn && p.pm == 0) || (!p.dce && p.dc != 0)
      || (match copyGroup u p with
        | some c => c.1 % c.2 != 0 || u.dst.any (overlaps c)
        | none => false))

/-- The register groups named by an instruction that forms a convoy of one and that DECL covers (R23, R109): SETVL, CLAIM,
VSHAPE and MOP name none, and still raise DECL when VLMAX is 0. -/
def soloUse (g : Nat) : Instr → Option (List (Nat × Nat))
  | .setvl .. => some []
  | .claim .. => some []
  | .vshape .. => some []
  | .mop .. => some []
  | .vtag d _ b => some (if b = 0 then [(d.toNat, g)] else [])
  | .mtov d _ _ => some [(d.toNat, g)]
  | .mfromv _ a _ => some [(a.toNat, g)]
  | _ => none

/-- A VTAG that sets a format wider than the declared width (R23, R155). -/
def tagTooWide (w : Nat) : Instr → Bool
  | .vtag _ t _ => match Fmt.ofCode? t.toNat with
    | some f => decide (w < f.bytes)
    | none => false
  | _ => false

/-- Instructions and CSR accesses that only a steward hart may execute (R227, R230). -/
def stewardOnly : Instr → Bool
  | .vsave .. => true
  | .vrestore .. => true
  | .scrub .. => true
  | .ctxkill .. => true
  | .setown .. => true
  | .csrr _ c => c == 0x050
  | .csrw _ _ c => c == 0x050
  | .csrs _ _ c => c == 0x050
  | .csrc _ _ c => c == 0x050
  | _ => false

/-- The decode-time causes of an instruction that forms a convoy of one. -/
def soloCauses (s : State) (i : Instr) (pc : XWord) : List (Nat × Trap) :=
  (if stewardOnly i && !s.hart.steward then [(3, ({ code := cPRIV, tv := pc } : Trap))] else [])
    ++ (match soloUse (groupFactor s.regs) i with
      | none => []
      | some gs =>
        (if gs.any (fun g => g.1 % g.2 != 0) then [(1, ({ code := cILLEGAL, tv := pc } : Trap))] else [])
          ++ (if s.hart.vlmax = 0 || gs.any (fun g => decide (s.hart.vn < g.1 + g.2)) || tagTooWide (declWidth s) i
              then [(4, { code := cDECL, tv := pc })] else []))

/-- The decode-time causes of one member, each with its order of Table 5.5: a forbidden prefix field, a misaligned group and
VMAXI's overlap (ILLEGAL, 1), a register at or above vn or VLMAX = 0 (DECL, 4), VWMAC's overlap (OVLP, 5).  DESIGN CHOICE: DECL for
the copy group at DC reports the member's own word, where R115 does not name the word (log entry 55). -/
def memberCauses (s : State) (i : Instr) (pc : XWord) (p : Pfx) : List (Nat × Trap) :=
  match vecUse (groupFactor s.regs) i with
  | none => soloCauses s i pc
  | some u =>
    let groups := u.dst ++ u.srcs
    (if pfxBad u p then [(1, { code := cILLEGAL, tv := p.at_ })] else [])
      ++ (if groups.any (fun g => g.1 % g.2 != 0) || (u.noMeet && u.dst.any (fun d => u.srcs.any (overlaps d)))
          then [(1, { code := cILLEGAL, tv := pc })] else [])
      ++ (if s.hart.vlmax = 0 || groups.any (fun g => decide (s.hart.vn < g.1 + g.2))
            || (match copyGroup u p with | some c => decide (s.hart.vn < c.1 + c.2) | none => false)
          then [(4, { code := cDECL, tv := pc })] else [])
      ++ (if u.noOverlap && u.dst.any (fun d => u.srcs.any (overlaps d)) then [(5, { code := cOVLP, tv := pc })] else [])

/-- The decode-time check of the member at the PC, as its own execution makes it. -/
def checkMember (s : State) (i : Instr) : Eff Unit :=
  match memberCauses s i s.regs.pc (pfxOf s.regs) with
  | [] => .ok ()
  | (_, t) :: _ => .error (.trap t)

/-! ### Reading operands -/

def curTile (v : VReg) : Tile := v.twin.getD v.com
def curMask (m : MReg) : Nat := m.twin.getD m.com

def vreg (r : Regs) (n : Nat) : VReg := r.vregs.toList.getD n { com := .empty, twin := none }

/-- A source tile: its format and its elements' slots by linear index; `empty` names the queue that had no tile. -/
structure Source where
  fmt : Fmt
  get : Nat → XWord
  empty : Option Nat := none

/-- The current tile of a group of n registers; registers of one source group carry one tag, otherwise ILLEGAL (R145). -/
def groupSource (s : State) (first n : Nat) : Eff Source :=
  let ts := (span first n).map (fun j => curTile (vreg s.regs j))
  let tag := (ts.headD .empty).tag
  let arr := ts.toArray
  let vm := s.hart.vlmax
  if ts.any (fun t => t.tag ≠ tag) then illegal s
  else .ok { fmt := tag, get := fun i => ((arr.getD (i / vm) .empty).elems).getD (i % vm) 0 }

/-- The operand that a va or vb field names (R38, R104, R145).  `cv` after a member that produced no tile is not stated: its
elements are the free values that the member set aside, and its format is bits (DESIGN CHOICE, log entry 37). -/
def source (s : State) (q : Bool) (f : BitVec 5) : Eff Source :=
  if !q then groupSource s f.toNat (groupFactor s.regs)
  else if f = 4 then
    match s.regs.cv with
    | some t => .ok { fmt := t.tag, get := fun i => t.elems.getD i 0 }
    | none => .ok { fmt := .bits, get := fun i => Config.free (s.free - 1 - i) }
  else
    match s.regs.queues.toList.getD f.toNat [] with
    | t :: _ => .ok { fmt := t.tag, get := fun i => t.elems.getD i 0 }
    | [] => .ok { fmt := s.regs.qtags.toList.getD f.toNat .bits, get := fun _ => 0, empty := some f.toNat }

/-- The head tile of a queue consumed; two operands that name one queue consume it once (R38).  Nothing is consumed when VL is
0 (R21); an empty queue raises QLEFT (R39). -/
def consume (s : State) (ops : List (Bool × BitVec 5)) : Eff State :=
  if s.regs.vl = 0 then .ok s
  else
    let qs := ((ops.filter (fun o => o.1 && o.2.toNat < 4)).map (fun o => o.2.toNat)).eraseDups
    match qs.find? (fun q => (s.regs.queues.toList.getD q []).isEmpty) with
    | some q => qleft s 2 q
    | none => .ok (s.setRegs { s.regs with
        queues := Vector.ofFn (fun i : Fin 4 => if qs.contains i.val then s.regs.queues[i].tail else s.regs.queues[i]) })

/-- The width in bytes of an element of a format in the executing hart's registers. -/
def fmtWidth (s : State) (f : Fmt) : Nat := if f = .bits then declWidth s else f.bytes

/-- The low bits of a slot that an element of a format has. -/
def lowBits (bytes : Nat) (v : XWord) : XWord := v &&& BitVec.ofNat 64 (2 ^ (8 * bytes) - 1)

/-- The bits of a slot that are an element of a format: a T6 element has six (R54). -/
def elemBits (s : State) (f : Fmt) (v : XWord) : XWord := if f = .t6 then v &&& 0x3F else lowBits (fmtWidth s f) v

def elem (s : State) (src : Source) (i : Nat) : XWord := elemBits s src.fmt (src.get i)

/-! ### Active elements -/

/-- Whether linear index i lies within VR rows and VL elements (R19). -/
def inShape (s : State) (i : Nat) : Bool :=
  let rs := rowSize s
  decide (i / rs < s.regs.vr) && decide (i % rs < s.regs.vl)

/-- The predicate of R114 at a linear index within the shape. -/
def predicate (s : State) (p : Pfx) (i : Nat) : Bool :=
  if p.pm = 0 then true else inSet (curMask (s.regs.masks.toList.getD p.pm.toNat { com := 0, twin := none })) i != p.pn

/-- The linear indices of the shape in increasing order. -/
def shapeIndices (s : State) : List Nat :=
  let rs := rowSize s
  (span 0 s.regs.vr).flatMap (fun r => span (r * rs) s.regs.vl)

/-- The active linear indices in increasing order (R114, R149). -/
def activeIndices (s : State) (p : Pfx) : List Nat := (shapeIndices s).filter (predicate s p)

/-- The rounding of element i: mode of the prefix or FRM, generator i mod 64 (R58, R60). -/
def modeOf (s : State) (p : Pfx) : Nat := if p.rm = 0 then s.regs.frm.toNat else p.rm.toNat - 1

/-! ### Writing elements -/

/-- A slot after the write of an element of `b` bytes under a declared width of `w`: the element's bits, and above them bits
that the manual does not fix (a free value). -/
def slotWrite (w b : Nat) (old v : XWord) : XWord :=
  if w ≤ b then (if b = w then lowBits w v else lowBits w v ||| (Config.highBits w old v) <<< (8 * w))
  else lowBits b v ||| (lowBits w (Config.highBits b old v)) <<< (8 * b)

/-- New twins of a group: the tag set in every register (R145), the elements of `new` written, the rest kept (R28). -/
def State.writeGroup (s : State) (first n : Nat) (fmt : Fmt) (new : Array (Option XWord)) : State :=
  let vm := s.hart.vlmax
  let w := declWidth s
  let b := fmtWidth s fmt
  s.setRegs { s.regs with
    vregs := Vector.ofFn (fun j : Fin 32 =>
      let v := s.regs.vregs[j]
      if first ≤ j.val ∧ j.val < first + n then
        let base := (j.val - first) * vm
        let old := (curTile v).elems
        { v with twin := some { tag := fmt, elems := old.mapIdx (fun p x =>
            match new.getD (base + p) none with
            | some y => slotWrite w b x y
            | none => x) } }
      else v) }

/-- A mask register's twin (R28). -/
def State.writeMask (s : State) (m : Nat) (v : Nat) : State :=
  s.setRegs { s.regs with masks := Vector.ofFn (fun j : Fin 8 =>
    if j.val = m then { s.regs.masks[j] with twin := some v } else s.regs.masks[j]) }

def maskOf (s : State) (m : BitVec 5) : Nat := curMask (s.regs.masks.toList.getD m.toNat { com := 0, twin := none })

/-- The tail elements that the policy zeroes: indices below C for which `isTail` holds (R19). -/
def withTail (s : State) (isTail : Nat → Bool) (new : Array (Option XWord)) : Array (Option XWord) :=
  if s.regs.tailZero then new.mapIdx (fun i v => if v.isNone && isTail i then some 0 else v) else new

def blank (s : State) : Array (Option XWord) := Array.replicate (capacity s) none

/-- What the elements of one instruction come to: the results, the flags, the exception set and the generators. -/
structure Outs where
  new : Array (Option XWord)
  flags : Flags
  exc : Nat
  gens : Vector (BitVec 32) 64
deriving Repr

def Outs.start (s : State) : Outs := { new := blank s, flags := 0, exc := 0, gens := s.regs.gens }

def gen (gs : Vector (BitVec 32) 64) (i : Nat) : BitVec 32 := gs.toList.getD (i % 64) 1
def setGen (gs : Vector (BitVec 32) 64) (i : Nat) (g : BitVec 32) : Vector (BitVec 32) 64 :=
  if h : i % 64 < 64 then gs.set (i % 64) g h else gs

/-- One element: its result, flags and generator, entered at its index (R62, R64). -/
def Outs.put (o : Outs) (ek : BitVec 3) (i : Nat) (v : XWord) (f : Flags) (g : BitVec 32) : Outs :=
  { new := o.new.setIfInBounds i (some v), flags := o.flags ||| f,
    exc := if excepts ek f then addIndex o.exc i else o.exc, gens := setGen o.gens i g }

/-- The loop of R149 over the active elements. -/
def eachElem (s : State) (p : Pfx) (f : Nat → Rnd → XWord × Flags × BitVec 32) : Outs :=
  let mode := modeOf s p
  (activeIndices s p).foldl (fun o i =>
    let (v, fl, g) := f i { mode := mode, gen := gen o.gens i }
    o.put p.ek i v fl g) (Outs.start s)

/-- FFLAGS, generators and, with E = 1, the exception mask of an instruction (R62, R64). -/
def State.account (s : State) (p : Pfx) (e : Bool) (o : Outs) : State :=
  let s := s.setRegs { s.regs with fflags := accrue s.regs.fflags o.flags, gens := o.gens }
  if e then s.writeMask p.em.toNat o.exc else s

/-- A group written and, with DCE, its copy (R115); the tile is the next member's `cv`, unwritten elements zero (R36). -/
def State.deliver (s : State) (p : Pfx) (w : Bool) (d n : Nat) (fmt : Fmt) (new : Array (Option XWord)) : State :=
  let s1 := if w then s.writeGroup d n fmt new else s
  let s2 := if w && p.dce then s1.writeGroup p.dc.toNat n fmt new else s1
  s2.setRegs { s2.regs with cv := some { tag := fmt, elems := new.map (fun v => v.getD 0) } }

/-- The end of a member with one destination group, whose tail elements are given (R149, R19): nothing changes when VL is 0
(R21); the tile that goes on as `cv` holds zeros where no element was written, whatever the tail policy (R36). -/
def deliverTail (s : State) (p : Pfx) (w e : Bool) (d : BitVec 5) (fmt : Fmt) (isTail : Nat → Bool) (o : Outs) : State :=
  let s := s.spendPfx
  let tile : Tile := { tag := fmt, elems := o.new.map (fun v => v.getD 0) }
  if s.regs.vl = 0 then s.setRegs { s.regs with cv := some { tile with elems := o.new.map (fun _ => 0) } }
  else
    let s := (s.account p e o).deliver p w d.toNat (groupFactor s.regs) fmt (withTail s isTail o.new)
    s.setRegs { s.regs with cv := some tile }

/-- The end of an element-wise member: its tail lies outside VR rows and VL columns. -/
def deliverElems (s : State) (p : Pfx) (w e : Bool) (d : BitVec 5) (fmt : Fmt) (o : Outs) : State :=
  deliverTail s p w e d fmt (fun i => !inShape s i) o

/-- A member that produces no single tile: what a following `cv` reads is not stated, and is a free value. -/
def State.noTile (s : State) : State :=
  { s.setRegs { s.regs with cv := none } with free := s.free + capacity s }

/-- Two results for each element: the head and the error of a pair, or the low and high half of a widened element. -/
structure Outs2 where
  fst : Array (Option XWord)
  snd : Array (Option XWord)
  flags : Flags
  exc : Nat
deriving Repr

/-- Two results for each index of a list. -/
def eachTwo (s : State) (p : Pfx) (is : List Nat) (f : Nat → XWord × XWord × Flags) : Outs2 :=
  is.foldl (fun o i =>
    let (a, b, fl) := f i
    { fst := o.fst.setIfInBounds i (some a), snd := o.snd.setIfInBounds i (some b), flags := o.flags ||| fl,
      exc := if excepts p.ek fl then addIndex o.exc i else o.exc })
    { fst := blank s, snd := blank s, flags := 0, exc := 0 }

/-- The end of a member that writes a group of 2G registers: the first G take `fst` with tag f1, the others `snd` with tag f2.
The copy is the head group, or under `wide` all of it (R115). -/
def deliverTwo (s : State) (p : Pfx) (wide e : Bool) (d : BitVec 5) (f1 f2 : Fmt) (isTail : Nat → Bool) (o : Outs2) : State :=
  let s := s.spendPfx.noTile
  if s.regs.vl = 0 then s
  else
    let g := groupFactor s.regs
    let a := withTail s isTail o.fst
    let b := withTail s isTail o.snd
    let s := s.account p e { new := #[], flags := o.flags, exc := o.exc, gens := s.regs.gens }
    let s := (s.writeGroup d.toNat g f1 a).writeGroup (d.toNat + g) g f2 b
    if !p.dce then s
    else
      let s := s.writeGroup p.dc.toNat g f1 a
      if wide then s.writeGroup (p.dc.toNat + g) g f2 b else s

/-! ### Operation formats (R146, R148) -/

def intFmt (signed : Bool) (bytes : Nat) : Fmt :=
  match bytes, signed with
  | 1, true => .i8 | 1, false => .u8 | 2, true => .i16 | 2, false => .u16
  | 4, true => .i32 | 4, false => .u32 | _, _ => .i64

/-- The operation format of a list of sources; none where R148 makes the mix illegal. -/
def opFormat (fs : List Fmt) : Option Fmt :=
  if fs.all Fmt.isInt then
    let w := (fs.map Fmt.bytes).foldl max 1
    let anySigned := fs.any Fmt.signed
    let wideUnsigned := fs.any (fun f => f.bytes = w && !f.signed)
    if !anySigned then some (intFmt false w)
    else if !wideUnsigned then some (intFmt true w)
    else some (intFmt true (if w = 8 then 8 else 2 * w))
  else if fs.all Fmt.isFloat then
    match fs with
    | [] => none
    | f :: rest => if rest.all (· = f) then some f else some .f32
  else none

/-- The result format of a destination tag for an operation format: the tag itself, or F for tag 0; none where the classes
differ (R147, R148). -/
def resultFormat (f tag : Fmt) : Option Fmt :=
  if tag = .bits then some f
  else if f.isInt && tag.isInt then some tag
  else if f.isFloat && tag.isFloat then some tag
  else none

/-- The tag of a destination group.  DESIGN CHOICE (log entry 32): that of its first register, where its registers carry different
tags; R145 says so of a source group alone. -/
def destTag (s : State) (d : BitVec 5) : Fmt := (curTile (vreg s.regs d.toNat)).tag

/-- The result format of an instruction: F itself when W is 0 (R147). -/
def destFormat (s : State) (w : Bool) (d : BitVec 5) (f : Fmt) : Eff Fmt :=
  if !w then .ok f
  else match resultFormat f (destTag s d) with
    | some r => .ok r
    | none => illegal s

/-- ToDest of R149: an element computed in F, converted to the result format, flags together.  DESIGN CHOICE (log entry 32): SAT
clamps every integer conversion, as Table 3.8 says, also one to a format that is not narrower than F, of which R161 does not speak. -/
def toDest (f dst : Fmt) (sat : Bool) (x : XWord × Flags × BitVec 32) (mode : Nat) : XWord × Flags × BitVec 32 :=
  if f = dst then x
  else
    let (v, fl, g) := convert f dst sat { mode := mode, gen := x.2.2 } x.1
    (v, x.2.1 ||| fl, g)

/-- An instruction of the open strip that forms a convoy of one and has decode-time causes of its own. -/
def ordinaryChecked (i : Instr) (f : State → Eff State) (s : State) : Result :=
  ordinary (fun s => do
    checkMember s i
    f s) s

/-- An irreversible instruction with decode-time causes of its own: they come before the commit (R109). -/
def irreversibleChecked (i : Instr) (f : State → Eff State) (s : State) : Result :=
  match checkMember s i with
  | .error e => stopped s e
  | .ok () => irreversible f s

/-- A member of a convoy as a whole. -/
def member (i : Instr) (f : Pfx → State → Eff State) (s : State) : Result :=
  finishMember s i.kbit (do
    checkMember s i
    f (pfxOf s.regs) s)

end Machine
end Sys2Proof
end

