-- ==== Sys2Proof/Machine/ScalarFp.lean ====
section
/-! DEFINITION. Major 0x0A: scalar floating-point instructions (R135 to R141).  Each belongs to the open strip, forms a
convoy of one and raises no trap. -/

namespace Sys2Proof
namespace Machine

/-- The format that the fmt field selects (R135). -/
def scalarFmt (f : BitVec 2) : FpFmt :=
  match f.toNat with
  | 0 => fp32
  | 1 => fp64
  | 2 => fp16
  | _ => bf16

/-- The encoding that a source holds: the low bits of its register (R135). -/
def fpBits (f : FpFmt) (w : XWord) : Nat := w.toNat % 2 ^ f.bits

/-- The rounding of a scalar instruction: its mode, 7 for FRM, and generator 0 (R136). -/
def scalarRnd (s : State) (rm : BitVec 3) : Rnd :=
  { mode := if rm = 7 then s.regs.frm.toNat else rm.toNat, gen := gen s.regs.gens 0 }

/-- A result with its flags and the state of generator 0. -/
def State.fpResult (s : State) (d : BitVec 5) (v : XWord) (fl : Flags) (g : BitVec 32) : State :=
  ((s.setRegs { s.regs with gens := setGen s.regs.gens 0 g }).raise fl).setX d v

/-- An operation that computes an exact value and rounds it once to fmt (R137); `down` tells the sign of an exact zero sum. -/
def fpRounds (d : BitVec 5) (f : BitVec 2) (rm : BitVec 3) (op : State → Bool → Val × Flags) (s : State) : Result :=
  ordinary (fun s =>
    let r := scalarRnd s rm
    let (v, fl) := op s r.down
    let o := roundTo (scalarFmt f) r v
    .ok (s.fpResult d (xword o.bits) (fl ||| o.flags) o.gen)) s

/-- The value of x[i] in fmt. -/
def fpVal (s : State) (f : BitVec 2) (i : BitVec 5) : Val := (scalarFmt f).val (fpBits (scalarFmt f) (s.x i))

/-- An operation that does not round and raises no flag (R137, R138). -/
def fpExact (d : BitVec 5) (op : State → XWord) (s : State) : Result :=
  ordinary (fun s => .ok (s.setX d (op s))) s

/-- A value that fmt holds exactly, as its encoding; NaN as the canonical NaN. -/
def fpEncode (f : BitVec 2) (v : Val) : XWord := xword (roundCore (scalarFmt f) Rnd.rne v).1

def boolWord (b : Bool) : XWord := if b then 1 else 0

/-- FADD (Table 6.4). -/
def execFadd (d a b : BitVec 5) (f : BitVec 2) (rm : BitVec 3) (s : State) : Result :=
  fpRounds d f rm (fun s down => (fpVal s f a).add down (fpVal s f b)) s

/-- FSUB (Table 6.4). -/
def execFsub (d a b : BitVec 5) (f : BitVec 2) (rm : BitVec 3) (s : State) : Result :=
  fpRounds d f rm (fun s down => (fpVal s f a).add down (fpVal s f b).neg) s

/-- FMUL (Table 6.4). -/
def execFmul (d a b : BitVec 5) (f : BitVec 2) (rm : BitVec 3) (s : State) : Result :=
  fpRounds d f rm (fun s _ => (fpVal s f a).mul (fpVal s f b)) s

/-- FDIV (Table 6.4). -/
def execFdiv (d a b : BitVec 5) (f : BitVec 2) (rm : BitVec 3) (s : State) : Result :=
  fpRounds d f rm (fun s _ => (fpVal s f a).div (fpVal s f b)) s

/-- FSQRT (Table 6.4). -/
def execFsqrt (d a : BitVec 5) (f : BitVec 2) (rm : BitVec 3) (s : State) : Result :=
  fpRounds d f rm (fun s _ => (fpVal s f a).sqrt) s

/-- FMIN (Table 6.4, R51). -/
def execFmin (d a b : BitVec 5) (f : BitVec 2) (s : State) : Result :=
  fpExact d (fun s => fpEncode f ((fpVal s f a).minNum (fpVal s f b))) s

/-- FMAX (Table 6.4, R51). -/
def execFmax (d a b : BitVec 5) (f : BitVec 2) (s : State) : Result :=
  fpExact d (fun s => fpEncode f ((fpVal s f a).maxNum (fpVal s f b))) s

/-- FMA (Table 6.4, R138): the addend is x[rd] before it is written. -/
def execFma (d a b : BitVec 5) (f : BitVec 2) (rm : BitVec 3) (s : State) : Result :=
  fpRounds d f rm (fun s down => Val.fma down (fpVal s f a) (fpVal s f b) (fpVal s f d)) s

/-- FEQ (R138). -/
def execFeq (d a b : BitVec 5) (f : BitVec 2) (s : State) : Result :=
  fpExact d (fun s => boolWord ((fpVal s f a).eq (fpVal s f b))) s

/-- FLT (R138). -/
def execFlt (d a b : BitVec 5) (f : BitVec 2) (s : State) : Result :=
  fpExact d (fun s => boolWord ((fpVal s f a).lt (fpVal s f b))) s

/-- FLE (R138). -/
def execFle (d a b : BitVec 5) (f : BitVec 2) (s : State) : Result :=
  fpExact d (fun s => boolWord ((fpVal s f a).le (fpVal s f b))) s

/-- FCLASS (R139). -/
def execFclass (d a : BitVec 5) (f : BitVec 2) (s : State) : Result :=
  fpExact d (fun s => xword ((scalarFmt f).classOf (fpBits (scalarFmt f) (s.x a)))) s

/-- The integer kind in the rb field (R140): signed, and its width in bits. -/
def intKind (kind : BitVec 5) : Bool × Nat := (kind.toNat % 2 == 0, if kind.toNat < 2 then 32 else 64)

/-- FCVT.I (R140). -/
def execFcvtI (d a kind : BitVec 5) (f : BitVec 2) (rm : BitVec 3) (s : State) : Result :=
  ordinary (fun s =>
    let (sg, n) := intKind kind
    let (i, fl, g) := roundToInt (intLo sg n) (intHi sg n) (scalarRnd s rm) (fpVal s f a)
    .ok (s.fpResult d (if sg then sext n (wrapBits n i) else wrapBits n i) fl g)) s

/-- FCVT.F (R140). -/
def execFcvtF (d a kind : BitVec 5) (f : BitVec 2) (rm : BitVec 3) (s : State) : Result :=
  ordinary (fun s =>
    let (sg, n) := intKind kind
    let o := roundTo (scalarFmt f) (scalarRnd s rm) (Val.ofInt (intOf sg n (s.x a)))
    .ok (s.fpResult d (xword o.bits) o.flags o.gen)) s

/-- Whether fmt `dst` holds every value of `src` (R140). -/
def fmtHolds (src dst : BitVec 2) : Bool := src == dst || dst == 1 || (dst == 0 && src != 1)

/-- FCVT (R140): `kind` codes the source format. -/
def execFcvt (d a kind : BitVec 5) (f : BitVec 2) (rm : BitVec 3) (s : State) : Result :=
  ordinary (fun s =>
    let src := kind.setWidth 2
    let v := fpVal s src a
    if fmtHolds src f then .ok (s.setX d (fpEncode f v))
    else
      let o := roundTo (scalarFmt f) (scalarRnd s rm) v
      .ok (s.fpResult d (xword o.bits) o.flags o.gen)) s

/-- FSGNJ (Table 6.4): the magnitude of a with the sign bit of b; a NaN in a gives the canonical NaN. -/
def execFsgnj (d a b : BitVec 5) (f : BitVec 2) (s : State) : Result :=
  fpExact d (fun s =>
    let m := scalarFmt f
    let x := fpBits m (s.x a)
    if m.val x == .nan then xword m.nan
    else xword (x % 2 ^ (m.bits - 1) + m.sign ((fpBits m (s.x b)).testBit (m.bits - 1)))) s

end Machine
end Sys2Proof
end

