-- ==== Sys2Proof/Machine/Ordered.lean ====
section
/-! DEFINITION. Major 0x0B: ordered accesses and atomics (R207 to R211).  In this model one access takes place at
a time and memory holds every performed store; what a release or an acquire orders is which older translation entry a later walk may
still read (R98, `State.order`). -/

namespace Sys2Proof
namespace Machine

/-- The physical address of an ordered or atomic access, with the checks of R129 in order; a peer window at a scope other than
system raises PROT (R210).  A release is ordered after every earlier access, and its walk too (R98, R243). -/
def orderedAccess (s : State) (acc : Access) (va : XWord) (n : Nat) (scope : BitVec 3) : Eff (Nat × State) := do
  let (pa, u) ← access (if acc = .read then s else s.order) acc va n 0
  let s := u.setHart s.hart
  if Config.peerBase ≤ pa ∧ scope ≠ 4 then keepFinds s (protFault va false (acc = .write || acc = .update))
  else
    if acc ≠ .write then poisonCheck s acc va pa n 0
    return (pa, s)

/-- The n bytes of an access: 8 under D, else 4 (R207). -/
def widthOf (w : Bool) : Nat := if w then 8 else 4

/-- Ext of R208. -/
def extW (w : Bool) (v : Nat) : XWord := if w then xword v else sext 32 (xword v)

/-- An atomic read and write (R208, R209): `op` takes the width in bits, the old value and x[rb]'s, and gives the value
written, or none where it writes nothing.  It commits first and is irreversible, and it orders what stands before it (R98). -/
def amoOp (d a b : BitVec 5) (scope : BitVec 3) (w : Bool) (op : State → Nat → Nat → Option Nat) (ext : Nat → XWord)
    (s : State) : Result :=
  irreversible (fun s => do
    let n := widthOf w
    let va := s.x a
    let (pa, s) ← orderedAccess s .update va n scope
    let old := leNat (memReadN s.mem pa n)
    let t := match op s old ((s.x b).toNat % 2 ^ (8 * n)) with
      | some v => s.homeWrite 0 s.hart.gang va pa (leBytes n v)
      | none => s
    return t.order.setX d (ext old)) s

/-- An operation on the width's bits, every one of which writes. -/
def amoBits (w : Bool) (f : Nat → Nat → Nat) : State → Nat → Nat → Option Nat :=
  fun _ x y => some (f x y % 2 ^ (8 * widthOf w))

/-- The signed reading of a value of the width. -/
def amoInt (w : Bool) (v : Nat) : Int := intOf true (8 * widthOf w) (xword v)

/-- AMO.FMAX's operation (Table 10.1). -/
def fmaxBits (x y : Nat) : Nat :=
  let a := fp32.val x
  let b := fp32.val y
  if a == .nan || b == .nan then fp32.nan else (roundCore fp32 Rnd.rne (a.maxNum b)).1

/-- LD.ACQ (R208, R211): belongs to the open strip, with forwarding. -/
def execLdAcq (d a : BitVec 5) (sc : BitVec 3) (w : Bool) (s : State) : Result :=
  ordinary (fun s => do
    let (pa, s) ← orderedAccess s .read (s.x a) (widthOf w) sc
    return s.setX d (extW w (leNat (seenBytes s pa (widthOf w))))) s

/-- ST.REL (R208, R211): performed after everything before it. -/
def execStRel (a b : BitVec 5) (sc : BitVec 3) (w : Bool) (s : State) : Result :=
  irreversible (fun s => do
    let va := s.x a
    let (pa, s) ← orderedAccess s .write va (widthOf w) sc
    return s.homeWrite 0 s.hart.gang va pa (leBytes (widthOf w) (s.x b).toNat)) s

/-- AMO.ADD (Table 10.1). -/
def execAmoAdd (d a b : BitVec 5) (sc : BitVec 3) (w : Bool) (s : State) : Result :=
  amoOp d a b sc w (amoBits w (· + ·)) (extW w) s

/-- AMO.AND (Table 10.1). -/
def execAmoAnd (d a b : BitVec 5) (sc : BitVec 3) (w : Bool) (s : State) : Result :=
  amoOp d a b sc w (amoBits w (· &&& ·)) (extW w) s

/-- AMO.OR (Table 10.1). -/
def execAmoOr (d a b : BitVec 5) (sc : BitVec 3) (w : Bool) (s : State) : Result :=
  amoOp d a b sc w (amoBits w (· ||| ·)) (extW w) s

/-- AMO.XOR (Table 10.1). -/
def execAmoXor (d a b : BitVec 5) (sc : BitVec 3) (w : Bool) (s : State) : Result :=
  amoOp d a b sc w (amoBits w (· ^^^ ·)) (extW w) s

/-- AMO.MIN (Table 10.1). -/
def execAmoMin (d a b : BitVec 5) (sc : BitVec 3) (w : Bool) (s : State) : Result :=
  amoOp d a b sc w (amoBits w (fun x y => if amoInt w x ≤ amoInt w y then x else y)) (extW w) s

/-- AMO.MAX (Table 10.1). -/
def execAmoMax (d a b : BitVec 5) (sc : BitVec 3) (w : Bool) (s : State) : Result :=
  amoOp d a b sc w (amoBits w (fun x y => if amoInt w x ≤ amoInt w y then y else x)) (extW w) s

/-- AMO.MINU (Table 10.1). -/
def execAmoMinu (d a b : BitVec 5) (sc : BitVec 3) (w : Bool) (s : State) : Result :=
  amoOp d a b sc w (amoBits w (fun x y => min x y)) (extW w) s

/-- AMO.MAXU (Table 10.1). -/
def execAmoMaxu (d a b : BitVec 5) (sc : BitVec 3) (w : Bool) (s : State) : Result :=
  amoOp d a b sc w (amoBits w (fun x y => max x y)) (extW w) s

/-- AMO.SWAP (Table 10.1). -/
def execAmoSwap (d a b : BitVec 5) (sc : BitVec 3) (w : Bool) (s : State) : Result :=
  amoOp d a b sc w (amoBits w (fun _ y => y)) (extW w) s

/-- AMO.CAS (Table 10.1): x[rd] holds the expected value, read before it is written. -/
def execAmoCas (d a b : BitVec 5) (sc : BitVec 3) (w : Bool) (s : State) : Result :=
  amoOp d a b sc w (fun s x y => if x = (s.x d).toNat % 2 ^ (8 * widthOf w) then some y else none) (extW w) s

/-- AMO.FMAX (Table 10.1): the old value is written zero-extended. -/
def execAmoFmax (d a b : BitVec 5) (sc : BitVec 3) (s : State) : Result :=
  amoOp d a b sc false (amoBits false fmaxBits) xword s

end Machine
end Sys2Proof
end

