-- ==== Sys2Proof/Machine/Launch.lean ====
section
/-! DEFINITION. Lane groups (R24 to R26), the VDECL descriptor and register space (R22, Table 7.2), gang specifications and
launch queues (R355 to R358), barriers (R215), and ticket completion (R261). -/

namespace Sys2Proof
namespace Machine

/-! ### Lanes -/

def lanesHeld (k : Core) (slot : Nat) : Nat := (k.lanes.toList.filter (· = some slot)).length
def lanesFree (k : Core) : Nat := (k.lanes.toList.filter (· = none)).length

/-- The first n free groups of a list of groups assigned to a slot. -/
def fillLanes (slot : Nat) : Nat → List (Option Nat) → List (Option Nat)
  | 0, l => l
  | _, [] => []
  | n + 1, none :: l => some slot :: fillLanes slot n l
  | n + 1, some x :: l => some x :: fillLanes slot (n + 1) l

/-- n free groups assigned to a slot, which is the slot served last (R24). -/
def giveLanes (k : Core) (slot n : Nat) : Core :=
  let l := fillLanes slot n k.lanes.toList
  { k with
    lanes := Vector.ofFn (fun i : Fin 4 => l.getD i.val none), laneLast := slot, laneWait := k.laneWait.filter (·.1 ≠ slot) }

def joinLaneWait (k : Core) (slot now : Nat) : Core := { k with laneWait := k.laneWait ++ [(slot, now)] }

/-- What SETVL and CLAIM do with lanes (R24, R26): the next state, and whether the hart waits.  A timed hart's CLAIM before its
first SETVL takes, or waits for, its full request as well (DESIGN CHOICE, log entry 56). -/
def takeLanes (s : State) : State × Bool :=
  let h := s.hart
  let slot := s.slotId
  if h.steward then (s, false)
  else if h.timed then
    let k := s.core
    let need := h.laneReq - lanesHeld k slot
    if need = 0 then (s, false)
    else if need ≤ lanesFree k then ((s.setCore (giveLanes k slot need)).setHart { h with laneSince := s.gtime }, false)
    else (s.setCore (joinLaneWait k slot s.gtime), true)
  else
    let k := dropLanes s.core slot
    if k.laneWait.isEmpty && lanesFree k ≠ 0 then
      ((s.setCore (giveLanes k slot h.laneReq)).setHart { h with laneSince := s.gtime }, false)
    else (s.setCore (joinLaneWait k slot s.gtime), true)

/-- What is left of a hart that waits for lanes. -/
def waitIf (b : Bool) (w : Wait) (h : Hart) : Hart := if b then { h with wait := some w } else h

/-! ### Register space (R22, R360) -/

/-- The fields of a VDECL descriptor (Table 7.2). -/
structure Decl where
  n : Nat
  wcode : Nat
  count : Nat
deriving DecidableEq, Repr

/-- A descriptor read; none where it breaks Table 7.2. -/
def Decl.of (v : Nat) : Option Decl :=
  let d : Decl := { n := bitsAt v 24 6, wcode := bitsAt v 20 2, count := bitsAt v 0 17 }
  if bitsAt v 17 3 ≠ 0 ∨ bitsAt v 22 2 ≠ 0 ∨ bitsAt v 30 34 ≠ 0 ∨ 32 < d.n
      ∨ (d.n ≠ 0 ∧ (d.count < 64 ∨ 65536 < d.count)) then none
  else some d

/-- 2·N·COUNT·w. -/
def Decl.bytes (d : Decl) : Nat := 2 * d.n * d.count * 2 ^ d.wcode

/-- Register space that a hart holds: its declaration, or its reservation (R360). -/
def Hart.space (h : Hart) : Nat :=
  if h.live = .free ∨ h.steward then 0 else 2 * h.vn * h.vlmax * 2 ^ h.wcode.toNat + h.reserve

/-- Register space of a core that harts other than a given one hold, as a context finds it.  A reservation stands until its hart's
first VDECL, whoever owns the file (R360); declarations of another context's stopped harts are not in the file once the owner has
changed: the steward saved and scrubbed them (R368). -/
def spaceHeld (s : State) (core ctx but : Nat) : Nat :=
  let k := s.coreAt core
  ((s.allHarts.filter (fun h => h.1 / 8 = core ∧ h.1 ≠ but ∧ h.1 < Config.stewardBase)).map
    (fun h => if h.2.ctx = ctx ∨ (k.owned = true ∧ k.owner.toNat = h.2.ctx) ∨ h.2.live = .free then h.2.space else h.2.reserve)).sum

/-! ### Gang specifications (Table 21.3, R356) -/

def specBits (spec : BitVec 512) (lo n : Nat) : Nat := bitsAt spec.toNat lo n

def specEntry (spec : BitVec 512) : XWord := xword (specBits spec 0 64)
def specHarts (spec : BitVec 512) : Nat := specBits spec 64 13
def specLanes (spec : BitVec 512) : Nat := specBits spec 80 3
def specClass (spec : BitVec 512) : Nat := specBits spec 83 2
def specTimed (spec : BitVec 512) : Bool := spec.toNat.testBit 85
def specConfine (spec : BitVec 512) : Nat := specBits spec 86 2
def specSp (spec : BitVec 512) : Nat := specBits spec 96 22
def specDecl (spec : BitVec 512) : Nat := specBits spec 128 30
def specDeps (spec : BitVec 512) : List Nat := (span 0 4).map (fun i => specBits spec (256 + 16 * i) 16)

/-- Register space that placement reserves for each member (R360). -/
def specSpace (spec : BitVec 512) : Nat := match Decl.of (specDecl spec) with | some d => d.bytes | none => 0

/-- Cores of an instance of CONFINE. -/
def confineCores (c : Nat) : Nat :=
  match c with
  | 0 => Config.cores
  | 1 => Config.coresPerDie
  | 2 => Config.coresPerCluster
  | _ => 1

/-- Members that an empty core takes. -/
def corePlaces (spec : BitVec 512) : Nat :=
  if specTimed spec then (if specSpace spec ≤ Config.vrfBytes then 1 else 0)
  else if specSpace spec = 0 then Config.slots
  else min Config.slots (Config.vrfBytes / specSpace spec)

/-- What R356 makes ILLEGAL, dependences apart. -/
def specBad (spec : BitVec 512) : Bool :=
  specBits spec 77 3 ≠ 0 || specBits spec 88 8 ≠ 0 || specBits spec 118 10 ≠ 0 || specBits spec 158 34 ≠ 0
    || specBits spec 240 16 ≠ 0 || specBits spec 320 192 ≠ 0
    || specBits spec 0 2 ≠ 0 || specHarts spec = 0 || decide (4096 < specHarts spec) || specLanes spec = 0
    || decide (4 < specLanes spec) || decide (Config.spBytes < specSp spec)
    || (specDecl spec ≠ 0 && (Decl.of (specDecl spec)).isNone)
    || decide (corePlaces spec * confineCores (specConfine spec) < specHarts spec)

/-! ### Launch queues (R357) -/

/-- The queue of a class with the fewest entries, the lowest-numbered on a tie. -/
def launchQueue (c : Ctx) (cls : Nat) : Nat :=
  ([1, 2, 3].map (4 * cls + ·)).foldl (fun q q' =>
    if (mgetD c.queues q' []).length < (mgetD c.queues q []).length then q' else q) (4 * cls)

def launchFull (c : Ctx) (cls : Nat) : Bool := Config.launchQueue ≤ (mgetD c.queues (launchQueue c cls) []).length

def State.enqueue (s : State) (ctx : Nat) (l : Launch) : State :=
  let c := s.ctxAt ctx
  let q := launchQueue c (specClass l.spec)
  s.setCtxAt ctx { c with queues := mset c.queues q (mgetD c.queues q [] ++ [l]) }

/-- The command of an outstanding ticket of a hart. -/
def ticketOf (h : Hart) (v : Nat) : Option Ticket := h.tickets.find? (fun t => t.value.toNat = v)

/-- The ticket status word (Table 14.4). -/
def statusWord (code op maj tflags detail : Nat) : XWord :=
  xword (code + 2 ^ 8 * op + 2 ^ 13 * maj + 2 ^ 16 * tflags + 2 ^ 24 * detail)

/-- A command done: its ticket, if its hart still exists, takes its status, and what it owned is free (R261, R316). -/
def State.finishCmd (s : State) (n code tflags detail : Nat) : State :=
  match mget? s.cmds n with
  | none => s
  | some c =>
    let h := s.hartAt c.hart
    let w := statusWord code c.op c.maj tflags detail
    let s := { s with cmds := mdel s.cmds n }
    s.setHartAt c.hart { h with
      tickets := h.tickets.map (fun t => if t.cmd = n then { t with status := some w } else t) }

/-! ### Barriers (R215) -/

def Barrier.initial : Barrier := { completed := 0, arrived := [] }

def Gang.barrier (g : Gang) (b : Nat) : Barrier := mgetD g.bars b .initial

/-- The generation that every member still in the gang has arrived at. -/
def Gang.reached (g : Gang) (b : Nat) : Nat :=
  let bar := g.barrier b
  match (span 0 g.size).filter (fun m => !g.exited.contains m) with
  | [] => bar.completed
  | m :: ms => ms.foldl (fun k m => min k (mgetD bar.arrived m 0)) (mgetD bar.arrived m 0)

end Machine
end Sys2Proof
end

