-- ==== Sys2Proof/Machine/Audit.lean ====
section
/-! DEFINITION. The audit log (R380 to R382, R446), and the scrub of a context with what follows it: the end of a kill, of a
release and of an entry to Error (R231, R379, R400, R427, R434). -/

namespace Sys2Proof
namespace Machine

/-! ### The audit log -/

def auditBoot : Nat := 1
def auditCreate : Nat := 2
def auditScrub : Nat := 3
def auditKill : Nat := 4
def auditPower : Nat := 5
def auditTdi : Nat := 6
def auditExport : Nat := 7

/-- The first 64 bytes of a record (Table 22.9). -/
def auditHead (seq gtime : XWord) (type : BitVec 8) (ctx : BitVec 6) (data : BitVec 368) : List Byte :=
  leBytes 64 (data ++ (0 : BitVec 2) ++ ctx ++ type ++ gtime ++ seq).toNat

/-- The 128 bytes of a record. -/
def auditBytes (r : AuditRec) : List Byte := auditHead r.seq r.gtime r.type r.ctx r.data ++ leBytes 64 r.chain.toNat

/-- Where the record of a SEQ lies in the audit region (R432). -/
def auditAt (seq : XWord) : Nat := Config.auditBase + 128 * (seq.toNat % Config.auditSlots)

/-- A record appended: the audit unit sets SEQ and GTIME, computes CHAIN and writes the record into its slot of the audit region
(R380, R382, R432). -/
def State.audit (s : State) (type ctx data : Nat) : State :=
  let d := s.dev
  let t := BitVec.ofNat 8 type
  let c := BitVec.ofNat 6 ctx
  let x := BitVec.ofNat 368 data
  let now := xword s.gtime
  let chain := BitVec.ofNat 512 (leNat (shake256 (leBytes 64 d.chain.toNat ++ auditHead d.next now t c x) 64))
  let r : AuditRec := { seq := d.next, gtime := now, type := t, ctx := c, data := x, chain := chain }
  { s with dev := { d with chain := chain, next := d.next + 1 } }.devWrite (auditAt d.next) (auditBytes r)

/-- Free records of the audit log (R432). -/
def auditFree (d : Device) : Int := (Config.auditSlots : Int) - ((d.next.toNat : Int) - d.floor.toNat)

/-- Whether the log is in its reserve (R433). -/
def auditReserve (d : Device) : Bool := decide (auditFree d ≤ 1024)

def CtxState.code : CtxState → Nat
  | .free => 0
  | .locked => 1
  | .run => 2
  | .error => 3

/-- A context's state changed, with its TDISTATE record before (R381). -/
def State.setCtxState (s : State) (ctx : Nat) (st : CtxState) : State :=
  let s := s.audit auditTdi ctx st.code
  s.setCtxAt ctx { s.ctxAt ctx with state := st }

/-! ### Scrubs (Table 22.8, R434) -/

/-- A resource that a scrub may retire (Table 26.5), by number: cores from 0, slots from 1024, weight arrays from 4096, frames
from 65536. -/
inductive Resource where
  | core (c : Nat)
  | slot (p : Nat)
  | array (a : Nat)
  | frame (f : Nat)
deriving DecidableEq, Repr

def Resource.of (n : Nat) : Resource :=
  if n < 1024 then .core n else if n < 4096 then .slot (n - 1024) else if n < 65536 then .array (n - 4096) else .frame (n - 65536)

/-- The spares of rotations that are under way (R310). -/
def rotationSpares (s : State) : List Nat :=
  s.ctxs.flatMap (fun c => c.2.handles.filterMap (fun h => h.2.rotating.map (·.2)))

/-- Cores that a context holds: they serve it, it owns their registers, a gang of it holds their local stores or held them last,
or a hart of it is there. -/
def coresOf (s : State) (ctx : Nat) : List Nat :=
  (s.cores.filter (fun k => k.2.serves = some ctx || (k.2.owned && k.2.owner.toNat = ctx) || k.2.tenant = some ctx
    || s.allHarts.any (fun h => h.1 / 8 = k.1 && h.2.ctx = ctx && h.2.live ≠ .free && !h.2.steward))).map (·.1)

def framesOf (s : State) (ctx : Nat) : List Nat :=
  match (s.ctxAt ctx).grant with
  | some g => g.frames ++ g.slots.flatMap (fun p => span (256 * p) 256)
  | none => []

def slotsOf (s : State) (ctx : Nat) : List Nat := match (s.ctxAt ctx).grant with | some g => g.slots | none => []

/-- Whether an array is one that the scrub of a context covers (R314): one granted to it, or a spare that has held a tile of it in a
rotation.  A spare that another context has since come to own, or takes in a rotation, carries no weight of the former tile any more
(R314), and is left alone (DESIGN CHOICE, log entry 46). -/
def holdsArray (s : State) (ctx a : Nat) (w : WArray) : Bool :=
  w.owner == some ctx || (w.owner.isNone && w.held.contains ctx && !(rotationSpares { s with ctxs := mdel s.ctxs ctx }).contains a)

def arraysOf (s : State) (ctx : Nat) : List Nat := (s.warrays.filter (fun a => holdsArray s ctx a.1 a.2)).map (·.1)

/-- Whether a resource is one that the scrub of a context covers. -/
def scrubCovers (s : State) (ctx : Nat) : Resource → Bool
  | .core c => (coresOf s ctx).contains c
  | .slot p => (slotsOf s ctx).contains p
  | .array a => (arraysOf s ctx).contains a
  | .frame f => (framesOf s ctx).contains f

/-- Whether a resource is retired already. -/
def isRetired (s : State) : Resource → Bool
  | .core c => (s.coreAt c).retired
  | .slot p => (s.chanAt p).retired
  | .array a => (mgetD s.warrays a .initial).failed
  | .frame f => s.dev.retiredFrames.contains f

/-- One resource retired (Table 26.5), which is not retired yet. -/
def State.retireOne (s : State) : Resource → State
  | .core c =>
    { s.setCoreAt c { s.coreAt c with retired := true } with dev := { s.dev with retiredCores := s.dev.retiredCores + 1 } }
  | .slot p =>
    { s.setChanAt p { s.chanAt p with retired := true } with dev := { s.dev with retiredSlots := s.dev.retiredSlots + 1 } }
  | .array a =>
    { s with
      warrays := mset s.warrays a { mgetD s.warrays a .initial with failed := true }
      dev := { s.dev with retiredArrays := s.dev.retiredArrays + 1 } }
  | .frame f => { s with dev := { s.dev with retiredFrames := s.dev.retiredFrames ++ [f] } }

/-- Local stores zeroed, and held by nobody (R76, R276, R367). -/
def emptyStores (k : Core) : Core :=
  { k with
    holder := none, tenant := none, request := 0, scratch := [], tags := [], acc := [], tflags := [], wbuf := [], keep := 0,
    dealExpert := 0, dealRound := 0, dealRunning := false, dealSlot := 0 }

/-- A core with everything of a context gone (Table 22.8), its harts and gangs having left `s` already: the lane groups that
nobody holds any more, the local stores and saved images of gangs that are no more, and the register file when the context
owned it. -/
def scrubCore (s : State) (ctx c : Nat) : Core :=
  let k := s.coreAt c
  let live := fun (slot : Nat) => (s.hartAt (8 * c + slot)).live != .free
  let here := fun (g : Nat) => (mget? s.gangs g).isSome
  let k := { k with
    lanes := k.lanes.map (fun l => match l with | some x => if live x then l else none | none => none)
    laneWait := k.laneWait.filter (fun w => live w.1)
    saved := k.saved.filter (fun i => here i.gang)
    serves := if k.serves = some ctx then none else k.serves
    clean := k.clean || (k.owned && k.owner.toNat == ctx) }
  match k.holder with
  | none => if k.tenant = some ctx then emptyStores k else k
  | some g => if here g then k else emptyStores k

/-! ### A core that goes on with another context (R366, R367, R398) -/

/-- A stopped hart that goes on (R366); the cycles for which it was stopped do not count (R340). -/
def resumeHart (now : Nat) (h : Hart) : Hart :=
  { h with live := .running, sealed := none, stripOpened := now - h.stripOpened, readySince := readyAt now }

/-- The harts of a context on a core. -/
def onCore (c ctx k : Nat) (h : Hart) : Bool := k / 8 == c && h.ctx == ctx && !h.steward && h.live != .free

/-- A stopped hart of a context on a core, saved under the context's key (R375). -/
def resumable (c ctx : Nat) (key : BitVec 256) (k : Nat) (h : Hart) : Bool :=
  onCore c ctx k h && h.live == .stopped && h.sealed == some key

/-- A saved image put back, with the gang's local stores (R367). -/
def putBack (k : Core) (ctx : Nat) (i : LocalImage) : Core :=
  { k with
    holder := some i.gang, tenant := some ctx, request := i.request, scratch := i.scratch, tags := i.tags, acc := i.acc,
    tflags := i.tflags, wbuf := i.wbuf, keep := i.keep, dealExpert := i.dealExpert, dealRound := i.dealRound,
    dealRunning := i.dealRunning, dealSlot := i.dealSlot, saved := k.saved.filter (fun x => x.gang != i.gang) }

/-- Steps 3 to 5 of R366: the core serves a context, whose stopped harts go on once their gang's local stores are back; one
that waits for lanes joins the waiting harts.  What was saved comes back under the context's key alone (R375).  The harts of a
context that is being killed or released, or that is in Error, and those on a core that has been retired stay stopped, and the core is idle (R379, R400, R427,
R434). -/
def serveContext (s : State) (c ctx : Nat) : State :=
  let x := s.ctxAt ctx
  if x.state != .run || !x.pending.isEmpty || (s.coreAt c).retired then s.setCoreAt c { s.coreAt c with serves := none, moving := none }
  else
  let k := { s.coreAt c with serves := some ctx, moving := none }
  let back := k.saved.find? (fun i => i.key == x.key && (match mget? s.gangs i.gang with | some g => g.ctx == ctx | none => false))
  let k := match back with | some i => putBack k ctx i | none => k
  let harts := s.allHarts.filter (fun h => resumable c ctx x.key h.1 h.2)
  let k := harts.foldl (fun k h => if h.2.wait == some .lanesClaim then joinLaneWait k (h.1 % 8) s.gtime else k) k
  let s := s.setCoreAt c k
  s.mapHarts (fun j h => if resumable c ctx x.key j h then resumeHart s.gtime h else h)

/-- A core goes on with the context that it is being moved to, once no local stores are left to save. -/
def moveOn (s : State) (c : Nat) : State :=
  match (s.coreAt c).moving, (s.coreAt c).holder with
  | some q, none => serveContext s c q
  | _, _ => s

/-! ### The scrub of a context -/

/-- A range of memory zeroed, with its residues rewritten. -/
def State.zeroRange (s : State) (base n : Nat) : State :=
  { s with
    mem := memZero s.mem base n
    badUnits := s.badUnits.filter (fun u => decide (2 * u.1 + 1 < base) || decide (base + n ≤ 2 * u.1)) }

def scrubFrame (s : State) (f : Nat) : State := s.zeroRange (f * Config.frameBytes) Config.frameBytes

/-- What is left of a range of some bytes without another: up to two ranges. -/
def cutRange (b m : Nat) (r : Nat × Nat) : List (Nat × Nat) :=
  (if r.1 < b then [(r.1, min r.2 (b - r.1))] else [])
    ++ (if b + m < r.1 + r.2 then [(max r.1 (b + m), r.1 + r.2 - max r.1 (b + m))] else [])

/-- The images of a context's harts, as far as they lie in steward memory, erased (Table 22.8); the audit region, which only the
audit unit writes, holds none (R380). -/
def eraseImages (s : State) (ctx : Nat) : State :=
  (((s.ctxAt ctx).images.flatMap stewardPart).flatMap (cutRange Config.auditBase Config.auditBytes)).foldl
    (fun s r => s.zeroRange r.1 r.2) s
where
  /-- The part of a range that lies in the steward's frames. -/
  stewardPart (r : Nat × Nat) : List (Nat × Nat) :=
    (cutRange 0 (Config.stewardFrame * Config.frameBytes) r).flatMap (cutRange Config.deviceBytes (2 ^ 64))

def scrubSlot (s : State) (p : Nat) : State :=
  let c := s.chanAt p
  s.setChanAt p { Chan.initial with dedicated := c.dedicated, retired := c.retired }

/-- The scrub of every item of Table 22.8 for a context, with the resources of `bad` that do not read back retired, unless they
are retired already (R434), and its SCRUB record. -/
def scrubContext (s : State) (ctx : Nat) (bad : List Nat) : State :=
  let gone := (bad.eraseDups.map Resource.of).filter (fun r => scrubCovers s ctx r && !isRetired s r)
  let cores := coresOf s ctx
  let gangs := mkeys (s.gangs.filter (fun g => g.2.ctx = ctx))
  let asid := (s.ctxAt ctx).asid
  let s := (framesOf s ctx).foldl scrubFrame s
  let s := (slotsOf s ctx).foldl scrubSlot s
  let s := eraseImages s ctx
  let mine := fun (h : Hart) => h.ctx = ctx && h.live ≠ .free && !h.steward
  let s := { s with
    hart := if mine s.hart then .initial else s.hart
    harts := s.harts.filter (fun h => !mine h.2)
    gangs := s.gangs.filter (fun g => g.2.ctx ≠ ctx)
    transfers := s.transfers.filter (fun t => !gangs.contains t.gang)
    tlb := s.tlb.filter (fun e => e.asid ≠ asid)
    leaders := s.leaders.filter (fun l => l.ctx ≠ ctx)
    cmds := s.cmds.filter (fun c => c.2.ctx ≠ ctx)
    warrays := mmap (fun k a =>
      { a with calibrated := if holdsArray s ctx k a then s.gtime else a.calibrated, held := a.held.filter (· ≠ ctx) }) s.warrays }
  let s := gone.foldl State.retireOne s
  let s := cores.foldl (fun s c => moveOn (s.setCoreAt c (scrubCore s ctx c)) c) s
  let c := s.ctxAt ctx
  let s := s.setCtxAt ctx { c with
    queues := [], handles := [], images := [], dove := { entries := [], next := 1, quota := c.dove.quota }, rootLive := false }
  s.audit auditScrub ctx gone.length

/-- Whether started work of a context is still under way (R379): engine commands, and bank handlers through their commands. -/
def workLeft (s : State) (ctx : Nat) : Bool := s.cmds.any (fun c => c.2.ctx = ctx)

/-- Entry to Error (R427, steps 4 and 5); only a context in Locked or Run enters it. -/
def enterError (s : State) (ctx : Nat) : State :=
  let st := (s.ctxAt ctx).state
  let s := if st = .locked ∨ st = .run then s.setCtxState ctx .error else s
  s.setCtxAt ctx { s.ctxAt ctx with pending := (s.ctxAt ctx).pending.tail.filter (· ≠ .error) }

/-- DATA of a KILL record (Table 23.5). -/
def killData (cause reason pc value : Nat) (gid member : Nat) : Nat :=
  cause + 2 ^ 8 * reason + 2 ^ 16 * pc + 2 ^ 80 * value + 2 ^ 144 * gid + 2 ^ 176 * member

/-- STW CTXKILL's wait for a context ends. -/
def State.killEnds (s : State) (ctx : Nat) : State :=
  s.mapHarts (fun _ h => if h.wait = some (.kill ctx) then { h with wait := none } else h)

/-- The end of a kill (R400 steps 3 and 4, R427): scrub, SCRUB and KILL records, Error; STW CTXKILL's wait ends. -/
def finishKill (s : State) (ctx : Nat) (bad : List Nat) (data : Nat) : State :=
  let s := scrubContext s ctx bad
  let s := s.audit auditKill ctx data
  (enterError s ctx).killEnds ctx

/-- Bytes of an error queue (R409). -/
def errorQueueBytes : Nat := 16384

/-- The end of a release (R379 steps 4 to 6): scrub, SCRUB record, the error queue erased (R409), and the context is Free with
nothing granted; a kill that was asked for meanwhile finds nothing left. -/
def finishRelease (s : State) (ctx : Nat) (bad : List Nat) : State :=
  let slots := slotsOf s ctx
  let s := scrubContext s ctx bad
  let s := slots.foldl (fun s p => s.setChanAt p { s.chanAt p with dedicated := none }) s
  let s := { s with warrays := mmap (fun _ a => if a.owner = some ctx then { a with owner := none } else a) s.warrays }
  let s := s.zeroRange (s.ctxAt ctx).errBase errorQueueBytes
  let s := (s.setCtxState ctx .free).killEnds ctx
  s.setCtxAt ctx { Ctx.initial with status := (s.ctxAt ctx).status, lastHseq := (s.ctxAt ctx).lastHseq,
                                    lastDseq := (s.ctxAt ctx).lastDseq }

end Machine
end Sys2Proof
end

