-- ==== Sys2Proof/Machine/Engine.lean ====
section
/-! DEFINITION. What every engine command shares: its checks at issue (R263), its ticket (R261), the accesses that it makes
after issue (R315 to R319), and how it ends (R412, R413). -/

namespace Sys2Proof
namespace Machine

/-! ### At issue (R263) -/

/-- A range of S-space, in the order of R181 for one element. -/
def spRange (s : State) (write : Bool) (a : XWord) (n align : Nat) : Eff Unit :=
  if xbits a 21 43 ≠ 0 then protFault a true write
  else if !alignedTo a align then .error (.trap { code := cALIGN, tv := a, sspace := true, write := write })
  else if !s.holds then protFault a true write
  else if s.core.request < a.toNat + n then protFault (xword (max a.toNat s.core.request)) true write
  else .ok ()

/-- A pitched range of S-space from `a` on: bits above 20, then both alignments that the command requires, of `a` and of the
second row at `b`, then the holding gang and its request over n bytes (R263 step 4, R181). -/
def spPitched (s : State) (write : Bool) (a : XWord) (align : Nat) (b : XWord) (w n : Nat) : Eff Unit :=
  if xbits a 21 43 ≠ 0 then protFault a true write
  else if !alignedTo a align then .error (.trap { code := cALIGN, tv := a, sspace := true, write := write })
  else if !alignedTo b w then .error (.trap { code := cALIGN, tv := b, sspace := true, write := write })
  else spRange s write a n 1

/-- Canonical form and alignment of the first byte of a range of memory, which come before every walk (R129). -/
def memForm (s : State) (write : Bool) (va : XWord) (align : Nat) : Eff Unit :=
  if !s.hart.steward && !canonical va then .error (.trap { code := cXLAT, tv := va, write := write })
  else if !alignedTo va align then .error (.trap { code := cALIGN, tv := va, write := write })
  else .ok ()

/-- The first byte of a pitched range of memory, and the alignment of its second row, which the command requires too (R263 step
5). -/
def memPitched (s : State) (write : Bool) (va : XWord) (align : Nat) (second : XWord) : Eff Unit := do
  memForm s write va align
  if !alignedTo second align then .error (.trap { code := cALIGN, tv := second, write := write }) else .ok ()

/-- A range of memory: its first and last byte as a load or a store. -/
def memRange (s : State) (acc : Access) (va : XWord) (n align : Nat) : Eff State := do
  let (_, s) ← located s acc va align 0
  let (_, s) ← located s acc (va + xword (n - 1)) 1 0
  return s

/-- PROT at an instruction that needs the local stores (R77, R264): no access of S-space is at fault, and the manual states no
address; `write` says that the instruction writes the stores that it needs (Table 23.2, log entry 33). -/
def needsStores (s : State) (write : Bool) : Eff Unit :=
  if s.holds then .ok () else protFault (Config.free s.free) false write

/-- PROT past the end of the weight buffer (R88). -/
def wbufRange (write : Bool) (off n : Nat) : Eff Unit :=
  if Config.wbufBytes < off + n then protFault (xword Config.wbufBytes) false write else .ok ()

/-- A descriptor read from memory (R263 step 2). -/
def readDesc (s : State) (va : XWord) (n align : Nat) : Eff (Nat × State) := do
  let (bs, s) ← loadBytes s .read va n align 0
  return (leNat bs, s)

/-- The 128-byte memory lines that a range of virtual addresses covers: those that translate, by number, and the addresses of the
others (R316).  DESIGN CHOICE (log entry 44): the translation at the command's issue decides which lines it owns, also where a table
entry changes before it completes. -/
def linesOf (s : State) (va : XWord) (n : Nat) : List Nat × List XWord :=
  if n = 0 then ([], [])
  else
    let a := va.toNat
    (span (a / 128) ((a + n - 1) / 128 + 1 - a / 128)).foldr (fun l r =>
      match located s .write (xword (128 * l)) 1 0 with
      | .ok (pa, _) => (pa / 128 :: r.1, r.2)
      | .error _ => (r.1, xword (128 * l) :: r.2)) ([], [])

/-- A ticketed command (R261): with 64 tickets outstanding it issues nothing and writes 0. -/
def ticketed (s : State) (d : BitVec 5) (op maj : Nat) (kind : CmdKind) (lines : List Nat × List XWord) (after : State → Nat → State) :
    State :=
  if Config.maxTickets ≤ s.hart.tickets.length then s.setX d 0
  else
    let n := s.nextCmd
    after (s.issue { hart := s.cur, core := s.coreId, ctx := s.hart.ctx, gang := s.hart.gang, op := op, maj := maj,
                     kind := kind, lines := lines.1, late := lines.2 } d) n

/-! ### After issue -/

/-- Why an engine's access does not take place: the command fails, with what its reads have left, or it has to wait. -/
inductive EngStop where
  | fail (code : Nat) (s : State)
  | hold (w : Wait)
deriving DecidableEq, Repr

abbrev Eng := Except EngStop

/-- The state as an agent that works for hart k sees it, and back. -/
def State.forHart (s : State) (k : Nat) (f : State → State) : State := (f (s.focus k)).focus s.cur

/-- The place of a command in the order of starts (R315, R317): a matrix instruction's starts at its point, after every command that has
started so far. -/
def startOrder (s : State) (cmd : Nat) : Nat :=
  match mget? s.cmds cmd with
  | some c => (match c.kind with | .mload => s.nextCmd | .mdrain => s.nextCmd | _ => cmd)
  | none => cmd

/-- Whether an address is that of a peer window whose port has failed, or of host memory behind a host link that has (R425, R426,
Table 25.5). -/
def unreachable (s : State) (pa : Nat) : Bool :=
  if Config.peerBase ≤ pa then s.dev.pfail.getLsbD ((pa - Config.peerBase) / 2 ^ 46)
  else decide (Config.hostBase ≤ pa) && s.dev.hostFailed

/-- The physical address of an engine's access for command `cmd` (R412, R424 to R426): 0x10 and 0x12 for a source, one more for a
destination.  A write waits for a line that an earlier command owns; a read does not (R317).  A command that waits for a
pseudo-channel goes on when its turn there comes, and an access that comes to one lets those that wait go first (R290). -/
def engAddr (s : State) (cmd : Nat) (acc : Access) (va : XWord) : Eng (Nat × State) :=
  let side := if acc = .read then 0 else 1
  let turn := match (mget? s.cmds cmd).bind (·.since) with
    | some (p, t) => if engineTurnOf s cmd p t then none else some (Wait.bankMode p t)
    | none => none
  match turn with
  | some w => .error (.hold w)
  | none =>
    match locatedBy 1 s acc va 1 0 with
    | .error (.trap t) =>
      .error (.fail ((if t.code = cPROT then 0x12 else 0x10) + side)
        { s.foundBad 1 s.hart.gang (t.found.filter (fun u => !s.finds.contains u)) with free := max s.free t.drawn })
    | .error (.wait w) => .error (.hold w)
    | .ok (pa, s) =>
      if unreachable s pa then .error (.fail 0x18 s)
      else match ((linkWait s pa).or (bankWait s pa)).or (engineWait s cmd pa) with
        | some w => .error (.hold w)
        | none =>
          if acc ≠ .read ∧ s.cmds.any (fun c => decide (c.1 < startOrder s cmd) && c.2.ownsLine s (pa / 128)) then .error (.hold .line)
          else .ok (pa, s)

/-- Bytes that an engine reads at the home, which lie in one 4 KiB page, with the offsets of those in bad units; a mismatch is
recorded (R406, R407). -/
def engRead (s : State) (cmd : Nat) (va : XWord) (n : Nat) : Eng (List Byte × List Nat × State) := do
  let (pa, s) ← engAddr s cmd .read va
  let bad := (span 0 n).filter (fun i => badByte s (pa + i))
  let s := s.foundBad 1 s.hart.gang (bad.map (fun i => ((pa + i) / 2, va + xword i)))
  return (memReadN s.mem pa n, bad, s)

/-- A read whose destination is outside memory: bad bytes end the command with SPOISON (R407). -/
def engReadGood (s : State) (cmd : Nat) (va : XWord) (n : Nat) : Eng (List Byte × State) := do
  let (bs, bad, s) ← engRead s cmd va n
  if bad.isEmpty then return (bs, s) else .error (.fail 0x14 s)

/-- Bytes that an engine writes at the home; the units that would take a byte of a poisoned one are poisoned (R407). -/
def State.engWrite (s : State) (va : XWord) (pa : Nat) (data : List Byte) (bad : List Nat) : State :=
  if discards s pa then s
  else
  let s := s.homeWrite 1 s.hart.gang va pa data
  bad.foldl (fun s i => { s with badUnits := mset s.badUnits ((pa + i) / 2) 3 }) s

/-- One unit of work of a command: where it goes, its bytes, those of them that are bad, and the count of units or bytes that
are complete with it. -/
structure Item where
  sp : Bool
  va : XWord
  pa : Nat
  data : List Byte
  bad : List Nat
  done : Nat
deriving DecidableEq, Repr

/-- The work of a command gathered unit by unit, up to the first that fails: its code and its number.  A unit that has to wait
holds the whole command. -/
def gather {α : Type} (f : State → α → Eng (Item × State)) (at_ : α → Nat) :
    State → List α → Eng (List Item × Option (Nat × Nat) × State)
  | s, [] => .ok ([], none, s)
  | s, c :: cs =>
    match f s c with
    | .error (.hold w) => .error (.hold w)
    | .error (.fail code t) => .ok ([], some (code, at_ c), t)
    | .ok (it, s) =>
      match gather f at_ s cs with
      | .error e => .error e
      | .ok (is, e, s) => .ok (it :: is, e, s)

/-- Every write of a command performed. -/
def State.performItems (s : State) (core : Nat) (is : List Item) : State :=
  is.foldl (fun s i => if i.sp then s.spWrite core i.pa i.data else s.engWrite i.va i.pa i.data i.bad) s

/-- An event of the device that needs something it does not find. -/
def notEnabled (name : String) : Result := .fault (.notEnabled name)

/-- An event that goes ahead where its condition holds and the machine can do it. -/
def eventStep (name : String) (r : Option State) : Result :=
  match r with
  | some s => .next s
  | none => notEnabled name

/-- What an engine comes to when it is to carry out its command: the state after it, a wait of one of its accesses, or nothing to do. -/
abbrev Point := Except (Option Wait) State

/-- The pseudo-channel for which a command's access waits, and since when: the time at which it first came there (R290). -/
def Cmd.arrives (c : Cmd) (w : Wait) : Option (Nat × Nat) :=
  match w with
  | .bankMode p t => (match c.since with
    | some (q, u) => some (p, if q = p then u else t)
    | none => some (p, t))
  | _ => none

/-- An engine's event.  Where an access of the command comes to a pseudo-channel that does not serve it yet, it waits there from now on,
and any other wait ends that one; nothing else happens (R290). -/
def pointStep (name : String) (s : State) (cmd : Option Nat) (r : Point) : Result :=
  match r with
  | .ok t => .next t
  | .error none => notEnabled name
  | .error (some w) =>
    match cmd.bind (fun n => (mget? s.cmds n).map (fun c => (n, c))) with
    | some (n, c) =>
      if c.arrives w = c.since then notEnabled name else .next { s with cmds := mset s.cmds n { c with since := c.arrives w } }
    | none => notEnabled name

/-- The point of a command whose accesses may have to wait. -/
def Eng.point {α : Type} (r : Eng α) (f : α → Point) (failed : Nat → State → Point) : Point :=
  match r with
  | .ok a => f a
  | .error (.fail code s) => failed code s
  | .error (.hold w) => .error (some w)

end Machine
end Sys2Proof
end

