-- ==== Sys2Proof/Machine/Arrays.lean ====
section
/-! DEFINITION. Major 0x1B, the weight arrays, and the events of the truss (R280 to R283, R303 to R314, R418, R419, R74). -/

namespace Sys2Proof
namespace Machine

/-! ### Handles and versions -/

/-- A handle in x[xa]: bits 11:0, not 0, the rest 0. -/
def handleOf (s : State) (a : BitVec 5) : Eff Nat :=
  let v := (s.x a).toNat
  if v = 0 ∨ 4096 ≤ v then illegal s else .ok v

def State.handleAt (s : State) (ctx h : Nat) : Option Handle := mget? (s.ctxAt ctx).handles h

def State.setHandle (s : State) (ctx h : Nat) (x : Handle) : State :=
  let c := s.ctxAt ctx
  s.setCtxAt ctx { c with handles := mset c.handles h x }

/-- Tiles of 1,024 along one side (R303). -/
def tilesAlong (n : Nat) : Nat := (n + 1023) / 1024

def Handle.tiles (h : Handle) : Nat := tilesAlong h.kin * tilesAlong h.n

/-- The version of a number, current or still fixed by a CMV (R311). -/
def Handle.version (h : Handle) (num : Nat) : Option Version :=
  match h.cur with
  | some v => if v.num = num then some v else h.old.find? (fun o => o.num = num)
  | none => h.old.find? (fun o => o.num = num)

/-- A version changed wherever the handle holds it. -/
def Handle.mapVersion (h : Handle) (num : Nat) (f : Version → Version) : Handle :=
  { h with
    cur := h.cur.map (fun v => if v.num = num then f v else v)
    old := h.old.map (fun v => if v.num = num then f v else v) }

/-- The arrays that the versions of a handle hold, with the spare of its rotation. -/
def Handle.arrays (h : Handle) : List Nat :=
  ((h.cur.toList ++ h.pending.toList ++ h.old).flatMap (fun v => v.arrays)) ++ (h.rotating.toList.map (·.2))

/-- Arrays granted to a context that have not failed and that no version holds (R304). -/
def freeArrays (s : State) (ctx : Nat) : List Nat :=
  let used := (mvals (s.ctxAt ctx).handles).flatMap Handle.arrays
  (s.warrays.filter (fun a => a.2.owner == some ctx && !a.2.failed && !used.contains a.1)).map (·.1)

/-- DESIGN CHOICE (log entry 61): array a stands on weight die a / 4,352; Table 1.1 gives the count of a die's arrays alone. -/
def dieOfArray (a : Nat) : Nat := a / Config.arraysPerDie

/-- A spare of a weight die: the die keeps 4,096 arrays in service, and what it has beyond them and beyond its rotations is
spare (Table 1.1, R310, R419). -/
def spareOf (s : State) (die : Nat) : Option Nat :=
  let all := span (die * Config.arraysPerDie) Config.arraysPerDie
  let rotating := (rotationSpares s).filter (fun a => dieOfArray a = die)
  let good := all.filter (fun a => !(mgetD s.warrays a .initial).failed)
  if Config.arraysInService / 4 + rotating.length < good.length then
    good.find? (fun a => (mgetD s.warrays a .initial).owner.isNone && !rotating.contains a)
  else none

def State.setArray (s : State) (a : Nat) (w : WArray) : State := { s with warrays := mset s.warrays a w }

/-! ### CWRITE (R280, R303, R304) -/

def cwAddr (d : BitVec 256) : XWord := xword (bitsAt d.toNat 0 64)
def cwKin (d : BitVec 256) : Nat := bitsAt d.toNat 64 32
def cwN (d : BitVec 256) : Nat := bitsAt d.toNat 96 32
def cwScales (d : BitVec 256) : XWord := xword (bitsAt d.toNat 128 64)
def cwPitch (d : BitVec 256) : Nat := bitsAt d.toNat 192 32

/-- Contents that are illegal (Table 14.10). -/
def cwBad (d : BitVec 256) : Bool :=
  bitsAt d.toNat 224 32 != 0 || cwKin d == 0 || decide (65536 < cwKin d) || cwN d == 0 || decide (65536 < cwN d)
    || decide (cwPitch d < cwN d)

/-- CWRITE (R280, R263). -/
def execCwrite (d a b : BitVec 5) (s : State) : Result :=
  irreversible (fun s => do
    let h ← handleOf s a
    let (v, s) ← readDesc s (s.x b) 32 32
    let q := BitVec.ofNat 256 v
    keepFinds s (illegalWhen s (cwBad q))
    let s ← memRange s .read (cwAddr q) ((cwKin q - 1) * cwPitch q + cwN q) 1
    let s ← (if cwScales q = 0 then pure s else memRange s .read (cwScales q) (4 * cwN q) 4)
    return ticketed s d 1 2 (.cwrite h q) ([], []) (fun t _ => t)) s

/-- Bytes of memory read by an engine for a destination outside memory, page by page. -/
def readRange (s : State) (cmd : Nat) (va n : Nat) : Nat → Eng (List Byte × State)
  | 0 => .ok ([], s)
  | fuel + 1 =>
    if n = 0 then .ok ([], s)
    else
      let k := min n (4096 - va % 4096)
      match engReadGood s cmd (xword va) k with
      | .error e => .error e
      | .ok (bs, s) =>
        match readRange s cmd (va + k) (n - k) fuel with
        | .error e => .error e
        | .ok (rest, s) => .ok (bs ++ rest, s)

/-- The rows of the weights, one after another. -/
def readRows (s : State) (cmd : Nat) (d : BitVec 256) : List Nat → Eng (List Byte × State)
  | [] => .ok ([], s)
  | i :: is =>
    match readRange s cmd ((cwAddr d).toNat + i * cwPitch d) (cwN d) (cwN d) with
    | .error e => .error e
    | .ok (bs, s) =>
      match readRows s cmd d is with
      | .error e => .error e
      | .ok (rest, s) => .ok (bs ++ rest, s)

/-- The 32-bit words of a list of bytes. -/
def words32 : List Byte → List (BitVec 32)
  | a :: b :: c :: d :: rest => BitVec.ofNat 32 (leNat [a, b, c, d]) :: words32 rest
  | _ => []

/-- What CWRITE reads: the weights and the scales. -/
def readMatrix (s : State) (cmd : Nat) (d : BitVec 256) : Eng (List Byte × Option (List (BitVec 32)) × State) := do
  let (w, s) ← readRows s cmd d (span 0 (cwKin d))
  if cwScales d = 0 then return (w, none, s)
  else
    let (q, s) ← readRange s cmd (cwScales d).toNat (4 * cwN d) (4 * cwN d)
    return (w, some (words32 q), s)

/-- n members of a list that free values from a number on choose (R304: the device chooses, and weighs the dies near the gangs
that name the handle). -/
def chooseArrays : Nat → Nat → List Nat → List Nat
  | 0, _, _ => []
  | n + 1, k, l =>
    match l[(Config.free k).toNat % l.length]? with
    | none => []
    | some a => a :: chooseArrays n (k + 1) (l.erase a)

/-- An array of a granted version that fails is retired; a spare of its die takes its place, or else the context is granted a
spare of another die while one remains (R419).  The answer is the spare of its die. -/
def replaceArray (s : State) (ctx a : Nat) : Option Nat × State :=
  let w := mgetD s.warrays a .initial
  let s := (s.setArray a { w with owner := none }).retireOne (.array a)
  let grant := fun (b : Nat) => s.setArray b
    { owner := w.owner, failed := false, calibrated := s.gtime, held := ctx :: (mgetD s.warrays b .initial).held.erase ctx }
  match spareOf s (dieOfArray a) with
  | some b => (some b, grant b)
  | none =>
    match (span 0 4).findSome? (spareOf s) with
    | some b => (none, grant b)
    | none => (none, s)

/-- The arrays of a new version, each written and calibrated.  Whether one fails in that is a free choice, as far as the free
values from number k on go (Table 25.5); a spare of its die takes its tile, or the write ends with the tile's index. -/
def writeArrays (ctx : Nat) : State → Nat → List Nat → State × Except Nat (List Nat)
  | s, _, [] => (s, .ok [])
  | s, tile, a :: as =>
    let fails := Config.happens s.free
    let s := s.draw
    let put := fun (s : State) (a : Nat) =>
      s.setArray a { mgetD s.warrays a .initial with
        calibrated := s.gtime, held := ctx :: (mgetD s.warrays a .initial).held.erase ctx }
    let step := fun (s : State) (a : Nat) =>
      match writeArrays ctx (put s a) (tile + 1) as with
      | (s, .ok l) => (s, .ok (a :: l))
      | (s, .error e) => (s, .error e)
    if fails then
      match replaceArray s ctx a with
      | (some b, s) => step s b
      | (none, s) => (s, .error tile)
    else step s a

/-- The end of CWRITE, for the focused hart (R280, R304, R419, Table 25.6).  The first CWRITE that writes a version fixes the
handle's dimensions. -/
def cwritePoint (s : State) (cmd ctx h : Nat) (d : BitVec 256) : Point :=
  let hd := (s.handleAt ctx h).getD
    { kin := cwKin d, n := cwN d, cur := none, pending := none, old := [], commits := 0, rotating := none }
  if hd.kin ≠ cwKin d ∨ hd.n ≠ cwN d then .ok (s.finishCmd cmd 4 0 0)
  else
    let free := freeArrays s ctx
    if free.length < hd.tiles then .ok (s.finishCmd cmd 0x20 0 (hd.tiles - free.length))
    else
      (readMatrix s cmd d).point (fun (w, q, s) =>
        let chosen := chooseArrays hd.tiles s.free free
        match writeArrays ctx { s with free := s.free + hd.tiles } 0 chosen with
        | (s, .error tile) => .ok (s.finishCmd cmd 0x21 0 tile)
        | (s, .ok arrays) =>
          let v : Version :=
            { num := 0, weights := w.toArray, scales := q.map List.toArray, arrays := arrays, degraded := false }
          .ok ((s.setHandle ctx h { hd with pending := some v }).finishCmd cmd 0 0 0))
        (fun code t => .ok (t.finishCmd cmd code 0 0))

/-- Whether an older CWRITE of the handle is under way: they complete in the order in which they reached the device (R280,
R312). -/
def olderCwrite (s : State) (cmd ctx h : Nat) : Bool :=
  s.cmds.any (fun o => decide (o.1 < cmd) && o.2.ctx == ctx && (match o.2.kind with | .cwrite g _ => g == h | _ => false))

/-- CWRITE_COMPLETE (R280). -/
def execCwriteComplete (cmd : Nat) (s : State) : Result :=
  pointStep "CWRITE_COMPLETE" s (some cmd) (match mget? s.cmds cmd with
    | some c => (match c.kind with
      | .cwrite h d =>
        if olderCwrite s cmd c.ctx h then .error none
        else (cwritePoint (s.focus c.hart) cmd c.ctx h d).map (fun t => t.focus s.cur)
      | _ => .error none)
    | none => .error none)

/-! ### CCOMMIT (R281, R311, R312) -/

/-- CCOMMIT (R281). -/
def execCcommit (d a : BitVec 5) (s : State) : Result :=
  irreversible (fun s => do
    let h ← handleOf s a
    return ticketed s d 2 2 (.ccommit h) ([], []) (fun t _ => t)) s

/-- Whether a CMV under way is fixed to a version (R304). -/
def versionInUse (s : State) (ctx h num : Nat) : Bool :=
  s.cmds.any (fun c => c.2.ctx == ctx && (match c.2.kind with
    | .cmv j => j.handle == h && j.version == num
    | _ => false))

/-- Old versions that no CMV is fixed to any more return their arrays to the grant. -/
def State.dropOld (s : State) (ctx h : Nat) : State :=
  match s.handleAt ctx h with
  | none => s
  | some x => s.setHandle ctx h { x with old := x.old.filter (fun v => versionInUse s ctx h v.num) }

/-- Every CCAL of a handle under way ended with a code. -/
def State.finishCals (s : State) (ctx h code detail : Nat) : State :=
  (s.cmds.filter (fun c => c.2.ctx == ctx && (match c.2.kind with | .ccal k _ => k == h | _ => false))).foldl
    (fun s c => s.finishCmd c.1 code 0 detail) s

/-- The switch of a handle to its pending version, whose arrays are newly calibrated: every CCAL on the old one is done (R281,
R310, R312). -/
def switchPoint (s : State) (cmd ctx h : Nat) : State :=
  match s.handleAt ctx h with
  | none => s.finishCmd cmd 3 0 0
  | some x =>
    match x.pending with
    | none => s.finishCmd cmd 3 0 0
    | some p =>
      let x := { x with
        cur := some { p with num := x.commits + 1 }, pending := none, old := x.cur.toList ++ x.old,
        commits := x.commits + 1, rotating := none }
      ((((s.setHandle ctx h x).finishCmd cmd 0 0 0).finishCals ctx h 0 0).dropOld ctx h)

/-- VERSION_SWITCH: a CCOMMIT takes effect (R311). -/
def execVersionSwitch (cmd : Nat) (s : State) : Result :=
  eventStep "VERSION_SWITCH" (match mget? s.cmds cmd with
    | some c => (match c.kind with
      | .ccommit h => some (switchPoint s cmd c.ctx h)
      | _ => none)
    | none => none)

/-! ### CMV (R282, R305 to R308, R418, R419) -/

def cmvOut (c : XWord) : Nat := xbits c 0 21
def cmvStat (c : XWord) : Nat := xbits c 21 21
def cmvSplit (c : XWord) : Bool := c.getLsbD 62
def cmvFp (c : XWord) : Bool := c.getLsbD 63

/-- CMV (R282, R263, R308, R311): its input is read and its version fixed now. -/
def execCmv (d a b c : BitVec 5) (s : State) : Result :=
  irreversible (fun s => do
    let h ← handleOf s a
    let ctl := s.x c
    illegalWhen s (xbits ctl 42 20 != 0)
    let x := s.handleAt s.hart.ctx h
    let kin := match x with | some x => x.kin | none => 0
    let n := match x with | some x => x.n | none => 0
    spRange s false (s.x b) kin 64
    spRange s true (xword (cmvOut ctl)) (4 * n) 64
    spRange s true (xword (cmvStat ctl)) (8 + (n + 7) / 8) 64
    match x.bind (·.cur) with
    | none => return ticketed s d 0 2 (.ccommit h) ([], []) (fun t k => t.finishCmd k 3 0 0)
    | some v =>
      let job : CmvJob :=
        { handle := h, version := v.num, input := spBytes s (s.x b).toNat kin, out := cmvOut ctl, stat := cmvStat ctl,
          split := cmvSplit ctl, fp := cmvFp ctl, done := [], retries := 0, sat := 0, satBits := 0, discards := [] }
      return ticketed s d 0 2 (.cmv job) ([], []) (fun t _ => t)) s

/-- The signed value of a byte. -/
def signed8 (b : Byte) : Int := b.toInt

/-- The error of a conversion code (R74): −1, 0 or 1, a free choice. -/
def codeError (n : Nat) : Int :=
  match (Config.convErr n).toNat with
  | 1 => 1
  | 2 => -1
  | _ => 0

/-- A code clamped to its range, and whether it is saturated (R305). -/
def codeOf (v : Int) : Int × Bool :=
  if v ≤ -4096 then (-4096, true) else if 4095 ≤ v then (4095, true) else (v, false)

/-- c(b) of R74. -/
def phaseWeight (b : Nat) : Int := if b < 7 then (2 ^ b : Nat) else -128

/-- One conversion window over some rows of one column: its sum over the 8 phases, and whether a code is saturated.  `base`
numbers the free choices of its codes. -/
def windowSum (weight : Nat → Int) (input : Nat → Byte) (rows : List Nat) (base : Nat) : Int × Bool :=
  (span 0 8).foldl (fun acc b =>
    let ideal := rows.foldl (fun t i => if (input i).getLsbD b then t + weight i else t) (0 : Int)
    let (d, sat) := codeOf (ideal + codeError (base + b))
    (acc.1 + phaseWeight b * d, acc.2 || sat)) (0, false)

/-- One column of a tile: its sum, whether it is saturated, and its split retries (R306, R307). -/
def columnSum (weight : Nat → Int) (input : Nat → Byte) (rows : Nat) (split : Bool) (base : Nat) : Int × Bool × Nat :=
  (span 0 ((rows + 255) / 256)).foldl (fun acc w =>
    let n := min 256 (rows - 256 * w)
    let at_ := base + 24 * w
    let (v, sat) := windowSum weight input (span (256 * w) n) at_
    if sat && split then
      let (v1, s1) := windowSum weight input (span (256 * w) (min 128 n)) (at_ + 8)
      let (v2, s2) := windowSum weight input (span (256 * w + 128) (n - 128)) (at_ + 16)
      (acc.1 + v1 + v2, acc.2.1 || s1 || s2, acc.2.2 + 1)
    else (acc.1 + v, acc.2.1 || sat, acc.2.2)) (0, false, 0)

/-- A kept pass of one tile: the sums of its columns, the saturated ones and the retries (R303, R306). -/
def tilePass (v : Version) (kin n : Nat) (job : CmvJob) (tile base : Nat) : Array Int × List Nat × Nat :=
  let t := tile / tilesAlong n
  let u := tile % tilesAlong n
  let rows := min 1024 (kin - 1024 * t)
  let input := job.input.toArray
  (span 0 (min 1024 (n - 1024 * u))).foldl (fun (acc : Array Int × List Nat × Nat) j =>
    let col := 1024 * u + j
    let weight := fun i => signed8 (v.weights.getD ((1024 * t + i) * n + col) 0)
    let (y, sat, k) := columnSum weight (fun i => input.getD (1024 * t + i) 0) rows job.split (base + 96 * j)
    (acc.1.push y, if sat then acc.2.1 ++ [col] else acc.2.1, acc.2.2 + k)) (#[], [], 0)

/-- The job after a kept pass of a tile. -/
def CmvJob.keep (job : CmvJob) (tile : Nat) (r : Array Int × List Nat × Nat) : CmvJob :=
  { job with
    done := mset job.done tile r.1
    retries := job.retries + r.2.2
    satBits := r.2.1.foldl addIndex job.satBits }

/-- An array that fails with a tile of a version (R419): a spare of its die takes the tile, or the version is degraded, every CCAL
on it ends, and an ARRAYFAIL record is made. -/
def failArray (s : State) (c : Cmd) (h num tile a : Nat) : State :=
  let (spare, s) := replaceArray s c.ctx a
  match s.handleAt c.ctx h with
  | none => s
  | some x =>
    match spare with
    | some b => s.setHandle c.ctx h (x.mapVersion num (fun v => { v with arrays := v.arrays.set tile b }))
    | none =>
      let s := s.setHandle c.ctx h (x.mapVersion num (fun v => { v with degraded := true }))
      let s := if x.cur.any (fun v => v.num == num) then s.finishCals c.ctx h 0x21 tile else s
      s.reportError (some c.ctx) 4 1 c.gang 0 0 h tile

/-- One pass of one tile of a CMV: kept when its plumb codes are good, else discarded; the third discard fails the array
(R418). -/
def passPoint (s : State) (cmd : Nat) (c : Cmd) (job : CmvJob) (tile : Nat) (ok : Bool) : Option State :=
  match s.handleAt c.ctx job.handle with
  | none => none
  | some h =>
    match h.version job.version with
    | none => none
    | some v =>
      if v.degraded || decide (h.tiles ≤ tile) || (mget? job.done tile).isSome then none
      else
        let put := fun (s : State) (j : CmvJob) => { s with cmds := mset s.cmds cmd { c with kind := .cmv j } }
        let a := v.arrays.getD tile 0
        if ok then
          let r := tilePass v h.kin h.n job tile s.free
          some (put { s with free := s.free + 96 * 1024 } (job.keep tile r))
        else
          let k := mgetD job.discards tile 0 + 1
          if k < 3 then
            let s := s.setArray a { mgetD s.warrays a .initial with calibrated := s.gtime }
            some (put s { job with discards := mset job.discards tile k })
          else some (failArray (put s { job with discards := mdel job.discards tile }) c job.handle job.version tile a)

/-- ARRAY_PASS (R418). -/
def execArrayPass (cmd tile : Nat) (plumbOk : Bool) (s : State) : Result :=
  eventStep "ARRAY_PASS" (match mget? s.cmds cmd with
    | some c => (match c.kind with
      | .cmv job => passPoint s cmd c job tile plumbOk
      | _ => none)
    | none => none)

/-- The result of column j (R306, R282): the sum over the tiles of its column, as INT32 or scaled to FP32. -/
def cmvResult (h : Handle) (v : Version) (job : CmvJob) (j : Nat) : Nat :=
  let nu := tilesAlong h.n
  let y := (span 0 (tilesAlong h.kin)).foldl (fun (t : Int) r =>
    t + (mgetD job.done (r * nu + j / 1024) #[]).getD (j % 1024) 0) 0
  if job.fp then
    let scale := match v.scales with
      | some q => fp32.val (q.getD j 0).toNat
      | none => .fin false 1 0
    (roundCore fp32 Rnd.rne ((Val.ofInt y).mul scale).1).1
  else (wrapBits 32 y).toNat

/-- The status word of a CMV (R282, R307). -/
def cmvStatus (retries sat version : Nat) : List Byte := leBytes 2 (min retries 0xFFFF) ++ leBytes 2 (min sat 0xFFFF) ++ leBytes 4 version

/-- The end of a CMV (R282, R308, R419, Table 25.6). -/
def cmvPoint (s : State) (cmd : Nat) (c : Cmd) (job : CmvJob) : Option State :=
  match s.handleAt c.ctx job.handle with
  | none => none
  | some h =>
    match h.version job.version with
    | none => none
    | some v =>
      let satBytes := leBytes ((h.n + 7) / 8)
      if v.degraded then
        let tile := (v.arrays.findIdx? (fun a => (mgetD s.warrays a .initial).failed)).getD 0
        let s := s.spWrite c.core job.stat (cmvStatus 0 0 job.version ++ satBytes 0)
        some ((s.finishCmd cmd 0x21 0 tile).dropOld c.ctx job.handle)
      else if job.done.length < h.tiles then none
      else
        let out := (span 0 h.n).flatMap (fun j => leBytes 4 (cmvResult h v job j))
        let s := s.spWrite c.core job.out out
        let s := s.spWrite c.core job.stat
          (cmvStatus job.retries (countBits job.satBits h.n) job.version ++ satBytes job.satBits)
        some ((s.finishCmd cmd 0 0 0).dropOld c.ctx job.handle)

/-- CMV_COMPLETE (R308). -/
def execCmvComplete (cmd : Nat) (s : State) : Result :=
  eventStep "CMV_COMPLETE" (match mget? s.cmds cmd with
    | some c => (match c.kind with
      | .cmv job => cmvPoint s cmd c job
      | _ => none)
    | none => none)

/-! ### CSTAT, CCAL and recalibration (R283, R309, R310) -/

/-- CSTAT (R283). -/
def execCstat (d a : BitVec 5) (s : State) : Result :=
  irreversible (fun s => do
    let h ← handleOf s a
    let w := match s.handleAt s.hart.ctx h with
      | none => 0
      | some x =>
        (match x.cur with | some v => v.num + 2 ^ 48 * v.arrays.length | none => 0)
          + (if x.pending.isSome then 2 ^ 32 else 0) + (if x.rotating.isSome then 2 ^ 33 else 0)
    return s.setX d (xword w)) s

/-- CCAL (R283, R310, R419). -/
def execCcal (d a : BitVec 5) (s : State) : Result :=
  irreversible (fun s => do
    let h ← handleOf s a
    match (s.handleAt s.hart.ctx h).bind (·.cur) with
    | none => return ticketed s d 4 2 (.ccal h []) ([], []) (fun t k => t.finishCmd k 3 0 0)
    | some v =>
      if v.degraded then
        let tile := (v.arrays.findIdx? (fun a => (mgetD s.warrays a .initial).failed)).getD 0
        return ticketed s d 4 2 (.ccal h []) ([], []) (fun t k => t.finishCmd k 0x21 0 tile)
      else return ticketed s d 4 2 (.ccal h (span 0 v.arrays.length)) ([], []) (fun t _ => t)) s

/-- Core cycles of 1 s at 1,250 MHz (Table 1.2, R309). -/
def calibrationCycles : Nat := 1250000000

/-- Whether 1 s has passed since an array was last calibrated (R309). -/
def calibrationDue (s : State) (a : Nat) : Bool :=
  let w := mgetD s.warrays a .initial
  !w.failed && decide (w.calibrated + calibrationCycles ≤ s.gtime)

/-- RECALIBRATION: a tile's rotation begins, its weights written into a spare of the die and the spare calibrated (R309,
R310).  DESIGN CHOICE (log entry 46): one tile of a handle rotates at a time, and none while its die has no spare. -/
def execRecalibration (ctx handle tile : Nat) (s : State) : Result :=
  eventStep "RECALIBRATION" (match s.handleAt ctx handle with
    | none => none
    | some h =>
      match h.cur with
      | none => none
      | some v =>
        match v.arrays[tile]? with
        | none => none
        | some a =>
          if h.rotating.isSome || v.degraded then none
          else match spareOf s (dieOfArray a) with
            | none => none
            | some b =>
              let w := mgetD s.warrays b .initial
              some ((s.setArray b { w with calibrated := s.gtime, held := ctx :: w.held.erase ctx }).setHandle ctx handle
                { h with rotating := some (tile, b) }))

/-- A tile of a handle recalibrated, for every CCAL that waits on it. -/
def State.calDone (s : State) (ctx handle tile : Nat) : State :=
  (mkeys s.cmds).foldl (fun s k =>
    match mget? s.cmds k with
    | none => s
    | some c =>
      match c.kind with
      | .ccal h left =>
        if c.ctx ≠ ctx ∨ h ≠ handle then s
        else
          let rest := left.filter (· ≠ tile)
          if rest.isEmpty then s.finishCmd k 0 0 0 else { s with cmds := mset s.cmds k { c with kind := .ccal h rest } }
      | _ => s) s

/-- ROTATION_SWITCH: the tile goes to its spare, and the old array, recalibrated, becomes a spare (R310). -/
def execRotationSwitch (ctx handle : Nat) (s : State) : Result :=
  eventStep "ROTATION_SWITCH" (match s.handleAt ctx handle with
    | none => none
    | some h =>
      match h.rotating, h.cur with
      | some (tile, b), some v =>
        let a := v.arrays.getD tile 0
        let s := s.setArray b { mgetD s.warrays b .initial with owner := some ctx, calibrated := s.gtime }
        let s := s.setArray a { mgetD s.warrays a .initial with owner := none, calibrated := s.gtime }
        some ((s.setHandle ctx handle
          { h with cur := some { v with arrays := v.arrays.set tile b }, rotating := none }).calDone ctx handle tile)
      | _, _ => none)

end Machine
end Sys2Proof
end

