-- ==== Sys2Proof/Machine/Banks.lean ====
section
/-! DEFINITION. Major 0x1C and what a pseudo-channel's sequencer does with its commands: installing a handler, starting one, its
end, mode switches, the bank units and the kitty (R284 to R302, R322, R323, R415 to R417, R73). -/

namespace Sys2Proof
namespace Machine

/-! ### Commands (R284 to R286, R289) -/

/-- The target byte of a bank command, checked as a store. -/
def bankTarget (s : State) (va : XWord) : Eff (Nat × State) := located s .write va 1 0

/-- Whether a physical address lies in a slot that is dedicated (R287). -/
def dedicatedAt (s : State) (pa : Nat) : Bool :=
  decide (pa < Config.deviceBytes) && (s.chanAt (pa / Config.slotBytes)).dedicated.isSome

/-- A bank command's ticket: in an interleaved slot it ends with INTERLEAVED and has no other effect (R289); else the command
joins the sequencer's queue. -/
def bankCommand (s : State) (d : BitVec 5) (op pa : Nat) (kind : CmdKind) : State :=
  ticketed s d op 3 kind ([], []) (fun t n =>
    if dedicatedAt t pa then
      let p := pa / Config.slotBytes
      t.setChanAt p { t.chanAt p with queue := (t.chanAt p).queue ++ [n] }
    else t.finishCmd n 0x30 0 0)

/-- BMSG (R285). -/
def execBmsg (d a b c : BitVec 5) (s : State) : Result :=
  irreversible (fun s => do
    let ctl := s.x c
    let reply := xbits ctl 0 21
    let count := xbits ctl 21 6
    illegalWhen s (xbits ctl 27 37 != 0 || count == 0)
    spRange s false (s.x b) 64 64
    let row := spBytes s (s.x b).toNat 64
    illegalWhen s (decide (15 < leNat (row.take 1)) || leNat ((row.drop 1).take 7) != 0)
    spRange s true (xword reply) (64 * count) 64
    let (pa, s) ← bankTarget s (s.x a)
    let args := (span 0 7).map (fun i => xword (leNat ((row.drop (8 + 8 * i)).take 8)))
    return bankCommand s d 1 pa (.bmsg pa (s.x a) (leNat (row.take 1)) args reply count)) s

/-- The stack of a pseudo-channel (R287): slots 128·k to 128·k + 127 are the pseudo-channels of stack k.  DESIGN CHOICE, log entry
47: the manual says only that each stack has 128. -/
def stackOf (p : Nat) : Nat := p / 128

def State.kittyAt (s : State) (stack : Nat) : Kitty := mgetD s.kitties stack .initial

/-- BSTAT (R286). -/
def execBstat (d a : BitVec 5) (s : State) : Result :=
  irreversible (fun s => do
    let (pa, s) ← bankTarget s (s.x a)
    if !dedicatedAt s pa then return s.setX d 0
    else
      let p := pa / Config.slotBytes
      let c := s.chanAt p
      return s.setX d (xword (setOf (mkeys c.handlers) + (if c.allBank then 2 ^ 16 else 0)
        + 2 ^ 32 * (s.kittyAt (stackOf p)).level))) s

/-! ### Installing a handler (R292, R293) -/

/-- The op's use of the fields d, a and b, and the immediates that it allows, or none for an op that is no instruction (Table
15.4). -/
def brixemUse (op : Nat) (imm : Nat) : Option (Bool × Bool × Bool × Bool) :=
  match op with
  | 0 => some (false, false, false, imm == 0)
  | 1 => some (true, false, false, true)
  | 2 => some (true, true, true, true)
  | 3 => some (true, true, true, imm == 0)
  | 4 => some (true, true, true, imm == 0)
  | 5 => some (true, true, false, decide (imm < 64))
  | 6 => some (true, true, false, decide (imm < 64))
  | 7 => some (false, true, false, true)
  | 8 => some (false, true, false, true)
  | 9 => some (true, true, false, true)
  | 10 => some (false, true, true, true)
  | 11 => some (false, false, false, decide (imm < 2))
  | 12 => some (false, true, false, imm == 0)
  | 13 => some (false, false, false, imm == 0)
  | 14 => some (false, true, false, decide (imm < 2))
  | 15 => some (false, true, true, imm == 0)
  | 16 => some (false, false, imm == 1, decide (imm < 2))
  | 17 => some (false, true, true, imm == 0)
  | 18 => some (false, true, false, decide (1 ≤ imm) && decide (imm ≤ 7))
  | _ => none

/-- The check that BINST makes of word `i` of an image of `count` words (R293). -/
def brixemWordOk (w : Word) (i count : Nat) : Bool :=
  let op := (fld w 27 5).toNat
  let imm := (fld w 0 15).toNat
  match brixemUse op imm with
  | none => false
  | some (d, a, b, ok) =>
    ok && (d || fld w 23 4 == 0) && (a || fld w 19 4 == 0) && (b || fld w 15 4 == 0)
      && (if op = 7 ∨ op = 8 then
            let t : Int := i + (fld w 0 15).toInt
            decide (0 ≤ t) && decide (t < count)
          else true)

/-- The header of an image (Table 15.2): COUNT, BOUND and SPAN, when they are in range. -/
def imageHeader (v : Nat) : Option (Nat × Nat × Nat) :=
  let count := bitsAt v 0 16
  let bound := bitsAt v 16 16
  let span_ := bitsAt v 32 9
  if bitsAt v 41 471 ≠ 0 ∨ count = 0 ∨ 1024 < count ∨ bound = 0 ∨ 4096 < bound ∨ span_ = 0 ∨ 256 < span_ then none
  else some (count, bound, span_)

/-- Words read by an engine, one by one. -/
def readWords (s : State) (cmd : Nat) (va : XWord) : List Nat → Eng (List Word × State)
  | [] => .ok ([], s)
  | i :: is => do
    let (bs, s) ← engReadGood s cmd (va + xword (4 * i)) 4
    let (rest, s) ← readWords s cmd va is
    return (BitVec.ofNat 32 (leNat bs) :: rest, s)

/-- What BINST reads and finds: the handler, or the number of the first word that fails (none for a header field).  DESIGN CHOICE (log
entry 47): it reads every word before it checks one, so a word that cannot be read gives the code, whatever another word fails. -/
def readImage (s : State) (cmd : Nat) (va : XWord) : Eng (Except (Option Nat) Handler × State) := do
  let (hd, s) ← engReadGood s cmd va 64
  match imageHeader (leNat hd) with
  | none => return (.error none, s)
  | some (count, bound, span_) =>
    let (ws, s) ← readWords s cmd (va + 64) (span 0 count)
    match (ws.zipIdx).find? (fun wi => !brixemWordOk wi.1 wi.2 count) with
    | some (_, i) => return (.error (some i), s)
    | none => return (.ok { bound := bound, span := span_, words := ws.toArray }, s)

/-- BINST (R284, R293): it reads and checks its image as it issues; in an interleaved slot, or with no ticket to give, it reads
none (R289, R261).  DETAIL of an image that cannot be read is 0 (DESIGN CHOICE, log entry 47). -/
def execBinst (d a b c : BitVec 5) (s : State) : Result :=
  irreversible (fun s => do
    let slot := (s.x c).toNat
    illegalWhen s (decide (15 < slot))
    let (_, s) ← loadBytes s .read (s.x a) 64 64 0
    let (pa, s) ← bankTarget s (s.x b)
    let issue := fun (s : State) (r : ImageRead) => bankCommand s d 0 pa (.binst r pa slot)
    if !dedicatedAt s pa || decide (Config.maxTickets ≤ s.hart.tickets.length) then return issue s (.bad 0 0)
    else match readImage s s.nextCmd (s.x a) with
      | .error (.hold w) => .error (.wait w)
      | .error (.fail code t) => return issue t (.bad code 0)
      | .ok (.error none, t) => return issue t (.bad 0x31 0xFFFFFFFFFF)
      | .ok (.error (some i), t) => return issue t (.bad 0x31 i)
      | .ok (.ok h, t) => return issue t (.good h)) s

/-- The head of a sequencer's queue taken. -/
def State.popBank (s : State) (p : Nat) : State := s.setChanAt p { s.chanAt p with queue := (s.chanAt p).queue.tail }

/-- HANDLER_INSTALL: the sequencer takes the BINST at the head of its queue, and installs what it read or fails (R284, R293,
Table 25.5). -/
def execHandlerInstall (chan : Nat) (s : State) : Result :=
  let c := s.chanAt chan
  eventStep "HANDLER_INSTALL" (match c.run, c.queue with
    | none, n :: _ =>
      (match mget? s.cmds n with
      | some cmd =>
        (match cmd.kind with
        | .binst image _ slot =>
          let t := s.popBank chan
          (match image with
          | .bad code detail => some (t.finishCmd n code 0 detail)
          | .good h =>
            let t := t.setChanAt chan { t.chanAt chan with handlers := mset (t.chanAt chan).handlers slot h }
            some (t.finishCmd n 0 0 0))
        | _ => none)
      | none => none)
    | _, _ => none)

/-! ### Starting and ending a handler (R294, R295, R322, R415, R417) -/

/-- The reply rows of a run as bytes, with the completion word (R285). -/
def replyBytes (r : Run) (code : Nat) : List Byte :=
  let word := leBytes 8 (code + 2 ^ 16 * r.count)
  word ++ ((span 8 (64 * r.rows - 8)).map (fun i => mgetD r.reply i 0))

def State.setKitty (s : State) (stack : Nat) (k : Kitty) : State := { s with kitties := mset s.kitties stack k }

/-- What a pseudo-channel's handler still has waiting at its stack is gone. -/
def State.dropOps (s : State) (p : Nat) : State :=
  let k := s.kittyAt (stackOf p)
  s.setKitty (stackOf p) { k with waiting := k.waiting.filter (fun o => o.chan != some p) }

/-- A handler ends: BANKARITH records, normal mode, the reply and the ticket (R291, R295, R417, R412). -/
def endHandler (s : State) (p code : Nat) : State :=
  match (s.chanAt p).run with
  | none => s
  | some r =>
    match mget? s.cmds r.cmd with
    | none => s.setChanAt p { s.chanAt p with run := none, allBank := false, switching := none }
    | some c =>
      let code := if code = 0 ∧ !r.arith.isEmpty then 6 else code
      let (pa, va) := match c.kind with
        | .bmsg pa va _ _ _ _ => (pa, va.toNat)
        | _ => (0, 0)
      let s := r.arith.foldl (fun s em => s.reportError (some c.ctx) 3 2 c.gang va pa em.2 em.1) s
      let s := (s.spWrite c.core r.replyAt (replyBytes r code)).dropOps p
      let s := s.setChanAt p { s.chanAt p with run := none, allBank := false, switching := none }
      s.finishCmd r.cmd (if code = 0 then 0 else 0x32) 0 code

/-- The state of Table 15.3. -/
def runOf (n : Nat) (c : Cmd) (pa slot : Nat) (args : List XWord) (reply count span_ : Nat) : Run :=
  let b8 := pa % Config.slotBytes
  let lo := b8 / Config.frameBytes * Config.frameBytes
  { cmd := n, hart := c.hart, slot := slot,
    b := Vector.ofFn (fun i : Fin 16 =>
      if i.val = 0 then 0 else if i.val ≤ 7 then args.getD (i.val - 1) 0 else if i.val = 8 then xword b8 else 0),
    pcw := 0, count := 0, lo := lo, hi := min Config.slotBytes (lo + span_ * Config.frameBytes), openRow := none,
    reply := [], rows := count, replyAt := reply, arith := [], paid := false }

/-- Whether a command owns a line of a run's footprint (R322 step 1). -/
def footprintOwned (s : State) (p : Nat) (r : Run) : Bool :=
  let lo := (p * Config.slotBytes + r.lo) / 128
  let hi := (p * Config.slotBytes + r.hi) / 128
  s.cmds.any (fun c => c.2.lines.any (fun l => decide (lo ≤ l) && decide (l < hi))
    || (!c.2.late.isEmpty && (span lo (hi - lo)).any (c.2.ownsLine s)))

/-- HANDLER_START: the sequencer takes the BMSG at the head of its queue (R294, R322); with no handler in the slot nothing
runs (R285). -/
def execHandlerStart (chan : Nat) (s : State) : Result :=
  let c := s.chanAt chan
  eventStep "HANDLER_START" (match c.run, c.queue with
    | none, n :: _ =>
      (match mget? s.cmds n with
      | some cmd =>
        (match cmd.kind with
        | .bmsg pa _ slot args reply count =>
          (match mget? c.handlers slot with
          | none =>
            let t := s.popBank chan
            let t := t.setChanAt chan { t.chanAt chan with run := some (runOf n cmd pa slot args reply count 0) }
            some (endHandler t chan 1)
          | some h =>
            let r := runOf n cmd pa slot args reply count h.span
            if footprintOwned s chan r then none
            else
              let t := s.popBank chan
              some (t.setChanAt chan { t.chanAt chan with run := some r }))
        | _ => none)
      | none => none)
    | _, _ => none)

/-- MODE_SWITCH_DONE: every bank is precharged, and the mode register is set (R291). -/
def execModeSwitchDone (chan : Nat) (s : State) : Result :=
  let c := s.chanAt chan
  eventStep "MODE_SWITCH_DONE" (match c.switching with
    | none => none
    | some m => some (s.setChanAt chan { c with
        allBank := m, switching := none, run := c.run.map (fun r => { r with openRow := none }) }))

/-! ### The kitty (R301, R302) -/

/-- The operation that a kitty serves next, by its place among those that wait: a bank operation within L and C, then a normal one
within L, then, while no normal one waits, a bank operation that leaves 4,096 of L (R302). -/
def Kitty.next? (k : Kitty) : Option Nat :=
  match k.waiting.findIdx? (fun o => o.bankOp && decide (o.cost ≤ k.credit) && decide (o.cost ≤ k.level)) with
  | some i => some i
  | none =>
    match k.waiting.findIdx? (fun o => !o.bankOp && decide (o.cost ≤ k.level)) with
    | some i => some i
    | none =>
      if k.waiting.all (fun o => o.bankOp) then k.waiting.findIdx? (fun o => decide (o.cost + 4096 ≤ k.level)) else none

/-- An operation spends its cost: from L, and a bank operation from C too, down to no lower than 0 (R302). -/
def Kitty.spend (k : Kitty) (o : StackOp) : Kitty :=
  { k with level := k.level - o.cost, credit := if o.bankOp then k.credit - o.cost else k.credit }

/-- The operations that a kitty can serve, at most n of them, in their order; and the kitty after. -/
def Kitty.serve : Nat → Kitty → List StackOp × Kitty
  | 0, k => ([], k)
  | n + 1, k =>
    match k.next? with
    | none => ([], k)
    | some i =>
      match k.waiting[i]? with
      | none => ([], k)
      | some o =>
        let (done, k) := Kitty.serve n ({ k with waiting := k.waiting.eraseIdx i }.spend o)
        (o :: done, k)

/-- The handler of a pseudo-channel has spent what the operation of its next word costs. -/
def State.markPaid (s : State) (p : Nat) : State :=
  s.setChanAt p { s.chanAt p with run := (s.chanAt p).run.map (fun r => { r with paid := true }) }

/-- The kitty of a stack serves what it can; a handler none of whose operations waits any more has paid. -/
def State.serveStack (s : State) (stack : Nat) : State :=
  let (done, k) := (s.kittyAt stack).serve (s.kittyAt stack).waiting.length
  (done.filterMap (fun o => o.chan)).foldl (fun s p =>
    if k.waiting.any (fun o => o.chan == some p) then s else s.markPaid p) (s.setKitty stack k)

/-- Some operations join those that wait at a stack, which serves what it can. -/
def State.stackOps (s : State) (stack : Nat) (ops : List StackOp) : State :=
  let k := s.kittyAt stack
  (s.setKitty stack { k with waiting := k.waiting ++ ops }).serveStack stack

/-- The operations of a normal access (R301, Table 15.6): an activate where the row is not open, and a transfer for each column. -/
def normalOps (chan : Option Nat) (activate : Bool) (columns : Nat) : List StackOp :=
  (if activate then [{ cost := 2, bankOp := false, chan := chan }] else [])
    ++ List.replicate columns { cost := 3, bankOp := false, chan := chan }

/-- KITTY_SERVICE: the operations of a normal access of a hart, an engine, the host or a peer come to a stack: an activate where the
row is not open, and a transfer for each of the 1 to 4 columns of a line that it touches.  Each spends its cost and proceeds in the
order of service, or goes on waiting (R301, R302).  Which accesses pass the caches, and when, and whether the row is open, is the
device's choice (log entry 47).  `normalCost` is what they cost together: 3 for each column, and 2 more with an activate. -/
def execKittyService (stack normalCost : Nat) (s : State) : Result :=
  let columns := normalCost / 3
  eventStep "KITTY_SERVICE" (if 12 ≤ stack ∨ columns = 0 ∨ 4 < columns ∨ normalCost % 3 = 1 then none
    else some (s.stackOps stack (normalOps none (normalCost % 3 == 2) columns)))

/-! ### The bank units (R73, R297, R300) -/

/-- The value of an FP16 pair's product in units of 2^-48, with its residue modulo 15, when both are finite. -/
def bankProduct (a b : Nat) : Option (Int × Nat) :=
  match fp16.val a, fp16.val b with
  | .fin s m e, .fin t n f =>
    let v : Int := (m * n * 2 ^ (e + f + 48).toNat : Nat)
    let r := m % 15 * (n % 15) * 2 ^ ((e + f + 48).toNat % 4) % 15
    some (if s = t then (v, r) else (-v, (15 - r) % 15))
  | _, _ => none

def accLo : Int := -(2 ^ 99 : Nat)
def accHi : Int := (2 ^ 99 : Nat) - 1

/-- The exact total of some products added to an entry as one addition (R297, R73), and its residue (R300). -/
def accAdd (e : AccEntry) (ps : List (Nat × Nat)) : AccEntry :=
  let total := ps.foldl (fun (t : Int) p => match bankProduct p.1 p.2 with | some (v, _) => t + v | none => t) 0
  let res := ps.foldl (fun t p => match bankProduct p.1 p.2 with | some (_, r) => (t + r) % 15 | none => t) e.t.toNat
  let prods := ps.map (fun p => ((fp16.val p.1).mul (fp16.val p.2)).1)
  let v := e.v.toInt + total
  let out := decide (v < accLo) || decide (accHi < v)
  let w := if v < accLo then accLo else if accHi < v then accHi else v
  { v := BitVec.ofInt 100 w
    nan := e.nan || prods.any (· == .nan)
    pinf := e.pinf || prods.any (· == .inf false)
    ninf := e.ninf || prods.any (· == .inf true)
    ovf := e.ovf || out
    t := BitVec.ofNat 4 res }

/-- The read-back of an entry (R73). -/
def readBack (e : AccEntry) : Nat :=
  if e.nan || (e.pinf && e.ninf) then fp32.nan
  else if e.pinf then fp32.top
  else if e.ninf then fp32.top + fp32.sign true
  else if e.ovf then fp32.top + fp32.sign (decide (e.v.toInt < 0))
  else (roundCore fp32 Rnd.rne (.fin (decide (e.v.toInt < 0)) e.v.toInt.natAbs (-48))).1

/-- Whether ARD's check of an entry fails (R300). -/
def residueBad (e : AccEntry) : Bool :=
  !(e.nan || e.pinf || e.ninf || e.ovf) && e.v.toInt % 15 != e.t.toNat

end Machine
end Sys2Proof
end

