-- ==== Sys2Proof/Machine/Boot.lean ====
section
/-! DEFINITION. Device reset, measured boot, SPDM and power (R369, R370, R373, R374, R382, R386, R431, R435). -/

namespace Sys2Proof
namespace Machine

/-! ### Reset and measured boot -/

/-- Some 64-byte digest that the manual does not fix: eight free values from number n on. -/
def freeDigest (n : Nat) : List Byte := (span n 8).flatMap (fun i => leBytes 8 (Config.free i).toNat)

/-- A measurement slot extended by a digest (R373). -/
def extendSlot (d : Device) (i : Nat) (digest : List Byte) : Device :=
  let old := d.ms.toList.getD i 0
  let new := BitVec.ofNat 512 (leNat (shake256 (leBytes 64 old.toNat ++ digest) 64))
  { d with ms := Vector.ofFn (fun j : Fin 8 => if j.val = i then new else d.ms[j]) }

/-- The package after a device reset: nothing is kept but what lies outside it, host memory and the peers' memory, and the
boot epoch, which advances (R370, R373, R382). -/
def resetState (s : State) : State :=
  let spent := s.dev.epoch == 0xFFFFFF
  let epoch := if spent then s.dev.epoch else s.dev.epoch + 1
  let first : XWord := (epoch.setWidth 64) <<< 40
  { State.reset with
    free := s.free
    mem := s.mem.filter (fun c => Config.deviceBytes ≤ c.1)
    badUnits := s.badUnits.filter (fun u => Config.deviceBytes ≤ 2 * u.1)
    dev := { Device.initial with
      epoch := epoch, epochSpent := spent, floor := first, next := first, ack := first, exported := first } }

/-- DEVICE_RESET (R373, R382). -/
def execDeviceReset (s : State) : Result := .next (resetState s)

/-- D3COLD: nothing is kept, and the return to D0 is a device reset (R370). -/
def execD3cold (s : State) : Result := .next (resetState s)

/-- D3HOT_REQUEST is ignored (R370). -/
def execD3hotRequest (s : State) : Result := .next s

/-- The boot stops at a stage with a result (R431). -/
def bootStop (s : State) (d : Device) (result : Nat) : State :=
  { s with dev := { d with bootStage := BitVec.ofNat 3 d.stage, bootResult := BitVec.ofNat 2 result } }

/-- The boot ends well: the steward runtime extends MS7 with the digest of its configuration, and the epoch's first record
follows (R373, R446). -/
def bootDone (s : State) (d : Device) : State :=
  let d := { extendSlot d 7 (freeDigest s.free) with bootResult := 1 }
  let s := { s with dev := d, free := s.free + 8 }
  s.audit auditBoot 0 (leNat (shake256 (d.ms.toList.flatMap (fun m => leBytes 64 m.toNat)) 46))

/-- BOOT_STAGE: the next stage is measured, verified and run (R373, R431, R382). -/
def execBootStage (img : List Byte) (readable passes : Bool) (s : State) : Result :=
  eventStep "BOOT_STAGE" (
    let d := s.dev
    if d.bootResult ≠ 0 ∨ 6 < d.stage then none
    else if !readable then some (bootStop s d 3)
    else
      let m := extendSlot d d.stage (shake256 img 64)
      if !passes || (d.stage == 3 && d.epochSpent) then some (bootStop s m 2)
      else
        let m := { m with stage := d.stage + 1 }
        some (if m.stage = 7 then bootDone s m else { s with dev := m }))

/-- Whether the steward runs. -/
def booted (s : State) : Bool := s.dev.bootResult == 1

/-! ### SPDM over the DOE mailbox (R369, R374)

Response codes are those of SPDM 1.3 (PRESUMED); what only that standard lays out is free bytes. -/

def spdmDigests : Nat := 0x01
def spdmCertificate : Nat := 0x02
def spdmChallengeAuth : Nat := 0x03
def spdmVersion : Nat := 0x04
def spdmMeasurements : Nat := 0x60
def spdmCapabilities : Nat := 0x61
def spdmAlgorithms : Nat := 0x63
def spdmKeyExchange : Nat := 0x64
def spdmFinish : Nat := 0x65
def spdmError : Nat := 0x7F

/-- The options of Table 22.1 that the capability structures of PCIe, IDE, TDISP, SPDM, CXL and power management report. -/
def linkOptions : List LinkOption :=
  [.lanes 16, .rate 64, .flit, .virtualFunctions 64, .doe 0, .selectiveIde 65, .aesGcm 256, .tdisp 1 0, .spdm 1 3, .cxl 3 1,
   .cxlType 2, .cxlIo, .cxlCache, .cxlMem, .cxlIdeContainment, .powerState 0, .powerState 4]

/-- What a capability structure reports of an option: supported, or unsupported where the table does not name it (R369). -/
def capability (o : LinkOption) : Bool := linkOptions.contains o

/-- The SPDM options of Table 22.1: the requests, by their codes (GET_DIGESTS, GET_CERTIFICATE, CHALLENGE, GET_VERSION,
GET_MEASUREMENTS, GET_CAPABILITIES, NEGOTIATE_ALGORITHMS, KEY_EXCHANGE, FINISH), and the algorithms.  What is not named is
unsupported (R369). -/
def spdmRequests : List SpdmOption := [0x81, 0x82, 0x83, 0x84, 0xE0, 0xE1, 0xE3, 0xE4, 0xE5].map .request
def spdmSuite : List SpdmOption := [.falcon1024, .shake256 64]

/-- What an answer of a code states of the options of Table 22.1. -/
def spdmOffers (code : Nat) : List SpdmOption :=
  if code = spdmVersion then [.version 1 3]
  else if code = spdmCapabilities then spdmRequests
  else if code = spdmAlgorithms then spdmSuite
  else []

/-- A response sent, with the responder's state after it. -/
def State.answer (s : State) (code : Nat) (body : List Byte) (f : Spdm → Spdm) : State :=
  { s with dev := { s.dev with response := .spdm code (spdmOffers code) body, spdm := f s.dev.spdm }, free := s.free + 1 }

/-- A request that its place in the exchange allows, or the error response. -/
def spdmStep (s : State) (ok : Bool) (code : Nat) (body : List Byte) (f : Spdm → Spdm) : Result :=
  .next (if ok then s.answer code body f else s.answer spdmError [] id)

/-- GET_VERSION starts the exchange afresh. -/
def execGetVersion (s : State) : Result :=
  spdmStep s true spdmVersion (Config.responseBytes s.free) (fun _ =>
    { versioned := true, capable := false, negotiated := false, session := false, keyed := false })

/-- GET_CAPABILITIES. -/
def execGetCapabilities (s : State) : Result :=
  spdmStep s s.dev.spdm.versioned spdmCapabilities (Config.responseBytes s.free) (fun p => { p with capable := true })

/-- NEGOTIATE_ALGORITHMS: the part offers Falcon-1024, here number 1, and SHAKE256 with 64 bytes, here number 1. -/
def execNegotiateAlgorithms (asym hash : Nat) (s : State) : Result :=
  spdmStep s (s.dev.spdm.capable && asym == 1 && hash == 1) spdmAlgorithms (Config.responseBytes s.free)
    (fun p => { p with negotiated := true })

/-- GET_DIGESTS: the digest of the certificate chain. -/
def execGetDigests (s : State) : Result :=
  spdmStep s s.dev.spdm.negotiated spdmDigests (shake256 Config.certChain 64) id

/-- GET_CERTIFICATE (R374). -/
def execGetCertificate (s : State) : Result :=
  spdmStep s s.dev.spdm.negotiated spdmCertificate Config.certChain id

/-- CHALLENGE: signed with the identity key. -/
def execChallenge (nonce : List Byte) (s : State) : Result :=
  spdmStep s s.dev.spdm.negotiated spdmChallengeAuth (nonce ++ Config.signature s.free) id

/-- The measurement blocks: index 1 to 8, each with its slot (R374). -/
def measurementBlocks (d : Device) : List Byte :=
  d.ms.toList.zipIdx.flatMap (fun m => BitVec.ofNat 8 (m.2 + 1) :: leBytes 64 m.1.toNat)

/-- GET_MEASUREMENTS (R374). -/
def execGetMeasurements (signed : Bool) (nonce : List Byte) (s : State) : Result :=
  spdmStep s s.dev.spdm.negotiated spdmMeasurements
    (measurementBlocks s.dev ++ (if signed then nonce ++ Config.signature s.free else [])) id

/-- KEY_EXCHANGE. -/
def execKeyExchange (_data : List Byte) (s : State) : Result :=
  spdmStep s s.dev.spdm.negotiated spdmKeyExchange (Config.responseBytes s.free) (fun p => { p with keyed := true })

/-- FINISH completes a session. -/
def execFinish (_data : List Byte) (s : State) : Result :=
  spdmStep s s.dev.spdm.keyed spdmFinish (Config.responseBytes s.free) (fun p => { p with session := true })

/-- IDE_KM: a stream key of function 0 or of a virtual function, within a session (Table 22.1). -/
def execIdeKm (fn : Nat) (key : BitVec 256) (s : State) : Result :=
  if s.dev.spdm.session && decide (fn ≤ 64) then
    .next ({ s with dev := { s.dev with ideKeys := mset s.dev.ideKeys fn key } }.answer 0 [] id)
  else .next (s.answer spdmError [] id)

/-! ### Power (R386, R435) -/

/-- POWER_LIMIT: a host write of the power limit register (Table 22.10); in the log's reserve it changes nothing (R433).  A posted
write, it does not pass those that wait (R250).  Before the steward runs there is nobody to append the POWER record or to extend MS7:
the limit changes all the same (DESIGN CHOICE, log entry 26). -/
def execPowerLimit (v : XWord) (s : State) : Result :=
  let n := xbits v 0 8
  if (Outside.power v).waits s then .next (s.defer (.power v))
  else if 64 < n ∨ auditReserve s.dev then .next s
  else
    let s := { s with dev := { s.dev with powerLimit := BitVec.ofNat 8 n } }
    if booted s then
      let s := s.audit auditPower 0 (2000 + 25 * n)
      .next { s with dev := extendSlot s.dev 7 (freeDigest s.free), free := s.free + 8 }
    else .next s

/-- POWER_WINDOW: a window of 1 ms at an average power (R435).  STEP rises by one while the limit is passed; whether it falls
again in another window is a free choice. -/
def execPowerWindow (watts : Nat) (s : State) : Result :=
  let d := s.dev
  let limit := 2000 + 25 * d.powerLimit.toNat
  let step :=
    if limit < watts then (if d.throttleStep.toNat < 12 then d.throttleStep + 1 else d.throttleStep)
    else if d.throttleStep ≠ 0 && Config.happens s.free then d.throttleStep - 1 else d.throttleStep
  let windows := if step = 0 ∨ d.throttleWindows = 0xFFFFFFFF then d.throttleWindows else d.throttleWindows + 1
  .next { s with dev := { d with throttleStep := step, throttleWindows := windows }, free := s.free + 1 }

end Machine
end Sys2Proof
end

