-- ==== Sys2Proof/Machine/Brixem.lean ====
section
/-! DEFINITION. The Brixem instructions, each executed by the sequencer that `bank` names (R294 to R297, Table 15.4). -/

namespace Sys2Proof
namespace Machine

/-! ### The frame of one instruction -/

/-- What an instruction comes to: it takes effect, with the jump to the next word; it meets a stop condition; or it waits for
tokens. -/
inductive BankRes where
  | go (s : State) (c : Chan) (r : Run) (jump : Int)
  | stop (code : Nat) (s : State)
  | wait (s : State)

/-- BOUND of the running handler. -/
def boundOf (c : Chan) (r : Run) : Nat := match mget? c.handlers r.slot with | some h => h.bound | none => 0

/-- One instruction: it waits for a mode switch under way; OVERRUN and MODE are checked first (R295); then its own effect, with
RANGE before POISON. -/
def bankInstr (needs : Option Bool) (f : State → Chan → Run → BankRes) (s : State) : Result :=
  let p := s.bank
  let c := s.chanAt p
  match c.run with
  | none => .fault (.noAgent p)
  | some r =>
    if c.switching.isSome then .next s
    else if boundOf c r < r.count + 1 then .next (endHandler s p 2)
    else if needs == some (!c.allBank) then .next (endHandler s p 3)
    else
      match f s c r with
      | .wait s => .next s
      | .stop code s => .next (endHandler s p code)
      | .go s c r j =>
        .next (s.setChanAt p { c with run := some { r with count := r.count + 1, pcw := (r.pcw + j).toNat, paid := false } })

/-- b0 reads 0 and its writes are discarded (Table 15.3). -/
def bReg (r : Run) (i : BitVec 4) : XWord := if i = 0 then 0 else r.b[i.toNat]
def setB (r : Run) (i : BitVec 4) (v : XWord) : Run := if i = 0 then r else { r with b := r.b.set i.toNat v }

/-- sx of an immediate. -/
def sxi (i : BitVec 15) : XWord := i.signExtend 64

/-- An instruction that only writes a register. -/
def bankWrite (d : BitVec 4) (f : Run → XWord) (s : State) : Result :=
  bankInstr none (fun s c r => .go s c (setB r d (f r)) 1) s

/-! ### Registers and branches -/

/-- HALT (R295): the executed count includes it. -/
def execBHalt (s : State) : Result :=
  bankInstr none (fun s c r => .stop 0 (s.setChanAt s.bank { c with run := some { r with count := r.count + 1 } })) s

/-- LI. -/
def execBLi (d : BitVec 4) (i : BitVec 15) (s : State) : Result := bankWrite d (fun _ => sxi i) s

/-- ADD. -/
def execBAdd (d a b : BitVec 4) (i : BitVec 15) (s : State) : Result := bankWrite d (fun r => bReg r a + bReg r b + sxi i) s

/-- SUB. -/
def execBSub (d a b : BitVec 4) (s : State) : Result := bankWrite d (fun r => bReg r a - bReg r b) s

/-- AND. -/
def execBAnd (d a b : BitVec 4) (s : State) : Result := bankWrite d (fun r => bReg r a &&& bReg r b) s

/-- SHL. -/
def execBShl (d a : BitVec 4) (i : BitVec 6) (s : State) : Result := bankWrite d (fun r => bReg r a <<< i.toNat) s

/-- SHR. -/
def execBShr (d a : BitVec 4) (i : BitVec 6) (s : State) : Result := bankWrite d (fun r => bReg r a >>> i.toNat) s

/-- A branch, taken when the condition holds of b[a]. -/
def bankBranch (a : BitVec 4) (i : BitVec 15) (taken : XWord → Bool) (s : State) : Result :=
  bankInstr none (fun s c r => .go s c r (if taken (bReg r a) then i.toInt else 1)) s

/-- BNZ. -/
def execBBnz (a : BitVec 4) (i : BitVec 15) (s : State) : Result := bankBranch a i (· != 0) s

/-- BZ. -/
def execBBz (a : BitVec 4) (i : BitVec 15) (s : State) : Result := bankBranch a i (· == 0) s

/-! ### Memory (Table 15.1) -/

/-- The BMSG of a run: the issuing context's gang and the target's virtual address, which name a handler's accesses in error
records (Table 25.4). -/
def runAgent (s : State) (r : Run) : Nat × XWord :=
  match mget? s.cmds r.cmd with
  | some c => (match c.kind with
    | .bmsg _ va _ _ _ _ => (c.gang, va)
    | _ => (c.gang, 0))
  | none => (0, 0)

/-- Bytes that a handler reads at the home, or the state in which its read has recorded the units found bad (R406, R407). -/
def bankRead (s : State) (r : Run) (pa n : Nat) : Except State (List Byte) :=
  let bad := (span 0 n).filter (fun i => badByte s (pa + i))
  if bad.isEmpty then .ok (memReadN s.mem pa n)
  else
    let (gang, va) := runAgent s r
    .error (s.foundBad 2 gang (bad.map (fun i => ((pa + i) / 2, va))))

/-- The channel offset of a quadword access, when it is in range (R295). -/
def quadAt (r : Run) (a : BitVec 4) (i : BitVec 15) : Option Nat :=
  let c := (bReg r a + sxi i).toNat
  if c % 8 = 0 ∧ r.lo ≤ c ∧ c + 8 ≤ r.hi then some c else none

/-- What the operations of an instruction cost (R302): it goes on, in the state given, once all are served, and waits until then.
They join those that wait at the stack when the instruction is first tried. -/
def spendOps (s : State) (r : Run) (ops : State → State × List StackOp) : State × Bool :=
  let p := s.bank
  let st := stackOf p
  if r.paid then (s, true)
  else if (s.kittyAt st).waiting.any (fun o => o.chan == some p) then (s, false)
  else
    let (s, l) := ops s
    let t := s.stackOps st l
    (t, (t.chanAt p).run.any (fun r => r.paid))

/-- A normal access of one column; whether it also pays an activate is the device's choice (R301). -/
def payAccess (s : State) (r : Run) : State × Bool :=
  spendOps s r (fun s => (s.draw, normalOps (some s.bank) (Config.happens s.free) 1))

/-- LDQ. -/
def execBLdq (d a : BitVec 4) (i : BitVec 15) (s : State) : Result :=
  bankInstr (some false) (fun s c r =>
    match quadAt r a i with
    | none => .stop 4 s
    | some o =>
      match payAccess s r with
      | (s, false) => .wait s
      | (s, true) =>
        match bankRead s r (s.bank * Config.slotBytes + o) 8 with
        | .error t => .stop 5 t
        | .ok bs => .go s c (setB r d (xword (leNat bs))) 1) s

/-- STQ. -/
def execBStq (a b : BitVec 4) (i : BitVec 15) (s : State) : Result :=
  bankInstr (some false) (fun s c r =>
    match quadAt r a i with
    | none => .stop 4 s
    | some o =>
      match payAccess s r with
      | (s, false) => .wait s
      | (s, true) =>
        let (gang, va) := runAgent s r
        .go (s.homeWrite 2 gang va (s.bank * Config.slotBytes + o) (leBytes 8 (bReg r b).toNat)) c r 1) s

/-! ### Modes and rows (R290, R291) -/

/-- MODE: a switch to the mode already set has no effect; any other is done once the banks are precharged. -/
def execBMode (i : Bool) (s : State) : Result :=
  bankInstr none (fun s c r => .go s (if i = c.allBank then c else { c with switching := some i }) r 1) s

/-- ba<28:15> and ba<14:9>. -/
def rowField (v : XWord) : Nat := xbits v 15 14
def colField (v : XWord) : Nat := xbits v 9 6

/-- A bank operation's tokens. -/
def payBankOp (s : State) (r : Run) (cost : Nat) : State × Bool :=
  spendOps s r (fun s => (s, [{ cost := cost, bankOp := true, chan := some s.bank }]))

/-- ACT: the row must lie in the footprint. -/
def execBAct (a : BitVec 4) (s : State) : Result :=
  bankInstr (some true) (fun s c r =>
    let row := rowField (bReg r a)
    if row * 32768 < r.lo ∨ r.hi < row * 32768 + 32768 then .stop 4 s
    else match payBankOp s r 24 with
      | (s, false) => .wait s
      | (s, true) => .go s c { r with openRow := some row } 1) s

/-- PRE. -/
def execBPre (s : State) : Result := bankInstr (some true) (fun s c r => .go s c { r with openRow := none } 1) s

/-- The 512 bytes of a column of the open row, when the ROW field agrees; the physical address of its first byte. -/
def columnAt (s : State) (r : Run) (a : BitVec 4) : Option Nat :=
  match r.openRow with
  | none => none
  | some row =>
    if rowField (bReg r a) = row then some (s.bank * Config.slotBytes + row * 32768 + colField (bReg r a) * 512) else none

/-- The 16-bit values of a list of bytes. -/
def halves : List Byte → List (BitVec 16)
  | a :: b :: rest => BitVec.ofNat 16 (leNat [a, b]) :: halves rest
  | _ => []

/-- XLD. -/
def execBXld (a : BitVec 4) (i : Bool) (s : State) : Result :=
  bankInstr (some true) (fun s c r =>
    match columnAt s r a with
    | none => .stop 4 s
    | some pa =>
      match payBankOp s r 16 with
      | (s, false) => .wait s
      | (s, true) =>
        match bankRead s r pa (if i then 32 else 512) with
        | .error t => .stop 5 t
        | .ok bs =>
          let vs := (halves bs).toArray
          let x := (span 0 256).foldl (fun m n => mput 0 m n (vs.getD (if i then n % 16 else n) 0)) c.x
          .go s { c with x := x } r 1) s

/-- MAC (R297): each entry takes the exact total of its 16 products. -/
def execBMac (a b : BitVec 4) (s : State) : Result :=
  bankInstr (some true) (fun s c r =>
    match columnAt s r a with
    | none => .stop 4 s
    | some pa =>
      match payBankOp s r 16 with
      | (s, false) => .wait s
      | (s, true) =>
        match bankRead s r pa 512 with
        | .error t => .stop 5 t
        | .ok bs =>
          let e := xbits (bReg r b) 0 6
          let w := (halves bs).toArray
          let acc := (span 0 16).foldl (fun m k =>
            mput .zero m (64 * k + e) (accAdd (mgetD c.acc (64 * k + e) .zero)
              ((span 0 16).map (fun j => ((w.getD (16 * k + j) 0).toNat, (mgetD c.x (16 * k + j) 0).toNat))))) c.acc
          .go s { c with acc := acc } r 1) s

/-- ACLR of every entry. -/
def execBAclr (s : State) : Result := bankInstr none (fun s c r => .go s { c with acc := [] } r 1) s

/-- ACLR of one entry in every bank. -/
def execBAclrEntry (b : BitVec 4) (s : State) : Result :=
  bankInstr none (fun s c r =>
    .go s { c with acc := c.acc.filter (fun x => x.1 % 64 != xbits (bReg r b) 0 6) } r 1) s

/-! ### Results -/

/-- Bytes put into the reply. -/
def putReply (m : Map Byte) : Nat → List Byte → Map Byte
  | _, [] => m
  | a, b :: bs => putReply (mput 0 m a b) (a + 1) bs

/-- The masks of banks that mismatched, by entry, with one more (R417). -/
def noteArith (l : List (Nat × Nat)) (e mask : Nat) : List (Nat × Nat) :=
  if mask = 0 then l
  else if l.any (fun x => x.1 = e) then l.map (fun x => if x.1 = e then (e, x.2 ||| mask) else x)
  else l ++ [(e, mask)]

/-- ARD (R297, R300, R417). -/
def execBArd (a b : BitVec 4) (s : State) : Result :=
  bankInstr none (fun s c r =>
    let row := (bReg r a).toNat
    if row < 1 ∨ r.rows ≤ row then .stop 4 s
    else
      let e := xbits (bReg r b) 0 6
      let entry := fun k => mgetD c.acc (64 * k + e) .zero
      let value := fun k => if residueBad (entry k) then fp32.nan else readBack (entry k)
      let bytes := (span 0 16).flatMap (fun k => leBytes 4 (value k))
      let mask := setOf ((span 0 16).filter (fun k => residueBad (entry k)))
      .go s c { r with reply := putReply r.reply (64 * row) bytes, arith := noteArith r.arith e mask } 1) s

/-- ROUT. -/
def execBRout (a : BitVec 4) (i : BitVec 3) (s : State) : Result :=
  bankInstr none (fun s c r =>
    .go s c { r with reply := putReply r.reply (8 * i.toNat) (leBytes 8 (bReg r a).toNat) } 1) s

end Machine
end Sys2Proof
end

