-- ==== Sys2Proof/Machine/Copy.lean ====
section
/-! DEFINITION. Major 0x1A: the copy engine, the deal, and the ticket waits (R277 to R279, R262, R320, R341, R396). -/

namespace Sys2Proof
namespace Machine

/-! ### DCOPY and DFILL (R277) -/

def copyCount (c : XWord) : Nat := xbits c 0 40
def copyDsp (c : XWord) : Bool := c.getLsbD 60
def copySsp (c : XWord) : Bool := c.getLsbD 61

/-- The reserved bits of the control register. -/
def copyBad (fill : Bool) (c : XWord) : Bool := xbits c 40 20 != 0 || xbits c 62 2 != 0 || (fill && copySsp c)

/-- A command whose N is 0: it completes at once. -/
def emptyCommand (s : State) (d : BitVec 5) (op maj : Nat) (kind : CmdKind) : State :=
  ticketed s d op maj kind ([], []) (fun t n => t.finishCmd n 0 0 0)

/-- DCOPY (R277, R263). -/
def execDcopy (d a b c : BitVec 5) (s : State) : Result :=
  irreversible (fun s => do
    let ctl := s.x c
    illegalWhen s (copyBad false ctl)
    let n := copyCount ctl
    let dst := s.x a
    let src := s.x b
    let kind := CmdKind.copy dst src n (copyDsp ctl) (copySsp ctl)
    if n = 0 then return emptyCommand s d 0 1 kind
    else do
      if copySsp ctl then spRange s false src n 1
      if copyDsp ctl then spRange s true dst n 1
      let s ← (if copySsp ctl then pure s else memRange s .read src n 1)
      let s ← (if copyDsp ctl then pure s else memRange s .write dst n 1)
      return ticketed s d 0 1 kind (if copyDsp ctl then ([], []) else linesOf s dst n) (fun t _ => t)) s

/-- DFILL (R277, R263). -/
def execDfill (d a b c : BitVec 5) (s : State) : Result :=
  irreversible (fun s => do
    let ctl := s.x c
    illegalWhen s (copyBad true ctl)
    let n := copyCount ctl
    let dst := s.x a
    let kind := CmdKind.fill dst (s.x b) n (copyDsp ctl)
    if n = 0 then return emptyCommand s d 2 1 kind
    else do
      if copyDsp ctl then spRange s true dst n 1
      let s ← (if copyDsp ctl then pure s else memRange s .write dst n 1)
      return ticketed s d 2 1 kind (if copyDsp ctl then ([], []) else linesOf s dst n) (fun t _ => t)) s

/-- Pieces (offset, length) of a range of n bytes from an address on, none of which crosses a multiple of `line`. -/
def piecesOf (at_ line n : Nat) : Nat → Nat → List (Nat × Nat)
  | 0, _ => []
  | fuel + 1, off =>
    if n ≤ off then []
    else
      let len := min (n - off) (line - (at_ + off) % line)
      (off, len) :: piecesOf at_ line n fuel (off + len)

/-- Bytes of a fill: byte t of the destination takes byte t mod 8 of the pattern. -/
def fillBytes (pat : XWord) (off n : Nat) : List Byte :=
  (span off n).map (fun t => BitVec.ofNat 8 (pat.toNat / 256 ^ (t % 8)))

/-- One piece of a copy or fill, its source read and its destination translated. -/
def copyPiece (cmd : Nat) (dst : XWord) (dsp : Bool) (read : State → Nat → Nat → Eng (List Byte × List Nat × State))
    (s : State) (c : Nat × Nat) : Eng (Item × State) := do
  let (bs, bad, s) ← read s c.1 c.2
  let va := dst + xword c.1
  if dsp then
    if bad.isEmpty then return ({ sp := true, va := va, pa := va.toNat, data := bs, bad := [], done := c.1 + c.2 }, s)
    else .error (.fail 0x14 s)
  else
    let (pa, s) ← engAddr s cmd .write va
    return ({ sp := false, va := va, pa := pa, data := bs, bad := bad, done := c.1 + c.2 }, s)

/-- Bytes of memory read line by line of 128 bytes, with the offsets of the bad ones among them. -/
def engReadLines (s : State) (cmd : Nat) (va : XWord) : List (Nat × Nat) → Eng (List Byte × List Nat × State)
  | [] => .ok ([], [], s)
  | c :: cs => do
    let (bs, bad, s) ← engRead s cmd (va + xword c.1) c.2
    let (rest, bad', s) ← engReadLines s cmd va cs
    return (bs ++ rest, bad.map (c.1 + ·) ++ bad', s)

/-- The scratchpad of a gang's core as an engine command of it reads it: the saved one while the gang is stopped there (R366,
R367). -/
def scratchOf (k : Core) (gang : Nat) : Map Byte :=
  match k.saved.find? (fun i => i.gang == gang) with
  | some i => i.scratch
  | none => k.scratch

/-- A source of n bytes at an offset: S-space of the core, or memory. -/
def readSource (cmd gang : Nat) (src : XWord) (ssp : Bool) (s : State) (off n : Nat) : Eng (List Byte × List Nat × State) :=
  if ssp then .ok (memReadN (scratchOf s.core gang) (src.toNat + off) n, [], s)
  else engReadLines s cmd (src + xword off) (piecesOf (src.toNat + off) 128 n n 0)

/-- The end of DCOPY or DFILL: everything read, then everything written; a failure leaves whole destination lines (Table
25.6). -/
def copyRun (s : State) (cmd : Nat) (dst : XWord) (n : Nat) (dsp : Bool)
    (read : State → Nat → Nat → Eng (List Byte × List Nat × State)) : Point :=
  let dl := if dsp then 64 else 128
  (gather (copyPiece cmd dst dsp read) (·.1) s (piecesOf dst.toNat dl n n 0)).point (fun (items, failed, s) =>
    match failed with
    | none => .ok ((s.performItems s.coreId items).finishCmd cmd 0 0 0)
    | some (code, off) =>
      let detail := (dst.toNat + off) / dl * dl - dst.toNat
      .ok ((s.performItems s.coreId (items.filter (fun i => i.done ≤ detail))).finishCmd cmd code 0 detail))
    (fun _ _ => .error none)

/-! ### DCOPY2D (R278) -/

def c2Dst (d : BitVec 512) : XWord := xword (bitsAt d.toNat 0 64)
def c2Src (d : BitVec 512) : XWord := xword (bitsAt d.toNat 64 64)
def c2Rows (d : BitVec 512) : Nat := bitsAt d.toNat 128 16
def c2Cols (d : BitVec 512) : Nat := bitsAt d.toNat 144 16
def c2Dpitch (d : BitVec 512) : Nat := bitsAt d.toNat 160 32
def c2Spitch (d : BitVec 512) : Nat := bitsAt d.toNat 192 32
def c2Width (d : BitVec 512) : Nat := 2 ^ bitsAt d.toNat 224 2
def c2Dsp (d : BitVec 512) : Bool := d.toNat.testBit 226
def c2Ssp (d : BitVec 512) : Bool := d.toNat.testBit 227
def c2Do (d : BitVec 512) : Bool := d.toNat.testBit 228
def c2So (d : BitVec 512) : Bool := d.toNat.testBit 229

/-- Contents that are illegal (Table 14.8). -/
def c2Bad (d : BitVec 512) : Bool :=
  bitsAt d.toNat 230 282 != 0 || c2Rows d == 0 || c2Cols d == 0 || (c2Do d && !c2Dsp d) || (c2So d && !c2Ssp d)

/-- Byte of element (r, c) of one side. -/
def c2Place (base pitch w : Nat) (o : Bool) (r c : Nat) : Nat :=
  if o then 64 * (base / 64 + pitch * (c * w / 64) + r) + c * w % 64 else base + r * pitch + c * w

/-- The checks of one side in S-space or in memory (R263 steps 4 and 5). -/
def c2Side (s : State) (d : BitVec 512) (dest : Bool) : Eff State := do
  let base := if dest then c2Dst d else c2Src d
  let pitch := if dest then c2Dpitch d else c2Spitch d
  let o := if dest then c2Do d else c2So d
  let w := c2Width d
  let n := c2Place base.toNat pitch w o (c2Rows d - 1) (c2Cols d - 1) + w - base.toNat
  let second := !o && decide (1 < c2Rows d)
  if (if dest then c2Dsp d else c2Ssp d) then do
    keepFinds s (spPitched s dest base (if o then 64 else w) (if second then base + xword pitch else base) w n)
    return s
  else do
    keepFinds s (memPitched s dest base w (if second then base + xword pitch else base))
    memRange s (if dest then .write else .read) base n w

/-- DCOPY2D (R278, R263): S-space sides are checked before memory sides, the source first. -/
def execDcopy2d (d a : BitVec 5) (s : State) : Result :=
  irreversible (fun s => do
    let (v, s) ← readDesc s (s.x a) 64 64
    let q := BitVec.ofNat 512 v
    keepFinds s (illegalWhen s (c2Bad q))
    let s ← (if c2Ssp q then c2Side s q false else pure s)
    let s ← (if c2Dsp q then c2Side s q true else pure s)
    let s ← (if c2Ssp q then pure s else c2Side s q false)
    let s ← (if c2Dsp q then pure s else c2Side s q true)
    let lines := if c2Dsp q then [] else
      (span 0 (c2Rows q)).map (fun r => linesOf s (c2Dst q + xword (r * c2Dpitch q)) (c2Cols q * c2Width q))
    let lines := (lines.flatMap (·.1), lines.flatMap (·.2))
    return ticketed s d 1 1 (.copy2d q) lines (fun t _ => t)) s

/-- The end of DCOPY2D: elements in row-major order (Table 25.6). -/
def copy2dRun (s : State) (cmd gang : Nat) (d : BitVec 512) : Point :=
  let w := c2Width d
  let unit := fun (s : State) (k : Nat) => (do
    let r := k / c2Cols d
    let c := k % c2Cols d
    let from_ := c2Place (c2Src d).toNat (c2Spitch d) w (c2So d) r c
    let to_ := c2Place (c2Dst d).toNat (c2Dpitch d) w (c2Do d) r c
    let (bs, bad, s) ← readSource cmd gang (xword from_) (c2Ssp d) s 0 w
    if c2Dsp d then
      if bad.isEmpty then return ({ sp := true, va := xword to_, pa := to_, data := bs, bad := [], done := k + 1 }, s)
      else .error (.fail 0x14 s)
    else
      let (pa, s) ← engAddr s cmd .write (xword to_)
      return ({ sp := false, va := xword to_, pa := pa, data := bs, bad := bad, done := k + 1 }, s) : Eng (Item × State))
  (gather unit id s (span 0 (c2Rows d * c2Cols d))).point (fun (items, failed, s) =>
    let s := s.performItems s.coreId items
    match failed with
    | none => .ok (s.finishCmd cmd 0 0 0)
    | some (code, k) => .ok (s.finishCmd cmd code 0 k))
    (fun _ _ => .error none)

/-- Whether an earlier command still owns a line that a command writes (R317). -/
def ownedEarlier (s : State) (cmd : Nat) (lines : List Nat) : Bool :=
  s.cmds.any (fun c => decide (c.1 < cmd) && lines.any (c.2.ownsLine s))

/-- A copy command carried out, for the focused hart.  The local stores of its core are saved only once every command that writes
them has completed (R367). -/
def copyPoint (s : State) (cmd : Nat) (c : Cmd) : Point :=
  if ownedEarlier s cmd c.lines then .error (some .line)
  else match c.kind with
    | .copy dst src n dsp ssp => copyRun s cmd dst n dsp (readSource cmd c.gang src ssp)
    | .fill dst pat n dsp => copyRun s cmd dst n dsp (fun s off k => .ok (fillBytes pat off k, [], s))
    | .copy2d d => copy2dRun s cmd c.gang d
    | _ => .error none

/-- COPY_COMPLETE: a DCOPY, DFILL or DCOPY2D reads its source, performs its writes and completes (R277, R278, R317, R319). -/
def execCopyComplete (cmd : Nat) (s : State) : Result :=
  pointStep "COPY_COMPLETE" s (some cmd) (match mget? s.cmds cmd with
    | none => .error none
    | some c => (copyPoint (s.focus c.hart) cmd c).map (fun t => t.focus s.cur))

/-! ### The deal (R279, R341, R414) -/

def dealSrc (d : BitVec 256) : XWord := xword (bitsAt d.toNat 0 64)
def dealExperts (d : BitVec 256) : Nat := bitsAt d.toNat 64 16
def dealSize (d : BitVec 256) : Nat := bitsAt d.toNat 80 16
def dealBase (d : BitVec 256) : Nat := bitsAt d.toNat 96 12
def dealSlots (d : BitVec 256) : Nat := bitsAt d.toNat 112 8
def dealRounds (d : BitVec 256) : Nat := bitsAt d.toNat 128 32

/-- Contents that are illegal (Table 14.9). -/
def dealBad (d : BitVec 256) : Bool :=
  bitsAt d.toNat 108 4 != 0 || bitsAt d.toNat 120 8 != 0 || bitsAt d.toNat 160 96 != 0
    || dealExperts d == 0 || decide (1024 < dealExperts d) || dealSize d == 0 || decide (4096 < dealSize d)
    || dealSlots d == 0 || dealRounds d == 0

/-- A core's deal position as a passage is about to begin (R276). -/
def dealStart (k : Core) (e r : Nat) : Core :=
  { k with dealExpert := e, dealRound := r, dealRunning := true, dealSlot := if e = 0 then 0 else k.dealSlot }

/-- A deal that issues runs from now on (R276, R315): each of its cores whose position is not that of an earlier deal takes its. -/
def State.dealIssued (s : State) (cores : List Nat) : State :=
  cores.foldl (fun s k => if (s.coreAt k).dealRunning then s else s.setCoreAt k (dealStart (s.coreAt k) 0 0)) s

/-- Whether a deal of a gang takes a core. -/
def Cmd.deals (c : Cmd) (gang core : Nat) : Bool :=
  c.gang == gang && (match c.kind with | .deal _ _ cores => cores.contains core | _ => false)

/-- The end of a deal on some cores: where a later deal of the gang waits, its position comes next (R276). -/
def State.dealEnded (s : State) (cmd gang : Nat) (cores : List Nat) : State :=
  cores.foldl (fun s k =>
    let c := s.coreAt k
    s.setCoreAt k (if s.cmds.any (fun o => o.1 != cmd && o.2.deals gang k) then dealStart c 0 0 else { c with dealRunning := false })) s

/-- DDEAL (R279, R263): the cores that hold the gang's local stores at issue take the deal. -/
def execDdeal (d a : BitVec 5) (s : State) : Result :=
  irreversible (fun s => do
    let (v, s) ← readDesc s (s.x a) 32 64
    let q := BitVec.ofNat 256 v
    keepFinds s (illegalWhen s (dealBad q))
    if 4096 < dealBase q + dealSlots q * dealSize q then keepFinds s (protFault (xword Config.wbufBytes) false true)
    else
      let s ← memRange s .read (dealSrc q) (dealExperts q * dealSize q * 128) 128
      let cores := (s.cores.filter (fun k => !s.hart.steward && k.2.holder == some s.hart.gang)).map (·.1)
      return ticketed s d 5 1 (.deal q 0 cores) ([], []) (fun t _ => t.dealIssued cores)) s

/-- Whether an instruction queued on a core still reads weight-buffer bytes of a slot (R279). -/
def readsSlot (s : State) (core off n : Nat) : Bool :=
  s.allHarts.any (fun h => h.1 / 8 == core && h.2.matrixQ.any (fun o => match o with
    | .mop _ k _ b mwb =>
      !mopSrc b.desc && (let size := (if b.desc.getLsbD 27 then 40 else 128) * k
        decide (128 * mwb < off + n) && decide (off < 128 * mwb + size))
    | _ => false))
where
  /-- Whether B comes from S-space. -/
  mopSrc (d : XWord) : Bool := d.getLsbD 26

/-- One image written to a core's next slot, if the core keeps the expert and a slot is left; the lines not read are 0. -/
def dealFill (k : Core) (d : BitVec 256) (e : Nat) (data : List Byte) : Core :=
  let k1 := { k with dealExpert := e + 1 }
  if k.keep.getLsbD e && decide (k.dealSlot < dealSlots d) then
    let off := 128 * (dealBase d + k.dealSlot * dealSize d)
    { k1 with wbuf := memWriteN k.wbuf off data, dealSlot := k.dealSlot + 1 }
  else k1

/-- The lines of one image, up to the first that cannot be read. -/
def dealRead (s : State) (cmd : Nat) (va : XWord) : List Nat → Eng (List Byte × Option Nat × State)
  | [] => .ok ([], none, s)
  | n :: ns =>
    match engReadGood s cmd (va + xword (128 * n)) 128 with
    | .error (.hold w) => .error (.hold w)
    | .error (.fail code t) => .ok ([], some code, t)
    | .ok (bs, s) =>
      match dealRead s cmd va ns with
      | .error e => .error e
      | .ok (rest, f, s) => .ok (bs ++ rest, f, s)

/-- The next passage of a deal: one expert's image past every core (R279, R341, R414). -/
def dealPoint (s : State) (cmd : Nat) (c : Cmd) (d : BitVec 256) (done : Nat) (cores : List Nat) : Point :=
  let e := done % dealExperts d
  let r := done / dealExperts d
  let bytes := 128 * dealSize d
  let older := s.cmds.any (fun o => decide (o.1 < cmd) && o.2.gang == c.gang && (match o.2.kind with | .deal .. => true | _ => false))
  -- the cores whose local stores the gang still holds: they alone take images
  let held := cores.filter (fun k => (s.coreAt k).holder == some c.gang)
  let s := held.foldl (fun s k => s.setCoreAt k (dealStart (s.coreAt k) e r)) s
  let taking := held.filter (fun k => (s.coreAt k).keep.getLsbD e && decide ((s.coreAt k).dealSlot < dealSlots d))
  let busy := taking.any (fun k => readsSlot s k (128 * (dealBase d + (s.coreAt k).dealSlot * dealSize d)) bytes)
  -- the passage waits while the gang, if it lives, is stopped on a core with its local stores (R367)
  let away := (mget? s.gangs c.gang).isSome && cores.any (fun k =>
    (s.coreAt k).saved.any (fun i => i.gang == c.gang)
      || ((s.coreAt k).moving.isSome && (s.coreAt k).holder == some c.gang))
  if older || away || (decide (0 < r) && busy) then .error (some .line)
  else
    (dealRead s cmd (dealSrc d + xword (e * bytes)) (span 0 (dealSize d))).point (fun (data, failed, s) =>
      let data := data ++ List.replicate (bytes - data.length) 0
      let s := held.foldl (fun s k => s.setCoreAt k (dealFill (s.coreAt k) d e data)) s
      let stop := fun (s : State) => s.dealEnded cmd c.gang held
      match failed with
      | some code => .ok ((stop s).finishCmd cmd code 0 done)
      | none =>
        if done + 1 = dealExperts d * dealRounds d then .ok ((stop s).finishCmd cmd 0 0 0)
        else .ok { s with cmds := mset s.cmds cmd { c with kind := .deal d (done + 1) cores, since := none } })
      (fun _ _ => .error none)

/-- DEAL_PASSAGE (R341). -/
def execDealPassage (cmd : Nat) (s : State) : Result :=
  pointStep "DEAL_PASSAGE" s (some cmd) (match mget? s.cmds cmd with
    | some c => (match c.kind with
      | .deal d done cores => (dealPoint (s.focus c.hart) cmd c d done cores).map (fun t => t.focus s.cur)
      | _ => .error none)
    | none => .error none)

/-! ### Ticket waits (R262, R320, R396) -/

/-- What TKWAIT and TKTEST do with a ticket that is complete: the ticket is free, and its status goes to x[rd] or, with EFT and
a failure code, to an ENGINE trap at the instruction's own address. -/
def collect (d : BitVec 5) (t : Ticket) (w : XWord) (s : State) : Result :=
  match preCommit s with
  | .error e => stopped s e
  | .ok s1 =>
    let freed := s1.setHart { s1.hart with tickets := s1.hart.tickets.filter (fun u => u.value != t.value) }
    if s1.hart.eft && decide (0x10 ≤ xbits w 0 8) then takeTrap freed { code := cENGINE, tv := w }
    else irreversible (fun s => .ok (s.setX d w)) freed

/-- TKWAIT and TKTEST; `pending` says what happens while the command is under way. -/
def ticketOp (d a : BitVec 5) (pending : Cmd → State → Eff State) (s : State) : Result :=
  let v := (s.x a).toNat
  match ticketOf s.hart v with
  | some t =>
    match t.status with
    | some w => collect d t w s
    | none =>
      irreversible (fun s => match mget? s.cmds t.cmd with
        | some c => pending c s
        | none => .error (.wait .ticket)) s
  | none =>
    irreversible (fun s => do
      illegalWhen s (decide (2 ^ 16 ≤ v))
      return s.setX d (statusWord 2 0 0 0 0)) s

/-- TKWAIT (R262). -/
def execTkwait (d a : BitVec 5) (_sh : BitVec 3) (s : State) : Result :=
  ticketOp d a (fun _ _ => .error (.wait .ticket)) s

/-- TKTEST (R262). -/
def execTktest (d a : BitVec 5) (_sh : BitVec 3) (s : State) : Result :=
  ticketOp d a (fun c s => .ok (s.setX d (statusWord 1 c.op c.maj 0 0))) s

end Machine
end Sys2Proof
end

