-- ==== Sys2Proof/Machine/Links.lean ====
section
/-! DEFINITION. Links that leave L0, return or fail, and the entries of contexts to Error (R424 to R428). -/

namespace Sys2Proof
namespace Machine

/-- Core cycles of 100 ms at 1,250 MHz (Table 1.2). -/
def retrainCycles : Nat := 125000000

/-- Whether a link has been out of L0 for 100 ms. -/
def linkOverdue (s : State) (link : Nat) : Bool :=
  match mget? s.dev.linksDown link with
  | some t => decide (t + retrainCycles ≤ s.gtime)
  | none => false

/-- LINKSTAT's bit of a link. -/
def setUp (d : Device) (link : Nat) (up : Bool) : Device :=
  if link = 0 then { d with hostUp := up }
  else
    let bit : BitVec 8 := 1 <<< (link - 1)
    { d with peersUp := if up then d.peersUp ||| bit else d.peersUp &&& ~~~bit }

/-- Whether a peer port has failed; the host link never counts. -/
def portFailed (d : Device) (link : Nat) : Bool := decide (0 < link) && d.pfail.getLsbD (link - 1)

/-- Harts that waited for a link execute their convoys again. -/
def State.releaseLinks (s : State) : State :=
  s.mapHarts (fun _ h => if h.wait = some .link then { h with wait := none, readySince := readyAt s.gtime } else h)

/-- LINK_DOWN (R424). -/
def execLinkDown (link : Nat) (s : State) : Result :=
  eventStep "LINK_DOWN" (
    if 8 < link ∨ (mget? s.dev.linksDown link).isSome ∨ portFailed s.dev link then none
    else some { s with dev := setUp { s.dev with linksDown := mset s.dev.linksDown link s.gtime } link false })

/-- LINK_RETRAINED (R424): within 100 ms, or the host link once it has failed (R426); RETRAIN stops at its last value. -/
def execLinkRetrained (link : Nat) (s : State) : Result :=
  eventStep "LINK_RETRAINED" (
    if (mget? s.dev.linksDown link).isNone ∨ (linkOverdue s link ∧ ¬(link = 0 ∧ s.dev.hostFailed)) then none
    else
      let d := setUp { s.dev with
        linksDown := mdel s.dev.linksDown link, hostFailed := s.dev.hostFailed && decide (link ≠ 0) } link true
      some ({ s with dev := { d with retrain := if d.retrain = 0xFFFF then d.retrain else d.retrain + 1 } }).releaseLinks)

/-- PEER_PORT_FAIL (R425): from now on accesses through the window fail and writes are discarded. -/
def execPeerPortFail (port : Nat) (s : State) : Result :=
  eventStep "PEER_PORT_FAIL" (
    if 7 < port ∨ linkOverdue s (1 + port) = false then none
    else
      let d := s.dev
      some ({ s with dev := { d with
        linksDown := mdel d.linksDown (1 + port), pfail := d.pfail ||| (1 <<< port) } }).releaseLinks)

/-- A context begins to enter Error (R427, steps 1 and 2); the rest follows once its started work is done. -/
def State.beginError (s : State) (ctx : Nat) : State :=
  let c := s.ctxAt ctx
  if (c.state = .locked ∨ c.state = .run) ∧ c.pending.isEmpty then
    let s := s.stopContext ctx
    s.setCtxAt ctx { s.ctxAt ctx with pending := [.error] }
  else s

/-- The host link fails (R426): the IDE streams are lost, and every context in Locked or Run begins to enter Error.  Device
copies of host memory lines are dropped; this model performs every write at its home at once, so none is lost. -/
def hostLinkLost (s : State) : State :=
  let s := { s with dev := { s.dev with ideKeys := [], hostFailed := true } }
  (mkeys s.ctxs).foldl State.beginError s

/-- HOST_LINK_FAIL (R426). -/
def execHostLinkFail (s : State) : Result :=
  eventStep "HOST_LINK_FAIL" (if linkOverdue s 0 && !s.dev.hostFailed then some (hostLinkLost s) else none)

/-- HOST_LINK_RESET (R426): a hot reset, a link disable or a secondary bus reset; the link leaves L0. -/
def execHostLinkReset (s : State) : Result :=
  .next (hostLinkLost { s with
    dev := setUp { s.dev with linksDown := mset s.dev.linksDown 0 s.gtime } 0 false })

/-- IDE_INTEGRITY_FAILURE (R427): the TLP is discarded unperformed. -/
def execIdeIntegrityFailure (ctx : Nat) (s : State) : Result := .next (s.beginError ctx)

/-- TDISP_VIOLATION (R427). -/
def execTdispViolation (ctx : Nat) (s : State) : Result := .next (s.beginError ctx)

/-- The release of a context begins (R379, steps 1 and 2). -/
def State.beginRelease (s : State) (ctx : Nat) : State :=
  let s := s.stopContext ctx
  let c := s.ctxAt ctx
  s.setCtxAt ctx { c with pending := c.pending ++ [.release] }

/-- STOP_INTERFACE (R379, R427): a context that is Free has nothing to release; a release under way is not begun again. -/
def stopInterface (s : State) (ctx : Nat) : State :=
  let c := s.ctxAt ctx
  if 63 < ctx then { s with dev := { s.dev with response := .tdispError ctx } }
  else if c.pending.any (· == .release) then s
  else if c.state = .free then { s with dev := { s.dev with response := .tdispOk ctx } }
  else s.beginRelease ctx

/-- STOP_INTERFACE (R379). -/
def execStopInterface (ctx : Nat) (s : State) : Result := .next (stopInterface s ctx)

/-- FLR of a virtual function acts as STOP_INTERFACE (R427). -/
def execFlr (ctx : Nat) (s : State) : Result := .next (stopInterface s ctx)

end Machine
end Sys2Proof
end

