-- ==== Sys2Proof/Machine/Sync.lean ====
section
/-! DEFINITION. Major 0x0C: synchronisation, claims, timed rows, LAUNCH and XINV (R212 to R225).  Each is irreversible and
forms a convoy of one. -/

namespace Sys2Proof
namespace Machine

/-- The gang of the executing hart. -/
def State.gang? (s : State) : Option Gang := mget? s.gangs s.hart.gang

def State.setGang (s : State) (n : Nat) (g : Gang) : State := { s with gangs := mset s.gangs n g }

/-- FENCE (R213): what the writers in its scope have written is executed from now on (R90), and the hart's own stores are ordered
before its later walks (R98).  Every access of this model is performed when it takes place, so what FENCE waits for has
happened. -/
def execFence (sc : BitVec 3) (s : State) : Result :=
  irreversible (fun s => .ok (s.fence sc.toNat)) s

/-- SCOMMIT (R214): the commit that every irreversible instruction makes, and nothing else. -/
def execScommit (s : State) : Result :=
  irreversible (fun s => .ok s) s

/-- The barrier that x[ra] names; a number above 15 raises ILLEGAL (R215). -/
def barrierOf (s : State) (a : BitVec 5) : Eff Nat := if xbits (s.x a) 4 60 ≠ 0 then illegal s else .ok (s.x a).toNat

/-- An arrival (R215): the generation it belongs to, and the state after it.  A generation more than 2 ahead of the completed
count waits.  A completion that the arrival makes due comes next. -/
def arrive (s : State) (b : Nat) : Eff (Nat × State) :=
  match s.gang? with
  | none => illegal s
  | some g =>
    let bar := g.barrier b
    let k := mgetD bar.arrived s.hart.memberIdx 0 + 1
    if bar.completed + 2 < k then .error (.wait .arrive)
    else
      let g := { g with bars := mset g.bars b { bar with arrived := mset bar.arrived s.hart.memberIdx k } }
      let s := s.setGang s.hart.gang g
      .ok (k, if bar.completed < g.reached b then s.soon (.own .barrier s.hart.gang b) else s)

/-- BAR (R216): BARARR, then the wait of BARWAIT on the generation arrived at. -/
def execBar (d a : BitVec 5) (_sc : BitVec 3) (s : State) : Result :=
  irreversibleThen (fun s => do
    let b ← barrierOf s a
    let (k, s) ← arrive s b
    return (s.setX d (xword k), fun h => { h with wait := some (.barrier b k) })) s

/-- BARARR (R216). -/
def execBararr (d a : BitVec 5) (_sc : BitVec 3) (s : State) : Result :=
  irreversible (fun s => do
    let b ← barrierOf s a
    let (k, s) ← arrive s b
    return s.setX d (xword k)) s

/-- BARWAIT (R216): waits until the completed count reaches x[rb]. -/
def execBarwait (a b : BitVec 5) (_sc : BitVec 3) (s : State) : Result :=
  irreversible (fun s => do
    let n ← barrierOf s a
    match s.gang? with
    | none => illegal s
    | some g =>
      if (s.x b).toNat ≤ (g.barrier n).completed then return s
      else .error (.wait (.barrier n (s.x b).toNat))) s

/-- CLAIM (R40, R217): the claim is one access to the pair; the strip it opens has its checkpoint before it (R27). -/
def execClaim (d a b : BitVec 5) (sc : BitVec 3) (s : State) : Result :=
  match checkMember s (.claim d a b sc) with
  | .error e => stopped s e
  | .ok () =>
    opensStrip (fun s => do
      let req := (s.x b).toNat
      illegalWhen s (req == 0)
      let va := s.x a
      let (pa, s) ← orderedAccess s .update va 16 sc
      let next := intOf true 64 (xword (leNat (memReadN s.mem pa 8)))
      let last := intOf true 64 (xword (leNat (memReadN s.mem (pa + 8) 8)))
      let n := min (min req (rowSize s)) (last - next).toNat
      let s := if n = 0 then s else s.homeWrite 0 s.hart.gang va pa (leBytes 8 (wrapBits 64 (next + n)).toNat)
      let s := s.order
      let s := s.setX d (wrapBits 64 next)
      let s := s.setRegs { s.regs with vl := n }
      let (s, w) := takeLanes s
      return (s, waitIf w .lanesClaim)) s

/-- WAITT (R44, R218): lateness to x[rd], and the wait until the next convoy may issue. -/
def execWaitt (d a : BitVec 5) (s : State) : Result :=
  irreversibleThen (fun s =>
    let t := (s.x a).toNat
    let now := s.gtime
    let due := if s.hart.timed then (if now ≤ t then t + 3 else now + 3) else t
    .ok (s.setX d (xword (now - t)), fun h =>
      { h with
        wait := if now < due then some (.time due) else none
        issueAt := if h.timed then some due else none })) s

/-- The rows of a scratchpad from a row on. -/
def rowsOf (m : List Host.Cell) (row n : Nat) : List (List Byte) := (span row n).map (fun r => memReadN m (64 * r) 64)

/-- SENDT (R45, R219, R220); one to a stopped member waits (R367).  PROT names the first byte of the first row that is not allowed. -/
def execSendt (a b : BitVec 5) (s : State) : Result :=
  irreversible (fun s => do
    let r := s.x a
    let src := xbits r 0 15
    let count := if xbits r 15 6 = 0 then 64 else xbits r 15 6
    let dst := xbits r 21 15
    let mem := xbits r 36 12
    match s.gang? with
    | none => illegal s
    | some g =>
      illegalWhen s (decide (g.size ≤ mem))
      spRange s false (xword (64 * src)) (64 * count) 1
      let key := mgetD g.members mem 0
      let to_ := s.hartAt key
      let k := s.coreAt (key / 8)
      if to_.gang = s.hart.gang ∧ to_.memberIdx = mem ∧ to_.live = .stopped then .error (.wait .receiver)
      else if k.holder.isNone then protFault (xword (64 * dst)) true true
      else if k.request < 64 * (dst + count) then protFault (xword (max (64 * dst) k.request)) true true
      else
        let lat := if key / 8 / Config.coresPerDie = s.dieId then 160 else 320
        let t : Transfer :=
          { slot := s.x b, stamp := BitVec.ofNat 16 (xbits r 48 16), gang := s.hart.gang, member := mem, hart := key,
            core := key / 8, dst := dst, rows := rowsOf s.core.scratch src count,
            due := if s.gtime + lat ≤ (s.x b).toNat then some (s.x b).toNat else none }
        return { s with transfers := s.transfers ++ [t] }) s

/-- The stamp word of STAMP (R395). -/
def stampWord (r : Option Arrival) (t : XWord) : XWord :=
  xword ((match r with | some r => r.stamp.toNat | none => 2 ^ 16) + 2 ^ 32 * xbits t 0 32)

/-- RECVCHK (R221, R395). -/
def execRecvchk (d a : BitVec 5) (s : State) : Result :=
  irreversible (fun s =>
    let t := s.x a
    let r := s.hart.arrivals.find? (fun r => r.slot == t)
    match r with
    | some x =>
      if x.stamp = s.hart.stampx then
        .ok ((s.setHart { s.hart with arrivals := s.hart.arrivals.filter (fun y => y.slot != t) }).setX d (xword x.count))
      else .error (.trap { code := cSTAMP, tv := stampWord r t })
    | none => .error (.trap { code := cSTAMP, tv := stampWord r t })) s

/-- WAITADDR (R222), an acquire at its scope (R210): completes only on a value other than x[rb].  A read that finds the old value
has been made all the same: what its walk found is recorded (R406). -/
def execWaitaddr (d a b : BitVec 5) (sc : BitVec 3) (s : State) : Result :=
  match preCommit s with
  | .error e => stopped s e
  | .ok s1 =>
    match orderedAccess s1 .read (s1.x a) 8 sc with
    | .error e => stopped s1 e
    | .ok (pa, t) =>
      let v := leNat (seenBytes t pa 8)
      if xword v = t.x b then stopped t (.wait (.addr d a b sc)) else irreversible (fun s => .ok (s.setX d (xword v))) t

/-- YIELD (R223, R364): the most recent among the ready harts of its class, those included whose instant opens the next cycle. -/
def execYield (s : State) : Result :=
  irreversibleThen (fun s => .ok (s, fun h => { h with readySince := yieldAt s.gtime })) s

/-- LAUNCH (R224, R356 to R358). -/
def execLaunch (d a : BitVec 5) (s : State) : Result :=
  irreversible (fun s => do
    let va := s.x a
    let (bytes, s) ← loadBytes s .read va 64 64 0
    let spec := BitVec.ofNat 512 (leNat bytes)
    keepFinds s (illegalWhen s (specBad spec))
    let named := (specDeps spec).filter (· ≠ 0)
    keepFinds s (illegalWhen s (named.any (fun t => (ticketOf s.hart t).isNone)))
    if launchFull s.ctx (specClass spec) || decide (Config.maxTickets ≤ s.hart.tickets.length) then return s.setX d 0
    else
      let l : Launch :=
        { spec := spec, record := va, launcher := some (s.cur, s.nextCmd), rootHseq := none,
          deps := named.filterMap (fun t => (ticketOf s.hart t).map (·.cmd)), acceptedAt := s.gtime, order := s.nextCmd,
          blocking := false, eligibleAt := none }
      let s := s.issue { hart := s.cur, core := s.coreId, ctx := s.hart.ctx, gang := s.hart.gang, op := 11, maj := 7,
                         kind := .launch, lines := [], late := [] } d
      return s.enqueue s.hart.ctx l) s

/-- XINV (R225, R422): it acts as FENCE, drops the entries of every level that cover the addresses, from the caches and for
every hart in its scope (R98), and releases the faults held on the pages that it covers. -/
def execXinv (a b : BitVec 5) (sc : BitVec 3) (s : State) : Result :=
  irreversible (fun s =>
    let va := s.x a
    if !canonical va then .error (.trap { code := cXLAT, tv := va })
    else
      let s := s.fence sc.toNat
      let first := xbits va 12 45
      let n := (s.x b).toNat
      let covers := fun p => decide (n = 0) || (decide (first ≤ p) && decide (p < first + n))
      let c := s.hart.ctx
      let x : Xinv :=
        { asid := s.ctx.asid, first := first, pages := n, scope := sc.toNat, core := s.coreId, upTo := s.written.length }
      let inScope := fun (e : TlbEntry) => sc.toNat = 3 || e.die = s.dieId
      let s := { s with
        xinvs := x :: s.xinvs
        tlb := s.tlb.filter (fun e => !(e.asid = x.asid && x.covers e.first e.reach && inScope e)),
        leaders := s.leaders.filter (fun l => !(l.ctx = c && covers l.page)) }
      .ok (s.releasePages c covers)) s

end Machine
end Sys2Proof
end

