-- ==== Sys2Proof/Machine/System.lean ====
section
/-! DEFINITION. Major 0x0D: control registers, TRAP, TRET and the steward's operations (R226 to R231). -/

namespace Sys2Proof
namespace Machine

/-! ### Control registers (Table 10.4 and the maps it names) -/

def boolBit (b : Bool) (i : Nat) : Nat := if b then 2 ^ i else 0

def tcWord (t : TrapRegs) : Nat :=
  t.cause.toNat + boolBit t.restart 8 + boolBit t.fetch 9 + boolBit t.write 10 + boolBit t.sspace 11
    + 2 ^ 12 * t.member.toNat + 2 ^ 32 * t.index.toNat

def tsWord (t : TrapRegs) : Nat := t.pfx.toNat + boolBit t.pfxv 25 + 2 ^ 26 * t.ptl.toNat

/-- The trap register of a level at offset 0 TC, 1 TP, 2 TV or 3 TS. -/
def trapRegRead (t : TrapRegs) (i : Nat) : Nat :=
  match i with
  | 0 => tcWord t
  | 1 => t.tp.toNat
  | 2 => t.tv.toNat
  | _ => tsWord t

def vownWord (k : Core) : Nat := k.owner.toNat + boolBit k.owned 8 + boolBit k.clean 9

/-- The value of a CSR of the executing hart. -/
def csrRead (s : State) (c : BitVec 12) : XWord :=
  let h := s.hart
  let r := h.regs
  xword (match c.toNat with
    | 0x000 => r.vl
    | 0x001 => r.vr
    | 0x002 => h.vlmax
    | 0x003 => r.gcode.toNat + boolBit r.tailZero 2
    | 0x008 => h.scp.toNat
    | 0x009 => r.pfxFields.toNat + boolBit r.pfxValid 32
    | 0x00A => r.frm.toNat
    | 0x00B => r.fflags.toNat
    | 0x00C => r.seed.toNat
    | 0x010 => s.gtime
    | 0x012 => h.stampx.toNat
    | 0x013 => h.cyb.toNat
    | 0x014 => h.lat.toNat
    | 0x015 => h.tspanOff.toNat + 2 ^ 6 * h.tspanLen.toNat
    | 0x020 => Config.mtile
    | 0x021 => 2 ^ 7 * h.mwb.toNat
    | 0x030 => h.tl.toNat + boolBit h.eft 2
    | 0x031 => 2 ^ 10 * h.thb.toNat
    | 0x032 => trapRegRead h.t1 0
    | 0x033 => trapRegRead h.t1 1
    | 0x034 => trapRegRead h.t1 2
    | 0x035 => trapRegRead h.t1 3
    | 0x036 => trapRegRead h.t2 0
    | 0x037 => trapRegRead h.t2 1
    | 0x038 => trapRegRead h.t2 2
    | 0x039 => trapRegRead h.t2 3
    | 0x040 => h.ctx + 2 ^ 16 * s.ctx.asid.toNat
    | 0x041 => s.slotId
    | 0x042 => (s.gidOf h.gang).toNat
    | 0x043 => (match s.gang? with | some g => g.size | none => 0)
    | 0x044 => h.memberIdx
    | 0x050 => vownWord s.core
    | _ => 0)

/-- The generators that a seed gives (R60). -/
def seedGens (seed : BitVec 32) : Vector (BitVec 32) 64 :=
  Vector.ofFn (fun l : Fin 64 =>
    let v := seed ^^^ (BitVec.ofNat 32 (l.val * 0x9E3779B9))
    if v = 0 then 1 else v)

/-- A trap register of a level written; TC and PTL are read-only. -/
def trapRegWrite (t : TrapRegs) (i : Nat) (v : XWord) : TrapRegs :=
  match i with
  | 1 => { t with tp := v.setWidth 57 }
  | 2 => { t with tv := v }
  | 3 => { t with pfx := v.setWidth 25, pfxv := v.getLsbD 25 }
  | _ => t

/-- A CSR's fields written from a value; RO and RSV fields keep theirs, and a field whose map limits what is written follows
its map (R226). -/
def csrWrite (s : State) (c : BitVec 12) (v : XWord) : State :=
  let h := s.hart
  let r := h.regs
  match c.toNat with
  | 0x009 => s.setRegs { r with pfxFields := v.setWidth 25, pfxValid := v.getLsbD 32 }
  | 0x00A => if xbits v 0 3 < 6 then s.setRegs { r with frm := v.setWidth 3 } else s
  | 0x00B => s.setRegs { r with fflags := v.setWidth 7 }
  | 0x00C => s.setRegs { r with seed := v.setWidth 32, gens := seedGens (v.setWidth 32) }
  | 0x012 => s.setHart { h with stampx := v.setWidth 16 }
  | 0x013 => s.setHart { h with cyb := v.setWidth 32 }
  | 0x014 => s.setHart { h with lat := v.setWidth 40 }
  | 0x015 =>
    s.setHart { h with
      tspanOff := v.setWidth 6
      tspanLen := if xbits v 6 7 ≤ 64 then BitVec.ofNat 7 (xbits v 6 7) else h.tspanLen }
  | 0x021 => s.setHart { h with mwb := BitVec.ofNat 12 (xbits v 7 12) }
  | 0x030 => s.setHart { h with eft := v.getLsbD 2 }
  | 0x031 => s.setHart { h with thb := BitVec.ofNat 47 (xbits v 10 47) }
  | 0x033 => s.setHart { h with t1 := trapRegWrite h.t1 1 v }
  | 0x034 => s.setHart { h with t1 := trapRegWrite h.t1 2 v }
  | 0x035 => s.setHart { h with t1 := trapRegWrite h.t1 3 v }
  | 0x037 => s.setHart { h with t2 := trapRegWrite h.t2 1 v }
  | 0x038 => s.setHart { h with t2 := trapRegWrite h.t2 2 v }
  | 0x039 => s.setHart { h with t2 := trapRegWrite h.t2 3 v }
  | _ => s

/-- CSRW, CSRS and CSRC: the old value to x[rd] after the write of `f old x[ra]`; writes to FRM, FFLAGS and SEED belong to
the strip, every other one is irreversible (R226). -/
def csrOp (i : Instr) (d a : BitVec 5) (c : BitVec 12) (f : XWord → XWord → XWord) (s : State) : Result :=
  let eff := fun (s : State) =>
    let old := csrRead s c
    (.ok ((csrWrite s c (f old (s.x a))).setX d old) : Eff State)
  if c = 0x00A ∨ c = 0x00B ∨ c = 0x00C then ordinaryChecked i eff s else irreversibleChecked i eff s

/-- CSRR (R226). -/
def execCsrr (d : BitVec 5) (c : BitVec 12) (s : State) : Result :=
  ordinaryChecked (.csrr d c) (fun s => .ok (s.setX d (csrRead s c))) s

/-- CSRW (R226). -/
def execCsrw (d a : BitVec 5) (c : BitVec 12) (s : State) : Result :=
  csrOp (.csrw d a c) d a c (fun _ v => v) s

/-- CSRS (R226). -/
def execCsrs (d a : BitVec 5) (c : BitVec 12) (s : State) : Result :=
  csrOp (.csrs d a c) d a c (fun old v => old ||| v) s

/-- CSRC (R226). -/
def execCsrc (d a : BitVec 5) (c : BitVec 12) (s : State) : Result :=
  csrOp (.csrc d a c) d a c (fun old v => old &&& ~~~v) s

/-! ### Traps (R228, R229) -/

/-- TRAP (R228): the commit, then TRAPI with x[ra]. -/
def execTrap (a : BitVec 5) (_i : BitVec 12) (s : State) : Result :=
  irreversible (fun s => .error (.trap { code := cTRAPI, tv := s.x a })) s

/-- TRET (R229).  It is a control transfer: a TPn whose bits 1:0 are not 0 raises ALIGN at the TRET (R101). -/
def execTret (s : State) : Result :=
  let tp := (trapRegsOf s.hart s.hart.tl).tp.signExtend 64
  if s.hart.tl = 0 then stopped s (.trap { code := cILLEGAL, tv := s.regs.pc })
  else if !alignedTo tp 4 then stopped s (.trap { code := cALIGN, tv := tp })
  else
    let t := returnTrap (s.setHart { s.hart with undo := none, wait := none, readySince := readyAt s.gtime })
    if atRecord t t.regs.pc then exitMember t t else .next t

/-! ### Steward operations (Tables 10.6 and 10.7) -/

/-- The descriptor of Table 10.6. -/
structure StwDesc where
  core : Nat
  slot : Nat
  ctx : Nat
  kind : Bool
  addr : Nat
deriving DecidableEq, Repr

def StwDesc.of (v : Nat) : Option StwDesc :=
  let d : StwDesc :=
    { core := bitsAt v 0 10, slot := bitsAt v 10 3, ctx := bitsAt v 16 6, kind := v.testBit 24, addr := bitsAt v 64 52 }
  if bitsAt v 13 3 ≠ 0 ∨ bitsAt v 22 2 ≠ 0 ∨ bitsAt v 25 39 ≠ 0 ∨ bitsAt v 116 12 ≠ 0 ∨ Config.cores ≤ d.core
      then none
  else some d

def allOnes : XWord := BitVec.allOnes 64

/-- An STW: the descriptor at x[xa], 16-byte aligned, then the operation, which gives x[rd] and what is left of the hart, or
waits; a bad descriptor changes nothing and gives all ones (R230). -/
def stwOp (i : Instr) (d a : BitVec 5) (op : StwDesc → State → Eff (State × XWord × (Hart → Hart))) (s : State) : Result :=
  match checkMember s i with
  | .error e => stopped s e
  | .ok () =>
    irreversibleThen (fun s => do
      let va := s.x a
      if !alignedTo va 16 then .error (.trap { code := cALIGN, tv := va })
      else
        let (bytes, s) ← loadBytes s .read va 16 16 0
        match StwDesc.of (leNat bytes) with
        | none => return (s.setX d allOnes, id)
        | some t =>
          let (s, v, last) ← op t s
          return (s.setX d v, last)) s

/-- The save plaintext of a hart (R231).  COUNT of its header holds VLMAX, from which the layout follows; bytes 52 to 55, which R231 does
not name, are 0 (DESIGN CHOICE, log entry 40). -/
def savePlain (h : Hart) : List Byte :=
  let w := 2 ^ h.wcode.toNat
  let regs := (h.regs.vregs.toList.take h.vn)
  let decl := h.vlmax + 2 ^ 20 * h.wcode.toNat + 2 ^ 24 * h.vn
  leBytes 8 decl ++ leBytes 8 (h.regs.gcode.toNat + boolBit h.regs.tailZero 2)
    ++ h.regs.vregs.toList.map (fun v => BitVec.ofNat 8 v.com.tag.code)
    ++ h.regs.qtags.toList.map (fun t => BitVec.ofNat 8 t.code) ++ List.replicate 12 0
    ++ regs.flatMap (fun v => (span 0 h.vlmax).flatMap (fun i => leBytes w (v.com.elems.getD i 0).toNat))
    ++ h.regs.masks.toList.flatMap (fun m => leBytes h.vlmax m.com)

/-- A hart's vector state restored from a plaintext; none where its header is no declaration or its length is wrong. -/
def restorePlain (h : Hart) (pt : List Byte) : Option Hart :=
  let v := leNat (pt.take 8)
  let n := bitsAt v 24 6
  let wcode := bitsAt v 20 2
  let w := 2 ^ wcode
  let m := bitsAt v 0 17
  let shape := leNat ((pt.drop 8).take 8)
  let tags := (pt.drop 16).take 32
  let qtags := (pt.drop 48).take 4
  let body := pt.drop 64
  if 32 < n ∨ 65536 < m ∨ body.length ≠ n * m * w + 8 * m then none
  else
    let tagOf := fun (b : Byte) => (Fmt.ofCode? b.toNat).getD .bits
    let reg := fun (j : Nat) =>
      let bytes := (body.drop (j * m * w)).take (m * w)
      ((pieces w m bytes).map (fun e => xword (leNat e))).toArray
    let masks := body.drop (n * m * w)
    some { h with
      vlmax := m, vn := n, wcode := BitVec.ofNat 2 wcode, scrubbed := false
      regs := { h.regs with
        gcode := BitVec.ofNat 2 shape, tailZero := shape.testBit 2
        vregs := Vector.ofFn (fun j : Fin 32 =>
          { com := { tag := tagOf (tags.getD j.val 0), elems := if j.val < n then reg j.val else #[] }, twin := none })
        masks := Vector.ofFn (fun j : Fin 8 => { com := leNat ((masks.drop (j.val * m)).take m), twin := none })
        qtags := Vector.ofFn (fun j : Fin 4 => tagOf (qtags.getD j.val 0)) } }

/-- A hart's registers, twins, masks and tags zeroed and its declaration released (Table 10.7, SCRUB kind 0).  A reservation before
its first VDECL stays (R360). -/
def scrubHart (h : Hart) : Hart :=
  { h with
    vlmax := 0, vn := 0, scrubbed := h.scrubbed || decide (h.vn * h.vlmax ≠ 0)
    regs := { h.regs with
      vregs := Regs.initial.vregs, masks := Regs.initial.masks, qtags := Regs.initial.qtags } }

/-- Whether no declaration of the owner is left on a core (R368). -/
def noDeclaration (s : State) (core : Nat) : Bool :=
  let k := s.coreAt core
  !(s.allHarts.any (fun h => h.1 / 8 = core && h.2.ctx = k.owner.toNat && h.2.live ≠ .free && h.2.vn * h.2.vlmax ≠ 0))

/-- The wait of a steward's access to n bytes of memory: that of the first of its lines that is held (R290, R316, R322, R424). -/
def rangeWait (s : State) (pa n : Nat) : Eff Unit :=
  match (span (pa / 128) ((pa + n + 127) / 128 - pa / 128)).findSome? (fun l => accessWait s (128 * l)) with
  | some w => .error (.wait w)
  | none => .ok ()

/-- The note of an image written for a context (R379); what it overwrites is no image any more. -/
def State.noteImage (s : State) (ctx pa n : Nat) : State :=
  let s := { s with ctxs := mmap (fun _ c => { c with images := c.images.flatMap (cutRange pa n) }) s.ctxs }
  s.setCtxAt ctx { s.ctxAt ctx with images := (pa, n) :: (s.ctxAt ctx).images }

/-- STW VSAVE (Table 10.7): the IV is a free value.  An ADDR that is not 4 KiB aligned ends it as a bad descriptor (log entry
40). -/
def execVsave (d a : BitVec 5) (s : State) : Result :=
  stwOp (.vsave d a) d a (fun t s =>
    if t.addr % 4096 ≠ 0 then .ok (s, allOnes, id)
    else do
      let pt := savePlain (s.hartAt (8 * t.core + t.slot))
      rangeWait s t.addr (pt.length + 28)
      let iv := leBytes 8 (Config.free s.free).toNat ++ leBytes 4 (Config.free (s.free + 1)).toNat
      let s := s.draw.draw
      let image := gcmSeal (s.ctxAt t.ctx).key iv pt
      return ((s.rangeWrite 0 s.hart.gang (xword t.addr) t.addr image).noteImage t.ctx t.addr (pt.length + 28),
        xword (pt.length + 28), id)) s

/-- The length of an image whose header is the first decrypted block: from its declaration. -/
def imageLength (key : BitVec 256) (head : List Byte) : Nat :=
  let ks := roundKeys (keyBytes key)
  let v := leNat ((ctrBlocks ks (head.take 12) 1 2 ((head.drop 12).take 16)).take 8)
  64 + bitsAt v 24 6 * bitsAt v 0 17 * 2 ^ bitsAt v 20 2 + 8 * bitsAt v 0 17 + 28

/-- The harts of a context that wait for VOWN on a core, and whose declaration does not wait for a VRESTORE, go on (R368). -/
def State.releaseVown (s : State) (core ctx : Nat) : State :=
  let gone := fun (k : Nat) (h : Hart) => decide (k / 8 = core) && decide (h.ctx = ctx) && h.wait == some .vown && !h.scrubbed
  let t := s.mapHarts (fun k h => if gone k h then { h with wait := none, readySince := readyAt s.gtime } else h)
  { t with dev := { t.dev with vownRaised := t.dev.vownRaised.filter (fun k => !gone k (s.hartAt k)) } }

/-- STW VRESTORE (Table 10.7).  An image with a bad unit does not authenticate (log entry 57), and its mismatched units are
poisoned and recorded (R406).  With the image back, a hart that waits for VOWN goes on, once its context owns the file (Table
21.5). -/
def execVrestore (d a : BitVec 5) (s : State) : Result :=
  stwOp (.vrestore d a) d a (fun t s =>
    if t.addr % 4096 ≠ 0 then .ok (s, allOnes, id)
    else do
      let key := (s.ctxAt t.ctx).key
      rangeWait s t.addr 28
      let n := imageLength key (memReadN s.mem t.addr 28)
      rangeWait s t.addr n
      if (span t.addr n).any (badByte s) then
        return (s.foundBad 0 s.hart.gang (((span t.addr n).filter (badByte s)).map (fun a => (a / 2, xword a))), allOnes, id)
      else
      match gcmOpen key (memReadN s.mem t.addr n) with
      | none => return (s, allOnes, id)
      | some pt =>
        match restorePlain (s.hartAt (8 * t.core + t.slot)) pt with
        | none => return (s, allOnes, id)
        | some h =>
          let s := s.setHartAt (8 * t.core + t.slot) h
          let k := s.coreAt t.core
          return (if k.owned && k.owner.toNat == h.ctx then s.releaseVown t.core h.ctx else s, 0, id)) s

/-- STW SCRUB (Table 10.7); what fails its read-back is a free value (R434). -/
def execScrub (d a : BitVec 5) (s : State) : Result :=
  stwOp (.scrub d a) d a (fun t s =>
    if t.kind then .ok (scrubContext s.draw t.ctx (Config.failing s.free), 0, id)
    else
      let key := 8 * t.core + t.slot
      let s := s.setHartAt key (scrubHart (s.hartAt key))
      let k := s.coreAt t.core
      .ok (s.setCoreAt t.core { k with clean := k.clean || noDeclaration s t.core }, 0, id)) s

/-- STW CTXKILL (Table 10.7): the kill, and the wait until its scrub and records are done, where there is one to wait for. -/
def execCtxkill (d a : BitVec 5) (s : State) : Result :=
  stwOp (.ctxkill d a) d a (fun t s =>
    let s := s.killContext t.ctx 0 2 0 0 0 0
    .ok (s, 0, fun h => { h with wait := if (s.ctxAt t.ctx).pending.any Pending.isKill then some (.kill t.ctx) else none })) s

/-- STW SETOWN (Table 10.7).  The harts that wait for the file go on when the steward resumes them, after any VRESTORE (R368, Table
21.5). -/
def execSetown (d a : BitVec 5) (s : State) : Result :=
  stwOp (.setown d a) d a (fun t s =>
    let k := s.coreAt t.core
    if k.clean then
      .ok (s.setCoreAt t.core { k with owner := BitVec.ofNat 6 t.ctx, owned := true, clean := false }, 0, id)
    else .ok (s, allOnes, id)) s

end Machine
end Sys2Proof
end

