-- ==== Sys2Proof/Machine/Sched.lean ====
section
/-! DEFINITION. What the device decides about lanes, launches, members, waits, pre-emption and kills (R24 to R26, R44, R76, R215,
R220, R255, R359 to R367, R398, R403 to R405, R422, and the ends of R379, R400 and R427). -/

namespace Sys2Proof
namespace Machine

/-! ### Lanes -/

def isWaiting (h : Hart) : Bool := h.wait.isSome

/-- Whether the harts that wait for lanes on a core take away those of hart key `k`: one of the same or a higher class after
4,096 cycles (R25), or a timed hart (R26): every hart that is not timed, needed or not (log entry 56). -/
def lanesDue (s : State) (k : Nat) : Bool :=
  let h := s.hartAt k
  let core := s.coreAt (k / 8)
  let waiters := core.laneWait.map (fun w => s.hartAt (8 * (k / 8) + w.1))
  !h.timed && lanesHeld core (k % 8) != 0
    && ((decide (h.laneSince + 4096 ≤ s.gtime) && waiters.any (fun w => decide (h.cls.toNat ≤ w.cls.toNat)))
      || waiters.any (fun w => w.timed))

/-- The instruction at a virtual address with its word, as far as the executing hart can fetch it: a word that it would wait for,
or that is poisoned, is none (R407). -/
def instrAt (s : State) (a : XWord) : Option (Instr × Word) :=
  match fetchWord s a with
  | .ok (w, _) => (match decodeWord w with | .ok i => some (i, w) | .error _ => none)
  | .error _ => none

/-- The machine as a hart reads it for the next word at its own PC. -/
def State.asHart (s : State) (k : Nat) : State := { s with cur := k, hart := s.hartAt k }

/-- A convoy boundary of an implicit checkpoint or of a stop, for the executing hart: when a prefix comes next, the device may
place the boundary after it, and latches it (R116). -/
def latchPrefix (s : State) : State :=
  match instrAt s s.regs.pc with
  | some (i, w) =>
    if !i.isPfx || s.regs.pfxValid then s
    else
      let t := s.draw
      if Config.happens s.free then t.setRegs { t.regs with pc := t.regs.pc + 4, pfxFields := fld w 0 25, pfxValid := true }
      else t
  | none => s

/-- LANE_HOLD_EXPIRY: the implicit checkpoint of hart h, before any prefix of its next convoy or after it, and its wait for
lanes.  At trap levels 1 and 2, which have no checkpoint (R32), the boundary stands before the prefix (R116; log entry 13). -/
def execLaneHoldExpiry (h : Nat) (s : State) : Result :=
  eventStep "LANE_HOLD_EXPIRY" (
    let t := s.focus h
    if t.hart.live ≠ .running || isWaiting t.hart || t.hart.undo.isSome || !queuesEmpty t.regs || (commitWait t).isSome
        || !lanesDue s h then none
    else
      let t := t.settle
      let t := if t.hart.tl = 0 then (latchPrefix t).openStrip (latchPrefix t).regs.pc else t
      let t := t.setCore (joinLaneWait (dropLanes t.core t.slotId) t.slotId t.gtime)
      some ((t.setHart { t.hart with wait := some .lanesClaim }).focus s.cur))

/-- Position of a slot after the one served last (R24). -/
def laneRank (last slot : Nat) : Nat := (slot + 7 - last % 8) % 8

/-- The waiting hart served next: a timed one first; else the earliest, the lowest slot after the one served last on a tie
(R24, R26).  The answer is its slot and the groups it takes. -/
def laneNext (s : State) (c : Nat) : Option (Nat × Nat) :=
  let k := s.coreAt c
  let hartOf := fun (slot : Nat) => s.hartAt (8 * c + slot)
  match k.laneWait.find? (fun w => (hartOf w.1).timed) with
  | some w =>
    let need := (hartOf w.1).laneReq - lanesHeld k w.1
    if need ≤ lanesFree k then some (w.1, need) else none
  | none =>
    let best := k.laneWait.foldl (fun (b : Option (Nat × Nat)) w => match b with
      | none => some w
      | some x =>
        if w.2 < x.2 ∨ (w.2 = x.2 ∧ laneRank k.laneLast w.1 < laneRank k.laneLast x.1) then some w else some x) none
    match best with
    | none => none
    | some w => if lanesFree k = 0 then none else some (w.1, (hartOf w.1).laneReq)

/-- LANE_GRANT (R24); the hold is counted afresh from the grant (log entry 56). -/
def execLaneGrant (core : Nat) (s : State) : Result :=
  eventStep "LANE_GRANT" (match laneNext s core with
    | none => none
    | some (slot, n) =>
      let s := s.setCoreAt core (giveLanes (s.coreAt core) slot n)
      let h := s.hartAt (8 * core + slot)
      some (s.setHartAt (8 * core + slot) { h with wait := none, laneSince := s.gtime, readySince := readyAt s.gtime }))

/-! ### The strip budget -/

/-- Whether BUDGET is due at the convoy boundary at which the executing hart stands (R340). -/
def budgetDue (s : State) : Bool :=
  s.hart.tl = 0 && s.hart.cyb ≠ 0 && s.hart.undo.isNone && decide (s.hart.stripOpened + s.hart.cyb.toNat ≤ s.gtime)

/-- BUDGET (R340). -/
def execBudget (s : State) : Result :=
  if budgetDue s then takeTrap s { code := cBUDGET, tv := s.hart.cyb.setWidth 64 } else notEnabled "BUDGET"

/-! ### Launch queues -/

def eligible (s : State) (l : Launch) : Bool := l.deps.all (fun n => (mget? s.cmds n).isNone)

def queuedLaunches (c : Ctx) : List Launch := c.queues.flatMap (fun q => q.2)

/-- A launch that has waited eligible and unplaced for 2^20 cycles (R363). -/
def launchOverdue (s : State) (l : Launch) : Bool :=
  !l.blocking && (match l.eligibleAt with | some t => decide (t + 2 ^ 20 ≤ s.gtime) | none => false)

def mapLaunches (c : Ctx) (f : Launch → Launch) : Ctx := { c with queues := mmap (fun _ q => q.map f) c.queues }

/-- LAUNCH_WAIT_EXPIRY (R363). -/
def execLaunchWaitExpiry (ctx : Nat) (s : State) : Result :=
  eventStep "LAUNCH_WAIT_EXPIRY" (
    if (queuedLaunches (s.ctxAt ctx)).any (launchOverdue s) then
      some (s.setCtxAt ctx (mapLaunches (s.ctxAt ctx) (fun l => if launchOverdue s l then { l with blocking := true } else l)))
    else none)

/-! ### Placement (R359 to R363) -/

/-- Harts of any context on a core. -/
def hartsOn (s : State) (c : Nat) : List (Nat × Hart) :=
  s.allHarts.filter (fun h => h.1 / 8 == c && h.2.live != .free && decide (h.1 < Config.stewardBase))

/-- Whether a timed gang keeps a core: a member of it was placed there, and its last member has not exited (R361). -/
def timedKept (s : State) (c : Nat) : Bool :=
  s.gangs.any (fun g => g.2.timed && g.2.members.any (fun m => m.2 / 8 == c))

/-- A core that holds no hart, running or stopped, and no gang's local stores, and that no timed gang keeps. -/
def idleCore (s : State) (c : Nat) : Bool :=
  (hartsOn s c).isEmpty && (s.coreAt c).holder.isNone && (s.coreAt c).saved.isEmpty && !timedKept s c

/-- Members of a launch that a core may take (R359, R361): none where the core holds a hart of another context. -/
def coreRoom (s : State) (ctx : Nat) (spec : BitVec 512) (c : Nat) : Nat :=
  let k := s.coreAt c
  let on := hartsOn s c
  let d := specSpace spec
  let space := Config.vrfBytes - spaceHeld s c ctx Config.stewardBase
  if k.retired || k.moving.isSome || on.any (fun h => h.2.ctx != ctx) || !(k.serves == some ctx || idleCore s c)
      || (specSp spec != 0 && k.holder.isSome) then 0
  else
    let n := min (Config.slots - on.length) (if d = 0 then Config.slots else space / d)
    if specTimed spec then (if on.any (fun h => h.2.timed) then 0 else min n 1) else n

/-- The instance of CONFINE that a core lies in. -/
def instanceOf (spec : BitVec 512) (c : Nat) : Nat := c / confineCores (specConfine spec)

/-- Whether a launch fits somewhere. -/
def fits (s : State) (ctx : Nat) (l : Launch) : Bool :=
  let n := confineCores (specConfine l.spec)
  (span 0 (Config.cores / n)).any (fun i =>
    decide (specHarts l.spec ≤ ((span (i * n) n).map (coreRoom s ctx l.spec)).sum))

/-- Whether an eligible launch is held back by one that has waited too long (R363). -/
def barred (c : Ctx) (l : Launch) : Bool :=
  (queuedLaunches c).any (fun b => b.blocking && decide (b.order < l.order) && decide (specClass l.spec ≤ specClass b.spec))

/-- The launch of a context that is placed next (R363). -/
def nextLaunch (s : State) (ctx : Nat) : Option Launch :=
  let c := s.ctxAt ctx
  ((queuedLaunches c).filter (fun l => eligible s l && !barred c l && fits s ctx l)).foldl (fun b l => match b with
    | none => some l
    | some x =>
      if specClass x.spec < specClass l.spec ∨ (specClass x.spec = specClass l.spec ∧ l.order < x.order) then some l
      else some x) none

/-- Whether hart keys are a placement of a launch. -/
def placeOk (s : State) (ctx : Nat) (l : Launch) (places : List Nat) : Bool :=
  let cores := (places.map (· / 8)).eraseDups
  places.length == specHarts l.spec && places.eraseDups.length == places.length
    && places.all (fun k => decide (k < Config.stewardBase) && (s.hartAt k).live == .free)
    && (cores.map (instanceOf l.spec)).eraseDups.length == 1
    && cores.all (fun c => decide ((places.filter (fun k => k / 8 == c)).length ≤ coreRoom s ctx l.spec c))

/-- Local stores as a gang of a context takes them: everything reads 0 (R76, R276). -/
def takeStores (k : Core) (ctx gang sp : Nat) : Core :=
  { emptyStores k with holder := some gang, tenant := some ctx, request := roundUp sp 4096 }

/-- A member at its start (R41, R43).  SCP reads 0, its reset value of Table 2.6, until the device next writes it: R27 has the
checkpoint PC of an open strip written there too, and the model takes the table's value (log entry 58).  It executes everything
that has been written so far (log entry 59). -/
def memberHart (s : State) (ctx gang i : Nat) (l : Launch) : Hart :=
  let entry := specEntry l.spec
  let r := Regs.initial
  let r := { r with pc := entry, x := (r.x.set 1 (xword s.gtime)).set 2 l.record }
  { Hart.initial with
    live := .running, regs := r, ckpt := snapshot r entry, stripOpened := s.gtime, ctx := ctx,
    gang := gang, memberIdx := i, timed := specTimed l.spec, cls := BitVec.ofNat 2 (specClass l.spec),
    laneReq := specLanes l.spec, reserve := specSpace l.spec, readySince := readyAt s.gtime
    fenced := Vector.replicate 5 s.written.length, ordered := s.written.length }

/-- A gang identifier that no live gang of the context has (Table 2.6). -/
def freshGid (s : State) (ctx : Nat) : BitVec 32 :=
  let used := (s.gangs.filter (fun g => g.2.ctx == ctx)).map (fun g => g.2.gid.toNat)
  BitVec.ofNat 32 (freshFrom used (2 ^ 32 - 1) (Config.free s.free).toNat (used.length + 1))

/-- Every member of a launch placed at once; the gang is runnable (R359, R357). -/
def placeGang (s : State) (ctx : Nat) (l : Launch) (places : List Nat) : State :=
  let n := s.nextGang
  let g : Gang :=
    { gid := freshGid s ctx, ctx := ctx, size := specHarts l.spec, cls := BitVec.ofNat 2 (specClass l.spec),
      timed := specTimed l.spec, lanes := specLanes l.spec, sp := specSp l.spec, record := l.record, origin := s.gtime,
      members := places.zipIdx.foldl (fun m k => mset m k.2 k.1) [], exited := [], bars := [], launcher := l.launcher,
      rootHseq := l.rootHseq }
  let s := { s with gangs := mset s.gangs n g, nextGang := n + 1, gids := mset s.gids n g.gid, free := s.free + 1 }
  let s := (places.map (· / 8)).eraseDups.foldl (fun s c =>
    let k := { s.coreAt c with serves := some ctx }
    s.setCoreAt c (if specSp l.spec = 0 then k else takeStores k ctx n (specSp l.spec))) s
  let s := places.zipIdx.foldl (fun s k => s.setHartAt k.1 (memberHart s ctx n k.2 l)) s
  let c := s.ctxAt ctx
  s.setCtxAt ctx { c with queues := mmap (fun _ q => q.filter (fun x => x.order != l.order)) c.queues }

/-- GANG_PLACEMENT (R359 to R363): `places` are the hart keys of members 0, 1, …. -/
def execGangPlacement (ctx : Nat) (places : List Nat) (s : State) : Result :=
  eventStep "GANG_PLACEMENT" (match nextLaunch s ctx with
    | none => none
    | some l => if placeOk s ctx l places then some (placeGang s ctx l places) else none)

/-- A placement of a launch that the placement unit may choose, from free values: an instance, a first core in it, and its cores
filled in order from there on. -/
def choosePlaces (s : State) (ctx : Nat) (l : Launch) : List Nat :=
  let n := confineCores (specConfine l.spec)
  let insts := (span 0 (Config.cores / n)).filter (fun i =>
    decide (specHarts l.spec ≤ ((span (i * n) n).map (coreRoom s ctx l.spec)).sum))
  let inst := insts.getD ((Config.free s.free).toNat % insts.length) 0
  let off := (Config.free (s.free + 1)).toNat % n
  let cores := (span 0 n).map (fun j => inst * n + (off + j) % n)
  (cores.flatMap (fun c =>
    (((span (8 * c) 8).filter (fun k => (s.hartAt k).live == .free)).take (coreRoom s ctx l.spec c)))).take (specHarts l.spec)

/-! ### Exits and waits -/

/-- A status record of a context (R377, Table 22.6). -/
def State.statusRecord (s : State) (ctx : Nat) (hseq : XWord) (kind code : Nat) : State :=
  let c := s.ctxAt ctx
  let d := c.lastDseq + 1
  let r : StatusRec :=
    { dseq := d, hseq := hseq, kind := BitVec.ofNat 8 kind, code := BitVec.ofNat 8 code, gtime := xword s.gtime }
  s.setCtxAt ctx { c with status := (r :: c.status).take 16, lastDseq := d }

/-- What follows the exit of a gang's last member: LAUNCH's ticket completes (R224), or the host learns of it (R377). -/
def endGang (s : State) (n : Nat) (g : Gang) : State :=
  let s := { s with gangs := mdel s.gangs n, transfers := s.transfers.filter (fun t => t.gang != n) }
  let s := match g.launcher with
    | some (_, cmd) => s.finishCmd cmd 0 0 0
    | none => s
  match g.rootHseq with
  | some h =>
    let s := s.statusRecord g.ctx h 3 0
    s.setCtxAt g.ctx { s.ctxAt g.ctx with rootLive := false }
  | none => s

/-- Whether a waiting member may end: its tickets and its queued matrix instructions are done (R255). -/
def exitReady (h : Hart) : Bool :=
  h.wait == some .exit && h.tickets.all (fun t => t.status.isSome) && h.matrixQ.isEmpty && h.live == .running

/-- The faults of which a hart is leader, released at its end (R422). -/
def releaseAll (s : State) (k : Nat) : State := (s.releaseLeader k 1).releaseLeader k 2

/-- MEMBER_EXIT (R255). -/
def execMemberExit (h : Nat) (s : State) : Result :=
  eventStep "MEMBER_EXIT" (
    let m := s.hartAt h
    match mget? s.gangs m.gang with
    | none => none
    | some g =>
      if !exitReady m then none
      else
        let c := h / 8
        let s := releaseAll s h
        let s := s.setHartAt h .initial
        let s := s.setCoreAt c (dropLanes (s.coreAt c) (h % 8))
        let last := !(hartsOn s c).any (fun x => x.2.gang == m.gang)
        let k := s.coreAt c
        let s := if last && k.holder == some m.gang then s.setCoreAt c { k with holder := none, request := 0 } else s
        let g := { g with exited := g.exited ++ [m.memberIdx] }
        if g.exited.length = g.size then some (endGang s m.gang g)
        else
          let due := (mkeys g.bars).filter (fun b => decide ((g.barrier b).completed < g.reached b))
          some { s with
            gangs := mset s.gangs m.gang g
            agenda := due.map (fun b => Turn.own .barrier m.gang b) ++ s.agenda })

/-- BARRIER_COMPLETE (R215, R216). -/
def execBarrierComplete (gang bar : Nat) (s : State) : Result :=
  eventStep "BARRIER_COMPLETE" (match mget? s.gangs gang with
    | none => none
    | some g =>
      let n := g.reached bar
      let b := g.barrier bar
      if n ≤ b.completed then none
      else
        let s := { s with gangs := mset s.gangs gang { g with bars := mset g.bars bar { b with completed := n } } }
        some (s.mapHarts (fun _ h =>
          match h.wait with
          | some (.barrier b' k) => if h.gang = gang ∧ b' = bar ∧ k ≤ n then { h with wait := none, readySince := readyAt s.gtime } else h
          | _ => h)))

/-- WAITT_INSTANT (R44). -/
def execWaittInstant (h : Nat) (s : State) : Result :=
  eventStep "WAITT_INSTANT" (
    let m := s.hartAt h
    match m.wait with
    | some (.time t) => if t ≤ s.gtime then some (s.setHartAt h { m with wait := none, readySince := instantAt s.gtime }) else none
    | _ => none)

/-- WAITADDR_WAKE (R222): the hart reads again, and completes, or meets a cause, unless the value is still the old one and the walk
of its read has found nothing. -/
def execWaitaddrWake (h : Nat) (s : State) : Result :=
  let t := s.focus h
  match t.hart.live, t.hart.wait with
  | .running, some (.addr d a b sc) =>
    (match execWaitaddr d a b sc (t.setHart { t.hart with wait := none }) with
    | .next u => if u.hart.wait = some (.addr d a b sc) ∧ u.agenda = t.agenda then notEnabled "WAITADDR_WAKE" else .next (u.focus s.cur)
    | o => o)
  | _, _ => notEnabled "WAITADDR_WAKE"

/-- The arrival record of a transfer, while fewer than 8 slot times have one (R221). -/
def recordArrival (h : Hart) (t : Transfer) : Hart :=
  if h.arrivals.any (fun r => r.slot == t.slot) then
    { h with arrivals := h.arrivals.map (fun r => if r.slot == t.slot then { r with count := r.count + 1 } else r) }
  else if h.arrivals.length < Config.maxArrivals then
    { h with arrivals := h.arrivals ++ [{ slot := t.slot, stamp := t.stamp, count := 1 }] }
  else h

/-- SENDT_ARRIVAL (R220, R221): a stopped receiver holds it back (R367). -/
def execSendtArrival (i : Nat) (s : State) : Result :=
  eventStep "SENDT_ARRIVAL" (match s.transfers[i]? with
    | none => none
    | some t =>
      let h := s.hartAt t.hart
      let mine := h.gang == t.gang && h.memberIdx == t.member && h.live != .free
      if mine && h.live == .stopped && (s.coreAt t.core).moving.isNone then none
      else
        let s := { s with transfers := s.transfers.eraseIdx i }
        if mine && (s.coreAt t.core).holder == some t.gang then
          let s := t.rows.zipIdx.foldl (fun s r => s.spWrite t.core (64 * (t.dst + r.2)) r.1) s
          some (s.setHartAt t.hart (recordArrival (s.hartAt t.hart) t))
        else some s)

/-- FAULT_HOLD_RELEASE (R422): no hart is leader of the page any more, and those held go on. -/
def execFaultHoldRelease (ctx page : Nat) (s : State) : Result :=
  eventStep "FAULT_HOLD_RELEASE" (
    if s.leaders.any (fun l => l.ctx = ctx && l.page = page) then none
    else if s.allHarts.any (fun h => h.2.wait = some (.page ctx page)) then some (s.releasePages ctx (· = page))
    else none)

/-! ### Pre-emption (R366, R367, R398) -/

/-- Whether a wait is kept within a pre-emption; WAITADDR, a lane wait of SETVL and every other hold start over (R398). -/
def waitKept : Wait → Bool
  | .lanesClaim => true
  | .time _ => true
  | .barrier _ _ => true
  | .ticket => true
  | .matrix => true
  | .bankMode _ _ => true
  | .exit => true
  | _ => false

/-- Whether a stop in a wait leaves the open strip as it is: within a CLAIM's lane wait or a held access, and at a convoy that
waits for VOWN or that is held for a page's leader, which executes again (R398, R422). -/
def stripKept : Wait → Bool
  | .lanesClaim => true
  | .bankMode _ _ => true
  | .page _ _ => true
  | .vown => true
  | _ => false

/-- The registers with which a hart that waits in SETVL at trap level 1 or 2 executes it again (R398). -/
def beforeSetvl (r : Regs) : Option Wait → Regs
  | some (.lanesSetvl d x vl vr) => writeX { r with pc := r.pc - 4, vl := vl, vr := vr } d x
  | _ => r

/-- A hart stopped for pre-emption (R47, R398), and saved under its context's key (R366, R375).  At trap level 0 its open strip is
discarded, unless it is kept; its cycles are noted, those of a discarded strip as 0 (R340). -/
def stopHart (now : Nat) (key : BitVec 256) (h : Hart) : Hart :=
  let wait := match h.wait with | some w => if waitKept w then some w else none | none => none
  let keep := match h.wait with | some w => stripKept w | none => false
  if h.tl = 0 && !keep then
    { h with live := .stopped, sealed := some key, undo := none, wait := wait, early := false, stripOpened := 0, regs := discardRegs h h.regs }
  else
    { h with
      live := .stopped, sealed := some key, undo := none, wait := wait, stripOpened := now - h.stripOpened
      regs := beforeSetvl h.regs h.wait }

/-- CORE_SWITCH (R366): the steward moves a core to a context that runs; a core that a timed gang keeps is not moved (R361).  A
stop at trap level 1 or 2 may latch a prefix (R116, R398).  While a gang holds the local stores, the rest waits for their save
(R367), or for the scrub of a gang that has been killed. -/
def execCoreSwitch (core ctx : Nat) (s : State) : Result :=
  eventStep "CORE_SWITCH" (
    let k := s.coreAt core
    let old := k.serves
    let leaving := fun (j : Nat) (h : Hart) => match old with | some p => onCore core p j h | none => false
    if old == some ctx || k.moving.isSome || k.retired || decide (Config.cores ≤ core) || decide (63 < ctx)
        || (s.ctxAt ctx).state != .run || !(s.ctxAt ctx).pending.isEmpty || timedKept s core
        || s.allHarts.any (fun h => leaving h.1 h.2 && (h.2.timed || h.2.undo.isSome)) then none
    else
      let keys := (mkeys s.allHarts).filter (fun j => leaving j (s.hartAt j))
      let slots := keys.map (· % 8)
      let s := keys.foldl (fun s j =>
        if (s.hartAt j).tl ≠ 0 ∧ (s.hartAt j).wait = none then
          let t := latchPrefix (s.asHart j)
          { s.setHartAt j t.hart with free := t.free }
        else s) s
      let s := s.mapHarts (fun j h => if leaving j h then stopHart s.gtime (s.ctxAt h.ctx).key h else h)
      let s := s.setCoreAt core (slots.foldl dropLanes (s.coreAt core))
      some (moveOn (s.setCoreAt core { s.coreAt core with moving := some ctx }) core))

/-- Whether an engine command writes S-space of a core. -/
def writesStores (core : Nat) (c : Cmd) : Bool :=
  c.core == core && (match c.kind with
    | .copy _ _ _ dsp _ => dsp
    | .copy2d d => d.toNat.testBit 226
    | .fill _ _ _ dsp => dsp
    | .cmv _ => true
    | .bmsg .. => true
    | _ => false)

/-- What the save of a core's local stores waits for (R367). -/
def storesBusy (s : State) (core : Nat) : Bool :=
  (hartsOn s core).any (fun h => !h.2.matrixQ.isEmpty) || s.cmds.any (fun c => writesStores core c.2)
    || s.transfers.any (fun t => t.core == core)

/-- LOCAL_STORE_SAVE (R367): the local stores of a gang that lives, saved under its context's key. -/
def execLocalStoreSave (core : Nat) (s : State) : Result :=
  eventStep "LOCAL_STORE_SAVE" (
    let k := s.coreAt core
    match k.moving, k.holder with
    | some q, some n =>
      match mget? s.gangs n with
      | none => none
      | some g =>
      if storesBusy s core then none
      else
        let i : LocalImage :=
          { gang := n, key := (s.ctxAt g.ctx).key, request := k.request, scratch := k.scratch, tags := k.tags, acc := k.acc, tflags := k.tflags, wbuf := k.wbuf,
            keep := k.keep, dealExpert := k.dealExpert, dealRound := k.dealRound, dealRunning := k.dealRunning,
            dealSlot := k.dealSlot }
        some (serveContext (s.setCoreAt core { emptyStores k with saved := k.saved ++ [i] }) core q)
    | _, _ => none)

/-! ### Uncorrectable errors (R403 to R405) -/

/-- The context that holds a structure of codes 1 to 7 of Table 25.1: `target` is a core, or for codes 2 and 3 a hart. -/
def structureOwner (s : State) (code target : Nat) : Option (Nat × Nat × Nat) :=
  if code = 1 then
    let k := s.coreAt target
    if k.owned && (hartsOn s target).any (fun h => h.2.ctx == k.owner.toNat && h.2.vn * h.2.vlmax != 0) then
      some (k.owner.toNat, 0, 0) else none
  else if code = 2 ∨ code = 3 then
    let h := s.hartAt target
    if h.live == .free || h.steward then none else some (h.ctx, (s.gidOf h.gang).toNat, h.memberIdx)
  else match (s.coreAt target).holder with
    | none => none
    | some n => match mget? s.gangs n with
      | some g => some (g.ctx, 0, 0)
      | none => none

/-- A word of a dirty line written back with poison, and recorded (R405). -/
def poisonWord (s : State) (pa : Nat) : State :=
  let u := pa / 8 * 4
  let s := { s with badUnits := (span u 4).foldl (fun m i => mset m i 3) s.badUnits }
  s.reportError (ownerOf s (2 * u)) 1 3 0 0 (2 * u) 0 0

/-- PATROL finds an uncorrectable error in the structure of a code of Table 25.1; `target` names it, and for the caches it is
the physical address of the failing word, in a dirty line when `flag` is not 0. -/
def execPatrol (code target flag : Nat) (s : State) : Result :=
  eventStep "PATROL" (
    if code = 0 ∨ 11 < code then none
    else if code ≤ 7 then
      match structureOwner s code target with
      | none => some s
      | some (ctx, gid, m) => some (s.killContext ctx 0 2 0 (xword code) gid m)
    else if code ≤ 9 then some (if flag = 0 then s else poisonWord s target)
    else if code = 10 then some s
    else some { s with tlb := s.tlb.eraseIdx target })

/-! ### The ends of a kill, a release and an entry to Error -/

/-- KILL_SCRUB (R231, R400, R427): once no started work is left. -/
def execKillScrub (ctx : Nat) (bad : List Nat) (s : State) : Result :=
  eventStep "KILL_SCRUB" (match (s.ctxAt ctx).pending with
    | .kill cause reason pc value gid m :: _ =>
      if workLeft s ctx then none else some (finishKill s ctx bad (killData cause reason pc value gid m))
    | _ => none)

/-- RELEASE_SCRUB (R379): once no started work is left; the response to STOP_INTERFACE follows. -/
def execReleaseScrub (ctx : Nat) (bad : List Nat) (s : State) : Result :=
  eventStep "RELEASE_SCRUB" (match (s.ctxAt ctx).pending with
    | .release :: _ =>
      if workLeft s ctx then none
      else
        let s := finishRelease s ctx bad
        some { s with dev := { s.dev with response := .tdispOk ctx } }
    | _ => none)

/-- ERROR_ENTRY_DONE (R427): once no started work is left. -/
def execErrorEntryDone (ctx : Nat) (s : State) : Result :=
  eventStep "ERROR_ENTRY_DONE" (match (s.ctxAt ctx).pending with
    | .error :: _ => if workLeft s ctx then none else some (enterError s ctx)
    | _ => none)

end Machine
end Sys2Proof
end

