-- ==== Sys2Proof/Machine/Cycle.lean ====
section
/-! DEFINITION. CORE_CYCLE: GTIME's advance, and what is decided to happen in the cycle (R9, R44, R46, R301, R363, R364, R435).

The manual leaves most instants open: when a convoy has drained, when an engine completes, when the placement unit places.  In
each cycle a free value (`Config.happens`) says whether such an agent acts; what must happen at once is not left to it. -/

namespace Sys2Proof
namespace Machine

/-! ### What happens in a cycle of itself -/

/-- What the outside world, and agents of the package at times of their own, may do in a cycle: every event but the cycle itself,
BUDGET and ILLEGAL, which a hart meets in its own turn. -/
def outsideEvent (i : Instr) : Bool :=
  i.isEvent && (match i with
    | .coreCycle => false
    | .budget => false
    | .illegal _ => false
    | _ => true)

/-- Harts that live, by key. -/
def liveHarts (s : State) : List (Nat × Hart) := s.allHarts.filter (fun h => h.2.live == .running)

/-- Cores that exist in the state. -/
def coreList (s : State) : List Nat := mkeys s.cores

/-- What is due at once: a hart's instant (R44), a SENDT's slot time (R45), lanes given back and granted (R24 to R26), a
launch that has waited too long (R363), an array not calibrated for 1 s (R309), a link that has been down for 100 ms (R425, R426),
and the accesses from outside that wait. -/
def dueTurns (s : State) : List Turn :=
  (liveHarts s).filterMap (fun h => match h.2.wait with
      | some (.time t) => if t ≤ s.gtime then some (Turn.own .waitt h.1 0) else none
      | _ => none)
    ++ (s.transfers.zipIdx.filterMap (fun t => match t.1.due with
      | some d => if d ≤ s.gtime then some (Turn.own .sendt t.2 0) else none
      | none => none)).reverse
    ++ (liveHarts s).filterMap (fun h =>
      if h.2.wait.isNone && queuesEmpty h.2.regs && lanesDue s h.1 then some (Turn.own .laneHold h.1 0) else none)
    ++ (coreList s).flatMap (fun c => List.replicate (s.coreAt c).laneWait.length (Turn.own .laneGrant c 0))
    ++ (s.ctxs.filterMap (fun c =>
      if (queuedLaunches c.2).any (launchOverdue s) then some (Turn.own .launchExpiry c.1 0) else none))
    ++ s.ctxs.flatMap (fun c => c.2.handles.flatMap (fun h => match h.2.cur with
      | some v => ((span 0 v.arrays.length).filter (fun t => calibrationDue s (v.arrays.getD t 0))).map
          (fun t => Turn.own .recalibrate (c.1 + 64 * h.1) t)
      | none => []))
    ++ (mkeys s.dev.linksDown).filterMap (fun l =>
      if linkOverdue s l then some (Turn.own .linkFail l 0) else none)
    ++ List.replicate s.waiting.length (Turn.own .outside 0 0)

/-- What a started command may do next. -/
def cmdTurns (n : Nat) (c : Cmd) : List Turn :=
  match c.kind with
  | .copy .. => [.own .copy n 0]
  | .copy2d _ => [.own .copy n 0]
  | .fill .. => [.own .copy n 0]
  | .deal .. => [.own .deal n 0]
  | .cwrite .. => [.own .cwrite n 0]
  | .ccommit _ => [.own .version n 0]
  | .cmv job => .own .cmv n 0 :: (span 0 (2 * ((job.input.length + 1023) / 1024 * 1024))).map (fun k => .own .pass n k)
  | _ => []

/-- What agents of the device may do in a cycle, each at a time of its own choosing. -/
def openTurns (s : State) : List Turn :=
  (s.ctxs.filterMap (fun c => if (queuedLaunches c.2).isEmpty then none else some (Turn.own .placement c.1 0)))
    ++ (liveHarts s).filterMap (fun h => match h.2.wait with
      | some .exit => some (Turn.own .memberExit h.1 0)
      | some (.addr ..) => some (.own .waitaddr h.1 0)
      | some .vown => some (.own .vownService h.1 0)
      | some (.page c p) => some (.own .faultHold c p)
      | some .arrive => some (.hart h.1)
      | some .ticket => some (.hart h.1)
      | some .matrix => some (.hart h.1)
      | some .line => some (.hart h.1)
      | some (.bankMode p t) => if bankTurnOf s h.1 p t then some (.hart h.1) else none
      | some .receiver => some (.hart h.1)
      | some .link => some (.hart h.1)
      | _ => none)
    ++ (s.transfers.zipIdx.map (fun t => Turn.own .sendt t.2 0)).reverse
    ++ s.allHarts.filterMap (fun h => if h.2.matrixQ.isEmpty then none else some (.own .matrix h.1 0))
    ++ s.cmds.flatMap (fun c => cmdTurns c.1 c.2)
    ++ s.ctxs.flatMap (fun c => c.2.handles.flatMap (fun h =>
        Turn.own .rotation c.1 h.1 :: (match h.2.cur with
          | some v => (span 0 v.arrays.length).map (fun t => Turn.own .recalibrate (c.1 + 64 * h.1) t)
          | none => [])))
    ++ s.chans.flatMap (fun p =>
        (if p.2.run.isSome then [Turn.bank p.1] else if p.2.queue.isEmpty then [] else
          [Turn.own .handlerInstall p.1 0, .own .handler p.1 0])
        ++ (if p.2.switching.isSome then [.own .modeDone p.1 0] else []))
    ++ (coreList s).filterMap (fun c => if (s.coreAt c).moving.isSome then some (.own .localSave c 0) else none)
    ++ s.ctxs.filterMap (fun c => match c.2.pending with
        | .kill .. :: _ => some (Turn.own .killScrub c.1 0)
        | .release :: _ => some (.own .releaseScrub c.1 0)
        | .error :: _ => some (.own .errorDone c.1 0)
        | [] => none)

/-- Those of some turns that free values from number n on choose. -/
def chosenFrom (n : Nat) : List Turn → List Turn
  | [] => []
  | t :: ts => if Config.happens n then t :: chosenFrom (n + 1) ts else chosenFrom (n + 1) ts

/-! ### Issue (R364) -/

/-- Whether the next convoy of a hart has vector members, as far as its words can be fetched. -/
def vectorNext (s : State) (k : Nat) : Bool :=
  let t := s.focus k
  match instrAt t t.regs.pc with
  | some (i, _) => if i.isPfx then (match instrAt t (t.regs.pc + 4) with | some (j, _) => j.joins | none => false) else i.joins
  | none => false

/-- Ready harts of a core: they run, their core serves their context and is not retired, and they wait for nothing; a WAITT whose
instant has come has ended, and its hart is ready since now (R364). -/
def readyHarts (s : State) (c : Nat) : List (Nat × Hart) :=
  let k := s.coreAt c
  ((liveHarts s).filter (fun h => h.1 / 8 == c && decide (h.1 < Config.stewardBase) && k.serves == some h.2.ctx
    && k.moving.isNone && !k.retired
    && (match h.2.wait with | none => true | some (.time t) => decide (t ≤ s.gtime) | _ => false)
    && (match h.2.issueAt with | some t => decide (t ≤ s.gtime) | none => true))).map (fun h =>
      -- a wait that has just ended was no time of readiness
      if h.2.wait.isSome then (h.1, { h.2 with readySince := instantAt s.gtime }) else h)

/-- The least of a list under an order, the first on a tie. -/
def leastBy {α : Type} (lt : α → α → Bool) : List α → Option α
  | [] => none
  | x :: xs => some (xs.foldl (fun b y => if lt y b then y else b) x)

/-- The class that R364 chooses, given the record of last services. -/
def chooseClass (now : Nat) (served : Vector Nat 4) (ready : List (Nat × Hart)) : Nat :=
  let classes := (span 0 4).filter (fun c => ready.any (fun h => h.2.cls.toNat == c))
  let top := classes.foldl max 0
  let lower := classes.filter (fun c => decide (c < top))
  if now % 16 = 15 then
    match leastBy (fun a b => decide (served.toList.getD a 0 < served.toList.getD b 0)) lower with
    | some c => c
    | none => top
  else top

/-- The hart that a core issues from one kind of convoy, and the record of services after it: that of the class served in a
cycle with GTIME mod 16 = 15. -/
def pickHart (now : Nat) (served : Vector Nat 4) (ready : List (Nat × Hart)) : Option Nat × Vector Nat 4 :=
  let note := fun (c : Nat) =>
    if now % 16 = 15 then Vector.ofFn (fun i : Fin 4 => if i.val = c then now else served[i]) else served
  match ready.find? (fun h => h.2.issueAt.isSome) with
  | some h => (some h.1, note h.2.cls.toNat)
  | none =>
    if ready.isEmpty then (none, served)
    else
      let c := chooseClass now served ready
      let h := leastBy (fun (a b : Nat × Hart) => decide (a.2.readySince < b.2.readySince)) (ready.filter (fun h => h.2.cls.toNat == c))
      (h.map (·.1), note c)

/-- The convoys that a core issues: a vector one and another, from the ready harts that have drained (R364, R37). -/
def issueFrom (s : State) (c : Nat) (drained : List (Nat × Hart)) : State × List Turn :=
  let k := s.coreAt c
  let vec := drained.filter (fun h => vectorNext s h.1)
  let oth := drained.filter (fun h => !vectorNext s h.1)
  let (a, sv) := pickHart s.gtime k.servedVec vec
  let (b, so) := pickHart s.gtime k.servedOther oth
  (s.setCoreAt c { k with servedVec := sv, servedOther := so }, (a.toList ++ b.toList).map Turn.hart)

/-- Those of some harts whose last convoy has drained, by free values from number n on; a timed instant is exact. -/
def drainedFrom (n : Nat) : List (Nat × Hart) → List (Nat × Hart)
  | [] => []
  | h :: hs => if h.2.issueAt.isSome || Config.happens n then h :: drainedFrom (n + 1) hs else drainedFrom (n + 1) hs

/-- Issue on every core of a list. -/
def issueAll : List Nat → State → State × List Turn
  | [], s => (s, [])
  | c :: cs, s =>
    let ready := readyHarts s c
    let (t, a) := issueFrom { s with free := s.free + ready.length } c (drainedFrom s.free ready)
    let (u, b) := issueAll cs t
    (u, a ++ b)

/-! ### The cycle -/

/-- A kitty's refill under a throttle step (R301, R435). -/
def refillAt (step : Nat) (k : Kitty) : Kitty :=
  { k with
    level := min Config.kittyLevel (k.level + 10 * (16 - step)), credit := min Config.kittyCredit (k.credit + 7 * (16 - step)) }

/-- Every kitty refilled, and what it can then serve served (R302). -/
def refillAll (s : State) : State :=
  let t := { s with kitties := mmap (fun _ k => refillAt s.dev.throttleStep.toNat k) s.kitties }
  (mkeys t.kitties).foldl State.serveStack t

/-- Launches that have become eligible take note of the time (R363). -/
def markEligible (s : State) (c : Ctx) : Ctx :=
  mapLaunches c (fun l => if l.eligibleAt.isNone && eligible s l then { l with eligibleAt := some s.gtime } else l)

/-- Arrays of no current version are recalibrated where they stand, 1 s after their last calibration (R309). -/
def calibrateIdle (s : State) : Map WArray :=
  mmap (fun a w =>
    if calibrationDue s a && !s.ctxs.any (fun c => c.2.handles.any (fun h => h.2.cur.any (fun v => v.arrays.contains a))) then
      { w with calibrated := s.gtime } else w) s.warrays

/-- CORE_CYCLE (R9). -/
def execCoreCycle (s : State) : Result :=
  let s := refillAll { s with gtime := s.gtime + 1 }
  let s := { s with ctxs := mmap (fun _ c => markEligible s c) s.ctxs, warrays := calibrateIdle s }
  let due := dueTurns s
  let may := openTurns s
  let acts := chosenFrom s.free may
  let s := { s with free := s.free + may.length }
  let (s, issued) := issueAll (coreList s) s
  let outer := ((Config.outside s.gtime).filter outsideEvent).map Turn.event
  .next { s with agenda := s.agenda ++ due ++ outer ++ acts ++ issued }

end Machine
end Sys2Proof
end

