-- ==== Sys2Proof/Machine/Dovetail.lean ====
section
/-! DEFINITION. Major 0x1F: the Dovetail directory of a context (R342 to R349). -/

namespace Sys2Proof
namespace Machine

/-! ### The partition (R342) -/

def Dove.live (v : Dove) (id : Nat) : Bool := (mget? v.entries id).isSome

/-- An entry with no live child. -/
def Dove.leaf (v : Dove) (id : Nat) : Bool := v.entries.all (fun e => e.2.parent != id)

/-- The order number of the next use. -/
def Dove.clock (v : Dove) : Nat := v.entries.foldl (fun m e => max m e.2.used) 0 + 1

/-- The entry of a block: parent and all tokens equal, and the parent 0 or live. -/
def Dove.match_ (v : Dove) (parent : Nat) (tokens : List (BitVec 32)) : Option (Nat × DoveEntry) :=
  if parent ≠ 0 ∧ v.live parent = false then none
  else v.entries.find? (fun e => e.2.parent == parent && e.2.tokens == tokens)

def Dove.put (v : Dove) (id : Nat) (e : DoveEntry) : Dove := { v with entries := mset v.entries id e }

/-- The entry that a full partition evicts: the least recently used leaf of count 0 other than the parent named. -/
def Dove.victim (v : Dove) (parent : Nat) : Option (Nat × DoveEntry) :=
  (v.entries.filter (fun e => e.2.count == 0 && v.leaf e.1 && e.1 != parent)).foldl (fun b e => match b with
    | none => some e
    | some x => if e.2.used < x.2.used then some e else some x) none

def State.dove (s : State) : Dove := s.ctx.dove
def State.setDove (s : State) (v : Dove) : State := s.setCtxAt s.hart.ctx { s.ctx with dove := v }

/-! ### Operands -/

/-- An identifier operand (R343). -/
def identifier (s : State) (r : BitVec 5) : Eff Nat :=
  if 0xFFFFFFFF < (s.x r).toNat then illegal s else .ok (s.x r).toNat

/-- The 16 tokens of a row of S-space (R343). -/
def tokenRow (s : State) (r : BitVec 5) : Eff (List (BitVec 32)) := do
  let bs ← spLoad s (s.x r) 64 64 0
  return (span 0 16).map (fun i => BitVec.ofNat 32 (leNat ((bs.drop (4 * i)).take 4)))

/-! ### The instructions -/

/-- A Dovetail instruction: irreversible, and both a release and an acquire (R348), so that what stands before it is ordered before
what follows (R98, R243). -/
def doveOp (f : State → Eff State) (s : State) : Result := irreversible (fun s => do return (← f s).order) s

/-- PDLOOK (R344). -/
def execPdlook (d a b c : BitVec 5) (s : State) : Result :=
  doveOp (fun s => do
    let parent ← identifier s a
    let row ← tokenRow s b
    match s.dove.match_ parent row with
    | none => return (s.setX d 0).setX c 0
    | some (id, e) =>
      let s := s.setDove (s.dove.put id { e with used := s.dove.clock })
      return (s.setX d e.page).setX c (xword id)) s

/-- What PDINS does to a partition: the new partition, the result word of Table 19.9 and the page evicted (R345). -/
def Dove.insert (v : Dove) (parent : Nat) (row : List (BitVec 32)) (page : XWord) : Dove × XWord × XWord :=
  let word := fun (code id : Nat) => xword (id + code * 2 ^ 32)
  match v.match_ parent row with
  | some (id, e) =>
    if e.count = 0xFFFF then (v, word 3 0, 0)
    else (v.put id { e with count := e.count + 1, used := v.clock }, word 1 id, 0)
  | none =>
    if parent ≠ 0 ∧ v.live parent = false then (v, word 2 0, 0)
    else if 0xFFFFFFFF < v.next then (v, word 3 0, 0)
    else
      let fresh : DoveEntry := { parent := parent, tokens := row, page := page, count := 1, used := v.clock }
      let add := fun (v : Dove) => { v.put v.next fresh with next := v.next + 1 }
      if v.entries.length < v.quota then (add v, word 0 v.next, 0)
      else match v.victim parent with
        | none => (v, word 3 0, 0)
        | some (id, e) => (add { v with entries := mdel v.entries id }, word 0 v.next, e.page)

/-- PDINS (R345). -/
def execPdins (d a b c : BitVec 5) (s : State) : Result :=
  doveOp (fun s => do
    let parent ← identifier s a
    illegalWhen s (s.x c == 0)
    let row ← tokenRow s b
    let (v, word, page) := s.dove.insert parent row (s.x c)
    return ((s.setDove v).setX d word).setX c page) s

/-- PDREF and PDUNREF (R346): the entry with its new count, or none where the count stays. -/
def doveCount (d a : BitVec 5) (f : DoveEntry → Nat → Option DoveEntry) (s : State) : Result :=
  doveOp (fun s => do
    let id ← identifier s a
    match (mget? s.dove.entries id).bind (fun e => f e s.dove.clock) with
    | none => return s.setX d (BitVec.allOnes 64)
    | some e => return (s.setDove (s.dove.put id e)).setX d (xword e.count)) s

/-- PDREF (R346). -/
def execPdref (d a : BitVec 5) (s : State) : Result :=
  doveCount d a (fun e clock => if e.count = 0xFFFF then none else some { e with count := e.count + 1, used := clock }) s

/-- PDUNREF (R346). -/
def execPdunref (d a : BitVec 5) (s : State) : Result :=
  doveCount d a (fun e _ => if e.count = 0 then none else some { e with count := e.count - 1 }) s

/-- The status word of PDSTAT (R347). -/
def Dove.status (v : Dove) (id : Nat) : XWord :=
  if id = 0 then xword (v.entries.length + v.quota * 2 ^ 32)
  else match mget? v.entries id with
    | none => 0
    | some e => xword (e.count + 2 ^ 16 + (if v.leaf id then 2 ^ 17 else 0) + e.parent * 2 ^ 32)

/-- PDSTAT (R347). -/
def execPdstat (d a : BitVec 5) (s : State) : Result :=
  doveOp (fun s => do
    let id ← identifier s a
    return s.setX d (s.dove.status id)) s

end Machine
end Sys2Proof
end

