-- ==== Sys2Proof/Machine/VConfig.lean ====
section
/-! DEFINITION. Major 0x10: VDECL, SETVL, VTAG, VSHAPE, and the moves and indices (R152 to R159); and the frame that every
element-wise vector instruction shares (R149). -/

namespace Sys2Proof
namespace Machine

/-! ### Configuration -/

/-- VLMAX that a declaration is granted when `free` bytes of the register file are free (R22). -/
def grantOf (d : Decl) (free : Nat) : Nat :=
  if d.n = 0 then 0 else min d.count (free / (2 * d.n * 2 ^ d.wcode)) / 64 * 64

/-- The registers after VDECL (R152). -/
def declareRegs (r : Regs) (d : Decl) (vlmax : Nat) : Regs :=
  { r with
    vl := 0, vr := 1, gcode := 0, tailZero := false
    vregs := Vector.ofFn (fun j : Fin 32 =>
      { com := { tag := .bits, elems := if j.val < d.n then Array.replicate vlmax 0 else #[] }, twin := none })
    masks := Vector.replicate 8 { com := 0, twin := none }
    qtags := Vector.replicate 4 .bits }

/-- VDECL (R22, R23, R152): the descriptor is checked before the commit. -/
def execVdecl (d a : BitVec 5) (s : State) : Result :=
  match Decl.of (s.x a).toNat with
  | none => stopped s (.trap { code := cILLEGAL, tv := s.regs.pc })
  | some c =>
    irreversible (fun s =>
      let vlmax := grantOf c (Config.vrfBytes - spaceHeld s s.coreId s.hart.ctx s.cur)
      let s := s.setHart { s.hart with
        vlmax := vlmax, vn := c.n, wcode := BitVec.ofNat 2 c.wcode, reserve := 0, regs := declareRegs s.regs c vlmax }
      .ok (s.setX d (xword vlmax))) s

/-- The row counts that SETVL accepts (R154). -/
def rowsOk (n : Nat) : Bool := [1, 2, 4, 8, 16, 32, 64].contains n

/-- SETVL (R154, R24, R27): the row count is checked before the commit. -/
def execSetvl (d a b : BitVec 5) (s : State) : Result :=
  let rows := if (s.x b).toNat = 0 then 1 else (s.x b).toNat
  match (do
    checkMember s (.setvl d a b)
    illegalWhen s (!rowsOk rows)) with
  | .error e => stopped s e
  | .ok () =>
    opensStrip (fun s =>
      let vl := min (s.x a).toNat (capacity s / rows)
      let before := Wait.lanesSetvl d (s.x d) s.regs.vl s.regs.vr
      let s := (s.setRegs { s.regs with vr := rows, vl := vl }).setX d (xword vl)
      let (s, w) := takeLanes s
      .ok (s, waitIf w before)) s

/-- VTAG (R155). -/
def execVtag (d t b : BitVec 5) (s : State) : Result :=
  ordinaryChecked (.vtag d t b) (fun s =>
    match Fmt.ofCode? t.toNat with
    | none => illegal s
    | some f =>
      if b = 0 then .ok (s.writeGroup d.toNat (groupFactor s.regs) f (blank s))
      else .ok (s.setRegs { s.regs with
        qtags := Vector.ofFn (fun i : Fin 4 => if i.val = d.toNat then f else s.regs.qtags[i]) })) s

/-- VSHAPE (R156). -/
def execVshape (t : Bool) (g : BitVec 2) (s : State) : Result :=
  ordinaryChecked (.vshape t g) (fun s =>
    let s := s.setRegs { s.regs with gcode := g, tailZero := t }
    .ok (s.setRegs { s.regs with vl := min s.regs.vl (rowSize s) })) s

/-! ### The prefix word -/

/-- Bits 24:0 of a prefix word (Table 5.7). -/
def pfxWord (pm : BitVec 3) (pn : Bool) (em ek : BitVec 3) (dc : BitVec 5) (dce : Bool) (rm : BitVec 3) (sat : Bool) : BitVec 25 :=
  pm ++ BitVec.ofBool pn ++ em ++ ek ++ dc ++ BitVec.ofBool dce ++ rm ++ BitVec.ofBool sat ++ (0 : BitVec 5)

/-- PFX (R112): its fields wait for the next word of the convoy; a second prefix, or one while PFXS is valid, is ILLEGAL
(R111, R116). -/
def execPfx (pm : BitVec 3) (pn : Bool) (em ek : BitVec 3) (dc : BitVec 5) (dce : Bool) (rm : BitVec 3) (sat : Bool) (s : State) :
    Result :=
  match s.regs.pend with
  | some (_, a) => stopped s (.trap { code := cILLEGAL, tv := a })
  | none =>
    if s.regs.pfxValid then stopped s (.trap { code := cILLEGAL, tv := s.regs.pc })
    else
      let fields := pfxWord pm pn em ek dc dce rm sat
      let start := s.hart.undo.getD s.regs
      .next (s.setHart { s.hart with
        undo := some start
        regs := { s.regs with
          pend := some (fields, s.regs.pc), first := if s.hart.undo.isNone then some fields else s.regs.first,
          pc := s.regs.pc + 4 } })

/-- ILLEGAL (R108): a fetched word that names no instruction. -/
def execIllegal (word : Word) (s : State) : Result :=
  match decodeMember word with
  | .error _ => stopped s (.trap { code := cILLEGAL, tv := s.regs.pc })
  | .ok _ => .fault (.notEnabled "ILLEGAL")

/-! ### Element-wise instructions -/

/-- What an instruction computes: its result format, and each element's bits, flags and generator. -/
structure Plan where
  fmt : Fmt
  each : Nat → Rnd → XWord × Flags × BitVec 32

/-- An element-wise member with one destination group (R149): its operands, its checks, QLEFT, then its elements. -/
def elementwise (i : Instr) (d : BitVec 5) (w e : Bool) (ops : List (Bool × BitVec 5))
    (plan : State → Pfx → List Source → Eff Plan) (s : State) : Result :=
  member i (fun p s => do
    let srcs ← ops.mapM (fun o => source s o.1 o.2)
    let c ← plan s p srcs
    let t ← consume s ops
    return deliverElems t p w e d c.fmt (eachElem s p c.each)) s

/-- An element that is moved: no flag, no rounding. -/
def moved (v : XWord) (r : Rnd) : XWord × Flags × BitVec 32 := (v, 0, r.gen)

/-- A list's only source, or its first and second. -/
def src1 (l : List Source) : Source := l.headD { fmt := .bits, get := fun _ => 0 }
def src2 (l : List Source) : Source := (l.drop 1).headD { fmt := .bits, get := fun _ => 0 }

/-! ### Moves and indices (Table 7.4) -/

/-- VMV (R159). -/
def execVmv (k : Bool) (d a : BitVec 5) (e qa : Bool) (s : State) : Result :=
  elementwise (.vmv k d a e qa) d true e [(qa, a)] (fun s _ srcs =>
    .ok { fmt := (src1 srcs).fmt, each := fun i r => moved (elem s (src1 srcs) i) r }) s

/-- VBCAST (R159). -/
def execVbcast (k : Bool) (d a : BitVec 5) (e : Bool) (s : State) : Result :=
  elementwise (.vbcast k d a e) d true e [] (fun s _ _ =>
    .ok { fmt := destTag s d, each := fun _ r => moved (elemBits s (destTag s d) (s.x a)) r }) s

/-- VID and VIDR: an index converted to the destination's tag, UINT32 for tag 0. -/
def indexOp (i : Instr) (d : BitVec 5) (e : Bool) (f : Nat → Nat → Nat) (s : State) : Result :=
  elementwise i d true e [] (fun s p _ => do
    let tag := destTag s d
    illegalWhen s (!(tag == .bits || tag.isInt || tag.isFloat))
    let dst := if tag = .bits then Fmt.u32 else tag
    return { fmt := dst, each := fun n r => convert .i64 dst p.sat r (xword (f n (rowSize s))) }) s

/-- VID (R159). -/
def execVid (k : Bool) (d : BitVec 5) (e : Bool) (s : State) : Result :=
  indexOp (.vid k d e) d e (fun n rs => n % rs) s

/-- VIDR (R159). -/
def execVidr (k : Bool) (d : BitVec 5) (e : Bool) (s : State) : Result :=
  indexOp (.vidr k d e) d e (fun n rs => n / rs) s

/-- VXTRACT (R159): VR, VL and the tail policy play no part, but for VL = 0 (R21). -/
def execVxtract (k : Bool) (d a b : BitVec 5) (qa : Bool) (s : State) : Result :=
  member (.vxtract k d a b qa) (fun _ s => do
    let src ← source s qa a
    let t ← consume s [(qa, a)]
    let n := (s.x b).toNat
    let v := elem s src n
    let v := if src.fmt.signed then sext (8 * src.fmt.bytes) v else v
    let t := t.spendPfx.noTile
    return if s.regs.vl = 0 then t else t.setX d (if n < capacity s then v else 0)) s

/-- VINSERT (R159): no change where k is at or above C. -/
def execVinsert (k : Bool) (d a b : BitVec 5) (s : State) : Result :=
  member (.vinsert k d a b) (fun p s =>
    let tag := destTag s d
    let n := (s.x b).toNat
    let s := s.spendPfx
    let none_ := s.setRegs { s.regs with cv := some { tag := tag, elems := (blank s).map (fun _ => 0) } }
    if s.regs.vl = 0 ∨ capacity s ≤ n then .ok none_
    else
      let new := (blank s).setIfInBounds n (some (elemBits s tag (s.x a)))
      .ok (s.deliver p true d.toNat (groupFactor s.regs) tag new)) s

/-- The active elements' bits that a compare sets in mask register d (R162). -/
def compareOp (i : Instr) (d : BitVec 5) (e : Bool) (ops : List (Bool × BitVec 5))
    (plan : State → List Source → Eff (Nat → Bool)) (s : State) : Result :=
  member i (fun p s => do
    let srcs ← ops.mapM (fun o => source s o.1 o.2)
    let c ← plan s srcs
    let t ← consume s ops
    let t := t.spendPfx.noTile
    if s.regs.vl = 0 then return t
    else return (t.writeMask d.toNat (setOf ((activeIndices s p).filter c))).account p e (Outs.start t)) s

/-- Raw slots of n registers from a first one on, whatever their tags. -/
def rawGroup (s : State) (first : Nat) : Nat → XWord :=
  let vm := s.hart.vlmax
  fun i => ((curTile (vreg s.regs (first + i / vm))).elems).getD (i % vm) 0

end Machine
end Sys2Proof
end

