-- ==== Sys2Proof/Machine/VInt.lean ====
section
/-! DEFINITION. Major 0x11: integer element operations, compares, VSEL and VWMAC (R160 to R164). -/

namespace Sys2Proof
namespace Machine

/-! ### Formats and operands -/

/-- The operation format of integer sources (R146, R160): bitwise instructions accept tag 0 and give it the other source's
format; `bits` stands for w raw bytes. -/
def intFormat (bitwise : Bool) (fs : List Fmt) : Option Fmt :=
  let typed := if bitwise then fs.filter (· ≠ .bits) else fs
  if typed.isEmpty then some .bits
  else match opFormat typed with
    | some f => if f.isInt then some f else none
    | none => none

/-- An element as an integer of F; a tag-0 source is read in F. -/
def asInt (f : Fmt) (src : Source) (i : Nat) : Int := if src.fmt = .bits then f.int (src.get i) else src.fmt.int (src.get i)

/-- An exact result narrowed to F, then converted to the destination (R147, R161). -/
def intResult (f dst : Fmt) (acts sat : Bool) (v : Int) (r : Rnd) : XWord × Flags × BitVec 32 :=
  let (x, fl) := narrowInt f (sat && acts) v
  toDest f dst sat (x, fl, r.gen) r.mode

/-- An arithmetic operation of Table 7.5 on two integers; `n` is the width of F in bits and `acts` says whether SAT acts. -/
def intOp (i : Instr) (d : BitVec 5) (w e : Bool) (ops : List (Bool × BitVec 5)) (acts : Bool) (f : Nat → Int → Int → Int)
    (s : State) : Result :=
  elementwise i d w e ops (fun s p srcs =>
    match intFormat false (srcs.map (·.fmt)) with
    | none => illegal s
    | some fm => do
      let dst ← destFormat s w d fm
      let n := 8 * fm.bytes
      return {
        fmt := dst
        each := fun k r =>
          intResult fm dst acts p.sat (f n (asInt fm (src1 srcs) k) (asInt fm (src2 srcs) k)) r }) s

/-- A bitwise operation (R160): both sources tag 0 give tag 0. -/
def bitOp (i : Instr) (d : BitVec 5) (w e : Bool) (ops : List (Bool × BitVec 5)) (f : XWord → XWord → XWord) (s : State) :
    Result :=
  elementwise i d w e ops (fun s p srcs =>
    match intFormat true (srcs.map (·.fmt)) with
    | none => illegal s
    | some .bits => .ok { fmt := .bits, each := fun k r => moved (f (elem s (src1 srcs) k) (elem s (src2 srcs) k)) r }
    | some fm => do
      let dst ← destFormat s w d fm
      let n := 8 * fm.bytes
      return {
        fmt := dst
        each := fun k r =>
          toDest fm dst p.sat (f (wrapBits n (asInt fm (src1 srcs) k)) (wrapBits n (asInt fm (src2 srcs) k)), 0, r.gen) r.mode }) s

/-- A quotient or remainder (R49): by zero, all ones or the dividend, with DZ. -/
def intDiv (i : Instr) (d : BitVec 5) (w e : Bool) (ops : List (Bool × BitVec 5)) (quot : Bool) (s : State) : Result :=
  elementwise i d w e ops (fun s p srcs =>
    match intFormat false (srcs.map (·.fmt)) with
    | none => illegal s
    | some fm => do
      let dst ← destFormat s w d fm
      return {
        fmt := dst
        each := fun k r =>
          let a := asInt fm (src1 srcs) k
          let b := asInt fm (src2 srcs) k
          if b = 0 then
            (if quot then (lowBits dst.bytes (BitVec.allOnes 64), Flags.dz, r.gen)
             else
              let (v, fl, g) := intResult fm dst false p.sat a r
              (v, fl ||| Flags.dz, g))
          else intResult fm dst quot p.sat (if quot then a.tdiv b else a.tmod b) r }) s

/-- The shift amount b mod n. -/
def shiftBy (n : Nat) (b : Int) : Nat := (b % (n : Int)).toNat

/-- VADD (Table 7.5). -/
def execVadd (k : Bool) (d a b : BitVec 5) (w e qa qb : Bool) (s : State) : Result :=
  intOp (.vadd k d a b w e qa qb) d w e [(qa, a), (qb, b)] true (fun _ x y => x + y) s

/-- VSUB (Table 7.5). -/
def execVsub (k : Bool) (d a b : BitVec 5) (w e qa qb : Bool) (s : State) : Result :=
  intOp (.vsub k d a b w e qa qb) d w e [(qa, a), (qb, b)] true (fun _ x y => x - y) s

/-- VMUL (Table 7.5). -/
def execVmul (k : Bool) (d a b : BitVec 5) (w e qa qb : Bool) (s : State) : Result :=
  intOp (.vmul k d a b w e qa qb) d w e [(qa, a), (qb, b)] true (fun _ x y => x * y) s

/-- VMULH (Table 7.5). -/
def execVmulh (k : Bool) (d a b : BitVec 5) (w e qa qb : Bool) (s : State) : Result :=
  intOp (.vmulh k d a b w e qa qb) d w e [(qa, a), (qb, b)] false (fun n x y => x * y / (2 ^ n : Nat)) s

/-- VMIN (Table 7.5). -/
def execVmin (k : Bool) (d a b : BitVec 5) (w e qa qb : Bool) (s : State) : Result :=
  intOp (.vmin k d a b w e qa qb) d w e [(qa, a), (qb, b)] false (fun _ x y => if x ≤ y then x else y) s

/-- VMAX (Table 7.5). -/
def execVmax (k : Bool) (d a b : BitVec 5) (w e qa qb : Bool) (s : State) : Result :=
  intOp (.vmax k d a b w e qa qb) d w e [(qa, a), (qb, b)] false (fun _ x y => if x ≤ y then y else x) s

/-- VAND (Table 7.5). -/
def execVand (k : Bool) (d a b : BitVec 5) (w e qa qb : Bool) (s : State) : Result :=
  bitOp (.vand k d a b w e qa qb) d w e [(qa, a), (qb, b)] (· &&& ·) s

/-- VOR (Table 7.5). -/
def execVor (k : Bool) (d a b : BitVec 5) (w e qa qb : Bool) (s : State) : Result :=
  bitOp (.vor k d a b w e qa qb) d w e [(qa, a), (qb, b)] (· ||| ·) s

/-- VXOR (Table 7.5). -/
def execVxor (k : Bool) (d a b : BitVec 5) (w e qa qb : Bool) (s : State) : Result :=
  bitOp (.vxor k d a b w e qa qb) d w e [(qa, a), (qb, b)] (· ^^^ ·) s

/-- VSLL (Table 7.5). -/
def execVsll (k : Bool) (d a b : BitVec 5) (w e qa qb : Bool) (s : State) : Result :=
  intOp (.vsll k d a b w e qa qb) d w e [(qa, a), (qb, b)] true (fun n x y => x * (2 ^ shiftBy n y : Nat)) s

/-- VSRL (Table 7.5). -/
def execVsrl (k : Bool) (d a b : BitVec 5) (w e qa qb : Bool) (s : State) : Result :=
  intOp (.vsrl k d a b w e qa qb) d w e [(qa, a), (qb, b)] false (fun n x y => x % (2 ^ n : Nat) / (2 ^ shiftBy n y : Nat)) s

/-- VSRA (Table 7.5). -/
def execVsra (k : Bool) (d a b : BitVec 5) (w e qa qb : Bool) (s : State) : Result :=
  intOp (.vsra k d a b w e qa qb) d w e [(qa, a), (qb, b)] false (fun n x y => x / (2 ^ shiftBy n y : Nat)) s

/-- VABS (Table 7.5). -/
def execVabs (k : Bool) (d a : BitVec 5) (w e qa : Bool) (s : State) : Result :=
  intOp (.vabs k d a w e qa) d w e [(qa, a)] true (fun _ x _ => x.natAbs) s

/-- VDIV (Table 7.5, R49). -/
def execVdiv (k : Bool) (d a b : BitVec 5) (w e qa qb : Bool) (s : State) : Result :=
  intDiv (.vdiv k d a b w e qa qb) d w e [(qa, a), (qb, b)] true s

/-- VREM (Table 7.5, R49). -/
def execVrem (k : Bool) (d a b : BitVec 5) (w e qa qb : Bool) (s : State) : Result :=
  intDiv (.vrem k d a b w e qa qb) d w e [(qa, a), (qb, b)] false s

/-- An integer compare (R162). -/
def intCompare (i : Instr) (d : BitVec 5) (e : Bool) (ops : List (Bool × BitVec 5)) (f : Int → Int → Bool) (s : State) :
    Result :=
  compareOp i d e ops (fun s srcs =>
    match intFormat false (srcs.map (·.fmt)) with
    | none => illegal s
    | some fm => .ok (fun k => f (asInt fm (src1 srcs) k) (asInt fm (src2 srcs) k))) s

/-- VCMPEQ (R162). -/
def execVcmpeq (k : Bool) (d a b : BitVec 5) (e qa qb : Bool) (s : State) : Result :=
  intCompare (.vcmpeq k d a b e qa qb) d e [(qa, a), (qb, b)] (fun x y => decide (x = y)) s

/-- VCMPLT (R162). -/
def execVcmplt (k : Bool) (d a b : BitVec 5) (e qa qb : Bool) (s : State) : Result :=
  intCompare (.vcmplt k d a b e qa qb) d e [(qa, a), (qb, b)] (fun x y => decide (x < y)) s

/-- VCMPLE (R162). -/
def execVcmple (k : Bool) (d a b : BitVec 5) (e qa qb : Bool) (s : State) : Result :=
  intCompare (.vcmple k d a b e qa qb) d e [(qa, a), (qb, b)] (fun x y => decide (x ≤ y)) s

/-- VSEL (R163): by the current m0; a tag-0 source takes the other's format. -/
def execVsel (k : Bool) (d a b : BitVec 5) (w e qa qb : Bool) (s : State) : Result :=
  elementwise (.vsel k d a b w e qa qb) d w e [(qa, a), (qb, b)] (fun s _ srcs =>
    let x := (src1 srcs).fmt
    let y := (src2 srcs).fmt
    if x ≠ .bits ∧ y ≠ .bits ∧ x ≠ y then illegal s
    else
      let f := if x = .bits then y else x
      let m := maskOf s 0
      .ok {
        fmt := f
        each := fun k r =>
          moved (elemBits s f (if inSet m k then (src1 srcs).get k else (src2 srcs).get k)) r }) s

/-- One element of VWMAC (R164): the two halves of the accumulator after it, and SA. -/
def wmacStep (fm : Fmt) (sat : Bool) (lo hi : XWord) (a b : Int) : XWord × XWord × Flags :=
  let n := 8 * fm.bytes
  let acc := (lowBits fm.bytes hi).toNat * 2 ^ n + (lowBits fm.bytes lo).toNat
  let acc : Int := if fm.signed && decide (2 ^ (2 * n - 1) ≤ acc) then (acc : Int) - 2 ^ (2 * n) else acc
  let t := acc + a * b
  let l := intLo fm.signed (2 * n)
  let h := intHi fm.signed (2 * n)
  let c := if sat then (if t < l then l else if h < t then h else t) else t
  let u := wrapBits (2 * n) c
  (lowBits fm.bytes u, lowBits fm.bytes (u >>> n), Flags.when (sat && c != t) Flags.sa)

/-- VWMAC (R164). -/
def execVwmac (k : Bool) (d a b : BitVec 5) (e qa qb : Bool) (s : State) : Result :=
  member (.vwmac k d a b e qa qb) (fun p s => do
    let x ← source s qa a
    let y ← source s qb b
    match intFormat false [x.fmt, y.fmt] with
    | none => illegal s
    | some fm =>
      illegalWhen s (fm.bytes == 8)
      let t ← consume s [(qa, a), (qb, b)]
      let lo := rawGroup s d.toNat
      let hi := rawGroup s (d.toNat + groupFactor s.regs)
      let o := eachTwo s p (activeIndices s p) (fun i => wmacStep fm p.sat (lo i) (hi i) (asInt fm x i) (asInt fm y i))
      return deliverTwo t p true e d (intFmt false fm.bytes) (intFmt fm.signed fm.bytes) (fun i => !inShape s i) o) s

end Machine
end Sys2Proof
end

