-- ==== Sys2Proof/Machine/VFloat.lean ====
section
/-! DEFINITION. Major 0x12: floating-point element operations, compares, VFMA, VFCLASS, exact pairs and double words, and the
compensated reduction (R165 to R173). -/

namespace Sys2Proof
namespace Machine

/-- The operation format of floating-point sources (R146). -/
def floatFormat (fs : List Fmt) : Option Fmt :=
  match opFormat fs with
  | some f => if f.isFloat then some f else none
  | none => none

/-- The value of a source element, exact in F. -/
def asVal (src : Source) (i : Nat) : Val := src.fmt.val (src.get i)

/-- A value rounded to F, with the flags that computing it raised. -/
def roundF (f : Fmt) (v : Val) (fl : Flags) (r : Rnd) : XWord × Flags × BitVec 32 :=
  let o := roundTo f.fp r v
  (xword o.bits, fl ||| o.flags, o.gen)

/-- An operation of Table 7.6 that rounds once to F; `down` tells the sign of an exact zero sum. -/
def floatOp (i : Instr) (d : BitVec 5) (w e : Bool) (ops : List (Bool × BitVec 5)) (f : Bool → Val → Val → Val × Flags)
    (s : State) : Result :=
  elementwise i d w e ops (fun s _ srcs =>
    match floatFormat (srcs.map (·.fmt)) with
    | none => illegal s
    | some fm => do
      let dst ← destFormat s w d fm
      return {
        fmt := dst
        each := fun k r =>
          let (v, fl) := f r.down (asVal (src1 srcs) k) (asVal (src2 srcs) k)
          toDest fm dst false (roundF fm v fl r) r.mode }) s

/-- VFMIN and VFMAX: no rounding in F and no flag (R165). -/
def floatPick (i : Instr) (d : BitVec 5) (w e : Bool) (ops : List (Bool × BitVec 5)) (f : Val → Val → Val) (s : State) :
    Result :=
  elementwise i d w e ops (fun s _ srcs =>
    match floatFormat (srcs.map (·.fmt)) with
    | none => illegal s
    | some fm => do
      let dst ← destFormat s w d fm
      return {
        fmt := dst
        each := fun k r =>
          let x := xword (roundCore fm.fp Rnd.rne (f (asVal (src1 srcs) k) (asVal (src2 srcs) k))).1
          toDest fm dst false (x, 0, r.gen) r.mode }) s

/-- VFADD (Table 7.6). -/
def execVfadd (k : Bool) (d a b : BitVec 5) (w e qa qb : Bool) (s : State) : Result :=
  floatOp (.vfadd k d a b w e qa qb) d w e [(qa, a), (qb, b)] (fun down x y => x.add down y) s

/-- VFSUB (Table 7.6). -/
def execVfsub (k : Bool) (d a b : BitVec 5) (w e qa qb : Bool) (s : State) : Result :=
  floatOp (.vfsub k d a b w e qa qb) d w e [(qa, a), (qb, b)] (fun down x y => x.add down y.neg) s

/-- VFMUL (Table 7.6). -/
def execVfmul (k : Bool) (d a b : BitVec 5) (w e qa qb : Bool) (s : State) : Result :=
  floatOp (.vfmul k d a b w e qa qb) d w e [(qa, a), (qb, b)] (fun _ x y => x.mul y) s

/-- VFDIV (Table 7.6). -/
def execVfdiv (k : Bool) (d a b : BitVec 5) (w e qa qb : Bool) (s : State) : Result :=
  floatOp (.vfdiv k d a b w e qa qb) d w e [(qa, a), (qb, b)] (fun _ x y => x.div y) s

/-- VFSQRT (Table 7.6, R166). -/
def execVfsqrt (k : Bool) (d a : BitVec 5) (w e qa : Bool) (s : State) : Result :=
  floatOp (.vfsqrt k d a w e qa) d w e [(qa, a)] (fun _ x _ => x.sqrt) s

/-- VFRCP (Table 7.6, R166). -/
def execVfrcp (k : Bool) (d a : BitVec 5) (w e qa : Bool) (s : State) : Result :=
  floatOp (.vfrcp k d a w e qa) d w e [(qa, a)] (fun _ x _ => Val.div (.fin false 1 0) x) s

/-- VFEXP2 (Table 7.6, R166). -/
def execVfexp2 (k : Bool) (d a : BitVec 5) (w e qa : Bool) (s : State) : Result :=
  floatOp (.vfexp2 k d a w e qa) d w e [(qa, a)] (fun _ x _ => x.exp2) s

/-- VFLOG2 (Table 7.6, R166). -/
def execVflog2 (k : Bool) (d a : BitVec 5) (w e qa : Bool) (s : State) : Result :=
  floatOp (.vflog2 k d a w e qa) d w e [(qa, a)] (fun _ x _ => x.log2) s

/-- VFMIN (Table 7.6, R51). -/
def execVfmin (k : Bool) (d a b : BitVec 5) (w e qa qb : Bool) (s : State) : Result :=
  floatPick (.vfmin k d a b w e qa qb) d w e [(qa, a), (qb, b)] Val.minNum s

/-- VFMAX (Table 7.6, R51). -/
def execVfmax (k : Bool) (d a b : BitVec 5) (w e qa qb : Bool) (s : State) : Result :=
  floatPick (.vfmax k d a b w e qa qb) d w e [(qa, a), (qb, b)] Val.maxNum s

/-- VFMA (R167): the destination's tag counts among the sources, and the addend is read before the write. -/
def execVfma (k : Bool) (d a b : BitVec 5) (e qa qb : Bool) (s : State) : Result :=
  elementwise (.vfma k d a b e qa qb) d true e [(qa, a), (qb, b)] (fun s _ srcs => do
    let c ← groupSource s d.toNat (groupFactor s.regs)
    match floatFormat (srcs.map (·.fmt) ++ [c.fmt]) with
    | none => illegal s
    | some fm =>
      let dst ← destFormat s true d fm
      return {
        fmt := dst
        each := fun i r =>
          let (v, fl) := Val.fma r.down (asVal (src1 srcs) i) (asVal (src2 srcs) i) (asVal c i)
          toDest fm dst false (roundF fm v fl r) r.mode }) s

/-- A floating-point compare (R168). -/
def floatCompare (i : Instr) (d : BitVec 5) (e : Bool) (ops : List (Bool × BitVec 5)) (f : Val → Val → Bool) (s : State) :
    Result :=
  compareOp i d e ops (fun s srcs =>
    match floatFormat (srcs.map (·.fmt)) with
    | none => illegal s
    | some _ => .ok (fun k => f (asVal (src1 srcs) k) (asVal (src2 srcs) k))) s

/-- VFCMPEQ (R168). -/
def execVfcmpeq (k : Bool) (d a b : BitVec 5) (e qa qb : Bool) (s : State) : Result :=
  floatCompare (.vfcmpeq k d a b e qa qb) d e [(qa, a), (qb, b)] Val.eq s

/-- VFCMPLT (R168). -/
def execVfcmplt (k : Bool) (d a b : BitVec 5) (e qa qb : Bool) (s : State) : Result :=
  floatCompare (.vfcmplt k d a b e qa qb) d e [(qa, a), (qb, b)] Val.lt s

/-- VFCMPLE (R168). -/
def execVfcmple (k : Bool) (d a b : BitVec 5) (e qa qb : Bool) (s : State) : Result :=
  floatCompare (.vfcmple k d a b e qa qb) d e [(qa, a), (qb, b)] Val.le s

/-- VFCLASS (R169): the destination is an integer of 2 bytes or more, UINT16 for tag 0 and for W = 0. -/
def execVfclass (k : Bool) (d a : BitVec 5) (w e qa : Bool) (s : State) : Result :=
  elementwise (.vfclass k d a w e qa) d w e [(qa, a)] (fun s _ srcs => do
    let fm := (src1 srcs).fmt
    let tag := if w then destTag s d else .bits
    illegalWhen s (!fm.isFloat || !(tag == .bits || (tag.isInt && decide (2 ≤ tag.bytes))))
    return {
      fmt := if tag = .bits then .u16 else tag
      each := fun i r => moved (xword (fm.fp.classOf (((src1 srcs).get i).toNat % 2 ^ fm.fp.bits))) r }) s

/-! ### Exact pairs and double words (R170 to R173) -/

/-- The format of a pair result: FP32, FP16 or BF16, with a destination tagged the same or 0, alike in both halves (R170). -/
def pairFormat (s : State) (d : BitVec 5) (f : Fmt) : Eff Unit :=
  let error := (curTile (vreg s.regs (d.toNat + groupFactor s.regs))).tag
  illegalWhen s (!(f.isFloat && (destTag s d == .bits || destTag s d == f) && error == destTag s d))

/-- The encoding in F of a source element, exact. -/
def inF (f : Fmt) (src : Source) (i : Nat) : Nat := (roundCore f.fp Rnd.rne (asVal src i)).1

def pairOut (p : Pair) : XWord × XWord × Flags := (xword p.h, xword p.l, p.flags)

/-- VFADD.X, VFSUB.X and VFMUL.X (R171). -/
def exactOp (i : Instr) (d : BitVec 5) (e : Bool) (qa qb : Bool) (a b : BitVec 5) (f : FpFmt → Nat → Nat → Pair) (s : State) :
    Result :=
  member i (fun p s => do
    let x ← source s qa a
    let y ← source s qb b
    match floatFormat [x.fmt, y.fmt] with
    | none => illegal s
    | some fm =>
      pairFormat s d fm
      let t ← consume s [(qa, a), (qb, b)]
      let o := eachTwo s p (activeIndices s p) (fun n => pairOut (f fm.fp (inF fm x n) (inF fm y n)))
      return deliverTwo t p false e d fm fm (fun n => !inShape s n) o) s

/-- VFADD.X (R171). -/
def execVfaddX (k : Bool) (d a b : BitVec 5) (e qa qb : Bool) (s : State) : Result :=
  exactOp (.vfaddX k d a b e qa qb) d e qa qb a b twoSum s

/-- An encoding with its sign flipped. -/
def flipSign (f : FpFmt) (w : Nat) : Nat := w ^^^ 2 ^ (f.bits - 1)

/-- VFSUB.X (R171). -/
def execVfsubX (k : Bool) (d a b : BitVec 5) (e qa qb : Bool) (s : State) : Result :=
  exactOp (.vfsubX k d a b e qa qb) d e qa qb a b (fun f x y => twoSum f x (flipSign f y)) s

/-- VFMUL.X (R171). -/
def execVfmulX (k : Bool) (d a b : BitVec 5) (e qa qb : Bool) (s : State) : Result :=
  exactOp (.vfmulX k d a b e qa qb) d e qa qb a b twoProd s

/-- The pair at a linear index of a pair group: head at i, error at C + i (R170). -/
def pairAt (s : State) (f : Fmt) (src : Source) (i : Nat) : Nat × Nat :=
  ((lowBits f.bytes (src.get i)).toNat, (lowBits f.bytes (src.get (capacity s + i))).toNat)

/-- VDWADD, VDWMUL and VDWNORM (R172): on the pair groups named. -/
def doubleOp (i : Instr) (d : BitVec 5) (e : Bool) (groups : List (BitVec 5)) (f : FpFmt → Nat × Nat → Nat × Nat → Pair)
    (s : State) : Result :=
  member i (fun p s => do
    let srcs ← groups.mapM (fun g => groupSource s g.toNat (2 * groupFactor s.regs))
    let fm := (src1 srcs).fmt
    illegalWhen s (srcs.any (fun x => x.fmt != fm))
    pairFormat s d fm
    let o := eachTwo s p (activeIndices s p) (fun n =>
      pairOut (f fm.fp (pairAt s fm (src1 srcs) n) (pairAt s fm (src2 srcs) n)))
    return deliverTwo s p false e d fm fm (fun n => !inShape s n) o) s

/-- VDWADD (R172). -/
def execVdwadd (k : Bool) (d a b : BitVec 5) (e : Bool) (s : State) : Result :=
  doubleOp (.vdwadd k d a b e) d e [a, b] (fun f x y => dwAdd f x.1 x.2 y.1 y.2) s

/-- VDWMUL (R172). -/
def execVdwmul (k : Bool) (d a b : BitVec 5) (e : Bool) (s : State) : Result :=
  doubleOp (.vdwmul k d a b e) d e [a, b] (fun f x y => dwMul f x.1 x.2 y.1 y.2) s

/-- VDWNORM (R172). -/
def execVdwnorm (k : Bool) (d a : BitVec 5) (e : Bool) (s : State) : Result :=
  doubleOp (.vdwnorm k d a e) d e [a] (fun f x _ => dwNorm f x.1 x.2) s

/-- The largest power of two below n, for n of 2 or more. -/
def powerBelow (n : Nat) : Nat := 2 ^ Nat.log2 (n - 1)

/-- Tree(0, n) of R69 over a list, with its state threaded in the order of R192; the fuel bounds the depth. -/
def tree {α σ : Type} (f : σ → α → α → α × σ) (zero : α) : Nat → σ → List α → α × σ
  | _, g, [] => (zero, g)
  | _, g, [x] => (x, g)
  | 0, g, x :: _ => (x, g)
  | fuel + 1, g, l =>
    let k := powerBelow l.length
    let (x, g) := tree f zero fuel g (l.take k)
    let (y, g) := tree f zero fuel g (l.drop k)
    f g x y

/-- Tree(0, n) over a whole list: its length bounds the depth. -/
def treeOver {α σ : Type} (f : σ → α → α → α × σ) (zero : α) (g : σ) (l : List α) : α × σ := tree f zero l.length g l

/-- VREDSUM.X (R69, R173): masked-off elements enter as (+0, +0), and a NaN component as the canonical NaN (R51). -/
def execVredsumX (k : Bool) (d a : BitVec 5) (e : Bool) (s : State) : Result :=
  member (.vredsumX k d a e) (fun p s => do
    let x ← groupSource s a.toNat (2 * groupFactor s.regs)
    let fm := x.fmt
    pairFormat s d fm
    let rs := rowSize s
    let f := fun (fl : Flags) (u v : Nat × Nat) =>
      let q := dwAdd fm.fp u.1 u.2 v.1 v.2
      ((q.h, q.l), fl ||| q.flags)
    let row := fun n =>
      let items := (span n s.regs.vl).map (fun i =>
        if predicate s p i then (fm.fp.canon (pairAt s fm x i).1, fm.fp.canon (pairAt s fm x i).2) else (0, 0))
      let (q, fl) := treeOver f (0, 0) 0 items
      (xword q.1, xword q.2, fl)
    let o := eachTwo s p ((span 0 s.regs.vr).map (· * rs)) row
    return deliverTwo s p false e d fm fm (fun i => !(inShape s i && i % rs == 0)) o) s

end Machine
end Sys2Proof
end

