-- ==== Sys2Proof/Machine/Gen.lean ====
section
/-! DEFINITION. Majors 0x1D and 0x1E: the attention chain, tree masks, acceptance, commit and top-k selection (R327 to R339). -/

namespace Sys2Proof
namespace Machine

/-! ### The attention descriptor (Table 19.2) -/

/-- The fields of Table 19.2. -/
structure Attn where
  qreg : Nat
  d : Nat
  kfmt : Nat
  ev : Bool
  evreg : Nat
  voff : Nat
  scale : Nat
  rsv : Bool
deriving DecidableEq, Repr

def Attn.of (v : XWord) : Attn :=
  { qreg := xbits v 0 5, d := xbits v 5 7, kfmt := xbits v 12 2, ev := v.getLsbD 14, evreg := xbits v 15 5,
    voff := xbits v 21 11, scale := xbits v 32 32, rsv := v.getLsbD 20 }

/-- The format of keys and values. -/
def Attn.fmt (t : Attn) : Fmt := if t.kfmt = 0 then .f16 else if t.kfmt = 1 then .bf16 else .f32

/-- Head dimensions outside 1 to 64 name no head. -/
def Attn.headBad (t : Attn) : Bool := t.d == 0 || decide (64 < t.d)

/-- Values of a key or value vector whose first row is `row`, read from S-space element by element (R327, R329). -/
def headVector (s : State) (t : Attn) (row : Int) (k : Nat) : Eff (List Val) :=
  let w := t.fmt.bytes
  (span 0 t.d).mapM (fun j => do
    let bs ← spLoad s (BitVec.ofInt 64 (64 * row + (j * w : Nat))) w w k
    return t.fmt.val (xword (leNat bs)))

/-- A group named by the descriptor: its alignment (ILLEGAL), its reach (DECL), and its tile (R330, R334). -/
def descGroup (s : State) (first : Nat) (overlap : Bool) : Eff Source := do
  let g := groupFactor s.regs
  illegalWhen s (first % g != 0 || overlap)
  if s.hart.vn < first + g then declFault s
  groupSource s first g

/-- Tags of an index group of R329. -/
def keyIndexTag (f : Fmt) : Bool := f == .u16 || f == .u32 || f == .i32

/-- CONVOY at the executing word: a chain member without the member before it (R332). -/
def chainBroken {α : Type} (s : State) : Eff α := .error (.trap { code := cCONVOY, tv := s.regs.pc })

/-- The accumulator group's checks (R331). -/
def accumulator (s : State) (t : Attn) (first : BitVec 5) : Eff Source := do
  let src ← groupSource s first.toNat (groupFactor s.regs)
  illegalWhen s (src.fmt != .f32 || decide (rowSize s < t.d + 2))
  return src

/-- A value rounded to FP32 by RNE, with the flags that computing it raised. -/
def toF32 (v : Val × Flags) : XWord × Flags :=
  let (b, fl) := roundCore fp32 Rnd.rne v.1
  (xword b, v.2 ||| fl)

/-! ### The chain -/

/-- One score of VSCORE (R330). -/
def score (t : Attn) (q key : List Val) : XWord × Flags :=
  let (dot, f1) := sumExact (List.zipWith Val.mul q key)
  let (v, f2) := (fp32.val t.scale).mul dot
  toF32 (v, f1 ||| f2)

/-- VSCORE (R328 to R330). -/
def execVscore (k : Bool) (d a b : BitVec 5) (w : Bool) (s : State) : Result :=
  member (.vscore k d a b w) (fun p s => do
    let t := Attn.of (s.x a)
    illegalWhen s (t.rsv || t.kfmt == 3 || t.headBad || decide (rowSize s < t.d))
    let q ← descGroup s t.qreg false
    let idx ← groupSource s b.toNat (groupFactor s.regs)
    illegalWhen s (!(q.fmt == .f16 || q.fmt == .bf16 || q.fmt == .f32) || !keyIndexTag idx.fmt)
    let rs := rowSize s
    let o ← (shapeIndices s).foldlM (fun (o : Outs) i => do
      if predicate s p i then
        let r := i / rs
        let key ← headVector s t (idx.fmt.int (idx.get i)) (r * s.regs.vl + i % rs)
        let (v, fl) := score t ((span (r * rs) t.d).map (asVal q)) key
        return o.put 0 i v fl (gen o.gens i)
      else return o.put 0 i (xword (fp32.top + fp32.sign true)) 0 (gen o.gens i)) (Outs.start s)
    let u := deliverElems s p w false d .f32 o
    return u.setRegs { u.regs with chain := some { desc := s.x a, idx := b, mn := #[], alpha := #[] } }) s

/-- 2^(x − m), rounded, the exponent exact (R333). -/
def pow2of (x m : Val) : XWord × Flags :=
  let (e, f1) := x.add false m.neg
  let (v, f2) := e.exp2
  toF32 (v, f1 ||| f2)

/-- The new maximum of a row: NaN when the old one or an active score is NaN (R333). -/
def rowMax (mo : Val) (scores : List Val) : Val :=
  if (mo :: scores).any (fun v => v == .nan) then .nan else scores.foldl Val.maxNum (Val.maxNum mo (.inf true))

/-- VEXPM (R333). -/
def execVexpm (k : Bool) (d b : BitVec 5) (w : Bool) (s : State) : Result :=
  member (.vexpm k d b w) (fun p s => do
    match s.regs.chain with
    | none => chainBroken s
    | some ch =>
      let t := Attn.of ch.desc
      let sc ← source s true 4
      let acc ← accumulator s t b
      let rs := rowSize s
      let (o, mns, alphas) := (span 0 s.regs.vr).foldl (fun (st : Outs × Array (BitVec 32) × Array (BitVec 32)) r =>
        let cols := span (r * rs) s.regs.vl
        let mo := fp32.val (elem s acc (r * rs + t.d + 1)).toNat
        let mn := rowMax mo ((cols.filter (predicate s p)).map (asVal sc))
        let low := mn == .inf true
        let (alpha, f1) := if low then (xword 0x3F800000, 0) else pow2of mo mn
        let o := { st.1 with flags := st.1.flags ||| f1 }
        let o := cols.foldl (fun (o : Outs) i =>
          let (v, fl) := if predicate s p i && !low then pow2of (asVal sc i) mn else (0, 0)
          o.put 0 i v fl (gen o.gens i)) o
        (o, st.2.1.push ((toF32 (mn, 0)).1.setWidth 32), st.2.2.push (alpha.setWidth 32))) (Outs.start s, #[], #[])
      let u := deliverElems s p w false d .f32 o
      return u.setRegs { u.regs with chain := some { ch with mn := mns, alpha := alphas } }) s

/-- The three quantities of a row of the accumulator group after VACCV (R334): `ps` are the row's active weights and `vals`
their value vectors. -/
def accRow (t : Attn) (old : Nat → Val) (alpha : Val) (mn : BitVec 32) (ps : List Val) (vals : List (List Val)) :
    List (XWord × Flags) :=
  let one : Val := .fin false 1 0
  (span 0 (t.d + 1)).map (fun j =>
    let ys := if j < t.d then vals.map (fun v => v.getD j .nan) else ps.map (fun _ => one)
    toF32 (sumExact (alpha.mul (old j) :: List.zipWith Val.mul ps ys)))
    ++ [(mn.setWidth 64, 0)]

/-- VACCV (R334): its predicate is its own. -/
def execVaccv (k : Bool) (d b : BitVec 5) (s : State) : Result :=
  member (.vaccv k d b) (fun p s => do
    match s.regs.chain with
    | none => chainBroken s
    | some ch =>
      let t := Attn.of ch.desc
      let g := groupFactor s.regs
      let pt ← source s true 4
      let acc ← accumulator s t d
      let idx ← groupSource s b.toNat g
      illegalWhen s (!keyIndexTag idx.fmt)
      let ev : Source ← (if t.ev then do
          let e ← descGroup s t.evreg (overlaps (t.evreg, g) (d.toNat, g))
          illegalWhen s (e.fmt != .f32)
          return e
        else return pt)
      let rs := rowSize s
      let o ← (span 0 s.regs.vr).foldlM (fun (o : Outs) r => do
        let cols := (span (r * rs) s.regs.vl).filter (predicate s p)
        let vals ← cols.mapM (fun i =>
          headVector s t (idx.fmt.int (idx.get i) + t.voff) (r * s.regs.vl + i % rs))
        let res := accRow t (fun j => asVal acc (r * rs + j)) (fp32.val (ch.alpha.getD r 0).toNat) (ch.mn.getD r 0)
          (cols.map (asVal pt)) vals
        return ((span (r * rs) (t.d + 2)).zip res).foldl (fun (o : Outs) x =>
          o.put 0 x.1 x.2.1 x.2.2 (gen o.gens x.1)) o) (Outs.start s)
      let weights := if t.ev then (activeIndices s p).map (fun i =>
        (i, toF32 ((fp32.val (elem s ev i).toNat).add false (asVal pt i)))) else []
      let oe := weights.foldl (fun (o : Outs) x => o.put 0 x.1 x.2.1 x.2.2 (gen o.gens x.1)) (Outs.start s)
      let u := deliverTail s p true false d .f32 (fun _ => false) { o with flags := o.flags ||| oe.flags }
      return if t.ev && s.regs.vl != 0 then u.writeGroup t.evreg g .f32 oe.new else u) s

/-- VSOFTFIN (R335). -/
def execVsoftfin (k : Bool) (d a b : BitVec 5) (qa : Bool) (s : State) : Result :=
  member (.vsoftfin k d a b qa) (fun p s => do
    let t := Attn.of (s.x b)
    let src ← source s qa a
    illegalWhen s (t.headBad || decide (rowSize s < t.d + 2) || src.fmt != .f32 || destTag s d != .f32)
    let u ← consume s [(qa, a)]
    let rs := rowSize s
    let o := ((span 0 s.regs.vr).flatMap (fun r => span (r * rs) (t.d + 2))).foldl (fun (o : Outs) i =>
      let l := i / rs * rs + t.d
      if !predicate s p i then o
      else if l ≤ i then o.put 0 i (elem s src i) 0 (gen o.gens i)
      else if elem s src l = 0 then o.put 0 i 0 0 (gen o.gens i)
      else
        let (v, fl) := toF32 ((asVal src i).div (asVal src l))
        o.put 0 i v fl (gen o.gens i)) (Outs.start s)
    return deliverTail u p true false d .f32 (fun i => !(decide (i / rs < s.regs.vr) && decide (i % rs < t.d + 2))) o) s

/-! ### Tree masks, acceptance and commit -/

/-- VTREEM (R336). -/
def execVtreem (k : Bool) (d a : BitVec 5) (s : State) : Result :=
  member (.vtreem k d a) (fun p s => do
    let src ← groupSource s a.toNat (groupFactor s.regs)
    let rs := rowSize s
    illegalWhen s (src.fmt != .i64 || decide (rs < 2))
    let t := s.spendPfx.noTile
    let sees := fun (i : Nat) =>
      let r := i / rs * rs
      let j : Int := (i % rs : Nat) - (src.get (r + 1)).toInt
      decide (j < 0) || (decide (j < 64) && (src.get r).getLsbD j.toNat)
    return if s.regs.vl = 0 then t else t.writeMask d.toNat (setOf ((activeIndices s p).filter sees))) s

/-- VACCEPT (R337). -/
def execVaccept (k : Bool) (d a : BitVec 5) (s : State) : Result :=
  member (.vaccept k d a) (fun p s => do
    let tag := destTag s d
    illegalWhen s (!(tag == .bits || (tag.isInt && decide (2 ≤ tag.bytes))))
    let fmt := if tag = .bits then Fmt.u32 else tag
    let rs := rowSize s
    let m := maskOf s a
    let firstOf := fun r => ((span 0 s.regs.vl).find? (fun c =>
      !(predicate s p (r * rs + c) && inSet m (r * rs + c)))).getD s.regs.vl
    let o := (span 0 s.regs.vr).foldl (fun (o : Outs) r =>
      { o with new := o.new.setIfInBounds (r * rs) (some (wrapBits (8 * fmt.bytes) (firstOf r))) }) (Outs.start s)
    return deliverTail s p true false d fmt (fun i => !(inShape s i && i % rs == 0)) o) s

/-- One row of VCOMMITM: n tokens appended to the buffer that the entry at `e` names. -/
def commitRow (s : State) (e : XWord) (w k n : Nat) (tok : Nat → XWord) : Eff State := do
  let (bs, s) ← loadBytes s .read e 8 8 k
  let (ls, s) ← loadBytes s .read (e + 8) 8 8 k
  let buf := xword (leNat bs)
  let len := xword (leNat ls)
  let s ← (span 0 n).foldlM (fun s c =>
    storeBytes s (buf + (len + xword c) * xword w) w (k + c) (leBytes w (tok c).toNat)) s
  storeBytes s (e + 8) 8 k (leBytes 8 (len + xword n).toNat)

/-- VCOMMITM (R338). -/
def execVcommitm (k : Bool) (d a b : BitVec 5) (qa : Bool) (s : State) : Result :=
  member (.vcommitm k d a b qa) (fun p s => do
    let tok ← source s qa a
    let len ← groupSource s b.toNat (groupFactor s.regs)
    illegalWhen s (!(tok.fmt == .i16 || tok.fmt == .u16 || tok.fmt == .i32 || tok.fmt == .u32) || !len.fmt.isInt)
    let s ← consume s [(qa, a)]
    let rs := rowSize s
    let rows := if s.regs.vl = 0 then [] else (span 0 s.regs.vr).filter (fun r => predicate s p (r * rs))
    let t ← rows.foldlM (fun t r =>
      let n := min (max (len.fmt.int (len.get (r * rs))) 0).toNat s.regs.vl
      if n = 0 then .ok t
      else commitRow t (s.x d + xword (16 * r)) tok.fmt.bytes (r * s.regs.vl) n (fun c => tok.get (r * rs + c))) s
    return t.spendPfx.noTile) s

/-! ### Top-k -/

/-- Whether candidate y beats x (R339): a NaN ranks below every number, −0 below +0. -/
def beats (y x : Val) : Bool :=
  match y, x with
  | .nan, _ => false
  | _, .nan => true
  | .fin sy my _, .fin sx mx _ => if my == 0 && mx == 0 then !sy && sx else x.lt y
  | _, _ => x.lt y

/-- The best candidate, the lowest index winning ties. -/
def bestOf (f : Nat → Val) : List Nat → Option Nat
  | [] => none
  | i :: is => some (is.foldl (fun b j => if beats (f j) (f b) then j else b) i)

/-- The value of an element of an integer or binary float tag. -/
def candidate (src : Source) (i : Nat) : Val := if src.fmt.isInt then Val.ofInt (src.fmt.int (src.get i)) else asVal src i

/-- VMAXI (R339). -/
def execVmaxi (k : Bool) (d a b : BitVec 5) (s : State) : Result :=
  member (.vmaxi k d a b) (fun p s => do
    let g := groupFactor s.regs
    let src ← groupSource s a.toNat g
    illegalWhen s (!(src.fmt.isInt || src.fmt.isFloat) || decide (declWidth s < 4))
    let rs := rowSize s
    let m := maskOf s b
    let (o, m') := (span 0 s.regs.vr).foldl (fun (acc : Outs2 × Nat) r =>
      let act := (span (r * rs) s.regs.vl).filter (predicate s p)
      match bestOf (candidate src) (act.filter (inSet m)) with
      | none => acc
      | some i =>
        let j := r * rs + (act.filter (fun n => !inSet m n)).length
        let v := if src.fmt.isFloat && asVal src i == .nan then xword src.fmt.fp.nan else src.get i
        ({ acc.1 with
            fst := acc.1.fst.setIfInBounds j (some v), snd := acc.1.snd.setIfInBounds j (some (xword (i % rs))) },
          acc.2 ^^^ 2 ^ i)) ({ fst := blank s, snd := blank s, flags := 0, exc := 0 }, m)
    let u := deliverTwo s p false false d src.fmt .u32 (fun _ => false) o
    return if s.regs.vl = 0 then u else u.writeMask b.toNat m') s

end Machine
end Sys2Proof
end

