-- ==== Sys2Proof/Machine/Management.lean ====
section
/-! DEFINITION. The host's side: contexts and their interfaces, grants, starts, exports, registers and host or peer accesses
(R249, R252, R352 to R354, R372, R375 to R377, R383 to R385, R407, R423, R428 to R434, R445). -/

namespace Sys2Proof
namespace Machine

def State.respond (s : State) (r : Response) : State := { s with dev := { s.dev with response := r } }

/-! ### The steward's allocation -/

/-- The error queue of a context, in steward frames (R409). -/
def errorQueueBase (ctx : Nat) : Nat := Config.stewardFrame * Config.frameBytes + errorQueueBytes * ctx

/-- A frame put at its place among frames in ascending order. -/
def insertFrame (f : Nat) : List Nat → List Nat
  | [] => [f]
  | g :: l => if f ≤ g then f :: g :: l else g :: insertFrame f l

/-- Every frame of a grant in ascending physical order: the frame table (R354). -/
def Grant.table (g : Grant) : List Nat := (g.frames ++ g.slots.flatMap (fun p => span (256 * p) 256)).foldr insertFrame []

/-- Grants in force or reserved of every context but one. -/
def otherGrants (s : State) (ctx : Nat) : List Grant :=
  (s.ctxs.filter (fun c => c.1 != ctx)).flatMap (fun c => c.2.grant.toList ++ c.2.reserved.toList)

def frameFree (s : State) (ctx f : Nat) : Bool :=
  decide (f < Config.stewardFrame) && !s.dev.retiredFrames.contains f && !(otherGrants s ctx).any (fun g => g.owns f)

/-- A slot that can be granted whole. -/
def slotFree (s : State) (ctx p : Nat) : Bool :=
  !(s.chanAt p).retired && (s.chanAt p).dedicated.isNone && decide (256 * (p + 1) ≤ Config.stewardFrame)
    && !(otherGrants s ctx).any (fun g => g.slots.contains p || g.frames.any (fun f => f / 256 == p))
    && !s.dev.retiredFrames.any (fun f => f / 256 == p)

/-- n of the numbers below m that are good, in a circle from a start. -/
def pickFrom (good : Nat → Bool) (m : Nat) : Nat → Nat → Nat → List Nat
  | _, 0, _ => []
  | _, _, 0 => []
  | start, n + 1, fuel + 1 =>
    if good (start % m) then start % m :: pickFrom good m (start + 1) n fuel
    else pickFrom good m (start + 1) (n + 1) fuel

/-- Arrays still good for service (R419, Table 1.1). -/
def arraysGood (s : State) : Nat :=
  ((span 0 4).map (fun d =>
    min (Config.arraysInService / 4)
      (Config.arraysPerDie - (s.warrays.filter (fun a => a.2.failed && a.1 / Config.arraysPerDie == d)).length))).sum

/-! ### Management requests (R383) -/

def reqByte (d : Device) (i : Nat) : Nat := (d.mreq.getD i 0).toNat
def reqField (d : Device) (i n : Nat) : Nat := leNat ((d.mreq.drop i).take n)
def reqZero (d : Device) (i n : Nat) : Bool := ((d.mreq.drop i).take n).all (· == 0)

/-- The header's CTX, and whether its reserved bits are 0. -/
def reqCtx (d : Device) : Nat := reqByte d 1 % 64
def reqHeadOk (d : Device) : Bool := reqByte d 1 / 64 == 0 && reqZero d 2 6

/-- A request done: MRESP, then MDONE. -/
def State.finishReq (s : State) (mseq : XWord) (resp : List Byte) : State :=
  { s with dev := { s.dev with
      mseq := mseq, mdone := mseq, mresp := (resp ++ List.replicate 256 0).take 256 } }

/-- A host write of MSEQ with the request that MREQ holds: one whose value is not MDONE + 1 is discarded, and so is every
request until the steward runs.  It does not pass the host's writes that wait (R250). -/
def manage (name : String) (isOp : Nat → Bool) (mseq : XWord) (f : State → State × List Byte) (s : State) : Result :=
  if (Outside.request mseq).waits s then .next (s.defer (.request mseq))
  else if !isOp (reqByte s.dev 0) then notEnabled name
  else if mseq ≠ s.dev.mdone + 1 ∨ booted s = false then .next s
  else
    let (t, resp) := f s
    .next (t.finishReq mseq resp)

def status (n : Nat) : List Byte := leBytes 8 n

/-- The host ranges that a GRANT request names. -/
def reqHosts (d : Device) : List (Nat × Nat) :=
  ((span 0 4).map (fun i => (reqField d (32 + 16 * i) 8, reqField d (40 + 16 * i) 8))).filter (fun h => h.2 != 0)

def hostRangeOk (h : Nat × Nat) : Bool :=
  h.1 % 4096 == 0 && h.2 % 4096 == 0 && decide (Config.hostBase ≤ h.1) && decide (h.1 + h.2 ≤ Config.peerBase)

/-- Virtual addresses that the steward chooses for a grant, from one free value: a 1 GiB range of the lower half. -/
def stewardVa (n : Nat) : Nat := (Config.free n).toNat % 2 ^ 26 * 2 ^ 30

/-- Pages of the second frame that hold the steward's lower-level tables: one of level 2, one of level 1 and two of level 0
(R384, R445). -/
def tablePages : Nat := 4

/-- The reservation of a GRANT request; none when its resources are not free (R384). -/
def reserve (s : State) (ctx : Nat) : Option Grant :=
  let d := s.dev
  let nf := reqField d 8 4
  let ns := reqField d 12 2
  let na := reqField d 14 2
  let dvq := reqField d 16 4
  let nh := reqField d 20 4
  let hosts := reqHosts d
  let others := otherGrants s ctx
  if nf < 2 ∨ 393216 < nf ∨ 1536 < ns ∨ 16384 < na ∨ Config.doveEntries < dvq ∨ nh < 2 ∨ nf + 256 * ns < nh
      ∨ !hosts.all hostRangeOk ∨ arraysGood s < na + (others.map (·.arrays)).sum
      ∨ Config.doveEntries < dvq + (others.map (·.dvq)).sum then none
  else
    let slots := pickFrom (slotFree s ctx) Config.channels (Config.free (s.free + 1)).toNat ns Config.channels
    let frames := pickFrom (fun f => frameFree s ctx f && !slots.contains (f / 256)) (Config.deviceBytes / Config.frameBytes)
      (Config.free (s.free + 2)).toNat nf (Config.deviceBytes / Config.frameBytes)
    if slots.length < ns ∨ frames.length < nf then none
    else
      let g : Grant :=
        { frames := frames, slots := slots, arrays := na, dvq := dvq, nhvis := nh, peers := BitVec.ofNat 8 (reqByte d 24),
          hosts := hosts, ptroot := 0, ptva := xword (stewardVa s.free),
          framesVa := xword (stewardVa s.free + 2 ^ 29 + 4096 * tablePages), ftpa := 0 }
      let t := g.table
      some { g with
        ptroot := t.getD 0 0 * Config.frameBytes, ftpa := t.getD 1 0 * Config.frameBytes + 4096 * tablePages }

/-- GRANT (R384). -/
def execGrant (mseq : XWord) (s : State) : Result :=
  manage "GRANT" (· == 1) mseq (fun s =>
    let d := s.dev
    let ctx := reqCtx d
    if !reqHeadOk d || !reqZero d 25 7 || !reqZero d 96 160 then (s, status 1)
    else if (s.ctxAt ctx).state ≠ .free then (s, status 2)
    else match reserve s ctx with
      | none => (s, status 3)
      | some g =>
        let s := s.setCtxAt ctx { s.ctxAt ctx with reserved := some g }
        ({ s with free := s.free + 3 },
         status 0 ++ leBytes 8 g.ptroot ++ leBytes 8 g.ptva.toNat ++ leBytes 8 g.framesVa.toNat ++ leBytes 8 g.ftpa)) s

/-- UNKNOWN_OP (R383). -/
def execUnknownOp (mseq : XWord) (s : State) : Result :=
  manage "UNKNOWN_OP" (fun op => op != 1 && op != 2) mseq (fun s => (s, status 1)) s

/-! ### EXPORT (R385) -/

/-- The bytes of the record of a SEQ, from its slot of the audit region (R432). -/
def recordBytes (m : List Host.Cell) (seq : XWord) : List Byte := memReadN m (auditAt seq) 128

/-- The records of a range of SEQ values. -/
def recordsOf (m : List Host.Cell) (first last : XWord) : List Byte :=
  (span first.toNat (last.toNat + 1 - first.toNat)).flatMap (fun n => recordBytes m (xword n))

/-- The signature block: its length, the signature, zeros. -/
def signatureBlock (n : Nat) : List Byte :=
  let sig := (Config.signature n).take 2046
  (leBytes 2 sig.length ++ sig ++ List.replicate 2046 0).take 2048

/-- Offsets of the bad bytes that an export of a range reads, and the units that its reads find mismatched (R406). -/
def recordsBad (s : State) (first last : XWord) : List Nat × List (Nat × XWord) :=
  let at_ := (span first.toNat (last.toNat + 1 - first.toNat)).flatMap (fun n => span (auditAt (xword n)) 128)
  let bad := at_.zipIdx.filter (fun a => badByte s a.1)
  (bad.map (fun a => a.2), bad.map (fun a => (a.1 / 2, 0)))

/-- What an EXPORT does that is not refused.  Its reads of the records check their residues (R299); a unit of DEST that takes bytes of
a bad one is poisoned (log entry 57). -/
def exportRange (s : State) (first last : XWord) (dest : Nat) : State × List Byte :=
  let (bad, found) := recordsBad s first last
  let s := s.foundBad 0 0 found
  let recs := recordsOf s.mem first last
  let seq := s.dev.next
  let s := s.audit auditExport 0 (first.toNat + 2 ^ 64 * last.toNat)
  let bytes := recs ++ recordBytes s.mem seq ++ signatureBlock s.free
  let s := s.devWrite dest bytes
  let s := bad.foldl (fun s i => { s with badUnits := mset s.badUnits ((dest + i) / 2) 3 }) s
  let upTo := if s.dev.exported.toNat < last.toNat + 1 then last + 1 else s.dev.exported
  ({ s with dev := { s.dev with exported := upTo }, free := s.free + 1 },
   status 0 ++ leBytes 8 seq.toNat ++ leBytes 8 bytes.length)

/-- EXPORT (R385, R381, R433). -/
def execExportAudit (mseq : XWord) (s : State) : Result :=
  manage "EXPORT" (· == 2) mseq (fun s =>
    let d := s.dev
    let first := xword (reqField d 8 8)
    let last := xword (reqField d 16 8)
    let dest := reqField d 24 8
    let size := reqField d 32 8
    let need := 128 * (last.toNat - first.toNat + 2) + 2048
    if reqByte d 1 ≠ 0 ∨ !reqZero d 2 6 ∨ !reqZero d 40 216 then (s, status 1)
    else if !(decide (d.floor.toNat ≤ first.toNat) && decide (first.toNat ≤ last.toNat) && decide (last.toNat < d.next.toNat)
        && dest % 4096 == 0 && decide (Config.hostBase ≤ dest) && decide (dest + need ≤ Config.peerBase) && decide (need ≤ size))
      then (s, status 4)
    else if auditFree d ≤ 320 then (s, status 5)
    else exportRange s first last dest) s

/-- AUDITACK (R432); a posted write, it crosses the host link and does not pass those that wait (R250, R424). -/
def execAuditack (v : XWord) (s : State) : Result :=
  let d := s.dev
  if (Outside.auditack v).waits s then .next (s.defer (.auditack v))
  else if d.floor.toNat ≤ v.toNat ∧ v.toNat ≤ d.next.toNat ∧ v.toNat ≤ d.exported.toNat then
    .next { s with dev := { d with ack := v, floor := v } }
  else .next s

/-! ### LOCK_INTERFACE and START_INTERFACE (R375, R445) -/

/-- A page-table entry (Table 4.7). -/
def ptEntry (pa : Nat) (leaf r w : Bool) : Nat :=
  1 + (if leaf then 2 else 0) + (if r then 4 else 0) + (if w then 8 else 0) + pa

/-- The writes of the steward's mappings (R445): each address with its entry. -/
def stewardMappings (ctx : Nat) (g : Grant) : List (Nat × Nat) :=
  let t := g.table
  let second := t.getD 1 0 * Config.frameBytes
  let l2 := second
  let l1 := second + 4096
  let va := g.ptva.toNat
  let fv := g.framesVa.toNat - 4096 * tablePages
  let bytes := 8 * t.length
  let eq := errorQueueVa g
  let l0 := fun (v : Nat) => second + 8192 + 4096 * ((v - fv) / 2 ^ 21) + 8 * levelIndex v 0
  let ftPage := fun (j : Nat) =>
    let p := tablePages + j
    t.getD (1 + p / 512) 0 * Config.frameBytes + 4096 * (p % 512)
  [(g.ptroot + 8 * levelIndex va 3, ptEntry l2 false false false),
   (l2 + 8 * levelIndex va 2, ptEntry l1 false false false),
   (l1 + 8 * levelIndex va 1, ptEntry g.ptroot true true true),
   (l1 + 8 * levelIndex fv 1, ptEntry (second + 8192) false false false),
   (l1 + 8 * levelIndex (fv + 2 ^ 21) 1, ptEntry (second + 12288) false false false)]
    ++ (span 0 ((bytes + 4095) / 4096)).map (fun j =>
      (l0 (g.framesVa.toNat + 4096 * j), ptEntry (ftPage j) true true false))
    ++ (span 0 4).map (fun j => (l0 (eq + 4096 * j), ptEntry (errorQueueBase ctx + 4096 * j) true true false))

/-- The frame table's entries (R354). -/
def frameTable (g : Grant) : List (Nat × Nat) :=
  let t := g.table
  t.zipIdx.map (fun f =>
    let p := tablePages * 4096 + 8 * f.2
    (t.getD (1 + p / Config.frameBytes) 0 * Config.frameBytes + p % Config.frameBytes,
     f.1 * Config.frameBytes + (if g.slots.contains (f.1 / 256) then 1 else 0)))

/-- One array taken for a context, if its die still has one to give; the spare of a rotation that is under way is none (R310). -/
def takeArray (s : State) (ctx start : Nat) : State :=
  let good := fun (a : Nat) =>
    let w := mgetD s.warrays a .initial
    w.owner.isNone && !w.failed && !(rotationSpares s).contains a
      && decide ((s.warrays.filter (fun x => x.2.owner.isSome && x.1 / Config.arraysPerDie == a / Config.arraysPerDie)).length
        < Config.arraysInService / 4)
  match pickFrom good (4 * Config.arraysPerDie) start 1 (4 * Config.arraysPerDie) with
  | a :: _ => { s with warrays := mset s.warrays a { mgetD s.warrays a .initial with owner := some ctx, calibrated := s.gtime } }
  | [] => s

/-- Whether a reservation can still be met (R434). -/
def grantMet (s : State) (ctx : Nat) (g : Grant) : Bool :=
  g.frames.all (fun f => !s.dev.retiredFrames.contains f) && g.slots.all (slotFree s ctx)
    && decide (g.arrays + ((otherGrants s ctx).map (·.arrays)).sum ≤ arraysGood s)

/-- The grant in force: resources, tables, ASID and key, then the records CTXCREATE and TDISTATE (R375, Table 22.4). -/
def lockContext (s : State) (ctx : Nat) (g : Grant) : State :=
  let used := (s.ctxs.filter (fun c => c.2.state != .free)).map (fun c => c.2.asid.toNat)
  let asid := freshFrom used 65535 (Config.free s.free).toNat (used.length + 1)
  let s := g.slots.foldl (fun s p => s.setChanAt p { s.chanAt p with dedicated := some ctx }) s
  let s := (span 0 g.arrays).foldl (fun s i => takeArray s ctx ((Config.free (s.free + 1)).toNat + i)) s
  let s := s.zeroRange (errorQueueBase ctx) errorQueueBytes
  let s := (frameTable g ++ stewardMappings ctx g).foldl (fun s e => s.devWrite e.1 (leBytes 8 e.2)) s
  let s := s.setCtxAt ctx { Ctx.initial with
    asid := BitVec.ofNat 16 asid, key := Config.ctxKey s.free, grant := some g,
    dove := { entries := [], next := 1, quota := g.dvq }, errBase := errorQueueBase ctx }
  let s := { s with free := s.free + 2 }
  let s := s.audit auditCreate ctx (asid + 2 ^ 16 * g.frames.length + 2 ^ 48 * g.slots.length + 2 ^ 64 * g.arrays
    + 2 ^ 80 * g.dvq + 2 ^ 112 * g.nhvis + 2 ^ 144 * g.peers.toNat)
  s.setCtxState ctx .locked

/-- LOCK_INTERFACE (R375, R384, R431, R433, R434). -/
def execLockInterface (ctx : Nat) (s : State) : Result :=
  let c := s.ctxAt ctx
  match c.reserved with
  | some g =>
    if 63 < ctx ∨ booted s = false ∨ c.state ≠ .free ∨ !c.pending.isEmpty ∨ auditReserve s.dev ∨ grantMet s ctx g = false then
      .next (s.respond (.tdispError ctx))
    else .next ((lockContext s ctx g).respond (.tdispOk ctx))
  | none => .next (s.respond (.tdispError ctx))

/-- START_INTERFACE (R375, R433). -/
def execStartInterface (ctx : Nat) (s : State) : Result :=
  let c := s.ctxAt ctx
  if c.state ≠ .locked ∨ !c.pending.isEmpty ∨ auditReserve s.dev then .next (s.respond (.tdispError ctx))
  else
    let s := s.setCtxState ctx .run
    .next ((s.setCtxAt ctx { s.ctxAt ctx with hostVisible := true }).respond (.tdispOk ctx))

/-- GET_DEVICE_INTERFACE_REPORT: the 64 KiB BAR as TDI MMIO (R369, R376), while the interface is locked or runs. -/
def execGetDeviceInterfaceReport (ctx : Nat) (s : State) : Result :=
  let st := (s.ctxAt ctx).state
  .next (s.respond (if st = .locked ∨ st = .run then .tdiReport ctx 65536 else .tdispError ctx))

/-- GET_DEVICE_INTERFACE_STATE (R369). -/
def execGetDeviceInterfaceState (ctx : Nat) (s : State) : Result :=
  .next (s.respond (.tdiState ctx (s.ctxAt ctx).state))

/-! ### Starts (R352, R353, R377, R428, R429) -/

/-- The units of some bytes that a read finds mismatched (R406). -/
def mismatched (s : State) (va : XWord) (pa n : Nat) : List (Nat × XWord) :=
  (((span pa n).filter (badByte s)).map (fun a => (a / 2, va))).filter (fun u => mget? s.badUnits u.1 != some 3)

/-- A part of the launch record of a start, read as a load of the context: its bytes and its physical address, if it can be read;
and the units that its walk and its read find mismatched (R406). -/
def readRecord (s : State) (ctx : Nat) (va : XWord) (n : Nat) : Option (List Byte × Nat) × List (Nat × XWord) :=
  let (l, w) := recordWalk s ctx va
  if !canonical va then (none, [])
  else match l with
  | .error _ => (none, walkFound s w va)
  | .ok l =>
    let pa := l.page + va.toNat % 4096
    if !l.r || (decide (Config.peerBase ≤ pa) && s.dev.pfail.getLsbD ((pa - Config.peerBase) / 2 ^ 46)) then
      (none, walkFound s w va)
    else if (span pa n).any (badByte s) then (none, walkFound s w va ++ mismatched s va pa n)
    else (some (memReadN s.mem pa n, pa), walkFound s w va)

/-- The context block (Table 21.2). -/
def contextBlock (g : Grant) : List Byte :=
  leBytes 8 g.ptroot ++ leBytes 8 g.ptva.toNat ++ leBytes 8 g.framesVa.toNat ++ leBytes 4 g.table.length
    ++ leBytes 2 g.slots.length ++ leBytes 2 g.arrays ++ leBytes 4 g.dvq ++ List.replicate 20 0

/-- Whether the context block may be written at a physical address: in a frame that the context owns, or a range that its grant
names (R97, R353).  The steward's own pages are none. -/
def blockAllowed (c : Ctx) (pa : Nat) : Bool :=
  match c.grant with
  | some g => (match mayMap g (pa / 4096 * 4096) 4096 with | .ok () => true | .error _ => false)
  | none => false

/-- The code of Table 26.3 that refuses a start, or the specification and where the context block goes; and the units that its
reads find mismatched.  A record whose block would fall into a page that the context does not own is refused as PROT is. -/
def startCheck (s : State) (ctx : Nat) (hseq : XWord) : Except Nat (BitVec 512 × Nat) × List (Nat × XWord) :=
  let c := s.ctxAt ctx
  if c.state = .locked then (.error 1, [])
  else if hseq ≠ c.lastHseq + 1 then (.error 2, [])
  else if c.rootLive then (.error 3, [])
  else if auditReserve s.dev then (.error 4, [])
  else
    let va := startVa c
    let (r1, f1) := readRecord s ctx va 64
    let (r2, f2) := readRecord s ctx (va + 64) 64
    (match r1, r2 with
      | some (bs, _), some (_, pa) =>
        let spec := BitVec.ofNat 512 (leNat bs)
        if !blockAllowed c pa then .error 5
        else if specBad spec || (specDeps spec).any (· != 0) then .error 6 else .ok (spec, pa + 8)
      | _, _ => .error 5, f1 ++ f2)

/-- A start accepted: the context block, the root gang's launch, and the status record (R353, R377). -/
def acceptStart (s : State) (ctx : Nat) (hseq : XWord) (spec : BitVec 512) (blockAt : Nat) : State :=
  let c := s.ctxAt ctx
  let s := s.devWrite blockAt (match c.grant with | some g => contextBlock g | none => [])
  let l : Launch :=
    { spec := spec, record := startVa c, launcher := none, rootHseq := some hseq, deps := [], acceptedAt := s.gtime,
      order := s.nextCmd, blocking := false, eligibleAt := none }
  let s := { s with nextCmd := s.nextCmd + 1 }.enqueue ctx l
  let s := s.statusRecord ctx hseq 1 0
  s.setCtxAt ctx { s.ctxAt ctx with lastHseq := hseq, rootLive := true }

/-- START: a host write of HSEQ; discarded unless the context is Locked or Run and is not leaving it (R352, R428, R429).  While
the record cannot be read yet, the start waits with the host's other accesses. -/
def execStart (ctx : Nat) (hseq : XWord) (s : State) : Result :=
  let c := s.ctxAt ctx
  if !(c.state = .locked ∨ c.state = .run) ∨ !c.pending.isEmpty then .next s
  else if (Outside.start ctx hseq).waits s then .next (s.defer (.start ctx hseq))
  else
    let (r, found) := startCheck s ctx hseq
    let s := (s.setCtxAt ctx { c with startHseq := hseq }).foundBad 0 0 found
    match r with
    | .error code => .next (s.statusRecord ctx hseq 2 code)
    | .ok (spec, pa) => .next (acceptStart s ctx hseq spec pa)

/-! ### Registers (R376, R423) -/

/-- The two 8-byte halves … of a status record (Table 22.6). -/
def statusWords (r : StatusRec) : List XWord := [r.dseq, r.hseq, xword (r.kind.toNat + 2 ^ 8 * r.code.toNat), r.gtime]

/-- The status page of a context: offsets 0x1000 to 0x1FFF of its BAR (Table 22.5), 8 bytes at a time. -/
def statusPage (c : Ctx) (off : Nat) : XWord :=
  if off = 0x1000 then c.lastHseq
  else if off = 0x1008 then c.lastDseq
  else if off = 0x1010 then xword c.state.code
  else if 0x1100 ≤ off ∧ off < 0x1300 then
    match c.status.find? (fun r => r.dseq.toNat % 16 == (off - 0x1100) / 32) with
    | some r => (statusWords r).getD ((off - 0x1100) % 32 / 8) 0
    | none => 0
  else 0

/-- Function 0's registers (Tables 22.10, 22.12, 26.1), 8 bytes at a time. -/
def function0Read (d : Device) (off : Nat) : XWord :=
  match off with
  | 0x0100 => xword (d.bootStage.toNat + 2 ^ 4 * d.bootResult.toNat)
  | 0x0200 => d.powerLimit.setWidth 64
  | 0x0208 => xword (d.throttleStep.toNat + 2 ^ 32 * d.throttleWindows.toNat)
  | 0x0300 =>
    xword ((if d.hostUp then 1 else 0) + 2 * d.peersUp.toNat + 2 ^ 9 * d.pfail.toNat + 2 ^ 32 * d.retrain.toNat)
  | 0x0400 => d.floor
  | 0x0408 => d.next
  | 0x0410 => d.ack
  | 0x0500 =>
    xword (d.retiredCores + 2 ^ 12 * d.retiredArrays + 2 ^ 27 * d.retiredSlots + 2 ^ 38 * d.retiredFrames.length)
  | 0x0800 => d.mseq
  | 0x0808 => d.mdone
  | _ =>
    if 0x0C00 ≤ off ∧ off < 0x0D00 then xword (reqField d (off - 0x0C00) 8)
    else if 0x0D00 ≤ off ∧ off < 0x0E00 then xword (leNat ((d.mresp.drop (off - 0x0D00)).take 8))
    else 0

/-- What a host read of 8 bytes of a function's BAR returns (R376, R423, R428). -/
def barRead (s : State) (fn off : Nat) : XWord :=
  if fn = 0 then
    if 0x10000 ≤ off ∧ off < 0x50000 then
      let c := s.ctxAt ((off - 0x10000) / 0x1000)
      if c.state = .free then 0 else statusPage c (0x1000 + (off - 0x10000) % 0x1000)
    else function0Read s.dev off
  else
    let c := s.ctxAt (fn - 1)
    if c.state = .error then BitVec.allOnes 64
    else if off = 0 then xword (64 * c.startAddr.toNat)
    else if off = 8 then c.startHseq
    else statusPage c off

/-- REGISTER_WRITE (R5, R383, R352): MREQ, and ADDR of a start register; every other offset keeps what it holds.  The
registers whose writes do something are written by the events of their own.  The manual states no width and no alignment for such a
write: the model takes 8 bytes, and one to MREQ at an offset that is no multiple of 8 changes nothing (DESIGN CHOICE, log entry
58).  A posted write, it crosses the host link and does not pass those that wait (R250, R424). -/
def execRegisterWrite (fn off : Nat) (v : XWord) (s : State) : Result :=
  if (fn = 0 ∧ (off = 0x200 ∨ off = 0x410 ∨ off = 0x800)) ∨ (fn ≠ 0 ∧ off = 8) then notEnabled "REGISTER_WRITE"
  else if (Outside.register fn off v).waits s then .next (s.defer (.register fn off v))
  else if fn = 0 then
    if 0x0C00 ≤ off ∧ off < 0x0D00 ∧ off % 8 = 0 then
      let i := off - 0x0C00
      .next { s with dev := { s.dev with mreq := s.dev.mreq.take i ++ leBytes 8 v.toNat ++ s.dev.mreq.drop (i + 8) } }
    else .next s
  else
    let ctx := fn - 1
    let c := s.ctxAt ctx
    if off = 0 ∧ fn ≤ 64 ∧ (c.state = .locked ∨ c.state = .run) ∧ c.pending.isEmpty then
      .next (s.setCtxAt ctx { c with startAddr := BitVec.ofNat 51 (xbits v 6 51) })
    else .next s

/-! ### Accesses from outside (R249, R252, R372, R407) -/

/-- Whether every byte of a range lies in a host-visible frame of a context in Run (R372). -/
def hostVisible (s : State) (pa n : Nat) : Bool :=
  s.ctxs.any (fun c => c.2.state == .run && c.2.hostVisible && (match c.2.grant with
    | some g => (span (pa / Config.frameBytes) ((pa + n - 1) / Config.frameBytes + 1 - pa / Config.frameBytes)).all
        (fun f => (g.table.take g.nhvis).contains f)
    | none => false))

/-- An access from outside to some bytes of memory, in a range.  One that is held, or that finds others waiting, waits behind
them, and is performed in arrival order (R250). -/
def outsideAccess (name : String) (o : Outside) (s : State) (lo hi : Nat) (pa n : Nat) (f : State → State) : Result :=
  if pa < lo ∨ hi < pa + n then notEnabled name
  else if o.waits s then .next (s.defer o)
  else .next (f s)

/-- HOST_OR_PEER_WRITE (R249, R250, R372). -/
def execHostOrPeerWrite (peer : Bool) (pa : Nat) (data : List Byte) (s : State) : Result :=
  outsideAccess "HOST_OR_PEER_WRITE" (.write peer pa data) s 0 Config.deviceBytes pa data.length (fun s =>
    if peer || hostVisible s pa data.length then s.rangeWrite (if peer then 5 else 4) 0 0 pa data else s)

/-- The answer to a read at the home by the host or a peer (R406, R407). -/
def outsideRead (agent : Nat) (s : State) (pa n : Nat) : State :=
  let bad := (span pa n).filter (badByte s)
  if bad.isEmpty then s.respond (.bytes (memReadN s.mem pa n))
  else (s.foundBad agent 0 (bad.map (fun a => (a / 2, 0)))).respond .poisoned

/-- CXL_MEM_READ (R372, R407). -/
def execCxlMemRead (pa n : Nat) (s : State) : Result :=
  outsideAccess "CXL_MEM_READ" (.cxlRead pa n) s 0 Config.deviceBytes pa n (fun s =>
    if hostVisible s pa n then outsideRead 4 s pa n else s.respond (.bytes (List.replicate n 0xFF)))

/-- PEER_READ (R407). -/
def execPeerRead (pa n : Nat) (s : State) : Result :=
  outsideAccess "PEER_READ" (.peerRead pa n) s 0 Config.deviceBytes pa n (fun s => outsideRead 5 s pa n)

/-- SNOOP_INVALIDATE: a host write to host memory (R252). -/
def execSnoopInvalidate (pa : Nat) (data : List Byte) (s : State) : Result :=
  outsideAccess "SNOOP_INVALIDATE" (.snoop pa data) s Config.hostBase Config.peerBase pa data.length (fun s =>
    s.homeWrite 4 0 0 pa data)

end Machine
end Sys2Proof
end

