-- ==== Sys2Proof/Machine/VConvert.lean ====
section
/-! DEFINITION. Major 0x13: conversion, block scales, quantisation and dequantisation (R174 to R177). -/

namespace Sys2Proof
namespace Machine

/-- VCVT (R174, Table 3.8). -/
def execVcvt (k : Bool) (d a : BitVec 5) (e qa : Bool) (s : State) : Result :=
  elementwise (.vcvt k d a e qa) d true e [(qa, a)] (fun s p srcs => do
    let src := (src1 srcs).fmt
    let dst := destTag s d
    illegalWhen s (src == .bits || dst == .bits)
    return { fmt := dst, each := fun i r => convert src dst p.sat r (elem s (src1 srcs) i) }) s

/-- emax of a target format of VSCALE (R57, R175); none for a code that is no target. -/
def scaleMax (code : Nat) : Option Int :=
  match code with
  | 1 => some 6
  | 8 => some 15
  | 11 => some 10
  | 12 => some 3
  | _ => none

/-- The scale code of a block of values, and its flags (R175). -/
def blockScale (emax : Int) (vs : List Val) : Nat × Flags :=
  if vs.any (fun v => !v.isFinite) then (0xFF, 0)
  else
    let tops := vs.filterMap (fun v => match v with
      | .fin _ m e => if m = 0 then none else some ((Nat.log2 m : Int) + e)
      | _ => none)
    match tops with
    | [] => (127, 0)
    | t :: ts =>
      let c := ts.foldl max t - emax
      if 127 < c then (254, Flags.of) else if c < -127 then (0, Flags.uf) else ((c + 127).toNat, 0)

/-- VSCALE (R175): one scale for each block of 32 along each row; the exception bit of an element masked off is 0 (R64). -/
def execVscale (k : Bool) (d a f : BitVec 5) (e qa : Bool) (s : State) : Result :=
  member (.vscale k d a f e qa) (fun p s => do
    let x ← source s qa a
    let tag := destTag s d
    match scaleMax f.toNat with
    | none => illegal s
    | some emax =>
      illegalWhen s (!x.fmt.isFloat || !(tag == .bits || tag == .e8))
      let t ← consume s [(qa, a)]
      let rs := rowSize s
      let vl := s.regs.vl
      let blocks := (vl + 31) / 32
      let cell := fun (o : Outs) (n : Nat × Nat) =>
        let base := n.1 * rs + 32 * n.2
        let is := (span base (min 32 (vl - 32 * n.2))).filter (predicate s p)
        let (c, fl) := blockScale emax (is.map (asVal x))
        let i := n.1 * rs + n.2
        let o' := o.put p.ek i (xword c) fl (gen o.gens i)
        if predicate s p i then o' else { o' with exc := o.exc }
      let cells := (span 0 s.regs.vr).flatMap (fun r => (span 0 blocks).map (fun j => (r, j)))
      return deliverTail t p true e d .e8 (fun i => !(inShape s i && decide (i % rs < blocks)))
        (cells.foldl cell (Outs.start s))) s

/-- A value times 2^k. -/
def scaleBy (v : Val) (k : Int) : Val :=
  match v with
  | .fin n m e => .fin n m (e + k)
  | v => v

/-- The scale of the block of element i (R176). -/
def scaleOf (s : State) (src : Source) (i : Nat) : Nat :=
  let rs := rowSize s
  (lowBits 1 (src.get (i / rs * rs + i % rs / 32))).toNat

/-- The NaN that a format has; 0 with NV for INT8. -/
def nanOf (f : Fmt) (r : Rnd) : XWord × Flags × BitVec 32 :=
  match f with
  | .t8 => (0x7F, 0, r.gen)
  | .t6 => (0x1F, 0, r.gen)
  | .i8 => (0, Flags.nv, r.gen)
  | f => (xword f.fp.nan, 0, r.gen)

/-- A value rounded once to a destination of VQUANT or VDEQ. -/
def roundInto (f : Fmt) (v : Val) (r : Rnd) : XWord × Flags × BitVec 32 :=
  match f with
  | .t8 => let o := taper8.round r v; (xword o.bits, o.flags, o.gen)
  | .t6 => let o := taper6.round r v; (xword o.bits, o.flags, o.gen)
  | .i8 => let (i, fl, g) := roundToInt (-128) 127 r v; (wrapBits 8 i, fl, g)
  | f => let o := roundTo f.fp r v; (xword o.bits, o.flags, o.gen)

/-- Formats that VQUANT writes and VDEQ reads. -/
def narrow (f : Fmt) : Bool := f == .i8 || f == .f16 || f == .bf16 || f == .t8 || f == .t6

/-- VQUANT (R176). -/
def execVquant (k : Bool) (d a b : BitVec 5) (e qa qb : Bool) (s : State) : Result :=
  elementwise (.vquant k d a b e qa qb) d true e [(qa, a), (qb, b)] (fun s _ srcs => do
    let dst := destTag s d
    illegalWhen s (!(src1 srcs).fmt.isFloat || (src2 srcs).fmt != .e8 || !narrow dst)
    return {
      fmt := dst
      each := fun i r =>
        let c := scaleOf s (src2 srcs) i
        if c = 0xFF then nanOf dst r else roundInto dst (scaleBy (asVal (src1 srcs) i) (127 - (c : Int))) r }) s

/-- VDEQ (R177). -/
def execVdeq (k : Bool) (d a b : BitVec 5) (e qa qb : Bool) (s : State) : Result :=
  elementwise (.vdeq k d a b e qa qb) d true e [(qa, a), (qb, b)] (fun s _ srcs => do
    let dst := destTag s d
    illegalWhen s (!narrow (src1 srcs).fmt || (src2 srcs).fmt != .e8 || !dst.isFloat)
    return {
      fmt := dst
      each := fun i r =>
        let c := scaleOf s (src2 srcs) i
        if c = 0xFF then nanOf dst r else roundInto dst (scaleBy (asVal (src1 srcs) i) ((c : Int) - 127)) r }) s

end Machine
end Sys2Proof
end

