-- ==== Sys2Proof/Machine/Matrix.lean ====
section
/-! DEFINITION. Major 0x19, the matrix engine: tiles, the matrix queue and what each of its instructions does at its point
(R264 to R276, R70 to R72). -/

namespace Sys2Proof
namespace Machine

/-! ### Tiles (R86, R267) -/

def zeroTile : Array (BitVec 32) := Array.replicate 4096 0

def Core.tile (k : Core) (t : Nat) : Array (BitVec 32) := mgetD k.acc t zeroTile
def Core.setTile (k : Core) (t : Nat) (v : Array (BitVec 32)) : Core := { k with acc := mput zeroTile k.acc t v }
def Core.tileFlags (k : Core) (t : Nat) : Flags := mgetD k.tflags t 0
def Core.setTileFlags (k : Core) (t : Nat) (f : Flags) : Core := { k with tflags := mput 0 k.tflags t f }

/-! ### MOP's operands (R269 to R272) -/

/-- Formats that an operand of MOP may have. -/
def mopAllows (f : Fmt) : Bool := f == .f16 || f == .bf16 || f == .i8 || f == .t8 || f == .t6

/-- The ILLEGAL checks of one descriptor (R272); `a` says that it is A's, `k` is K. -/
def mopDescBad (a : Bool) (d : XWord) (k : Nat) : Bool :=
  let reserved := xbits d 28 4 != 0 || d.getLsbD 47 || d.getLsbD 63
  if a && !mopSource d then
    reserved || decide (31 < mopBase d) || mopColumns d || mopSparse d
  else
    let f := mopFormat d
    reserved || f.isNone
      || (!mopSource d && mopBase d != 0)
      || (mopSparse d && (mopSource d || a || f == some .f16 || f == some .bf16 || k % 4 != 0))
      || (mopSource d && f == some .t6)

/-- Byte of element n of step k of an S-space operand (R270). -/
def mopPlace (d : XWord) (w n k : Nat) : Nat :=
  let r0 := mopBase d / 64
  if mopColumns d then 64 * (r0 + mopPitch d * (k * w / 64) + n) + k * w % 64 else 64 * (r0 + k * mopPitch d) + n * w

/-- Bytes of the weight buffer that B takes (Table 14.6). -/
def mopBufferBytes (d : XWord) (f : Fmt) (k : Nat) : Nat :=
  if mopSparse d then (if f = .t6 then 128 else 160) * (k / 4) else (if f = .t6 then 48 else 64 * f.bytes) * k

/-- Code n of a run of packed T6 units (R54). -/
def packedCode (m : List Host.Cell) (off n : Nat) : Nat := bitsAt (leNat (memReadN m (off + 3 * (n / 4)) 3)) (6 * (n % 4)) 6

/-- Code j of a run of values in the weight buffer. -/
def runCode (m : List Host.Cell) (f : Fmt) (off j : Nat) : XWord :=
  if f = .t6 then xword (packedCode m off j) else xword (leNat (memReadN m (off + j * f.bytes) f.bytes))

/-- B[k, j] from the weight buffer at offset m (R271, Table 14.6). -/
def bufferVal (wb : List Host.Cell) (d : XWord) (f : Fmt) (m k j : Nat) : Val :=
  if mopSparse d then
    let vs := if f = .t6 then 48 else 64
    let o := m + (2 * vs + 32) * (k / 4)
    let nibble := bitsAt (leNat (memReadN wb (o + 2 * vs + j / 2) 1)) (4 * (j % 2)) 4
    let p0 := nibble % 4
    let p1 := nibble / 4
    if p1 ≠ p0 ∧ k % 4 = p1 then f.val (runCode wb f (o + vs) j)
    else if k % 4 = p0 then f.val (runCode wb f o j)
    else .fin false 0 0
  else f.val (runCode wb f (m + (if f = .t6 then 48 else 64 * f.bytes) * k) j)

/-- The operand as values: element n of step k, at its point. -/
def operandVal (k : Core) (mwb steps : Nat) (o : MopOperand) (n step : Nat) : Val :=
  match o.group with
  | some (f, g) => f.val (g.getD (n * steps + step) 0)
  | none =>
    match mopFormat o.desc with
    | none => .nan
    | some f =>
      if mopSource o.desc then f.val (xword (leNat (memReadN k.scratch (mopPlace o.desc f.bytes n step) f.bytes)))
      else bufferVal k.wbuf o.desc f (128 * mwb) step n

/-- The E8 scale code of element n in block b (R270); 127 stands for 1. -/
def scaleCode (k : Core) (d : XWord) (n b : Nat) : Nat :=
  if mopScaled d then (memRead k.scratch (64 * (mopScaleRow d + b) + n)).toNat else 127

/-! ### Accumulation (R70, R71) -/

/-- S times its scales: exact, or rounded once; a code of 0xFF gives NaN. -/
def applyScales (bits ca cb : Nat) : Nat × Flags :=
  if ca = 0xFF ∨ cb = 0xFF then (fp32.nan, 0)
  else roundCore fp32 Rnd.rne (scaleBy (fp32.val bits) ((ca : Int) + cb - 254))

/-- One block of one output element: the accumulator and the flags after it. -/
def mopBlock (products : List (Val × Flags)) (ca cb : Nat) (acc : Nat × Flags) : Nat × Flags :=
  let (v, f0) := sumExact products
  let (b, f1) := roundCore fp32 Rnd.rne v
  let (b, f2) := if ca = 127 ∧ cb = 127 then (b, 0) else applyScales b ca cb
  let (y, f3) := (fp32.val acc.1).add false (fp32.val b)
  let (r, f4) := roundCore fp32 Rnd.rne y
  (r, acc.2 ||| f0 ||| f1 ||| f2 ||| f3 ||| f4)

/-- MOP at its point (R269). -/
def mopRun (k : Core) (tile steps : Nat) (a b : MopOperand) (mwb : Nat) : Core :=
  let side := fun (o : MopOperand) =>
    ((span 0 64).map (fun n => ((span 0 steps).map (operandVal k mwb steps o n)).toArray)).toArray
  let av := side a
  let bv := side b
  let old := k.tile tile
  let cell := fun (st : Array (BitVec 32) × Flags) (n : Nat) =>
    let i := n / 64
    let j := n % 64
    let x := av.getD i #[]
    let y := bv.getD j #[]
    let (r, f) := (span 0 ((steps + 31) / 32)).foldl (fun acc blk =>
      mopBlock ((span (32 * blk) (min 32 (steps - 32 * blk))).map (fun q => (x.getD q .nan).mul (y.getD q .nan)))
        (scaleCode k a.desc i blk) (scaleCode k b.desc j blk) acc) ((old.getD n 0).toNat, 0)
    (st.1.push (BitVec.ofNat 32 r), st.2 ||| f)
  let (new, f) := (span 0 4096).foldl cell (#[], 0)
  (k.setTile tile new).setTileFlags tile (k.tileFlags tile ||| f)

/-! ### The queue (R264) -/

/-- A matrix instruction enters its hart's queue; a full queue makes it wait. -/
def matrixRoom (s : State) : Eff Unit :=
  if Config.matrixQueue ≤ s.hart.matrixQ.length then .error (.wait .matrix) else .ok ()

def State.enqueueMatrix (s : State) (o : MatrixOp) : State := s.setHart { s.hart with matrixQ := s.hart.matrixQ ++ [o] }

/-- MZERO (R268). -/
def execMzero (d : BitVec 5) (s : State) : Result :=
  irreversible (fun s => do
    needsStores s true
    matrixRoom s
    return s.enqueueMatrix (.zero d.toNat)) s

/-- The group of a register-group A as it stands when MOP issues, which equals what it holds at MOP's point (R266). -/
def mopGroup (s : State) (d : XWord) : Eff MopOperand :=
  if mopSource d then .ok { desc := d, group := none }
  else do
    let first := mopBase d
    illegalWhen s (s.regs.vr != 64 || first % groupFactor s.regs != 0)
    if s.hart.vn < first + groupFactor s.regs then declFault s
    let src ← groupSource s first (groupFactor s.regs)
    illegalWhen s (!mopAllows src.fmt)
    let k := s.regs.vl
    let rs := rowSize s
    return { desc := d, group := some (src.fmt, ((span 0 (64 * k)).map (fun n => elem s src (n / k * rs + n % k))).toArray) }

/-- The alignment of one operand in S-space, which does not depend on K (R272). -/
def mopAligned (s : State) (d : XWord) (isReg : Bool) : Eff Unit :=
  if !isReg && mopSource d && !alignedTo (xword (mopBase d)) 64 then
    .error (.trap { code := cALIGN, tv := xword (mopBase d), sspace := true })
  else .ok ()

/-- The checks of one operand's storage (R272, R263 step 4). -/
def mopRanges (s : State) (d : XWord) (f : Fmt) (isReg : Bool) (k : Nat) : Eff Unit := do
  if isReg then pure ()
  else if mopSource d then spRange s false (xword (mopBase d)) (mopExtent d f.bytes k) 64
  else do
    needsStores s false
    wbufRange false (128 * s.hart.mwb.toNat) (mopBufferBytes d f k)
  if mopScaled d then spRange s false (xword (64 * mopScaleRow d)) (64 * ((k + 31) / 32)) 64

/-- MOP (R269 to R272). -/
def execMop (d a b : BitVec 5) (s : State) : Result :=
  irreversibleChecked (.mop d a b) (fun s => do
    let da := s.x a
    let db := s.x b
    let k := s.regs.vl
    illegalWhen s (mopDescBad true da k || mopDescBad false db k)
    let oa ← mopGroup s da
    let fa := match oa.group with
      | some (f, _) => f
      | none => (mopFormat da).getD .f16
    let fb := (mopFormat db).getD .f16
    illegalWhen s ((fa == .i8) != (fb == .i8))
    if k = 0 then do
      mopAligned s da oa.group.isSome
      mopAligned s db false
      needsStores s false
      return s
    else do
      mopRanges s da fa oa.group.isSome k
      mopRanges s db fb false k
      needsStores s true
      matrixRoom s
      return s.enqueueMatrix (.mop d.toNat k oa { desc := db, group := none } s.hart.mwb.toNat)) s

/-- MLDW (R273). -/
def execMldw (d a b : BitVec 5) (s : State) : Result :=
  irreversible (fun s => do
    let p := s.x b
    illegalWhen s (xbits p 24 40 != 0)
    let line := xbits p 0 12
    let count := if xbits p 12 12 = 0 then 4096 else xbits p 12 12
    needsStores s true
    wbufRange true (128 * line) (128 * count)
    let s ← memRange s .read (s.x a) (128 * count) 128
    matrixRoom s
    return ticketed s d 2 0 .mload ([], []) (fun t n => t.enqueueMatrix (.load n (s.x a) line count))) s

/-- MKEEP (R276): at once, with the core's deal position. -/
def execMkeep (d a b : BitVec 5) (s : State) : Result :=
  irreversible (fun s => do
    let k := (s.x a).toNat
    illegalWhen s (decide (15 < k))
    needsStores s true
    let c := s.core
    let keep : BitVec 1024 :=
      (c.keep &&& ~~~(BitVec.ofNat 1024 ((2 ^ 64 - 1) * 2 ^ (64 * k)))) ||| BitVec.ofNat 1024 ((s.x b).toNat * 2 ^ (64 * k))
    let pos := c.dealExpert % 2 ^ 16 + 2 ^ 16 * (c.dealRound % 2 ^ 32) + (if c.dealRunning then 2 ^ 63 else 0)
    return (s.setCore { c with keep := keep }).setX d (xword pos)) s

/-! ### MDRAIN (R274) -/

def drainDest (d : BitVec 256) : XWord := xword (bitsAt d.toNat 0 64)
def drainScale (d : BitVec 256) : Nat := bitsAt d.toNat 64 32
def drainPitch (d : BitVec 256) : Nat := bitsAt d.toNat 96 16
def drainFormat (d : BitVec 256) : Fmt := match bitsAt d.toNat 112 2 with | 0 => .f32 | 1 => .f16 | _ => .bf16
def drainSp (d : BitVec 256) : Bool := d.toNat.testBit 114
def drainColumns (d : BitVec 256) : Bool := d.toNat.testBit 115
def drainClears (d : BitVec 256) : Bool := d.toNat.testBit 116
def drainAmax (d : BitVec 256) : Bool := d.toNat.testBit 117
def drainScope (d : BitVec 256) : Nat := bitsAt d.toNat 118 3
def drainWord (d : BitVec 256) : XWord := xword (bitsAt d.toNat 128 64)

/-- Contents of a drain descriptor that are illegal (Table 14.7). -/
def drainBad (d : BitVec 256) : Bool :=
  bitsAt d.toNat 121 7 != 0 || bitsAt d.toNat 192 64 != 0 || bitsAt d.toNat 112 2 == 3 || (drainColumns d && !drainSp d)
    || (drainAmax d && decide (4 < drainScope d))

/-- MDRAIN (R274, R263). -/
def execMdrain (d a b : BitVec 5) (s : State) : Result :=
  irreversible (fun s => do
    let (v, s) ← readDesc s (s.x b) 32 32
    let q := BitVec.ofNat 256 v
    keepFinds s (illegalWhen s (drainBad q))
    let w := (drainFormat q).bytes
    let dest := drainDest q
    let pitch := drainPitch q
    let extent := 63 * pitch + 64 * w
    let s ← (if drainSp q then do
        if drainColumns q then
          keepFinds s (spRange s true (dest &&& ~~~(63 : XWord)) (64 * (pitch * (63 * w / 64) + 64)) 64)
        else do
          keepFinds s (spPitched s true dest 64 (dest + xword pitch) w extent)
        return s
      else do
        keepFinds s (needsStores s false)
        keepFinds s (memPitched s true dest w (dest + xword pitch))
        memRange s .write dest extent w)
    let s ← (if drainAmax q then do
        let (_, s) ← located s .update (drainWord q) 4 0
        return s
      else return s)
    keepFinds s (needsStores s false)
    matrixRoom s
    return ticketed s d 4 0 .mdrain ([], []) (fun t n => t.enqueueMatrix (.drain n a.toNat q))) s

/-- The byte of element (i, j) of a drain (R274). -/
def drainPlace (d : BitVec 256) (i j : Nat) : Nat :=
  let w := (drainFormat d).bytes
  if drainColumns d then 64 * ((drainDest d).toNat / 64 + drainPitch d * (i * w / 64) + j) + i * w % 64
  else (drainDest d).toNat + i * drainPitch d + j * w

/-- The drained elements and the flags of their roundings (R70). -/
def drained (tile : Array (BitVec 32)) (d : BitVec 256) : Array Nat × Flags :=
  let t := fp32.val (drainScale d)
  (span 0 4096).foldl (fun (st : Array Nat × Flags) n =>
    let (v, f) := (fp32.val (tile.getD n 0).toNat).mul t
    let (b, g) := roundCore (drainFormat d).fp Rnd.rne v
    (st.1.push b, st.2 ||| f ||| g)) (#[], 0)

/-- The amax candidate (R72). -/
def amaxOf (tile : Array (BitVec 32)) (d : BitVec 256) : Nat :=
  let t := fp32.val (drainScale d)
  (span 0 4096).foldl (fun c n =>
    let b := (roundCore fp32 Rnd.rne ((fp32.val (tile.getD n 0).toNat).mul t).1).1 % 2 ^ 31
    if fp32.top < b ∨ fp32.top < c then fp32.nan else max c b) 0

/-- The amax update (R274): an indivisible access of its own, by a command. -/
def amaxUpdate (s : State) (cmd : Nat) (d : BitVec 256) (cand : Nat) : Eng State := do
  let va := drainWord d
  let (pa, s) ← engAddr s cmd .update va
  if Config.peerBase ≤ pa ∧ drainScope d ≠ 4 then .error (.fail 0x13 s)
  else
    let bad := (span 0 4).filter (fun i => badByte s (pa + i))
    if bad.isEmpty then
      return s.homeWrite 1 s.hart.gang va pa (leBytes 4 (fmaxBits (leNat (memReadN s.mem pa 4)) cand))
    else .error (.fail 0x14 (s.foundBad 1 s.hart.gang (bad.map (fun i => ((pa + i) / 2, va + xword i)))))

/-- MDRAIN at its point, for the focused hart (R274, R267, Tables 25.5 and 25.6).  It starts there, after every command that has
started so far (R315, R317). -/
def drainRun (s : State) (cmd tile : Nat) (d : BitVec 256) : Point :=
  let acc := s.core.tile tile
  let (outs, f) := drained acc d
  let w := (drainFormat d).bytes
  let unit := fun (s : State) (n : Nat) => (do
    let at_ := drainPlace d (n / 64) (n % 64)
    let data := leBytes w (outs.getD n 0)
    if drainSp d then return ({ sp := true, va := 0, pa := at_, data := data, bad := [], done := n + 1 }, s)
    else
      let (pa, s) ← engAddr s cmd .write (xword at_)
      return ({ sp := false, va := xword at_, pa := pa, data := data, bad := [], done := n + 1 }, s) : Eng (Item × State))
  (gather unit id s (span 0 4096)).point (fun (items, failed, s) =>
    let s := s.performItems s.coreId items
    let k := s.core
    let s := s.setCore (k.setTileFlags tile (k.tileFlags tile ||| f))
    let tf := (s.core.tileFlags tile).toNat
    match failed with
    | some (code, n) => .ok (s.finishCmd cmd code tf n)
    | none =>
      let finish := fun (s : State) =>
        let s := if drainClears d then s.setCore ((s.core.setTile tile zeroTile).setTileFlags tile 0) else s
        s.finishCmd cmd 0 tf 0
      if drainAmax d then
        (amaxUpdate s cmd d (amaxOf acc d)).point (fun s => .ok (finish s)) (fun code s => .ok (s.finishCmd cmd code tf 4096))
      else .ok (finish s))
    (fun _ _ => .error none)

/-- MLDW at its point (R273, Table 25.6). -/
def loadRun (s : State) (cmd : Nat) (src : XWord) (line count : Nat) : Point :=
  let unit := fun (s : State) (n : Nat) => (do
    let va := src + xword (128 * n)
    let (bs, s) ← engReadGood s cmd va 128
    return ({ sp := true, va := va, pa := 128 * (line + n), data := bs, bad := [], done := n + 1 }, s) : Eng (Item × State))
  (gather unit id s (span 0 count)).point (fun (items, failed, s) =>
    let k := s.core
    let s := s.setCore { k with wbuf := items.foldl (fun m i => memWriteN m i.pa i.data) k.wbuf }
    match failed with
    | some (code, n) => .ok (s.finishCmd cmd code 0 n)
    | none => .ok (s.finishCmd cmd 0 0 0))
    (fun _ _ => .error none)

/-- The instruction at the head of the focused hart's matrix queue, wholly, at one point (R264); none where one of its
accesses has to wait, its gang's local stores are away (R367), or the core is retired (R434). -/
def matrixPoint (s : State) : Point :=
  match s.hart.matrixQ with
  | [] => .error none
  | op :: rest =>
    let s := s.setHart { s.hart with matrixQ := rest }
    if !s.holds || s.core.retired then .error (some .line)
    else match op with
    | .zero t => .ok (s.setCore ((s.core.setTile t zeroTile).setTileFlags t 0))
    | .mop t k a b mwb => .ok (s.setCore (mopRun s.core t k a b mwb))
    | .load cmd src line count => loadRun s cmd src line count
    | .drain cmd t d => drainRun s cmd t d

/-- The ticketed command of a matrix instruction. -/
def MatrixOp.cmd : MatrixOp → Option Nat
  | .load n _ _ _ => some n
  | .drain n _ _ => some n
  | _ => none

/-- MATRIX_EXECUTE: the head of hart h's matrix queue (R264). -/
def execMatrixExecute (h : Nat) (s : State) : Result :=
  pointStep "MATRIX_EXECUTE" s ((s.focus h).hart.matrixQ.head?.bind MatrixOp.cmd)
    ((matrixPoint (s.focus h)).map (fun t => t.focus s.cur))

/-! ### MTOV, MFROMV, MWAIT (R275, R265) -/

/-- The wait for every earlier matrix instruction of the hart. -/
def matrixDrained (s : State) : Eff Unit := if s.hart.matrixQ.isEmpty then .ok () else .error (.wait .matrix)

/-- The ILLEGAL checks that MTOV and MFROMV share. -/
def tileRows (s : State) (b : BitVec 5) : Eff Nat := do
  let r0 := (s.x b).toNat
  illegalWhen s (decide (64 < r0 + s.regs.vr) || decide (64 < s.regs.vl))
  return r0

/-- MTOV (R275): its write commits with it. -/
def execMtov (d a b : BitVec 5) (s : State) : Result :=
  irreversibleChecked (.mtov d a b) (fun s => do
    let r0 ← tileRows s b
    let tag := destTag s d
    illegalWhen s (!(tag == .bits || tag == .f32))
    needsStores s false
    matrixDrained s
    if s.regs.vl = 0 then return s
    else
      let acc := s.core.tile a.toNat
      let rs := rowSize s
      let new := (shapeIndices s).foldl (fun (n : Array (Option XWord)) i =>
        n.setIfInBounds i (some ((acc.getD (64 * (r0 + i / rs) + i % rs) 0).setWidth 64))) (blank s)
      let t := (s.writeGroup d.toNat (groupFactor s.regs) .f32 (withTail s (fun i => !inShape s i) new)).raise
        (s.core.tileFlags a.toNat)
      return t.setRegs (commitTwins t.regs)) s

/-- MFROMV (R275). -/
def execMfromv (d a b : BitVec 5) (s : State) : Result :=
  irreversibleChecked (.mfromv d a b) (fun s => do
    let r0 ← tileRows s b
    let src ← groupSource s a.toNat (groupFactor s.regs)
    illegalWhen s (src.fmt != .f32)
    needsStores s true
    matrixDrained s
    let k := s.core
    let rs := rowSize s
    let new := (shapeIndices s).foldl (fun (t : Array (BitVec 32)) i =>
      t.setIfInBounds (64 * (r0 + i / rs) + i % rs) ((elem s src i).setWidth 32)) (k.tile d.toNat)
    return s.setCore (k.setTile d.toNat new)) s

/-- MWAIT (R265). -/
def execMwait (s : State) : Result :=
  irreversible (fun s => do
    needsStores s false
    matrixDrained s
    return s) s

end Machine
end Sys2Proof
end

