-- ==== Sys2Proof/Machine/Scalar.lean ====
section
/-! DEFINITION. Majors 0x01 to 0x09: integer, immediate, load, store, branch and jump instructions (R122 to R134).  Each
belongs to the open strip and forms a convoy of one. -/

namespace Sys2Proof
namespace Machine

/-! ### Integer arithmetic (Tables 6.1, R125) -/

/-- The 32-bit form of a two-source operation: on bits 31:0, the result sign-extended (R124). -/
def word32 (f : BitVec 32 → BitVec 32 → BitVec 32) (a b : XWord) : XWord := (f (a.setWidth 32) (b.setWidth 32)).signExtend 64

/-- A two-source operation on registers, in its 64-bit or its 32-bit form. -/
def aluOp (d a b : BitVec 5) (w : Bool) (f : XWord → XWord → XWord) (f32 : BitVec 32 → BitVec 32 → BitVec 32)
    (s : State) : Result :=
  ordinary (fun s => .ok (s.setX d (if w then word32 f32 (s.x a) (s.x b) else f (s.x a) (s.x b)))) s

/-- A two-source operation with no 32-bit form. -/
def aluOp64 (d a b : BitVec 5) (f : XWord → XWord → XWord) (s : State) : Result :=
  ordinary (fun s => .ok (s.setX d (f (s.x a) (s.x b)))) s

/-- A register and immediate operation (R126). -/
def aluImm (d a : BitVec 5) (v : XWord) (f : XWord → XWord → XWord) (s : State) : Result :=
  ordinary (fun s => .ok (s.setX d (f (s.x a) v))) s

def boolX (b : Bool) : XWord := if b then 1 else 0

def mulHigh (signed : Bool) (a b : XWord) : XWord :=
  if signed then BitVec.ofInt 64 (a.toInt * b.toInt / 2 ^ 64) else BitVec.ofNat 64 (a.toNat * b.toNat / 2 ^ 64)

/-- Quotients and remainders of nonzero divisors at a width (R125): signed ones truncate, and the most negative value over −1
gives itself and remainder 0. -/
def divS {n : Nat} (a b : BitVec n) : BitVec n := BitVec.ofInt n (a.toInt.tdiv b.toInt)
def remS {n : Nat} (a b : BitVec n) : BitVec n := BitVec.ofInt n (a.toInt.tmod b.toInt)
def divU {n : Nat} (a b : BitVec n) : BitVec n := BitVec.ofNat n (a.toNat / b.toNat)
def remU {n : Nat} (a b : BitVec n) : BitVec n := BitVec.ofNat n (a.toNat % b.toNat)

/-- A division (R125): a zero divisor raises DIVZ with the dividend as read, and writes nothing. -/
def divOp (d a b : BitVec 5) (w : Bool) (f : XWord → XWord → XWord) (f32 : BitVec 32 → BitVec 32 → BitVec 32)
    (s : State) : Result :=
  ordinary (fun s =>
    let x := s.x a
    let y := s.x b
    if w then
      (if y.setWidth 32 = 0 then .error (.trap { code := cDIVZ, tv := sext 32 x }) else .ok (s.setX d (word32 f32 x y)))
    else if y = 0 then .error (.trap { code := cDIVZ, tv := x })
    else .ok (s.setX d (f x y))) s

/-- A count over bits 63:0, or over bits 31:0 under W32. -/
def countOp (d a : BitVec 5) (w : Bool) (f : Nat → Nat → Nat) (s : State) : Result :=
  ordinary (fun s => .ok (s.setX d (xword (if w then f (xbits (s.x a) 0 32) 32 else f (s.x a).toNat 64)))) s

/-- ADD (Table 6.1, op 0). -/
def execAdd (d a b : BitVec 5) (w : Bool) (s : State) : Result :=
  aluOp d a b w (· + ·) (· + ·) s

/-- SUB (op 1). -/
def execSub (d a b : BitVec 5) (w : Bool) (s : State) : Result :=
  aluOp d a b w (· - ·) (· - ·) s

/-- AND (op 2). -/
def execAnd (d a b : BitVec 5) (s : State) : Result :=
  aluOp64 d a b (· &&& ·) s

/-- OR (op 3). -/
def execOr (d a b : BitVec 5) (s : State) : Result :=
  aluOp64 d a b (· ||| ·) s

/-- XOR (op 4). -/
def execXor (d a b : BitVec 5) (s : State) : Result :=
  aluOp64 d a b (· ^^^ ·) s

/-- ANDN (op 5). -/
def execAndn (d a b : BitVec 5) (s : State) : Result :=
  aluOp64 d a b (fun x y => x &&& ~~~y) s

/-- SLL (op 6): the shift amount is b<5:0>, or b<4:0> under W32. -/
def execSll (d a b : BitVec 5) (w : Bool) (s : State) : Result :=
  aluOp d a b w (fun x y => x <<< xbits y 0 6) (fun x y => x <<< bitsAt y.toNat 0 5) s

/-- SRL (op 7). -/
def execSrl (d a b : BitVec 5) (w : Bool) (s : State) : Result :=
  aluOp d a b w (fun x y => x >>> xbits y 0 6) (fun x y => x >>> bitsAt y.toNat 0 5) s

/-- SRA (op 8). -/
def execSra (d a b : BitVec 5) (w : Bool) (s : State) : Result :=
  aluOp d a b w (fun x y => x.sshiftRight (xbits y 0 6)) (fun x y => x.sshiftRight (bitsAt y.toNat 0 5)) s

/-- SLT (op 9). -/
def execSlt (d a b : BitVec 5) (s : State) : Result :=
  aluOp64 d a b (fun x y => boolX (x.slt y)) s

/-- SLTU (op 10). -/
def execSltu (d a b : BitVec 5) (s : State) : Result :=
  aluOp64 d a b (fun x y => boolX (x.ult y)) s

/-- MIN (op 11). -/
def execMin (d a b : BitVec 5) (s : State) : Result :=
  aluOp64 d a b (fun x y => if x.slt y then x else y) s

/-- MAX (op 12). -/
def execMax (d a b : BitVec 5) (s : State) : Result :=
  aluOp64 d a b (fun x y => if x.slt y then y else x) s

/-- MINU (op 13). -/
def execMinu (d a b : BitVec 5) (s : State) : Result :=
  aluOp64 d a b (fun x y => if x.ult y then x else y) s

/-- MAXU (op 14). -/
def execMaxu (d a b : BitVec 5) (s : State) : Result :=
  aluOp64 d a b (fun x y => if x.ult y then y else x) s

/-- MUL (op 15). -/
def execMul (d a b : BitVec 5) (w : Bool) (s : State) : Result :=
  aluOp d a b w (· * ·) (· * ·) s

/-- MULH (op 16). -/
def execMulh (d a b : BitVec 5) (s : State) : Result :=
  aluOp64 d a b (mulHigh true) s

/-- MULHU (op 17). -/
def execMulhu (d a b : BitVec 5) (s : State) : Result :=
  aluOp64 d a b (mulHigh false) s

/-- DIV (op 18, R125). -/
def execDiv (d a b : BitVec 5) (w : Bool) (s : State) : Result :=
  divOp d a b w divS divS s

/-- DIVU (op 19, R125). -/
def execDivu (d a b : BitVec 5) (w : Bool) (s : State) : Result :=
  divOp d a b w divU divU s

/-- REM (op 20, R125). -/
def execRem (d a b : BitVec 5) (w : Bool) (s : State) : Result :=
  divOp d a b w remS remS s

/-- REMU (op 21, R125). -/
def execRemu (d a b : BitVec 5) (w : Bool) (s : State) : Result :=
  divOp d a b w remU remU s

/-- CLZ (op 22). -/
def execClz (d a : BitVec 5) (w : Bool) (s : State) : Result :=
  countOp d a w leadingZeros s

/-- POPC (op 23). -/
def execPopc (d a : BitVec 5) (w : Bool) (s : State) : Result :=
  countOp d a w countBits s

/-- ADDI (R126). -/
def execAddi (d a : BitVec 5) (i : BitVec 12) (s : State) : Result :=
  aluImm d a (i.signExtend 64) (· + ·) s

/-- ANDI (R126). -/
def execAndi (d a : BitVec 5) (i : BitVec 12) (s : State) : Result :=
  aluImm d a (i.signExtend 64) (· &&& ·) s

/-- ORI (R126). -/
def execOri (d a : BitVec 5) (i : BitVec 12) (s : State) : Result :=
  aluImm d a (i.signExtend 64) (· ||| ·) s

/-- XORI (R126). -/
def execXori (d a : BitVec 5) (i : BitVec 12) (s : State) : Result :=
  aluImm d a (i.signExtend 64) (· ^^^ ·) s

/-- SLTI (R126). -/
def execSlti (d a : BitVec 5) (i : BitVec 12) (s : State) : Result :=
  aluImm d a (i.signExtend 64) (fun x y => boolX (x.slt y)) s

/-- SLLI (R126). -/
def execSlli (d a : BitVec 5) (i : BitVec 6) (s : State) : Result :=
  aluImm d a (i.setWidth 64) (fun x y => x <<< y.toNat) s

/-- SRLI (R126). -/
def execSrli (d a : BitVec 5) (i : BitVec 6) (s : State) : Result :=
  aluImm d a (i.setWidth 64) (fun x y => x >>> y.toNat) s

/-- SRAI (R126). -/
def execSrai (d a : BitVec 5) (i : BitVec 6) (s : State) : Result :=
  aluImm d a (i.setWidth 64) (fun x y => x.sshiftRight y.toNat) s

/-- LUI (R127). -/
def execLui (d : BitVec 5) (i : BitVec 20) (s : State) : Result :=
  ordinary (fun s => .ok (s.setX d ((i.setWidth 64) <<< (12 : Nat)))) s

/-- AUIPC (R127). -/
def execAuipc (d : BitVec 5) (i : BitVec 20) (s : State) : Result :=
  ordinary (fun s => .ok (s.setX d (s.regs.pc + (i.signExtend 64) <<< (12 : Nat)))) s

/-! ### Loads and stores (R128 to R131) -/

/-- A scalar load of n bytes at a + sext(imm12), extended (R128). -/
def loadOp (d a : BitVec 5) (i : BitVec 12) (n : Nat) (signed : Bool) (s : State) : Result :=
  ordinary (fun s => do
    let (v, s) ← loadNat s (s.x a + i.signExtend 64) n
    return s.setX d (if signed then sext (8 * n) (xword v) else xword v)) s

/-- A scalar store of the n low bytes of x[rb] (R128, R130). -/
def storeOp (b a : BitVec 5) (i : BitVec 12) (n : Nat) (s : State) : Result :=
  ordinary (fun s => storeBytes s (s.x a + i.signExtend 64) n 0 (leBytes n (s.x b).toNat)) s

/-- LD.B (R128). -/
def execLdB (d a : BitVec 5) (i : BitVec 12) (s : State) : Result :=
  loadOp d a i 1 true s

/-- LD.H (R128). -/
def execLdH (d a : BitVec 5) (i : BitVec 12) (s : State) : Result :=
  loadOp d a i 2 true s

/-- LD.W (R128). -/
def execLdW (d a : BitVec 5) (i : BitVec 12) (s : State) : Result :=
  loadOp d a i 4 true s

/-- LD.D (R128). -/
def execLdD (d a : BitVec 5) (i : BitVec 12) (s : State) : Result :=
  loadOp d a i 8 false s

/-- LD.BU (R128). -/
def execLdBu (d a : BitVec 5) (i : BitVec 12) (s : State) : Result :=
  loadOp d a i 1 false s

/-- LD.HU (R128). -/
def execLdHu (d a : BitVec 5) (i : BitVec 12) (s : State) : Result :=
  loadOp d a i 2 false s

/-- LD.WU (R128). -/
def execLdWu (d a : BitVec 5) (i : BitVec 12) (s : State) : Result :=
  loadOp d a i 4 false s

/-- ST.B (R128). -/
def execStB (b a : BitVec 5) (i : BitVec 12) (s : State) : Result :=
  storeOp b a i 1 s

/-- ST.H (R128). -/
def execStH (b a : BitVec 5) (i : BitVec 12) (s : State) : Result :=
  storeOp b a i 2 s

/-- ST.W (R128). -/
def execStW (b a : BitVec 5) (i : BitVec 12) (s : State) : Result :=
  storeOp b a i 4 s

/-- ST.D (R128). -/
def execStD (b a : BitVec 5) (i : BitVec 12) (s : State) : Result :=
  storeOp b a i 8 s

/-! ### Branches and jumps (R132, R133) -/

/-- A branch: PC + 4·sext(imm12) when the condition holds, PC + 4 otherwise (R132). -/
def branchOp (a b : BitVec 5) (i : BitVec 12) (c : XWord → XWord → Bool) (s : State) : Result :=
  transfer (fun s =>
    let t := c (s.x a) (s.x b)
    .ok (t, s.setPc (if t then s.regs.pc + (i.signExtend 64) <<< (2 : Nat) else s.regs.pc + 4))) s

/-- A jump to T with the link PC + 4 (R133); a misaligned T raises ALIGN at the jump, which writes no register (R101). -/
def jumpOp (d : BitVec 5) (t : State → XWord) (s : State) : Result :=
  transfer (fun s =>
    let target := t s
    if !alignedTo target 4 then .error (.trap { code := cALIGN, tv := target })
    else .ok (true, (s.setX d (s.regs.pc + 4)).setPc target)) s

/-- BEQ (Table 6.3). -/
def execBeq (a b : BitVec 5) (i : BitVec 12) (s : State) : Result :=
  branchOp a b i (fun x y => x == y) s

/-- BNE (Table 6.3). -/
def execBne (a b : BitVec 5) (i : BitVec 12) (s : State) : Result :=
  branchOp a b i (fun x y => x != y) s

/-- BLT (Table 6.3). -/
def execBlt (a b : BitVec 5) (i : BitVec 12) (s : State) : Result :=
  branchOp a b i (fun x y => x.slt y) s

/-- BGE (Table 6.3). -/
def execBge (a b : BitVec 5) (i : BitVec 12) (s : State) : Result :=
  branchOp a b i (fun x y => !x.slt y) s

/-- BLTU (Table 6.3). -/
def execBltu (a b : BitVec 5) (i : BitVec 12) (s : State) : Result :=
  branchOp a b i (fun x y => x.ult y) s

/-- BGEU (Table 6.3). -/
def execBgeu (a b : BitVec 5) (i : BitVec 12) (s : State) : Result :=
  branchOp a b i (fun x y => !x.ult y) s

/-- JAL (R133). -/
def execJal (d : BitVec 5) (i : BitVec 20) (s : State) : Result :=
  jumpOp d (fun s => s.regs.pc + (i.signExtend 64) <<< (2 : Nat)) s

/-- JALR (R133). -/
def execJalr (d a : BitVec 5) (i : BitVec 15) (s : State) : Result :=
  jumpOp d (fun s => s.x a + i.signExtend 64) s

end Machine
end Sys2Proof
end

