-- ==== Sys2Proof/Machine/Tags.lean ====
section
/-! DEFINITION. Major 0x18, the tag-selected operations, and VSTT, the tagging store (R196 to R206). -/

namespace Sys2Proof
namespace Machine

/-! ### Selector, rows and span (R198 to R200) -/

/-- The selector of Table 9.4. -/
structure Selector where
  base : Nat
  n : Nat
  pattern : BitVec 16
  care : BitVec 16
  bad : Bool
deriving DecidableEq, Repr

def Selector.of (v : XWord) : Selector :=
  let n := xbits v 16 15
  { base := xbits v 0 15, n := if n = 0 then Config.spRows else n, pattern := BitVec.ofNat 16 (xbits v 32 16),
    care := BitVec.ofNat 16 (xbits v 48 16), bad := v.getLsbD 15 || v.getLsbD 31 }

def Core.tag (k : Core) (row : Nat) : BitVec 16 := mgetD k.tags row 0
def Core.setTag (k : Core) (row : Nat) (t : BitVec 16) : Core := { k with tags := mput 0 k.tags row t }

/-- Rows of the executing hart's gang's request. -/
def State.rowLimit (s : State) : Nat := min Config.spRows (s.core.request / 64)

/-- The checks of R200 in their order; `w` is the element width of a form that uses the span, and `write` says that the operation
changes S-space or a tag, which PROT reports as a write (DESIGN CHOICE, log entry 33). -/
def tagChecks (s : State) (sel : Selector) (write : Bool) (w : Option Nat) : Eff Unit := do
  illegalWhen s sel.bad
  match w with
  | some w =>
    illegalWhen s (decide (64 < s.hart.tspanOff.toNat + s.hart.tspanLen.toNat) || s.hart.tspanOff.toNat % w != 0
      || s.hart.tspanLen.toNat % w != 0)
  | none => pure ()
  if !s.holds then protFault (xword (64 * sel.base)) true write
  else if s.rowLimit < sel.base + sel.n then protFault (xword (64 * max sel.base s.rowLimit)) true write
  else pure ()

/-- Whether a row matches (R84). -/
def Selector.hits (sel : Selector) (k : Core) (row : Nat) : Bool := (k.tag row ^^^ sel.pattern) &&& sel.care == 0

/-- The match set S of R201. -/
def matchSet (s : State) (sel : Selector) : List Nat := (span sel.base sel.n).filter (sel.hits s.core)

/-- The tag that NEWTAG and WMASK make of an old one (R201). -/
def retagged (op : XWord) (old : BitVec 16) : BitVec 16 :=
  let new : BitVec 16 := op.setWidth 16
  let m : BitVec 16 := (op >>> 16).setWidth 16
  (old &&& ~~~m) ||| (new &&& m)

/-- The tags of some rows rewritten. -/
def State.retag (s : State) (op : XWord) (rows : List Nat) : State :=
  s.setCore (rows.foldl (fun k r => k.setTag r (retagged op (k.tag r))) s.core)

/-! ### The operations -/

/-- A tag operation: irreversible, and ordered after what stands before it and before what follows (R98, R241). -/
def tagOp (f : State → Eff State) (s : State) : Result := irreversible (fun s => do return (← f s).order) s

/-- TAGW (R201). -/
def execTagw (d a b : BitVec 5) (s : State) : Result :=
  tagOp (fun s => do
    let sel := Selector.of (s.x a)
    tagChecks s sel true none
    return (s.retag (s.x b) (span sel.base sel.n)).setX d (xword sel.n)) s

/-- TAGR (R201): only the base row is examined. -/
def execTagr (d a : BitVec 5) (s : State) : Result :=
  tagOp (fun s => do
    let sel := { Selector.of (s.x a) with n := 1 }
    tagChecks s sel false none
    return s.setX d ((s.core.tag sel.base).setWidth 64)) s

/-- TMATCH (R201). -/
def execTmatch (d a : BitVec 5) (s : State) : Result :=
  tagOp (fun s => do
    let sel := Selector.of (s.x a)
    tagChecks s sel false none
    return s.setX d (xword (matchSet s sel).length)) s

/-- The element types of Table 9.3. -/
def tagType (y : BitVec 3) : Fmt :=
  match y.toNat with
  | 0 => .i8 | 1 => .u8 | 2 => .i16 | 3 => .u16 | 4 => .i32 | 5 => .u32 | 6 => .f16 | _ => .f32

/-- The span of a row changed element by element, with the flags raised. -/
def spanRow (off w : Nat) (f : XWord → XWord × Flags) (row : Nat) (count : Nat) (acc : List Host.Cell × Flags) :
    List Host.Cell × Flags :=
  (span 0 count).foldl (fun acc j =>
    let at_ := 64 * row + off + j * w
    let (v, fl) := f (xword (leNat (memReadN acc.1 at_ w)))
    (memWriteN acc.1 at_ (leBytes w v.toNat), acc.2 ||| fl)) acc

/-- A write to the span of some rows waits for the reads of the hart's queued matrix instructions (R266). -/
def spanFree (s : State) (rows : List Nat) : Eff Unit :=
  if rows.any (fun r => queuedReads s (64 * r + s.hart.tspanOff.toNat) s.hart.tspanLen.toNat) then .error (.wait .matrix)
  else .ok ()

/-- TOPR.SET, TOPR.ADD and TOPR.MULS (R201): the match, then every element of the span of every matched row. -/
def spanOp (d a b : BitVec 5) (fmt : Fmt) (f : State → XWord → XWord → XWord × Flags) (s : State) : Result :=
  tagOp (fun s => do
    let sel := Selector.of (s.x a)
    let w := fmt.bytes
    tagChecks s sel true (some w)
    let rows := matchSet s sel
    spanFree s rows
    let (scratch, fl) := rows.foldl (fun acc r =>
      spanRow s.hart.tspanOff.toNat w (f s (s.x b)) r (s.hart.tspanLen.toNat / w) acc) (s.core.scratch, 0)
    return ((s.setCore { s.core with scratch := scratch }).raise fl).setX d (xword rows.length)) s

/-- TOPR.SET (Table 9.6). -/
def execToprSet (d a b : BitVec 5) (y : BitVec 3) (s : State) : Result :=
  spanOp d a b (tagType y) (fun _ v _ => (lowBits (tagType y).bytes v, 0)) s

/-- Integer tag arithmetic always clamps; the floating-point forms round once, RNE where FRM holds RSR (Table 9.6). -/
def tagArith (fmt : Fmt) (fi : Int → Int → Int) (ff : Bool → Val → Val → Val × Flags) (s : State) (op e : XWord) :
    XWord × Flags :=
  if fmt.isInt then narrowInt fmt true (fi (fmt.int e) (intOf true 32 op))
  else
    let r : Rnd := { mode := if s.regs.frm = 5 then 0 else s.regs.frm.toNat, gen := 0 }
    let (v, fl) := ff r.down (fmt.val e) (fp32.val (op.toNat % 2 ^ 32))
    let o := roundTo fmt.fp r v
    (xword o.bits, fl ||| o.flags)

/-- TOPR.ADD (Table 9.6). -/
def execToprAdd (d a b : BitVec 5) (y : BitVec 3) (s : State) : Result :=
  spanOp d a b (tagType y) (tagArith (tagType y) (· + ·) (fun down x v => x.add down v)) s

/-- TOPR.MULS (Table 9.6). -/
def execToprMuls (d a b : BitVec 5) (y : BitVec 3) (s : State) : Result :=
  spanOp d a b (tagType y) (tagArith (tagType y) (· * ·) (fun _ x v => x.mul v)) s

/-- TOPR.CLR (R201): its width counts as one byte. -/
def execToprClr (d a : BitVec 5) (s : State) : Result :=
  tagOp (fun s => do
    let sel := Selector.of (s.x a)
    tagChecks s sel true (some 1)
    let rows := matchSet s sel
    spanFree s rows
    let scratch := rows.foldl (fun m r => memZero m (64 * r + s.hart.tspanOff.toNat) s.hart.tspanLen.toNat) s.core.scratch
    return (s.setCore { s.core with scratch := scratch }).setX d (xword rows.length)) s

/-- TOPR.RETAG (R201). -/
def execToprRetag (d a b : BitVec 5) (s : State) : Result :=
  tagOp (fun s => do
    let sel := Selector.of (s.x a)
    tagChecks s sel true none
    let rows := matchSet s sel
    return (s.retag (s.x b) rows).setX d (xword rows.length)) s

/-! ### VSTT -/

/-- One row of VSTT: its active elements over the row's bytes, and its tag, as one fill (R205). -/
def State.fillRow (s : State) (p : Pfx) (src : Source) (w row r : Nat) (t : BitVec 16) : State :=
  let is := (span (r * rowSize s) s.regs.vl).filter (predicate s p)
  let s := is.foldl (fun s i => s.spWrite s.coreId (64 * row + i % rowSize s * w) (leBytes w (src.get i).toNat)) s
  s.setCore (s.core.setTag row t)

/-- VSTT (R205, R206); it waits for the reads of queued matrix instructions of its rows (R266). -/
def execVstt (d a b : BitVec 5) (s : State) : Result :=
  irreversibleChecked (.vstt d a b) (fun s => do
    let p := pfxOf s.regs
    let src ← groupSource s d.toNat (groupFactor s.regs)
    let w := fmtWidth s src.fmt
    illegalWhen s (src.fmt == .t6 || decide (64 < s.regs.vl * w))
    let t := s.spendPfx
    if s.regs.vl = 0 then return t
    else
      let base := s.x a
      if xbits base 21 43 ≠ 0 then protFault base true true
      else if !alignedTo base 64 then .error (.trap { code := cALIGN, tv := base, sspace := true, write := true })
      else
        let row := base.toNat / 64
        match (span 0 s.regs.vr).find? (fun r => !s.holds || decide (s.rowLimit ≤ row + r)) with
        | some r => protFault (xword (64 * (row + r))) true true (r * s.regs.vl)
        | none =>
          if queuedReads s base.toNat (64 * s.regs.vr) then .error (.wait .matrix)
          else return (span 0 s.regs.vr).foldl (fun u r => u.fillRow p src w (row + r) r ((s.x b).setWidth 16)) t) s

end Machine
end Sys2Proof
end

