-- ==== Sys2Proof/Machine/VMem.lean ====
section
/-! DEFINITION. Majors 0x14 and 0x15 but for VSTT: vector loads and stores in both spaces, row and column orientation and
packed T6 (R178 to R186). -/

namespace Sys2Proof
namespace Machine

/-- The forms of Table 8.2. -/
inductive VForm where
  | unit | strided | indexed | block
deriving DecidableEq, Repr

/-- Where one element stands: its linear index, its sequence index, its byte address (64·row + column in column orientation),
its byte column in column orientation, and its slot in a packed unit. -/
structure Place where
  i : Nat
  k : Nat
  addr : Int
  col : Option Int
  slot : Nat
deriving DecidableEq, Repr

/-- Position of the element at linear index i (R180, Table 8.2; R183 for packed T6).  `a` is the base, `p` the signed xb, `ix`
the element's signed index and `w` its width. -/
def placeOf (s : State) (form : VForm) (col packed : Bool) (a p : Int) (w : Nat) (ix : Int) (i : Nat) : Place :=
  let r := i / rowSize s
  let c := i % rowSize s
  let k := r * s.regs.vl + c
  if packed then
    let n := if form = .block then c else k
    { i := i, k := k, addr := a + (if form = .block then r * p else 0) + 3 * (n / 4 : Nat), col := none, slot := n % 4 }
  else if col then
    let rows : Int := match form with
      | .unit => k
      | .strided => k * p
      | .indexed => ix
      | .block => c
    let column := a % 64 + (if form = .block then r * p else 0)
    { i := i, k := k, addr := 64 * (a / 64 + rows) + column, col := some column, slot := 0 }
  else
    let off : Int := match form with
      | .unit => k * w
      | .strided => k * p
      | .indexed => ix
      | .block => r * p + c * w
    { i := i, k := k, addr := a + off, col := none, slot := 0 }

def Place.word (p : Place) : XWord := BitVec.ofInt 64 p.addr

/-- Tags that an index group may carry (R180). -/
def indexTag (f : Fmt) : Bool := f == .i16 || f == .u16 || f == .i32 || f == .u32 || f == .i64

/-- Formats of one byte that the strided and indexed forms refuse in column orientation (R182). -/
def narrowTag (f : Fmt) : Bool := f == .t8 || f == .t6 || f == .e8

/-- The uses of a T8, T6 or E8 tag that R182 forbids. -/
def tagRefused (f : Fmt) (form : VForm) (o : Bool) : Bool :=
  (f == .t6 && (form == .strided || form == .indexed || o))
    || (narrowTag f && o && (form == .strided || form == .indexed))

/-- The places of the active elements in increasing sequence index (R179), after the check of the index group. -/
def placesOf (s : State) (p : Pfx) (form : VForm) (f : Fmt) (o : Bool) (a b : BitVec 5) : Eff (List Place) := do
  let ix : Nat → Int ← (if form = .indexed then do
      let g ← groupSource s b.toNat (groupFactor s.regs)
      illegalWhen s (!indexTag g.fmt)
      return fun i => g.fmt.int (g.get i)
    else return fun _ => 0)
  return (activeIndices s p).map (fun i =>
    placeOf s form o (f == .t6) (s.x a).toNat (s.x b).toInt (fmtWidth s f) (ix i) i)

/-- The checks of one S-space element in column orientation (R181, R83).  Its row is judged before the byte address is cut to 64
bits. -/
def columnCheck (s : State) (write : Bool) (p : Place) (w : Nat) : Eff Unit :=
  match p.col with
  | none => .ok ()
  | some c =>
    if xbits p.word 21 43 ≠ 0 then protFault p.word true write p.k
    else if c % w ≠ 0 then
      .error (.trap { code := cALIGN, tv := p.word, sspace := true, write := write, index := p.k })
    else if c < 0 ∨ 64 ≤ c then protFault p.word true write p.k
    else if p.addr - c < 0 ∨ 64 * Config.spRows ≤ p.addr - c then protFault p.word true write p.k
    else spCheck s write p.word w w p.k >>= fun _ => .ok ()

/-- One element read (R181, R185). -/
def loadElem (s : State) (sp : Bool) (p : Place) (w : Nat) : Eff (List Byte × State) :=
  if sp then do
    columnCheck s false p w
    let bs ← spLoad s p.word w w p.k
    return (bs, s)
  else loadBytes s .read p.word w w p.k

/-- One element written into the strip store buffer after every check (R181, R184). -/
def storeElem (s : State) (sp : Bool) (p : Place) (data : List Byte) : Eff State :=
  if sp then do
    columnCheck s true p data.length
    spStore s p.word data.length p.k data
  else storeBytes s p.word data.length p.k data

/-- The bytes of a packed unit, read one by one (R183). -/
def loadUnit (s : State) (sp : Bool) (p : Place) : Eff (List Byte × State) :=
  (span 0 3).foldlM (fun acc (j : Nat) => do
    let (bs, t) ← loadElem acc.2 sp { p with addr := p.addr + j } 1
    return (acc.1 ++ bs, t)) ([], s)

/-- A vector load (R178 to R185). -/
def vectorLoad (i : Instr) (form : VForm) (d a b : BitVec 5) (sp o q : Bool) (s : State) : Result :=
  member i (fun p s => do
    let tag := if q then s.regs.qtags.toList.getD d.toNat .bits else destTag s d
    illegalWhen s (tagRefused tag form o)
    let places ← placesOf s p form tag o a b
    if q && s.regs.vl != 0 && decide (Config.queueDepth ≤ (s.regs.queues.toList.getD d.toNat []).length) then
      qleft s 1 d.toNat
    let w := fmtWidth s tag
    let (new, t) ← places.foldlM (fun acc e => do
      if tag = .t6 then
        let (bs, t) ← loadUnit acc.2 sp e
        return (acc.1.setIfInBounds e.i (some (xword (bitsAt (leNat bs) (6 * e.slot) 6))), t)
      else
        let (bs, t) ← loadElem acc.2 sp e w
        return (acc.1.setIfInBounds e.i (some (xword (leNat bs))), t)) (blank s, s)
    let u := deliverElems t p (!q) false d tag
      { new := new, flags := 0, exc := 0, gens := s.regs.gens }
    if s.regs.vl = 0 then return u
    else if q then
      let tile : Tile := { tag := tag, elems := new.map (fun v => v.getD 0) }
      return u.setRegs { u.regs with
        queues := Vector.ofFn (fun j : Fin 4 => if j.val = d.toNat then u.regs.queues[j] ++ [tile] else u.regs.queues[j]) }
    else
      -- the tag of every register of the destination stays (R178)
      return u.setRegs { u.regs with
        vregs := Vector.ofFn (fun j : Fin 32 =>
          let v := u.regs.vregs[j]
          { v with twin := v.twin.map (fun x => { x with tag := (curTile s.regs.vregs[j]).tag }) }) }) s

/-- The packed units of a T6 store: each unit's first active element, with the codes of all its active elements (R183). -/
def packUnits (get : Nat → XWord) : List Place → List (Place × Nat)
  | [] => []
  | p :: ps =>
    let code := bitsAt (get p.i).toNat 0 6 * 2 ^ (6 * p.slot)
    match packUnits get ps with
    | [] => [(p, code)]
    | (q, v) :: rest => if q.addr = p.addr then (p, v + code) :: rest else (p, code) :: (q, v) :: rest

/-- A vector store (R178 to R184).  A packed unit is written as three stores of one byte (DESIGN CHOICE, log entry 33). -/
def vectorStore (i : Instr) (form : VForm) (d a b : BitVec 5) (sp o : Bool) (s : State) : Result :=
  member i (fun p s => do
    let src ← groupSource s d.toNat (groupFactor s.regs)
    let tag := src.fmt
    illegalWhen s (tagRefused tag form o)
    let places ← placesOf s p form tag o a b
    let w := fmtWidth s tag
    let t ← (if tag = .t6 then
        (packUnits src.get places).foldlM (fun t u =>
          (span 0 3).foldlM (fun t j =>
            storeElem t sp { u.1 with addr := u.1.addr + j } [BitVec.ofNat 8 (u.2 / 256 ^ j)]) t) s
      else places.foldlM (fun t e => storeElem t sp e (leBytes w (src.get e.i).toNat)) s)
    return t.spendPfx.noTile) s

/-- VLD (Table 8.2). -/
def execVld (k : Bool) (d a : BitVec 5) (sp o qa : Bool) (s : State) : Result :=
  vectorLoad (.vld k d a sp o qa) .unit d a 0 sp o qa s

/-- VLDS (Table 8.2). -/
def execVlds (k : Bool) (d a b : BitVec 5) (sp o qa : Bool) (s : State) : Result :=
  vectorLoad (.vlds k d a b sp o qa) .strided d a b sp o qa s

/-- VLDX (Table 8.2). -/
def execVldx (k : Bool) (d a b : BitVec 5) (sp o qa : Bool) (s : State) : Result :=
  vectorLoad (.vldx k d a b sp o qa) .indexed d a b sp o qa s

/-- VLDB (Table 8.2). -/
def execVldb (k : Bool) (d a b : BitVec 5) (sp o qa : Bool) (s : State) : Result :=
  vectorLoad (.vldb k d a b sp o qa) .block d a b sp o qa s

/-- VST (Table 8.2). -/
def execVst (k : Bool) (d a : BitVec 5) (sp o : Bool) (s : State) : Result :=
  vectorStore (.vst k d a sp o) .unit d a 0 sp o s

/-- VSTS (Table 8.2). -/
def execVsts (k : Bool) (d a b : BitVec 5) (sp o : Bool) (s : State) : Result :=
  vectorStore (.vsts k d a b sp o) .strided d a b sp o s

/-- VSTX (Table 8.2). -/
def execVstx (k : Bool) (d a b : BitVec 5) (sp o : Bool) (s : State) : Result :=
  vectorStore (.vstx k d a b sp o) .indexed d a b sp o s

end Machine
end Sys2Proof
end

