-- ==== Sys2Proof/Machine/VPermute.lean ====
section
/-! DEFINITION. Major 0x16: register permutes and mask instructions (R187 to R191). -/

namespace Sys2Proof
namespace Machine

/-! ### Permutes -/

/-- A permute's results: for each index of a list, the bits written there, if any, and its flags; the tail that remains. -/
structure Moves where
  indices : List Nat
  each : Nat → Option XWord × Flags
  tail : Nat → Bool

/-- A permute of one source group, queue or `cv` (R188, R189): the destination takes the source's tag. -/
def permute (i : Instr) (d : BitVec 5) (w e : Bool) (op : Bool × BitVec 5) (plan : State → Pfx → Source → Moves)
    (s : State) : Result :=
  member i (fun p s => do
    let src ← source s op.1 op.2
    let t ← consume s [op]
    let m := plan s p src
    let o := m.indices.foldl (fun (o : Outs) n =>
      let (v, fl) := m.each n
      { o with
        new := o.new.setIfInBounds n v, flags := o.flags ||| fl
        exc := if excepts p.ek fl then addIndex o.exc n else o.exc }) (Outs.start s)
    return deliverTail t p w e d src.fmt m.tail o) s

/-- VGATHER (R187): a negative index lies outside. -/
def execVgather (k : Bool) (d a b : BitVec 5) (e qb : Bool) (s : State) : Result :=
  member (.vgather k d a b e qb) (fun p s => do
    let src ← source s false a
    let ix ← source s qb b
    illegalWhen s (!ix.fmt.isInt)
    let t ← consume s [(qb, b)]
    return deliverElems t p true e d src.fmt (eachElem s p (fun i r =>
      let j := ix.fmt.int (ix.get i)
      if 0 ≤ j ∧ j < capacity s then moved (elem s src j.toNat) r else (0, Flags.nv, r.gen)))) s

/-- VSLIDEUP (Table 8.4). -/
def execVslideup (k : Bool) (d a b : BitVec 5) (w e qa : Bool) (s : State) : Result :=
  permute (.vslideup k d a b w e qa) d w e (qa, a) (fun s p src =>
    let n := (s.x b).toNat
    { indices := activeIndices s p
      each := fun i => (if n ≤ i % rowSize s then some (elem s src (i - n)) else none, 0)
      tail := fun i => !inShape s i }) s

/-- VSLIDEDN (Table 8.4). -/
def execVslidedn (k : Bool) (d a b : BitVec 5) (w e qa : Bool) (s : State) : Result :=
  permute (.vslidedn k d a b w e qa) d w e (qa, a) (fun s p src =>
    let n := (s.x b).toNat
    { indices := activeIndices s p
      each := fun i => (some (if i % rowSize s + n < rowSize s then elem s src (i + n) else 0), 0)
      tail := fun i => !inShape s i }) s

/-- VREV (Table 8.4). -/
def execVrev (k : Bool) (d a : BitVec 5) (w e qa : Bool) (s : State) : Result :=
  permute (.vrev k d a w e qa) d w e (qa, a) (fun s p src =>
    { indices := activeIndices s p
      each := fun i => (some (elem s src (i / rowSize s * rowSize s + (s.regs.vl - 1 - i % rowSize s))), 0)
      tail := fun i => !inShape s i }) s

/-- The columns below VL of row r whose bit is set in a mask, ascending (R189). -/
def selected (s : State) (m r : Nat) : List Nat :=
  (span 0 s.regs.vl).filter (fun c => inSet m (r * rowSize s + c))

/-- VCOMPRESS (R189). -/
def execVcompress (k : Bool) (d a b : BitVec 5) (e qa : Bool) (s : State) : Result :=
  permute (.vcompress k d a b e qa) d true e (qa, a) (fun s _ src =>
    let m := maskOf s b
    let rows := ((span 0 s.regs.vr).map (fun r => (selected s m r).toArray)).toArray
    let rs := rowSize s
    let count := fun i => (rows.getD (i / rs) #[]).size
    { indices := (shapeIndices s).filter (fun i => decide (i % rs < count i))
      each := fun i => (some (elem s src (i / rs * rs + (rows.getD (i / rs) #[]).getD (i % rs) 0)), 0)
      tail := fun i => !(inShape s i && decide (i % rs < count i)) }) s

/-- VEXPAND (R189). -/
def execVexpand (k : Bool) (d a b : BitVec 5) (e qa : Bool) (s : State) : Result :=
  permute (.vexpand k d a b e qa) d true e (qa, a) (fun s _ src =>
    let m := maskOf s b
    let rs := rowSize s
    let pairs := (span 0 s.regs.vr).flatMap (fun r =>
      ((selected s m r).zipIdx).map (fun cj => (r * rs + cj.1, r * rs + cj.2)))
    let from_ := pairs.foldl (fun (t : Array Nat) pr => t.setIfInBounds pr.1 pr.2) (Array.replicate (capacity s) 0)
    { indices := pairs.map (·.1)
      each := fun i => (some (elem s src (from_.getD i 0)), 0)
      tail := fun i => !inShape s i }) s

/-! ### Mask instructions -/

/-- A mask instruction that writes mask register d: the bit of each active index, every other bit 0 (R190). -/
def maskOp (i : Instr) (d : BitVec 5) (f : State → Nat → Bool) (s : State) : Result :=
  member i (fun p s =>
    let t := s.spendPfx.noTile
    if s.regs.vl = 0 then .ok t
    else .ok (t.writeMask d.toNat (setOf ((activeIndices s p).filter (f s))))) s

/-- VMAND (Table 8.5). -/
def execVmand (k : Bool) (d a b : BitVec 5) (s : State) : Result :=
  maskOp (.vmand k d a b) d (fun s i => inSet (maskOf s a) i && inSet (maskOf s b) i) s

/-- VMOR (Table 8.5). -/
def execVmor (k : Bool) (d a b : BitVec 5) (s : State) : Result :=
  maskOp (.vmor k d a b) d (fun s i => inSet (maskOf s a) i || inSet (maskOf s b) i) s

/-- VMXOR (Table 8.5). -/
def execVmxor (k : Bool) (d a b : BitVec 5) (s : State) : Result :=
  maskOp (.vmxor k d a b) d (fun s i => inSet (maskOf s a) i != inSet (maskOf s b) i) s

/-- VMNOT (Table 8.5). -/
def execVmnot (k : Bool) (d a : BitVec 5) (s : State) : Result :=
  maskOp (.vmnot k d a) d (fun s i => !inSet (maskOf s a) i) s

/-- VMSET (Table 8.5). -/
def execVmset (k : Bool) (d a : BitVec 5) (s : State) : Result :=
  maskOp (.vmset k d a) d (fun s i => decide (i % rowSize s < (s.x a).toNat)) s

/-- A mask instruction that writes a scalar from the active set bits of a mask register (R191). -/
def maskScalar (i : Instr) (d a : BitVec 5) (f : List Nat → XWord) (s : State) : Result :=
  member i (fun p s =>
    let t := s.spendPfx.noTile
    if s.regs.vl = 0 then .ok t
    else .ok (t.setX d (f ((activeIndices s p).filter (inSet (maskOf s a)))))) s

/-- VMPOP (R191). -/
def execVmpop (k : Bool) (d a : BitVec 5) (s : State) : Result :=
  maskScalar (.vmpop k d a) d a (fun l => xword l.length) s

/-- VMFFSR (R191). -/
def execVmffsr (k : Bool) (d a : BitVec 5) (s : State) : Result :=
  maskScalar (.vmffsr k d a) d a (fun l => match l with
    | [] => BitVec.allOnes 64
    | i :: _ => xword i) s

/-- VMFFS (R191): a column that the destination format does not hold wraps (R49), whatever SAT is (DESIGN CHOICE, log entry 16). -/
def execVmffs (k : Bool) (d a : BitVec 5) (s : State) : Result :=
  member (.vmffs k d a) (fun p s => do
    let tag := destTag s d
    illegalWhen s (!(tag == .bits || (tag.isInt && decide (2 ≤ tag.bytes))))
    let fmt := if tag = .bits then Fmt.u32 else tag
    let rs := rowSize s
    let m := maskOf s a
    let firstOf := fun r => ((span 0 s.regs.vl).find? (fun c =>
      predicate s p (r * rs + c) && inSet m (r * rs + c))).getD s.regs.vl
    let o := (span 0 s.regs.vr).foldl (fun (o : Outs) r =>
      { o with new := o.new.setIfInBounds (r * rs) (some (wrapBits (8 * fmt.bytes) (firstOf r))) }) (Outs.start s)
    return deliverTail s p true false d fmt (fun i => !(inShape s i && i % rs == 0)) o) s

end Machine
end Sys2Proof
end

