-- ==== Sys2Proof/Machine/VReduce.lean ====
section
/-! DEFINITION. Major 0x17 but for the compensated sum: reductions, scans and segmented reductions (R192 to R195). -/

namespace Sys2Proof
namespace Machine

/-- The combining functions of Table 8.6. -/
inductive Red where
  | sum | max | min | and | or
deriving DecidableEq, Repr

/-- A combining function in a format F.  Values are integers: the exact one for an integer format, the encoding for a float, the
bits for a bitwise operation.  `op` threads flags and rounding; `out` narrows to F and converts to the result format. -/
structure Combine where
  fmt : Fmt
  get : Nat → Int
  zero : Int
  op : Flags × Rnd → Int → Int → Int × (Flags × Rnd)
  out : Flags × Rnd → Int → XWord × Flags × BitVec 32
  read : XWord → Int

/-- Integer sums, maxima and minima (R192). -/
def combineInt (kind : Red) (fm dst : Fmt) (sat : Bool) (src : Source) : Combine :=
  { fmt := dst
    get := fun i => asInt fm src i
    zero := match kind with
      | .max => intLo fm.signed (8 * fm.bytes)
      | .min => intHi fm.signed (8 * fm.bytes)
      | _ => 0
    op := fun st x y => (match kind with
      | .max => if x ≤ y then y else x
      | .min => if x ≤ y then x else y
      | _ => x + y, st)
    out := fun st x =>
      let (v, fl) := narrowInt fm sat x
      toDest fm dst sat (v, st.1 ||| fl, st.2.gen) st.2.mode
    read := fun w => fm.int w }

/-- Floating-point sums, rounded at each step, and maxima and minima (R192, R51); a NaN enters as the canonical NaN, so that a
result of one element is canonical too. -/
def combineFloat (kind : Red) (fm dst : Fmt) (src : Source) : Combine :=
  let fp := fm.fp
  { fmt := dst
    get := fun i => (fp.canon ((src.get i).toNat % 2 ^ fp.bits) : Nat)
    zero := match kind with
      | .max => (fp.top + fp.sign true : Nat)
      | .min => (fp.top : Nat)
      | _ => 0
    op := fun st x y =>
      let a := fp.val x.toNat
      let b := fp.val y.toNat
      let pick := fun (v : Val) => (((roundCore fp Rnd.rne v).1 : Int), st)
      match kind with
      | .max => pick (Val.maxNum a b)
      | .min => pick (Val.minNum a b)
      | _ =>
        let (v, fl) := a.add st.2.down b
        let o := roundTo fp st.2 v
        ((o.bits : Int), (st.1 ||| fl ||| o.flags, { st.2 with gen := o.gen }))
    out := fun st x => toDest fm dst false (xword x.toNat, st.1, st.2.gen) st.2.mode
    read := fun w => (w.toNat % 2 ^ fp.bits : Nat) }

/-- Bitwise reductions over integers or raw bits of `bits` bits (R192). -/
def combineBits (kind : Red) (fm dst : Fmt) (bits : Nat) (sat : Bool) (src : Source) : Combine :=
  { fmt := dst
    get := fun i => ((src.get i).toNat % 2 ^ bits : Nat)
    zero := if kind = .and then (2 ^ bits - 1 : Nat) else 0
    op := fun st x y => (((if kind = .and then x.toNat &&& y.toNat else x.toNat ||| y.toNat) : Nat), st)
    out := fun st x => toDest fm dst sat (xword x.toNat, st.1, st.2.gen) st.2.mode
    read := fun w => (w.toNat % 2 ^ bits : Nat) }

/-- The combining function of an instruction of major 0x17, or ILLEGAL for its formats. -/
def combineOf (s : State) (kind : Red) (d : BitVec 5) (p : Pfx) (src : Source) : Eff Combine :=
  let fm := src.fmt
  let bitwise := kind = .and || kind = .or
  if bitwise then
    if fm = .bits then .ok (combineBits kind .bits .bits (8 * declWidth s) p.sat src)
    else if fm.isInt then do
      let dst ← destFormat s true d fm
      return combineBits kind fm dst (8 * fm.bytes) p.sat src
    else illegal s
  else if fm.isInt then do
    let dst ← destFormat s true d fm
    return combineInt kind fm dst p.sat src
  else if fm.isFloat then do
    let dst ← destFormat s true d fm
    return combineFloat kind fm dst src
  else illegal s

/-- The combination of some elements in the order of R69, masked-off ones entering as the identity; it starts with the
generator given. -/
def Combine.over (c : Combine) (s : State) (p : Pfx) (is : List Nat) (g : BitVec 32) : XWord × Flags × BitVec 32 :=
  let items := is.map (fun i => if predicate s p i then c.get i else c.zero)
  let (v, st) := treeOver c.op c.zero (0, { mode := modeOf s p, gen := g }) items
  c.out st v

/-- A reduction of each row (R193). -/
def reduction (i : Instr) (kind : Red) (d a : BitVec 5) (e qa : Bool) (s : State) : Result :=
  member i (fun p s => do
    let src ← source s qa a
    let c ← combineOf s kind d p src
    let t ← consume s [(qa, a)]
    let rs := rowSize s
    let o := (span 0 s.regs.vr).foldl (fun (o : Outs) r =>
      let n := r * rs
      let (v, fl, g) := c.over s p (span n s.regs.vl) (gen o.gens n)
      o.put p.ek n v fl g) (Outs.start s)
    return deliverTail t p true e d c.fmt (fun n => !(inShape s n && n % rs == 0)) o) s

/-- VREDSUM (R193). -/
def execVredsum (k : Bool) (d a : BitVec 5) (e qa : Bool) (s : State) : Result :=
  reduction (.vredsum k d a e qa) .sum d a e qa s

/-- VREDMAX (R193). -/
def execVredmax (k : Bool) (d a : BitVec 5) (e qa : Bool) (s : State) : Result :=
  reduction (.vredmax k d a e qa) .max d a e qa s

/-- VREDMIN (R193). -/
def execVredmin (k : Bool) (d a : BitVec 5) (e qa : Bool) (s : State) : Result :=
  reduction (.vredmin k d a e qa) .min d a e qa s

/-- VREDAND (R193). -/
def execVredand (k : Bool) (d a : BitVec 5) (e qa : Bool) (s : State) : Result :=
  reduction (.vredand k d a e qa) .and d a e qa s

/-- VREDOR (R193). -/
def execVredor (k : Bool) (d a : BitVec 5) (e qa : Bool) (s : State) : Result :=
  reduction (.vredor k d a e qa) .or d a e qa s

/-- A scan along each row, with its carry (R194). -/
def scan (i : Instr) (kind : Red) (d a b : BitVec 5) (e qa : Bool) (s : State) : Result :=
  member i (fun p s => do
    let src ← source s qa a
    let c ← combineOf s kind d p src
    let t ← consume s [(qa, a)]
    let first := if b = 0 then c.zero else c.read (s.x b)
    let row := fun (o : Outs) (r : Nat) =>
      (((span (r * rowSize s) s.regs.vl).filter (predicate s p)).foldl (fun (acc : Outs × Int) n =>
        let (v, st) := c.op (0, { mode := modeOf s p, gen := gen acc.1.gens n }) acc.2 (c.get n)
        let (x, fl, g) := c.out st v
        (acc.1.put p.ek n x fl g, v)) (o, first)).1
    return deliverElems t p true e d c.fmt ((span 0 s.regs.vr).foldl row (Outs.start s))) s

/-- VSCANSUM (R194). -/
def execVscansum (k : Bool) (d a b : BitVec 5) (e qa : Bool) (s : State) : Result :=
  scan (.vscansum k d a b e qa) .sum d a b e qa s

/-- VSCANMAX (R194). -/
def execVscanmax (k : Bool) (d a b : BitVec 5) (e qa : Bool) (s : State) : Result :=
  scan (.vscanmax k d a b e qa) .max d a b e qa s

/-- VSCANAND (R194). -/
def execVscanand (k : Bool) (d a b : BitVec 5) (e qa : Bool) (s : State) : Result :=
  scan (.vscanand k d a b e qa) .and d a b e qa s

/-- The segments of a row's indices under a boundary mask (R20): a set bit starts one, and so does the row. -/
def segments (m : Nat) : List Nat → List (List Nat)
  | [] => []
  | i :: is =>
    match segments m is with
    | [] => [[i]]
    | g :: gs => if inSet m (g.headD 0) then [i] :: g :: gs else (i :: g) :: gs

/-- A segmented reduction (R195).  A segment with no active element writes no result, so it rounds nothing. -/
def segmented (i : Instr) (kind : Red) (d a b : BitVec 5) (e qa : Bool) (s : State) : Result :=
  member i (fun p s => do
    let src ← source s qa a
    let c ← combineOf s kind d p src
    let t ← consume s [(qa, a)]
    let m := maskOf s b
    let segs := (span 0 s.regs.vr).flatMap (fun r => segments m (span (r * rowSize s) s.regs.vl))
    let o := segs.foldl (fun (o : Outs) is =>
      let act := is.filter (predicate s p)
      if act.isEmpty then o
      else
        let n := is.headD 0
        let (v, fl, g) := c.over s p is (gen o.gens n)
        let o := act.foldl (fun (o : Outs) j => o.put p.ek j v fl (gen o.gens j)) o
        { o with gens := setGen o.gens n g }) (Outs.start s)
    return deliverElems t p true e d c.fmt o) s

/-- VSEGSUM (R195). -/
def execVsegsum (k : Bool) (d a b : BitVec 5) (e qa : Bool) (s : State) : Result :=
  segmented (.vsegsum k d a b e qa) .sum d a b e qa s

/-- VSEGMAX (R195). -/
def execVsegmax (k : Bool) (d a b : BitVec 5) (e qa : Bool) (s : State) : Result :=
  segmented (.vsegmax k d a b e qa) .max d a b e qa s

end Machine
end Sys2Proof
end

