-- ==== Sys2Proof/Machine/Dispatch.lean ====
section
/-! DEFINITION. The one dispatch: each instruction and each event to its own meaning. -/

namespace Sys2Proof
namespace Machine

def exec (i : Instr) (s : State) : Host.Outcome State Fault Refusal :=
  match i with
  | .add d a b w => Sys2Proof.Machine.execAdd d a b w s
  | .sub d a b w => Sys2Proof.Machine.execSub d a b w s
  | .and d a b => Sys2Proof.Machine.execAnd d a b s
  | .or d a b => Sys2Proof.Machine.execOr d a b s
  | .xor d a b => Sys2Proof.Machine.execXor d a b s
  | .andn d a b => Sys2Proof.Machine.execAndn d a b s
  | .sll d a b w => Sys2Proof.Machine.execSll d a b w s
  | .srl d a b w => Sys2Proof.Machine.execSrl d a b w s
  | .sra d a b w => Sys2Proof.Machine.execSra d a b w s
  | .slt d a b => Sys2Proof.Machine.execSlt d a b s
  | .sltu d a b => Sys2Proof.Machine.execSltu d a b s
  | .min d a b => Sys2Proof.Machine.execMin d a b s
  | .max d a b => Sys2Proof.Machine.execMax d a b s
  | .minu d a b => Sys2Proof.Machine.execMinu d a b s
  | .maxu d a b => Sys2Proof.Machine.execMaxu d a b s
  | .mul d a b w => Sys2Proof.Machine.execMul d a b w s
  | .mulh d a b => Sys2Proof.Machine.execMulh d a b s
  | .mulhu d a b => Sys2Proof.Machine.execMulhu d a b s
  | .div d a b w => Sys2Proof.Machine.execDiv d a b w s
  | .divu d a b w => Sys2Proof.Machine.execDivu d a b w s
  | .rem d a b w => Sys2Proof.Machine.execRem d a b w s
  | .remu d a b w => Sys2Proof.Machine.execRemu d a b w s
  | .clz d a w => Sys2Proof.Machine.execClz d a w s
  | .popc d a w => Sys2Proof.Machine.execPopc d a w s
  | .addi d a imm => Sys2Proof.Machine.execAddi d a imm s
  | .andi d a imm => Sys2Proof.Machine.execAndi d a imm s
  | .ori d a imm => Sys2Proof.Machine.execOri d a imm s
  | .xori d a imm => Sys2Proof.Machine.execXori d a imm s
  | .slti d a imm => Sys2Proof.Machine.execSlti d a imm s
  | .slli d a sh => Sys2Proof.Machine.execSlli d a sh s
  | .srli d a sh => Sys2Proof.Machine.execSrli d a sh s
  | .srai d a sh => Sys2Proof.Machine.execSrai d a sh s
  | .lui d imm => Sys2Proof.Machine.execLui d imm s
  | .auipc d imm => Sys2Proof.Machine.execAuipc d imm s
  | .ldB d a imm => Sys2Proof.Machine.execLdB d a imm s
  | .ldH d a imm => Sys2Proof.Machine.execLdH d a imm s
  | .ldW d a imm => Sys2Proof.Machine.execLdW d a imm s
  | .ldD d a imm => Sys2Proof.Machine.execLdD d a imm s
  | .ldBu d a imm => Sys2Proof.Machine.execLdBu d a imm s
  | .ldHu d a imm => Sys2Proof.Machine.execLdHu d a imm s
  | .ldWu d a imm => Sys2Proof.Machine.execLdWu d a imm s
  | .stB b a imm => Sys2Proof.Machine.execStB b a imm s
  | .stH b a imm => Sys2Proof.Machine.execStH b a imm s
  | .stW b a imm => Sys2Proof.Machine.execStW b a imm s
  | .stD b a imm => Sys2Proof.Machine.execStD b a imm s
  | .beq a b imm => Sys2Proof.Machine.execBeq a b imm s
  | .bne a b imm => Sys2Proof.Machine.execBne a b imm s
  | .blt a b imm => Sys2Proof.Machine.execBlt a b imm s
  | .bge a b imm => Sys2Proof.Machine.execBge a b imm s
  | .bltu a b imm => Sys2Proof.Machine.execBltu a b imm s
  | .bgeu a b imm => Sys2Proof.Machine.execBgeu a b imm s
  | .jal d imm => Sys2Proof.Machine.execJal d imm s
  | .jalr d a imm => Sys2Proof.Machine.execJalr d a imm s
  | .fadd d a b f rm => Sys2Proof.Machine.execFadd d a b f rm s
  | .fsub d a b f rm => Sys2Proof.Machine.execFsub d a b f rm s
  | .fmul d a b f rm => Sys2Proof.Machine.execFmul d a b f rm s
  | .fdiv d a b f rm => Sys2Proof.Machine.execFdiv d a b f rm s
  | .fsqrt d a f rm => Sys2Proof.Machine.execFsqrt d a f rm s
  | .fmin d a b f => Sys2Proof.Machine.execFmin d a b f s
  | .fmax d a b f => Sys2Proof.Machine.execFmax d a b f s
  | .fma d a b f rm => Sys2Proof.Machine.execFma d a b f rm s
  | .feq d a b f => Sys2Proof.Machine.execFeq d a b f s
  | .flt d a b f => Sys2Proof.Machine.execFlt d a b f s
  | .fle d a b f => Sys2Proof.Machine.execFle d a b f s
  | .fclass d a f => Sys2Proof.Machine.execFclass d a f s
  | .fcvtI d a kind f rm => Sys2Proof.Machine.execFcvtI d a kind f rm s
  | .fcvtF d a kind f rm => Sys2Proof.Machine.execFcvtF d a kind f rm s
  | .fcvt d a kind f rm => Sys2Proof.Machine.execFcvt d a kind f rm s
  | .fsgnj d a b f => Sys2Proof.Machine.execFsgnj d a b f s
  | .ldAcq d a sh w => Sys2Proof.Machine.execLdAcq d a sh w s
  | .stRel a b sh w => Sys2Proof.Machine.execStRel a b sh w s
  | .amoAdd d a b sh w => Sys2Proof.Machine.execAmoAdd d a b sh w s
  | .amoAnd d a b sh w => Sys2Proof.Machine.execAmoAnd d a b sh w s
  | .amoOr d a b sh w => Sys2Proof.Machine.execAmoOr d a b sh w s
  | .amoXor d a b sh w => Sys2Proof.Machine.execAmoXor d a b sh w s
  | .amoMin d a b sh w => Sys2Proof.Machine.execAmoMin d a b sh w s
  | .amoMax d a b sh w => Sys2Proof.Machine.execAmoMax d a b sh w s
  | .amoMinu d a b sh w => Sys2Proof.Machine.execAmoMinu d a b sh w s
  | .amoMaxu d a b sh w => Sys2Proof.Machine.execAmoMaxu d a b sh w s
  | .amoSwap d a b sh w => Sys2Proof.Machine.execAmoSwap d a b sh w s
  | .amoCas d a b sh w => Sys2Proof.Machine.execAmoCas d a b sh w s
  | .amoFmax d a b sh => Sys2Proof.Machine.execAmoFmax d a b sh s
  | .fence sh => Sys2Proof.Machine.execFence sh s
  | .scommit => Sys2Proof.Machine.execScommit s
  | .bar d a sh => Sys2Proof.Machine.execBar d a sh s
  | .bararr d a sh => Sys2Proof.Machine.execBararr d a sh s
  | .barwait a b sh => Sys2Proof.Machine.execBarwait a b sh s
  | .claim d a b sh => Sys2Proof.Machine.execClaim d a b sh s
  | .waitt d a => Sys2Proof.Machine.execWaitt d a s
  | .sendt a b => Sys2Proof.Machine.execSendt a b s
  | .recvchk d a => Sys2Proof.Machine.execRecvchk d a s
  | .waitaddr d a b sh => Sys2Proof.Machine.execWaitaddr d a b sh s
  | .yield => Sys2Proof.Machine.execYield s
  | .launch d a => Sys2Proof.Machine.execLaunch d a s
  | .xinv a b sh => Sys2Proof.Machine.execXinv a b sh s
  | .csrr d c => Sys2Proof.Machine.execCsrr d c s
  | .csrw d a c => Sys2Proof.Machine.execCsrw d a c s
  | .csrs d a c => Sys2Proof.Machine.execCsrs d a c s
  | .csrc d a c => Sys2Proof.Machine.execCsrc d a c s
  | .trap a imm => Sys2Proof.Machine.execTrap a imm s
  | .tret => Sys2Proof.Machine.execTret s
  | .vsave d a => Sys2Proof.Machine.execVsave d a s
  | .vrestore d a => Sys2Proof.Machine.execVrestore d a s
  | .scrub d a => Sys2Proof.Machine.execScrub d a s
  | .ctxkill d a => Sys2Proof.Machine.execCtxkill d a s
  | .setown d a => Sys2Proof.Machine.execSetown d a s
  | .vdecl d a => Sys2Proof.Machine.execVdecl d a s
  | .setvl d a b => Sys2Proof.Machine.execSetvl d a b s
  | .vtag d t b => Sys2Proof.Machine.execVtag d t b s
  | .vshape t g => Sys2Proof.Machine.execVshape t g s
  | .vmv k d a e qa => Sys2Proof.Machine.execVmv k d a e qa s
  | .vbcast k d a e => Sys2Proof.Machine.execVbcast k d a e s
  | .vid k d e => Sys2Proof.Machine.execVid k d e s
  | .vidr k d e => Sys2Proof.Machine.execVidr k d e s
  | .vxtract k d a b qa => Sys2Proof.Machine.execVxtract k d a b qa s
  | .vinsert k d a b => Sys2Proof.Machine.execVinsert k d a b s
  | .vadd k d a b w e qa qb => Sys2Proof.Machine.execVadd k d a b w e qa qb s
  | .vsub k d a b w e qa qb => Sys2Proof.Machine.execVsub k d a b w e qa qb s
  | .vmul k d a b w e qa qb => Sys2Proof.Machine.execVmul k d a b w e qa qb s
  | .vmulh k d a b w e qa qb => Sys2Proof.Machine.execVmulh k d a b w e qa qb s
  | .vmin k d a b w e qa qb => Sys2Proof.Machine.execVmin k d a b w e qa qb s
  | .vmax k d a b w e qa qb => Sys2Proof.Machine.execVmax k d a b w e qa qb s
  | .vand k d a b w e qa qb => Sys2Proof.Machine.execVand k d a b w e qa qb s
  | .vor k d a b w e qa qb => Sys2Proof.Machine.execVor k d a b w e qa qb s
  | .vxor k d a b w e qa qb => Sys2Proof.Machine.execVxor k d a b w e qa qb s
  | .vsll k d a b w e qa qb => Sys2Proof.Machine.execVsll k d a b w e qa qb s
  | .vsrl k d a b w e qa qb => Sys2Proof.Machine.execVsrl k d a b w e qa qb s
  | .vsra k d a b w e qa qb => Sys2Proof.Machine.execVsra k d a b w e qa qb s
  | .vabs k d a w e qa => Sys2Proof.Machine.execVabs k d a w e qa s
  | .vwmac k d a b e qa qb => Sys2Proof.Machine.execVwmac k d a b e qa qb s
  | .vdiv k d a b w e qa qb => Sys2Proof.Machine.execVdiv k d a b w e qa qb s
  | .vrem k d a b w e qa qb => Sys2Proof.Machine.execVrem k d a b w e qa qb s
  | .vcmpeq k d a b e qa qb => Sys2Proof.Machine.execVcmpeq k d a b e qa qb s
  | .vcmplt k d a b e qa qb => Sys2Proof.Machine.execVcmplt k d a b e qa qb s
  | .vcmple k d a b e qa qb => Sys2Proof.Machine.execVcmple k d a b e qa qb s
  | .vsel k d a b w e qa qb => Sys2Proof.Machine.execVsel k d a b w e qa qb s
  | .vfadd k d a b w e qa qb => Sys2Proof.Machine.execVfadd k d a b w e qa qb s
  | .vfsub k d a b w e qa qb => Sys2Proof.Machine.execVfsub k d a b w e qa qb s
  | .vfmul k d a b w e qa qb => Sys2Proof.Machine.execVfmul k d a b w e qa qb s
  | .vfaddX k d a b e qa qb => Sys2Proof.Machine.execVfaddX k d a b e qa qb s
  | .vfsubX k d a b e qa qb => Sys2Proof.Machine.execVfsubX k d a b e qa qb s
  | .vfmulX k d a b e qa qb => Sys2Proof.Machine.execVfmulX k d a b e qa qb s
  | .vfma k d a b e qa qb => Sys2Proof.Machine.execVfma k d a b e qa qb s
  | .vfdiv k d a b w e qa qb => Sys2Proof.Machine.execVfdiv k d a b w e qa qb s
  | .vfsqrt k d a w e qa => Sys2Proof.Machine.execVfsqrt k d a w e qa s
  | .vfrcp k d a w e qa => Sys2Proof.Machine.execVfrcp k d a w e qa s
  | .vfexp2 k d a w e qa => Sys2Proof.Machine.execVfexp2 k d a w e qa s
  | .vflog2 k d a w e qa => Sys2Proof.Machine.execVflog2 k d a w e qa s
  | .vfmin k d a b w e qa qb => Sys2Proof.Machine.execVfmin k d a b w e qa qb s
  | .vfmax k d a b w e qa qb => Sys2Proof.Machine.execVfmax k d a b w e qa qb s
  | .vfcmpeq k d a b e qa qb => Sys2Proof.Machine.execVfcmpeq k d a b e qa qb s
  | .vfcmplt k d a b e qa qb => Sys2Proof.Machine.execVfcmplt k d a b e qa qb s
  | .vfcmple k d a b e qa qb => Sys2Proof.Machine.execVfcmple k d a b e qa qb s
  | .vfclass k d a w e qa => Sys2Proof.Machine.execVfclass k d a w e qa s
  | .vdwadd k d a b e => Sys2Proof.Machine.execVdwadd k d a b e s
  | .vdwmul k d a b e => Sys2Proof.Machine.execVdwmul k d a b e s
  | .vdwnorm k d a e => Sys2Proof.Machine.execVdwnorm k d a e s
  | .vredsumX k d a e => Sys2Proof.Machine.execVredsumX k d a e s
  | .vcvt k d a e qa => Sys2Proof.Machine.execVcvt k d a e qa s
  | .vscale k d a f e qa => Sys2Proof.Machine.execVscale k d a f e qa s
  | .vquant k d a b e qa qb => Sys2Proof.Machine.execVquant k d a b e qa qb s
  | .vdeq k d a b e qa qb => Sys2Proof.Machine.execVdeq k d a b e qa qb s
  | .vld k d a sp o qa => Sys2Proof.Machine.execVld k d a sp o qa s
  | .vlds k d a b sp o qa => Sys2Proof.Machine.execVlds k d a b sp o qa s
  | .vldx k d a b sp o qa => Sys2Proof.Machine.execVldx k d a b sp o qa s
  | .vldb k d a b sp o qa => Sys2Proof.Machine.execVldb k d a b sp o qa s
  | .vst k d a sp o => Sys2Proof.Machine.execVst k d a sp o s
  | .vsts k d a b sp o => Sys2Proof.Machine.execVsts k d a b sp o s
  | .vstx k d a b sp o => Sys2Proof.Machine.execVstx k d a b sp o s
  | .vstt d a b => Sys2Proof.Machine.execVstt d a b s
  | .vgather k d a b e qb => Sys2Proof.Machine.execVgather k d a b e qb s
  | .vslideup k d a b w e qa => Sys2Proof.Machine.execVslideup k d a b w e qa s
  | .vslidedn k d a b w e qa => Sys2Proof.Machine.execVslidedn k d a b w e qa s
  | .vcompress k d a b e qa => Sys2Proof.Machine.execVcompress k d a b e qa s
  | .vexpand k d a b e qa => Sys2Proof.Machine.execVexpand k d a b e qa s
  | .vrev k d a w e qa => Sys2Proof.Machine.execVrev k d a w e qa s
  | .vmand k d a b => Sys2Proof.Machine.execVmand k d a b s
  | .vmor k d a b => Sys2Proof.Machine.execVmor k d a b s
  | .vmxor k d a b => Sys2Proof.Machine.execVmxor k d a b s
  | .vmnot k d a => Sys2Proof.Machine.execVmnot k d a s
  | .vmpop k d a => Sys2Proof.Machine.execVmpop k d a s
  | .vmffs k d a => Sys2Proof.Machine.execVmffs k d a s
  | .vmset k d a => Sys2Proof.Machine.execVmset k d a s
  | .vmffsr k d a => Sys2Proof.Machine.execVmffsr k d a s
  | .vredsum k d a e qa => Sys2Proof.Machine.execVredsum k d a e qa s
  | .vredmax k d a e qa => Sys2Proof.Machine.execVredmax k d a e qa s
  | .vredmin k d a e qa => Sys2Proof.Machine.execVredmin k d a e qa s
  | .vredand k d a e qa => Sys2Proof.Machine.execVredand k d a e qa s
  | .vredor k d a e qa => Sys2Proof.Machine.execVredor k d a e qa s
  | .vscansum k d a b e qa => Sys2Proof.Machine.execVscansum k d a b e qa s
  | .vscanmax k d a b e qa => Sys2Proof.Machine.execVscanmax k d a b e qa s
  | .vscanand k d a b e qa => Sys2Proof.Machine.execVscanand k d a b e qa s
  | .vsegsum k d a b e qa => Sys2Proof.Machine.execVsegsum k d a b e qa s
  | .vsegmax k d a b e qa => Sys2Proof.Machine.execVsegmax k d a b e qa s
  | .tagw d a b => Sys2Proof.Machine.execTagw d a b s
  | .tagr d a => Sys2Proof.Machine.execTagr d a s
  | .tmatch d a => Sys2Proof.Machine.execTmatch d a s
  | .toprSet d a b y => Sys2Proof.Machine.execToprSet d a b y s
  | .toprAdd d a b y => Sys2Proof.Machine.execToprAdd d a b y s
  | .toprMuls d a b y => Sys2Proof.Machine.execToprMuls d a b y s
  | .toprClr d a => Sys2Proof.Machine.execToprClr d a s
  | .toprRetag d a b => Sys2Proof.Machine.execToprRetag d a b s
  | .mzero d => Sys2Proof.Machine.execMzero d s
  | .mop d a b => Sys2Proof.Machine.execMop d a b s
  | .mldw d a b => Sys2Proof.Machine.execMldw d a b s
  | .mkeep d a b => Sys2Proof.Machine.execMkeep d a b s
  | .mdrain d a b => Sys2Proof.Machine.execMdrain d a b s
  | .mtov d a b => Sys2Proof.Machine.execMtov d a b s
  | .mfromv d a b => Sys2Proof.Machine.execMfromv d a b s
  | .mwait => Sys2Proof.Machine.execMwait s
  | .dcopy d a b c => Sys2Proof.Machine.execDcopy d a b c s
  | .dcopy2d d a => Sys2Proof.Machine.execDcopy2d d a s
  | .dfill d a b c => Sys2Proof.Machine.execDfill d a b c s
  | .tkwait d a sh => Sys2Proof.Machine.execTkwait d a sh s
  | .tktest d a sh => Sys2Proof.Machine.execTktest d a sh s
  | .ddeal d a => Sys2Proof.Machine.execDdeal d a s
  | .cmv d a b c => Sys2Proof.Machine.execCmv d a b c s
  | .cwrite d a b => Sys2Proof.Machine.execCwrite d a b s
  | .ccommit d a => Sys2Proof.Machine.execCcommit d a s
  | .cstat d a => Sys2Proof.Machine.execCstat d a s
  | .ccal d a => Sys2Proof.Machine.execCcal d a s
  | .binst d a b c => Sys2Proof.Machine.execBinst d a b c s
  | .bmsg d a b c => Sys2Proof.Machine.execBmsg d a b c s
  | .bstat d a => Sys2Proof.Machine.execBstat d a s
  | .vscore k d a b w => Sys2Proof.Machine.execVscore k d a b w s
  | .vexpm k d b w => Sys2Proof.Machine.execVexpm k d b w s
  | .vaccv k d b => Sys2Proof.Machine.execVaccv k d b s
  | .vsoftfin k d a b qa => Sys2Proof.Machine.execVsoftfin k d a b qa s
  | .vtreem k d a => Sys2Proof.Machine.execVtreem k d a s
  | .vaccept k d a => Sys2Proof.Machine.execVaccept k d a s
  | .vcommitm k d a b qa => Sys2Proof.Machine.execVcommitm k d a b qa s
  | .vmaxi k d a b => Sys2Proof.Machine.execVmaxi k d a b s
  | .pdlook d a b c => Sys2Proof.Machine.execPdlook d a b c s
  | .pdins d a b c => Sys2Proof.Machine.execPdins d a b c s
  | .pdref d a => Sys2Proof.Machine.execPdref d a s
  | .pdunref d a => Sys2Proof.Machine.execPdunref d a s
  | .pdstat d a => Sys2Proof.Machine.execPdstat d a s
  | .pfx pm pn em ek dc dce rm sat => Sys2Proof.Machine.execPfx pm pn em ek dc dce rm sat s
  | .bHalt => Sys2Proof.Machine.execBHalt s
  | .bLi d imm => Sys2Proof.Machine.execBLi d imm s
  | .bAdd d a b imm => Sys2Proof.Machine.execBAdd d a b imm s
  | .bSub d a b => Sys2Proof.Machine.execBSub d a b s
  | .bAnd d a b => Sys2Proof.Machine.execBAnd d a b s
  | .bShl d a imm => Sys2Proof.Machine.execBShl d a imm s
  | .bShr d a imm => Sys2Proof.Machine.execBShr d a imm s
  | .bBnz a imm => Sys2Proof.Machine.execBBnz a imm s
  | .bBz a imm => Sys2Proof.Machine.execBBz a imm s
  | .bLdq d a imm => Sys2Proof.Machine.execBLdq d a imm s
  | .bStq a b imm => Sys2Proof.Machine.execBStq a b imm s
  | .bMode imm => Sys2Proof.Machine.execBMode imm s
  | .bAct a => Sys2Proof.Machine.execBAct a s
  | .bPre => Sys2Proof.Machine.execBPre s
  | .bXld a imm => Sys2Proof.Machine.execBXld a imm s
  | .bMac a b => Sys2Proof.Machine.execBMac a b s
  | .bAclr => Sys2Proof.Machine.execBAclr s
  | .bAclrEntry b => Sys2Proof.Machine.execBAclrEntry b s
  | .bArd a b => Sys2Proof.Machine.execBArd a b s
  | .bRout a imm => Sys2Proof.Machine.execBRout a imm s
  | .deviceReset => Sys2Proof.Machine.execDeviceReset s
  | .bootStage img readable passes => Sys2Proof.Machine.execBootStage img readable passes s
  | .coreCycle => Sys2Proof.Machine.execCoreCycle s
  | .laneHoldExpiry h => Sys2Proof.Machine.execLaneHoldExpiry h s
  | .laneGrant core => Sys2Proof.Machine.execLaneGrant core s
  | .budget => Sys2Proof.Machine.execBudget s
  | .launchWaitExpiry ctx => Sys2Proof.Machine.execLaunchWaitExpiry ctx s
  | .gangPlacement ctx places => Sys2Proof.Machine.execGangPlacement ctx places s
  | .memberExit h => Sys2Proof.Machine.execMemberExit h s
  | .barrierComplete gang bar => Sys2Proof.Machine.execBarrierComplete gang bar s
  | .waittInstant h => Sys2Proof.Machine.execWaittInstant h s
  | .waitaddrWake h => Sys2Proof.Machine.execWaitaddrWake h s
  | .sendtArrival imm => Sys2Proof.Machine.execSendtArrival imm s
  | .matrixExecute h => Sys2Proof.Machine.execMatrixExecute h s
  | .copyComplete cmd => Sys2Proof.Machine.execCopyComplete cmd s
  | .dealPassage cmd => Sys2Proof.Machine.execDealPassage cmd s
  | .cwriteComplete cmd => Sys2Proof.Machine.execCwriteComplete cmd s
  | .versionSwitch cmd => Sys2Proof.Machine.execVersionSwitch cmd s
  | .arrayPass cmd tile plumbOk => Sys2Proof.Machine.execArrayPass cmd tile plumbOk s
  | .cmvComplete cmd => Sys2Proof.Machine.execCmvComplete cmd s
  | .recalibration ctx handle tile => Sys2Proof.Machine.execRecalibration ctx handle tile s
  | .rotationSwitch ctx handle => Sys2Proof.Machine.execRotationSwitch ctx handle s
  | .handlerStart chan => Sys2Proof.Machine.execHandlerStart chan s
  | .modeSwitchDone chan => Sys2Proof.Machine.execModeSwitchDone chan s
  | .kittyService stack normalCost => Sys2Proof.Machine.execKittyService stack normalCost s
  | .patrol code target at_ => Sys2Proof.Machine.execPatrol code target at_ s
  | .faultHoldRelease ctx page => Sys2Proof.Machine.execFaultHoldRelease ctx page s
  | .coreSwitch core ctx => Sys2Proof.Machine.execCoreSwitch core ctx s
  | .localStoreSave core => Sys2Proof.Machine.execLocalStoreSave core s
  | .killScrub ctx bad => Sys2Proof.Machine.execKillScrub ctx bad s
  | .releaseScrub ctx bad => Sys2Proof.Machine.execReleaseScrub ctx bad s
  | .errorEntryDone ctx => Sys2Proof.Machine.execErrorEntryDone ctx s
  | .linkDown link => Sys2Proof.Machine.execLinkDown link s
  | .linkRetrained link => Sys2Proof.Machine.execLinkRetrained link s
  | .peerPortFail port => Sys2Proof.Machine.execPeerPortFail port s
  | .hostLinkFail => Sys2Proof.Machine.execHostLinkFail s
  | .hostLinkReset => Sys2Proof.Machine.execHostLinkReset s
  | .ideIntegrityFailure ctx => Sys2Proof.Machine.execIdeIntegrityFailure ctx s
  | .tdispViolation ctx => Sys2Proof.Machine.execTdispViolation ctx s
  | .flr ctx => Sys2Proof.Machine.execFlr ctx s
  | .lockInterface ctx => Sys2Proof.Machine.execLockInterface ctx s
  | .startInterface ctx => Sys2Proof.Machine.execStartInterface ctx s
  | .stopInterface ctx => Sys2Proof.Machine.execStopInterface ctx s
  | .getDeviceInterfaceReport ctx => Sys2Proof.Machine.execGetDeviceInterfaceReport ctx s
  | .getDeviceInterfaceState ctx => Sys2Proof.Machine.execGetDeviceInterfaceState ctx s
  | .getVersion => Sys2Proof.Machine.execGetVersion s
  | .getCapabilities => Sys2Proof.Machine.execGetCapabilities s
  | .negotiateAlgorithms asym hash => Sys2Proof.Machine.execNegotiateAlgorithms asym hash s
  | .getDigests => Sys2Proof.Machine.execGetDigests s
  | .getCertificate => Sys2Proof.Machine.execGetCertificate s
  | .challenge nonce => Sys2Proof.Machine.execChallenge nonce s
  | .getMeasurements signed nonce => Sys2Proof.Machine.execGetMeasurements signed nonce s
  | .keyExchange data => Sys2Proof.Machine.execKeyExchange data s
  | .finish data => Sys2Proof.Machine.execFinish data s
  | .ideKm fn key => Sys2Proof.Machine.execIdeKm fn key s
  | .d3cold => Sys2Proof.Machine.execD3cold s
  | .d3hotRequest => Sys2Proof.Machine.execD3hotRequest s
  | .start ctx hseq => Sys2Proof.Machine.execStart ctx hseq s
  | .grant mseq => Sys2Proof.Machine.execGrant mseq s
  | .exportAudit mseq => Sys2Proof.Machine.execExportAudit mseq s
  | .auditack v => Sys2Proof.Machine.execAuditack v s
  | .powerLimit v => Sys2Proof.Machine.execPowerLimit v s
  | .powerWindow watts => Sys2Proof.Machine.execPowerWindow watts s
  | .registerWrite fn off v => Sys2Proof.Machine.execRegisterWrite fn off v s
  | .hostOrPeerWrite peer pa data => Sys2Proof.Machine.execHostOrPeerWrite peer pa data s
  | .cxlMemRead pa n => Sys2Proof.Machine.execCxlMemRead pa n s
  | .snoopInvalidate pa data => Sys2Proof.Machine.execSnoopInvalidate pa data s
  | .illegal word => Sys2Proof.Machine.execIllegal word s
  | .handlerInstall chan => Sys2Proof.Machine.execHandlerInstall chan s
  | .peerRead pa n => Sys2Proof.Machine.execPeerRead pa n s
  | .unknownOp mseq => Sys2Proof.Machine.execUnknownOp mseq s

end Machine
end Sys2Proof
end

