-- ==== Sys2Proof/Machine/Turns.lean ====
section
/-! DEFINITION. What one turn does: a hart fetches a convoy, checks it as a whole and executes its members (R34 to R37, R100, R108
to R118, R332, R368, R388, R390); a bank sequencer executes its next word (R294, R295); an agent of the device acts. -/

namespace Sys2Proof
namespace Machine

/-! ### A convoy gathered (R100, R134, R390) -/

/-- A member of a convoy: its word and address, the instruction, whether the word breaks its convoy wherever it stands, and
its prefix. -/
structure Member where
  addr : XWord
  word : Word
  instr : Instr
  breaks : Bool
  pfx : Pfx
deriving DecidableEq, Repr

/-- What the words from the PC on come to: the instructions to execute, prefixes included, and the members; an ILLEGAL word with
its position; or the stop that fetch met. -/
structure Gathered where
  s : State
  words : List Instr
  members : List Member
  illegal : Option (XWord × Nat)
  stop : Option Stop

/-- Whether Table 5.6 lists a major opcode. -/
def pfxMajor (m : Nat) : Bool := (decide (0x10 ≤ m) && decide (m ≤ 0x17)) || m == 0x1D || m == 0x1E

/-- Whether a prefix is at fault before a word that is itself no instruction (R109, R111): the prefix comes first. -/
def pfxRefused (s : State) (p : Pfx) (w : Word) : Bool :=
  match rawDecode w with
  | none => !pfxMajor (fld w 26 6).toNat
  | some i => match vecUse (groupFactor s.regs) i with
    | none => true
    | some u => pfxBad u p

/-- The first ILLEGAL of a member, with its prefix (R108, R111). -/
def memberIllegal (s : State) (i : Instr) (a : XWord) (p : Pfx) : Option XWord :=
  if p.present && (vecUse (groupFactor s.regs) i).isNone then some p.at_
  else ((memberCauses s i a p).find? (fun c => c.1 == 1)).map (fun c => c.2.tv)

/-- The convoy at the PC, word by word: `p` is the prefix that stands before the word at `a`, or the latched one (R116). -/
def gatherConvoy : Nat → XWord → Pfx → Gathered → Gathered
  | 0, _, _, g => g
  | fuel + 1, a, p, g =>
    match fetchWord g.s a with
    | .error e => { g with stop := some e }
    | .ok (w, s) =>
      let g := { g with s := s }
      let n := g.members.length
      match decodeMember w with
      | .error _ => { g with illegal := some (if p.present && pfxRefused s p w then p.at_ else a, n) }
      | .ok (i, breaks) =>
        if i.isPfx then
          if p.present then { g with illegal := some (p.at_, n) }
          else gatherConvoy fuel (a + 4) (.ofFields (fld w 0 25) a) { g with words := g.words ++ [i] }
        else
          match memberIllegal s i a p with
          | some tv => { g with illegal := some (tv, n) }
          | none =>
            let g := { g with
              words := g.words ++ [i]
              members := g.members ++ [{ addr := a, word := w, instr := i, breaks := breaks, pfx := p }] }
            if i.kbit && decide (n < 4) then gatherConvoy fuel (a + 4) .absent g else g

/-- The convoy at the executing hart's PC: at most five words are examined as members, each with one prefix.  That decode reads
no further when the fifth has K = 1 is a DESIGN CHOICE, log entry 9. -/
def convoyAt (s : State) : Gathered :=
  let p := if s.regs.pfxValid then Pfx.ofFields s.regs.pfxFields s.regs.pc else .absent
  gatherConvoy 10 s.regs.pc p { s := s, words := [], members := [], illegal := none, stop := none }

/-! ### Composition (R34, R35, R332) -/

/-- The unit class of a member; none for an instruction that forms a convoy of one. -/
def unitOf (i : Instr) : Option VUnit := if i.joins then (vecUse 1 i).map (fun u => u.unit) else none

/-- Whether a word of format V names `cv` (R104). -/
def namesCv (w : Word) : Bool :=
  let m := (fld w 26 6).toNat
  pfxMajor m && m != 0x14 && m != 0x15
    && ((bit w 7 && (fld w 15 5).toNat == 4) || (bit w 6 && (fld w 10 5).toNat == 4))

/-- Whether an instruction may stand directly after VSCORE, and after VEXPM (R332). -/
def isVexpm : Instr → Bool
  | .vexpm .. => true
  | _ => false

def isVaccv : Instr → Bool
  | .vaccv .. => true
  | _ => false

def isVscore : Instr → Bool
  | .vscore .. => true
  | _ => false

/-- Whether the member `m` of a convoy breaks R332; `before` is the members before it, the last first, and `more` says that words
of the convoy after `after` could not be fetched (R109, R390).  It is the VSCORE or VEXPM that lacks its successor, and the member
after a VACCV, that breaks it (DESIGN CHOICE, log entry 10). -/
def breaksChain (more : Bool) (before : List Instr) (m : Instr) (after : List Instr) : Bool :=
  match m with
  | .vscore _ _ _ _ w => match after with
    | [] => !w && !more
    | n :: _ => !isVexpm n
  | .vexpm _ _ _ w => (match before with | n :: _ => !isVscore n | [] => true) || (match after with
    | [] => !w && !more
    | n :: _ => !isVaccv n)
  | .vaccv _ d b => match before with
    | .vexpm _ _ b' _ :: .vscore _ _ _ b'' _ :: _ => b' != d || b'' != b
    | _ => true
  | i =>
    (match before with | n :: _ => isVaccv n | [] => false)
      || (unitOf i != some .load && after.any isVscore)

/-- Whether the member at the end of `before` (last first) breaks the composition of its convoy. -/
def breaksConvoy (more : Bool) (before : List Member) (m : Member) (after : List Member) : Bool :=
  m.breaks
    || (match after with | n :: _ => !n.instr.joins | [] => false)
    || decide (4 ≤ before.length)
    || ((unitOf m.instr).isSome && before.any (fun x => unitOf x.instr == unitOf m.instr))
    || (before.isEmpty && namesCv m.word)
    || breaksChain more (before.map (fun x => x.instr)) m.instr (after.map (fun x => x.instr))

/-- The position and address of the lowest word that breaks the composition. -/
def composition (more : Bool) (before : List Member) : List Member → Option (XWord × Nat)
  | [] => none
  | m :: ms => if breaksConvoy more before m ms then some (m.addr, before.length) else composition more (m :: before) ms

/-! ### The other decode causes, and VOWN -/

/-- The first cause of an order of Table 5.5 among the members, with its position. -/
def causeOf (s : State) (order : Nat) (ms : List Member) : Option (Trap × Nat) :=
  (ms.zipIdx.filterMap (fun m =>
    ((memberCauses s m.1.instr m.1.addr m.1.pfx).find? (fun c => c.1 == order)).map (fun c => (c.2, m.2)))).head?

/-- Owner-checked instructions (R368). -/
def ownerChecked : Instr → Bool
  | .vdecl .. => true
  | .setvl .. => true
  | .vtag .. => true
  | .vshape .. => true
  | .vstt .. => true
  | .claim .. => true
  | .mop .. => true
  | .mtov .. => true
  | .mfromv .. => true
  | i => i.joins

/-- Whether the executing hart's context owns its core's vector register file (R368). -/
def ownsFile (s : State) : Bool := s.hart.steward || (s.core.owned && s.core.owner.toNat == s.hart.ctx)

/-- What keeps a gathered convoy from executing, in the order of R390 and Table 5.5.  Where the fetch of a word has to wait, nothing
is said of the convoy yet: the word may be the one at fault. -/
def convoyStop (g : Gathered) : Option (Stop × Nat) :=
  match g.illegal, g.stop with
  | some (tv, n), _ => some (.trap { code := cILLEGAL, tv := tv }, n)
  | none, some (.wait w) => some (.wait w, g.members.length)
  | none, _ =>
    match composition g.stop.isSome [] g.members with
    | some (tv, n) => some (.trap { code := cCONVOY, tv := tv }, n)
    | none =>
      match causeOf g.s 3 g.members with
      | some (t, n) => some (.trap t, n)
      | none =>
        if !ownsFile g.s && g.members.any (fun m => ownerChecked m.instr) then some (.wait .vown, 0)
        else
          match causeOf g.s 4 g.members with
          | some (t, n) => some (.trap t, n)
          | none =>
            match causeOf g.s 5 g.members with
            | some (t, n) => some (.trap t, n)
            | none => g.stop.map (fun e => (e, g.members.length))

/-! ### A hart's turn -/

/-- The members of a convoy executed one after another; one that meets a cause or waits ends the turn (R36, R37). -/
def runMembers : List Instr → State → Result
  | [], s => .next s
  | i :: is, s =>
    match exec i s with
    | .next t => if t.hart.undo.isSome then runMembers is t else .next t
    | o => o

/-- The executing hart's next convoy. -/
def convoyTurn (s : State) : Result :=
  let g := convoyAt s
  match convoyStop g with
  | none => runMembers g.words g.s
  | some (e, n) =>
    let t := g.s.setRegs { g.s.regs with member := n }
    let t := if e = .wait .vown then { t with dev := { t.dev with vownRaised := t.cur :: t.dev.vownRaised } } else t
    stopped t e

/-- Waits that end by executing the convoy again. -/
def waitRetries : Wait → Bool
  | .arrive => true
  | .ticket => true
  | .matrix => true
  | .line => true
  | .bankMode _ _ => true
  | .receiver => true
  | .link => true
  | _ => false

/-- Whether a hart may execute: it runs, and its core serves its context and is not retired (R365, R434). -/
def mayExecute (s : State) : Bool :=
  s.hart.live == .running
    && (if s.hart.steward then stewardKey s.cur else (s.core.serves == some s.hart.ctx && s.core.moving.isNone && !s.core.retired))

/-- Hart k executes its next convoy, or takes the BUDGET that is due before it (R340, R390).  A turn that has come too late, for a
hart that no longer executes or that waits, or before the hart's turn at its bank (R290), does nothing. -/
def hartTurn (k : Nat) (s : State) : Result :=
  let t := s.focus k
  if !mayExecute t then .next s
  else
    match t.hart.wait with
    | some (.bankMode p since) => if bankTurnOf t k p since then convoyTurn (t.setHart { t.hart with wait := none }) else .next s
    | some w => if waitRetries w then convoyTurn (t.setHart { t.hart with wait := none }) else .next s
    | none =>
      if budgetDue t then execBudget t
      else convoyTurn (t.setHart { t.hart with issueAt := none })

/-! ### A sequencer's turn (R294, R295) -/

/-- The meaning of a Brixem word. -/
def brixemMeaning (w : Word) (s : State) : Result :=
  let d := fld w 23 4
  let a := fld w 19 4
  let b := fld w 15 4
  let i := fld w 0 15
  match (fld w 27 5).toNat with
  | 0 => execBHalt s
  | 1 => execBLi d i s
  | 2 => execBAdd d a b i s
  | 3 => execBSub d a b s
  | 4 => execBAnd d a b s
  | 5 => execBShl d a (fld w 0 6) s
  | 6 => execBShr d a (fld w 0 6) s
  | 7 => execBBnz a i s
  | 8 => execBBz a i s
  | 9 => execBLdq d a i s
  | 10 => execBStq a b i s
  | 11 => execBMode (bit w 0) s
  | 12 => execBAct a s
  | 13 => execBPre s
  | 14 => execBXld a (bit w 0) s
  | 15 => execBMac a b s
  | 16 => if i = 0 then execBAclr s else execBAclrEntry b s
  | 17 => execBArd a b s
  | _ => execBRout a (fld w 0 3) s

/-- The sequencer of a pseudo-channel executes its next word; past the last one it meets RANGE, after the OVERRUN check. -/
def bankTurn (p : Nat) (s : State) : Result :=
  let s := { s with bank := p }
  let c := s.chanAt p
  match c.run with
  | none => .next s
  | some r =>
    match mget? c.handlers r.slot with
    | none => .next (endHandler s p 4)
    | some h =>
      if c.switching.isSome then .next s
      else
        match h.words[r.pcw]? with
        | none => .next (endHandler s p (if h.bound < r.count + 1 then 2 else 4))
        | some w => brixemMeaning w s

/-! ### An agent's turn -/

/-- The steward resumes the harts of a context that wait for a core's vector register file (R368): where another context owns the
file, it gives it to them first.  Its own program is not part of the manual, and this is what its STWs come to.  A hart whose
declaration has been scrubbed waits for its VRESTORE (Table 21.5). -/
def vownService (k : Nat) (s : State) : Result :=
  let h := s.hartAt k
  let core := s.coreAt (k / 8)
  if h.wait ≠ some .vown then notEnabled "VOWN"
  else if core.owned && core.owner.toNat == h.ctx then
    if h.scrubbed then notEnabled "VOWN" else .next (s.releaseVown (k / 8) h.ctx)
  else
    let s := s.setCoreAt (k / 8) { core with owner := BitVec.ofNat 6 h.ctx, owned := true, clean := false }
    .next (s.releaseVown (k / 8) h.ctx)

/-- Whether a hart or an engine has waited longer, for a pseudo-channel of what an access from outside touches, than the access that came
at a time (R290). -/
def Outside.yields (s : State) (since : Nat) (o : Outside) : Bool :=
  (mkeys s.chans).any (fun p =>
    (o.spans s).any (fun r => inSlot p r.1 r.2) && (olderHart s none p since || olderEngine s none p since))

/-- What an access from outside does. -/
def performOutside (o : Outside) (s : State) : Result :=
  match o with
  | .write peer pa data => execHostOrPeerWrite peer pa data s
  | .cxlRead pa n => execCxlMemRead pa n s
  | .peerRead pa n => execPeerRead pa n s
  | .snoop pa data => execSnoopInvalidate pa data s
  | .start ctx hseq => execStart ctx hseq s
  | .register fn off v => execRegisterWrite fn off v s
  | .request mseq =>
    if reqByte s.dev 0 = 1 then execGrant mseq s
    else if reqByte s.dev 0 = 2 then execExportAudit mseq s
    else execUnknownOp mseq s
  | .auditack v => execAuditack v s
  | .power v => execPowerLimit v s

/-- The access from outside that has waited longest is performed, once nothing holds it and nothing has waited for its bank longer
(R250, R290, R316, R424). -/
def serveOutside (s : State) : Result :=
  match s.waiting with
  | [] => notEnabled "OUTSIDE"
  | (since, o) :: rest =>
    if o.held s || o.yields s since then notEnabled "OUTSIDE"
    else match performOutside o { s with waiting := [] } with
      | .next t => .next { t with waiting := rest }
      | r => r

/-- What an agent does. -/
def ownTurn (o : Own) (a b : Nat) (s : State) : Result :=
  match o with
  | .laneHold => execLaneHoldExpiry a s
  | .laneGrant => execLaneGrant a s
  | .launchExpiry => execLaunchWaitExpiry a s
  | .placement => match nextLaunch s a with
    | none => notEnabled "GANG_PLACEMENT"
    | some l => execGangPlacement a (choosePlaces s a l) { s with free := s.free + 2 }
  | .memberExit => execMemberExit a s
  | .barrier => execBarrierComplete a b s
  | .waitt => execWaittInstant a s
  | .waitaddr => execWaitaddrWake a s
  | .sendt => execSendtArrival a s
  | .matrix => execMatrixExecute a s
  | .copy => execCopyComplete a s
  | .deal => execDealPassage a s
  | .cwrite => execCwriteComplete a s
  | .version => execVersionSwitch a s
  | .pass => execArrayPass a (b / 2) (b % 2 == 1) s
  | .cmv => execCmvComplete a s
  | .recalibrate => execRecalibration (a % 64) (a / 64) b s
  | .rotation => execRotationSwitch a b s
  | .handler => execHandlerStart a s
  | .modeDone => execModeSwitchDone a s
  | .localSave => execLocalStoreSave a s
  | .killScrub => execKillScrub a (Config.failing s.free) s.draw
  | .releaseScrub => execReleaseScrub a (Config.failing s.free) s.draw
  | .errorDone => execErrorEntryDone a s
  | .handlerInstall => execHandlerInstall a s
  | .faultHold => execFaultHoldRelease a b s
  | .vownService => vownService a s
  | .linkFail => if a = 0 then execHostLinkFail s else execPeerPortFail (a - 1) s
  | .outside => serveOutside s

/-- An event that cannot take place does not: the state stays. -/
def ifEnabled (s : State) (r : Result) : Result :=
  match r with
  | .fault (.notEnabled _) => .next s
  | o => o

/-- One turn. -/
def takeTurn (t : Turn) (s : State) : Result :=
  match t with
  | .hart k => hartTurn k s
  | .bank p => bankTurn p s
  | .event e => ifEnabled s (exec e s)
  | .own o a b => ifEnabled s (ownTurn o a b s)
  | .found agent gang unit va => .next (s.foundBad agent gang [(unit, va)])

end Machine
end Sys2Proof
end

