-- ==== Sys2Proof/Machine/Step.lean ====
section
/-! DEFINITION. One step of the package: the turn that is first on the agenda, or a core cycle when none is left; and the placing
of a program's first instruction. -/

namespace Sys2Proof
namespace Machine

/-- One step.  Turns decided in a cycle are taken one after another; with none left, CORE_CYCLE comes (R9). -/
def step (s : State) : Host.Outcome State Fault Refusal :=
  match s.agenda with
  | [] => exec .coreCycle s
  | t :: rest => takeTurn t { s with agenda := rest }

/-! ### The first instruction of a program

A program comes to run only after boot, a grant, LOCK_INTERFACE, START_INTERFACE, the host's writes and START, each an event of
the outside world, and after the placement of its gang.  `withFetchWord` stands for all of that. -/

/-- Context 0 in Run, with frame 0 for its page tables and frame 1, mapped at virtual address 0, for its program. -/
def loadedContext : Ctx :=
  { Ctx.initial with
    state := .run
    grant := some { frames := [0, 1], slots := [], arrays := 0, dvq := 0, nhvis := 0, peers := 0, hosts := [], ptroot := 0, ptva := 0,
                    framesVa := 0, ftpa := 0 } }

/-- Its page tables: three levels, the last entry a leaf of 2 MiB with R, W and X. -/
def loadedTables (m : List Host.Cell) : List Host.Cell :=
  memWriteN (memWriteN (memWriteN m 0 (leBytes 8 0x1001)) 0x1000 (leBytes 8 0x2001)) 0x2000 (leBytes 8 0x20001F)

/-- A running hart of context 0, or a steward hart, at PC 0; 32 registers of 64 elements of 8 bytes are declared, and none of them
is active, VL being 0. -/
def loadedHart (steward : Bool) : Hart :=
  let r := declareRegs Regs.initial { n := 32, wcode := 3, count := 64 } 64
  { Hart.initial with live := .running, steward := steward, regs := r, ckpt := snapshot r 0, vlmax := 64, vn := 32, wcode := 3 }

/-- A member of context 0 about to execute the word at its PC. -/
def State.atHart (s : State) (word : Word) : State :=
  -- a prefix word executes with its successor, which is VMV v0, v0
  let bytes := wordBytes word ++ (if fld word 26 6 = 0x3E then wordBytes 0x40000204 else [])
  { (s.focus 0).setCoreAt 0 { (s.coreAt 0) with serves := some 0, owner := 0, owned := true, moving := none } with
    agenda := [.hart 0], hart := loadedHart false, ctxs := mset s.ctxs 0 loadedContext, cmds := [], leaders := [], tlb := []
    badUnits := [], mem := memWriteN (loadedTables s.mem) 0x200000 bytes }

/-- A steward hart about to execute the word at its PC, which is a physical address. -/
def State.atSteward (s : State) (word : Word) : State :=
  { s.focus Config.stewardBase with
    agenda := [.hart Config.stewardBase], hart := loadedHart true, cmds := [], badUnits := []
    mem := memWriteN s.mem 0 (wordBytes word ++ wordBytes 0) }

/-- The mode that a Brixem word needs. -/
def brixemMode (word : Word) : Bool := 12 ≤ (fld word 27 5).toNat && (fld word 27 5).toNat ≤ 17

/-- The sequencer of pseudo-channel 0 about to execute the word, in the mode that it needs and with row 0 open, for a BMSG. -/
def State.atBank (s : State) (word : Word) : State :=
  let n := s.nextCmd
  let c : Cmd :=
    { hart := 0, core := 0, ctx := 0, gang := 0, op := 1, maj := 3, kind := .bmsg 0 0 0 [] 0 1, lines := [], late := [] }
  let all := brixemMode word
  let h : Handler := { bound := 4096, span := 1, words := #[word, 0] }
  let r := { runOf n c 0 0 [] 0 2 1 with openRow := if all then some 0 else none }
  { s with
    agenda := [.bank 0], cmds := mset s.cmds n c, nextCmd := n + 1
    chans := mset s.chans 0 { Chan.initial with dedicated := some 0, allBank := all, handlers := [(0, h)], run := some r } }

/-- The state in which the next step executes an instruction whose bits, as the opcode table numbers them, are `w`. -/
noncomputable def State.withFetchWord (s : State) (nbits w : Nat) : State :=
  let word := bytesWord (wordBytes (BitVec.ofNat 32 (w % 2 ^ nbits)))
  match decodeWord word with
  | .ok i => if stewardOnly i then s.atSteward word else s.atHart word
  | .error _ =>
    match decodeBrixem word with
    | .ok _ => s.atBank word
    | .error _ => s.atHart word

end Machine
end Sys2Proof
end

