-- ==== Sys2Proof/Laws/Codec.lean ====
section
/-! SUPPORT. Fields of built words, and that decoding reads back what encoding wrote, constructor by constructor. -/

namespace Sys2Proof
namespace Laws

set_option linter.unusedSimpArgs false
set_option Elab.async false

theorem fld_hi {m n : Nat} (x : BitVec m) (y : BitVec n) (lo k : Nat) (h : n ≤ lo) :
    fld (x ++ y) lo k = fld x (lo - n) k := by
  ext i hi
  simp only [fld, BitVec.getElem_extractLsb', BitVec.getLsbD_append]
  split
  · omega
  · congr 1; omega

theorem fld_lo {m n : Nat} (x : BitVec m) (y : BitVec n) (lo k : Nat) (h : lo + k ≤ n) :
    fld (x ++ y) lo k = fld y lo k := by
  ext i hi
  simp only [fld, BitVec.getElem_extractLsb', BitVec.getLsbD_append]
  split
  · rfl
  · omega

theorem fld_all {n : Nat} (x : BitVec n) : fld x 0 n = x := by simp [fld]

theorem fld_pad {m : Nat} (n : Nat) (x : BitVec m) (h : m ≤ n) : fld (pad n x) 0 m = x := by
  ext i hi
  simp [fld, pad, hi]
  omega

theorem ofBool_bit (b : Bool) : (BitVec.ofBool b == 1#1) = b := by cases b <;> rfl

@[simp] theorem formR_maj (maj : BitVec 6) (k : Bool) (d : BitVec 5) (a : BitVec 5) (b : BitVec 5) (low : BitVec 10) : fld (formR maj k d a b low) 26 6 = maj := by
  change @fld (6 + 1 + 5 + 5 + 5 + 10) (maj ++ BitVec.ofBool k ++ d ++ a ++ b ++ low) 26 6 = maj
  rw [fld_hi _ _ _ _ (by decide), fld_hi _ _ _ _ (by decide), fld_hi _ _ _ _ (by decide), fld_hi _ _ _ _ (by decide), fld_hi _ _ _ _ (by decide)]
  exact fld_all _

@[simp] theorem formR_k (maj : BitVec 6) (k : Bool) (d : BitVec 5) (a : BitVec 5) (b : BitVec 5) (low : BitVec 10) : bit (formR maj k d a b low) 25 = k := by
  change (@fld (6 + 1 + 5 + 5 + 5 + 10) (maj ++ BitVec.ofBool k ++ d ++ a ++ b ++ low) 25 1 == 1#1) = k
  rw [fld_hi _ _ _ _ (by decide), fld_hi _ _ _ _ (by decide), fld_hi _ _ _ _ (by decide), fld_hi _ _ _ _ (by decide), fld_lo _ _ _ _ (by decide)]
  exact (congrArg (· == 1#1) (fld_all _)).trans (ofBool_bit _)

@[simp] theorem formR_d (maj : BitVec 6) (k : Bool) (d : BitVec 5) (a : BitVec 5) (b : BitVec 5) (low : BitVec 10) : fld (formR maj k d a b low) 20 5 = d := by
  change @fld (6 + 1 + 5 + 5 + 5 + 10) (maj ++ BitVec.ofBool k ++ d ++ a ++ b ++ low) 20 5 = d
  rw [fld_hi _ _ _ _ (by decide), fld_hi _ _ _ _ (by decide), fld_hi _ _ _ _ (by decide), fld_lo _ _ _ _ (by decide)]
  exact fld_all _

@[simp] theorem formR_a (maj : BitVec 6) (k : Bool) (d : BitVec 5) (a : BitVec 5) (b : BitVec 5) (low : BitVec 10) : fld (formR maj k d a b low) 15 5 = a := by
  change @fld (6 + 1 + 5 + 5 + 5 + 10) (maj ++ BitVec.ofBool k ++ d ++ a ++ b ++ low) 15 5 = a
  rw [fld_hi _ _ _ _ (by decide), fld_hi _ _ _ _ (by decide), fld_lo _ _ _ _ (by decide)]
  exact fld_all _

@[simp] theorem formR_b (maj : BitVec 6) (k : Bool) (d : BitVec 5) (a : BitVec 5) (b : BitVec 5) (low : BitVec 10) : fld (formR maj k d a b low) 10 5 = b := by
  change @fld (6 + 1 + 5 + 5 + 5 + 10) (maj ++ BitVec.ofBool k ++ d ++ a ++ b ++ low) 10 5 = b
  rw [fld_hi _ _ _ _ (by decide), fld_lo _ _ _ _ (by decide)]
  exact fld_all _

theorem formR_in (maj : BitVec 6) (k : Bool) (d : BitVec 5) (a : BitVec 5) (b : BitVec 5) (low : BitVec 10) (p n : Nat) (h : p + n ≤ 10) : fld (formR maj k d a b low) p n = fld low p n := by
  change @fld (6 + 1 + 5 + 5 + 5 + 10) (maj ++ BitVec.ofBool k ++ d ++ a ++ b ++ low) p n = fld low p n
  rw [fld_lo _ _ _ _ h]

theorem formR_bit (maj : BitVec 6) (k : Bool) (d : BitVec 5) (a : BitVec 5) (b : BitVec 5) (low : BitVec 10) (p : Nat) (h : p + 1 ≤ 10) : bit (formR maj k d a b low) p = bit low p := by
  unfold bit
  rw [formR_in _ _ _ _ _ _ _ _ h]

@[simp] theorem formI_maj (maj : BitVec 6) (k : Bool) (d : BitVec 5) (a : BitVec 5) (low : BitVec 15) : fld (formI maj k d a low) 26 6 = maj := by
  change @fld (6 + 1 + 5 + 5 + 15) (maj ++ BitVec.ofBool k ++ d ++ a ++ low) 26 6 = maj
  rw [fld_hi _ _ _ _ (by decide), fld_hi _ _ _ _ (by decide), fld_hi _ _ _ _ (by decide), fld_hi _ _ _ _ (by decide)]
  exact fld_all _

@[simp] theorem formI_k (maj : BitVec 6) (k : Bool) (d : BitVec 5) (a : BitVec 5) (low : BitVec 15) : bit (formI maj k d a low) 25 = k := by
  change (@fld (6 + 1 + 5 + 5 + 15) (maj ++ BitVec.ofBool k ++ d ++ a ++ low) 25 1 == 1#1) = k
  rw [fld_hi _ _ _ _ (by decide), fld_hi _ _ _ _ (by decide), fld_hi _ _ _ _ (by decide), fld_lo _ _ _ _ (by decide)]
  exact (congrArg (· == 1#1) (fld_all _)).trans (ofBool_bit _)

@[simp] theorem formI_d (maj : BitVec 6) (k : Bool) (d : BitVec 5) (a : BitVec 5) (low : BitVec 15) : fld (formI maj k d a low) 20 5 = d := by
  change @fld (6 + 1 + 5 + 5 + 15) (maj ++ BitVec.ofBool k ++ d ++ a ++ low) 20 5 = d
  rw [fld_hi _ _ _ _ (by decide), fld_hi _ _ _ _ (by decide), fld_lo _ _ _ _ (by decide)]
  exact fld_all _

@[simp] theorem formI_a (maj : BitVec 6) (k : Bool) (d : BitVec 5) (a : BitVec 5) (low : BitVec 15) : fld (formI maj k d a low) 15 5 = a := by
  change @fld (6 + 1 + 5 + 5 + 15) (maj ++ BitVec.ofBool k ++ d ++ a ++ low) 15 5 = a
  rw [fld_hi _ _ _ _ (by decide), fld_lo _ _ _ _ (by decide)]
  exact fld_all _

theorem formI_in (maj : BitVec 6) (k : Bool) (d : BitVec 5) (a : BitVec 5) (low : BitVec 15) (p n : Nat) (h : p + n ≤ 15) : fld (formI maj k d a low) p n = fld low p n := by
  change @fld (6 + 1 + 5 + 5 + 15) (maj ++ BitVec.ofBool k ++ d ++ a ++ low) p n = fld low p n
  rw [fld_lo _ _ _ _ h]

theorem formI_bit (maj : BitVec 6) (k : Bool) (d : BitVec 5) (a : BitVec 5) (low : BitVec 15) (p : Nat) (h : p + 1 ≤ 15) : bit (formI maj k d a low) p = bit low p := by
  unfold bit
  rw [formI_in _ _ _ _ _ _ _ h]

@[simp] theorem formU_maj (maj : BitVec 6) (k : Bool) (d : BitVec 5) (i : BitVec 20) : fld (formU maj k d i) 26 6 = maj := by
  change @fld (6 + 1 + 5 + 20) (maj ++ BitVec.ofBool k ++ d ++ i) 26 6 = maj
  rw [fld_hi _ _ _ _ (by decide), fld_hi _ _ _ _ (by decide), fld_hi _ _ _ _ (by decide)]
  exact fld_all _

@[simp] theorem formU_d (maj : BitVec 6) (k : Bool) (d : BitVec 5) (i : BitVec 20) : fld (formU maj k d i) 20 5 = d := by
  change @fld (6 + 1 + 5 + 20) (maj ++ BitVec.ofBool k ++ d ++ i) 20 5 = d
  rw [fld_hi _ _ _ _ (by decide), fld_lo _ _ _ _ (by decide)]
  exact fld_all _

@[simp] theorem formU_i (maj : BitVec 6) (k : Bool) (d : BitVec 5) (i : BitVec 20) : fld (formU maj k d i) 0 20 = i := by
  change @fld (6 + 1 + 5 + 20) (maj ++ BitVec.ofBool k ++ d ++ i) 0 20 = i
  rw [fld_lo _ _ _ _ (by decide)]
  exact fld_all _

@[simp] theorem formB_maj (maj : BitVec 6) (k : Bool) (c : BitVec 3) (a : BitVec 5) (b : BitVec 5) (i : BitVec 12) : fld (formB maj k c a b i) 26 6 = maj := by
  change @fld (6 + 1 + 3 + 5 + 5 + 12) (maj ++ BitVec.ofBool k ++ c ++ a ++ b ++ i) 26 6 = maj
  rw [fld_hi _ _ _ _ (by decide), fld_hi _ _ _ _ (by decide), fld_hi _ _ _ _ (by decide), fld_hi _ _ _ _ (by decide), fld_hi _ _ _ _ (by decide)]
  exact fld_all _

@[simp] theorem formB_c (maj : BitVec 6) (k : Bool) (c : BitVec 3) (a : BitVec 5) (b : BitVec 5) (i : BitVec 12) : fld (formB maj k c a b i) 22 3 = c := by
  change @fld (6 + 1 + 3 + 5 + 5 + 12) (maj ++ BitVec.ofBool k ++ c ++ a ++ b ++ i) 22 3 = c
  rw [fld_hi _ _ _ _ (by decide), fld_hi _ _ _ _ (by decide), fld_hi _ _ _ _ (by decide), fld_lo _ _ _ _ (by decide)]
  exact fld_all _

@[simp] theorem formB_a (maj : BitVec 6) (k : Bool) (c : BitVec 3) (a : BitVec 5) (b : BitVec 5) (i : BitVec 12) : fld (formB maj k c a b i) 17 5 = a := by
  change @fld (6 + 1 + 3 + 5 + 5 + 12) (maj ++ BitVec.ofBool k ++ c ++ a ++ b ++ i) 17 5 = a
  rw [fld_hi _ _ _ _ (by decide), fld_hi _ _ _ _ (by decide), fld_lo _ _ _ _ (by decide)]
  exact fld_all _

@[simp] theorem formB_b (maj : BitVec 6) (k : Bool) (c : BitVec 3) (a : BitVec 5) (b : BitVec 5) (i : BitVec 12) : fld (formB maj k c a b i) 12 5 = b := by
  change @fld (6 + 1 + 3 + 5 + 5 + 12) (maj ++ BitVec.ofBool k ++ c ++ a ++ b ++ i) 12 5 = b
  rw [fld_hi _ _ _ _ (by decide), fld_lo _ _ _ _ (by decide)]
  exact fld_all _

@[simp] theorem formB_i (maj : BitVec 6) (k : Bool) (c : BitVec 3) (a : BitVec 5) (b : BitVec 5) (i : BitVec 12) : fld (formB maj k c a b i) 0 12 = i := by
  change @fld (6 + 1 + 3 + 5 + 5 + 12) (maj ++ BitVec.ofBool k ++ c ++ a ++ b ++ i) 0 12 = i
  rw [fld_lo _ _ _ _ (by decide)]
  exact fld_all _

@[simp] theorem formP_pm (pm : BitVec 3) (pn : Bool) (em : BitVec 3) (ek : BitVec 3) (dc : BitVec 5) (dce : Bool) (rm : BitVec 3) (sat : Bool) : fld (formP pm pn em ek dc dce rm sat) 22 3 = pm := by
  change @fld (6 + 1 + 3 + 1 + 3 + 3 + 5 + 1 + 3 + 1 + 5) (0x3E#6 ++ 0#1 ++ pm ++ BitVec.ofBool pn ++ em ++ ek ++ dc ++ BitVec.ofBool dce ++ rm ++ BitVec.ofBool sat ++ 0#5) 22 3 = pm
  rw [fld_hi _ _ _ _ (by decide), fld_hi _ _ _ _ (by decide), fld_hi _ _ _ _ (by decide), fld_hi _ _ _ _ (by decide), fld_hi _ _ _ _ (by decide), fld_hi _ _ _ _ (by decide), fld_hi _ _ _ _ (by decide), fld_hi _ _ _ _ (by decide), fld_lo _ _ _ _ (by decide)]
  exact fld_all _

@[simp] theorem formP_pn (pm : BitVec 3) (pn : Bool) (em : BitVec 3) (ek : BitVec 3) (dc : BitVec 5) (dce : Bool) (rm : BitVec 3) (sat : Bool) : bit (formP pm pn em ek dc dce rm sat) 21 = pn := by
  change (@fld (6 + 1 + 3 + 1 + 3 + 3 + 5 + 1 + 3 + 1 + 5) (0x3E#6 ++ 0#1 ++ pm ++ BitVec.ofBool pn ++ em ++ ek ++ dc ++ BitVec.ofBool dce ++ rm ++ BitVec.ofBool sat ++ 0#5) 21 1 == 1#1) = pn
  rw [fld_hi _ _ _ _ (by decide), fld_hi _ _ _ _ (by decide), fld_hi _ _ _ _ (by decide), fld_hi _ _ _ _ (by decide), fld_hi _ _ _ _ (by decide), fld_hi _ _ _ _ (by decide), fld_hi _ _ _ _ (by decide), fld_lo _ _ _ _ (by decide)]
  exact (congrArg (· == 1#1) (fld_all _)).trans (ofBool_bit _)

@[simp] theorem formP_em (pm : BitVec 3) (pn : Bool) (em : BitVec 3) (ek : BitVec 3) (dc : BitVec 5) (dce : Bool) (rm : BitVec 3) (sat : Bool) : fld (formP pm pn em ek dc dce rm sat) 18 3 = em := by
  change @fld (6 + 1 + 3 + 1 + 3 + 3 + 5 + 1 + 3 + 1 + 5) (0x3E#6 ++ 0#1 ++ pm ++ BitVec.ofBool pn ++ em ++ ek ++ dc ++ BitVec.ofBool dce ++ rm ++ BitVec.ofBool sat ++ 0#5) 18 3 = em
  rw [fld_hi _ _ _ _ (by decide), fld_hi _ _ _ _ (by decide), fld_hi _ _ _ _ (by decide), fld_hi _ _ _ _ (by decide), fld_hi _ _ _ _ (by decide), fld_hi _ _ _ _ (by decide), fld_lo _ _ _ _ (by decide)]
  exact fld_all _

@[simp] theorem formP_ek (pm : BitVec 3) (pn : Bool) (em : BitVec 3) (ek : BitVec 3) (dc : BitVec 5) (dce : Bool) (rm : BitVec 3) (sat : Bool) : fld (formP pm pn em ek dc dce rm sat) 15 3 = ek := by
  change @fld (6 + 1 + 3 + 1 + 3 + 3 + 5 + 1 + 3 + 1 + 5) (0x3E#6 ++ 0#1 ++ pm ++ BitVec.ofBool pn ++ em ++ ek ++ dc ++ BitVec.ofBool dce ++ rm ++ BitVec.ofBool sat ++ 0#5) 15 3 = ek
  rw [fld_hi _ _ _ _ (by decide), fld_hi _ _ _ _ (by decide), fld_hi _ _ _ _ (by decide), fld_hi _ _ _ _ (by decide), fld_hi _ _ _ _ (by decide), fld_lo _ _ _ _ (by decide)]
  exact fld_all _

@[simp] theorem formP_dc (pm : BitVec 3) (pn : Bool) (em : BitVec 3) (ek : BitVec 3) (dc : BitVec 5) (dce : Bool) (rm : BitVec 3) (sat : Bool) : fld (formP pm pn em ek dc dce rm sat) 10 5 = dc := by
  change @fld (6 + 1 + 3 + 1 + 3 + 3 + 5 + 1 + 3 + 1 + 5) (0x3E#6 ++ 0#1 ++ pm ++ BitVec.ofBool pn ++ em ++ ek ++ dc ++ BitVec.ofBool dce ++ rm ++ BitVec.ofBool sat ++ 0#5) 10 5 = dc
  rw [fld_hi _ _ _ _ (by decide), fld_hi _ _ _ _ (by decide), fld_hi _ _ _ _ (by decide), fld_hi _ _ _ _ (by decide), fld_lo _ _ _ _ (by decide)]
  exact fld_all _

@[simp] theorem formP_dce (pm : BitVec 3) (pn : Bool) (em : BitVec 3) (ek : BitVec 3) (dc : BitVec 5) (dce : Bool) (rm : BitVec 3) (sat : Bool) : bit (formP pm pn em ek dc dce rm sat) 9 = dce := by
  change (@fld (6 + 1 + 3 + 1 + 3 + 3 + 5 + 1 + 3 + 1 + 5) (0x3E#6 ++ 0#1 ++ pm ++ BitVec.ofBool pn ++ em ++ ek ++ dc ++ BitVec.ofBool dce ++ rm ++ BitVec.ofBool sat ++ 0#5) 9 1 == 1#1) = dce
  rw [fld_hi _ _ _ _ (by decide), fld_hi _ _ _ _ (by decide), fld_hi _ _ _ _ (by decide), fld_lo _ _ _ _ (by decide)]
  exact (congrArg (· == 1#1) (fld_all _)).trans (ofBool_bit _)

@[simp] theorem formP_rm (pm : BitVec 3) (pn : Bool) (em : BitVec 3) (ek : BitVec 3) (dc : BitVec 5) (dce : Bool) (rm : BitVec 3) (sat : Bool) : fld (formP pm pn em ek dc dce rm sat) 6 3 = rm := by
  change @fld (6 + 1 + 3 + 1 + 3 + 3 + 5 + 1 + 3 + 1 + 5) (0x3E#6 ++ 0#1 ++ pm ++ BitVec.ofBool pn ++ em ++ ek ++ dc ++ BitVec.ofBool dce ++ rm ++ BitVec.ofBool sat ++ 0#5) 6 3 = rm
  rw [fld_hi _ _ _ _ (by decide), fld_hi _ _ _ _ (by decide), fld_lo _ _ _ _ (by decide)]
  exact fld_all _

@[simp] theorem formP_sat (pm : BitVec 3) (pn : Bool) (em : BitVec 3) (ek : BitVec 3) (dc : BitVec 5) (dce : Bool) (rm : BitVec 3) (sat : Bool) : bit (formP pm pn em ek dc dce rm sat) 5 = sat := by
  change (@fld (6 + 1 + 3 + 1 + 3 + 3 + 5 + 1 + 3 + 1 + 5) (0x3E#6 ++ 0#1 ++ pm ++ BitVec.ofBool pn ++ em ++ ek ++ dc ++ BitVec.ofBool dce ++ rm ++ BitVec.ofBool sat ++ 0#5) 5 1 == 1#1) = sat
  rw [fld_hi _ _ _ _ (by decide), fld_lo _ _ _ _ (by decide)]
  exact (congrArg (· == 1#1) (fld_all _)).trans (ofBool_bit _)

@[simp] theorem formP_maj (pm : BitVec 3) (pn : Bool) (em ek : BitVec 3) (dc : BitVec 5) (dce : Bool) (rm : BitVec 3)
    (sat : Bool) : fld (formP pm pn em ek dc dce rm sat) 26 6 = 0x3E#6 := by
  change @fld (6 + 1 + 3 + 1 + 3 + 3 + 5 + 1 + 3 + 1 + 5) (0x3E#6 ++ 0#1 ++ pm ++ BitVec.ofBool pn ++ em ++ ek ++ dc ++ BitVec.ofBool dce ++ rm ++ BitVec.ofBool sat ++ 0#5) 26 6 = _
  rw [fld_hi _ _ _ _ (by decide), fld_hi _ _ _ _ (by decide), fld_hi _ _ _ _ (by decide), fld_hi _ _ _ _ (by decide), fld_hi _ _ _ _ (by decide), fld_hi _ _ _ _ (by decide), fld_hi _ _ _ _ (by decide), fld_hi _ _ _ _ (by decide), fld_hi _ _ _ _ (by decide), fld_hi _ _ _ _ (by decide)]
  exact fld_all _

@[simp] theorem formBrixem_op (op : BitVec 5) (d : BitVec 4) (a : BitVec 4) (b : BitVec 4) (i : BitVec 15) : fld (formBrixem op d a b i) 27 5 = op := by
  change @fld (5 + 4 + 4 + 4 + 15) (op ++ d ++ a ++ b ++ i) 27 5 = op
  rw [fld_hi _ _ _ _ (by decide), fld_hi _ _ _ _ (by decide), fld_hi _ _ _ _ (by decide), fld_hi _ _ _ _ (by decide)]
  exact fld_all _

@[simp] theorem formBrixem_d (op : BitVec 5) (d : BitVec 4) (a : BitVec 4) (b : BitVec 4) (i : BitVec 15) : fld (formBrixem op d a b i) 23 4 = d := by
  change @fld (5 + 4 + 4 + 4 + 15) (op ++ d ++ a ++ b ++ i) 23 4 = d
  rw [fld_hi _ _ _ _ (by decide), fld_hi _ _ _ _ (by decide), fld_hi _ _ _ _ (by decide), fld_lo _ _ _ _ (by decide)]
  exact fld_all _

@[simp] theorem formBrixem_a (op : BitVec 5) (d : BitVec 4) (a : BitVec 4) (b : BitVec 4) (i : BitVec 15) : fld (formBrixem op d a b i) 19 4 = a := by
  change @fld (5 + 4 + 4 + 4 + 15) (op ++ d ++ a ++ b ++ i) 19 4 = a
  rw [fld_hi _ _ _ _ (by decide), fld_hi _ _ _ _ (by decide), fld_lo _ _ _ _ (by decide)]
  exact fld_all _

@[simp] theorem formBrixem_b (op : BitVec 5) (d : BitVec 4) (a : BitVec 4) (b : BitVec 4) (i : BitVec 15) : fld (formBrixem op d a b i) 15 4 = b := by
  change @fld (5 + 4 + 4 + 4 + 15) (op ++ d ++ a ++ b ++ i) 15 4 = b
  rw [fld_hi _ _ _ _ (by decide), fld_lo _ _ _ _ (by decide)]
  exact fld_all _

theorem formBrixem_in (op : BitVec 5) (d : BitVec 4) (a : BitVec 4) (b : BitVec 4) (i : BitVec 15) (p n : Nat) (h : p + n ≤ 15) : fld (formBrixem op d a b i) p n = fld i p n := by
  change @fld (5 + 4 + 4 + 4 + 15) (op ++ d ++ a ++ b ++ i) p n = fld i p n
  rw [fld_lo _ _ _ _ h]

theorem formBrixem_bit (op : BitVec 5) (d : BitVec 4) (a : BitVec 4) (b : BitVec 4) (i : BitVec 15) (p : Nat) (h : p + 1 ≤ 15) : bit (formBrixem op d a b i) p = bit i p := by
  unfold bit
  rw [formBrixem_in _ _ _ _ _ _ _ h]

@[simp] theorem lowR_w (w : Bool) (op : BitVec 6) : bit (lowR w op) 9 = w := by
  change (@fld (1 + 3 + 6) (BitVec.ofBool w ++ 0#3 ++ op) 9 1 == 1#1) = w
  rw [fld_hi _ _ _ _ (by decide), fld_hi _ _ _ _ (by decide)]
  exact (congrArg (· == 1#1) (fld_all _)).trans (ofBool_bit _)

@[simp] theorem lowR_op (w : Bool) (op : BitVec 6) : fld (lowR w op) 0 6 = op := by
  change @fld (1 + 3 + 6) (BitVec.ofBool w ++ 0#3 ++ op) 0 6 = op
  rw [fld_lo _ _ _ _ (by decide)]
  exact fld_all _

@[simp] theorem lowF_f (f : BitVec 2) (rm : BitVec 3) (op : BitVec 5) : fld (lowF f rm op) 8 2 = f := by
  change @fld (2 + 3 + 5) (f ++ rm ++ op) 8 2 = f
  rw [fld_hi _ _ _ _ (by decide), fld_hi _ _ _ _ (by decide)]
  exact fld_all _

@[simp] theorem lowF_rm (f : BitVec 2) (rm : BitVec 3) (op : BitVec 5) : fld (lowF f rm op) 5 3 = rm := by
  change @fld (2 + 3 + 5) (f ++ rm ++ op) 5 3 = rm
  rw [fld_hi _ _ _ _ (by decide), fld_lo _ _ _ _ (by decide)]
  exact fld_all _

@[simp] theorem lowF_op (f : BitVec 2) (rm : BitVec 3) (op : BitVec 5) : fld (lowF f rm op) 0 5 = op := by
  change @fld (2 + 3 + 5) (f ++ rm ++ op) 0 5 = op
  rw [fld_lo _ _ _ _ (by decide)]
  exact fld_all _

@[simp] theorem lowO_s (s : BitVec 3) (w : Bool) (op : BitVec 6) : fld (lowO s w op) 7 3 = s := by
  change @fld (3 + 1 + 6) (s ++ BitVec.ofBool w ++ op) 7 3 = s
  rw [fld_hi _ _ _ _ (by decide), fld_hi _ _ _ _ (by decide)]
  exact fld_all _

@[simp] theorem lowO_w (s : BitVec 3) (w : Bool) (op : BitVec 6) : bit (lowO s w op) 6 = w := by
  change (@fld (3 + 1 + 6) (s ++ BitVec.ofBool w ++ op) 6 1 == 1#1) = w
  rw [fld_hi _ _ _ _ (by decide), fld_lo _ _ _ _ (by decide)]
  exact (congrArg (· == 1#1) (fld_all _)).trans (ofBool_bit _)

@[simp] theorem lowO_op (s : BitVec 3) (w : Bool) (op : BitVec 6) : fld (lowO s w op) 0 6 = op := by
  change @fld (3 + 1 + 6) (s ++ BitVec.ofBool w ++ op) 0 6 = op
  rw [fld_lo _ _ _ _ (by decide)]
  exact fld_all _

@[simp] theorem lowY_s (s : BitVec 3) (op : BitVec 7) : fld (lowY s op) 7 3 = s := by
  change @fld (3 + 7) (s ++ op) 7 3 = s
  rw [fld_hi _ _ _ _ (by decide)]
  exact fld_all _

@[simp] theorem lowY_op (s : BitVec 3) (op : BitVec 7) : fld (lowY s op) 0 7 = op := by
  change @fld (3 + 7) (s ++ op) 0 7 = op
  rw [fld_lo _ _ _ _ (by decide)]
  exact fld_all _

@[simp] theorem lowV_w (w : Bool) (e : Bool) (qa : Bool) (qb : Bool) (op : BitVec 6) : bit (lowV w e qa qb op) 9 = w := by
  change (@fld (1 + 1 + 1 + 1 + 6) (BitVec.ofBool w ++ BitVec.ofBool e ++ BitVec.ofBool qa ++ BitVec.ofBool qb ++ op) 9 1 == 1#1) = w
  rw [fld_hi _ _ _ _ (by decide), fld_hi _ _ _ _ (by decide), fld_hi _ _ _ _ (by decide), fld_hi _ _ _ _ (by decide)]
  exact (congrArg (· == 1#1) (fld_all _)).trans (ofBool_bit _)

@[simp] theorem lowV_e (w : Bool) (e : Bool) (qa : Bool) (qb : Bool) (op : BitVec 6) : bit (lowV w e qa qb op) 8 = e := by
  change (@fld (1 + 1 + 1 + 1 + 6) (BitVec.ofBool w ++ BitVec.ofBool e ++ BitVec.ofBool qa ++ BitVec.ofBool qb ++ op) 8 1 == 1#1) = e
  rw [fld_hi _ _ _ _ (by decide), fld_hi _ _ _ _ (by decide), fld_hi _ _ _ _ (by decide), fld_lo _ _ _ _ (by decide)]
  exact (congrArg (· == 1#1) (fld_all _)).trans (ofBool_bit _)

@[simp] theorem lowV_qa (w : Bool) (e : Bool) (qa : Bool) (qb : Bool) (op : BitVec 6) : bit (lowV w e qa qb op) 7 = qa := by
  change (@fld (1 + 1 + 1 + 1 + 6) (BitVec.ofBool w ++ BitVec.ofBool e ++ BitVec.ofBool qa ++ BitVec.ofBool qb ++ op) 7 1 == 1#1) = qa
  rw [fld_hi _ _ _ _ (by decide), fld_hi _ _ _ _ (by decide), fld_lo _ _ _ _ (by decide)]
  exact (congrArg (· == 1#1) (fld_all _)).trans (ofBool_bit _)

@[simp] theorem lowV_qb (w : Bool) (e : Bool) (qa : Bool) (qb : Bool) (op : BitVec 6) : bit (lowV w e qa qb op) 6 = qb := by
  change (@fld (1 + 1 + 1 + 1 + 6) (BitVec.ofBool w ++ BitVec.ofBool e ++ BitVec.ofBool qa ++ BitVec.ofBool qb ++ op) 6 1 == 1#1) = qb
  rw [fld_hi _ _ _ _ (by decide), fld_lo _ _ _ _ (by decide)]
  exact (congrArg (· == 1#1) (fld_all _)).trans (ofBool_bit _)

@[simp] theorem lowV_op (w : Bool) (e : Bool) (qa : Bool) (qb : Bool) (op : BitVec 6) : fld (lowV w e qa qb op) 0 6 = op := by
  change @fld (1 + 1 + 1 + 1 + 6) (BitVec.ofBool w ++ BitVec.ofBool e ++ BitVec.ofBool qa ++ BitVec.ofBool qb ++ op) 0 6 = op
  rw [fld_lo _ _ _ _ (by decide)]
  exact fld_all _

@[simp] theorem lowT_op (op : BitVec 4) (y : BitVec 3) : fld (lowT op y) 6 4 = op := by
  change @fld (4 + 3 + 3) (op ++ y ++ 0#3) 6 4 = op
  rw [fld_hi _ _ _ _ (by decide), fld_hi _ _ _ _ (by decide)]
  exact fld_all _

@[simp] theorem lowT_y (op : BitVec 4) (y : BitVec 3) : fld (lowT op y) 3 3 = y := by
  change @fld (4 + 3 + 3) (op ++ y ++ 0#3) 3 3 = y
  rw [fld_hi _ _ _ _ (by decide), fld_lo _ _ _ _ (by decide)]
  exact fld_all _

@[simp] theorem lowX_c (c : BitVec 5) (op : BitVec 5) : fld (lowX c op) 5 5 = c := by
  change @fld (5 + 5) (c ++ op) 5 5 = c
  rw [fld_hi _ _ _ _ (by decide)]
  exact fld_all _

@[simp] theorem lowX_op (c : BitVec 5) (op : BitVec 5) : fld (lowX c op) 0 5 = op := by
  change @fld (5 + 5) (c ++ op) 0 5 = op
  rw [fld_lo _ _ _ _ (by decide)]
  exact fld_all _

@[simp] theorem lowI_fn (fn : BitVec 3) (i : BitVec 12) : fld (lowI fn i) 12 3 = fn := by
  change @fld (3 + 12) (fn ++ i) 12 3 = fn
  rw [fld_hi _ _ _ _ (by decide)]
  exact fld_all _

@[simp] theorem lowI_i (fn : BitVec 3) (i : BitVec 12) : fld (lowI fn i) 0 12 = i := by
  change @fld (3 + 12) (fn ++ i) 0 12 = i
  rw [fld_lo _ _ _ _ (by decide)]
  exact fld_all _

theorem lowI_in (fn : BitVec 3) (i : BitVec 12) (p n : Nat) (h : p + n ≤ 12) : fld (lowI fn i) p n = fld i p n := by
  change @fld (3 + 12) (fn ++ i) p n = _
  rw [fld_lo _ _ _ _ h]

theorem lowX_in (c op : BitVec 5) (p n : Nat) (h : 5 ≤ p) : fld (lowX c op) p n = fld c (p - 5) n := by
  change @fld (5 + 5) (c ++ op) p n = _
  rw [fld_hi _ _ _ _ h]

theorem shape_t (maj : BitVec 6) (k : Bool) (d b : BitVec 5) (t : Bool) (g : BitVec 2) (low : BitVec 10) :
    bit (formR maj k d (lowShape t g) b low) 17 = t := by
  change (@fld (6 + 1 + 5 + 5 + 5 + 10) (maj ++ BitVec.ofBool k ++ d ++ (0#2 ++ BitVec.ofBool t ++ g : BitVec (2 + 1 + 2)) ++ b ++ low) 17 1 == 1#1) = t
  rw [fld_hi _ _ _ _ (by decide), fld_hi _ _ _ _ (by decide), fld_lo _ _ _ _ (by decide), fld_hi _ _ _ _ (by decide), fld_lo _ _ _ _ (by decide)]
  exact (congrArg (· == 1#1) (fld_all _)).trans (ofBool_bit _)

theorem shape_g (maj : BitVec 6) (k : Bool) (d b : BitVec 5) (t : Bool) (g : BitVec 2) (low : BitVec 10) :
    fld (formR maj k d (lowShape t g) b low) 15 2 = g := by
  change @fld (6 + 1 + 5 + 5 + 5 + 10) (maj ++ BitVec.ofBool k ++ d ++ (0#2 ++ BitVec.ofBool t ++ g : BitVec (2 + 1 + 2)) ++ b ++ low) 15 2 = g
  rw [fld_hi _ _ _ _ (by decide), fld_hi _ _ _ _ (by decide), fld_lo _ _ _ _ (by decide), fld_lo _ _ _ _ (by decide)]
  exact fld_all _

theorem raw_add (d a b : BitVec 5) (w : Bool) : rawDecode (encode (.add d a b w)) = some (.add d a b w) := by
  simp [encode, rawDecode, rawMajor01, formR_in, formR_bit, formI_in, formI_bit, lowI_in, lowX_in, fld_lo, fld_hi, fld_all, fld_pad]

theorem raw_sub (d a b : BitVec 5) (w : Bool) : rawDecode (encode (.sub d a b w)) = some (.sub d a b w) := by
  simp [encode, rawDecode, rawMajor01, formR_in, formR_bit, formI_in, formI_bit, lowI_in, lowX_in, fld_lo, fld_hi, fld_all, fld_pad]

theorem raw_and (d a b : BitVec 5) : rawDecode (encode (.and d a b)) = some (.and d a b) := by
  simp [encode, rawDecode, rawMajor01, formR_in, formR_bit, formI_in, formI_bit, lowI_in, lowX_in, fld_lo, fld_hi, fld_all, fld_pad]

theorem raw_or (d a b : BitVec 5) : rawDecode (encode (.or d a b)) = some (.or d a b) := by
  simp [encode, rawDecode, rawMajor01, formR_in, formR_bit, formI_in, formI_bit, lowI_in, lowX_in, fld_lo, fld_hi, fld_all, fld_pad]

theorem raw_xor (d a b : BitVec 5) : rawDecode (encode (.xor d a b)) = some (.xor d a b) := by
  simp [encode, rawDecode, rawMajor01, formR_in, formR_bit, formI_in, formI_bit, lowI_in, lowX_in, fld_lo, fld_hi, fld_all, fld_pad]

theorem raw_andn (d a b : BitVec 5) : rawDecode (encode (.andn d a b)) = some (.andn d a b) := by
  simp [encode, rawDecode, rawMajor01, formR_in, formR_bit, formI_in, formI_bit, lowI_in, lowX_in, fld_lo, fld_hi, fld_all, fld_pad]

theorem raw_sll (d a b : BitVec 5) (w : Bool) : rawDecode (encode (.sll d a b w)) = some (.sll d a b w) := by
  simp [encode, rawDecode, rawMajor01, formR_in, formR_bit, formI_in, formI_bit, lowI_in, lowX_in, fld_lo, fld_hi, fld_all, fld_pad]

theorem raw_srl (d a b : BitVec 5) (w : Bool) : rawDecode (encode (.srl d a b w)) = some (.srl d a b w) := by
  simp [encode, rawDecode, rawMajor01, formR_in, formR_bit, formI_in, formI_bit, lowI_in, lowX_in, fld_lo, fld_hi, fld_all, fld_pad]

theorem raw_sra (d a b : BitVec 5) (w : Bool) : rawDecode (encode (.sra d a b w)) = some (.sra d a b w) := by
  simp [encode, rawDecode, rawMajor01, formR_in, formR_bit, formI_in, formI_bit, lowI_in, lowX_in, fld_lo, fld_hi, fld_all, fld_pad]

theorem raw_slt (d a b : BitVec 5) : rawDecode (encode (.slt d a b)) = some (.slt d a b) := by
  simp [encode, rawDecode, rawMajor01, formR_in, formR_bit, formI_in, formI_bit, lowI_in, lowX_in, fld_lo, fld_hi, fld_all, fld_pad]

theorem raw_sltu (d a b : BitVec 5) : rawDecode (encode (.sltu d a b)) = some (.sltu d a b) := by
  simp [encode, rawDecode, rawMajor01, formR_in, formR_bit, formI_in, formI_bit, lowI_in, lowX_in, fld_lo, fld_hi, fld_all, fld_pad]

theorem raw_min (d a b : BitVec 5) : rawDecode (encode (.min d a b)) = some (.min d a b) := by
  simp [encode, rawDecode, rawMajor01, formR_in, formR_bit, formI_in, formI_bit, lowI_in, lowX_in, fld_lo, fld_hi, fld_all, fld_pad]

theorem raw_max (d a b : BitVec 5) : rawDecode (encode (.max d a b)) = some (.max d a b) := by
  simp [encode, rawDecode, rawMajor01, formR_in, formR_bit, formI_in, formI_bit, lowI_in, lowX_in, fld_lo, fld_hi, fld_all, fld_pad]

theorem raw_minu (d a b : BitVec 5) : rawDecode (encode (.minu d a b)) = some (.minu d a b) := by
  simp [encode, rawDecode, rawMajor01, formR_in, formR_bit, formI_in, formI_bit, lowI_in, lowX_in, fld_lo, fld_hi, fld_all, fld_pad]

theorem raw_maxu (d a b : BitVec 5) : rawDecode (encode (.maxu d a b)) = some (.maxu d a b) := by
  simp [encode, rawDecode, rawMajor01, formR_in, formR_bit, formI_in, formI_bit, lowI_in, lowX_in, fld_lo, fld_hi, fld_all, fld_pad]

theorem raw_mul (d a b : BitVec 5) (w : Bool) : rawDecode (encode (.mul d a b w)) = some (.mul d a b w) := by
  simp [encode, rawDecode, rawMajor01, formR_in, formR_bit, formI_in, formI_bit, lowI_in, lowX_in, fld_lo, fld_hi, fld_all, fld_pad]

theorem raw_mulh (d a b : BitVec 5) : rawDecode (encode (.mulh d a b)) = some (.mulh d a b) := by
  simp [encode, rawDecode, rawMajor01, formR_in, formR_bit, formI_in, formI_bit, lowI_in, lowX_in, fld_lo, fld_hi, fld_all, fld_pad]

theorem raw_mulhu (d a b : BitVec 5) : rawDecode (encode (.mulhu d a b)) = some (.mulhu d a b) := by
  simp [encode, rawDecode, rawMajor01, formR_in, formR_bit, formI_in, formI_bit, lowI_in, lowX_in, fld_lo, fld_hi, fld_all, fld_pad]

theorem raw_div (d a b : BitVec 5) (w : Bool) : rawDecode (encode (.div d a b w)) = some (.div d a b w) := by
  simp [encode, rawDecode, rawMajor01, formR_in, formR_bit, formI_in, formI_bit, lowI_in, lowX_in, fld_lo, fld_hi, fld_all, fld_pad]

theorem raw_divu (d a b : BitVec 5) (w : Bool) : rawDecode (encode (.divu d a b w)) = some (.divu d a b w) := by
  simp [encode, rawDecode, rawMajor01, formR_in, formR_bit, formI_in, formI_bit, lowI_in, lowX_in, fld_lo, fld_hi, fld_all, fld_pad]

theorem raw_rem (d a b : BitVec 5) (w : Bool) : rawDecode (encode (.rem d a b w)) = some (.rem d a b w) := by
  simp [encode, rawDecode, rawMajor01, formR_in, formR_bit, formI_in, formI_bit, lowI_in, lowX_in, fld_lo, fld_hi, fld_all, fld_pad]

theorem raw_remu (d a b : BitVec 5) (w : Bool) : rawDecode (encode (.remu d a b w)) = some (.remu d a b w) := by
  simp [encode, rawDecode, rawMajor01, formR_in, formR_bit, formI_in, formI_bit, lowI_in, lowX_in, fld_lo, fld_hi, fld_all, fld_pad]

theorem raw_clz (d a : BitVec 5) (w : Bool) : rawDecode (encode (.clz d a w)) = some (.clz d a w) := by
  simp [encode, rawDecode, rawMajor01, formR_in, formR_bit, formI_in, formI_bit, lowI_in, lowX_in, fld_lo, fld_hi, fld_all, fld_pad]

theorem raw_popc (d a : BitVec 5) (w : Bool) : rawDecode (encode (.popc d a w)) = some (.popc d a w) := by
  simp [encode, rawDecode, rawMajor01, formR_in, formR_bit, formI_in, formI_bit, lowI_in, lowX_in, fld_lo, fld_hi, fld_all, fld_pad]

theorem raw_addi (d a : BitVec 5) (i : BitVec 12) : rawDecode (encode (.addi d a i)) = some (.addi d a i) := by
  simp [encode, rawDecode, rawMajor02, formR_in, formR_bit, formI_in, formI_bit, lowI_in, lowX_in, fld_lo, fld_hi, fld_all, fld_pad]

theorem raw_andi (d a : BitVec 5) (i : BitVec 12) : rawDecode (encode (.andi d a i)) = some (.andi d a i) := by
  simp [encode, rawDecode, rawMajor02, formR_in, formR_bit, formI_in, formI_bit, lowI_in, lowX_in, fld_lo, fld_hi, fld_all, fld_pad]

theorem raw_ori (d a : BitVec 5) (i : BitVec 12) : rawDecode (encode (.ori d a i)) = some (.ori d a i) := by
  simp [encode, rawDecode, rawMajor02, formR_in, formR_bit, formI_in, formI_bit, lowI_in, lowX_in, fld_lo, fld_hi, fld_all, fld_pad]

theorem raw_xori (d a : BitVec 5) (i : BitVec 12) : rawDecode (encode (.xori d a i)) = some (.xori d a i) := by
  simp [encode, rawDecode, rawMajor02, formR_in, formR_bit, formI_in, formI_bit, lowI_in, lowX_in, fld_lo, fld_hi, fld_all, fld_pad]

theorem raw_slti (d a : BitVec 5) (i : BitVec 12) : rawDecode (encode (.slti d a i)) = some (.slti d a i) := by
  simp [encode, rawDecode, rawMajor02, formR_in, formR_bit, formI_in, formI_bit, lowI_in, lowX_in, fld_lo, fld_hi, fld_all, fld_pad]

theorem raw_slli (d a : BitVec 5) (s : BitVec 6) : rawDecode (encode (.slli d a s)) = some (.slli d a s) := by
  simp [encode, rawDecode, rawMajor02, formR_in, formR_bit, formI_in, formI_bit, lowI_in, lowX_in, fld_lo, fld_hi, fld_all, fld_pad]

theorem raw_srli (d a : BitVec 5) (s : BitVec 6) : rawDecode (encode (.srli d a s)) = some (.srli d a s) := by
  simp [encode, rawDecode, rawMajor02, formR_in, formR_bit, formI_in, formI_bit, lowI_in, lowX_in, fld_lo, fld_hi, fld_all, fld_pad]

theorem raw_srai (d a : BitVec 5) (s : BitVec 6) : rawDecode (encode (.srai d a s)) = some (.srai d a s) := by
  simp [encode, rawDecode, rawMajor02, formR_in, formR_bit, formI_in, formI_bit, lowI_in, lowX_in, fld_lo, fld_hi, fld_all, fld_pad]

theorem raw_lui (d : BitVec 5) (i : BitVec 20) : rawDecode (encode (.lui d i)) = some (.lui d i) := by
  simp [encode, rawDecode, formR_in, formR_bit, formI_in, formI_bit, lowI_in, lowX_in, fld_lo, fld_hi, fld_all, fld_pad]

theorem raw_auipc (d : BitVec 5) (i : BitVec 20) : rawDecode (encode (.auipc d i)) = some (.auipc d i) := by
  simp [encode, rawDecode, formR_in, formR_bit, formI_in, formI_bit, lowI_in, lowX_in, fld_lo, fld_hi, fld_all, fld_pad]

theorem raw_ldB (d a : BitVec 5) (i : BitVec 12) : rawDecode (encode (.ldB d a i)) = some (.ldB d a i) := by
  simp [encode, rawDecode, rawMajor05, formR_in, formR_bit, formI_in, formI_bit, lowI_in, lowX_in, fld_lo, fld_hi, fld_all, fld_pad]

theorem raw_ldH (d a : BitVec 5) (i : BitVec 12) : rawDecode (encode (.ldH d a i)) = some (.ldH d a i) := by
  simp [encode, rawDecode, rawMajor05, formR_in, formR_bit, formI_in, formI_bit, lowI_in, lowX_in, fld_lo, fld_hi, fld_all, fld_pad]

theorem raw_ldW (d a : BitVec 5) (i : BitVec 12) : rawDecode (encode (.ldW d a i)) = some (.ldW d a i) := by
  simp [encode, rawDecode, rawMajor05, formR_in, formR_bit, formI_in, formI_bit, lowI_in, lowX_in, fld_lo, fld_hi, fld_all, fld_pad]

theorem raw_ldD (d a : BitVec 5) (i : BitVec 12) : rawDecode (encode (.ldD d a i)) = some (.ldD d a i) := by
  simp [encode, rawDecode, rawMajor05, formR_in, formR_bit, formI_in, formI_bit, lowI_in, lowX_in, fld_lo, fld_hi, fld_all, fld_pad]

theorem raw_ldBu (d a : BitVec 5) (i : BitVec 12) : rawDecode (encode (.ldBu d a i)) = some (.ldBu d a i) := by
  simp [encode, rawDecode, rawMajor05, formR_in, formR_bit, formI_in, formI_bit, lowI_in, lowX_in, fld_lo, fld_hi, fld_all, fld_pad]

theorem raw_ldHu (d a : BitVec 5) (i : BitVec 12) : rawDecode (encode (.ldHu d a i)) = some (.ldHu d a i) := by
  simp [encode, rawDecode, rawMajor05, formR_in, formR_bit, formI_in, formI_bit, lowI_in, lowX_in, fld_lo, fld_hi, fld_all, fld_pad]

theorem raw_ldWu (d a : BitVec 5) (i : BitVec 12) : rawDecode (encode (.ldWu d a i)) = some (.ldWu d a i) := by
  simp [encode, rawDecode, rawMajor05, formR_in, formR_bit, formI_in, formI_bit, lowI_in, lowX_in, fld_lo, fld_hi, fld_all, fld_pad]

theorem raw_stB (b a : BitVec 5) (i : BitVec 12) : rawDecode (encode (.stB b a i)) = some (.stB b a i) := by
  simp [encode, rawDecode, rawMajor06, formR_in, formR_bit, formI_in, formI_bit, lowI_in, lowX_in, fld_lo, fld_hi, fld_all, fld_pad]

theorem raw_stH (b a : BitVec 5) (i : BitVec 12) : rawDecode (encode (.stH b a i)) = some (.stH b a i) := by
  simp [encode, rawDecode, rawMajor06, formR_in, formR_bit, formI_in, formI_bit, lowI_in, lowX_in, fld_lo, fld_hi, fld_all, fld_pad]

theorem raw_stW (b a : BitVec 5) (i : BitVec 12) : rawDecode (encode (.stW b a i)) = some (.stW b a i) := by
  simp [encode, rawDecode, rawMajor06, formR_in, formR_bit, formI_in, formI_bit, lowI_in, lowX_in, fld_lo, fld_hi, fld_all, fld_pad]

theorem raw_stD (b a : BitVec 5) (i : BitVec 12) : rawDecode (encode (.stD b a i)) = some (.stD b a i) := by
  simp [encode, rawDecode, rawMajor06, formR_in, formR_bit, formI_in, formI_bit, lowI_in, lowX_in, fld_lo, fld_hi, fld_all, fld_pad]

theorem raw_beq (a b : BitVec 5) (i : BitVec 12) : rawDecode (encode (.beq a b i)) = some (.beq a b i) := by
  simp [encode, rawDecode, rawMajor07, formR_in, formR_bit, formI_in, formI_bit, lowI_in, lowX_in, fld_lo, fld_hi, fld_all, fld_pad]

theorem raw_bne (a b : BitVec 5) (i : BitVec 12) : rawDecode (encode (.bne a b i)) = some (.bne a b i) := by
  simp [encode, rawDecode, rawMajor07, formR_in, formR_bit, formI_in, formI_bit, lowI_in, lowX_in, fld_lo, fld_hi, fld_all, fld_pad]

theorem raw_blt (a b : BitVec 5) (i : BitVec 12) : rawDecode (encode (.blt a b i)) = some (.blt a b i) := by
  simp [encode, rawDecode, rawMajor07, formR_in, formR_bit, formI_in, formI_bit, lowI_in, lowX_in, fld_lo, fld_hi, fld_all, fld_pad]

theorem raw_bge (a b : BitVec 5) (i : BitVec 12) : rawDecode (encode (.bge a b i)) = some (.bge a b i) := by
  simp [encode, rawDecode, rawMajor07, formR_in, formR_bit, formI_in, formI_bit, lowI_in, lowX_in, fld_lo, fld_hi, fld_all, fld_pad]

theorem raw_bltu (a b : BitVec 5) (i : BitVec 12) : rawDecode (encode (.bltu a b i)) = some (.bltu a b i) := by
  simp [encode, rawDecode, rawMajor07, formR_in, formR_bit, formI_in, formI_bit, lowI_in, lowX_in, fld_lo, fld_hi, fld_all, fld_pad]

theorem raw_bgeu (a b : BitVec 5) (i : BitVec 12) : rawDecode (encode (.bgeu a b i)) = some (.bgeu a b i) := by
  simp [encode, rawDecode, rawMajor07, formR_in, formR_bit, formI_in, formI_bit, lowI_in, lowX_in, fld_lo, fld_hi, fld_all, fld_pad]

theorem raw_jal (d : BitVec 5) (i : BitVec 20) : rawDecode (encode (.jal d i)) = some (.jal d i) := by
  simp [encode, rawDecode, formR_in, formR_bit, formI_in, formI_bit, lowI_in, lowX_in, fld_lo, fld_hi, fld_all, fld_pad]

theorem raw_jalr (d a : BitVec 5) (i : BitVec 15) : rawDecode (encode (.jalr d a i)) = some (.jalr d a i) := by
  simp [encode, rawDecode, formR_in, formR_bit, formI_in, formI_bit, lowI_in, lowX_in, fld_lo, fld_hi, fld_all, fld_pad]

theorem raw_fadd (d a b : BitVec 5) (f : BitVec 2) (rm : BitVec 3) : rawDecode (encode (.fadd d a b f rm)) = some (.fadd d a b f rm) := by
  simp [encode, rawDecode, rawMajor0A, formR_in, formR_bit, formI_in, formI_bit, lowI_in, lowX_in, fld_lo, fld_hi, fld_all, fld_pad]

theorem raw_fsub (d a b : BitVec 5) (f : BitVec 2) (rm : BitVec 3) : rawDecode (encode (.fsub d a b f rm)) = some (.fsub d a b f rm) := by
  simp [encode, rawDecode, rawMajor0A, formR_in, formR_bit, formI_in, formI_bit, lowI_in, lowX_in, fld_lo, fld_hi, fld_all, fld_pad]

theorem raw_fmul (d a b : BitVec 5) (f : BitVec 2) (rm : BitVec 3) : rawDecode (encode (.fmul d a b f rm)) = some (.fmul d a b f rm) := by
  simp [encode, rawDecode, rawMajor0A, formR_in, formR_bit, formI_in, formI_bit, lowI_in, lowX_in, fld_lo, fld_hi, fld_all, fld_pad]

theorem raw_fdiv (d a b : BitVec 5) (f : BitVec 2) (rm : BitVec 3) : rawDecode (encode (.fdiv d a b f rm)) = some (.fdiv d a b f rm) := by
  simp [encode, rawDecode, rawMajor0A, formR_in, formR_bit, formI_in, formI_bit, lowI_in, lowX_in, fld_lo, fld_hi, fld_all, fld_pad]

theorem raw_fsqrt (d a : BitVec 5) (f : BitVec 2) (rm : BitVec 3) : rawDecode (encode (.fsqrt d a f rm)) = some (.fsqrt d a f rm) := by
  simp [encode, rawDecode, rawMajor0A, formR_in, formR_bit, formI_in, formI_bit, lowI_in, lowX_in, fld_lo, fld_hi, fld_all, fld_pad]

theorem raw_fmin (d a b : BitVec 5) (f : BitVec 2) : rawDecode (encode (.fmin d a b f)) = some (.fmin d a b f) := by
  simp [encode, rawDecode, rawMajor0A, formR_in, formR_bit, formI_in, formI_bit, lowI_in, lowX_in, fld_lo, fld_hi, fld_all, fld_pad]

theorem raw_fmax (d a b : BitVec 5) (f : BitVec 2) : rawDecode (encode (.fmax d a b f)) = some (.fmax d a b f) := by
  simp [encode, rawDecode, rawMajor0A, formR_in, formR_bit, formI_in, formI_bit, lowI_in, lowX_in, fld_lo, fld_hi, fld_all, fld_pad]

theorem raw_fma (d a b : BitVec 5) (f : BitVec 2) (rm : BitVec 3) : rawDecode (encode (.fma d a b f rm)) = some (.fma d a b f rm) := by
  simp [encode, rawDecode, rawMajor0A, formR_in, formR_bit, formI_in, formI_bit, lowI_in, lowX_in, fld_lo, fld_hi, fld_all, fld_pad]

theorem raw_feq (d a b : BitVec 5) (f : BitVec 2) : rawDecode (encode (.feq d a b f)) = some (.feq d a b f) := by
  simp [encode, rawDecode, rawMajor0A, formR_in, formR_bit, formI_in, formI_bit, lowI_in, lowX_in, fld_lo, fld_hi, fld_all, fld_pad]

theorem raw_flt (d a b : BitVec 5) (f : BitVec 2) : rawDecode (encode (.flt d a b f)) = some (.flt d a b f) := by
  simp [encode, rawDecode, rawMajor0A, formR_in, formR_bit, formI_in, formI_bit, lowI_in, lowX_in, fld_lo, fld_hi, fld_all, fld_pad]

theorem raw_fle (d a b : BitVec 5) (f : BitVec 2) : rawDecode (encode (.fle d a b f)) = some (.fle d a b f) := by
  simp [encode, rawDecode, rawMajor0A, formR_in, formR_bit, formI_in, formI_bit, lowI_in, lowX_in, fld_lo, fld_hi, fld_all, fld_pad]

theorem raw_fclass (d a : BitVec 5) (f : BitVec 2) : rawDecode (encode (.fclass d a f)) = some (.fclass d a f) := by
  simp [encode, rawDecode, rawMajor0A, formR_in, formR_bit, formI_in, formI_bit, lowI_in, lowX_in, fld_lo, fld_hi, fld_all, fld_pad]

theorem raw_fcvtI (d a kind : BitVec 5) (f : BitVec 2) (rm : BitVec 3) : rawDecode (encode (.fcvtI d a kind f rm)) = some (.fcvtI d a kind f rm) := by
  simp [encode, rawDecode, rawMajor0A, formR_in, formR_bit, formI_in, formI_bit, lowI_in, lowX_in, fld_lo, fld_hi, fld_all, fld_pad]

theorem raw_fcvtF (d a kind : BitVec 5) (f : BitVec 2) (rm : BitVec 3) : rawDecode (encode (.fcvtF d a kind f rm)) = some (.fcvtF d a kind f rm) := by
  simp [encode, rawDecode, rawMajor0A, formR_in, formR_bit, formI_in, formI_bit, lowI_in, lowX_in, fld_lo, fld_hi, fld_all, fld_pad]

theorem raw_fcvt (d a kind : BitVec 5) (f : BitVec 2) (rm : BitVec 3) : rawDecode (encode (.fcvt d a kind f rm)) = some (.fcvt d a kind f rm) := by
  simp [encode, rawDecode, rawMajor0A, formR_in, formR_bit, formI_in, formI_bit, lowI_in, lowX_in, fld_lo, fld_hi, fld_all, fld_pad]

theorem raw_fsgnj (d a b : BitVec 5) (f : BitVec 2) : rawDecode (encode (.fsgnj d a b f)) = some (.fsgnj d a b f) := by
  simp [encode, rawDecode, rawMajor0A, formR_in, formR_bit, formI_in, formI_bit, lowI_in, lowX_in, fld_lo, fld_hi, fld_all, fld_pad]

theorem raw_ldAcq (d a : BitVec 5) (s : BitVec 3) (w : Bool) : rawDecode (encode (.ldAcq d a s w)) = some (.ldAcq d a s w) := by
  simp [encode, rawDecode, rawMajor0B, formR_in, formR_bit, formI_in, formI_bit, lowI_in, lowX_in, fld_lo, fld_hi, fld_all, fld_pad]

theorem raw_stRel (a b : BitVec 5) (s : BitVec 3) (w : Bool) : rawDecode (encode (.stRel a b s w)) = some (.stRel a b s w) := by
  simp [encode, rawDecode, rawMajor0B, formR_in, formR_bit, formI_in, formI_bit, lowI_in, lowX_in, fld_lo, fld_hi, fld_all, fld_pad]

theorem raw_amoAdd (d a b : BitVec 5) (s : BitVec 3) (w : Bool) : rawDecode (encode (.amoAdd d a b s w)) = some (.amoAdd d a b s w) := by
  simp [encode, rawDecode, rawMajor0B, formR_in, formR_bit, formI_in, formI_bit, lowI_in, lowX_in, fld_lo, fld_hi, fld_all, fld_pad]

theorem raw_amoAnd (d a b : BitVec 5) (s : BitVec 3) (w : Bool) : rawDecode (encode (.amoAnd d a b s w)) = some (.amoAnd d a b s w) := by
  simp [encode, rawDecode, rawMajor0B, formR_in, formR_bit, formI_in, formI_bit, lowI_in, lowX_in, fld_lo, fld_hi, fld_all, fld_pad]

theorem raw_amoOr (d a b : BitVec 5) (s : BitVec 3) (w : Bool) : rawDecode (encode (.amoOr d a b s w)) = some (.amoOr d a b s w) := by
  simp [encode, rawDecode, rawMajor0B, formR_in, formR_bit, formI_in, formI_bit, lowI_in, lowX_in, fld_lo, fld_hi, fld_all, fld_pad]

theorem raw_amoXor (d a b : BitVec 5) (s : BitVec 3) (w : Bool) : rawDecode (encode (.amoXor d a b s w)) = some (.amoXor d a b s w) := by
  simp [encode, rawDecode, rawMajor0B, formR_in, formR_bit, formI_in, formI_bit, lowI_in, lowX_in, fld_lo, fld_hi, fld_all, fld_pad]

theorem raw_amoMin (d a b : BitVec 5) (s : BitVec 3) (w : Bool) : rawDecode (encode (.amoMin d a b s w)) = some (.amoMin d a b s w) := by
  simp [encode, rawDecode, rawMajor0B, formR_in, formR_bit, formI_in, formI_bit, lowI_in, lowX_in, fld_lo, fld_hi, fld_all, fld_pad]

theorem raw_amoMax (d a b : BitVec 5) (s : BitVec 3) (w : Bool) : rawDecode (encode (.amoMax d a b s w)) = some (.amoMax d a b s w) := by
  simp [encode, rawDecode, rawMajor0B, formR_in, formR_bit, formI_in, formI_bit, lowI_in, lowX_in, fld_lo, fld_hi, fld_all, fld_pad]

theorem raw_amoMinu (d a b : BitVec 5) (s : BitVec 3) (w : Bool) : rawDecode (encode (.amoMinu d a b s w)) = some (.amoMinu d a b s w) := by
  simp [encode, rawDecode, rawMajor0B, formR_in, formR_bit, formI_in, formI_bit, lowI_in, lowX_in, fld_lo, fld_hi, fld_all, fld_pad]

theorem raw_amoMaxu (d a b : BitVec 5) (s : BitVec 3) (w : Bool) : rawDecode (encode (.amoMaxu d a b s w)) = some (.amoMaxu d a b s w) := by
  simp [encode, rawDecode, rawMajor0B, formR_in, formR_bit, formI_in, formI_bit, lowI_in, lowX_in, fld_lo, fld_hi, fld_all, fld_pad]

theorem raw_amoSwap (d a b : BitVec 5) (s : BitVec 3) (w : Bool) : rawDecode (encode (.amoSwap d a b s w)) = some (.amoSwap d a b s w) := by
  simp [encode, rawDecode, rawMajor0B, formR_in, formR_bit, formI_in, formI_bit, lowI_in, lowX_in, fld_lo, fld_hi, fld_all, fld_pad]

theorem raw_amoCas (d a b : BitVec 5) (s : BitVec 3) (w : Bool) : rawDecode (encode (.amoCas d a b s w)) = some (.amoCas d a b s w) := by
  simp [encode, rawDecode, rawMajor0B, formR_in, formR_bit, formI_in, formI_bit, lowI_in, lowX_in, fld_lo, fld_hi, fld_all, fld_pad]

theorem raw_amoFmax (d a b : BitVec 5) (s : BitVec 3) : rawDecode (encode (.amoFmax d a b s)) = some (.amoFmax d a b s) := by
  simp [encode, rawDecode, rawMajor0B, formR_in, formR_bit, formI_in, formI_bit, lowI_in, lowX_in, fld_lo, fld_hi, fld_all, fld_pad]

theorem raw_fence (s : BitVec 3) : rawDecode (encode (.fence s)) = some (.fence s) := by
  simp [encode, rawDecode, rawMajor0C, formR_in, formR_bit, formI_in, formI_bit, lowI_in, lowX_in, fld_lo, fld_hi, fld_all, fld_pad]

theorem raw_scommit : rawDecode (encode (.scommit)) = some (.scommit) := by
  simp [encode, rawDecode, rawMajor0C, formR_in, formR_bit, formI_in, formI_bit, lowI_in, lowX_in, fld_lo, fld_hi, fld_all, fld_pad]

theorem raw_bar (d a : BitVec 5) (s : BitVec 3) : rawDecode (encode (.bar d a s)) = some (.bar d a s) := by
  simp [encode, rawDecode, rawMajor0C, formR_in, formR_bit, formI_in, formI_bit, lowI_in, lowX_in, fld_lo, fld_hi, fld_all, fld_pad]

theorem raw_bararr (d a : BitVec 5) (s : BitVec 3) : rawDecode (encode (.bararr d a s)) = some (.bararr d a s) := by
  simp [encode, rawDecode, rawMajor0C, formR_in, formR_bit, formI_in, formI_bit, lowI_in, lowX_in, fld_lo, fld_hi, fld_all, fld_pad]

theorem raw_barwait (a b : BitVec 5) (s : BitVec 3) : rawDecode (encode (.barwait a b s)) = some (.barwait a b s) := by
  simp [encode, rawDecode, rawMajor0C, formR_in, formR_bit, formI_in, formI_bit, lowI_in, lowX_in, fld_lo, fld_hi, fld_all, fld_pad]

theorem raw_claim (d a b : BitVec 5) (s : BitVec 3) : rawDecode (encode (.claim d a b s)) = some (.claim d a b s) := by
  simp [encode, rawDecode, rawMajor0C, formR_in, formR_bit, formI_in, formI_bit, lowI_in, lowX_in, fld_lo, fld_hi, fld_all, fld_pad]

theorem raw_waitt (d a : BitVec 5) : rawDecode (encode (.waitt d a)) = some (.waitt d a) := by
  simp [encode, rawDecode, rawMajor0C, formR_in, formR_bit, formI_in, formI_bit, lowI_in, lowX_in, fld_lo, fld_hi, fld_all, fld_pad]

theorem raw_sendt (a b : BitVec 5) : rawDecode (encode (.sendt a b)) = some (.sendt a b) := by
  simp [encode, rawDecode, rawMajor0C, formR_in, formR_bit, formI_in, formI_bit, lowI_in, lowX_in, fld_lo, fld_hi, fld_all, fld_pad]

theorem raw_recvchk (d a : BitVec 5) : rawDecode (encode (.recvchk d a)) = some (.recvchk d a) := by
  simp [encode, rawDecode, rawMajor0C, formR_in, formR_bit, formI_in, formI_bit, lowI_in, lowX_in, fld_lo, fld_hi, fld_all, fld_pad]

theorem raw_waitaddr (d a b : BitVec 5) (s : BitVec 3) : rawDecode (encode (.waitaddr d a b s)) = some (.waitaddr d a b s) := by
  simp [encode, rawDecode, rawMajor0C, formR_in, formR_bit, formI_in, formI_bit, lowI_in, lowX_in, fld_lo, fld_hi, fld_all, fld_pad]

theorem raw_yield : rawDecode (encode (.yield)) = some (.yield) := by
  simp [encode, rawDecode, rawMajor0C, formR_in, formR_bit, formI_in, formI_bit, lowI_in, lowX_in, fld_lo, fld_hi, fld_all, fld_pad]

theorem raw_launch (d a : BitVec 5) : rawDecode (encode (.launch d a)) = some (.launch d a) := by
  simp [encode, rawDecode, rawMajor0C, formR_in, formR_bit, formI_in, formI_bit, lowI_in, lowX_in, fld_lo, fld_hi, fld_all, fld_pad]

theorem raw_xinv (a b : BitVec 5) (s : BitVec 3) : rawDecode (encode (.xinv a b s)) = some (.xinv a b s) := by
  simp [encode, rawDecode, rawMajor0C, formR_in, formR_bit, formI_in, formI_bit, lowI_in, lowX_in, fld_lo, fld_hi, fld_all, fld_pad]

theorem raw_csrr (d : BitVec 5) (c : BitVec 12) : rawDecode (encode (.csrr d c)) = some (.csrr d c) := by
  simp [encode, rawDecode, rawMajor0D, formR_in, formR_bit, formI_in, formI_bit, lowI_in, lowX_in, fld_lo, fld_hi, fld_all, fld_pad]

theorem raw_csrw (d a : BitVec 5) (c : BitVec 12) : rawDecode (encode (.csrw d a c)) = some (.csrw d a c) := by
  simp [encode, rawDecode, rawMajor0D, formR_in, formR_bit, formI_in, formI_bit, lowI_in, lowX_in, fld_lo, fld_hi, fld_all, fld_pad]

theorem raw_csrs (d a : BitVec 5) (c : BitVec 12) : rawDecode (encode (.csrs d a c)) = some (.csrs d a c) := by
  simp [encode, rawDecode, rawMajor0D, formR_in, formR_bit, formI_in, formI_bit, lowI_in, lowX_in, fld_lo, fld_hi, fld_all, fld_pad]

theorem raw_csrc (d a : BitVec 5) (c : BitVec 12) : rawDecode (encode (.csrc d a c)) = some (.csrc d a c) := by
  simp [encode, rawDecode, rawMajor0D, formR_in, formR_bit, formI_in, formI_bit, lowI_in, lowX_in, fld_lo, fld_hi, fld_all, fld_pad]

theorem raw_trap (a : BitVec 5) (i : BitVec 12) : rawDecode (encode (.trap a i)) = some (.trap a i) := by
  simp [encode, rawDecode, rawMajor0D, formR_in, formR_bit, formI_in, formI_bit, lowI_in, lowX_in, fld_lo, fld_hi, fld_all, fld_pad]

theorem raw_tret : rawDecode (encode (.tret)) = some (.tret) := by
  simp [encode, rawDecode, rawMajor0D, formR_in, formR_bit, formI_in, formI_bit, lowI_in, lowX_in, fld_lo, fld_hi, fld_all, fld_pad]

theorem raw_vsave (d a : BitVec 5) : rawDecode (encode (.vsave d a)) = some (.vsave d a) := by
  simp [encode, rawDecode, rawMajor0D, formR_in, formR_bit, formI_in, formI_bit, lowI_in, lowX_in, fld_lo, fld_hi, fld_all, fld_pad]

theorem raw_vrestore (d a : BitVec 5) : rawDecode (encode (.vrestore d a)) = some (.vrestore d a) := by
  simp [encode, rawDecode, rawMajor0D, formR_in, formR_bit, formI_in, formI_bit, lowI_in, lowX_in, fld_lo, fld_hi, fld_all, fld_pad]

theorem raw_scrub (d a : BitVec 5) : rawDecode (encode (.scrub d a)) = some (.scrub d a) := by
  simp [encode, rawDecode, rawMajor0D, formR_in, formR_bit, formI_in, formI_bit, lowI_in, lowX_in, fld_lo, fld_hi, fld_all, fld_pad]

theorem raw_ctxkill (d a : BitVec 5) : rawDecode (encode (.ctxkill d a)) = some (.ctxkill d a) := by
  simp [encode, rawDecode, rawMajor0D, formR_in, formR_bit, formI_in, formI_bit, lowI_in, lowX_in, fld_lo, fld_hi, fld_all, fld_pad]

theorem raw_setown (d a : BitVec 5) : rawDecode (encode (.setown d a)) = some (.setown d a) := by
  simp [encode, rawDecode, rawMajor0D, formR_in, formR_bit, formI_in, formI_bit, lowI_in, lowX_in, fld_lo, fld_hi, fld_all, fld_pad]

theorem raw_vdecl (d a : BitVec 5) : rawDecode (encode (.vdecl d a)) = some (.vdecl d a) := by
  simp [encode, rawDecode, rawMajor10, formR_in, formR_bit, formI_in, formI_bit, lowI_in, lowX_in, fld_lo, fld_hi, fld_all, fld_pad]

theorem raw_setvl (d a b : BitVec 5) : rawDecode (encode (.setvl d a b)) = some (.setvl d a b) := by
  simp [encode, rawDecode, rawMajor10, formR_in, formR_bit, formI_in, formI_bit, lowI_in, lowX_in, fld_lo, fld_hi, fld_all, fld_pad]

theorem raw_vtag (d t b : BitVec 5) : rawDecode (encode (.vtag d t b)) = some (.vtag d t b) := by
  simp [encode, rawDecode, rawMajor10, formR_in, formR_bit, formI_in, formI_bit, lowI_in, lowX_in, fld_lo, fld_hi, fld_all, fld_pad]

theorem raw_vshape (t : Bool) (g : BitVec 2) : rawDecode (encode (.vshape t g)) = some (.vshape t g) := by
  simp [encode, rawDecode, rawMajor10, formR_in, formR_bit, formI_in, formI_bit, lowI_in, lowX_in, fld_lo, fld_hi, fld_all, fld_pad, shape_t, shape_g]

theorem raw_vmv (k : Bool) (d a : BitVec 5) (e qa : Bool) : rawDecode (encode (.vmv k d a e qa)) = some (.vmv k d a e qa) := by
  simp [encode, rawDecode, rawMajor10, formR_in, formR_bit, formI_in, formI_bit, lowI_in, lowX_in, fld_lo, fld_hi, fld_all, fld_pad]

theorem raw_vbcast (k : Bool) (d a : BitVec 5) (e : Bool) : rawDecode (encode (.vbcast k d a e)) = some (.vbcast k d a e) := by
  simp [encode, rawDecode, rawMajor10, formR_in, formR_bit, formI_in, formI_bit, lowI_in, lowX_in, fld_lo, fld_hi, fld_all, fld_pad]

theorem raw_vid (k : Bool) (d : BitVec 5) (e : Bool) : rawDecode (encode (.vid k d e)) = some (.vid k d e) := by
  simp [encode, rawDecode, rawMajor10, formR_in, formR_bit, formI_in, formI_bit, lowI_in, lowX_in, fld_lo, fld_hi, fld_all, fld_pad]

theorem raw_vidr (k : Bool) (d : BitVec 5) (e : Bool) : rawDecode (encode (.vidr k d e)) = some (.vidr k d e) := by
  simp [encode, rawDecode, rawMajor10, formR_in, formR_bit, formI_in, formI_bit, lowI_in, lowX_in, fld_lo, fld_hi, fld_all, fld_pad]

theorem raw_vxtract (k : Bool) (d a b : BitVec 5) (qa : Bool) : rawDecode (encode (.vxtract k d a b qa)) = some (.vxtract k d a b qa) := by
  simp [encode, rawDecode, rawMajor10, formR_in, formR_bit, formI_in, formI_bit, lowI_in, lowX_in, fld_lo, fld_hi, fld_all, fld_pad]

theorem raw_vinsert (k : Bool) (d a b : BitVec 5) : rawDecode (encode (.vinsert k d a b)) = some (.vinsert k d a b) := by
  simp [encode, rawDecode, rawMajor10, formR_in, formR_bit, formI_in, formI_bit, lowI_in, lowX_in, fld_lo, fld_hi, fld_all, fld_pad]

theorem raw_vadd (k : Bool) (d a b : BitVec 5) (w e qa qb : Bool) : rawDecode (encode (.vadd k d a b w e qa qb)) = some (.vadd k d a b w e qa qb) := by
  simp [encode, rawDecode, rawMajor11, formR_in, formR_bit, formI_in, formI_bit, lowI_in, lowX_in, fld_lo, fld_hi, fld_all, fld_pad]

theorem raw_vsub (k : Bool) (d a b : BitVec 5) (w e qa qb : Bool) : rawDecode (encode (.vsub k d a b w e qa qb)) = some (.vsub k d a b w e qa qb) := by
  simp [encode, rawDecode, rawMajor11, formR_in, formR_bit, formI_in, formI_bit, lowI_in, lowX_in, fld_lo, fld_hi, fld_all, fld_pad]

theorem raw_vmul (k : Bool) (d a b : BitVec 5) (w e qa qb : Bool) : rawDecode (encode (.vmul k d a b w e qa qb)) = some (.vmul k d a b w e qa qb) := by
  simp [encode, rawDecode, rawMajor11, formR_in, formR_bit, formI_in, formI_bit, lowI_in, lowX_in, fld_lo, fld_hi, fld_all, fld_pad]

theorem raw_vmulh (k : Bool) (d a b : BitVec 5) (w e qa qb : Bool) : rawDecode (encode (.vmulh k d a b w e qa qb)) = some (.vmulh k d a b w e qa qb) := by
  simp [encode, rawDecode, rawMajor11, formR_in, formR_bit, formI_in, formI_bit, lowI_in, lowX_in, fld_lo, fld_hi, fld_all, fld_pad]

theorem raw_vmin (k : Bool) (d a b : BitVec 5) (w e qa qb : Bool) : rawDecode (encode (.vmin k d a b w e qa qb)) = some (.vmin k d a b w e qa qb) := by
  simp [encode, rawDecode, rawMajor11, formR_in, formR_bit, formI_in, formI_bit, lowI_in, lowX_in, fld_lo, fld_hi, fld_all, fld_pad]

theorem raw_vmax (k : Bool) (d a b : BitVec 5) (w e qa qb : Bool) : rawDecode (encode (.vmax k d a b w e qa qb)) = some (.vmax k d a b w e qa qb) := by
  simp [encode, rawDecode, rawMajor11, formR_in, formR_bit, formI_in, formI_bit, lowI_in, lowX_in, fld_lo, fld_hi, fld_all, fld_pad]

theorem raw_vand (k : Bool) (d a b : BitVec 5) (w e qa qb : Bool) : rawDecode (encode (.vand k d a b w e qa qb)) = some (.vand k d a b w e qa qb) := by
  simp [encode, rawDecode, rawMajor11, formR_in, formR_bit, formI_in, formI_bit, lowI_in, lowX_in, fld_lo, fld_hi, fld_all, fld_pad]

theorem raw_vor (k : Bool) (d a b : BitVec 5) (w e qa qb : Bool) : rawDecode (encode (.vor k d a b w e qa qb)) = some (.vor k d a b w e qa qb) := by
  simp [encode, rawDecode, rawMajor11, formR_in, formR_bit, formI_in, formI_bit, lowI_in, lowX_in, fld_lo, fld_hi, fld_all, fld_pad]

theorem raw_vxor (k : Bool) (d a b : BitVec 5) (w e qa qb : Bool) : rawDecode (encode (.vxor k d a b w e qa qb)) = some (.vxor k d a b w e qa qb) := by
  simp [encode, rawDecode, rawMajor11, formR_in, formR_bit, formI_in, formI_bit, lowI_in, lowX_in, fld_lo, fld_hi, fld_all, fld_pad]

theorem raw_vsll (k : Bool) (d a b : BitVec 5) (w e qa qb : Bool) : rawDecode (encode (.vsll k d a b w e qa qb)) = some (.vsll k d a b w e qa qb) := by
  simp [encode, rawDecode, rawMajor11, formR_in, formR_bit, formI_in, formI_bit, lowI_in, lowX_in, fld_lo, fld_hi, fld_all, fld_pad]

theorem raw_vsrl (k : Bool) (d a b : BitVec 5) (w e qa qb : Bool) : rawDecode (encode (.vsrl k d a b w e qa qb)) = some (.vsrl k d a b w e qa qb) := by
  simp [encode, rawDecode, rawMajor11, formR_in, formR_bit, formI_in, formI_bit, lowI_in, lowX_in, fld_lo, fld_hi, fld_all, fld_pad]

theorem raw_vsra (k : Bool) (d a b : BitVec 5) (w e qa qb : Bool) : rawDecode (encode (.vsra k d a b w e qa qb)) = some (.vsra k d a b w e qa qb) := by
  simp [encode, rawDecode, rawMajor11, formR_in, formR_bit, formI_in, formI_bit, lowI_in, lowX_in, fld_lo, fld_hi, fld_all, fld_pad]

theorem raw_vabs (k : Bool) (d a : BitVec 5) (w e qa : Bool) : rawDecode (encode (.vabs k d a w e qa)) = some (.vabs k d a w e qa) := by
  simp [encode, rawDecode, rawMajor11, formR_in, formR_bit, formI_in, formI_bit, lowI_in, lowX_in, fld_lo, fld_hi, fld_all, fld_pad]

theorem raw_vwmac (k : Bool) (d a b : BitVec 5) (e qa qb : Bool) : rawDecode (encode (.vwmac k d a b e qa qb)) = some (.vwmac k d a b e qa qb) := by
  simp [encode, rawDecode, rawMajor11, formR_in, formR_bit, formI_in, formI_bit, lowI_in, lowX_in, fld_lo, fld_hi, fld_all, fld_pad]

theorem raw_vdiv (k : Bool) (d a b : BitVec 5) (w e qa qb : Bool) : rawDecode (encode (.vdiv k d a b w e qa qb)) = some (.vdiv k d a b w e qa qb) := by
  simp [encode, rawDecode, rawMajor11, formR_in, formR_bit, formI_in, formI_bit, lowI_in, lowX_in, fld_lo, fld_hi, fld_all, fld_pad]

theorem raw_vrem (k : Bool) (d a b : BitVec 5) (w e qa qb : Bool) : rawDecode (encode (.vrem k d a b w e qa qb)) = some (.vrem k d a b w e qa qb) := by
  simp [encode, rawDecode, rawMajor11, formR_in, formR_bit, formI_in, formI_bit, lowI_in, lowX_in, fld_lo, fld_hi, fld_all, fld_pad]

theorem raw_vcmpeq (k : Bool) (d a b : BitVec 5) (e qa qb : Bool) : rawDecode (encode (.vcmpeq k d a b e qa qb)) = some (.vcmpeq k d a b e qa qb) := by
  simp [encode, rawDecode, rawMajor11, formR_in, formR_bit, formI_in, formI_bit, lowI_in, lowX_in, fld_lo, fld_hi, fld_all, fld_pad]

theorem raw_vcmplt (k : Bool) (d a b : BitVec 5) (e qa qb : Bool) : rawDecode (encode (.vcmplt k d a b e qa qb)) = some (.vcmplt k d a b e qa qb) := by
  simp [encode, rawDecode, rawMajor11, formR_in, formR_bit, formI_in, formI_bit, lowI_in, lowX_in, fld_lo, fld_hi, fld_all, fld_pad]

theorem raw_vcmple (k : Bool) (d a b : BitVec 5) (e qa qb : Bool) : rawDecode (encode (.vcmple k d a b e qa qb)) = some (.vcmple k d a b e qa qb) := by
  simp [encode, rawDecode, rawMajor11, formR_in, formR_bit, formI_in, formI_bit, lowI_in, lowX_in, fld_lo, fld_hi, fld_all, fld_pad]

theorem raw_vsel (k : Bool) (d a b : BitVec 5) (w e qa qb : Bool) : rawDecode (encode (.vsel k d a b w e qa qb)) = some (.vsel k d a b w e qa qb) := by
  simp [encode, rawDecode, rawMajor11, formR_in, formR_bit, formI_in, formI_bit, lowI_in, lowX_in, fld_lo, fld_hi, fld_all, fld_pad]

theorem raw_vfadd (k : Bool) (d a b : BitVec 5) (w e qa qb : Bool) : rawDecode (encode (.vfadd k d a b w e qa qb)) = some (.vfadd k d a b w e qa qb) := by
  simp [encode, rawDecode, rawMajor12, formR_in, formR_bit, formI_in, formI_bit, lowI_in, lowX_in, fld_lo, fld_hi, fld_all, fld_pad]

theorem raw_vfsub (k : Bool) (d a b : BitVec 5) (w e qa qb : Bool) : rawDecode (encode (.vfsub k d a b w e qa qb)) = some (.vfsub k d a b w e qa qb) := by
  simp [encode, rawDecode, rawMajor12, formR_in, formR_bit, formI_in, formI_bit, lowI_in, lowX_in, fld_lo, fld_hi, fld_all, fld_pad]

theorem raw_vfmul (k : Bool) (d a b : BitVec 5) (w e qa qb : Bool) : rawDecode (encode (.vfmul k d a b w e qa qb)) = some (.vfmul k d a b w e qa qb) := by
  simp [encode, rawDecode, rawMajor12, formR_in, formR_bit, formI_in, formI_bit, lowI_in, lowX_in, fld_lo, fld_hi, fld_all, fld_pad]

theorem raw_vfaddX (k : Bool) (d a b : BitVec 5) (e qa qb : Bool) : rawDecode (encode (.vfaddX k d a b e qa qb)) = some (.vfaddX k d a b e qa qb) := by
  simp [encode, rawDecode, rawMajor12, formR_in, formR_bit, formI_in, formI_bit, lowI_in, lowX_in, fld_lo, fld_hi, fld_all, fld_pad]

theorem raw_vfsubX (k : Bool) (d a b : BitVec 5) (e qa qb : Bool) : rawDecode (encode (.vfsubX k d a b e qa qb)) = some (.vfsubX k d a b e qa qb) := by
  simp [encode, rawDecode, rawMajor12, formR_in, formR_bit, formI_in, formI_bit, lowI_in, lowX_in, fld_lo, fld_hi, fld_all, fld_pad]

theorem raw_vfmulX (k : Bool) (d a b : BitVec 5) (e qa qb : Bool) : rawDecode (encode (.vfmulX k d a b e qa qb)) = some (.vfmulX k d a b e qa qb) := by
  simp [encode, rawDecode, rawMajor12, formR_in, formR_bit, formI_in, formI_bit, lowI_in, lowX_in, fld_lo, fld_hi, fld_all, fld_pad]

theorem raw_vfma (k : Bool) (d a b : BitVec 5) (e qa qb : Bool) : rawDecode (encode (.vfma k d a b e qa qb)) = some (.vfma k d a b e qa qb) := by
  simp [encode, rawDecode, rawMajor12, formR_in, formR_bit, formI_in, formI_bit, lowI_in, lowX_in, fld_lo, fld_hi, fld_all, fld_pad]

theorem raw_vfdiv (k : Bool) (d a b : BitVec 5) (w e qa qb : Bool) : rawDecode (encode (.vfdiv k d a b w e qa qb)) = some (.vfdiv k d a b w e qa qb) := by
  simp [encode, rawDecode, rawMajor12, formR_in, formR_bit, formI_in, formI_bit, lowI_in, lowX_in, fld_lo, fld_hi, fld_all, fld_pad]

theorem raw_vfsqrt (k : Bool) (d a : BitVec 5) (w e qa : Bool) : rawDecode (encode (.vfsqrt k d a w e qa)) = some (.vfsqrt k d a w e qa) := by
  simp [encode, rawDecode, rawMajor12, formR_in, formR_bit, formI_in, formI_bit, lowI_in, lowX_in, fld_lo, fld_hi, fld_all, fld_pad]

theorem raw_vfrcp (k : Bool) (d a : BitVec 5) (w e qa : Bool) : rawDecode (encode (.vfrcp k d a w e qa)) = some (.vfrcp k d a w e qa) := by
  simp [encode, rawDecode, rawMajor12, formR_in, formR_bit, formI_in, formI_bit, lowI_in, lowX_in, fld_lo, fld_hi, fld_all, fld_pad]

theorem raw_vfexp2 (k : Bool) (d a : BitVec 5) (w e qa : Bool) : rawDecode (encode (.vfexp2 k d a w e qa)) = some (.vfexp2 k d a w e qa) := by
  simp [encode, rawDecode, rawMajor12, formR_in, formR_bit, formI_in, formI_bit, lowI_in, lowX_in, fld_lo, fld_hi, fld_all, fld_pad]

theorem raw_vflog2 (k : Bool) (d a : BitVec 5) (w e qa : Bool) : rawDecode (encode (.vflog2 k d a w e qa)) = some (.vflog2 k d a w e qa) := by
  simp [encode, rawDecode, rawMajor12, formR_in, formR_bit, formI_in, formI_bit, lowI_in, lowX_in, fld_lo, fld_hi, fld_all, fld_pad]

theorem raw_vfmin (k : Bool) (d a b : BitVec 5) (w e qa qb : Bool) : rawDecode (encode (.vfmin k d a b w e qa qb)) = some (.vfmin k d a b w e qa qb) := by
  simp [encode, rawDecode, rawMajor12, formR_in, formR_bit, formI_in, formI_bit, lowI_in, lowX_in, fld_lo, fld_hi, fld_all, fld_pad]

theorem raw_vfmax (k : Bool) (d a b : BitVec 5) (w e qa qb : Bool) : rawDecode (encode (.vfmax k d a b w e qa qb)) = some (.vfmax k d a b w e qa qb) := by
  simp [encode, rawDecode, rawMajor12, formR_in, formR_bit, formI_in, formI_bit, lowI_in, lowX_in, fld_lo, fld_hi, fld_all, fld_pad]

theorem raw_vfcmpeq (k : Bool) (d a b : BitVec 5) (e qa qb : Bool) : rawDecode (encode (.vfcmpeq k d a b e qa qb)) = some (.vfcmpeq k d a b e qa qb) := by
  simp [encode, rawDecode, rawMajor12, formR_in, formR_bit, formI_in, formI_bit, lowI_in, lowX_in, fld_lo, fld_hi, fld_all, fld_pad]

theorem raw_vfcmplt (k : Bool) (d a b : BitVec 5) (e qa qb : Bool) : rawDecode (encode (.vfcmplt k d a b e qa qb)) = some (.vfcmplt k d a b e qa qb) := by
  simp [encode, rawDecode, rawMajor12, formR_in, formR_bit, formI_in, formI_bit, lowI_in, lowX_in, fld_lo, fld_hi, fld_all, fld_pad]

theorem raw_vfcmple (k : Bool) (d a b : BitVec 5) (e qa qb : Bool) : rawDecode (encode (.vfcmple k d a b e qa qb)) = some (.vfcmple k d a b e qa qb) := by
  simp [encode, rawDecode, rawMajor12, formR_in, formR_bit, formI_in, formI_bit, lowI_in, lowX_in, fld_lo, fld_hi, fld_all, fld_pad]

theorem raw_vfclass (k : Bool) (d a : BitVec 5) (w e qa : Bool) : rawDecode (encode (.vfclass k d a w e qa)) = some (.vfclass k d a w e qa) := by
  simp [encode, rawDecode, rawMajor12, formR_in, formR_bit, formI_in, formI_bit, lowI_in, lowX_in, fld_lo, fld_hi, fld_all, fld_pad]

theorem raw_vdwadd (k : Bool) (d a b : BitVec 5) (e : Bool) : rawDecode (encode (.vdwadd k d a b e)) = some (.vdwadd k d a b e) := by
  simp [encode, rawDecode, rawMajor12, formR_in, formR_bit, formI_in, formI_bit, lowI_in, lowX_in, fld_lo, fld_hi, fld_all, fld_pad]

theorem raw_vdwmul (k : Bool) (d a b : BitVec 5) (e : Bool) : rawDecode (encode (.vdwmul k d a b e)) = some (.vdwmul k d a b e) := by
  simp [encode, rawDecode, rawMajor12, formR_in, formR_bit, formI_in, formI_bit, lowI_in, lowX_in, fld_lo, fld_hi, fld_all, fld_pad]

theorem raw_vdwnorm (k : Bool) (d a : BitVec 5) (e : Bool) : rawDecode (encode (.vdwnorm k d a e)) = some (.vdwnorm k d a e) := by
  simp [encode, rawDecode, rawMajor12, formR_in, formR_bit, formI_in, formI_bit, lowI_in, lowX_in, fld_lo, fld_hi, fld_all, fld_pad]

theorem raw_vredsumX (k : Bool) (d a : BitVec 5) (e : Bool) : rawDecode (encode (.vredsumX k d a e)) = some (.vredsumX k d a e) := by
  simp [encode, rawDecode, rawMajor12, formR_in, formR_bit, formI_in, formI_bit, lowI_in, lowX_in, fld_lo, fld_hi, fld_all, fld_pad]

theorem raw_vcvt (k : Bool) (d a : BitVec 5) (e qa : Bool) : rawDecode (encode (.vcvt k d a e qa)) = some (.vcvt k d a e qa) := by
  simp [encode, rawDecode, rawMajor13, formR_in, formR_bit, formI_in, formI_bit, lowI_in, lowX_in, fld_lo, fld_hi, fld_all, fld_pad]

theorem raw_vscale (k : Bool) (d a f : BitVec 5) (e qa : Bool) : rawDecode (encode (.vscale k d a f e qa)) = some (.vscale k d a f e qa) := by
  simp [encode, rawDecode, rawMajor13, formR_in, formR_bit, formI_in, formI_bit, lowI_in, lowX_in, fld_lo, fld_hi, fld_all, fld_pad]

theorem raw_vquant (k : Bool) (d a b : BitVec 5) (e qa qb : Bool) : rawDecode (encode (.vquant k d a b e qa qb)) = some (.vquant k d a b e qa qb) := by
  simp [encode, rawDecode, rawMajor13, formR_in, formR_bit, formI_in, formI_bit, lowI_in, lowX_in, fld_lo, fld_hi, fld_all, fld_pad]

theorem raw_vdeq (k : Bool) (d a b : BitVec 5) (e qa qb : Bool) : rawDecode (encode (.vdeq k d a b e qa qb)) = some (.vdeq k d a b e qa qb) := by
  simp [encode, rawDecode, rawMajor13, formR_in, formR_bit, formI_in, formI_bit, lowI_in, lowX_in, fld_lo, fld_hi, fld_all, fld_pad]

theorem raw_vld (k : Bool) (d a : BitVec 5) (sp o qa : Bool) : rawDecode (encode (.vld k d a sp o qa)) = some (.vld k d a sp o qa) := by
  simp [encode, rawDecode, rawMajor14, formR_in, formR_bit, formI_in, formI_bit, lowI_in, lowX_in, fld_lo, fld_hi, fld_all, fld_pad]

theorem raw_vlds (k : Bool) (d a b : BitVec 5) (sp o qa : Bool) : rawDecode (encode (.vlds k d a b sp o qa)) = some (.vlds k d a b sp o qa) := by
  simp [encode, rawDecode, rawMajor14, formR_in, formR_bit, formI_in, formI_bit, lowI_in, lowX_in, fld_lo, fld_hi, fld_all, fld_pad]

theorem raw_vldx (k : Bool) (d a b : BitVec 5) (sp o qa : Bool) : rawDecode (encode (.vldx k d a b sp o qa)) = some (.vldx k d a b sp o qa) := by
  simp [encode, rawDecode, rawMajor14, formR_in, formR_bit, formI_in, formI_bit, lowI_in, lowX_in, fld_lo, fld_hi, fld_all, fld_pad]

theorem raw_vldb (k : Bool) (d a b : BitVec 5) (sp o qa : Bool) : rawDecode (encode (.vldb k d a b sp o qa)) = some (.vldb k d a b sp o qa) := by
  simp [encode, rawDecode, rawMajor14, formR_in, formR_bit, formI_in, formI_bit, lowI_in, lowX_in, fld_lo, fld_hi, fld_all, fld_pad]

theorem raw_vst (k : Bool) (d a : BitVec 5) (sp o : Bool) : rawDecode (encode (.vst k d a sp o)) = some (.vst k d a sp o) := by
  simp [encode, rawDecode, rawMajor15, formR_in, formR_bit, formI_in, formI_bit, lowI_in, lowX_in, fld_lo, fld_hi, fld_all, fld_pad]

theorem raw_vsts (k : Bool) (d a b : BitVec 5) (sp o : Bool) : rawDecode (encode (.vsts k d a b sp o)) = some (.vsts k d a b sp o) := by
  simp [encode, rawDecode, rawMajor15, formR_in, formR_bit, formI_in, formI_bit, lowI_in, lowX_in, fld_lo, fld_hi, fld_all, fld_pad]

theorem raw_vstx (k : Bool) (d a b : BitVec 5) (sp o : Bool) : rawDecode (encode (.vstx k d a b sp o)) = some (.vstx k d a b sp o) := by
  simp [encode, rawDecode, rawMajor15, formR_in, formR_bit, formI_in, formI_bit, lowI_in, lowX_in, fld_lo, fld_hi, fld_all, fld_pad]

theorem raw_vstt (d a b : BitVec 5) : rawDecode (encode (.vstt d a b)) = some (.vstt d a b) := by
  simp [encode, rawDecode, rawMajor15, formR_in, formR_bit, formI_in, formI_bit, lowI_in, lowX_in, fld_lo, fld_hi, fld_all, fld_pad]

theorem raw_vgather (k : Bool) (d a b : BitVec 5) (e qb : Bool) : rawDecode (encode (.vgather k d a b e qb)) = some (.vgather k d a b e qb) := by
  simp [encode, rawDecode, rawMajor16, formR_in, formR_bit, formI_in, formI_bit, lowI_in, lowX_in, fld_lo, fld_hi, fld_all, fld_pad]

theorem raw_vslideup (k : Bool) (d a b : BitVec 5) (w e qa : Bool) : rawDecode (encode (.vslideup k d a b w e qa)) = some (.vslideup k d a b w e qa) := by
  simp [encode, rawDecode, rawMajor16, formR_in, formR_bit, formI_in, formI_bit, lowI_in, lowX_in, fld_lo, fld_hi, fld_all, fld_pad]

theorem raw_vslidedn (k : Bool) (d a b : BitVec 5) (w e qa : Bool) : rawDecode (encode (.vslidedn k d a b w e qa)) = some (.vslidedn k d a b w e qa) := by
  simp [encode, rawDecode, rawMajor16, formR_in, formR_bit, formI_in, formI_bit, lowI_in, lowX_in, fld_lo, fld_hi, fld_all, fld_pad]

theorem raw_vcompress (k : Bool) (d a b : BitVec 5) (e qa : Bool) : rawDecode (encode (.vcompress k d a b e qa)) = some (.vcompress k d a b e qa) := by
  simp [encode, rawDecode, rawMajor16, formR_in, formR_bit, formI_in, formI_bit, lowI_in, lowX_in, fld_lo, fld_hi, fld_all, fld_pad]

theorem raw_vexpand (k : Bool) (d a b : BitVec 5) (e qa : Bool) : rawDecode (encode (.vexpand k d a b e qa)) = some (.vexpand k d a b e qa) := by
  simp [encode, rawDecode, rawMajor16, formR_in, formR_bit, formI_in, formI_bit, lowI_in, lowX_in, fld_lo, fld_hi, fld_all, fld_pad]

theorem raw_vrev (k : Bool) (d a : BitVec 5) (w e qa : Bool) : rawDecode (encode (.vrev k d a w e qa)) = some (.vrev k d a w e qa) := by
  simp [encode, rawDecode, rawMajor16, formR_in, formR_bit, formI_in, formI_bit, lowI_in, lowX_in, fld_lo, fld_hi, fld_all, fld_pad]

theorem raw_vmand (k : Bool) (d a b : BitVec 5) : rawDecode (encode (.vmand k d a b)) = some (.vmand k d a b) := by
  simp [encode, rawDecode, rawMajor16, formR_in, formR_bit, formI_in, formI_bit, lowI_in, lowX_in, fld_lo, fld_hi, fld_all, fld_pad]

theorem raw_vmor (k : Bool) (d a b : BitVec 5) : rawDecode (encode (.vmor k d a b)) = some (.vmor k d a b) := by
  simp [encode, rawDecode, rawMajor16, formR_in, formR_bit, formI_in, formI_bit, lowI_in, lowX_in, fld_lo, fld_hi, fld_all, fld_pad]

theorem raw_vmxor (k : Bool) (d a b : BitVec 5) : rawDecode (encode (.vmxor k d a b)) = some (.vmxor k d a b) := by
  simp [encode, rawDecode, rawMajor16, formR_in, formR_bit, formI_in, formI_bit, lowI_in, lowX_in, fld_lo, fld_hi, fld_all, fld_pad]

theorem raw_vmnot (k : Bool) (d a : BitVec 5) : rawDecode (encode (.vmnot k d a)) = some (.vmnot k d a) := by
  simp [encode, rawDecode, rawMajor16, formR_in, formR_bit, formI_in, formI_bit, lowI_in, lowX_in, fld_lo, fld_hi, fld_all, fld_pad]

theorem raw_vmpop (k : Bool) (d a : BitVec 5) : rawDecode (encode (.vmpop k d a)) = some (.vmpop k d a) := by
  simp [encode, rawDecode, rawMajor16, formR_in, formR_bit, formI_in, formI_bit, lowI_in, lowX_in, fld_lo, fld_hi, fld_all, fld_pad]

theorem raw_vmffs (k : Bool) (d a : BitVec 5) : rawDecode (encode (.vmffs k d a)) = some (.vmffs k d a) := by
  simp [encode, rawDecode, rawMajor16, formR_in, formR_bit, formI_in, formI_bit, lowI_in, lowX_in, fld_lo, fld_hi, fld_all, fld_pad]

theorem raw_vmset (k : Bool) (d a : BitVec 5) : rawDecode (encode (.vmset k d a)) = some (.vmset k d a) := by
  simp [encode, rawDecode, rawMajor16, formR_in, formR_bit, formI_in, formI_bit, lowI_in, lowX_in, fld_lo, fld_hi, fld_all, fld_pad]

theorem raw_vmffsr (k : Bool) (d a : BitVec 5) : rawDecode (encode (.vmffsr k d a)) = some (.vmffsr k d a) := by
  simp [encode, rawDecode, rawMajor16, formR_in, formR_bit, formI_in, formI_bit, lowI_in, lowX_in, fld_lo, fld_hi, fld_all, fld_pad]

theorem raw_vredsum (k : Bool) (d a : BitVec 5) (e qa : Bool) : rawDecode (encode (.vredsum k d a e qa)) = some (.vredsum k d a e qa) := by
  simp [encode, rawDecode, rawMajor17, formR_in, formR_bit, formI_in, formI_bit, lowI_in, lowX_in, fld_lo, fld_hi, fld_all, fld_pad]

theorem raw_vredmax (k : Bool) (d a : BitVec 5) (e qa : Bool) : rawDecode (encode (.vredmax k d a e qa)) = some (.vredmax k d a e qa) := by
  simp [encode, rawDecode, rawMajor17, formR_in, formR_bit, formI_in, formI_bit, lowI_in, lowX_in, fld_lo, fld_hi, fld_all, fld_pad]

theorem raw_vredmin (k : Bool) (d a : BitVec 5) (e qa : Bool) : rawDecode (encode (.vredmin k d a e qa)) = some (.vredmin k d a e qa) := by
  simp [encode, rawDecode, rawMajor17, formR_in, formR_bit, formI_in, formI_bit, lowI_in, lowX_in, fld_lo, fld_hi, fld_all, fld_pad]

theorem raw_vredand (k : Bool) (d a : BitVec 5) (e qa : Bool) : rawDecode (encode (.vredand k d a e qa)) = some (.vredand k d a e qa) := by
  simp [encode, rawDecode, rawMajor17, formR_in, formR_bit, formI_in, formI_bit, lowI_in, lowX_in, fld_lo, fld_hi, fld_all, fld_pad]

theorem raw_vredor (k : Bool) (d a : BitVec 5) (e qa : Bool) : rawDecode (encode (.vredor k d a e qa)) = some (.vredor k d a e qa) := by
  simp [encode, rawDecode, rawMajor17, formR_in, formR_bit, formI_in, formI_bit, lowI_in, lowX_in, fld_lo, fld_hi, fld_all, fld_pad]

theorem raw_vscansum (k : Bool) (d a b : BitVec 5) (e qa : Bool) : rawDecode (encode (.vscansum k d a b e qa)) = some (.vscansum k d a b e qa) := by
  simp [encode, rawDecode, rawMajor17, formR_in, formR_bit, formI_in, formI_bit, lowI_in, lowX_in, fld_lo, fld_hi, fld_all, fld_pad]

theorem raw_vscanmax (k : Bool) (d a b : BitVec 5) (e qa : Bool) : rawDecode (encode (.vscanmax k d a b e qa)) = some (.vscanmax k d a b e qa) := by
  simp [encode, rawDecode, rawMajor17, formR_in, formR_bit, formI_in, formI_bit, lowI_in, lowX_in, fld_lo, fld_hi, fld_all, fld_pad]

theorem raw_vscanand (k : Bool) (d a b : BitVec 5) (e qa : Bool) : rawDecode (encode (.vscanand k d a b e qa)) = some (.vscanand k d a b e qa) := by
  simp [encode, rawDecode, rawMajor17, formR_in, formR_bit, formI_in, formI_bit, lowI_in, lowX_in, fld_lo, fld_hi, fld_all, fld_pad]

theorem raw_vsegsum (k : Bool) (d a b : BitVec 5) (e qa : Bool) : rawDecode (encode (.vsegsum k d a b e qa)) = some (.vsegsum k d a b e qa) := by
  simp [encode, rawDecode, rawMajor17, formR_in, formR_bit, formI_in, formI_bit, lowI_in, lowX_in, fld_lo, fld_hi, fld_all, fld_pad]

theorem raw_vsegmax (k : Bool) (d a b : BitVec 5) (e qa : Bool) : rawDecode (encode (.vsegmax k d a b e qa)) = some (.vsegmax k d a b e qa) := by
  simp [encode, rawDecode, rawMajor17, formR_in, formR_bit, formI_in, formI_bit, lowI_in, lowX_in, fld_lo, fld_hi, fld_all, fld_pad]

theorem raw_tagw (d a b : BitVec 5) : rawDecode (encode (.tagw d a b)) = some (.tagw d a b) := by
  simp [encode, rawDecode, rawMajor18, formR_in, formR_bit, formI_in, formI_bit, lowI_in, lowX_in, fld_lo, fld_hi, fld_all, fld_pad]

theorem raw_tagr (d a : BitVec 5) : rawDecode (encode (.tagr d a)) = some (.tagr d a) := by
  simp [encode, rawDecode, rawMajor18, formR_in, formR_bit, formI_in, formI_bit, lowI_in, lowX_in, fld_lo, fld_hi, fld_all, fld_pad]

theorem raw_tmatch (d a : BitVec 5) : rawDecode (encode (.tmatch d a)) = some (.tmatch d a) := by
  simp [encode, rawDecode, rawMajor18, formR_in, formR_bit, formI_in, formI_bit, lowI_in, lowX_in, fld_lo, fld_hi, fld_all, fld_pad]

theorem raw_toprSet (d a b : BitVec 5) (y : BitVec 3) : rawDecode (encode (.toprSet d a b y)) = some (.toprSet d a b y) := by
  simp [encode, rawDecode, rawMajor18, formR_in, formR_bit, formI_in, formI_bit, lowI_in, lowX_in, fld_lo, fld_hi, fld_all, fld_pad]

theorem raw_toprAdd (d a b : BitVec 5) (y : BitVec 3) : rawDecode (encode (.toprAdd d a b y)) = some (.toprAdd d a b y) := by
  simp [encode, rawDecode, rawMajor18, formR_in, formR_bit, formI_in, formI_bit, lowI_in, lowX_in, fld_lo, fld_hi, fld_all, fld_pad]

theorem raw_toprMuls (d a b : BitVec 5) (y : BitVec 3) : rawDecode (encode (.toprMuls d a b y)) = some (.toprMuls d a b y) := by
  simp [encode, rawDecode, rawMajor18, formR_in, formR_bit, formI_in, formI_bit, lowI_in, lowX_in, fld_lo, fld_hi, fld_all, fld_pad]

theorem raw_toprClr (d a : BitVec 5) : rawDecode (encode (.toprClr d a)) = some (.toprClr d a) := by
  simp [encode, rawDecode, rawMajor18, formR_in, formR_bit, formI_in, formI_bit, lowI_in, lowX_in, fld_lo, fld_hi, fld_all, fld_pad]

theorem raw_toprRetag (d a b : BitVec 5) : rawDecode (encode (.toprRetag d a b)) = some (.toprRetag d a b) := by
  simp [encode, rawDecode, rawMajor18, formR_in, formR_bit, formI_in, formI_bit, lowI_in, lowX_in, fld_lo, fld_hi, fld_all, fld_pad]

theorem raw_mzero (d : BitVec 5) : rawDecode (encode (.mzero d)) = some (.mzero d) := by
  simp [encode, rawDecode, rawMajor19, formR_in, formR_bit, formI_in, formI_bit, lowI_in, lowX_in, fld_lo, fld_hi, fld_all, fld_pad]

theorem raw_mop (d a b : BitVec 5) : rawDecode (encode (.mop d a b)) = some (.mop d a b) := by
  simp [encode, rawDecode, rawMajor19, formR_in, formR_bit, formI_in, formI_bit, lowI_in, lowX_in, fld_lo, fld_hi, fld_all, fld_pad]

theorem raw_mldw (d a b : BitVec 5) : rawDecode (encode (.mldw d a b)) = some (.mldw d a b) := by
  simp [encode, rawDecode, rawMajor19, formR_in, formR_bit, formI_in, formI_bit, lowI_in, lowX_in, fld_lo, fld_hi, fld_all, fld_pad]

theorem raw_mkeep (d a b : BitVec 5) : rawDecode (encode (.mkeep d a b)) = some (.mkeep d a b) := by
  simp [encode, rawDecode, rawMajor19, formR_in, formR_bit, formI_in, formI_bit, lowI_in, lowX_in, fld_lo, fld_hi, fld_all, fld_pad]

theorem raw_mdrain (d a b : BitVec 5) : rawDecode (encode (.mdrain d a b)) = some (.mdrain d a b) := by
  simp [encode, rawDecode, rawMajor19, formR_in, formR_bit, formI_in, formI_bit, lowI_in, lowX_in, fld_lo, fld_hi, fld_all, fld_pad]

theorem raw_mtov (d a b : BitVec 5) : rawDecode (encode (.mtov d a b)) = some (.mtov d a b) := by
  simp [encode, rawDecode, rawMajor19, formR_in, formR_bit, formI_in, formI_bit, lowI_in, lowX_in, fld_lo, fld_hi, fld_all, fld_pad]

theorem raw_mfromv (d a b : BitVec 5) : rawDecode (encode (.mfromv d a b)) = some (.mfromv d a b) := by
  simp [encode, rawDecode, rawMajor19, formR_in, formR_bit, formI_in, formI_bit, lowI_in, lowX_in, fld_lo, fld_hi, fld_all, fld_pad]

theorem raw_mwait : rawDecode (encode (.mwait)) = some (.mwait) := by
  simp [encode, rawDecode, rawMajor19, formR_in, formR_bit, formI_in, formI_bit, lowI_in, lowX_in, fld_lo, fld_hi, fld_all, fld_pad]

theorem raw_dcopy (d a b c : BitVec 5) : rawDecode (encode (.dcopy d a b c)) = some (.dcopy d a b c) := by
  simp [encode, rawDecode, rawMajor1A, formR_in, formR_bit, formI_in, formI_bit, lowI_in, lowX_in, fld_lo, fld_hi, fld_all, fld_pad]

theorem raw_dcopy2d (d a : BitVec 5) : rawDecode (encode (.dcopy2d d a)) = some (.dcopy2d d a) := by
  simp [encode, rawDecode, rawMajor1A, formR_in, formR_bit, formI_in, formI_bit, lowI_in, lowX_in, fld_lo, fld_hi, fld_all, fld_pad]

theorem raw_dfill (d a b c : BitVec 5) : rawDecode (encode (.dfill d a b c)) = some (.dfill d a b c) := by
  simp [encode, rawDecode, rawMajor1A, formR_in, formR_bit, formI_in, formI_bit, lowI_in, lowX_in, fld_lo, fld_hi, fld_all, fld_pad]

theorem raw_tkwait (d a : BitVec 5) (s : BitVec 3) : rawDecode (encode (.tkwait d a s)) = some (.tkwait d a s) := by
  simp [encode, rawDecode, rawMajor1A, formR_in, formR_bit, formI_in, formI_bit, lowI_in, lowX_in, fld_lo, fld_hi, fld_all, fld_pad]

theorem raw_tktest (d a : BitVec 5) (s : BitVec 3) : rawDecode (encode (.tktest d a s)) = some (.tktest d a s) := by
  simp [encode, rawDecode, rawMajor1A, formR_in, formR_bit, formI_in, formI_bit, lowI_in, lowX_in, fld_lo, fld_hi, fld_all, fld_pad]

theorem raw_ddeal (d a : BitVec 5) : rawDecode (encode (.ddeal d a)) = some (.ddeal d a) := by
  simp [encode, rawDecode, rawMajor1A, formR_in, formR_bit, formI_in, formI_bit, lowI_in, lowX_in, fld_lo, fld_hi, fld_all, fld_pad]

theorem raw_cmv (d a b c : BitVec 5) : rawDecode (encode (.cmv d a b c)) = some (.cmv d a b c) := by
  simp [encode, rawDecode, rawMajor1B, formR_in, formR_bit, formI_in, formI_bit, lowI_in, lowX_in, fld_lo, fld_hi, fld_all, fld_pad]

theorem raw_cwrite (d a b : BitVec 5) : rawDecode (encode (.cwrite d a b)) = some (.cwrite d a b) := by
  simp [encode, rawDecode, rawMajor1B, formR_in, formR_bit, formI_in, formI_bit, lowI_in, lowX_in, fld_lo, fld_hi, fld_all, fld_pad]

theorem raw_ccommit (d a : BitVec 5) : rawDecode (encode (.ccommit d a)) = some (.ccommit d a) := by
  simp [encode, rawDecode, rawMajor1B, formR_in, formR_bit, formI_in, formI_bit, lowI_in, lowX_in, fld_lo, fld_hi, fld_all, fld_pad]

theorem raw_cstat (d a : BitVec 5) : rawDecode (encode (.cstat d a)) = some (.cstat d a) := by
  simp [encode, rawDecode, rawMajor1B, formR_in, formR_bit, formI_in, formI_bit, lowI_in, lowX_in, fld_lo, fld_hi, fld_all, fld_pad]

theorem raw_ccal (d a : BitVec 5) : rawDecode (encode (.ccal d a)) = some (.ccal d a) := by
  simp [encode, rawDecode, rawMajor1B, formR_in, formR_bit, formI_in, formI_bit, lowI_in, lowX_in, fld_lo, fld_hi, fld_all, fld_pad]

theorem raw_binst (d a b c : BitVec 5) : rawDecode (encode (.binst d a b c)) = some (.binst d a b c) := by
  simp [encode, rawDecode, rawMajor1C, formR_in, formR_bit, formI_in, formI_bit, lowI_in, lowX_in, fld_lo, fld_hi, fld_all, fld_pad]

theorem raw_bmsg (d a b c : BitVec 5) : rawDecode (encode (.bmsg d a b c)) = some (.bmsg d a b c) := by
  simp [encode, rawDecode, rawMajor1C, formR_in, formR_bit, formI_in, formI_bit, lowI_in, lowX_in, fld_lo, fld_hi, fld_all, fld_pad]

theorem raw_bstat (d a : BitVec 5) : rawDecode (encode (.bstat d a)) = some (.bstat d a) := by
  simp [encode, rawDecode, rawMajor1C, formR_in, formR_bit, formI_in, formI_bit, lowI_in, lowX_in, fld_lo, fld_hi, fld_all, fld_pad]

theorem raw_vscore (k : Bool) (d a b : BitVec 5) (w : Bool) : rawDecode (encode (.vscore k d a b w)) = some (.vscore k d a b w) := by
  simp [encode, rawDecode, rawMajor1D, formR_in, formR_bit, formI_in, formI_bit, lowI_in, lowX_in, fld_lo, fld_hi, fld_all, fld_pad]

theorem raw_vexpm (k : Bool) (d b : BitVec 5) (w : Bool) : rawDecode (encode (.vexpm k d b w)) = some (.vexpm k d b w) := by
  simp [encode, rawDecode, rawMajor1D, formR_in, formR_bit, formI_in, formI_bit, lowI_in, lowX_in, fld_lo, fld_hi, fld_all, fld_pad]

theorem raw_vaccv (k : Bool) (d b : BitVec 5) : rawDecode (encode (.vaccv k d b)) = some (.vaccv k d b) := by
  simp [encode, rawDecode, rawMajor1D, formR_in, formR_bit, formI_in, formI_bit, lowI_in, lowX_in, fld_lo, fld_hi, fld_all, fld_pad]

theorem raw_vsoftfin (k : Bool) (d a b : BitVec 5) (qa : Bool) : rawDecode (encode (.vsoftfin k d a b qa)) = some (.vsoftfin k d a b qa) := by
  simp [encode, rawDecode, rawMajor1D, formR_in, formR_bit, formI_in, formI_bit, lowI_in, lowX_in, fld_lo, fld_hi, fld_all, fld_pad]

theorem raw_vtreem (k : Bool) (d a : BitVec 5) : rawDecode (encode (.vtreem k d a)) = some (.vtreem k d a) := by
  simp [encode, rawDecode, rawMajor1D, formR_in, formR_bit, formI_in, formI_bit, lowI_in, lowX_in, fld_lo, fld_hi, fld_all, fld_pad]

theorem raw_vaccept (k : Bool) (d a : BitVec 5) : rawDecode (encode (.vaccept k d a)) = some (.vaccept k d a) := by
  simp [encode, rawDecode, rawMajor1E, formR_in, formR_bit, formI_in, formI_bit, lowI_in, lowX_in, fld_lo, fld_hi, fld_all, fld_pad]

theorem raw_vcommitm (k : Bool) (d a b : BitVec 5) (qa : Bool) : rawDecode (encode (.vcommitm k d a b qa)) = some (.vcommitm k d a b qa) := by
  simp [encode, rawDecode, rawMajor1E, formR_in, formR_bit, formI_in, formI_bit, lowI_in, lowX_in, fld_lo, fld_hi, fld_all, fld_pad]

theorem raw_vmaxi (k : Bool) (d a b : BitVec 5) : rawDecode (encode (.vmaxi k d a b)) = some (.vmaxi k d a b) := by
  simp [encode, rawDecode, rawMajor1E, formR_in, formR_bit, formI_in, formI_bit, lowI_in, lowX_in, fld_lo, fld_hi, fld_all, fld_pad]

theorem raw_pdlook (d a b c : BitVec 5) : rawDecode (encode (.pdlook d a b c)) = some (.pdlook d a b c) := by
  simp [encode, rawDecode, rawMajor1F, formR_in, formR_bit, formI_in, formI_bit, lowI_in, lowX_in, fld_lo, fld_hi, fld_all, fld_pad]

theorem raw_pdins (d a b c : BitVec 5) : rawDecode (encode (.pdins d a b c)) = some (.pdins d a b c) := by
  simp [encode, rawDecode, rawMajor1F, formR_in, formR_bit, formI_in, formI_bit, lowI_in, lowX_in, fld_lo, fld_hi, fld_all, fld_pad]

theorem raw_pdref (d a : BitVec 5) : rawDecode (encode (.pdref d a)) = some (.pdref d a) := by
  simp [encode, rawDecode, rawMajor1F, formR_in, formR_bit, formI_in, formI_bit, lowI_in, lowX_in, fld_lo, fld_hi, fld_all, fld_pad]

theorem raw_pdunref (d a : BitVec 5) : rawDecode (encode (.pdunref d a)) = some (.pdunref d a) := by
  simp [encode, rawDecode, rawMajor1F, formR_in, formR_bit, formI_in, formI_bit, lowI_in, lowX_in, fld_lo, fld_hi, fld_all, fld_pad]

theorem raw_pdstat (d a : BitVec 5) : rawDecode (encode (.pdstat d a)) = some (.pdstat d a) := by
  simp [encode, rawDecode, rawMajor1F, formR_in, formR_bit, formI_in, formI_bit, lowI_in, lowX_in, fld_lo, fld_hi, fld_all, fld_pad]

theorem raw_pfx (pm : BitVec 3) (pn : Bool) (em ek : BitVec 3) (dc : BitVec 5) (dce : Bool) (rm : BitVec 3) (sat : Bool) : rawDecode (encode (.pfx pm pn em ek dc dce rm sat)) = some (.pfx pm pn em ek dc dce rm sat) := by
  simp [encode, rawDecode, formR_in, formR_bit, formI_in, formI_bit, lowI_in, lowX_in, fld_lo, fld_hi, fld_all, fld_pad]

theorem raw_bHalt : rawBrixem (encode (.bHalt)) = some (.bHalt) := by
  simp [encode, rawBrixem, formBrixem_in, formBrixem_bit, bit, fld_lo, fld_hi, fld_all, fld_pad, ofBool_bit]

theorem raw_bLi (d : BitVec 4) (i : BitVec 15) : rawBrixem (encode (.bLi d i)) = some (.bLi d i) := by
  simp [encode, rawBrixem, formBrixem_in, formBrixem_bit, bit, fld_lo, fld_hi, fld_all, fld_pad, ofBool_bit]

theorem raw_bAdd (d a b : BitVec 4) (i : BitVec 15) : rawBrixem (encode (.bAdd d a b i)) = some (.bAdd d a b i) := by
  simp [encode, rawBrixem, formBrixem_in, formBrixem_bit, bit, fld_lo, fld_hi, fld_all, fld_pad, ofBool_bit]

theorem raw_bSub (d a b : BitVec 4) : rawBrixem (encode (.bSub d a b)) = some (.bSub d a b) := by
  simp [encode, rawBrixem, formBrixem_in, formBrixem_bit, bit, fld_lo, fld_hi, fld_all, fld_pad, ofBool_bit]

theorem raw_bAnd (d a b : BitVec 4) : rawBrixem (encode (.bAnd d a b)) = some (.bAnd d a b) := by
  simp [encode, rawBrixem, formBrixem_in, formBrixem_bit, bit, fld_lo, fld_hi, fld_all, fld_pad, ofBool_bit]

theorem raw_bShl (d a : BitVec 4) (i : BitVec 6) : rawBrixem (encode (.bShl d a i)) = some (.bShl d a i) := by
  simp [encode, rawBrixem, formBrixem_in, formBrixem_bit, bit, fld_lo, fld_hi, fld_all, fld_pad, ofBool_bit]

theorem raw_bShr (d a : BitVec 4) (i : BitVec 6) : rawBrixem (encode (.bShr d a i)) = some (.bShr d a i) := by
  simp [encode, rawBrixem, formBrixem_in, formBrixem_bit, bit, fld_lo, fld_hi, fld_all, fld_pad, ofBool_bit]

theorem raw_bBnz (a : BitVec 4) (i : BitVec 15) : rawBrixem (encode (.bBnz a i)) = some (.bBnz a i) := by
  simp [encode, rawBrixem, formBrixem_in, formBrixem_bit, bit, fld_lo, fld_hi, fld_all, fld_pad, ofBool_bit]

theorem raw_bBz (a : BitVec 4) (i : BitVec 15) : rawBrixem (encode (.bBz a i)) = some (.bBz a i) := by
  simp [encode, rawBrixem, formBrixem_in, formBrixem_bit, bit, fld_lo, fld_hi, fld_all, fld_pad, ofBool_bit]

theorem raw_bLdq (d a : BitVec 4) (i : BitVec 15) : rawBrixem (encode (.bLdq d a i)) = some (.bLdq d a i) := by
  simp [encode, rawBrixem, formBrixem_in, formBrixem_bit, bit, fld_lo, fld_hi, fld_all, fld_pad, ofBool_bit]

theorem raw_bStq (a b : BitVec 4) (i : BitVec 15) : rawBrixem (encode (.bStq a b i)) = some (.bStq a b i) := by
  simp [encode, rawBrixem, formBrixem_in, formBrixem_bit, bit, fld_lo, fld_hi, fld_all, fld_pad, ofBool_bit]

theorem raw_bMode (i : Bool) : rawBrixem (encode (.bMode i)) = some (.bMode i) := by
  simp [encode, rawBrixem, formBrixem_in, formBrixem_bit, bit, fld_lo, fld_hi, fld_all, fld_pad, ofBool_bit]

theorem raw_bAct (a : BitVec 4) : rawBrixem (encode (.bAct a)) = some (.bAct a) := by
  simp [encode, rawBrixem, formBrixem_in, formBrixem_bit, bit, fld_lo, fld_hi, fld_all, fld_pad, ofBool_bit]

theorem raw_bPre : rawBrixem (encode (.bPre)) = some (.bPre) := by
  simp [encode, rawBrixem, formBrixem_in, formBrixem_bit, bit, fld_lo, fld_hi, fld_all, fld_pad, ofBool_bit]

theorem raw_bXld (a : BitVec 4) (i : Bool) : rawBrixem (encode (.bXld a i)) = some (.bXld a i) := by
  simp [encode, rawBrixem, formBrixem_in, formBrixem_bit, bit, fld_lo, fld_hi, fld_all, fld_pad, ofBool_bit]

theorem raw_bMac (a b : BitVec 4) : rawBrixem (encode (.bMac a b)) = some (.bMac a b) := by
  simp [encode, rawBrixem, formBrixem_in, formBrixem_bit, bit, fld_lo, fld_hi, fld_all, fld_pad, ofBool_bit]

theorem raw_bAclr : rawBrixem (encode (.bAclr)) = some (.bAclr) := by
  simp [encode, rawBrixem, formBrixem_in, formBrixem_bit, bit, fld_lo, fld_hi, fld_all, fld_pad, ofBool_bit]

theorem raw_bAclrEntry (b : BitVec 4) : rawBrixem (encode (.bAclrEntry b)) = some (.bAclrEntry b) := by
  simp [encode, rawBrixem, formBrixem_in, formBrixem_bit, bit, fld_lo, fld_hi, fld_all, fld_pad, ofBool_bit]

theorem raw_bArd (a b : BitVec 4) : rawBrixem (encode (.bArd a b)) = some (.bArd a b) := by
  simp [encode, rawBrixem, formBrixem_in, formBrixem_bit, bit, fld_lo, fld_hi, fld_all, fld_pad, ofBool_bit]

theorem raw_bRout (a : BitVec 4) (i : BitVec 3) : rawBrixem (encode (.bRout a i)) = some (.bRout a i) := by
  simp [encode, rawBrixem, formBrixem_in, formBrixem_bit, bit, fld_lo, fld_hi, fld_all, fld_pad, ofBool_bit]

end Laws
end Sys2Proof
end

