-- ==== Sys2Proof/Laws/PerInstr.lean ====
section
/-! SUPPORT. Per instruction, that the bits written for it name it again: for a hart's word and for a sequencer's; an event has none. -/

namespace Sys2Proof
namespace Laws

set_option Elab.async false

/-- The fields that decoding cuts out of an instruction's encoding are the instruction's own. -/
def FieldsRead.Statement (i : Instr) : Prop :=
  if i.isEvent = true then encode i = 0
  else if i.isBrixem = true then rawBrixem (encode i) = some i else rawDecode (encode i) = some i

theorem FieldsRead.add (d a b : BitVec 5) (w : Bool) : FieldsRead.Statement (.add d a b w) := raw_add d a b w
theorem FieldsRead.sub (d a b : BitVec 5) (w : Bool) : FieldsRead.Statement (.sub d a b w) := raw_sub d a b w
theorem FieldsRead.and (d a b : BitVec 5) : FieldsRead.Statement (.and d a b) := raw_and d a b
theorem FieldsRead.or (d a b : BitVec 5) : FieldsRead.Statement (.or d a b) := raw_or d a b
theorem FieldsRead.xor (d a b : BitVec 5) : FieldsRead.Statement (.xor d a b) := raw_xor d a b
theorem FieldsRead.andn (d a b : BitVec 5) : FieldsRead.Statement (.andn d a b) := raw_andn d a b
theorem FieldsRead.sll (d a b : BitVec 5) (w : Bool) : FieldsRead.Statement (.sll d a b w) := raw_sll d a b w
theorem FieldsRead.srl (d a b : BitVec 5) (w : Bool) : FieldsRead.Statement (.srl d a b w) := raw_srl d a b w
theorem FieldsRead.sra (d a b : BitVec 5) (w : Bool) : FieldsRead.Statement (.sra d a b w) := raw_sra d a b w
theorem FieldsRead.slt (d a b : BitVec 5) : FieldsRead.Statement (.slt d a b) := raw_slt d a b
theorem FieldsRead.sltu (d a b : BitVec 5) : FieldsRead.Statement (.sltu d a b) := raw_sltu d a b
theorem FieldsRead.min (d a b : BitVec 5) : FieldsRead.Statement (.min d a b) := raw_min d a b
theorem FieldsRead.max (d a b : BitVec 5) : FieldsRead.Statement (.max d a b) := raw_max d a b
theorem FieldsRead.minu (d a b : BitVec 5) : FieldsRead.Statement (.minu d a b) := raw_minu d a b
theorem FieldsRead.maxu (d a b : BitVec 5) : FieldsRead.Statement (.maxu d a b) := raw_maxu d a b
theorem FieldsRead.mul (d a b : BitVec 5) (w : Bool) : FieldsRead.Statement (.mul d a b w) := raw_mul d a b w
theorem FieldsRead.mulh (d a b : BitVec 5) : FieldsRead.Statement (.mulh d a b) := raw_mulh d a b
theorem FieldsRead.mulhu (d a b : BitVec 5) : FieldsRead.Statement (.mulhu d a b) := raw_mulhu d a b
theorem FieldsRead.div (d a b : BitVec 5) (w : Bool) : FieldsRead.Statement (.div d a b w) := raw_div d a b w
theorem FieldsRead.divu (d a b : BitVec 5) (w : Bool) : FieldsRead.Statement (.divu d a b w) := raw_divu d a b w
theorem FieldsRead.rem (d a b : BitVec 5) (w : Bool) : FieldsRead.Statement (.rem d a b w) := raw_rem d a b w
theorem FieldsRead.remu (d a b : BitVec 5) (w : Bool) : FieldsRead.Statement (.remu d a b w) := raw_remu d a b w
theorem FieldsRead.clz (d a : BitVec 5) (w : Bool) : FieldsRead.Statement (.clz d a w) := raw_clz d a w
theorem FieldsRead.popc (d a : BitVec 5) (w : Bool) : FieldsRead.Statement (.popc d a w) := raw_popc d a w
theorem FieldsRead.addi (d a : BitVec 5) (i : BitVec 12) : FieldsRead.Statement (.addi d a i) := raw_addi d a i
theorem FieldsRead.andi (d a : BitVec 5) (i : BitVec 12) : FieldsRead.Statement (.andi d a i) := raw_andi d a i
theorem FieldsRead.ori (d a : BitVec 5) (i : BitVec 12) : FieldsRead.Statement (.ori d a i) := raw_ori d a i
theorem FieldsRead.xori (d a : BitVec 5) (i : BitVec 12) : FieldsRead.Statement (.xori d a i) := raw_xori d a i
theorem FieldsRead.slti (d a : BitVec 5) (i : BitVec 12) : FieldsRead.Statement (.slti d a i) := raw_slti d a i
theorem FieldsRead.slli (d a : BitVec 5) (s : BitVec 6) : FieldsRead.Statement (.slli d a s) := raw_slli d a s
theorem FieldsRead.srli (d a : BitVec 5) (s : BitVec 6) : FieldsRead.Statement (.srli d a s) := raw_srli d a s
theorem FieldsRead.srai (d a : BitVec 5) (s : BitVec 6) : FieldsRead.Statement (.srai d a s) := raw_srai d a s
theorem FieldsRead.lui (d : BitVec 5) (i : BitVec 20) : FieldsRead.Statement (.lui d i) := raw_lui d i
theorem FieldsRead.auipc (d : BitVec 5) (i : BitVec 20) : FieldsRead.Statement (.auipc d i) := raw_auipc d i
theorem FieldsRead.ldB (d a : BitVec 5) (i : BitVec 12) : FieldsRead.Statement (.ldB d a i) := raw_ldB d a i
theorem FieldsRead.ldH (d a : BitVec 5) (i : BitVec 12) : FieldsRead.Statement (.ldH d a i) := raw_ldH d a i
theorem FieldsRead.ldW (d a : BitVec 5) (i : BitVec 12) : FieldsRead.Statement (.ldW d a i) := raw_ldW d a i
theorem FieldsRead.ldD (d a : BitVec 5) (i : BitVec 12) : FieldsRead.Statement (.ldD d a i) := raw_ldD d a i
theorem FieldsRead.ldBu (d a : BitVec 5) (i : BitVec 12) : FieldsRead.Statement (.ldBu d a i) := raw_ldBu d a i
theorem FieldsRead.ldHu (d a : BitVec 5) (i : BitVec 12) : FieldsRead.Statement (.ldHu d a i) := raw_ldHu d a i
theorem FieldsRead.ldWu (d a : BitVec 5) (i : BitVec 12) : FieldsRead.Statement (.ldWu d a i) := raw_ldWu d a i
theorem FieldsRead.stB (b a : BitVec 5) (i : BitVec 12) : FieldsRead.Statement (.stB b a i) := raw_stB b a i
theorem FieldsRead.stH (b a : BitVec 5) (i : BitVec 12) : FieldsRead.Statement (.stH b a i) := raw_stH b a i
theorem FieldsRead.stW (b a : BitVec 5) (i : BitVec 12) : FieldsRead.Statement (.stW b a i) := raw_stW b a i
theorem FieldsRead.stD (b a : BitVec 5) (i : BitVec 12) : FieldsRead.Statement (.stD b a i) := raw_stD b a i
theorem FieldsRead.beq (a b : BitVec 5) (i : BitVec 12) : FieldsRead.Statement (.beq a b i) := raw_beq a b i
theorem FieldsRead.bne (a b : BitVec 5) (i : BitVec 12) : FieldsRead.Statement (.bne a b i) := raw_bne a b i
theorem FieldsRead.blt (a b : BitVec 5) (i : BitVec 12) : FieldsRead.Statement (.blt a b i) := raw_blt a b i
theorem FieldsRead.bge (a b : BitVec 5) (i : BitVec 12) : FieldsRead.Statement (.bge a b i) := raw_bge a b i
theorem FieldsRead.bltu (a b : BitVec 5) (i : BitVec 12) : FieldsRead.Statement (.bltu a b i) := raw_bltu a b i
theorem FieldsRead.bgeu (a b : BitVec 5) (i : BitVec 12) : FieldsRead.Statement (.bgeu a b i) := raw_bgeu a b i
theorem FieldsRead.jal (d : BitVec 5) (i : BitVec 20) : FieldsRead.Statement (.jal d i) := raw_jal d i
theorem FieldsRead.jalr (d a : BitVec 5) (i : BitVec 15) : FieldsRead.Statement (.jalr d a i) := raw_jalr d a i
theorem FieldsRead.fadd (d a b : BitVec 5) (f : BitVec 2) (rm : BitVec 3) : FieldsRead.Statement (.fadd d a b f rm) := raw_fadd d a b f rm
theorem FieldsRead.fsub (d a b : BitVec 5) (f : BitVec 2) (rm : BitVec 3) : FieldsRead.Statement (.fsub d a b f rm) := raw_fsub d a b f rm
theorem FieldsRead.fmul (d a b : BitVec 5) (f : BitVec 2) (rm : BitVec 3) : FieldsRead.Statement (.fmul d a b f rm) := raw_fmul d a b f rm
theorem FieldsRead.fdiv (d a b : BitVec 5) (f : BitVec 2) (rm : BitVec 3) : FieldsRead.Statement (.fdiv d a b f rm) := raw_fdiv d a b f rm
theorem FieldsRead.fsqrt (d a : BitVec 5) (f : BitVec 2) (rm : BitVec 3) : FieldsRead.Statement (.fsqrt d a f rm) := raw_fsqrt d a f rm
theorem FieldsRead.fmin (d a b : BitVec 5) (f : BitVec 2) : FieldsRead.Statement (.fmin d a b f) := raw_fmin d a b f
theorem FieldsRead.fmax (d a b : BitVec 5) (f : BitVec 2) : FieldsRead.Statement (.fmax d a b f) := raw_fmax d a b f
theorem FieldsRead.fma (d a b : BitVec 5) (f : BitVec 2) (rm : BitVec 3) : FieldsRead.Statement (.fma d a b f rm) := raw_fma d a b f rm
theorem FieldsRead.feq (d a b : BitVec 5) (f : BitVec 2) : FieldsRead.Statement (.feq d a b f) := raw_feq d a b f
theorem FieldsRead.flt (d a b : BitVec 5) (f : BitVec 2) : FieldsRead.Statement (.flt d a b f) := raw_flt d a b f
theorem FieldsRead.fle (d a b : BitVec 5) (f : BitVec 2) : FieldsRead.Statement (.fle d a b f) := raw_fle d a b f
theorem FieldsRead.fclass (d a : BitVec 5) (f : BitVec 2) : FieldsRead.Statement (.fclass d a f) := raw_fclass d a f
theorem FieldsRead.fcvtI (d a kind : BitVec 5) (f : BitVec 2) (rm : BitVec 3) : FieldsRead.Statement (.fcvtI d a kind f rm) := raw_fcvtI d a kind f rm
theorem FieldsRead.fcvtF (d a kind : BitVec 5) (f : BitVec 2) (rm : BitVec 3) : FieldsRead.Statement (.fcvtF d a kind f rm) := raw_fcvtF d a kind f rm
theorem FieldsRead.fcvt (d a kind : BitVec 5) (f : BitVec 2) (rm : BitVec 3) : FieldsRead.Statement (.fcvt d a kind f rm) := raw_fcvt d a kind f rm
theorem FieldsRead.fsgnj (d a b : BitVec 5) (f : BitVec 2) : FieldsRead.Statement (.fsgnj d a b f) := raw_fsgnj d a b f
theorem FieldsRead.ldAcq (d a : BitVec 5) (s : BitVec 3) (w : Bool) : FieldsRead.Statement (.ldAcq d a s w) := raw_ldAcq d a s w
theorem FieldsRead.stRel (a b : BitVec 5) (s : BitVec 3) (w : Bool) : FieldsRead.Statement (.stRel a b s w) := raw_stRel a b s w
theorem FieldsRead.amoAdd (d a b : BitVec 5) (s : BitVec 3) (w : Bool) : FieldsRead.Statement (.amoAdd d a b s w) := raw_amoAdd d a b s w
theorem FieldsRead.amoAnd (d a b : BitVec 5) (s : BitVec 3) (w : Bool) : FieldsRead.Statement (.amoAnd d a b s w) := raw_amoAnd d a b s w
theorem FieldsRead.amoOr (d a b : BitVec 5) (s : BitVec 3) (w : Bool) : FieldsRead.Statement (.amoOr d a b s w) := raw_amoOr d a b s w
theorem FieldsRead.amoXor (d a b : BitVec 5) (s : BitVec 3) (w : Bool) : FieldsRead.Statement (.amoXor d a b s w) := raw_amoXor d a b s w
theorem FieldsRead.amoMin (d a b : BitVec 5) (s : BitVec 3) (w : Bool) : FieldsRead.Statement (.amoMin d a b s w) := raw_amoMin d a b s w
theorem FieldsRead.amoMax (d a b : BitVec 5) (s : BitVec 3) (w : Bool) : FieldsRead.Statement (.amoMax d a b s w) := raw_amoMax d a b s w
theorem FieldsRead.amoMinu (d a b : BitVec 5) (s : BitVec 3) (w : Bool) : FieldsRead.Statement (.amoMinu d a b s w) := raw_amoMinu d a b s w
theorem FieldsRead.amoMaxu (d a b : BitVec 5) (s : BitVec 3) (w : Bool) : FieldsRead.Statement (.amoMaxu d a b s w) := raw_amoMaxu d a b s w
theorem FieldsRead.amoSwap (d a b : BitVec 5) (s : BitVec 3) (w : Bool) : FieldsRead.Statement (.amoSwap d a b s w) := raw_amoSwap d a b s w
theorem FieldsRead.amoCas (d a b : BitVec 5) (s : BitVec 3) (w : Bool) : FieldsRead.Statement (.amoCas d a b s w) := raw_amoCas d a b s w
theorem FieldsRead.amoFmax (d a b : BitVec 5) (s : BitVec 3) : FieldsRead.Statement (.amoFmax d a b s) := raw_amoFmax d a b s
theorem FieldsRead.fence (s : BitVec 3) : FieldsRead.Statement (.fence s) := raw_fence s
theorem FieldsRead.scommit : FieldsRead.Statement (.scommit) := raw_scommit
theorem FieldsRead.bar (d a : BitVec 5) (s : BitVec 3) : FieldsRead.Statement (.bar d a s) := raw_bar d a s
theorem FieldsRead.bararr (d a : BitVec 5) (s : BitVec 3) : FieldsRead.Statement (.bararr d a s) := raw_bararr d a s
theorem FieldsRead.barwait (a b : BitVec 5) (s : BitVec 3) : FieldsRead.Statement (.barwait a b s) := raw_barwait a b s
theorem FieldsRead.claim (d a b : BitVec 5) (s : BitVec 3) : FieldsRead.Statement (.claim d a b s) := raw_claim d a b s
theorem FieldsRead.waitt (d a : BitVec 5) : FieldsRead.Statement (.waitt d a) := raw_waitt d a
theorem FieldsRead.sendt (a b : BitVec 5) : FieldsRead.Statement (.sendt a b) := raw_sendt a b
theorem FieldsRead.recvchk (d a : BitVec 5) : FieldsRead.Statement (.recvchk d a) := raw_recvchk d a
theorem FieldsRead.waitaddr (d a b : BitVec 5) (s : BitVec 3) : FieldsRead.Statement (.waitaddr d a b s) := raw_waitaddr d a b s
theorem FieldsRead.yield : FieldsRead.Statement (.yield) := raw_yield
theorem FieldsRead.launch (d a : BitVec 5) : FieldsRead.Statement (.launch d a) := raw_launch d a
theorem FieldsRead.xinv (a b : BitVec 5) (s : BitVec 3) : FieldsRead.Statement (.xinv a b s) := raw_xinv a b s
theorem FieldsRead.csrr (d : BitVec 5) (c : BitVec 12) : FieldsRead.Statement (.csrr d c) := raw_csrr d c
theorem FieldsRead.csrw (d a : BitVec 5) (c : BitVec 12) : FieldsRead.Statement (.csrw d a c) := raw_csrw d a c
theorem FieldsRead.csrs (d a : BitVec 5) (c : BitVec 12) : FieldsRead.Statement (.csrs d a c) := raw_csrs d a c
theorem FieldsRead.csrc (d a : BitVec 5) (c : BitVec 12) : FieldsRead.Statement (.csrc d a c) := raw_csrc d a c
theorem FieldsRead.trap (a : BitVec 5) (i : BitVec 12) : FieldsRead.Statement (.trap a i) := raw_trap a i
theorem FieldsRead.tret : FieldsRead.Statement (.tret) := raw_tret
theorem FieldsRead.vsave (d a : BitVec 5) : FieldsRead.Statement (.vsave d a) := raw_vsave d a
theorem FieldsRead.vrestore (d a : BitVec 5) : FieldsRead.Statement (.vrestore d a) := raw_vrestore d a
theorem FieldsRead.scrub (d a : BitVec 5) : FieldsRead.Statement (.scrub d a) := raw_scrub d a
theorem FieldsRead.ctxkill (d a : BitVec 5) : FieldsRead.Statement (.ctxkill d a) := raw_ctxkill d a
theorem FieldsRead.setown (d a : BitVec 5) : FieldsRead.Statement (.setown d a) := raw_setown d a
theorem FieldsRead.vdecl (d a : BitVec 5) : FieldsRead.Statement (.vdecl d a) := raw_vdecl d a
theorem FieldsRead.setvl (d a b : BitVec 5) : FieldsRead.Statement (.setvl d a b) := raw_setvl d a b
theorem FieldsRead.vtag (d t b : BitVec 5) : FieldsRead.Statement (.vtag d t b) := raw_vtag d t b
theorem FieldsRead.vshape (t : Bool) (g : BitVec 2) : FieldsRead.Statement (.vshape t g) := raw_vshape t g
theorem FieldsRead.vmv (k : Bool) (d a : BitVec 5) (e qa : Bool) : FieldsRead.Statement (.vmv k d a e qa) := raw_vmv k d a e qa
theorem FieldsRead.vbcast (k : Bool) (d a : BitVec 5) (e : Bool) : FieldsRead.Statement (.vbcast k d a e) := raw_vbcast k d a e
theorem FieldsRead.vid (k : Bool) (d : BitVec 5) (e : Bool) : FieldsRead.Statement (.vid k d e) := raw_vid k d e
theorem FieldsRead.vidr (k : Bool) (d : BitVec 5) (e : Bool) : FieldsRead.Statement (.vidr k d e) := raw_vidr k d e
theorem FieldsRead.vxtract (k : Bool) (d a b : BitVec 5) (qa : Bool) : FieldsRead.Statement (.vxtract k d a b qa) := raw_vxtract k d a b qa
theorem FieldsRead.vinsert (k : Bool) (d a b : BitVec 5) : FieldsRead.Statement (.vinsert k d a b) := raw_vinsert k d a b
theorem FieldsRead.vadd (k : Bool) (d a b : BitVec 5) (w e qa qb : Bool) : FieldsRead.Statement (.vadd k d a b w e qa qb) := raw_vadd k d a b w e qa qb
theorem FieldsRead.vsub (k : Bool) (d a b : BitVec 5) (w e qa qb : Bool) : FieldsRead.Statement (.vsub k d a b w e qa qb) := raw_vsub k d a b w e qa qb
theorem FieldsRead.vmul (k : Bool) (d a b : BitVec 5) (w e qa qb : Bool) : FieldsRead.Statement (.vmul k d a b w e qa qb) := raw_vmul k d a b w e qa qb
theorem FieldsRead.vmulh (k : Bool) (d a b : BitVec 5) (w e qa qb : Bool) : FieldsRead.Statement (.vmulh k d a b w e qa qb) := raw_vmulh k d a b w e qa qb
theorem FieldsRead.vmin (k : Bool) (d a b : BitVec 5) (w e qa qb : Bool) : FieldsRead.Statement (.vmin k d a b w e qa qb) := raw_vmin k d a b w e qa qb
theorem FieldsRead.vmax (k : Bool) (d a b : BitVec 5) (w e qa qb : Bool) : FieldsRead.Statement (.vmax k d a b w e qa qb) := raw_vmax k d a b w e qa qb
theorem FieldsRead.vand (k : Bool) (d a b : BitVec 5) (w e qa qb : Bool) : FieldsRead.Statement (.vand k d a b w e qa qb) := raw_vand k d a b w e qa qb
theorem FieldsRead.vor (k : Bool) (d a b : BitVec 5) (w e qa qb : Bool) : FieldsRead.Statement (.vor k d a b w e qa qb) := raw_vor k d a b w e qa qb
theorem FieldsRead.vxor (k : Bool) (d a b : BitVec 5) (w e qa qb : Bool) : FieldsRead.Statement (.vxor k d a b w e qa qb) := raw_vxor k d a b w e qa qb
theorem FieldsRead.vsll (k : Bool) (d a b : BitVec 5) (w e qa qb : Bool) : FieldsRead.Statement (.vsll k d a b w e qa qb) := raw_vsll k d a b w e qa qb
theorem FieldsRead.vsrl (k : Bool) (d a b : BitVec 5) (w e qa qb : Bool) : FieldsRead.Statement (.vsrl k d a b w e qa qb) := raw_vsrl k d a b w e qa qb
theorem FieldsRead.vsra (k : Bool) (d a b : BitVec 5) (w e qa qb : Bool) : FieldsRead.Statement (.vsra k d a b w e qa qb) := raw_vsra k d a b w e qa qb
theorem FieldsRead.vabs (k : Bool) (d a : BitVec 5) (w e qa : Bool) : FieldsRead.Statement (.vabs k d a w e qa) := raw_vabs k d a w e qa
theorem FieldsRead.vwmac (k : Bool) (d a b : BitVec 5) (e qa qb : Bool) : FieldsRead.Statement (.vwmac k d a b e qa qb) := raw_vwmac k d a b e qa qb
theorem FieldsRead.vdiv (k : Bool) (d a b : BitVec 5) (w e qa qb : Bool) : FieldsRead.Statement (.vdiv k d a b w e qa qb) := raw_vdiv k d a b w e qa qb
theorem FieldsRead.vrem (k : Bool) (d a b : BitVec 5) (w e qa qb : Bool) : FieldsRead.Statement (.vrem k d a b w e qa qb) := raw_vrem k d a b w e qa qb
theorem FieldsRead.vcmpeq (k : Bool) (d a b : BitVec 5) (e qa qb : Bool) : FieldsRead.Statement (.vcmpeq k d a b e qa qb) := raw_vcmpeq k d a b e qa qb
theorem FieldsRead.vcmplt (k : Bool) (d a b : BitVec 5) (e qa qb : Bool) : FieldsRead.Statement (.vcmplt k d a b e qa qb) := raw_vcmplt k d a b e qa qb
theorem FieldsRead.vcmple (k : Bool) (d a b : BitVec 5) (e qa qb : Bool) : FieldsRead.Statement (.vcmple k d a b e qa qb) := raw_vcmple k d a b e qa qb
theorem FieldsRead.vsel (k : Bool) (d a b : BitVec 5) (w e qa qb : Bool) : FieldsRead.Statement (.vsel k d a b w e qa qb) := raw_vsel k d a b w e qa qb
theorem FieldsRead.vfadd (k : Bool) (d a b : BitVec 5) (w e qa qb : Bool) : FieldsRead.Statement (.vfadd k d a b w e qa qb) := raw_vfadd k d a b w e qa qb
theorem FieldsRead.vfsub (k : Bool) (d a b : BitVec 5) (w e qa qb : Bool) : FieldsRead.Statement (.vfsub k d a b w e qa qb) := raw_vfsub k d a b w e qa qb
theorem FieldsRead.vfmul (k : Bool) (d a b : BitVec 5) (w e qa qb : Bool) : FieldsRead.Statement (.vfmul k d a b w e qa qb) := raw_vfmul k d a b w e qa qb
theorem FieldsRead.vfaddX (k : Bool) (d a b : BitVec 5) (e qa qb : Bool) : FieldsRead.Statement (.vfaddX k d a b e qa qb) := raw_vfaddX k d a b e qa qb
theorem FieldsRead.vfsubX (k : Bool) (d a b : BitVec 5) (e qa qb : Bool) : FieldsRead.Statement (.vfsubX k d a b e qa qb) := raw_vfsubX k d a b e qa qb
theorem FieldsRead.vfmulX (k : Bool) (d a b : BitVec 5) (e qa qb : Bool) : FieldsRead.Statement (.vfmulX k d a b e qa qb) := raw_vfmulX k d a b e qa qb
theorem FieldsRead.vfma (k : Bool) (d a b : BitVec 5) (e qa qb : Bool) : FieldsRead.Statement (.vfma k d a b e qa qb) := raw_vfma k d a b e qa qb
theorem FieldsRead.vfdiv (k : Bool) (d a b : BitVec 5) (w e qa qb : Bool) : FieldsRead.Statement (.vfdiv k d a b w e qa qb) := raw_vfdiv k d a b w e qa qb
theorem FieldsRead.vfsqrt (k : Bool) (d a : BitVec 5) (w e qa : Bool) : FieldsRead.Statement (.vfsqrt k d a w e qa) := raw_vfsqrt k d a w e qa
theorem FieldsRead.vfrcp (k : Bool) (d a : BitVec 5) (w e qa : Bool) : FieldsRead.Statement (.vfrcp k d a w e qa) := raw_vfrcp k d a w e qa
theorem FieldsRead.vfexp2 (k : Bool) (d a : BitVec 5) (w e qa : Bool) : FieldsRead.Statement (.vfexp2 k d a w e qa) := raw_vfexp2 k d a w e qa
theorem FieldsRead.vflog2 (k : Bool) (d a : BitVec 5) (w e qa : Bool) : FieldsRead.Statement (.vflog2 k d a w e qa) := raw_vflog2 k d a w e qa
theorem FieldsRead.vfmin (k : Bool) (d a b : BitVec 5) (w e qa qb : Bool) : FieldsRead.Statement (.vfmin k d a b w e qa qb) := raw_vfmin k d a b w e qa qb
theorem FieldsRead.vfmax (k : Bool) (d a b : BitVec 5) (w e qa qb : Bool) : FieldsRead.Statement (.vfmax k d a b w e qa qb) := raw_vfmax k d a b w e qa qb
theorem FieldsRead.vfcmpeq (k : Bool) (d a b : BitVec 5) (e qa qb : Bool) : FieldsRead.Statement (.vfcmpeq k d a b e qa qb) := raw_vfcmpeq k d a b e qa qb
theorem FieldsRead.vfcmplt (k : Bool) (d a b : BitVec 5) (e qa qb : Bool) : FieldsRead.Statement (.vfcmplt k d a b e qa qb) := raw_vfcmplt k d a b e qa qb
theorem FieldsRead.vfcmple (k : Bool) (d a b : BitVec 5) (e qa qb : Bool) : FieldsRead.Statement (.vfcmple k d a b e qa qb) := raw_vfcmple k d a b e qa qb
theorem FieldsRead.vfclass (k : Bool) (d a : BitVec 5) (w e qa : Bool) : FieldsRead.Statement (.vfclass k d a w e qa) := raw_vfclass k d a w e qa
theorem FieldsRead.vdwadd (k : Bool) (d a b : BitVec 5) (e : Bool) : FieldsRead.Statement (.vdwadd k d a b e) := raw_vdwadd k d a b e
theorem FieldsRead.vdwmul (k : Bool) (d a b : BitVec 5) (e : Bool) : FieldsRead.Statement (.vdwmul k d a b e) := raw_vdwmul k d a b e
theorem FieldsRead.vdwnorm (k : Bool) (d a : BitVec 5) (e : Bool) : FieldsRead.Statement (.vdwnorm k d a e) := raw_vdwnorm k d a e
theorem FieldsRead.vredsumX (k : Bool) (d a : BitVec 5) (e : Bool) : FieldsRead.Statement (.vredsumX k d a e) := raw_vredsumX k d a e
theorem FieldsRead.vcvt (k : Bool) (d a : BitVec 5) (e qa : Bool) : FieldsRead.Statement (.vcvt k d a e qa) := raw_vcvt k d a e qa
theorem FieldsRead.vscale (k : Bool) (d a f : BitVec 5) (e qa : Bool) : FieldsRead.Statement (.vscale k d a f e qa) := raw_vscale k d a f e qa
theorem FieldsRead.vquant (k : Bool) (d a b : BitVec 5) (e qa qb : Bool) : FieldsRead.Statement (.vquant k d a b e qa qb) := raw_vquant k d a b e qa qb
theorem FieldsRead.vdeq (k : Bool) (d a b : BitVec 5) (e qa qb : Bool) : FieldsRead.Statement (.vdeq k d a b e qa qb) := raw_vdeq k d a b e qa qb
theorem FieldsRead.vld (k : Bool) (d a : BitVec 5) (sp o qa : Bool) : FieldsRead.Statement (.vld k d a sp o qa) := raw_vld k d a sp o qa
theorem FieldsRead.vlds (k : Bool) (d a b : BitVec 5) (sp o qa : Bool) : FieldsRead.Statement (.vlds k d a b sp o qa) := raw_vlds k d a b sp o qa
theorem FieldsRead.vldx (k : Bool) (d a b : BitVec 5) (sp o qa : Bool) : FieldsRead.Statement (.vldx k d a b sp o qa) := raw_vldx k d a b sp o qa
theorem FieldsRead.vldb (k : Bool) (d a b : BitVec 5) (sp o qa : Bool) : FieldsRead.Statement (.vldb k d a b sp o qa) := raw_vldb k d a b sp o qa
theorem FieldsRead.vst (k : Bool) (d a : BitVec 5) (sp o : Bool) : FieldsRead.Statement (.vst k d a sp o) := raw_vst k d a sp o
theorem FieldsRead.vsts (k : Bool) (d a b : BitVec 5) (sp o : Bool) : FieldsRead.Statement (.vsts k d a b sp o) := raw_vsts k d a b sp o
theorem FieldsRead.vstx (k : Bool) (d a b : BitVec 5) (sp o : Bool) : FieldsRead.Statement (.vstx k d a b sp o) := raw_vstx k d a b sp o
theorem FieldsRead.vstt (d a b : BitVec 5) : FieldsRead.Statement (.vstt d a b) := raw_vstt d a b
theorem FieldsRead.vgather (k : Bool) (d a b : BitVec 5) (e qb : Bool) : FieldsRead.Statement (.vgather k d a b e qb) := raw_vgather k d a b e qb
theorem FieldsRead.vslideup (k : Bool) (d a b : BitVec 5) (w e qa : Bool) : FieldsRead.Statement (.vslideup k d a b w e qa) := raw_vslideup k d a b w e qa
theorem FieldsRead.vslidedn (k : Bool) (d a b : BitVec 5) (w e qa : Bool) : FieldsRead.Statement (.vslidedn k d a b w e qa) := raw_vslidedn k d a b w e qa
theorem FieldsRead.vcompress (k : Bool) (d a b : BitVec 5) (e qa : Bool) : FieldsRead.Statement (.vcompress k d a b e qa) := raw_vcompress k d a b e qa
theorem FieldsRead.vexpand (k : Bool) (d a b : BitVec 5) (e qa : Bool) : FieldsRead.Statement (.vexpand k d a b e qa) := raw_vexpand k d a b e qa
theorem FieldsRead.vrev (k : Bool) (d a : BitVec 5) (w e qa : Bool) : FieldsRead.Statement (.vrev k d a w e qa) := raw_vrev k d a w e qa
theorem FieldsRead.vmand (k : Bool) (d a b : BitVec 5) : FieldsRead.Statement (.vmand k d a b) := raw_vmand k d a b
theorem FieldsRead.vmor (k : Bool) (d a b : BitVec 5) : FieldsRead.Statement (.vmor k d a b) := raw_vmor k d a b
theorem FieldsRead.vmxor (k : Bool) (d a b : BitVec 5) : FieldsRead.Statement (.vmxor k d a b) := raw_vmxor k d a b
theorem FieldsRead.vmnot (k : Bool) (d a : BitVec 5) : FieldsRead.Statement (.vmnot k d a) := raw_vmnot k d a
theorem FieldsRead.vmpop (k : Bool) (d a : BitVec 5) : FieldsRead.Statement (.vmpop k d a) := raw_vmpop k d a
theorem FieldsRead.vmffs (k : Bool) (d a : BitVec 5) : FieldsRead.Statement (.vmffs k d a) := raw_vmffs k d a
theorem FieldsRead.vmset (k : Bool) (d a : BitVec 5) : FieldsRead.Statement (.vmset k d a) := raw_vmset k d a
theorem FieldsRead.vmffsr (k : Bool) (d a : BitVec 5) : FieldsRead.Statement (.vmffsr k d a) := raw_vmffsr k d a
theorem FieldsRead.vredsum (k : Bool) (d a : BitVec 5) (e qa : Bool) : FieldsRead.Statement (.vredsum k d a e qa) := raw_vredsum k d a e qa
theorem FieldsRead.vredmax (k : Bool) (d a : BitVec 5) (e qa : Bool) : FieldsRead.Statement (.vredmax k d a e qa) := raw_vredmax k d a e qa
theorem FieldsRead.vredmin (k : Bool) (d a : BitVec 5) (e qa : Bool) : FieldsRead.Statement (.vredmin k d a e qa) := raw_vredmin k d a e qa
theorem FieldsRead.vredand (k : Bool) (d a : BitVec 5) (e qa : Bool) : FieldsRead.Statement (.vredand k d a e qa) := raw_vredand k d a e qa
theorem FieldsRead.vredor (k : Bool) (d a : BitVec 5) (e qa : Bool) : FieldsRead.Statement (.vredor k d a e qa) := raw_vredor k d a e qa
theorem FieldsRead.vscansum (k : Bool) (d a b : BitVec 5) (e qa : Bool) : FieldsRead.Statement (.vscansum k d a b e qa) := raw_vscansum k d a b e qa
theorem FieldsRead.vscanmax (k : Bool) (d a b : BitVec 5) (e qa : Bool) : FieldsRead.Statement (.vscanmax k d a b e qa) := raw_vscanmax k d a b e qa
theorem FieldsRead.vscanand (k : Bool) (d a b : BitVec 5) (e qa : Bool) : FieldsRead.Statement (.vscanand k d a b e qa) := raw_vscanand k d a b e qa
theorem FieldsRead.vsegsum (k : Bool) (d a b : BitVec 5) (e qa : Bool) : FieldsRead.Statement (.vsegsum k d a b e qa) := raw_vsegsum k d a b e qa
theorem FieldsRead.vsegmax (k : Bool) (d a b : BitVec 5) (e qa : Bool) : FieldsRead.Statement (.vsegmax k d a b e qa) := raw_vsegmax k d a b e qa
theorem FieldsRead.tagw (d a b : BitVec 5) : FieldsRead.Statement (.tagw d a b) := raw_tagw d a b
theorem FieldsRead.tagr (d a : BitVec 5) : FieldsRead.Statement (.tagr d a) := raw_tagr d a
theorem FieldsRead.tmatch (d a : BitVec 5) : FieldsRead.Statement (.tmatch d a) := raw_tmatch d a
theorem FieldsRead.toprSet (d a b : BitVec 5) (y : BitVec 3) : FieldsRead.Statement (.toprSet d a b y) := raw_toprSet d a b y
theorem FieldsRead.toprAdd (d a b : BitVec 5) (y : BitVec 3) : FieldsRead.Statement (.toprAdd d a b y) := raw_toprAdd d a b y
theorem FieldsRead.toprMuls (d a b : BitVec 5) (y : BitVec 3) : FieldsRead.Statement (.toprMuls d a b y) := raw_toprMuls d a b y
theorem FieldsRead.toprClr (d a : BitVec 5) : FieldsRead.Statement (.toprClr d a) := raw_toprClr d a
theorem FieldsRead.toprRetag (d a b : BitVec 5) : FieldsRead.Statement (.toprRetag d a b) := raw_toprRetag d a b
theorem FieldsRead.mzero (d : BitVec 5) : FieldsRead.Statement (.mzero d) := raw_mzero d
theorem FieldsRead.mop (d a b : BitVec 5) : FieldsRead.Statement (.mop d a b) := raw_mop d a b
theorem FieldsRead.mldw (d a b : BitVec 5) : FieldsRead.Statement (.mldw d a b) := raw_mldw d a b
theorem FieldsRead.mkeep (d a b : BitVec 5) : FieldsRead.Statement (.mkeep d a b) := raw_mkeep d a b
theorem FieldsRead.mdrain (d a b : BitVec 5) : FieldsRead.Statement (.mdrain d a b) := raw_mdrain d a b
theorem FieldsRead.mtov (d a b : BitVec 5) : FieldsRead.Statement (.mtov d a b) := raw_mtov d a b
theorem FieldsRead.mfromv (d a b : BitVec 5) : FieldsRead.Statement (.mfromv d a b) := raw_mfromv d a b
theorem FieldsRead.mwait : FieldsRead.Statement (.mwait) := raw_mwait
theorem FieldsRead.dcopy (d a b c : BitVec 5) : FieldsRead.Statement (.dcopy d a b c) := raw_dcopy d a b c
theorem FieldsRead.dcopy2d (d a : BitVec 5) : FieldsRead.Statement (.dcopy2d d a) := raw_dcopy2d d a
theorem FieldsRead.dfill (d a b c : BitVec 5) : FieldsRead.Statement (.dfill d a b c) := raw_dfill d a b c
theorem FieldsRead.tkwait (d a : BitVec 5) (s : BitVec 3) : FieldsRead.Statement (.tkwait d a s) := raw_tkwait d a s
theorem FieldsRead.tktest (d a : BitVec 5) (s : BitVec 3) : FieldsRead.Statement (.tktest d a s) := raw_tktest d a s
theorem FieldsRead.ddeal (d a : BitVec 5) : FieldsRead.Statement (.ddeal d a) := raw_ddeal d a
theorem FieldsRead.cmv (d a b c : BitVec 5) : FieldsRead.Statement (.cmv d a b c) := raw_cmv d a b c
theorem FieldsRead.cwrite (d a b : BitVec 5) : FieldsRead.Statement (.cwrite d a b) := raw_cwrite d a b
theorem FieldsRead.ccommit (d a : BitVec 5) : FieldsRead.Statement (.ccommit d a) := raw_ccommit d a
theorem FieldsRead.cstat (d a : BitVec 5) : FieldsRead.Statement (.cstat d a) := raw_cstat d a
theorem FieldsRead.ccal (d a : BitVec 5) : FieldsRead.Statement (.ccal d a) := raw_ccal d a
theorem FieldsRead.binst (d a b c : BitVec 5) : FieldsRead.Statement (.binst d a b c) := raw_binst d a b c
theorem FieldsRead.bmsg (d a b c : BitVec 5) : FieldsRead.Statement (.bmsg d a b c) := raw_bmsg d a b c
theorem FieldsRead.bstat (d a : BitVec 5) : FieldsRead.Statement (.bstat d a) := raw_bstat d a
theorem FieldsRead.vscore (k : Bool) (d a b : BitVec 5) (w : Bool) : FieldsRead.Statement (.vscore k d a b w) := raw_vscore k d a b w
theorem FieldsRead.vexpm (k : Bool) (d b : BitVec 5) (w : Bool) : FieldsRead.Statement (.vexpm k d b w) := raw_vexpm k d b w
theorem FieldsRead.vaccv (k : Bool) (d b : BitVec 5) : FieldsRead.Statement (.vaccv k d b) := raw_vaccv k d b
theorem FieldsRead.vsoftfin (k : Bool) (d a b : BitVec 5) (qa : Bool) : FieldsRead.Statement (.vsoftfin k d a b qa) := raw_vsoftfin k d a b qa
theorem FieldsRead.vtreem (k : Bool) (d a : BitVec 5) : FieldsRead.Statement (.vtreem k d a) := raw_vtreem k d a
theorem FieldsRead.vaccept (k : Bool) (d a : BitVec 5) : FieldsRead.Statement (.vaccept k d a) := raw_vaccept k d a
theorem FieldsRead.vcommitm (k : Bool) (d a b : BitVec 5) (qa : Bool) : FieldsRead.Statement (.vcommitm k d a b qa) := raw_vcommitm k d a b qa
theorem FieldsRead.vmaxi (k : Bool) (d a b : BitVec 5) : FieldsRead.Statement (.vmaxi k d a b) := raw_vmaxi k d a b
theorem FieldsRead.pdlook (d a b c : BitVec 5) : FieldsRead.Statement (.pdlook d a b c) := raw_pdlook d a b c
theorem FieldsRead.pdins (d a b c : BitVec 5) : FieldsRead.Statement (.pdins d a b c) := raw_pdins d a b c
theorem FieldsRead.pdref (d a : BitVec 5) : FieldsRead.Statement (.pdref d a) := raw_pdref d a
theorem FieldsRead.pdunref (d a : BitVec 5) : FieldsRead.Statement (.pdunref d a) := raw_pdunref d a
theorem FieldsRead.pdstat (d a : BitVec 5) : FieldsRead.Statement (.pdstat d a) := raw_pdstat d a
theorem FieldsRead.pfx (pm : BitVec 3) (pn : Bool) (em ek : BitVec 3) (dc : BitVec 5) (dce : Bool) (rm : BitVec 3) (sat : Bool) : FieldsRead.Statement (.pfx pm pn em ek dc dce rm sat) := raw_pfx pm pn em ek dc dce rm sat
theorem FieldsRead.bHalt : FieldsRead.Statement (.bHalt) := raw_bHalt
theorem FieldsRead.bLi (d : BitVec 4) (i : BitVec 15) : FieldsRead.Statement (.bLi d i) := raw_bLi d i
theorem FieldsRead.bAdd (d a b : BitVec 4) (i : BitVec 15) : FieldsRead.Statement (.bAdd d a b i) := raw_bAdd d a b i
theorem FieldsRead.bSub (d a b : BitVec 4) : FieldsRead.Statement (.bSub d a b) := raw_bSub d a b
theorem FieldsRead.bAnd (d a b : BitVec 4) : FieldsRead.Statement (.bAnd d a b) := raw_bAnd d a b
theorem FieldsRead.bShl (d a : BitVec 4) (i : BitVec 6) : FieldsRead.Statement (.bShl d a i) := raw_bShl d a i
theorem FieldsRead.bShr (d a : BitVec 4) (i : BitVec 6) : FieldsRead.Statement (.bShr d a i) := raw_bShr d a i
theorem FieldsRead.bBnz (a : BitVec 4) (i : BitVec 15) : FieldsRead.Statement (.bBnz a i) := raw_bBnz a i
theorem FieldsRead.bBz (a : BitVec 4) (i : BitVec 15) : FieldsRead.Statement (.bBz a i) := raw_bBz a i
theorem FieldsRead.bLdq (d a : BitVec 4) (i : BitVec 15) : FieldsRead.Statement (.bLdq d a i) := raw_bLdq d a i
theorem FieldsRead.bStq (a b : BitVec 4) (i : BitVec 15) : FieldsRead.Statement (.bStq a b i) := raw_bStq a b i
theorem FieldsRead.bMode (i : Bool) : FieldsRead.Statement (.bMode i) := raw_bMode i
theorem FieldsRead.bAct (a : BitVec 4) : FieldsRead.Statement (.bAct a) := raw_bAct a
theorem FieldsRead.bPre : FieldsRead.Statement (.bPre) := raw_bPre
theorem FieldsRead.bXld (a : BitVec 4) (i : Bool) : FieldsRead.Statement (.bXld a i) := raw_bXld a i
theorem FieldsRead.bMac (a b : BitVec 4) : FieldsRead.Statement (.bMac a b) := raw_bMac a b
theorem FieldsRead.bAclr : FieldsRead.Statement (.bAclr) := raw_bAclr
theorem FieldsRead.bAclrEntry (b : BitVec 4) : FieldsRead.Statement (.bAclrEntry b) := raw_bAclrEntry b
theorem FieldsRead.bArd (a b : BitVec 4) : FieldsRead.Statement (.bArd a b) := raw_bArd a b
theorem FieldsRead.bRout (a : BitVec 4) (i : BitVec 3) : FieldsRead.Statement (.bRout a i) := raw_bRout a i
theorem FieldsRead.deviceReset : FieldsRead.Statement (.deviceReset) := rfl
theorem FieldsRead.bootStage (img : List Byte) (readable passes : Bool) : FieldsRead.Statement (.bootStage img readable passes) := rfl
theorem FieldsRead.coreCycle : FieldsRead.Statement (.coreCycle) := rfl
theorem FieldsRead.laneHoldExpiry (h : Nat) : FieldsRead.Statement (.laneHoldExpiry h) := rfl
theorem FieldsRead.laneGrant (core : Nat) : FieldsRead.Statement (.laneGrant core) := rfl
theorem FieldsRead.budget : FieldsRead.Statement (.budget) := rfl
theorem FieldsRead.launchWaitExpiry (ctx : Nat) : FieldsRead.Statement (.launchWaitExpiry ctx) := rfl
theorem FieldsRead.gangPlacement (ctx : Nat) (places : List Nat) : FieldsRead.Statement (.gangPlacement ctx places) := rfl
theorem FieldsRead.memberExit (h : Nat) : FieldsRead.Statement (.memberExit h) := rfl
theorem FieldsRead.barrierComplete (gang bar : Nat) : FieldsRead.Statement (.barrierComplete gang bar) := rfl
theorem FieldsRead.waittInstant (h : Nat) : FieldsRead.Statement (.waittInstant h) := rfl
theorem FieldsRead.waitaddrWake (h : Nat) : FieldsRead.Statement (.waitaddrWake h) := rfl
theorem FieldsRead.sendtArrival (i : Nat) : FieldsRead.Statement (.sendtArrival i) := rfl
theorem FieldsRead.matrixExecute (h : Nat) : FieldsRead.Statement (.matrixExecute h) := rfl
theorem FieldsRead.copyComplete (cmd : Nat) : FieldsRead.Statement (.copyComplete cmd) := rfl
theorem FieldsRead.dealPassage (cmd : Nat) : FieldsRead.Statement (.dealPassage cmd) := rfl
theorem FieldsRead.cwriteComplete (cmd : Nat) : FieldsRead.Statement (.cwriteComplete cmd) := rfl
theorem FieldsRead.versionSwitch (cmd : Nat) : FieldsRead.Statement (.versionSwitch cmd) := rfl
theorem FieldsRead.arrayPass (cmd tile : Nat) (plumbOk : Bool) : FieldsRead.Statement (.arrayPass cmd tile plumbOk) := rfl
theorem FieldsRead.cmvComplete (cmd : Nat) : FieldsRead.Statement (.cmvComplete cmd) := rfl
theorem FieldsRead.recalibration (ctx handle tile : Nat) : FieldsRead.Statement (.recalibration ctx handle tile) := rfl
theorem FieldsRead.rotationSwitch (ctx handle : Nat) : FieldsRead.Statement (.rotationSwitch ctx handle) := rfl
theorem FieldsRead.handlerStart (chan : Nat) : FieldsRead.Statement (.handlerStart chan) := rfl
theorem FieldsRead.modeSwitchDone (chan : Nat) : FieldsRead.Statement (.modeSwitchDone chan) := rfl
theorem FieldsRead.kittyService (stack : Nat) (normalCost : Nat) :
    FieldsRead.Statement (.kittyService stack normalCost) := rfl
theorem FieldsRead.patrol (code target at_ : Nat) : FieldsRead.Statement (.patrol code target at_) := rfl
theorem FieldsRead.faultHoldRelease (ctx page : Nat) : FieldsRead.Statement (.faultHoldRelease ctx page) := rfl
theorem FieldsRead.coreSwitch (core ctx : Nat) : FieldsRead.Statement (.coreSwitch core ctx) := rfl
theorem FieldsRead.localStoreSave (core : Nat) : FieldsRead.Statement (.localStoreSave core) := rfl
theorem FieldsRead.killScrub (ctx : Nat) (bad : List Nat) : FieldsRead.Statement (.killScrub ctx bad) := rfl
theorem FieldsRead.releaseScrub (ctx : Nat) (bad : List Nat) : FieldsRead.Statement (.releaseScrub ctx bad) := rfl
theorem FieldsRead.errorEntryDone (ctx : Nat) : FieldsRead.Statement (.errorEntryDone ctx) := rfl
theorem FieldsRead.linkDown (link : Nat) : FieldsRead.Statement (.linkDown link) := rfl
theorem FieldsRead.linkRetrained (link : Nat) : FieldsRead.Statement (.linkRetrained link) := rfl
theorem FieldsRead.peerPortFail (port : Nat) : FieldsRead.Statement (.peerPortFail port) := rfl
theorem FieldsRead.hostLinkFail : FieldsRead.Statement (.hostLinkFail) := rfl
theorem FieldsRead.hostLinkReset : FieldsRead.Statement (.hostLinkReset) := rfl
theorem FieldsRead.ideIntegrityFailure (ctx : Nat) : FieldsRead.Statement (.ideIntegrityFailure ctx) := rfl
theorem FieldsRead.tdispViolation (ctx : Nat) : FieldsRead.Statement (.tdispViolation ctx) := rfl
theorem FieldsRead.flr (ctx : Nat) : FieldsRead.Statement (.flr ctx) := rfl
theorem FieldsRead.lockInterface (ctx : Nat) : FieldsRead.Statement (.lockInterface ctx) := rfl
theorem FieldsRead.startInterface (ctx : Nat) : FieldsRead.Statement (.startInterface ctx) := rfl
theorem FieldsRead.stopInterface (ctx : Nat) : FieldsRead.Statement (.stopInterface ctx) := rfl
theorem FieldsRead.getDeviceInterfaceReport (ctx : Nat) : FieldsRead.Statement (.getDeviceInterfaceReport ctx) := rfl
theorem FieldsRead.getDeviceInterfaceState (ctx : Nat) : FieldsRead.Statement (.getDeviceInterfaceState ctx) := rfl
theorem FieldsRead.getVersion : FieldsRead.Statement (.getVersion) := rfl
theorem FieldsRead.getCapabilities : FieldsRead.Statement (.getCapabilities) := rfl
theorem FieldsRead.negotiateAlgorithms (asym hash : Nat) : FieldsRead.Statement (.negotiateAlgorithms asym hash) := rfl
theorem FieldsRead.getDigests : FieldsRead.Statement (.getDigests) := rfl
theorem FieldsRead.getCertificate : FieldsRead.Statement (.getCertificate) := rfl
theorem FieldsRead.challenge (nonce : List Byte) : FieldsRead.Statement (.challenge nonce) := rfl
theorem FieldsRead.getMeasurements (signed : Bool) (nonce : List Byte) : FieldsRead.Statement (.getMeasurements signed nonce) := rfl
theorem FieldsRead.keyExchange (data : List Byte) : FieldsRead.Statement (.keyExchange data) := rfl
theorem FieldsRead.finish (data : List Byte) : FieldsRead.Statement (.finish data) := rfl
theorem FieldsRead.ideKm (fn : Nat) (key : BitVec 256) : FieldsRead.Statement (.ideKm fn key) := rfl
theorem FieldsRead.d3cold : FieldsRead.Statement (.d3cold) := rfl
theorem FieldsRead.d3hotRequest : FieldsRead.Statement (.d3hotRequest) := rfl
theorem FieldsRead.start (ctx : Nat) (hseq : XWord) : FieldsRead.Statement (.start ctx hseq) := rfl
theorem FieldsRead.grant (mseq : XWord) : FieldsRead.Statement (.grant mseq) := rfl
theorem FieldsRead.exportAudit (mseq : XWord) : FieldsRead.Statement (.exportAudit mseq) := rfl
theorem FieldsRead.auditack (v : XWord) : FieldsRead.Statement (.auditack v) := rfl
theorem FieldsRead.powerLimit (v : XWord) : FieldsRead.Statement (.powerLimit v) := rfl
theorem FieldsRead.powerWindow (watts : Nat) : FieldsRead.Statement (.powerWindow watts) := rfl
theorem FieldsRead.registerWrite (fn off : Nat) (v : XWord) : FieldsRead.Statement (.registerWrite fn off v) := rfl
theorem FieldsRead.hostOrPeerWrite (peer : Bool) (pa : Nat) (data : List Byte) : FieldsRead.Statement (.hostOrPeerWrite peer pa data) := rfl
theorem FieldsRead.cxlMemRead (pa n : Nat) : FieldsRead.Statement (.cxlMemRead pa n) := rfl
theorem FieldsRead.snoopInvalidate (pa : Nat) (data : List Byte) : FieldsRead.Statement (.snoopInvalidate pa data) := rfl
theorem FieldsRead.illegal (word : Word) : FieldsRead.Statement (.illegal word) := rfl
theorem FieldsRead.handlerInstall (chan : Nat) : FieldsRead.Statement (.handlerInstall chan) := rfl
theorem FieldsRead.peerRead (pa n : Nat) : FieldsRead.Statement (.peerRead pa n) := rfl
theorem FieldsRead.unknownOp (mseq : XWord) : FieldsRead.Statement (.unknownOp mseq) := rfl

end Laws
end Sys2Proof
end

