-- ==== Sys2Proof/Safety.lean ====
section
/-! DEFINITION. What claims about a run are stated in: when a hart may finish a convoy without a commit, or commit first; what a
convoy leaves alone; and the invariant that every step keeps. -/

namespace Sys2Proof
namespace Machine

/-- The open strip takes the end of one more convoy without a commit: trap level 0, stores buffered, room in the buffer (R29,
R30, R394). -/
def InStrip (s : State) : Prop :=
  s.hart.tl = 0 ∧ s.hart.early = false ∧ storeBytesHeld s.regs ≤ Config.storeBufBytes

/-- The first word of a convoy: nothing of a convoy has executed, and no prefix waits. -/
def AtConvoy (s : State) : Prop := s.hart.undo = none ∧ s.regs.pend = none ∧ s.regs.member = 0

/-- A commit at the executing hart's PC is possible: level 0, no queue holds a tile (R39), and every buffered store may be performed:
none waits for queued reads of its bytes, a link, an engine's line or a bank (R266, R290, R316, R322, R424). -/
def MayCommit (s : State) : Prop :=
  s.hart.tl = 0 ∧ AtConvoy s ∧ queuesEmpty s.regs = true ∧ commitWait s = none

/-- The state once the open strip has been committed at the PC: its stores performed, its twins committed, a new strip open
(R27, R28, R31). -/
def State.committed (s : State) : State := s.settle.openStrip s.regs.pc

/-- Nothing outside the executing hart changed, and nothing of the hart but its registers and what the end of a convoy marks. -/
def SameMachine (s t : State) : Prop :=
  (∀ a, memRead t.mem a = memRead s.mem a) ∧
  t = { s with
    hart := { s.hart with
      regs := t.hart.regs, undo := t.hart.undo, wait := t.hart.wait, readySince := t.hart.readySince } }

/-- Nothing but poisonings of units that walks found mismatched comes next in t before what came next in s (R98, R406). -/
def OnlyFound (s t : State) : Prop :=
  ∃ l, t.agenda = l ++ s.agenda ∧ ∀ x ∈ l, ∃ agent gang unit va, x = Turn.found agent gang unit va

/-- As `SameMachine`, but that an access may have filled a translation cache, used up free values, or met bad units on a walk (R98). -/
def SameButTlb (s t : State) : Prop :=
  (∀ a, memRead t.mem a = memRead s.mem a) ∧ OnlyFound s t ∧
  t = { s with
    tlb := t.tlb
    free := t.free
    agenda := t.agenda
    hart := { s.hart with
      regs := t.hart.regs, undo := t.hart.undo, wait := t.hart.wait, readySince := t.hart.readySince } }

/-- Of the registers only x, PC and the marks of a convoy changed: VL, VR, shape, FRM, FFLAGS, SEED, generators, PFXS, vector and
mask registers, queues and buffered stores are as they were. -/
def OnlyX (r q : Regs) : Prop :=
  q = { r with x := q.x, pc := q.pc, pend := q.pend, cv := q.cv, chain := q.chain, first := q.first, member := q.member }

/-- As `OnlyX`, but FFLAGS and the generators too. -/
def OnlyXFlags (r q : Regs) : Prop :=
  q = { r with
    x := q.x, pc := q.pc, pend := q.pend, cv := q.cv, chain := q.chain, first := q.first, member := q.member
    fflags := q.fflags, gens := q.gens }

/-- Register d holds v, every other scalar register what it held; x0 reads 0 (R122). -/
def WritesX (s t : State) (d : BitVec 5) (v : XWord) : Prop :=
  t.x 0 = 0 ∧ ∀ r, r ≠ 0 → t.x r = if r = d then v else s.x r

/-- The answer is a next state in which register d holds v and the next word is at PC + 4, and nothing else has changed. -/
def Sets (r : Result) (s : State) (d : BitVec 5) (v : XWord) : Prop :=
  ∃ t, r = .next t ∧ WritesX s t d v ∧ t.regs.pc = s.regs.pc + 4 ∧ OnlyX s.regs t.regs ∧ SameMachine s t

/-- As `Sets`, for an access, which may fill a translation cache. -/
def SetsByAccess (r : Result) (s : State) (d : BitVec 5) (v : XWord) : Prop :=
  ∃ t, r = .next t ∧ WritesX s t d v ∧ t.regs.pc = s.regs.pc + 4 ∧ OnlyX s.regs t.regs ∧ SameButTlb s t

/-- As `Sets`, for an operation that rounds: FFLAGS takes the exceptions raised beside those it holds, and generator 0 its next
state (R60, R62, R141). -/
def SetsRounded (r : Result) (s : State) (d : BitVec 5) (v : XWord) (fl : Flags) (g : BitVec 32) : Prop :=
  ∃ t, r = .next t ∧ WritesX s t d v ∧ t.regs.pc = s.regs.pc + 4 ∧ t.regs.fflags = s.regs.fflags ||| fl ∧
    (∀ i, gen t.regs.gens i = if i % 64 = 0 then g else gen s.regs.gens i) ∧ OnlyXFlags s.regs t.regs ∧ SameMachine s t

/-- The answer is a next state at the word `target`, with v in register d, and nothing else has changed. -/
def Goes (r : Result) (s : State) (d : BitVec 5) (v target : XWord) : Prop :=
  ∃ t, r = .next t ∧ WritesX s t d v ∧ t.regs.pc = target ∧ OnlyX s.regs t.regs ∧ SameMachine s t

/-! ### Accesses -/

/-- A read of n bytes at a virtual address is allowed, need not wait, and meets no bad unit; they start at physical address pa. -/
def Readable (s : State) (va : XWord) (n pa : Nat) : Prop :=
  ∃ s1, access s .read va n 0 = .ok (pa, s1) ∧ poisonCheck s1 .read va pa n 0 = .ok ()

/-- A store of n bytes at a virtual address is allowed and need not wait; they go to physical address pa on. -/
def Writable (s : State) (va : XWord) (n pa : Nat) : Prop := ∃ s1, access s .write va n 0 = .ok (pa, s1)

/-- A byte of memory as the executing hart's loads see it: its newest buffered store, else memory (R29). -/
def seenByte (s : State) (a : Nat) : Byte := (forwarded s.regs.storeBuf false a).getD (memRead s.mem a)

/-! ### Traps (R388 to R393) -/

/-- The handler entry of each cause (Table 23.1). -/
def entryOf (code : Nat) : Nat :=
  match code with
  | 0x05 => 1
  | 0x06 => 2
  | 0x07 => 2
  | 0x08 => 2
  | 0x09 => 2
  | 0x0B => 3
  | 0x0C => 3
  | 0x0A => 4
  | 0x0E => 5
  | 0x0F => 6
  | _ => 0

/-- Entry to trap level 1 from the state `c` (R393): the level, TC1, TP1, TV1 and TS1, PFXS invalid, and the handler's address; a
leader is named for an XLAT of a page (R92, R421).  The hart counts as ready since now (R364).  Nothing else changes. -/
def EntersTrap (c t : State) (tr : Trap) (restart : Bool) (member : Nat) (ret : XWord) : Prop :=
  t.hart.tl = 1 ∧
  t.hart.t1 = {
    cause := BitVec.ofNat 8 tr.code, restart := restart, fetch := tr.fetch, write := tr.write, sspace := tr.sspace
    member := BitVec.ofNat 2 member, index := BitVec.ofNat 19 tr.index, tp := ret.setWidth 57, tv := tr.tv
    pfx := c.regs.pfxFields, pfxv := c.regs.pfxValid, ptl := 0 } ∧
  t.regs = { c.regs with
    pfxValid := false, pc := sext 57 (xword (c.hart.thb.toNat * 1024 + 64 * entryOf tr.code)) } ∧
  t = { c with
    hart := { c.hart with tl := t.hart.tl, t1 := t.hart.t1, regs := t.hart.regs, readySince := readyAt c.gtime }
    leaders := if tr.code = 0x07 ∧ canonical tr.tv = true then ⟨c.hart.ctx, faultPage tr, c.cur, 1⟩ :: c.leaders else c.leaders }

/-- A hart of a context at trap level 0 that has named its handlers: its causes are taken as traps (R400). -/
def Traps (s : State) : Prop := s.hart.steward = false ∧ s.hart.tl = 0 ∧ s.hart.thb ≠ 0

/-! ### Irreversible instructions -/

/-- The hart of `t` stands at the word after that of `c`, with a new strip open there and no convoy begun (R27, R31). -/
def NextStrip (c t : State) : Prop :=
  t.regs.pc = c.regs.pc + 4 ∧ t.hart.ckpt = snapshot t.regs t.regs.pc ∧ t.hart.scp = t.regs.pc.setWidth 57 ∧
    t.hart.early = false ∧ t.hart.undo = none

/-- Of the hart only its registers, its strip and what the end of a convoy marks changed. -/
def StripOnly (h g : Hart) : Prop :=
  g = { h with
    regs := g.regs, undo := g.undo, wait := g.wait, readySince := g.readySince, ckpt := g.ckpt, scp := g.scp
    stripOpened := g.stripOpened, early := g.early }

/-- The answer of an irreversible instruction that, after the commit, changes nothing but register d. -/
def SetsAfterCommit (r : Result) (s : State) (d : BitVec 5) (v : XWord) : Prop :=
  ∃ t, r = .next t ∧ NextStrip s.committed t ∧ t.hart.wait = none ∧ WritesX s.committed t d v ∧
    OnlyX s.committed.regs t.regs ∧ StripOnly s.committed.hart t.hart ∧ t = { s.committed with hart := t.hart }

/-- As `SetsAfterCommit`, where the effect leaves the state `c` of the committed machine instead: register d is written in it, the
hart then waits as `w` says, and nothing else changes beyond `c`. -/
def SetsInWaits (r : Result) (c : State) (d : BitVec 5) (v : XWord) (w : Option Wait) : Prop :=
  ∃ t, r = .next t ∧ NextStrip c t ∧ t.hart.wait = w ∧ WritesX c t d v ∧ OnlyX c.regs t.regs ∧ StripOnly c.hart t.hart ∧
    t = { c with hart := t.hart }

/-- As `SetsInWaits`, where the hart goes on. -/
def SetsIn (r : Result) (c : State) (d : BitVec 5) (v : XWord) : Prop := SetsInWaits r c d v none

/-- The answer is a state in which nothing has changed since `c` but that the hart waits as `w` says: the instruction will execute
again (R46). -/
def Waits (r : Result) (c : State) (w : Wait) : Prop := r = .next (c.setHart { c.hart with wait := some w })

/-- An ordered or atomic access of n bytes is allowed, need not wait, and is in scope; they start at physical address pa (R210). -/
def OrderedAt (s : State) (acc : Access) (va : XWord) (n : Nat) (sc : BitVec 3) (pa : Nat) : Prop :=
  ∃ s1, orderedAccess s acc va n sc = .ok (pa, s1)

/-- A byte of memory after a value, or nothing, is written to bytes pa to pa + n − 1, little-endian. -/
def byteAfter (m : List Host.Cell) (pa n : Nat) (new : Option Nat) (a : Nat) : Byte :=
  match new with
  | some w => if pa ≤ a ∧ a < pa + n then BitVec.ofNat 8 (w / 256 ^ (a - pa)) else memRead m a
  | none => memRead m a

/-- The answer of an ordered write or atomic after the commit: v in register d; bytes pa to pa + n − 1 of memory hold `new`, or what
they held where nothing is written; every other byte of memory is as the commit left it, and so is the rest of the machine, but
for what a translation caches and finds, and the residues of what was written.  The write is noted as the hart's, and an acquire orders
every write so far before what follows (R98, R243). -/
def WritesHome (r : Result) (s : State) (acquire : Bool) (d : BitVec 5) (v : XWord) (pa n : Nat) (new : Option Nat) : Prop :=
  let c := s.committed
  ∃ t, r = .next t ∧ NextStrip c t ∧ t.hart.wait = none ∧ WritesX c t d v ∧ OnlyX c.regs t.regs ∧
    StripOnly { c.hart with ordered := if acquire then t.written.length else c.hart.ordered } t.hart ∧
    (∀ a, memRead t.mem a = byteAfter c.mem pa n new a) ∧ OnlyFound c t ∧
    t.written = (match new with
      | some w => { by_ := .hart s.cur, pa := pa, old := memReadN c.mem pa n, new := leBytes n w } :: c.written
      | none => c.written) ∧
    t = { c with
      hart := t.hart, mem := t.mem, written := t.written, badUnits := t.badUnits, tlb := t.tlb, free := t.free, agenda := t.agenda }

/-- A byte of the audit region, which the audit unit alone writes (R380, R432). -/
abbrev InAudit (a : Nat) : Prop := Config.auditBase ≤ a ∧ a < Config.auditBase + Config.auditBytes

/-- Writes to an address take effect: it is not behind a failed peer port (R425), nor in the audit region (R380). -/
def PortUp (s : State) (pa : Nat) : Prop :=
  ¬(Config.peerBase ≤ pa ∧ s.dev.pfail.getLsbD ((pa - Config.peerBase) / 2 ^ 46) = true) ∧ ¬InAudit pa

/-! ### Members of a convoy (R35 to R39, R149) -/

/-- No decode-time cause meets the instruction at the PC under its prefix (R109, R111). -/
def Allowed (s : State) (i : Instr) : Prop := memberCauses s i s.regs.pc (pfxOf s.regs) = []

/-- The convoy goes on after the member, or the strip takes its end. -/
def GoesOn (s : State) (i : Instr) : Prop := i.kbit = true ∨ InStrip s

/-- Every queue that an operand names holds a tile, unless VL is 0 (R21, R39). -/
def QueuesReady (s : State) (ops : List (Bool × BitVec 5)) : Prop :=
  s.regs.vl ≠ 0 → ∀ o ∈ ops, o.1 = true → o.2.toNat < 4 → s.regs.queues.toList.getD o.2.toNat [] ≠ []

/-- The head tile of each queue that an operand names is gone, once; VL = 0 consumes nothing (R38, R21). -/
def Consumed (s t : State) (ops : List (Bool × BitVec 5)) : Prop :=
  ∀ q : Fin 4, t.regs.queues[q] =
    if s.regs.vl ≠ 0 ∧ (true, BitVec.ofNat 5 q.val) ∈ ops then s.regs.queues[q].tail else s.regs.queues[q]

/-- The hart has passed a member that writes no scalar register and stores nothing: x, VL, VR, shape, FRM, SEED, queue tags and
buffered stores are as they were, the latch is spent, and nothing outside the hart changed. -/
def AfterMember (s t : State) : Prop :=
  t.regs = { s.regs with
    pc := s.regs.pc + 4, pfxValid := false, pend := none, vregs := t.regs.vregs, masks := t.regs.masks, fflags := t.regs.fflags
    gens := t.regs.gens, queues := t.regs.queues, cv := t.regs.cv, chain := t.regs.chain, first := t.regs.first
    member := t.regs.member } ∧
  t = { s with
    free := t.free
    hart := { s.hart with
      regs := t.hart.regs, undo := t.hart.undo, wait := t.hart.wait, readySince := t.hart.readySince } }

/-- Register j of t holds a twin of tag `fmt`, j's share of a group that starts at `first`: the elements of `val` are written, every
other slot is as it was; its committed copy is as it was (R28, R145). -/
def RegTakes (s t : State) (j : Fin 32) (first : Nat) (fmt : Fmt) (val : Nat → Option XWord) : Prop :=
  let old := (curTile s.regs.vregs[j]).elems
  let bytes := min (declWidth s) (fmtWidth s fmt)
  ∃ new, t.regs.vregs[j] = ⟨s.regs.vregs[j].com, some ⟨fmt, new⟩⟩ ∧ new.size = old.size ∧
    ∀ q, q < old.size → match val ((j.val - first) * s.hart.vlmax + q) with
      | some v => lowBits bytes (new.getD q 0) = lowBits bytes v
      | none => new.getD q 0 = old.getD q 0

/-- A value of a group, or the zero of its tail under the policy that zeroes it (R19). -/
def tailed (s : State) (isTail : Nat → Bool) (val : Nat → Option XWord) (i : Nat) : Option XWord :=
  if i < capacity s then (match val i with
    | some v => some v
    | none => if s.regs.tailZero ∧ isTail i = true then some 0 else none) else none

/-- What a member with one destination group of n registers at d leaves (R149): the group, and its copy under a prefix that names one
(R115), take the results, FFLAGS the flags raised, generator l the value `g l`, and under E the exception mask the elements that
raised one of its set; VL = 0 changes nothing (R21).  The next member of the convoy reads the results as `cv` (R36). -/
def Delivered (s t : State) (k w e : Bool) (d : BitVec 5) (fmt : Fmt) (isTail : Nat → Bool) (val : Nat → Option XWord)
    (flag : Nat → Prop) (exc : Nat → Prop) (g : Nat → BitVec 32) : Prop :=
  let p := pfxOf s.regs
  let n := groupFactor s.regs
  (s.regs.vl = 0 → t.regs.vregs = s.regs.vregs ∧ t.regs.masks = s.regs.masks ∧ t.regs.fflags = s.regs.fflags ∧
    t.regs.gens = s.regs.gens) ∧
  (s.regs.vl ≠ 0 →
    (∀ j : Fin 32,
      if w = true ∧ d.toNat ≤ j.val ∧ j.val < d.toNat + n then RegTakes s t j d.toNat fmt (tailed s isTail val)
      else if w = true ∧ p.dce = true ∧ p.dc.toNat ≤ j.val ∧ j.val < p.dc.toNat + n then
        RegTakes s t j p.dc.toNat fmt (tailed s isTail val)
      else t.regs.vregs[j] = s.regs.vregs[j]) ∧
    (∀ b, b < 7 → (t.regs.fflags.getLsbD b = true ↔ s.regs.fflags.getLsbD b = true ∨ flag b)) ∧
    (∀ l, l < 64 → gen t.regs.gens l = g l) ∧
    ∀ j : Fin 8, if e = true ∧ j.val = p.em.toNat then
      ∃ m, t.regs.masks[j] = ⟨s.regs.masks[j].com, some m⟩ ∧ ∀ i, inSet m i = true ↔ exc i
      else t.regs.masks[j] = s.regs.masks[j]) ∧
  (k = true → ∃ c, t.regs.cv = some c ∧ c.tag = fmt ∧
    ∀ i, i < capacity s → c.elems.getD i 0 = if s.regs.vl = 0 then 0 else (val i).getD 0)

/-- What one element computes from its rounding: its result, flags and the generator after it. -/
abbrev Step1 := XWord × Flags × BitVec 32

/-- Generator l mod 64 after the items of a list, in order, each of which rounds with the generator of its own index (R58, R60). -/
def genAfter {α : Type} (s : State) (place : α → Nat) (f : α → Rnd → Step1) (l : Nat) (is : List α) : BitVec 32 :=
  (is.filter (fun x => place x % 64 = l % 64)).foldl (fun g x => (f x ⟨modeOf s (pfxOf s.regs), g⟩).2.2) (gen s.regs.gens l)

/-- Item x of the list, after the items `pre`, computes r. -/
def Computes {α : Type} (s : State) (is : List α) (place : α → Nat) (f : α → Rnd → Step1) (pre : List α) (x : α) (r : Step1) : Prop :=
  ∃ post, is = pre ++ x :: post ∧ r = f x ⟨modeOf s (pfxOf s.regs), genAfter s place f (place x) pre⟩

/-- The last item of a list that stands at index i, and the items before it. -/
def lastAt {α : Type} (place : α → Nat) (i : Nat) : List α → Option (List α × α)
  | [] => none
  | x :: xs => match lastAt place i xs with
    | some (pre, y) => some (x :: pre, y)
    | none => if place x = i then some ([], x) else none

/-- The result at index i, if any item of the list stands there. -/
def resultAt {α : Type} (s : State) (is : List α) (place : α → Nat) (f : α → Rnd → Step1) (i : Nat) : Option XWord :=
  (lastAt place i is).map (fun b => (f b.2 ⟨modeOf s (pfxOf s.regs), genAfter s place f (place b.2) b.1⟩).1)

/-- The items of a list computed in order, each result written at its index (R149, R192). -/
def InOrder {α : Type} (s t : State) (k w e : Bool) (d : BitVec 5) (fmt : Fmt) (isTail : Nat → Bool) (is : List α) (place : α → Nat)
    (f : α → Rnd → Step1) : Prop :=
  Delivered s t k w e d fmt isTail (resultAt s is place f)
    (fun b => ∃ pre x r, Computes s is place f pre x r ∧ r.2.1.getLsbD b = true)
    (fun i => ∃ pre x r, Computes s is place f pre x r ∧ place x = i ∧ excepts (pfxOf s.regs).ek r.2.1 = true)
    (fun l => genAfter s place f l is)

/-- The answer of an element-wise member (R149): every active element, in increasing index order. -/
def Elementwise (r : Result) (s : State) (i : Instr) (w e : Bool) (d : BitVec 5) (ops : List (Bool × BitVec 5)) (fmt : Fmt)
    (f : Nat → Rnd → Step1) : Prop :=
  ∃ t, r = .next t ∧ AfterMember s t ∧ Consumed s t ops ∧
    InOrder s t i.kbit w e d fmt (fun n => !inShape s n) (activeIndices s (pfxOf s.regs)) id f

/-- The hart has passed a member that writes a scalar register, or none where `v` is none, and neither a vector nor a mask
register. -/
def AfterScalarMember (s t : State) (d : BitVec 5) (v : Option XWord) : Prop :=
  (match v with
    | some v => WritesX s t d v
    | none => t.regs.x = s.regs.x) ∧
  t.regs = { s.regs with
    x := t.regs.x, pc := s.regs.pc + 4, pfxValid := false, pend := none, queues := t.regs.queues, cv := t.regs.cv
    chain := t.regs.chain, first := t.regs.first, member := t.regs.member } ∧
  t = { s with
    free := t.free
    hart := { s.hart with
      regs := t.hart.regs, undo := t.hart.undo, wait := t.hart.wait, readySince := t.hart.readySince } }

/-- The answer of a member that sets bits of mask register d: the bit of each active index for which `b` holds, every other bit 0
(R162, R190).  Under E the exception mask takes none. -/
def SetsMask (r : Result) (s : State) (e : Bool) (d : BitVec 5) (ops : List (Bool × BitVec 5)) (b : Nat → Prop) : Prop :=
  let p := pfxOf s.regs
  ∃ t, r = .next t ∧ AfterMember s t ∧ Consumed s t ops ∧ t.regs.vregs = s.regs.vregs ∧ t.regs.fflags = s.regs.fflags ∧
    t.regs.gens = s.regs.gens ∧ (s.regs.vl = 0 → t.regs.masks = s.regs.masks) ∧
    (s.regs.vl ≠ 0 → ∀ j : Fin 8,
      if e = true ∧ j.val = p.em.toNat then t.regs.masks[j] = ⟨s.regs.masks[j].com, some 0⟩
      else if j.val = d.toNat then
        ∃ m, t.regs.masks[j] = ⟨s.regs.masks[j].com, some m⟩ ∧ ∀ i, inSet m i = true ↔ i ∈ activeIndices s p ∧ b i
      else t.regs.masks[j] = s.regs.masks[j])

/-- What a member with a group of 2·G registers at d leaves: `a` in the first G under tag `f1`, `b` in the others under tag `f2`; a copy
under a prefix takes the first, or both when `wide` (R115, R164, R170). -/
def DeliveredTwo (s t : State) (wide e : Bool) (d : BitVec 5) (f1 f2 : Fmt) (isTail : Nat → Bool) (a b : Nat → Option XWord)
    (flag : Nat → Prop) (exc : Nat → Prop) : Prop :=
  let p := pfxOf s.regs
  let n := groupFactor s.regs
  t.regs.gens = s.regs.gens ∧
  (s.regs.vl = 0 → t.regs.vregs = s.regs.vregs ∧ t.regs.masks = s.regs.masks ∧ t.regs.fflags = s.regs.fflags) ∧
  (s.regs.vl ≠ 0 →
    (∀ j : Fin 32,
      let inside := fun first => first ≤ j.val ∧ j.val < first + n
      if inside d.toNat then RegTakes s t j d.toNat f1 (tailed s isTail a)
      else if inside (d.toNat + n) then RegTakes s t j (d.toNat + n) f2 (tailed s isTail b)
      else if p.dce = true ∧ inside p.dc.toNat then RegTakes s t j p.dc.toNat f1 (tailed s isTail a)
      else if p.dce = true ∧ wide = true ∧ inside (p.dc.toNat + n) then RegTakes s t j (p.dc.toNat + n) f2 (tailed s isTail b)
      else t.regs.vregs[j] = s.regs.vregs[j]) ∧
    (∀ i, i < 7 → (t.regs.fflags.getLsbD i = true ↔ s.regs.fflags.getLsbD i = true ∨ flag i)) ∧
    ∀ j : Fin 8, if e = true ∧ j.val = p.em.toNat then
      ∃ m, t.regs.masks[j] = ⟨s.regs.masks[j].com, some m⟩ ∧ ∀ i, inSet m i = true ↔ exc i
      else t.regs.masks[j] = s.regs.masks[j])

/-- The answer of a member with two results for each index of a list. -/
def EachTwo (r : Result) (s : State) (wide e : Bool) (d : BitVec 5) (ops : List (Bool × BitVec 5)) (f1 f2 : Fmt) (isTail : Nat → Bool)
    (is : List Nat) (f : Nat → XWord × XWord × Flags) : Prop :=
  ∃ t, r = .next t ∧ AfterMember s t ∧ Consumed s t ops ∧
    DeliveredTwo s t wide e d f1 f2 isTail (fun i => if i ∈ is then some (f i).1 else none)
      (fun i => if i ∈ is then some (f i).2.1 else none) (fun b => ∃ i ∈ is, (f i).2.2.getLsbD b = true)
      (fun i => i ∈ is ∧ excepts (pfxOf s.regs).ek (f i).2.2 = true)

/-! ### Accesses made one after the other (R179, R181) -/

/-- A byte of the scratchpad as the executing hart's loads see it (R29). -/
def seenRow (s : State) (a : Nat) : Byte := (forwarded s.regs.storeBuf true a).getD (memRead s.core.scratch a)

/-- An element of w bytes stands in S-space, aligned, within its row, one of the 32,768, and below the request of the holding gang
(R83, R181, R182). -/
def InSpace (s : State) (e : Place) (w : Nat) : Prop :=
  e.word.toNat < 2 ^ 21 ∧ e.word.toNat % w = 0 ∧ (∀ c, e.col = some c → 0 ≤ c ∧ c < 64 ∧ c % w = 0 ∧ 0 ≤ e.addr - c ∧ e.addr - c < 2 ^ 21) ∧ s.holds = true ∧
    e.word.toNat + w ≤ s.core.request

/-- Elements of w bytes read one after the other from the state s, each allowed, with no wait and no bad unit: element e has the bytes
`bytes e`, and translation caches end as in u. -/
def ReadInTurn (sp : Bool) (w : Nat) (bytes : Place → List Byte) : State → List Place → State → Prop
  | s, [], u => u = s
  | s, e :: es, u =>
    (if sp then InSpace s e w ∧ bytes e = (span e.word.toNat w).map (seenRow s) ∧ ReadInTurn sp w bytes s es u
     else ∃ pa c, access s .read e.word w e.k = .ok (pa, c) ∧ poisonCheck c .read e.word pa w e.k = .ok () ∧
      bytes e = (span pa w).map (seenByte s) ∧ ReadInTurn sp w bytes c es u)

/-- Elements stored one after the other from the state s, each allowed and with no wait: `out` are the records that wait in the strip
store buffer of u (R29, R184). -/
def StoredInTurn (sp : Bool) : State → List (Place × List Byte) → List StoreRec → State → Prop
  | s, [], out, u => out = [] ∧ u = s
  | s, e :: es, out, u =>
    (if sp then InSpace s e.1 e.2.length ∧ ∃ rest, out = ⟨true, e.1.word.toNat, e.2, e.1.word⟩ :: rest ∧
        StoredInTurn sp (s.buffer ⟨true, e.1.word.toNat, e.2, e.1.word⟩) es rest u
     else ∃ pa c, access s .write e.1.word e.2.length e.1.k = .ok (pa, c) ∧ ∃ rest, out = ⟨false, pa, e.2, e.1.word⟩ :: rest ∧
      StoredInTurn sp (c.buffer ⟨false, pa, e.2, e.1.word⟩) es rest u)

/-- The hart has passed a member that reads or stores memory: of its registers only PC, PFXS, vector registers, queues, the store
buffer and the marks of a convoy changed, and outside it only what a translation caches. -/
def AfterAccess (s t : State) : Prop :=
  t.regs = { s.regs with
    pc := s.regs.pc + 4, pfxValid := false, pend := none, vregs := t.regs.vregs, queues := t.regs.queues
    storeBuf := t.regs.storeBuf, cv := t.regs.cv, chain := t.regs.chain, first := t.regs.first, member := t.regs.member } ∧
  SameButTlb s t

/-! ### Engine commands (R261, R263) -/

/-- A range of S-space is aligned, within the scratchpad and below the request of the gang, which holds the core's stores. -/
def SpaceRange (s : State) (a : XWord) (n align : Nat) : Prop :=
  a.toNat < 2 ^ 21 ∧ a.toNat % align = 0 ∧ s.holds = true ∧ a.toNat + n ≤ s.core.request

/-- A range of memory whose first and last bytes are translated and allowed. -/
def MemoryRange (s : State) (acc : Access) (va : XWord) (n align : Nat) (u : State) : Prop :=
  ∃ pa c pb, located s acc va align 0 = .ok (pa, c) ∧ located c acc (va + xword (n - 1)) 1 0 = .ok (pb, u)

/-- A descriptor of n bytes is read, with the value v. -/
def ReadsDescriptor (s : State) (va : XWord) (n align v : Nat) (u : State) : Prop :=
  va.toNat % align = 0 ∧ ∃ pa, access s .read va align 0 = .ok (pa, u) ∧ poisonCheck u .read va pa n 0 = .ok () ∧
    v = leNat ((span pa n).map (seenByte s))

/-- A command of the executing hart has joined the outstanding ones, and a fresh ticket names it (R261); it owns the lines (R316),
and will own those of the pages `late` once they are mapped. -/
def State.issued (s : State) (op maj : Nat) (kind : CmdKind) (lines : List Nat) (late : List XWord) : State :=
  { s with
    cmds := mset s.cmds s.nextCmd {
      hart := s.cur, core := s.coreId, ctx := s.hart.ctx, gang := s.hart.gang, op := op, maj := maj, kind := kind, lines := lines
      late := late }
    nextCmd := s.nextCmd + 1
    free := s.free + 1
    hart := { s.hart with tickets := s.hart.tickets ++ [⟨freshTicket s, s.nextCmd, none⟩] } }

/-- The answer of an instruction that issues a command: its ticket goes to x[rd], or, with 64 outstanding, 0 goes there and nothing is
issued (R261). -/
def Issues (r : Result) (c : State) (d : BitVec 5) (op maj : Nat) (kind : CmdKind) (lines : List Nat × List XWord)
    (after : State → State) : Prop :=
  (64 ≤ c.hart.tickets.length → SetsIn r c d 0) ∧
  (c.hart.tickets.length < 64 → SetsIn r (after (c.issued op maj kind lines.1 lines.2)) d ((freshTicket c).setWidth 64))

/-- Reads of an engine one after the other for command `cmd`, each allowed and with no bad unit: `bytes va` is what it reads at va. -/
def EngineReads (cmd : Nat) (bytes : XWord → List Byte) : State → List (XWord × Nat) → State → Prop
  | s, [], u => u = s
  | s, a :: l, u => ∃ c, engReadGood s cmd a.1 a.2 = .ok (bytes a.1, c) ∧ EngineReads cmd bytes c l u

/-- Write addresses of an engine one after the other for command `cmd`, each allowed: `pa va` is where va goes. -/
def EngineTargets (cmd : Nat) (pa : XWord → Nat) : State → List XWord → State → Prop
  | s, [], u => u = s
  | s, a :: l, u => ∃ c, engAddr s cmd .write a = .ok (pa a, c) ∧ EngineTargets cmd pa c l u

/-- A copy's elements read and placed one after the other for command `cmd`: element k has the bytes `bytes k`, read in S-space
of the gang or by the engine from `src k`, and goes to `dst k`, in memory at physical address `pa k`. -/
def EngineCopies (cmd gang : Nat) (ssp dsp : Bool) (w : Nat) (src dst : Nat → Nat) (bytes : Nat → List Byte) (pa : Nat → Nat) :
    State → List Nat → State → Prop
  | s, [], u => u = s
  | s, k :: l, u => ∃ c e,
    (if ssp then c = s ∧ bytes k = memReadN (scratchOf s.core gang) (src k) w
     else engReadLines s cmd (xword (src k)) (piecesOf (src k) 128 w w 0) = .ok (bytes k, [], c)) ∧
    (if dsp then e = c else engAddr c cmd .write (xword (dst k)) = .ok (pa k, e)) ∧
    EngineCopies cmd gang ssp dsp w src dst bytes pa e l u

/-! ### The end of a context's work (R231, R379, R400, R427) -/

/-- Whether a hart is one of a context. -/
def HartOf (ctx : Nat) (h : Hart) : Prop := h.ctx = ctx ∧ h.live ≠ .free ∧ h.steward = false

/-- A byte of an image of a context's harts in steward memory, which a VSAVE has written and nothing overwritten (Table 22.8). -/
def Imaged (s : State) (ctx a : Nat) : Prop :=
  Config.stewardFrame * 2 ^ 21 ≤ a ∧ a < Config.deviceBytes ∧ ∃ r ∈ (s.ctxAt ctx).images, r.1 ≤ a ∧ a < r.1 + r.2

/-- Everything that Table 22.8 names of a context is gone in t: its frames, images, bank units and registers read 0, and no hart, gang, command,
translation, launch, matrix handle, fault leader or Dovetail entry of it is left; everything else of memory is as it was, but for the
audit region and the addresses `also`. -/
def Scrubbed (s t : State) (ctx : Nat) (also : Nat → Prop) : Prop :=
  (Memory.wf s.mem = true → ∀ f ∈ framesOf s ctx, ∀ i, i < 2 ^ 21 → ¬InAudit (f * 2 ^ 21 + i) →
    memRead t.mem (f * 2 ^ 21 + i) = 0 ∧ mget? t.badUnits ((f * 2 ^ 21 + i) / 2) = none) ∧
  (Memory.wf s.mem = true → ∀ a, Imaged s ctx a → ¬InAudit a → memRead t.mem a = 0) ∧
  (Memory.wf s.mem = true → ∀ a, a / 2 ^ 21 ∉ framesOf s ctx → ¬Imaged s ctx a → ¬InAudit a → ¬also a →
    memRead t.mem a = memRead s.mem a) ∧
  (∀ p ∈ slotsOf s ctx, t.chanAt p = { Chan.initial with dedicated := (t.chanAt p).dedicated, retired := (t.chanAt p).retired }) ∧
  (∀ p, p ∉ slotsOf s ctx → t.chanAt p = s.chanAt p) ∧
  (∀ h ∈ t.allHarts, ¬HartOf ctx h.2) ∧ (∀ g ∈ t.gangs, g.2.ctx ≠ ctx) ∧ (∀ c ∈ t.cmds, c.2.ctx ≠ ctx) ∧
  (∀ e ∈ t.tlb, e.asid ≠ (s.ctxAt ctx).asid) ∧ (∀ l ∈ t.leaders, l.ctx ≠ ctx) ∧
  (∀ c, (t.coreAt c).serves ≠ some ctx ∧
    ((s.coreAt c).owned = true → (s.coreAt c).owner.toNat = ctx → (t.coreAt c).clean = true)) ∧
  (∀ c ∈ coresOf s ctx, (s.coreAt c).moving = none → ((s.coreAt c).holder = none ∧ (s.coreAt c).tenant = some ctx) ∨
      (∃ g, (s.coreAt c).holder = some g ∧ ∀ x ∈ t.gangs, x.1 ≠ g) →
    let k := t.coreAt c
    k.holder = none ∧ k.tenant = none ∧ k.request = 0 ∧ k.scratch = [] ∧ k.tags = [] ∧ k.acc = [] ∧ k.tflags = [] ∧ k.wbuf = [] ∧ k.keep = 0 ∧
      k.dealExpert = 0 ∧ k.dealRound = 0 ∧ k.dealRunning = false ∧ k.dealSlot = 0) ∧
  (∀ c, c ∉ coresOf s ctx → t.coreAt c = s.coreAt c) ∧
  ((t.ctxAt ctx).queues = [] ∧ (t.ctxAt ctx).handles = [] ∧ (t.ctxAt ctx).images = [] ∧ (t.ctxAt ctx).dove.entries = [] ∧ (t.ctxAt ctx).rootLive = false) ∧
  ∀ c, c ≠ ctx → t.ctxAt c = s.ctxAt c

/-- The first 64 bytes of an audit record: SEQ, GTIME, TYPE, CTX and DATA, little-endian (R380). -/
def recordHead (r : AuditRec) : List Byte :=
  leBytes 8 r.seq.toNat ++ leBytes 8 r.gtime.toNat ++ leBytes 1 r.type.toNat ++ leBytes 1 r.ctx.toNat ++ leBytes 46 r.data.toNat

/-- CHAIN after some audit records, from the CHAIN before them (R382). -/
def chainAfter (chain : BitVec 512) (l : List AuditRec) : BitVec 512 := (l.map (·.chain)).getLastD chain

/-- The records that the audit log gains: type, context and data of each, in order; each has the next SEQ, the time, and the digest of
the CHAIN before it and its own first 64 bytes for CHAIN, and stands in slot SEQ mod 524,288 of the audit region (R380, R382, R432). -/
def Audited (s t : State) (new : List (Nat × Nat × BitVec 368)) : Prop :=
  ∃ l : List AuditRec, l.map (fun r => (r.type.toNat, r.ctx.toNat, r.data)) = new ∧
    t.dev.next = s.dev.next + xword l.length ∧ t.dev.chain = chainAfter s.dev.chain l ∧
    ∀ pre r post, l = pre ++ r :: post →
      r.seq = s.dev.next + xword pre.length ∧ r.gtime = xword s.gtime ∧
        r.chain = BitVec.ofNat 512 (leNat (shake256 (leBytes 64 (chainAfter s.dev.chain pre).toNat ++ recordHead r) 64)) ∧
        (Memory.wf s.mem = true → ∀ i, i < 128 → memRead t.mem (Config.auditBase + 128 * (r.seq.toNat % 524288) + i) =
          (recordHead r ++ leBytes 64 r.chain.toNat).getD i 0)

/-- Every hart of a context has stopped, its open strip discarded; its launches and what has not started of its commands are cancelled,
and what has started goes on (R231, R315, R379). -/
def ContextStops (s t : State) (ctx : Nat) : Prop :=
  (∀ k,
    let h := s.hartAt k
    (HartOf ctx h → t.hartAt k = { h with
      live := .stopped, regs := if h.tl = 0 then discardRegs h h.regs else h.regs, undo := none, matrixQ := [], wait := none
      issueAt := none }) ∧
    (¬HartOf ctx h → t.hartAt k = h)) ∧
  (∀ g, g ∈ t.gangs ↔ g ∈ s.gangs ∧ g.2.ctx ≠ ctx) ∧ (∀ l, l ∈ t.leaders ↔ l ∈ s.leaders ∧ l.ctx ≠ ctx) ∧
  (∀ c, c ∈ t.cmds ↔ c ∈ s.cmds ∧ (c.2.ctx = ctx → c.2.kind ≠ .mload ∧ c.2.kind ≠ .mdrain ∧ c.2.kind ≠ .launch)) ∧
  t.ctxAt ctx = { s.ctxAt ctx with
    queues := [], rootLive := false, hostVisible := false, pending := (t.ctxAt ctx).pending, killed := (t.ctxAt ctx).killed } ∧
  (∀ c, c ≠ ctx → t.ctxAt c = s.ctxAt c) ∧
  t = { s with hart := t.hart, harts := t.harts, gangs := t.gangs, leaders := t.leaders, cmds := t.cmds, ctxs := t.ctxs }

end Machine
end Sys2Proof
end

