-- ==== Sys2Proof/Certificates/Slice0/Obligations.lean ====
section
/-! DEFINITION. The statements about this model that are to be proved. -/

namespace Sys2Proof
namespace Machine

/-- Bits 31:0 of a register. -/
def lo32 (v : XWord) : BitVec 32 := v.setWidth 32

/-- A 32-bit result, sign-extended to the register (R124). -/
def sx32 (v : BitVec 32) : XWord := v.signExtend 64

/-- The bits of a control register that a context may write (Table 10.4 and the maps it names). -/
def csrWritable (c : Nat) : XWord :=
  match c with
  | 0x009 => 0x101FFFFFF
  | 0x00A => 0x7
  | 0x00B => 0x7F
  | 0x00C => 0xFFFFFFFF
  | 0x012 => 0xFFFF
  | 0x013 => 0xFFFFFFFF
  | 0x014 => 0xFFFFFFFFFF
  | 0x015 => 0x1FFF
  | 0x021 => 0x7FF80
  | 0x030 => 0x4
  | 0x031 => 0x1FFFFFFFFFFFC00
  | 0x033 => 0x1FFFFFFFFFFFFFF
  | 0x034 => BitVec.allOnes 64
  | 0x035 => 0x3FFFFFF
  | 0x037 => 0x1FFFFFFFFFFFFFF
  | 0x038 => BitVec.allOnes 64
  | 0x039 => 0x3FFFFFF
  | _ => 0

end Machine
end Sys2Proof

open Sys2Proof Sys2Proof.Machine

/-! ### Scalar integer instructions (R122 to R127) -/

/-- Table 6.1 but for the divisions, with the 32-bit forms of R124: each instruction completes with the result of its row in
x[rd], at every trap-free place of a strip, and changes nothing else; a destination x0 takes nothing.
Table 6.2's immediate forms, LUI and AUIPC (R126, R127): the immediate is sign-extended, a shift takes its six bits. -/
def Obligations.IntegerResults : Prop :=
  (∀ (s : State) (d a b : BitVec 5) (w : Bool), InStrip s →
      let x := s.x a
      let y := s.x b
      let k := y.toNat % 64
      let k32 := y.toNat % 32
      Sets (exec (.add d a b w) s) s d (if w then sx32 (lo32 x + lo32 y) else x + y) ∧
      Sets (exec (.sub d a b w) s) s d (if w then sx32 (lo32 x - lo32 y) else x - y) ∧
      Sets (exec (.and d a b) s) s d (x &&& y) ∧
      Sets (exec (.or d a b) s) s d (x ||| y) ∧
      Sets (exec (.xor d a b) s) s d (x ^^^ y) ∧
      Sets (exec (.andn d a b) s) s d (x &&& ~~~y) ∧
      Sets (exec (.sll d a b w) s) s d (if w then sx32 (lo32 x <<< k32) else x <<< k) ∧
      Sets (exec (.srl d a b w) s) s d (if w then sx32 (lo32 x >>> k32) else x >>> k) ∧
      Sets (exec (.sra d a b w) s) s d (if w then sx32 ((lo32 x).sshiftRight k32) else x.sshiftRight k) ∧
      Sets (exec (.slt d a b) s) s d (if x.toInt < y.toInt then 1 else 0) ∧
      Sets (exec (.sltu d a b) s) s d (if x.toNat < y.toNat then 1 else 0) ∧
      Sets (exec (.min d a b) s) s d (if x.toInt < y.toInt then x else y) ∧
      Sets (exec (.max d a b) s) s d (if x.toInt < y.toInt then y else x) ∧
      Sets (exec (.minu d a b) s) s d (if x.toNat < y.toNat then x else y) ∧
      Sets (exec (.maxu d a b) s) s d (if x.toNat < y.toNat then y else x) ∧
      Sets (exec (.mul d a b w) s) s d (if w then sx32 (lo32 x * lo32 y) else x * y) ∧
      Sets (exec (.mulh d a b) s) s d (BitVec.ofInt 64 (x.toInt * y.toInt / 2 ^ 64)) ∧
      Sets (exec (.mulhu d a b) s) s d (BitVec.ofNat 64 (x.toNat * y.toNat / 2 ^ 64)) ∧
      Sets (exec (.clz d a w) s) s d (xword (if w then leadingZeros (lo32 x).toNat 32 else leadingZeros x.toNat 64)) ∧
      Sets (exec (.popc d a w) s) s d (xword (if w then countBits (lo32 x).toNat 32 else countBits x.toNat 64))) ∧
  (∀ (s : State) (d a : BitVec 5) (i : BitVec 12) (n : BitVec 6) (j : BitVec 20), InStrip s →
      let x := s.x a
      let v := i.signExtend 64
      Sets (exec (.addi d a i) s) s d (x + v) ∧
      Sets (exec (.andi d a i) s) s d (x &&& v) ∧
      Sets (exec (.ori d a i) s) s d (x ||| v) ∧
      Sets (exec (.xori d a i) s) s d (x ^^^ v) ∧
      Sets (exec (.slti d a i) s) s d (if x.toInt < v.toInt then 1 else 0) ∧
      Sets (exec (.slli d a n) s) s d (x <<< n.toNat) ∧
      Sets (exec (.srli d a n) s) s d (x >>> n.toNat) ∧
      Sets (exec (.srai d a n) s) s d (x.sshiftRight n.toNat) ∧
      Sets (exec (.lui d j) s) s d (j.setWidth 64 <<< 12) ∧
      Sets (exec (.auipc d j) s) s d (s.regs.pc + j.signExtend 64 <<< 12))

/-- DIV, DIVU, REM and REMU of a nonzero divisor (R125): the quotient truncated toward zero or the remainder, of the whole
registers or, under W32, of bits 31:0 sign-extended; the most negative value over −1 gives itself and remainder 0. A zero
divisor (R125, R389, R393): DIV, DIVU, REM and REMU raise DIVZ precisely. The strip before the instruction is committed, no
register is written, TP1 holds the instruction's address and TV1 the dividend as read, and the PC is at entry 1 of the table. -/
def Obligations.Division : Prop :=
  (∀ (s : State) (d a b : BitVec 5), InStrip s →
      let x := s.x a
      let y := s.x b
      (y ≠ 0 →
        Sets (exec (.div d a b false) s) s d (BitVec.ofInt 64 (x.toInt.tdiv y.toInt)) ∧
        Sets (exec (.divu d a b false) s) s d (BitVec.ofNat 64 (x.toNat / y.toNat)) ∧
        Sets (exec (.rem d a b false) s) s d (BitVec.ofInt 64 (x.toInt.tmod y.toInt)) ∧
        Sets (exec (.remu d a b false) s) s d (BitVec.ofNat 64 (x.toNat % y.toNat))) ∧
      (lo32 y ≠ 0 →
        Sets (exec (.div d a b true) s) s d (sx32 (BitVec.ofInt 32 ((lo32 x).toInt.tdiv (lo32 y).toInt))) ∧
        Sets (exec (.divu d a b true) s) s d (sx32 (BitVec.ofNat 32 ((lo32 x).toNat / (lo32 y).toNat))) ∧
        Sets (exec (.rem d a b true) s) s d (sx32 (BitVec.ofInt 32 ((lo32 x).toInt.tmod (lo32 y).toInt))) ∧
        Sets (exec (.remu d a b true) s) s d (sx32 (BitVec.ofNat 32 ((lo32 x).toNat % (lo32 y).toNat)))) ∧
      (x = BitVec.intMin 64 → y = BitVec.allOnes 64 →
        Sets (exec (.div d a b false) s) s d x ∧ Sets (exec (.rem d a b false) s) s d 0)) ∧
  (∀ (s : State) (d a b : BitVec 5), Traps s → MayCommit s →
      let tr : XWord → Trap := fun v => { code := 0x05, tv := v }
      (s.x b = 0 → ∀ i ∈ [Instr.div d a b false, .divu d a b false, .rem d a b false, .remu d a b false],
        ∃ t, exec i s = .next t ∧ EntersTrap s.settle t (tr (s.x a)) false 0 s.regs.pc) ∧
      (lo32 (s.x b) = 0 → ∀ i ∈ [Instr.div d a b true, .divu d a b true, .rem d a b true, .remu d a b true],
        ∃ t, exec i s = .next t ∧ EntersTrap s.settle t (tr (sx32 (lo32 (s.x a)))) false 0 s.regs.pc))

/-! ### Scalar loads and stores (R128 to R131) -/

/-- A scalar load (R128, Table 6.2) of n readable bytes at a + sext(imm12) writes them to x[rd], sign- or zero-extended by its
form, little-endian; each byte is the newest buffered store's or memory's (R29). Nothing else changes but what a translation
caches.
A scalar store (R128, R29, R130) of the n low bytes of x[rb] at a + sext(imm12), once its access is allowed and while the
strip store buffer has room: the hart's loads see the new bytes at the n addresses from the physical address on and every
other byte as before; the bytes wait in the store buffer, so memory itself is as before; no register changes.
A store that finds no room (R30): with every load queue empty the strip is committed before the store and a new one opens at
it, the store its first; while a queue holds a tile, every buffered store and this one are performed, and the strip stays open
with its checkpoint and its twins.
The checks of a scalar access, in their order (R129, R92, R95): an address that is not canonical raises XLAT and a misaligned
one ALIGN, each before any walk; then a walk that fails raises its cause, and a leaf that does not permit the access PROT. All
discard the open strip and name the checkpoint's address in TP1; the access bits tell a store (R389, R391). That a failing
walk's draws and the poisonings it found count is log entry 57. -/
def Obligations.ScalarAccesses : Prop :=
  (∀ (s : State) (d a : BitVec 5) (i : BitVec 12) (pa : Nat), InStrip s →
      let va := s.x a + i.signExtend 64
      let v := fun n => leNat ((span pa n).map (seenByte s))
      (Readable s va 1 pa →
        SetsByAccess (exec (.ldB d a i) s) s d ((BitVec.ofNat 8 (v 1)).signExtend 64) ∧
        SetsByAccess (exec (.ldBu d a i) s) s d (xword (v 1))) ∧
      (Readable s va 2 pa →
        SetsByAccess (exec (.ldH d a i) s) s d ((BitVec.ofNat 16 (v 2)).signExtend 64) ∧
        SetsByAccess (exec (.ldHu d a i) s) s d (xword (v 2))) ∧
      (Readable s va 4 pa →
        SetsByAccess (exec (.ldW d a i) s) s d ((BitVec.ofNat 32 (v 4)).signExtend 64) ∧
        SetsByAccess (exec (.ldWu d a i) s) s d (xword (v 4))) ∧
      (Readable s va 8 pa → SetsByAccess (exec (.ldD d a i) s) s d (xword (v 8)))) ∧
  (∀ (s : State) (b a : BitVec 5) (i : BitVec 12) (pa : Nat), s.hart.tl = 0 → s.hart.early = false →
      let va := s.x a + i.signExtend 64
      ∀ x ∈ [(Instr.stB b a i, 1), (.stH b a i, 2), (.stW b a i, 4), (.stD b a i, 8)],
        Writable s va x.2 pa → storeBytesHeld s.regs + x.2 ≤ Config.storeBufBytes →
          ∃ t, exec x.1 s = .next t ∧ t.regs.pc = s.regs.pc + 4 ∧
            (∀ j, j < x.2 → seenByte t (pa + j) = BitVec.ofNat 8 ((s.x b).toNat / 256 ^ j)) ∧
            (∀ c, c < pa ∨ pa + x.2 ≤ c → seenByte t c = seenByte s c) ∧
            t.regs.storeBuf = s.regs.storeBuf ++ [⟨false, pa, leBytes x.2 (s.x b).toNat, va⟩] ∧
            OnlyX { s.regs with storeBuf := t.regs.storeBuf } t.regs ∧ t.regs.x = s.regs.x ∧ SameButTlb s t) ∧
  (∀ (s : State) (r a : BitVec 5) (i : BitVec 12), Traps s → AtConvoy s →
      let va := s.x a + i.signExtend 64
      let tr : Nat → Bool → Trap := fun code w => { code := code, tv := va, write := w }
      ∀ x ∈ [(Instr.ldB r a i, 1, false), (.ldH r a i, 2, false), (.ldW r a i, 4, false), (.ldD r a i, 8, false), (.ldBu r a i, 1, false),
          (.ldHu r a i, 2, false), (.ldWu r a i, 4, false), (.stB r a i, 1, true), (.stH r a i, 2, true), (.stW r a i, 4, true),
          (.stD r a i, 8, true)],
        (va.toInt < -2 ^ 56 ∨ 2 ^ 56 ≤ va.toInt →
          ∃ t, exec x.1 s = .next t ∧ EntersTrap s.discard t (tr 0x07 x.2.2) true 0 s.hart.ckpt.pc) ∧
        (-2 ^ 56 ≤ va.toInt ∧ va.toInt < 2 ^ 56 → va.toNat % x.2.1 ≠ 0 →
          ∃ t, exec x.1 s = .next t ∧ EntersTrap s.discard t (tr 0x06 x.2.2) true 0 s.hart.ckpt.pc) ∧
        (-2 ^ 56 ≤ va.toInt ∧ va.toInt < 2 ^ 56 → va.toNat % x.2.1 = 0 →
          let r := walk s true s.dieId s.hart.ctx (va.toNat % 2 ^ 57)
          (∀ p ∈ r.2.read, bankWait s p = none) →
            ∀ code, r.1 = .error code ∨ (∃ l, r.1 = .ok l ∧ (if x.2.2 then l.w else l.r) = false ∧ code = 0x08) →
              (code = 0x07 ∨ code = 0x08) →
              let full := { tr code x.2.2 with drawn := r.2.free, found := walkFound s r.2 va }
              heldByLeader (s.noting full) full = false →
                ∃ t, exec x.1 s = .next t ∧ EntersTrap (s.noting full).discard t full true 0 s.hart.ckpt.pc)) ∧
  (∀ (s u : State) (b a : BitVec 5) (i : BitVec 12) (pa : Nat), s.hart.tl = 0 → s.hart.early = false → s.regs.first = none →
      s.hart.undo = none →
      let va := s.x a + i.signExtend 64
      ∀ x ∈ [(Instr.stB b a i, 1), (.stH b a i, 2), (.stW b a i, 4), (.stD b a i, 8)],
        access s .write va x.2 0 = .ok (pa, u) → Config.storeBufBytes < storeBytesHeld s.regs + x.2 →
        let r : StoreRec := ⟨false, pa, leBytes x.2 (s.x b).toNat, va⟩
        let c := u.buffer r
        commitWait c = none →
        (queuesEmpty s.regs = true →
          ∃ t, exec x.1 s = .next t ∧ t.mem = u.performAll.mem ∧ t.core.scratch = u.performAll.core.scratch ∧
            t.regs.storeBuf = [r] ∧ t.hart.ckpt = snapshot s.regs s.regs.pc ∧ t.hart.early = false ∧
            t.regs.pc = s.regs.pc + 4 ∧ t.regs.x = s.regs.x ∧
            (∀ j : Fin 32, t.regs.vregs[j] = ⟨curTile s.regs.vregs[j], s.regs.vregs[j].twin⟩)) ∧
        (queuesEmpty s.regs = false →
          ∃ t, exec x.1 s = .next t ∧ t.mem = c.performAll.mem ∧ t.core.scratch = c.performAll.core.scratch ∧
            t.regs.storeBuf = [] ∧ t.hart.ckpt = s.hart.ckpt ∧ t.hart.early = true ∧
            t.regs.pc = s.regs.pc + 4 ∧ t.regs.x = s.regs.x ∧ t.regs.vregs = s.regs.vregs))

/-! ### Branches and jumps (R132, R133, R101, R255) -/

/-- Table 6.3's branches (R132): the PC goes to PC + 4·sext(imm12) where the condition holds and to PC + 4 otherwise, and
nothing else changes.
JAL and JALR (R133): x[rd] takes PC + 4 and the PC takes the target, where rd and ra may be one register.
A jump to an address that is not a multiple of 4 (R101, R133) raises ALIGN at the jump, with that address in TV1; it writes no
register, and the strip is discarded.
A branch taken, or a jump, to the launch record of the hart's gang (R255, R39): with no tile in a queue the strip is committed
and the member waits to exit (the wait is log entry 30); with one, QLEFT is raised and the strip discarded. -/
def Obligations.ControlFlow : Prop :=
  (∀ (s : State) (a b : BitVec 5) (i : BitVec 12), InStrip s →
      let x := s.x a
      let y := s.x b
      let target := s.regs.pc + i.signExtend 64 <<< 2
      ∀ c ∈ [(Instr.beq a b i, decide (x = y)), (.bne a b i, decide (x ≠ y)), (.blt a b i, decide (x.toInt < y.toInt)),
          (.bge a b i, decide (y.toInt ≤ x.toInt)), (.bltu a b i, decide (x.toNat < y.toNat)),
          (.bgeu a b i, decide (y.toNat ≤ x.toNat))],
        (c.2 = true → atRecord s target = false → Goes (exec c.1 s) s 0 0 target) ∧
        (c.2 = false → Goes (exec c.1 s) s 0 0 (s.regs.pc + 4))) ∧
  (∀ (s : State) (d a : BitVec 5) (i : BitVec 15) (j : BitVec 20), InStrip s →
      let far := s.regs.pc + j.signExtend 64 <<< 2
      let there := s.x a + i.signExtend 64
      (far.toNat % 4 = 0 → atRecord s far = false → Goes (exec (.jal d j) s) s d (s.regs.pc + 4) far) ∧
      (there.toNat % 4 = 0 → atRecord s there = false → Goes (exec (.jalr d a i) s) s d (s.regs.pc + 4) there)) ∧
  (∀ (s : State) (d a : BitVec 5) (i : BitVec 15), Traps s → AtConvoy s →
      let there := s.x a + i.signExtend 64
      there.toNat % 4 ≠ 0 →
        ∃ t, exec (.jalr d a i) s = .next t ∧
          EntersTrap s.discard t { code := 0x06, tv := there } true 0 s.hart.ckpt.pc) ∧
  (∀ (s : State) (d a b : BitVec 5) (i : BitVec 15) (j : BitVec 20) (k : BitVec 12), Traps s → AtConvoy s →
      let x := s.x a
      let y := s.x b
      let there := x + i.signExtend 64
      let far := s.regs.pc + j.signExtend 64 <<< 2
      let near := s.regs.pc + k.signExtend 64 <<< 2
      let link := fun (target : XWord) => (s.setX d (s.regs.pc + 4)).setPc target
      ∀ c ∈ [(Instr.jalr d a i, there, link there, true), (.jal d j, far, link far, true),
          (.beq a b k, near, s.setPc near, decide (x = y)), (.bne a b k, near, s.setPc near, decide (x ≠ y)),
          (.blt a b k, near, s.setPc near, decide (x.toInt < y.toInt)), (.bge a b k, near, s.setPc near, decide (y.toInt ≤ x.toInt)),
          (.bltu a b k, near, s.setPc near, decide (x.toNat < y.toNat)),
          (.bgeu a b k, near, s.setPc near, decide (y.toNat ≤ x.toNat))],
        c.2.1.toNat % 4 = 0 → atRecord s c.2.1 = true → c.2.2.2 = true →
        (queuesEmpty s.regs = true → commitWait s = none →
          ∃ t, exec c.1 s = .next t ∧ t.hart.wait = some .exit ∧ t.regs.storeBuf = [] ∧ t.regs.x = c.2.2.1.regs.x ∧
            t.regs.pc = c.2.1 ∧ t.mem = c.2.2.1.settle.mem ∧ (∀ v ∈ t.regs.vregs.toList, v.twin = none)) ∧
        (queuesEmpty s.regs = false →
          ∃ t, exec c.1 s = .next t ∧
            EntersTrap s.discard t { code := 0x0C, tv := qleftWord s.regs 0 0 } true 0 s.hart.ckpt.pc))

/-! ### Scalar floating point (R135 to R141) -/

/-- The scalar operations that round (Table 6.4, R136, R137, R138): the exact result of the operands' values, an infinity or
NaN where the arithmetic gives one, is rounded once to fmt under the mode of rm, or of FRM where rm is 7; FFLAGS takes the
exceptions and generator 0 steps where the rounding steps it. FMA's addend is x[rd] as it was.
The scalar operations that round nothing (Table 6.4, R138, R139): minimum and maximum, compares, class and sign injection
write x[rd] alone and raise nothing.
The scalar conversions (R140, Table 3.8): FCVT.I rounds to the kind's integer and clamps out-of-range values, FCVT.F rounds an
integer to fmt, and FCVT rounds only where fmt cannot hold every value of the source format. -/
def Obligations.FloatResults : Prop :=
  (∀ (s : State) (d a b : BitVec 5) (f : BitVec 2) (rm : BitVec 3), InStrip s →
      let r : Rnd := { mode := if rm = 7 then s.regs.frm.toNat else rm.toNat, gen := gen s.regs.gens 0 }
      let x := fpVal s f a
      let y := fpVal s f b
      let once : Instr → Val × Flags → Prop := fun i v =>
        let o := roundTo (scalarFmt f) r v.1
        SetsRounded (exec i s) s d (xword o.bits) (v.2 ||| o.flags) o.gen
      once (.fadd d a b f rm) (x.add r.down y) ∧
      once (.fsub d a b f rm) (x.add r.down y.neg) ∧
      once (.fmul d a b f rm) (x.mul y) ∧
      once (.fdiv d a b f rm) (x.div y) ∧
      once (.fsqrt d a f rm) x.sqrt ∧
      once (.fma d a b f rm) (Val.fma r.down x y (fpVal s f d))) ∧
  (∀ (s : State) (d a b : BitVec 5) (f : BitVec 2), InStrip s →
      let m := scalarFmt f
      let x := fpVal s f a
      let y := fpVal s f b
      let one : Bool → XWord := fun c => if c then 1 else 0
      Sets (exec (.fmin d a b f) s) s d (fpEncode f (x.minNum y)) ∧
      Sets (exec (.fmax d a b f) s) s d (fpEncode f (x.maxNum y)) ∧
      Sets (exec (.feq d a b f) s) s d (one (x.eq y)) ∧
      Sets (exec (.flt d a b f) s) s d (one (x.lt y)) ∧
      Sets (exec (.fle d a b f) s) s d (one (x.le y)) ∧
      Sets (exec (.fclass d a f) s) s d (xword (m.classOf ((s.x a).toNat % 2 ^ m.bits))) ∧
      Sets (exec (.fsgnj d a b f) s) s d (if x = .nan then xword m.nan else
        xword ((s.x a).toNat % 2 ^ (m.bits - 1) + (if (s.x b).toNat.testBit (m.bits - 1) then 2 ^ (m.bits - 1) else 0)))) ∧
  (∀ (s : State) (d a kind : BitVec 5) (f : BitVec 2) (rm : BitVec 3), InStrip s →
      let r : Rnd := { mode := if rm = 7 then s.regs.frm.toNat else rm.toNat, gen := gen s.regs.gens 0 }
      let signed := kind.toNat % 2 == 0
      let n := if kind.toNat < 2 then 32 else 64
      (kind.toNat < 4 →
        (let c := roundToInt (if signed then -2 ^ (n - 1) else 0) (if signed then 2 ^ (n - 1) - 1 else 2 ^ n - 1) r (fpVal s f a)
         SetsRounded (exec (.fcvtI d a kind f rm) s) s d
          (if signed && n == 32 then (BitVec.ofInt 32 c.1).signExtend 64 else xword (wrapBits n c.1).toNat) c.2.1 c.2.2) ∧
        (let o := roundTo (scalarFmt f) r (Val.ofInt (if signed then (if n = 32 then (lo32 (s.x a)).toInt else (s.x a).toInt)
          else if n = 32 then ((lo32 (s.x a)).toNat : Int) else ((s.x a).toNat : Int)))
         SetsRounded (exec (.fcvtF d a kind f rm) s) s d (xword o.bits) o.flags o.gen) ∧
        (let v := fpVal s (kind.setWidth 2) a
         if kind.setWidth 2 = f ∨ f = 1 ∨ (f = 0 ∧ kind ≠ 1) then Sets (exec (.fcvt d a kind f rm) s) s d (fpEncode f v)
         else
          let o := roundTo (scalarFmt f) r v
          SetsRounded (exec (.fcvt d a kind f rm) s) s d (xword o.bits) o.flags o.gen)))

/-! ### Ordered accesses, atomics and commits (R27 to R31, R207 to R214) -/

/-- LD.ACQ (R208, R211): 4 bytes sign-extended, or 8 under D, as the hart's loads see them, to x[rd]; it belongs to the open
strip.
ST.REL and the atomics (Table 10.1, R208, R209, R211): after the strip's commit, the old value of the 4 or 8 bytes at x[ra]
goes to x[rd] (sign-extended from 4 bytes; AMO.FMAX's zero-extended) and the operation's value to memory, in one step; AMO.CAS
writes only where the old value is x[rd]'s. No other byte of memory changes. The bytes are aligned (R129). An atomic orders
every write so far before what its hart does next (R98, R243).
WAITADDR through a peer window at another scope than system raises PROT (R15, R222); that R15 makes it that cause is log entry
38. -/
def Obligations.Atomics : Prop :=
  (∀ (s : State) (d a : BitVec 5) (sc : BitVec 3) (pa : Nat), InStrip s →
      let v := fun n => leNat ((span pa n).map (seenByte s))
      (OrderedAt s .read (s.x a) 4 sc pa →
        SetsByAccess (exec (.ldAcq d a sc false) s) s d ((BitVec.ofNat 32 (v 4)).signExtend 64)) ∧
      (OrderedAt s .read (s.x a) 8 sc pa → SetsByAccess (exec (.ldAcq d a sc true) s) s d (xword (v 8)))) ∧
  (∀ (s : State) (d a b : BitVec 5) (sc : BitVec 3) (w : Bool) (pa : Nat), MayCommit s → Memory.wf s.mem = true → PortUp s pa →
      let n := if w then 8 else 4
      let m := 2 ^ (8 * n)
      let old := leNat (memReadN s.committed.mem pa n)
      let y := (s.x b).toNat % m
      let ext := fun v => if w then xword v else (BitVec.ofNat 32 v).signExtend 64
      let neg := fun (v : Nat) => if v < m / 2 then (v : Int) else v - m
      pa % n = 0 →
      (OrderedAt s.committed .write (s.x a) n sc pa →
        WritesHome (exec (.stRel a b sc w) s) s false 0 0 pa n (some y)) ∧
      (OrderedAt s.committed .update (s.x a) n sc pa →
        (∀ r ∈ [(Instr.amoAdd d a b sc w, (old + y) % m), (.amoAnd d a b sc w, old &&& y), (.amoOr d a b sc w, old ||| y),
            (.amoXor d a b sc w, old ^^^ y), (.amoMin d a b sc w, if neg old ≤ neg y then old else y),
            (.amoMax d a b sc w, if neg old ≤ neg y then y else old), (.amoMinu d a b sc w, min old y),
            (.amoMaxu d a b sc w, max old y), (.amoSwap d a b sc w, y)],
          WritesHome (exec r.1 s) s true d (ext old) pa n (some r.2)) ∧
        WritesHome (exec (.amoCas d a b sc w) s) s true d (ext old) pa n (if old = (s.x d).toNat % m then some y else none)) ∧
      (w = false → OrderedAt s.committed .update (s.x a) 4 sc pa →
        WritesHome (exec (.amoFmax d a b sc) s) s true d (xword old) pa 4 (some (
          if fp32.val old = .nan ∨ fp32.val y = .nan then 0x7FC00000
          else (roundCore fp32 Rnd.rne ((fp32.val old).maxNum (fp32.val y))).1)))) ∧
  (∀ (s : State) (d a b : BitVec 5) (sc : BitVec 3) (pa : Nat), MayCommit s → Traps s →
      ∀ u, access s.committed .read (s.x a) 8 0 = .ok (pa, u) → Config.peerBase ≤ pa → sc ≠ 4 →
        let tr : Trap := { code := 0x08, tv := s.x a, found := u.finds, drawn := u.free }
        ∃ t, exec (.waitaddr d a b sc) s = .next t ∧ EntersTrap (s.committed.noting tr).discard t tr true 0 s.regs.pc)

/-- SCOMMIT and FENCE (R213, R214): the commit that every irreversible instruction makes; SCOMMIT does nothing else, and FENCE
notes that the hart has observed what every writer in the scope has written so far, and orders it before what follows. What a
hart fetches (R90): memory's words, once it has executed a FENCE, at a scope that includes the writer, after each write that
is not its own; and the words as they were while another writer's write stands without one. That the write is performed before
the FENCE in this model's order is what counts as observed is log entry 59.
What a commit leaves (R27 to R29, R238): memory holds what the hart's loads saw, and the scratchpad takes the buffered S-space
stores in their order; every written twin is the committed copy and no twin is left; the buffer is empty; a new strip is open,
its checkpoint the registers at its address, which SCP holds. No store covers a part of a unit that it would newly poison and
report in memory (R408).
YIELD (R223, R364): nothing but that the hart counts as ready after every hart that is ready in its cycle, or whose instant
the next one reaches. XINV (R225, R422): first what FENCE at its scope does; no cached entry of the context, of whatever
level, that serves a covered page is left in the caches in scope, and `xinvs` notes the values that no hart in its scope may
use any longer (R98; log entry 39); the harts held for a fault on a covered page go on; nothing else changes. Which caches are
in scope is log entry 39. An address that is not canonical raises XLAT. -/
def Obligations.Commits : Prop :=
  (∀ (s : State) (sc : BitVec 3), MayCommit s →
      SetsAfterCommit (exec .scommit s) s 0 0 ∧
      let c := s.committed
      SetsIn (exec (.fence sc) s) (c.setHart { c.hart with
        ordered := c.written.length
        fenced := Vector.ofFn (fun j : Fin 5 => if j.val ≤ sc.toNat then c.written.length else c.hart.fenced[j]) }) 0 0) ∧
  (∀ (s : State) (pa : Nat),
      (∀ w ∈ s.written, w.by_ = .hart s.cur ∨ s.written.length ≤ s.hart.fenced.toList.getD (w.by_.level s.cur) 0) →
      fetchedWord s pa = bytesWord (memReadN s.mem pa 4)) ∧
  (∀ (s : State) (w : Writer) (pa p : Nat) (data : List Byte), Memory.wf s.mem = true → w ≠ .hart s.cur →
      s.hart.fenced.toList.getD (w.level s.cur) 0 ≤ s.written.length →
      fetchedWord (s.put w p data) pa = fetchedWord s pa) ∧
  (∀ (s : State), Memory.wf s.mem = true → (∀ t ∈ s.regs.storeBuf, t.sp = false → PortUp s t.addr ∧
        ∀ u ∈ partUnits t.addr t.data.length, mget? s.badUnits u = none ∨ mget? s.badUnits u = some 3) →
      let c := s.committed
      (∀ a, memRead c.mem a = seenByte s a) ∧
      c.core.scratch = (s.regs.storeBuf.filter (·.sp)).foldl (fun m t => memWriteN m t.addr t.data) s.core.scratch ∧
      (∀ j : Fin 32, c.regs.vregs[j] = ⟨curTile s.regs.vregs[j], none⟩) ∧
      (∀ j : Fin 8, c.regs.masks[j] = ⟨curMask s.regs.masks[j], none⟩) ∧
      c.regs.storeBuf = [] ∧ c.hart.ckpt = snapshot s.regs s.regs.pc ∧ c.hart.scp = s.regs.pc.setWidth 57 ∧
      c.regs = { s.regs with vregs := c.regs.vregs, masks := c.regs.masks, storeBuf := [] }) ∧
  (∀ (s : State), MayCommit s →
      SetsAfterCommit (exec .yield s) s 0 0 ∧ ∀ t, exec .yield s = .next t → t.hart.readySince = yieldAt s.gtime) ∧
  (∀ (s : State) (a b : BitVec 5) (sc : BitVec 3), MayCommit s → -2 ^ 56 ≤ (s.x a).toInt ∧ (s.x a).toInt < 2 ^ 56 →
      let c := s.committed.fence sc.toNat
      let first := (s.x a).toNat / 2 ^ 12 % 2 ^ 45
      let n := (s.x b).toNat
      let covers := fun p => n = 0 ∨ (first ≤ p ∧ p < first + n)
      let serves := fun (e : TlbEntry) => n = 0 ∨ (e.first / 4096 < first + n ∧ first < (e.first + e.reach) / 4096)
      ∃ u, SetsIn (exec (.xinv a b sc) s) u 0 0 ∧
        (∀ e, e ∈ u.tlb ↔ e ∈ c.tlb ∧ ¬(e.asid = c.ctx.asid ∧ serves e ∧ (sc = 3 ∨ e.die = s.dieId))) ∧
        (∀ l, l ∈ u.leaders ↔ l ∈ c.leaders ∧ ¬(l.ctx = s.hart.ctx ∧ covers l.page)) ∧
        (∀ k p, (u.hartAt k).wait = some (.page s.hart.ctx p) → ¬covers p) ∧
        (∀ k, u.hartAt k = { c.hartAt k with wait := (u.hartAt k).wait, readySince := (u.hartAt k).readySince } ∧
          ((u.hartAt k).wait ≠ (c.hartAt k).wait → (u.hartAt k).readySince = readyAt s.gtime)) ∧
        (u.hart.ordered = c.written.length ∧ ∀ j : Fin 5, j.val ≤ sc.toNat → u.hart.fenced[j] = c.written.length) ∧
        u.xinvs = ⟨s.ctx.asid, first, n, sc.toNat, s.coreId, c.written.length⟩ :: c.xinvs ∧
        u = { c with tlb := u.tlb, xinvs := u.xinvs, leaders := u.leaders, harts := u.harts, hart := u.hart }) ∧
  (∀ (s : State) (a b : BitVec 5) (sc : BitVec 3), MayCommit s → Traps s → (s.x a).toInt < -2 ^ 56 ∨ 2 ^ 56 ≤ (s.x a).toInt →
      let tr : Trap := { code := 0x07, tv := s.x a }
      ∃ t, exec (.xinv a b sc) s = .next t ∧ EntersTrap s.committed.discard t tr true 0 s.regs.pc)

/-! ### Synchronisation (R215 to R225) -/

/-- The barriers (R215, R216), of a barrier 0 to 15 that the member may arrive at: BARARR writes the generation arrived at;
BAR writes it and then waits on it; the completion that an arrival makes due comes next, as a step of its own (log entry 18).
BARWAIT goes on once the completed count has reached x[rb], and waits until then. -/
def Obligations.Barriers : Prop :=
  ∀ (s : State) (d a b : BitVec 5) (sc : BitVec 3) (g : Gang), MayCommit s → mget? s.gangs s.hart.gang = some g →
    (s.x a).toNat < 16 →
    let n := (s.x a).toNat
    let bar := g.barrier n
    let k := mgetD bar.arrived s.hart.memberIdx 0 + 1
    let g' := { g with bars := mset g.bars n { bar with arrived := mset bar.arrived s.hart.memberIdx k } }
    let c := s.committed
    let c' := { c with
      gangs := mset c.gangs s.hart.gang g'
      agenda := if bar.completed < g'.reached n then .own .barrier s.hart.gang n :: c.agenda else c.agenda }
    (k ≤ bar.completed + 2 →
      SetsIn (exec (.bararr d a sc) s) c' d (xword k) ∧
      SetsInWaits (exec (.bar d a sc) s) c' d (xword k) (some (.barrier n k))) ∧
    ((s.x b).toNat ≤ bar.completed → SetsAfterCommit (exec (.barwait a b sc) s) s 0 0) ∧
    (bar.completed < (s.x b).toNat → Waits (exec (.barwait a b sc) s) c (.barrier n (s.x b).toNat))

/-- CLAIM (R40, R217): next goes to x[rd] and min(x[rb], RS, last − next, at least 0) to VL; where that is not 0 the pair's
first word takes next + VL, in one access. The strip opened stays open. The lane groups are those that LanesTaken gives (R26),
and the hart waits where it says so. That a CLAIM which waits for lanes has had this effect is log entry 15, that a timed
hart's takes its request too, before its first SETVL, log entry 56. A request of 0 is ILLEGAL. -/
def Obligations.Claims : Prop :=
  (∀ (s : State) (d a b : BitVec 5) (sc : BitVec 3), MayCommit s → Traps s → s.hart.vlmax ≠ 0 → s.x b = 0 →
    ∃ t, exec (.claim d a b sc) s = .next t ∧
      EntersTrap s.committed.settle t { code := 0x01, tv := s.regs.pc } false 0 s.regs.pc) ∧
  ∀ (s : State) (d a b : BitVec 5) (sc : BitVec 3) (pa : Nat), MayCommit s → Memory.wf s.mem = true → PortUp s pa →
    s.hart.vlmax ≠ 0 → OrderedAt s.committed .update (s.x a) 16 sc pa → pa % 16 = 0 →
    let c := s.committed
    let word := fun p => (xword (leNat (memReadN c.mem p 8))).toInt
    let next := word pa
    let n := min (min (s.x b).toNat (rowSize s)) (word (pa + 8) - next).toNat
    (s.x b).toNat ≠ 0 →
      ∃ t, exec (.claim d a b sc) s = .next t ∧ WritesX c t d (BitVec.ofInt 64 next) ∧ t.regs.vl = n ∧
        (∀ p, memRead t.mem p = if n ≠ 0 ∧ pa ≤ p ∧ p < pa + 8 then
          BitVec.ofNat 8 ((BitVec.ofInt 64 (next + n)).toNat / 256 ^ (p - pa)) else memRead c.mem p) ∧
        t.regs.pc = s.regs.pc + 4 ∧ OnlyX { c.regs with vl := n } t.regs ∧
        (let r := takeLanes c
         t.core = r.1.core ∧ (∀ i, i ≠ s.coreId → t.coreAt i = c.coreAt i) ∧ t.hart.laneSince = r.1.hart.laneSince ∧
         t.hart.wait = if r.2 then some .lanesClaim else none) ∧
        t.hart = { c.hart with
          regs := t.hart.regs, undo := none, wait := t.hart.wait, readySince := readyAt s.gtime, laneSince := t.hart.laneSince
          ordered := t.written.length } ∧
        t.written = (if n ≠ 0 then
          { by_ := .hart s.cur, pa := pa, old := memReadN c.mem pa 8, new := leBytes 8 (BitVec.ofInt 64 (next + n)).toNat } :: c.written
          else c.written) ∧
        OnlyFound c t ∧ t = { c with
          hart := t.hart, cores := t.cores, mem := t.mem, written := t.written, badUnits := t.badUnits, tlb := t.tlb, free := t.free
          agenda := t.agenda }

/-- The lane groups that SETVL and CLAIM take (R24, R26): an untimed hart returns those it holds and takes its request, or as
many as are free, when some are free and no hart waits; else it waits for them, the last in the order. A timed hart keeps what
it holds and takes only the whole of what is missing. No other hart's groups change. -/
def Obligations.LanesTaken : Prop :=
  ∀ (s : State), s.hart.steward = false →
    let r := takeLanes s
    let k := s.core
    let k' := r.1.core
    let free := (k.lanes.toList.filter (fun l => l = none ∨ (s.hart.timed = false ∧ l = some s.slotId))).length
    let holds := fun (k : Core) (h : Nat) => (k.lanes.toList.filter (fun l => l = some h)).length
    (∀ h, h ≠ s.slotId → holds k' h = holds k h) ∧
    (s.hart.timed = false → ∀ w ∈ k.laneWait, w.1 ≠ s.slotId →
      r.2 = true ∧ holds k' s.slotId = 0 ∧ (s.slotId, s.gtime) ∈ k'.laneWait) ∧
    (s.hart.timed = false → (∀ w ∈ k.laneWait, w.1 = s.slotId) →
      (free = 0 → r.2 = true ∧ (s.slotId, s.gtime) ∈ k'.laneWait) ∧
      (free ≠ 0 → r.2 = false ∧ holds k' s.slotId = min s.hart.laneReq free ∧ k'.laneLast = s.slotId ∧
        ∀ w ∈ k'.laneWait, w.1 ≠ s.slotId)) ∧
    (s.hart.timed = true →
      (s.hart.laneReq ≤ holds k s.slotId → r.1 = s ∧ r.2 = false) ∧
      (holds k s.slotId < s.hart.laneReq ∧ s.hart.laneReq ≤ holds k s.slotId + free →
        r.2 = false ∧ holds k' s.slotId = s.hart.laneReq) ∧
      (holds k s.slotId + free < s.hart.laneReq → r.2 = true ∧ holds k' s.slotId = holds k s.slotId))

/-- WAITT (R44, R218): max(0, GTIME − x[ra]) goes to x[rd]. An untimed hart goes on at x[ra]; a timed one issues its next
convoy three cycles after x[ra], or after the present when that is later.
WAITADDR (R222, R210): a value other than x[rb] goes to x[rd]; the value x[rb] leaves the hart waiting on the address. -/
def Obligations.TimeAndAddressWaits : Prop :=
  (∀ (s : State) (d a : BitVec 5), MayCommit s →
      let t := (s.x a).toNat
      let due := if s.hart.timed then max t s.gtime + 3 else t
      ∃ u, exec (.waitt d a) s = .next u ∧ NextStrip s.committed u ∧ WritesX s.committed u d (xword (s.gtime - t)) ∧
        u.hart.wait = (if s.gtime < due then some (.time due) else none) ∧
        u.hart.issueAt = (if s.hart.timed then some due else none) ∧ OnlyX s.committed.regs u.regs ∧
        StripOnly { s.committed.hart with issueAt := u.hart.issueAt } u.hart ∧ u = { s.committed with hart := u.hart }) ∧
  (∀ (s : State) (d a b : BitVec 5) (sc : BitVec 3) (pa : Nat), MayCommit s → OrderedAt s.committed .read (s.x a) 8 sc pa →
      let v := xword (leNat (memReadN s.committed.mem pa 8))
      (v ≠ s.x b → ∃ c, SameButTlb s.committed c ∧ c.hart = s.committed.hart ∧ SetsIn (exec (.waitaddr d a b sc) s) c d v) ∧
      (v = s.x b → ∃ c, SameButTlb s.committed c ∧ c.hart = s.committed.hart ∧ Waits (exec (.waitaddr d a b sc) s) c (.addr d a b sc)))

/-- SENDT (R45, R219, R220): the rows of the sender's scratchpad that x[ra] names are read, and the transfer of them to the
rows named of the member's core is under way; it lands at the slot time x[rb] where it issued 160 cycles earlier, or 320 to
another die, else once it is through. A member number at or above the gang's size is ILLEGAL; a row outside the request of the
sender or of the receiver is PROT at the first byte that is not allowed (R387); a stopped member is waited for (R367). RECVCHK
(R221, R395): the record of x[ra]'s slot with the stamp of STAMPX gives its count and is cleared; a record with another stamp,
or none, raises STAMP, whose word gives the stamp found, or 2^16, and the slot. -/
def Obligations.RowTransfers : Prop :=
  (∀ (s : State) (a b : BitVec 5) (g : Gang), MayCommit s → mget? s.gangs s.hart.gang = some g →
      let r := (s.x a).toNat
      let src := r % 2 ^ 15
      let count := if r / 2 ^ 15 % 2 ^ 6 = 0 then 64 else r / 2 ^ 15 % 2 ^ 6
      let dst := r / 2 ^ 21 % 2 ^ 15
      let mem := r / 2 ^ 36 % 2 ^ 12
      let key := mgetD g.members mem 0
      let dest := s.coreAt (key / 8)
      let to_ := s.hartAt key
      let c := s.committed
      (g.size ≤ mem → Traps s →
        ∃ t, exec (.sendt a b) s = .next t ∧ EntersTrap c.settle t { code := 0x01, tv := s.regs.pc } false 0 s.regs.pc) ∧
      (let traps := fun tv write => ∃ t, exec (.sendt a b) s = .next t ∧
        EntersTrap c.discard t { code := 0x08, tv := xword tv, sspace := true, write := write } true 0 s.regs.pc
       Traps s → mem < g.size → s.holds = true →
        (s.core.request < 64 * (src + count) → traps (max (64 * src) s.core.request) false) ∧
        (64 * (src + count) ≤ s.core.request → to_.live ≠ .stopped → dest.holder ≠ none → dest.request < 64 * (dst + count) →
          traps (max (64 * dst) dest.request) true)) ∧
      (mem < g.size → s.holds = true → 64 * (src + count) ≤ s.core.request → key ≠ s.cur →
        to_.gang = s.hart.gang → to_.memberIdx = mem → to_.live = .stopped → Waits (exec (.sendt a b) s) c .receiver) ∧
      (mem < g.size → s.holds = true → 64 * (src + count) ≤ s.core.request → to_.live ≠ .stopped →
        64 * (dst + count) ≤ dest.request → dest.holder ≠ none →
        let t : Transfer := {
          slot := s.x b, stamp := BitVec.ofNat 16 (r / 2 ^ 48), gang := s.hart.gang, member := mem, hart := key, core := key / 8
          dst := dst, rows := (span src count).map (fun i => memReadN c.core.scratch (64 * i) 64)
          due := if s.gtime + (if key / 8 / Config.coresPerDie = s.dieId then 160 else 320) ≤ (s.x b).toNat
            then some (s.x b).toNat else none }
        SetsIn (exec (.sendt a b) s) { c with transfers := c.transfers ++ [t] } 0 0)) ∧
  (∀ (s : State) (d a : BitVec 5), MayCommit s →
      let c := s.committed
      let found := s.hart.arrivals.find? (fun r => r.slot == s.x a)
      (∀ r, found = some r → r.stamp = s.hart.stampx →
        SetsIn (exec (.recvchk d a) s)
          (c.setHart { c.hart with arrivals := s.hart.arrivals.filter (fun y => y.slot != s.x a) }) d (xword r.count)) ∧
      (Traps s → ∀ v, (found = none ∧ v = 2 ^ 16) ∨ (∃ r, found = some r ∧ r.stamp ≠ s.hart.stampx ∧ v = r.stamp.toNat) →
        ∃ t, exec (.recvchk d a) s = .next t ∧
          EntersTrap c.settle t { code := 0x0A, tv := xword (v + 2 ^ 32 * ((s.x a).toNat % 2 ^ 32)) } false 0 s.regs.pc))

/-- LAUNCH (R224, R355 to R357) of a readable, well-formed specification whose dependences are outstanding tickets of the
hart. With a full queue of its class, or 64 tickets outstanding, 0 goes to x[rd] and nothing is launched; else a fresh ticket
goes to x[rd], and the launch, with its copy of the specification, joins the shortest queue of its class.
A ticket is never 0 and never one that the hart still has outstanding (R224, R261). -/
def Obligations.Launches : Prop :=
  (∀ (s : State) (d a : BitVec 5) (pa : Nat), MayCommit s → s.hart.steward = false → Readable s.committed (s.x a) 64 pa →
      (s.x a).toNat % 64 = 0 →
      let c := s.committed
      let spec := BitVec.ofNat 512 (leNat (memReadN c.mem pa 64))
      let named := (specDeps spec).filter (· ≠ 0)
      let known := fun v => s.hart.tickets.find? (fun t => t.value.toNat = v)
      let cls := spec.toNat / 2 ^ 83 % 4
      let q := launchQueue c.ctx cls
      let full := 32 ≤ (mgetD c.ctx.queues q []).length ∨ 64 ≤ s.hart.tickets.length
      specBad spec = false → (∀ v ∈ named, (known v).isSome = true) →
        ∃ u, SameButTlb c u ∧ u.hart = c.hart ∧
          (full → SetsIn (exec (.launch d a) s) u d 0) ∧
          (¬full →
            let v := freshTicket u
            let l : Launch := {
              spec := spec, record := s.x a, launcher := some (s.cur, c.nextCmd), rootHseq := none
              deps := named.filterMap (fun v => (known v).map (·.cmd)), acceptedAt := s.gtime, order := c.nextCmd
              blocking := false, eligibleAt := none }
            let k : Cmd := {
              hart := s.cur, core := s.coreId, ctx := s.hart.ctx, gang := s.hart.gang, op := 11, maj := 7, kind := .launch
              lines := [], late := [] }
            let w : State := { u with
              cmds := mset u.cmds u.nextCmd k, nextCmd := u.nextCmd + 1, free := u.free + 1
              hart := { u.hart with tickets := u.hart.tickets ++ [(⟨v, u.nextCmd, none⟩ : Ticket)] } }
            SetsIn (exec (.launch d a) s)
              (w.setCtxAt s.hart.ctx { u.ctx with queues := mset u.ctx.queues q (mgetD u.ctx.queues q [] ++ [l]) }) d (v.setWidth 64))) ∧
  (∀ (s : State), s.hart.tickets.length ≤ 64 →
      freshTicket s ≠ 0 ∧ ∀ t ∈ s.hart.tickets, t.value ≠ freshTicket s)

/-! ### Control registers, traps and the steward's operations (R226 to R231) -/

/-- CSRR (R226, R227, Table 10.4 and the maps it names): the register's fields go to x[rd], and nothing else changes. VOWN is
for steward harts.
CSRW, CSRS and CSRC of a control register that a context may access (R226, R227): its old value goes to x[rd]; each bit that
is writable takes x[ra], the old value OR x[ra], or the old value AND NOT x[ra]; every other bit of it, and every other
control register, stays. A rounding mode above 5 and a TSPAN length above 64 are not written (Tables 3.5, 4.2). A write of
SEED seeds the 64 generators (R60). FRM, FFLAGS and SEED belong to the strip; every other write commits it first, and SCP then
follows the new strip. -/
def Obligations.ControlRegisters : Prop :=
  (∀ (s : State) (d : BitVec 5), InStrip s →
      let h := s.hart
      let r := s.regs
      let bit := fun (b : Bool) (i : Nat) => if b then 2 ^ i else 0
      let tc := fun (t : TrapRegs) => t.cause.toNat + bit t.restart 8 + bit t.fetch 9 + bit t.write 10 + bit t.sspace 11
        + t.member.toNat * 2 ^ 12 + t.index.toNat * 2 ^ 32
      let ts := fun (t : TrapRegs) => t.pfx.toNat + bit t.pfxv 25 + t.ptl.toNat * 2 ^ 26
      let k := s.core
      ∀ p ∈ [(0x000, r.vl), (0x001, r.vr), (0x002, h.vlmax), (0x003, r.gcode.toNat + bit r.tailZero 2), (0x008, h.scp.toNat),
          (0x009, r.pfxFields.toNat + bit r.pfxValid 32), (0x00A, r.frm.toNat), (0x00B, r.fflags.toNat), (0x00C, r.seed.toNat),
          (0x010, s.gtime), (0x012, h.stampx.toNat), (0x013, h.cyb.toNat), (0x014, h.lat.toNat),
          (0x015, h.tspanOff.toNat + h.tspanLen.toNat * 2 ^ 6), (0x020, 64), (0x021, h.mwb.toNat * 2 ^ 7),
          (0x030, h.tl.toNat + bit h.eft 2), (0x031, h.thb.toNat * 2 ^ 10), (0x032, tc h.t1), (0x033, h.t1.tp.toNat),
          (0x034, h.t1.tv.toNat), (0x035, ts h.t1), (0x036, tc h.t2), (0x037, h.t2.tp.toNat), (0x038, h.t2.tv.toNat),
          (0x039, ts h.t2), (0x040, h.ctx + s.ctx.asid.toNat * 2 ^ 16), (0x041, s.slotId), (0x042, (s.gidOf h.gang).toNat),
          (0x043, match mget? s.gangs h.gang with | some g => g.size | none => 0), (0x044, h.memberIdx),
          (0x050, k.owner.toNat + bit k.owned 8 + bit k.clean 9)],
        (p.1 = 0x050 → h.steward = true) → Sets (exec (.csrr d (BitVec.ofNat 12 p.1)) s) s d (xword p.2)) ∧
  (∀ (s : State) (d a : BitVec 5) (c : BitVec 12),
      c.toNat ∈ [0x000, 0x001, 0x002, 0x003, 0x008, 0x009, 0x00A, 0x00B, 0x00C, 0x010, 0x012, 0x013, 0x014, 0x015, 0x020, 0x021, 0x030,
        0x031, 0x032, 0x033, 0x034, 0x035, 0x036, 0x037, 0x038, 0x039, 0x040, 0x041, 0x042, 0x043, 0x044] →
      let strip := c = 0x00A ∨ c = 0x00B ∨ c = 0x00C
      let b := if strip then s else s.committed
      let old := csrRead b c
      let x := s.x a
      (strip → InStrip s) → (¬strip → MayCommit s) →
      ∀ p ∈ [(Instr.csrw d a c, x), (.csrs d a c, old ||| x), (.csrc d a c, old &&& ~~~x)],
        let m := if c = 0x00A ∧ 6 ≤ p.2.toNat % 8 then 0
          else if c = 0x015 ∧ 64 < p.2.toNat / 2 ^ 6 % 2 ^ 7 then 0x3F else csrWritable c.toNat
        ∃ t, exec p.1 s = .next t ∧ WritesX b t d old ∧ t.regs.pc = s.regs.pc + 4 ∧
          (c ≠ 0x008 → csrRead t c = (old &&& ~~~m) ||| (p.2 &&& m)) ∧
          (∀ e, e ≠ c → e ≠ 0x008 → csrRead t e = csrRead b e) ∧
          (∀ l, l < 64 → gen t.regs.gens l = if c = 0x00C then
            (let g := p.2.setWidth 32 ^^^ BitVec.ofNat 32 (l * 0x9E3779B9)
             if g = 0 then 1 else g) else gen b.regs.gens l) ∧
          (if strip then t.hart.scp = s.hart.scp ∧ t.hart.ckpt = s.hart.ckpt else NextStrip b t) ∧
          t.regs = { b.regs with
            x := t.regs.x, pc := t.regs.pc, pend := none, cv := none, chain := none, first := none, member := 0
            frm := t.regs.frm, fflags := t.regs.fflags, seed := t.regs.seed, gens := t.regs.gens
            pfxFields := t.regs.pfxFields, pfxValid := t.regs.pfxValid } ∧
          t.hart = { b.hart with
            regs := t.hart.regs, undo := none, wait := none, readySince := readyAt s.gtime, ckpt := t.hart.ckpt, scp := t.hart.scp
            stripOpened := t.hart.stripOpened, early := false, stampx := t.hart.stampx, cyb := t.hart.cyb, lat := t.hart.lat
            tspanOff := t.hart.tspanOff, tspanLen := t.hart.tspanLen, mwb := t.hart.mwb, eft := t.hart.eft, thb := t.hart.thb
            t1 := t.hart.t1, t2 := t.hart.t2 } ∧
          t = { b with hart := t.hart })

/-- VOWN and STW in a context's hart (R227, R230): PRIV, precisely, and nothing else.
TRAP (R228, R393): the strip is committed, TV1 holds x[ra], TP1 the TRAP's own address, and the PC is at entry 5 of the
handler table; no register changes.
TRET (R229) at level 1 or 2: the PC is TP of the level, PFXS what TS holds, and the level one less; at level 0 a new strip
opens there. For an address that is no multiple of 4, where R229 has the faults of the return address taken at the level
returned to, the model's choice (log entry 30) is that ALIGN is raised at the TRET itself (R101), one level up, or, at level
2, ends the context (R400). The faults of which the hart was leader at the level are released (R422). At level 0 it is
ILLEGAL, and so is a word that decodes to no instruction (R108). -/
def Obligations.TrapsTaken : Prop :=
  (∀ (s : State) (d a : BitVec 5), Traps s → MayCommit s →
      ∀ i ∈ [Instr.csrr d 0x050, .csrw d a 0x050, .csrs d a 0x050, .csrc d a 0x050, .vsave d a, .vrestore d a, .scrub d a,
          .ctxkill d a, .setown d a],
        ∃ t, exec i s = .next t ∧ EntersTrap s.settle t { code := 0x04, tv := s.regs.pc } false 0 s.regs.pc) ∧
  (∀ (s : State) (a : BitVec 5) (i : BitVec 12), Traps s → MayCommit s →
      ∃ t, exec (.trap a i) s = .next t ∧
        EntersTrap s.committed.settle t { code := 0x0E, tv := s.x a } false 0 s.regs.pc) ∧
  (∀ (s : State),
      let h := s.hart
      let tr := if h.tl = 2 then h.t2 else h.t1
      let pc := tr.tp.signExtend 64
      (h.tl ≠ 0 → tr.tp.toNat % 4 ≠ 0 → h.steward = false → AtConvoy s → h.thb ≠ 0 →
        (h.tl = 1 →
          ∃ t, exec .tret s = .next t ∧ t.mem = s.mem ∧
            t.regs = { s.regs with pfxValid := false, pc := sext 57 (xword (h.thb.toNat * 1024 + 64 * 2)) } ∧
            t.hart = { h with
              tl := 2, regs := t.hart.regs, readySince := readyAt s.gtime
              t2 := {
                cause := 0x06, restart := false, fetch := false, write := false, sspace := false, member := 0, index := 0
                tp := s.regs.pc.setWidth 57, tv := pc, pfx := s.regs.pfxFields, pfxv := s.regs.pfxValid, ptl := 1 } } ∧
            t = { s with hart := t.hart }) ∧
        (h.tl = 2 → exec .tret s = .next (s.killContext h.ctx 0x06 0 s.regs.pc pc (s.gidOf h.gang).toNat h.memberIdx))) ∧
      (h.tl = 1 ∨ h.tl = 2 → tr.tp.toNat % 4 = 0 → atRecord s pc = false →
        ∃ t, exec .tret s = .next t ∧ t.hart.tl = h.tl - 1 ∧
          t.regs = { s.regs with pc := pc, pfxFields := tr.pfx, pfxValid := tr.pfxv } ∧
          (h.tl = 1 → t.hart.ckpt = snapshot t.regs pc ∧ t.hart.scp = tr.tp) ∧
          (∀ l, l ∈ t.leaders ↔ l ∈ s.leaders ∧ ¬(l.hart = s.cur ∧ l.level = h.tl)) ∧
          (∀ k, k ≠ s.cur →
            t.hartAt k = { s.hartAt k with wait := (t.hartAt k).wait, readySince := (t.hartAt k).readySince } ∧
            ((t.hartAt k).wait ≠ (s.hartAt k).wait → (t.hartAt k).readySince = readyAt s.gtime)) ∧
          (∀ k l, k ≠ s.cur → l ∈ s.leaders → l.hart = s.cur → l.level = h.tl → (t.hartAt k).wait ≠ some (.page l.ctx l.page)) ∧
          t.hart = { h with
            tl := t.hart.tl, regs := t.hart.regs, undo := none, wait := none, readySince := readyAt s.gtime, ckpt := t.hart.ckpt
            scp := t.hart.scp, stripOpened := t.hart.stripOpened, early := t.hart.early } ∧
          t = { s with hart := t.hart, harts := t.harts, leaders := t.leaders }) ∧
      (Traps s → MayCommit s →
        ∃ t, exec .tret s = .next t ∧ EntersTrap s.settle t { code := 0x01, tv := s.regs.pc } false 0 s.regs.pc)) ∧
  (∀ (s : State) (w : Word) (e : Reject), Traps s → MayCommit s → decodeMember w = .error e →
      ∃ t, exec (.illegal w) s = .next t ∧ EntersTrap s.settle t { code := 0x01, tv := s.regs.pc } false 0 s.regs.pc)

/-- The steward's operations (R230, R231, Tables 10.6, 10.7), each with the descriptor it reads at x[ra]: VSAVE seals the
vector state of a hart, 12 + 16 bytes longer than it is, and writes it at ADDR, except what would fall into the audit region
(R380); VRESTORE puts back what an authentic image holds, or changes nothing; a hart of the file's owner that waits for it
then goes on (Table 21.5). Both wait at the first line of the image that is held (R290, R316, R322). SCRUB zeroes a hart's
state, and no other's, or a context's; CTXKILL stops the context's harts, begins its kill and waits for it, but a context that
was killed or is Free gains no further kill, and the wait is then for one still under way (R433); SETOWN names the owner of a
scrubbed core. A descriptor with a reserved bit set or a core above 767 changes nothing and gives all ones. That VSAVE's COUNT
is VLMAX, and that VSAVE and VRESTORE answer so for an address off a 4 KiB boundary too, is log entry 40; the wait of CTXKILL,
and that a context is killed once until it is Free, is log entry 21, the cipher log entry 27, and that an image with a bad
unit does not authenticate log entry 57. -/
def Obligations.StewardOperations : Prop :=
  ∀ (s : State) (d a : BitVec 5) (pa : Nat), MayCommit s → s.hart.steward = true → (s.x a).toNat % 16 = 0 →
    Readable s.committed (s.x a) 16 pa →
    let c := s.committed
    let v := leNat (memReadN c.mem pa 16)
    let core := v % 2 ^ 10
    let key := 8 * core + v / 2 ^ 10 % 8
    let ctx := v / 2 ^ 16 % 2 ^ 6
    let addr := v / 2 ^ 64 % 2 ^ 52
    let ok := v / 2 ^ 13 % 8 = 0 ∧ v / 2 ^ 22 % 4 = 0 ∧ v / 2 ^ 25 % 2 ^ 39 = 0 ∧ v / 2 ^ 116 % 2 ^ 12 = 0 ∧ core < 768
    let h := c.hartAt key
    let ones : XWord := BitVec.allOnes 64
    let reached := fun n => ∀ p, addr ≤ p → p < addr + n → accessWait c (p / 128 * 128) = none
    let size := 64 + h.vn * h.vlmax * 2 ^ h.wcode.toNat + 8 * h.vlmax + 28
    (¬ok → ∀ i ∈ [Instr.vsave d a, .vrestore d a, .scrub d a, .ctxkill d a, .setown d a],
      SetsIn (exec i s) c d ones) ∧
    (ok → addr % 4096 ≠ 0 → ∀ i ∈ [Instr.vsave d a, .vrestore d a], SetsIn (exec i s) c d ones) ∧
    (ok →
      (h.vn ≤ 32 → addr % 4096 = 0 →
        (reached size → ∃ iv, iv.length = 12 ∧
          SetsIn (exec (.vsave d a) s)
            ((c.draw.draw.rangeWrite 0 s.hart.gang (xword addr) addr (gcmSeal (c.ctxAt ctx).key iv (savePlain h))).noteImage ctx addr size)
            d (xword size)) ∧
        (∀ p w, addr ≤ p → p < addr + size → accessWait c (p / 128 * 128) = some w →
          (∀ q, addr ≤ q → q / 128 < p / 128 → accessWait c (q / 128 * 128) = none) → Waits (exec (.vsave d a) s) c w)) ∧
      (let n := imageLength (c.ctxAt ctx).key (memReadN c.mem addr 28)
       let pt := gcmOpen (c.ctxAt ctx).key (memReadN c.mem addr n)
       (addr % 4096 = 0 → ∀ p w, addr ≤ p → p < addr + n → accessWait c (p / 128 * 128) = some w →
          (∀ q, addr ≤ q → q / 128 < p / 128 → accessWait c (q / 128 * 128) = none) → Waits (exec (.vrestore d a) s) c w) ∧
       (addr % 4096 = 0 → reached n → (∀ p, addr ≤ p → p < addr + n → mget? c.badUnits (p / 2) = none) →
       (∀ g, pt.bind (restorePlain h) = some g → key ≠ s.cur →
          let e := c.setHartAt key g
          let k := c.coreAt core
          SetsIn (exec (.vrestore d a) s) (if k.owned = true ∧ k.owner.toNat = g.ctx then e.releaseVown core g.ctx else e) d 0) ∧
       (pt.bind (restorePlain h) = none → SetsIn (exec (.vrestore d a) s) c d ones))) ∧
      (v / 2 ^ 24 % 2 = 0 → key ≠ s.cur →
        ∃ u, SetsIn (exec (.scrub d a) s) u d 0 ∧ u.hart = c.hart ∧ (∀ k, k ≠ key → u.hartAt k = c.hartAt k) ∧
          (∀ k, k ≠ core → u.coreAt k = c.coreAt k) ∧
          u.hartAt key = { h with
            vlmax := 0, vn := 0, scrubbed := h.scrubbed || decide (h.vn * h.vlmax ≠ 0)
            regs := { h.regs with
              vregs := Vector.replicate 32 ⟨⟨.bits, #[]⟩, none⟩, masks := Vector.replicate 8 ⟨0, none⟩
              qtags := Vector.replicate 4 .bits } } ∧
          ((∀ p ∈ u.allHarts, p.1 / 8 = core → p.2.ctx = (c.coreAt core).owner.toNat → p.2.live ≠ .free → p.2.vn * p.2.vlmax = 0) →
            (u.coreAt core).clean = true) ∧
          u.coreAt core = { c.coreAt core with clean := (u.coreAt core).clean } ∧
          u = { c with hart := u.hart, harts := u.harts, cores := u.cores }) ∧
      (v / 2 ^ 24 % 2 = 1 → SetsIn (exec (.scrub d a) s) (scrubContext c.draw ctx (Config.failing c.free)) d 0) ∧
      (let x := c.ctxAt ctx
       let kills := fun (k : State) (pending : List Pending) (killed : Bool) (w : Option Wait) =>
        ContextStops c k ctx ∧ (k.ctxAt ctx).pending = pending ∧ (k.ctxAt ctx).killed = killed ∧ SetsInWaits (exec (.ctxkill d a) s) k d 0 w
       (x.killed = false → x.state ≠ .free → ∃ k, kills k (x.pending ++ [.kill 0 2 0 0 0 0]) true (some (.kill ctx))) ∧
       (x.killed = true ∨ x.state = .free →
        ∃ k, kills k x.pending x.killed (if x.pending.any Pending.isKill then some (.kill ctx) else none))) ∧
      ((c.coreAt core).clean = true →
        SetsIn (exec (.setown d a) s)
          (c.setCoreAt core { c.coreAt core with owner := BitVec.ofNat 6 ctx, owned := true, clean := false }) d 0) ∧
      ((c.coreAt core).clean = false → SetsIn (exec (.setown d a) s) c d ones))

/-! ### Vector configuration (R22, R23, R111, R112, R152 to R157) -/

/-- VDECL (R22, R152, R153) of a descriptor that Table 7.2 allows: VLMAX is the request, or what the register file has left,
in whole 64s; the tile shape goes to one row of VL 0, ungrouped and undisturbed; every declared register, mask and tag is
zero. A descriptor that breaks Table 7.2 is ILLEGAL before the commit. -/
def Obligations.Declarations : Prop :=
  ∀ (s : State) (d a : BitVec 5), MayCommit s →
    let v := (s.x a).toNat
    let n := v / 2 ^ 24 % 2 ^ 6
    let count := v % 2 ^ 17
    let w := v / 2 ^ 20 % 4
    let ok := v / 2 ^ 17 % 8 = 0 ∧ v / 2 ^ 22 % 4 = 0 ∧ v / 2 ^ 30 = 0 ∧ n ≤ 32 ∧ (n ≠ 0 → 64 ≤ count ∧ count ≤ 65536)
    let c := s.committed
    let free := 2 ^ 21 - spaceHeld c s.coreId s.hart.ctx s.cur
    let vlmax := if n = 0 then 0 else min count (free / (2 * n * 2 ^ w)) / 64 * 64
    let r := { c.regs with
      vl := 0, vr := 1, gcode := 0, tailZero := false
      vregs := Vector.ofFn (fun j : Fin 32 => (⟨⟨.bits, if j.val < n then Array.replicate vlmax 0 else #[]⟩, none⟩ : VReg))
      masks := Vector.replicate 8 ⟨0, none⟩
      qtags := Vector.replicate 4 .bits }
    (ok → SetsIn (exec (.vdecl d a) s)
      (c.setHart { c.hart with vlmax := vlmax, vn := n, wcode := BitVec.ofNat 2 w, reserve := 0, regs := r }) d (xword vlmax)) ∧
    (¬ok → Traps s → ∃ t, exec (.vdecl d a) s = .next t ∧
      EntersTrap s.settle t { code := 0x01, tv := s.regs.pc } false 0 s.regs.pc)

/-- SETVL (R27, R154): VR takes the rows, 1 for 0; VL and x[rd] the lesser of x[xa] and the row size; the strip opened, whose
checkpoint is the state before, stays open. The lane groups are those that LanesTaken gives (R26), and the hart waits where it
says so. That a SETVL which waits for lanes has had this effect is log entry 15. Another row count is ILLEGAL, and a hart with
no declaration raises DECL first. VTAG (R155) sets the tag of every register of the group, whose bits stay, or of a queue;
VSHAPE (R156) sets the group factor and the tail policy, and brings VL within the new row size. -/
def Obligations.ShapeAndTags : Prop :=
  (∀ (s : State) (d a b : BitVec 5), MayCommit s →
      let rows := if s.x b = 0 then 1 else (s.x b).toNat
      let vl := min (s.x a).toNat (2 ^ s.regs.gcode.toNat * s.hart.vlmax / rows)
      let c := s.committed
      (s.hart.vlmax ≠ 0 → rows ∈ [1, 2, 4, 8, 16, 32, 64] →
        ∃ t, exec (.setvl d a b) s = .next t ∧ WritesX c t d (xword vl) ∧ t.regs.vl = vl ∧ t.regs.vr = rows ∧
          t.regs.pc = s.regs.pc + 4 ∧ OnlyX { c.regs with vl := vl, vr := rows } t.regs ∧
          (let r := takeLanes c
           t.core = r.1.core ∧ (∀ i, i ≠ s.coreId → t.coreAt i = c.coreAt i) ∧ t.hart.laneSince = r.1.hart.laneSince ∧
           t.hart.wait = if r.2 then some (.lanesSetvl d (s.x d) s.regs.vl s.regs.vr) else none) ∧
          t.hart = { c.hart with
            regs := t.hart.regs, undo := none, wait := t.hart.wait, readySince := readyAt s.gtime, laneSince := t.hart.laneSince } ∧
          t = { c with hart := t.hart, cores := t.cores }) ∧
      (Traps s →
        (s.hart.vlmax ≠ 0 → rows ∉ [1, 2, 4, 8, 16, 32, 64] →
          ∃ t, exec (.setvl d a b) s = .next t ∧ EntersTrap s.settle t { code := 0x01, tv := s.regs.pc } false 0 s.regs.pc) ∧
        (s.hart.vlmax = 0 →
          ∃ t, exec (.setvl d a b) s = .next t ∧ EntersTrap s.settle t { code := 0x10, tv := s.regs.pc } false 0 s.regs.pc))) ∧
  (∀ (s : State) (d t : BitVec 5) (z : Bool) (g : BitVec 2) (f : Fmt), InStrip s → s.hart.vlmax ≠ 0 →
      Fmt.ofCode? t.toNat = some f → f.bytes ≤ declWidth s →
      let n := 2 ^ s.regs.gcode.toNat
      (d.toNat % n = 0 → d.toNat + n ≤ s.hart.vn →
        ∃ u, exec (.vtag d t 0) s = .next u ∧ u.regs.pc = s.regs.pc + 4 ∧
          (∀ j : Fin 32, u.regs.vregs[j] = if d.toNat ≤ j.val ∧ j.val < d.toNat + n then
            ⟨s.regs.vregs[j].com, some { tag := f, elems := (curTile s.regs.vregs[j]).elems }⟩ else s.regs.vregs[j]) ∧
          OnlyX { s.regs with vregs := u.regs.vregs } u.regs ∧ u.regs.x = s.regs.x ∧ SameMachine s u) ∧
      (d.toNat < 4 →
        ∃ u, exec (.vtag d t 1) s = .next u ∧ u.regs.pc = s.regs.pc + 4 ∧
          (∀ j : Fin 4, u.regs.qtags[j] = if j.val = d.toNat then f else s.regs.qtags[j]) ∧
          OnlyX { s.regs with qtags := u.regs.qtags } u.regs ∧ u.regs.x = s.regs.x ∧ SameMachine s u) ∧
      (∃ u, exec (.vshape z g) s = .next u ∧ u.regs.pc = s.regs.pc + 4 ∧
        OnlyX { s.regs with
          gcode := g, tailZero := z, vl := min s.regs.vl (2 ^ g.toNat * s.hart.vlmax / s.regs.vr) } u.regs ∧
        u.regs.x = s.regs.x ∧ SameMachine s u))

/-- A prefix (R111, R112, R116): its fields wait for the next word of the convoy, which is part of it; no other register
changes. One that comes while PFXS is valid is ILLEGAL. -/
def Obligations.Prefixes : Prop :=
  ∀ (s : State) (pm : BitVec 3) (pn : Bool) (em ek : BitVec 3) (dc : BitVec 5) (dce : Bool) (rm : BitVec 3) (sat : Bool),
    let i := Instr.pfx pm pn em ek dc dce rm sat
    (s.regs.pend = none → s.regs.pfxValid = false →
      ∃ t, exec i s = .next t ∧ t.regs.pc = s.regs.pc + 4 ∧
        pfxOf t.regs = {
          present := true, pm := pm, pn := pn, em := em, ek := ek, dc := dc, dce := dce, rm := rm, sat := sat, at_ := s.regs.pc } ∧
        t.hart.undo = some (s.hart.undo.getD s.regs) ∧
        t.regs = { s.regs with pc := s.regs.pc + 4, pend := t.regs.pend, first := t.regs.first } ∧
        t = { s with hart := { s.hart with regs := t.hart.regs, undo := t.hart.undo } }) ∧
    (Traps s → MayCommit s → s.regs.pfxValid = true →
      ∃ t, exec i s = .next t ∧ EntersTrap s.settle t { code := 0x01, tv := s.regs.pc } false 0 s.regs.pc)

/-! ### Vector members (R35 to R39, R144 to R149)

Each statement is of a member that no decode-time cause meets, whose sources are readable, whose formats its entry allows, and whose
convoy goes on or may end. -/

/-- VMV, VBCAST, VID, VIDR and VSEL (R159, R163), element by element; VXTRACT and VINSERT (R159) of one element of the whole
group. -/
def Obligations.VectorMoves : Prop :=
  ∀ (s : State) (k : Bool) (d a b : BitVec 5) (w e qa qb : Bool) (x y : Source), source s qa a = .ok x → source s qb b = .ok y →
    let p := pfxOf s.regs
    let g := groupFactor s.regs
    let rs := rowSize s
    let tag := destTag s d
    let n := (s.x b).toNat
    (∀ i, i = Instr.vmv k d a e qa → Allowed s i → GoesOn s i → QueuesReady s [(qa, a)] →
      Elementwise (exec i s) s i true e d [(qa, a)] x.fmt (fun j r => (elem s x j, 0, r.gen))) ∧
    (∀ i, i = Instr.vbcast k d a e → Allowed s i → GoesOn s i →
      Elementwise (exec i s) s i true e d [] tag (fun _ r => (elemBits s tag (s.x a), 0, r.gen))) ∧
    (tag = .bits ∨ tag.isInt = true ∨ tag.isFloat = true →
      let dst := if tag = .bits then Fmt.u32 else tag
      ∀ i ∈ [(Instr.vid k d e, fun j => j % rs), (.vidr k d e, fun j => j / rs)], Allowed s i.1 → GoesOn s i.1 →
        Elementwise (exec i.1 s) s i.1 true e d [] dst (fun j r => convert .i64 dst p.sat r (xword (i.2 j)))) ∧
    (x.fmt = .bits ∨ y.fmt = .bits ∨ x.fmt = y.fmt → ∀ i, i = Instr.vsel k d a b w e qa qb → Allowed s i → GoesOn s i →
      QueuesReady s [(qa, a), (qb, b)] →
      let f := if x.fmt = .bits then y.fmt else x.fmt
      Elementwise (exec i s) s i w e d [(qa, a), (qb, b)] f (fun j r =>
        (elemBits s f (if inSet (maskOf s 0) j then x.get j else y.get j), 0, r.gen))) ∧
    (∀ i, i = Instr.vxtract k d a b qa → Allowed s i → GoesOn s i → QueuesReady s [(qa, a)] →
      ∃ t, exec i s = .next t ∧ Consumed s t [(qa, a)] ∧
        AfterScalarMember s t d (if s.regs.vl = 0 then none else some (
          if n < capacity s then (if x.fmt.signed then sext (8 * x.fmt.bytes) (elem s x n) else elem s x n) else 0))) ∧
    (∀ i, i = Instr.vinsert k d a b → Allowed s i → GoesOn s i →
      ∃ t, exec i s = .next t ∧ AfterMember s t ∧ t.regs.queues = s.regs.queues ∧ t.regs.masks = s.regs.masks ∧
        t.regs.fflags = s.regs.fflags ∧ t.regs.gens = s.regs.gens ∧
        (∀ j : Fin 32, let inside := fun first => s.regs.vl ≠ 0 ∧ n < capacity s ∧ first ≤ j.val ∧ j.val < first + g
          let one := fun i => if i = n then some (s.x a) else none
          if inside d.toNat then RegTakes s t j d.toNat tag one
          else if p.dce = true ∧ inside p.dc.toNat then RegTakes s t j p.dc.toNat tag one
          else t.regs.vregs[j] = s.regs.vregs[j]))

/-- The integer operations (R160, R161, R164, R49, Table 7.5): on the integers of the operation format F, exact, narrowed to F
(saturating under SAT where the operation may), then converted to the destination's format. A quotient by zero is all ones, a
remainder by zero the dividend, and each raises DZ.
The bitwise operations (R160): on the bits of the operation format, to which each source is sign- or zero-extended; a source
of tag 0 is read in the other's format, and two of tag 0 give tag 0 on w raw bytes. That VSRA of an unsigned format is an
exact shift with the floor, that a quotient by zero is all ones of the destination's width, and the raw bytes of tag 0 are log
entry 32. -/
def Obligations.VectorIntegers : Prop :=
  (∀ (s : State) (k : Bool) (d a b : BitVec 5) (w e qa qb : Bool) (x y : Source) (f dst : Fmt),
      source s qa a = .ok x → source s qb b = .ok y → destFormat s w d f = .ok dst → f.isInt = true →
      let sat := (pfxOf s.regs).sat
      let n := 8 * f.bytes
      let u := fun j => x.fmt.int (x.get j)
      let v := fun j => y.fmt.int (y.get j)
      let by_ := fun (z : Int) => (2 : Int) ^ (z % n).toNat
      let out := fun (acts : Bool) (z : Int) (r : Rnd) =>
        let c := narrowInt f (sat && acts) z
        toDest f dst sat (c.1, c.2, r.gen) r.mode
      let two := [(qa, a), (qb, b)]
      (opFormat [x.fmt, y.fmt] = some f →
        (∀ i ∈ [(Instr.vadd k d a b w e qa qb, true, fun (p q : Int) => p + q), (.vsub k d a b w e qa qb, true, fun p q => p - q),
            (.vmul k d a b w e qa qb, true, fun p q => p * q), (.vmulh k d a b w e qa qb, false, fun p q => p * q / 2 ^ n),
            (.vmin k d a b w e qa qb, false, fun p q => min p q), (.vmax k d a b w e qa qb, false, fun p q => max p q),
            (.vsll k d a b w e qa qb, true, fun p q => p * by_ q), (.vsrl k d a b w e qa qb, false, fun p q => p % 2 ^ n / by_ q),
            (.vsra k d a b w e qa qb, false, fun p q => p / by_ q)],
          Allowed s i.1 → GoesOn s i.1 → QueuesReady s two →
            Elementwise (exec i.1 s) s i.1 w e d two dst (fun j r => out i.2.1 (i.2.2 (u j) (v j)) r)) ∧
        (∀ i, i = Instr.vdiv k d a b w e qa qb → Allowed s i → GoesOn s i → QueuesReady s two →
          Elementwise (exec i s) s i w e d two dst (fun j r =>
            if v j = 0 then (lowBits dst.bytes (BitVec.allOnes 64), Flags.dz, r.gen) else out true ((u j).tdiv (v j)) r)) ∧
        (∀ i, i = Instr.vrem k d a b w e qa qb → Allowed s i → GoesOn s i → QueuesReady s two →
          Elementwise (exec i s) s i w e d two dst (fun j r =>
            let c := out false (if v j = 0 then u j else (u j).tmod (v j)) r
            (c.1, if v j = 0 then c.2.1 ||| Flags.dz else c.2.1, c.2.2)))) ∧
      (x.fmt = f → ∀ i, i = Instr.vabs k d a w e qa → Allowed s i → GoesOn s i → QueuesReady s [(qa, a)] →
        Elementwise (exec i s) s i w e d [(qa, a)] dst (fun j r => out true |u j| r))) ∧
  (∀ (s : State) (k : Bool) (d a b : BitVec 5) (w e qa qb : Bool) (x y : Source), source s qa a = .ok x → source s qb b = .ok y →
      let sat := (pfxOf s.regs).sat
      let two := [(qa, a), (qb, b)]
      ∀ i ∈ [(Instr.vand k d a b w e qa qb, fun (p q : XWord) => p &&& q), (.vor k d a b w e qa qb, fun p q => p ||| q),
          (.vxor k d a b w e qa qb, fun p q => p ^^^ q)],
        Allowed s i.1 → GoesOn s i.1 → QueuesReady s two →
          (x.fmt = .bits → y.fmt = .bits →
            Elementwise (exec i.1 s) s i.1 w e d two .bits (fun j r => (i.2 (elem s x j) (elem s y j), 0, r.gen))) ∧
          (∀ f dst, f.isInt = true → destFormat s w d f = .ok dst →
            opFormat ([x.fmt, y.fmt].filter (· ≠ .bits)) = some f → ¬(x.fmt = .bits ∧ y.fmt = .bits) →
            let int := fun (c : Source) j => if c.fmt = .bits then f.int (c.get j) else c.fmt.int (c.get j)
            let bits := fun (z : Int) => BitVec.ofNat 64 (z % 2 ^ (8 * f.bytes)).toNat
            Elementwise (exec i.1 s) s i.1 w e d two dst (fun j r =>
              toDest f dst sat (i.2 (bits (int x j)) (bits (int y j)), 0, r.gen) r.mode)))

/-- The compares (R162, R168): mask register d takes a bit for each active element of which the relation holds, on exact
values. The mask instructions (R190, R191): logic of mask registers on the active indices; the count of the active set bits
and the lowest of them, or all ones, to x[rd]; and the first set column of each row, or VL. That the column wraps in the
destination's width is log entry 16. -/
def Obligations.VectorMasks : Prop :=
  (∀ (s : State) (k : Bool) (d a b : BitVec 5) (e qa qb : Bool) (x y : Source) (f : Fmt),
      source s qa a = .ok x → source s qb b = .ok y → opFormat [x.fmt, y.fmt] = some f →
      let two := [(qa, a), (qb, b)]
      let u := fun j => x.fmt.int (x.get j)
      let v := fun j => y.fmt.int (y.get j)
      let c := fun j => x.fmt.val (x.get j)
      let z := fun j => y.fmt.val (y.get j)
      (f.isInt = true → ∀ i ∈ [(Instr.vcmpeq k d a b e qa qb, fun j => u j = v j), (.vcmplt k d a b e qa qb, fun j => u j < v j),
          (.vcmple k d a b e qa qb, fun j => u j ≤ v j)],
        Allowed s i.1 → GoesOn s i.1 → QueuesReady s two → SetsMask (exec i.1 s) s e d two i.2) ∧
      (f.isFloat = true → ∀ i ∈ [(Instr.vfcmpeq k d a b e qa qb, fun j => (c j).eq (z j) = true),
          (.vfcmplt k d a b e qa qb, fun j => (c j).lt (z j) = true), (.vfcmple k d a b e qa qb, fun j => (c j).le (z j) = true)],
        Allowed s i.1 → GoesOn s i.1 → QueuesReady s two → SetsMask (exec i.1 s) s e d two i.2)) ∧
  (∀ (s : State) (k : Bool) (d a b : BitVec 5),
      let p := pfxOf s.regs
      let on := fun m j => inSet (maskOf s m) j = true
      let set := (activeIndices s p).filter (inSet (maskOf s a))
      let rs := rowSize s
      let tag := destTag s d
      (∀ i ∈ [(Instr.vmand k d a b, fun j => on a j ∧ on b j), (.vmor k d a b, fun j => on a j ∨ on b j),
          (.vmxor k d a b, fun j => ¬(on a j ↔ on b j)), (.vmnot k d a, fun j => ¬on a j),
          (.vmset k d a, fun j => j % rs < (s.x a).toNat)],
        Allowed s i.1 → GoesOn s i.1 → SetsMask (exec i.1 s) s false d [] i.2) ∧
      (∀ i ∈ [(Instr.vmpop k d a, xword set.length),
          (.vmffsr k d a, match set with | [] => BitVec.allOnes 64 | j :: _ => xword j)],
        Allowed s i.1 → GoesOn s i.1 →
          ∃ t, exec i.1 s = .next t ∧ t.regs.queues = s.regs.queues ∧
            AfterScalarMember s t d (if s.regs.vl = 0 then none else some i.2)) ∧
      (tag = .bits ∨ (tag.isInt = true ∧ 2 ≤ tag.bytes) → ∀ i, i = Instr.vmffs k d a → Allowed s i → GoesOn s i →
        let f := if tag = .bits then Fmt.u32 else tag
        let first := fun r => ((span 0 s.regs.vl).find? (fun c => predicate s p (r * rs + c) && inSet (maskOf s a) (r * rs + c))).getD
          s.regs.vl
        ∃ t, exec i s = .next t ∧ AfterMember s t ∧ Consumed s t [] ∧
          InOrder s t k true false d f (fun j => !(inShape s j && j % rs == 0)) (span 0 s.regs.vr) (· * rs)
            (fun r c => (wrapBits (8 * f.bytes) (first r), 0, c.gen))))

/-- The floating-point operations (R165 to R169, Table 7.6): each exact result is rounded once to the operation format, with
the flags, then converted to the destination; minimum, maximum and class round nothing. VFMA's addend is the destination's
element before the write. How VFEXP2 and VFLOG2 are rounded is log entry 36. -/
def Obligations.VectorFloats : Prop :=
  ∀ (s : State) (k : Bool) (d a b : BitVec 5) (w e qa qb : Bool) (x y : Source) (f : Fmt),
    source s qa a = .ok x → source s qb b = .ok y → f.isFloat = true →
    let u := fun j => x.fmt.val (x.get j)
    let v := fun j => y.fmt.val (y.get j)
    let out := fun (dst : Fmt) (z : Val × Flags) (r : Rnd) =>
      let o := roundTo f.fp r z.1
      toDest f dst false (xword o.bits, z.2 ||| o.flags, o.gen) r.mode
    let two := [(qa, a), (qb, b)]
    (∀ dst, destFormat s w d f = .ok dst → opFormat [x.fmt, y.fmt] = some f →
      (∀ i ∈ [(Instr.vfadd k d a b w e qa qb, fun (m : Bool) (p q : Val) => p.add m q), (.vfsub k d a b w e qa qb, fun m p q => p.add m q.neg),
          (.vfmul k d a b w e qa qb, fun _ p q => p.mul q), (.vfdiv k d a b w e qa qb, fun _ p q => p.div q)],
        Allowed s i.1 → GoesOn s i.1 → QueuesReady s two →
          Elementwise (exec i.1 s) s i.1 w e d two dst (fun j r => out dst (i.2 r.down (u j) (v j)) r)) ∧
      (∀ i ∈ [(Instr.vfmin k d a b w e qa qb, fun (p q : Val) => p.minNum q), (.vfmax k d a b w e qa qb, fun p q => p.maxNum q)],
        Allowed s i.1 → GoesOn s i.1 → QueuesReady s two →
          Elementwise (exec i.1 s) s i.1 w e d two dst (fun j r =>
            toDest f dst false (xword (roundCore f.fp Rnd.rne (i.2 (u j) (v j))).1, 0, r.gen) r.mode))) ∧
    (∀ dst, destFormat s w d f = .ok dst → x.fmt = f → ∀ i ∈ [(Instr.vfsqrt k d a w e qa, fun (p : Val) => p.sqrt), (.vfrcp k d a w e qa, fun p => Val.div (.fin false 1 0) p),
        (.vfexp2 k d a w e qa, fun p => p.exp2), (.vflog2 k d a w e qa, fun p => p.log2)],
      Allowed s i.1 → GoesOn s i.1 → QueuesReady s [(qa, a)] →
        Elementwise (exec i.1 s) s i.1 w e d [(qa, a)] dst (fun j r => out dst (i.2 (u j)) r)) ∧
    (∀ dst, destFormat s true d f = .ok dst → ∀ c, groupSource s d.toNat (groupFactor s.regs) = .ok c → opFormat [x.fmt, y.fmt, c.fmt] = some f →
      ∀ i, i = Instr.vfma k d a b e qa qb → Allowed s i → GoesOn s i → QueuesReady s two →
        Elementwise (exec i s) s i true e d two dst (fun j r => out dst (Val.fma r.down (u j) (v j) (c.fmt.val (c.get j))) r)) ∧
    (x.fmt = f → ∀ i, i = Instr.vfclass k d a w e qa → Allowed s i → GoesOn s i → QueuesReady s [(qa, a)] →
      let tag := if w then destTag s d else .bits
      tag = .bits ∨ (tag.isInt = true ∧ 2 ≤ tag.bytes) →
        Elementwise (exec i s) s i w e d [(qa, a)] (if tag = .bits then .u16 else tag) (fun j r =>
          (xword (f.fp.classOf ((x.get j).toNat % 2 ^ f.fp.bits)), 0, r.gen)))

/-- The exact pairs (R170, R171), the double-word operations (R172, R173) and VWMAC (R164): head and error, or low and high
half, of each result in a group of 2·G registers. The pairs raise what their steps raise; VWMAC adds exactly to the 2n-bit
accumulator, clamps under SAT, and leaves it in the two halves. -/
def Obligations.VectorPairs : Prop :=
  ∀ (s : State) (k : Bool) (d a b : BitVec 5) (e qa qb : Bool) (f : Fmt),
    let p := pfxOf s.regs
    let g := groupFactor s.regs
    let two := [(qa, a), (qb, b)]
    let out := fun (q : Pair) => (xword q.h, xword q.l, q.flags)
    let tail := fun n => !inShape s n
    let pairs := (destTag s d = .bits ∨ destTag s d = f) ∧ (curTile (vreg s.regs (d.toNat + g))).tag = destTag s d
    let both := fun (x : Source) n => ((lowBits f.bytes (x.get n)).toNat, (lowBits f.bytes (x.get (capacity s + n))).toNat)
    (∀ x y, source s qa a = .ok x → source s qb b = .ok y → opFormat [x.fmt, y.fmt] = some f → f.isFloat = true → pairs →
      let enc := fun (c : Source) n => (roundCore f.fp Rnd.rne (c.fmt.val (c.get n))).1
      ∀ i ∈ [(Instr.vfaddX k d a b e qa qb, fun u v => twoSum f.fp u v),
          (.vfsubX k d a b e qa qb, fun u v => twoSum f.fp u (v ^^^ 2 ^ (f.fp.bits - 1))),
          (.vfmulX k d a b e qa qb, fun u v => twoProd f.fp u v)],
        Allowed s i.1 → GoesOn s i.1 → QueuesReady s two →
          EachTwo (exec i.1 s) s false e d two f f tail (activeIndices s p) (fun n => out (i.2 (enc x n) (enc y n)))) ∧
    (∀ x, groupSource s a.toNat (2 * g) = .ok x → x.fmt = f → f.isFloat = true → pairs →
      (∀ y, groupSource s b.toNat (2 * g) = .ok y → y.fmt = f →
        ∀ i ∈ [(Instr.vdwadd k d a b e, fun (u v : Nat × Nat) => dwAdd f.fp u.1 u.2 v.1 v.2),
            (.vdwmul k d a b e, fun u v => dwMul f.fp u.1 u.2 v.1 v.2)],
          Allowed s i.1 → GoesOn s i.1 →
            EachTwo (exec i.1 s) s false e d [] f f tail (activeIndices s p) (fun n => out (i.2 (both x n) (both y n)))) ∧
      (∀ i, i = Instr.vdwnorm k d a e → Allowed s i → GoesOn s i →
        EachTwo (exec i s) s false e d [] f f tail (activeIndices s p) (fun n => out (dwNorm f.fp (both x n).1 (both x n).2))) ∧
      (∀ i, i = Instr.vredsumX k d a e → Allowed s i → GoesOn s i →
        let rs := rowSize s
        let add := fun (fl : Flags) (u v : Nat × Nat) =>
          ((((dwAdd f.fp u.1 u.2 v.1 v.2).h, (dwAdd f.fp u.1 u.2 v.1 v.2).l) : Nat × Nat), fl ||| (dwAdd f.fp u.1 u.2 v.1 v.2).flags)
        EachTwo (exec i s) s false e d [] f f (fun n => !(inShape s n && n % rs == 0)) ((span 0 s.regs.vr).map (· * rs)) (fun n =>
          let q := treeOver add (0, 0) 0 ((span n s.regs.vl).map (fun j =>
            if predicate s p j then (f.fp.canon (both x j).1, f.fp.canon (both x j).2) else (0, 0)))
          (xword q.1.1, xword q.1.2, q.2)))) ∧
    (∀ x y, source s qa a = .ok x → source s qb b = .ok y → opFormat [x.fmt, y.fmt] = some f → f.isInt = true → f.bytes ≠ 8 →
      ∀ i, i = Instr.vwmac k d a b e qa qb → Allowed s i → GoesOn s i → QueuesReady s two →
        let n := 8 * f.bytes
        let half := fun first j => (lowBits f.bytes
          (((curTile (vreg s.regs (first + j / s.hart.vlmax))).elems).getD (j % s.hart.vlmax) 0)).toNat
        let lo := if f.signed then -2 ^ (2 * n - 1) else 0
        let hi := if f.signed then 2 ^ (2 * n - 1) - 1 else 2 ^ (2 * n) - 1
        EachTwo (exec i s) s true e d two (intFmt false f.bytes) (intFmt f.signed f.bytes) tail (activeIndices s p) (fun j =>
          let raw := half (d.toNat + g) j * 2 ^ n + half d.toNat j
          let acc : Int := if f.signed = true ∧ 2 ^ (2 * n - 1) ≤ raw then (raw : Int) - 2 ^ (2 * n) else raw
          let z := acc + x.fmt.int (x.get j) * y.fmt.int (y.get j)
          let c := if p.sat then max lo (min hi z) else z
          let m := (c % 2 ^ (2 * n)).toNat
          (xword (m % 2 ^ n), xword (m / 2 ^ n), if c = z then 0 else Flags.sa)))

/-- VCVT (R174) converts each element to the destination's format; VSCALE (R175) gives the scale of each block of 32 along a
row; VQUANT (R176) and VDEQ (R177) divide and multiply by the block's scale, with one rounding. Which conversions step the
generator is log entry 34. -/
def Obligations.VectorConversions : Prop :=
  ∀ (s : State) (k : Bool) (d a b c : BitVec 5) (e qa qb : Bool) (x : Source), source s qa a = .ok x →
    let p := pfxOf s.regs
    let rs := rowSize s
    let dst := destTag s d
    let v := fun j => x.fmt.val (x.get j)
    let ones := fun (f : Fmt) (r : Rnd) => if f = .i8 then ((0 : XWord), Flags.nv, r.gen) else
      (xword (if f = .t8 then 0x7F else if f = .t6 then 0x1F else f.fp.nan), 0, r.gen)
    let times := fun (z : Val) (n : Int) => match z with | .fin sg m q => Val.fin sg m (q + n) | z => z
    (∀ i, i = Instr.vcvt k d a e qa → x.fmt ≠ .bits → dst ≠ .bits → Allowed s i → GoesOn s i → QueuesReady s [(qa, a)] →
      Elementwise (exec i s) s i true e d [(qa, a)] dst (fun j r => convert x.fmt dst p.sat r (elem s x j))) ∧
    (∀ t ∈ [(1, (6 : Int)), (8, 15), (11, 10), (12, 3)], c.toNat = t.1 → x.fmt.isFloat = true → dst = .bits ∨ dst = .e8 →
      ∀ i, i = Instr.vscale k d a c e qa → Allowed s i → GoesOn s i → QueuesReady s [(qa, a)] →
      let blocks := (s.regs.vl + 31) / 32
      let live := fun (n : Nat × Nat) => ((span (n.1 * rs + 32 * n.2) (min 32 (s.regs.vl - 32 * n.2))).filter (predicate s p)).map v
      let tops := fun (l : List Val) => l.filterMap (fun z => match z with
        | .fin _ m q => if m = 0 then none else some ((Nat.log2 m : Int) + q)
        | _ => none)
      let scale := fun (l : List Val) => if l.any (fun z => !z.isFinite) then (0xFF, (0 : Flags)) else match tops l with
        | [] => (127, 0)
        | z :: zs =>
          let n := zs.foldl max z - t.2
          if 127 < n then (254, Flags.of) else if n < -127 then (0, Flags.uf) else ((n + 127).toNat, 0)
      ∃ u, exec i s = .next u ∧ AfterMember s u ∧ Consumed s u [(qa, a)] ∧
        (let here := fun i => inShape s i = true ∧ i % rs < blocks
         let code := fun i => scale (live (i / rs, i % rs))
         Delivered s u k true e d .e8 (fun i => !(inShape s i && decide (i % rs < blocks)))
          (fun i => if inShape s i && decide (i % rs < blocks) then some (xword (code i).1) else none)
          (fun b => ∃ i, here i ∧ (code i).2.getLsbD b = true)
          (fun i => here i ∧ predicate s p i = true ∧ excepts p.ek (code i).2 = true) (gen s.regs.gens))) ∧
    (∀ y, source s qb b = .ok y → y.fmt = .e8 → ∀ f ∈ [Fmt.i8, .f16, .bf16, .t8, .t6],
      let code := fun j => (lowBits 1 (y.get (j / rs * rs + j % rs / 32))).toNat
      (x.fmt.isFloat = true → dst = f → ∀ i, i = Instr.vquant k d a b e qa qb → Allowed s i → GoesOn s i →
        QueuesReady s [(qa, a), (qb, b)] →
        Elementwise (exec i s) s i true e d [(qa, a), (qb, b)] dst (fun j r =>
          if code j = 0xFF then ones dst r else roundInto dst (times (v j) (127 - (code j : Int))) r)) ∧
      (x.fmt = f → dst.isFloat = true → ∀ i, i = Instr.vdeq k d a b e qa qb → Allowed s i → GoesOn s i →
        QueuesReady s [(qa, a), (qb, b)] →
        Elementwise (exec i s) s i true e d [(qa, a), (qb, b)] dst (fun j r =>
          if code j = 0xFF then ones dst r else roundInto dst (times (asVal x j) ((code j : Int) - 127)) r)))

/-- Vector loads (Table 8.2, R178 to R185): each active element, in increasing sequence index, takes the bytes at its
position, or the code of its slot in a packed T6 unit, in both spaces and orientations, into the destination group, whose
registers keep their tags, or into a tile that joins the queue's end. VL = 0 reads and pushes nothing. That a group whose
registers carry differing tags converts by the first and keeps each register's own is log entry 32, and T6 units log entry 33. -/
def Obligations.VectorLoads : Prop :=
  ∀ (s u : State) (k : Bool) (d a b : BitVec 5) (sp o q : Bool) (ix : Nat → Int) (bytes : Place → List Byte),
    let p := pfxOf s.regs
    let n := groupFactor s.regs
    let tag := if q then s.regs.qtags.toList.getD d.toNat .bits else destTag s d
    let w := fmtWidth s tag
    let six := tag = .t6
    let pieces := fun (e : Place) => if six then (span 0 3).map (fun j => { e with addr := e.addr + (j : Nat) }) else [e]
    let value := fun (e : Place) => if six then xword (bitsAt (leNat ((pieces e).flatMap bytes)) (6 * e.slot) 6)
      else xword (leNat (bytes e))
    ∀ i ∈ [(Instr.vld k d a sp o q, VForm.unit), (.vlds k d a b sp o q, .strided), (.vldx k d a b sp o q, .indexed),
        (.vldb k d a b sp o q, .block)],
      let place := fun j => placeOf s i.2 o (tag == .t6) (s.x a).toNat (s.x b).toInt w (ix j) j
      let val := fun j => if j ∈ activeIndices s p then some (value (place j)) else none
      (i.2 = .indexed → ∃ x, groupSource s b.toNat n = .ok x ∧ x.fmt ∈ [Fmt.i16, .u16, .i32, .u32, .i64] ∧
        ix = fun j => x.fmt.int (x.get j)) →
      (i.2 = .strided ∨ i.2 = .indexed → ¬six ∧ (o = true → tag ≠ .t8 ∧ tag ≠ .e8)) → (o = true → ¬six) →
      (q = true → d.toNat < 4 ∧ (s.regs.queues.toList.getD d.toNat []).length < 4) → Allowed s i.1 → GoesOn s i.1 →
      ReadInTurn sp (if six then 1 else w) bytes s (((activeIndices s p).map place).flatMap pieces) u →
      ∃ t, exec i.1 s = .next t ∧ AfterAccess s t ∧ t.regs.storeBuf = s.regs.storeBuf ∧
        (∀ j : Fin 4, if q = true ∧ s.regs.vl ≠ 0 ∧ j.val = d.toNat then
          ∃ z, t.regs.queues[j] = s.regs.queues[j] ++ [z] ∧ z.tag = tag ∧
            ∀ m, m < capacity s → z.elems.getD m 0 = (val m).getD 0
          else t.regs.queues[j] = s.regs.queues[j]) ∧
        (∀ j : Fin 32, if q = false ∧ s.regs.vl ≠ 0 ∧ d.toNat ≤ j.val ∧ j.val < d.toNat + n then
          ∃ c, RegTakes s c j d.toNat tag (tailed s (fun m => !inShape s m) val) ∧
            t.regs.vregs[j] = ⟨c.regs.vregs[j].com, c.regs.vregs[j].twin.map (fun z => ⟨(curTile s.regs.vregs[j]).tag, z.elems⟩)⟩
          else t.regs.vregs[j] = s.regs.vregs[j]) ∧
        (k = true → ∃ z, t.regs.cv = some z ∧ z.tag = tag ∧
          ∀ m, m < capacity s → z.elems.getD m 0 = if s.regs.vl = 0 then 0 else (val m).getD 0)

/-- Vector stores (R178 to R184): the active elements in increasing sequence index, each at its position, wait in the strip
store buffer once every check has passed; a packed unit of T6 stores the codes of its active elements and zeros for the rest,
as three writes of one byte, which is the model's choice (log entry 33). No register changes, and memory itself is as before.
VCOMMITM (R338): for each active row with a positive length, the hart reads the buffer's address and length, stores the row's
first tokens, no more than VL, at the buffer's end, and stores the new length; the accesses come row by row in that order, and
the stores wait in the strip store buffer. -/
def Obligations.VectorStores : Prop :=
  (∀ (s u : State) (k : Bool) (d a b : BitVec 5) (sp o : Bool) (ix : Nat → Int) (x : Source) (out : List StoreRec),
      groupSource s d.toNat (groupFactor s.regs) = .ok x →
      let w := fmtWidth s x.fmt
      let six := x.fmt = .t6
      ∀ i ∈ [(Instr.vst k d a sp o, VForm.unit), (.vsts k d a b sp o, .strided), (.vstx k d a b sp o, .indexed)],
        let places := (activeIndices s (pfxOf s.regs)).map (fun j =>
          placeOf s i.2 o (x.fmt == .t6) (s.x a).toNat (s.x b).toInt w (ix j) j)
        let items := if six then (packUnits x.get places).flatMap (fun c =>
            (span 0 3).map (fun j => (({ c.1 with addr := c.1.addr + (j : Nat) } : Place), [BitVec.ofNat 8 (c.2 / 256 ^ j)])))
          else places.map (fun e => (e, leBytes w (x.get e.i).toNat))
        (i.2 = .indexed → ∃ y, groupSource s b.toNat (groupFactor s.regs) = .ok y ∧ y.fmt ∈ [Fmt.i16, .u16, .i32, .u32, .i64] ∧
          ix = fun j => y.fmt.int (y.get j)) →
        (i.2 ≠ .unit → ¬six ∧ (o = true → x.fmt ≠ .t8 ∧ x.fmt ≠ .e8)) → (o = true → ¬six) →
        StoredInTurn sp s items out u → Allowed s i.1 → k = true ∨ InStrip u →
        ∃ t, exec i.1 s = .next t ∧ AfterAccess s t ∧ t.regs.storeBuf = s.regs.storeBuf ++ out ∧
          t.regs.vregs = s.regs.vregs ∧ t.regs.queues = s.regs.queues) ∧
  (∀ (s u : State) (k : Bool) (d a b : BitVec 5) (q : Bool) (x y : Source) (c : State) (out : List StoreRec),
      source s q a = .ok x → groupSource s b.toNat (groupFactor s.regs) = .ok y → x.fmt ∈ [Fmt.i16, .u16, .i32, .u32] →
      y.fmt.isInt = true → QueuesReady s [(q, a)] → consume s [(q, a)] = .ok c →
      let rs := rowSize s
      let w := x.fmt.bytes
      let count := fun r => min (y.fmt.int (y.get (r * rs))).toNat s.regs.vl
      let rows := if s.regs.vl = 0 then [] else
        (span 0 s.regs.vr).filter (fun r => predicate s (pfxOf s.regs) (r * rs) && decide (0 < count r))
      let place := fun r n va => ({ i := 0, k := r * s.regs.vl + n, addr := va, col := none, slot := 0 } : Place)
      let one := fun (c v : State) r (out : List StoreRec) => ∃ (buf len : XWord) (c1 c2 : State),
        let e := s.x d + xword (16 * r)
        ReadInTurn false 8 (fun _ => leBytes 8 buf.toNat) c [place r 0 e.toNat] c1 ∧
        ReadInTurn false 8 (fun _ => leBytes 8 len.toNat) c1 [place r 0 (e + 8).toNat] c2 ∧
        StoredInTurn false c2 ((span 0 (count r)).map (fun n =>
          (place r n (buf + (len + xword n) * xword w).toNat, leBytes w (x.get (r * rs + n)).toNat)) ++
            [(place r 0 (e + 8).toNat, leBytes 8 (len + xword (count r)).toNat)]) out v
      (∃ (states : List State) (outs : List (List StoreRec)), states.length = rows.length + 1 ∧ outs.length = rows.length ∧
        states.head? = some c ∧ states.getLast? = some u ∧ out = outs.flatten ∧
        ∀ n, n < rows.length → ∃ v v', states[n]? = some v ∧ states[n + 1]? = some v' ∧ one v v' (rows.getD n 0) (outs.getD n [])) →
      ∀ i, i = Instr.vcommitm k d a b q → Allowed s i → k = true ∨ InStrip u →
        ∃ t, exec i s = .next t ∧ AfterAccess s t ∧ Consumed s t [(q, a)] ∧ t.regs.storeBuf = s.regs.storeBuf ++ out ∧
          t.regs.vregs = s.regs.vregs)

/-! ### Permutes, reductions and scans (R187 to R189, R192 to R195) -/

/-- The permutes (R187, R188, R189, Table 8.4): VGATHER takes the elements that its indices name, with NV and 0 for one
outside the capacity; the slides and VREV move along each row; VCOMPRESS packs the selected columns of a row and VEXPAND
spreads over them. The destination takes the source's tag, and no permute but VGATHER raises a flag. -/
def Obligations.Permutes : Prop :=
  ∀ (s : State) (k : Bool) (d a b : BitVec 5) (w e q : Bool) (x : Source),
    let rs := rowSize s
    let act := activeIndices s (pfxOf s.regs)
    let n := (s.x b).toNat
    let m := maskOf s b
    let chosen := fun r => (span 0 s.regs.vl).filter (fun c => inSet m (r * rs + c))
    let count := fun j => (chosen (j / rs)).length
    let out := fun j => !inShape s j
    (source s false a = .ok x → ∀ y, source s q b = .ok y → y.fmt.isInt = true → ∀ i, i = Instr.vgather k d a b e q → Allowed s i →
      GoesOn s i → QueuesReady s [(q, b)] →
      Elementwise (exec i s) s i true e d [(q, b)] x.fmt (fun j r =>
        let z := y.fmt.int (y.get j)
        if 0 ≤ z ∧ z < capacity s then (elem s x z.toNat, 0, r.gen) else (0, Flags.nv, r.gen))) ∧
    (source s q a = .ok x →
      ∀ i ∈ [(Instr.vslideup k d a b w e q, w, act.filter (fun j => decide (n ≤ j % rs)), fun j => elem s x (j - n), out),
          (.vslidedn k d a b w e q, w, act, fun j => if j % rs + n < rs then elem s x (j + n) else 0, out),
          (.vrev k d a w e q, w, act, fun j => elem s x (j / rs * rs + (s.regs.vl - 1 - j % rs)), out),
          (.vcompress k d a b e q, true, (shapeIndices s).filter (fun j => decide (j % rs < count j)),
            fun j => elem s x (j / rs * rs + (chosen (j / rs)).getD (j % rs) 0),
            fun j => !(inShape s j && decide (j % rs < count j)))],
        Allowed s i.1 → GoesOn s i.1 → QueuesReady s [(q, a)] →
          ∃ t, exec i.1 s = .next t ∧ AfterMember s t ∧ Consumed s t [(q, a)] ∧
            InOrder s t k i.2.1 e d x.fmt i.2.2.2.2 i.2.2.1 id (fun j r => (i.2.2.2.1 j, 0, r.gen))) ∧
    (source s q a = .ok x → ∀ i, i = Instr.vexpand k d a b e q → Allowed s i → GoesOn s i → QueuesReady s [(q, a)] →
      let pairs := (span 0 s.regs.vr).flatMap (fun r => ((chosen r).zipIdx).map (fun c => (r * rs + c.1, r * rs + c.2)))
      ∃ t, exec i s = .next t ∧ AfterMember s t ∧ Consumed s t [(q, a)] ∧
        InOrder s t k true e d x.fmt out pairs (·.1) (fun c r => (elem s x c.2, 0, r.gen)))

/-- The reductions (R69, R192, R193, Table 8.6): column 0 of each row takes the balanced tree, over the row, of the elements,
those masked off as the identity; integers exact and narrowed once, floats rounded at each step, and bitwise ones on the bits.
The rest of the row is tail. That a bitwise reduction of a source of tag 0 gives tag 0 is log entry 32. -/
def Obligations.Reductions : Prop :=
  ∀ (s : State) (k : Bool) (d a : BitVec 5) (e q : Bool) (x : Source) (dst : Fmt),
    source s q a = .ok x → (if x.fmt = .bits then dst = .bits else destFormat s true d x.fmt = .ok dst) →
    let p := pfxOf s.regs
    let rs := rowSize s
    let f := x.fmt
    let row := fun {α : Type} (zero : α) (get : Nat → α) r =>
      (span (r * rs) s.regs.vl).map (fun j => if predicate s p j then get j else zero)
    let answers := fun (i : Instr) (out : Fmt) (value : Nat → Rnd → Step1) => Allowed s i → GoesOn s i → QueuesReady s [(q, a)] →
      ∃ t, exec i s = .next t ∧ AfterMember s t ∧ Consumed s t [(q, a)] ∧
        InOrder s t k true e d out (fun j => !(inShape s j && j % rs == 0)) (span 0 s.regs.vr) (· * rs) value
    (f.isInt = true → ∀ i ∈ [(Instr.vredsum k d a e q, (0 : Int), fun (u v : Int) => u + v),
        (.vredmax k d a e q, intLo f.signed (8 * f.bytes), fun u v => max u v),
        (.vredmin k d a e q, intHi f.signed (8 * f.bytes), fun u v => min u v)],
      answers i.1 dst (fun r c =>
        let z := (row i.2.1 (fun j => f.int (x.get j)) r).foldl i.2.2 i.2.1
        let y := narrowInt f p.sat z
        toDest f dst p.sat (y.1, y.2, c.gen) c.mode)) ∧
    (f.isFloat = true →
      let step := fun (op : Rnd → Val → Val → Val × Flags) (st : Flags × Rnd) (u v : Nat) =>
        let z := op st.2 (f.fp.val u) (f.fp.val v)
        let o := roundTo f.fp st.2 z.1
        (o.bits, (st.1 ||| z.2 ||| o.flags, ({ st.2 with gen := o.gen } : Rnd)))
      let pick := fun (op : Val → Val → Val) (st : Flags × Rnd) (u v : Nat) =>
        ((roundCore f.fp Rnd.rne (op (f.fp.val u) (f.fp.val v))).1, st)
      ∀ i ∈ [(Instr.vredsum k d a e q, 0, step (fun r u v => u.add r.down v)),
          (.vredmax k d a e q, f.fp.top + f.fp.sign true, pick Val.maxNum), (.vredmin k d a e q, f.fp.top, pick Val.minNum)],
        answers i.1 dst (fun r c =>
          let t := treeOver i.2.2 i.2.1 (0, c) (row i.2.1 (fun j => f.fp.canon ((x.get j).toNat % 2 ^ f.fp.bits)) r)
          toDest f dst false (xword t.1, t.2.1, t.2.2.gen) t.2.2.mode)) ∧
    (f.isInt = true ∨ f = .bits →
      let n := 8 * fmtWidth s f
      ∀ i ∈ [(Instr.vredand k d a e q, 2 ^ n - 1, fun (u v : Nat) => u &&& v), (.vredor k d a e q, 0, fun u v => u ||| v)],
        answers i.1 dst (fun r c =>
          toDest f dst p.sat (xword ((row i.2.1 (fun j => (x.get j).toNat % 2 ^ n) r).foldl i.2.2 i.2.1), 0, c.gen) c.mode))

/-- The scans and segmented reductions (R20, R194, R195): a scan gives each active element the combination of the row's active
elements up to it, from the carry x[rb], or the identity for x0, rounding with each element's generator; a segmented reduction
gives each active element of a segment the tree over the segment, which steps its first index's generator. `c` is the
combining function of Table 8.6 with its identity (R192): sums and maxima, exact over integers and rounded at each step over
floats, and the bitwise AND. -/
def Obligations.Scans : Prop :=
  ∀ (s : State) (k : Bool) (d a b : BitVec 5) (e q : Bool) (x : Source) (kind : Red) (c : Combine),
    let p := pfxOf s.regs
    let rs := rowSize s
    let ans := fun (i : Instr) (o : Outs) => Allowed s i → GoesOn s i → QueuesReady s [(q, a)] →
      ∃ t, exec i s = .next t ∧ AfterMember s t ∧ Consumed s t [(q, a)] ∧
        Delivered s t k true e d c.fmt (fun j => !inShape s j) (fun j => o.new.getD j none) (fun f => o.flags.getLsbD f = true)
          (fun j => inSet o.exc j = true) (fun l => gen o.gens l)
    let f := x.fmt
    let n := 8 * fmtWidth s f
    source s q a = .ok x → combineOf s kind d p x = .ok c →
    (kind = .sum ∨ kind = .max → f.isInt = true →
      c.zero = (if kind = .sum then 0 else intLo f.signed (8 * f.bytes)) ∧ (∀ i, c.get i = f.int (x.get i)) ∧
        (∀ w, c.read w = f.int w) ∧ (∀ st u v, c.op st u v = (if kind = .sum then u + v else max u v, st)) ∧
        ∀ st u, c.out st u =
          toDest f c.fmt p.sat ((narrowInt f p.sat u).1, st.1 ||| (narrowInt f p.sat u).2, st.2.gen) st.2.mode) ∧
    (kind = .sum ∨ kind = .max → f.isFloat = true →
      c.zero = ((if kind = .sum then 0 else f.fp.top + f.fp.sign true : Nat) : Int) ∧
        (∀ i, c.get i = (f.fp.canon ((x.get i).toNat % 2 ^ f.fp.bits) : Nat)) ∧
        (∀ w, c.read w = (w.toNat % 2 ^ f.fp.bits : Nat)) ∧
        (∀ (st : Flags × Rnd) (u v : Int),
          let y := f.fp.val u.toNat
          let z := f.fp.val v.toNat
          let sum := y.add st.2.down z
          let o := roundTo f.fp st.2 sum.1
          c.op st u v = if kind = .sum then ((o.bits : Int), (st.1 ||| sum.2 ||| o.flags, { st.2 with gen := o.gen }))
            else (((roundCore f.fp Rnd.rne (Val.maxNum y z)).1 : Int), st)) ∧
        ∀ st u, c.out st u = toDest f c.fmt false (xword u.toNat, st.1, st.2.gen) st.2.mode) ∧
    (kind = .and → f.isInt = true ∨ f = .bits →
      c.zero = (2 ^ n - 1 : Nat) ∧ (∀ i, c.get i = ((x.get i).toNat % 2 ^ n : Nat)) ∧ (∀ w, c.read w = (w.toNat % 2 ^ n : Nat)) ∧
        (∀ st u v, c.op st u v = (((u.toNat &&& v.toNat : Nat) : Int), st)) ∧
        ∀ st u, c.out st u = toDest f c.fmt p.sat (xword u.toNat, st.1, st.2.gen) st.2.mode) ∧
    (∀ is g,
      let t := treeOver c.op c.zero (0, ⟨modeOf s p, g⟩) (is.map (fun i => if predicate s p i then c.get i else c.zero))
      c.over s p is g = c.out t.2 t.1) ∧
    (let first := if b = 0 then c.zero else c.read (s.x b)
     let one := fun (acc : Outs × Int) j =>
      let v := c.op (0, ⟨modeOf s p, gen acc.1.gens j⟩) acc.2 (c.get j)
      let y := c.out v.2 v.1
      (acc.1.put p.ek j y.1 y.2.1 y.2.2, v.1)
     let o := (span 0 s.regs.vr).foldl (fun o r => (((span (r * rs) s.regs.vl).filter (predicate s p)).foldl one (o, first)).1)
      (Outs.start s)
     ∀ i ∈ [(Instr.vscansum k d a b e q, Red.sum), (.vscanmax k d a b e q, .max), (.vscanand k d a b e q, .and)],
      i.2 = kind → ans i.1 o) ∧
    (let segs := (span 0 s.regs.vr).flatMap (fun r => segments (maskOf s b) (span (r * rs) s.regs.vl))
     let one := fun (o : Outs) (js : List Nat) =>
      let act := js.filter (predicate s p)
      let y := c.over s p js (gen o.gens (js.headD 0))
      let u := act.foldl (fun (u : Outs) j => u.put p.ek j y.1 y.2.1 (gen u.gens j)) o
      if act = [] then o else { u with gens := setGen u.gens (js.headD 0) y.2.2 }
     ∀ i ∈ [(Instr.vsegsum k d a b e q, Red.sum), (.vsegmax k d a b e q, .max)],
      i.2 = kind → ans i.1 (segs.foldl one (Outs.start s)))

/-! ### Attention and generation (R327 to R339) -/

/-- The attention chain (R327 to R334): VSCORE gives each active element the exact dot product of its row's query and its
key's vector, times the scale, rounded once, and −∞ elsewhere; VEXPM the weights 2^(score − m) under the row's new maximum m;
VACCV the row's new numerators, sum and maximum, with α = 2^(old m − m), each an exact sum rounded once, and the evidence. The
chain's marks go on to the next member. That exact sums begin at +0, and what ∞ − ∞ in an exponent or in a sum gives, is log
entry 16. -/
def Obligations.AttentionChain : Prop :=
  ∀ (s : State) (k : Bool) (d a b : BitVec 5) (w : Bool),
    let p := pfxOf s.regs
    let g := groupFactor s.regs
    let rs := rowSize s
    let F := fp32
    let once := fun (z : Val × Flags) => (xword (roundCore F Rnd.rne z.1).1, z.2 ||| (roundCore F Rnd.rne z.1).2)
    let power := fun (x m : Val) => once ((x.add false m.neg).1.exp2.1, (x.add false m.neg).2 ||| (x.add false m.neg).1.exp2.2)
    let vector := fun (t : Attn) row j => headVector s t row (j / rs * s.regs.vl + j % rs)
    let group := fun first => groupSource s first g
    (∀ (q x : Source) (key : Nat → List Val) (i : Instr), i = .vscore k d a b w → Allowed s i → GoesOn s i →
      let t := Attn.of (s.x a)
      t.rsv = false → t.kfmt ≠ 3 → 1 ≤ t.d ∧ t.d ≤ 64 ∧ t.d ≤ rs → t.qreg % g = 0 → t.qreg + g ≤ s.hart.vn →
      group t.qreg = .ok q → group b.toNat = .ok x → q.fmt ∈ [Fmt.f16, .bf16, .f32] → x.fmt ∈ [Fmt.u16, .u32, .i32] →
      (∀ j ∈ activeIndices s p, vector t (x.fmt.int (x.get j)) j = .ok (key j)) →
      ∃ u, exec i s = .next u ∧ AfterMember s u ∧ u.regs.queues = s.regs.queues ∧
        InOrder s u k w false d .f32 (fun j => !inShape s j) (shapeIndices s) id (fun j r =>
          let dot := sumExact (List.zipWith Val.mul ((span (j / rs * rs) t.d).map (asVal q)) (key j))
          let y := once (((F.val t.scale).mul dot.1).1, dot.2 ||| ((F.val t.scale).mul dot.1).2)
          if predicate s p j then (y.1, y.2, r.gen) else (0xFF800000, 0, r.gen)) ∧
        (k = true → u.regs.chain = some { desc := s.x a, idx := b, mn := #[], alpha := #[] })) ∧
    (∀ (ch : Chain) (c z : Source) (i : Instr), i = .vexpm k d b w → Allowed s i → GoesOn s i → s.regs.chain = some ch →
      let t := Attn.of ch.desc
      source s true 4 = .ok c → group b.toNat = .ok z → z.fmt = .f32 → t.d + 2 ≤ rs →
      let old := fun r => F.val (elem s z (r * rs + t.d + 1)).toNat
      let cols := fun r => span (r * rs) s.regs.vl
      let top := fun r => rowMax (old r) (((cols r).filter (predicate s p)).map (asVal c))
      let none_ := fun r => top r == .inf true
      let alpha := fun r => if none_ r then (xword 0x3F800000, 0) else power (old r) (top r)
      let items := (span 0 s.regs.vr).flatMap (fun r => (cols r).map (fun j => (r, j)))
      let f := fun (n : Nat × Nat) (r : Rnd) =>
        let y := if predicate s p n.2 && !none_ n.1 then power (asVal c n.2) (top n.1) else (0, 0)
        ((y.1, y.2, r.gen) : Step1)
      ∃ u, exec i s = .next u ∧ AfterMember s u ∧ u.regs.queues = s.regs.queues ∧
        Delivered s u k w false d .f32 (fun j => !inShape s j) (resultAt s items (·.2) f)
          (fun n => (∃ x ∈ items, (f x ⟨0, 0⟩).2.1.getLsbD n = true) ∨ ∃ r ∈ span 0 s.regs.vr, (alpha r).2.getLsbD n = true)
          (fun _ => False) (gen s.regs.gens) ∧
        (k = true → u.regs.chain = some { ch with
          mn := ((span 0 s.regs.vr).map (fun r => BitVec.ofNat 32 (roundCore F Rnd.rne (top r)).1)).toArray
          alpha := ((span 0 s.regs.vr).map (fun r => (alpha r).1.setWidth 32)).toArray })) ∧
    (∀ (ch : Chain) (c z x : Source) (val : Nat → List Val) (i : Instr), i = .vaccv k d b → Allowed s i → GoesOn s i →
      s.regs.chain = some ch →
      let t := Attn.of ch.desc
      source s true 4 = .ok c → group d.toNat = .ok z → z.fmt = .f32 → t.d + 2 ≤ rs → group b.toNat = .ok x →
      x.fmt ∈ [Fmt.u16, .u32, .i32] → (∀ j ∈ activeIndices s p, vector t (x.fmt.int (x.get j) + t.voff) j = .ok (val j)) →
      let cols := fun r => (span (r * rs) s.regs.vl).filter (predicate s p)
      let items := (span 0 s.regs.vr).flatMap (fun r => (span 0 (t.d + 2)).map (fun j => (r, j)))
      let f := fun (n : Nat × Nat) (r : Rnd) =>
        let sum := sumExact ((F.val (ch.alpha.getD n.1 0).toNat).mul (asVal z (n.1 * rs + n.2)) ::
          (cols n.1).map (fun j => (asVal c j).mul (if n.2 < t.d then (val j).getD n.2 .nan else .fin false 1 0)))
        if n.2 = t.d + 1 then (((ch.mn.getD n.1 0).setWidth 64, 0, r.gen) : Step1) else ((once sum).1, (once sum).2, r.gen)
      (t.ev = false →
        ∃ u, exec i s = .next u ∧ AfterMember s u ∧ u.regs.queues = s.regs.queues ∧
          InOrder s u k true false d .f32 (fun _ => false) items (fun n => n.1 * rs + n.2) f) ∧
      (∀ y, t.ev = true → t.evreg % g = 0 → t.evreg + g ≤ s.hart.vn → group t.evreg = .ok y → y.fmt = .f32 →
        overlaps (t.evreg, g) (d.toNat, g) = false → (p.dce = true → overlaps (t.evreg, g) (p.dc.toNat, g) = false) →
        let ev := fun j => once ((F.val (elem s y j).toNat).add false (asVal c j))
        ∃ u v, exec i s = .next u ∧ AfterMember s u ∧ u.regs.queues = s.regs.queues ∧
          Delivered s v k true false d .f32 (fun _ => false) (resultAt s items (fun n => n.1 * rs + n.2) f)
            (fun n => (∃ x ∈ items, (f x ⟨0, 0⟩).2.1.getLsbD n = true) ∨ ∃ j ∈ activeIndices s p, (ev j).2.getLsbD n = true)
            (fun _ => False) (gen s.regs.gens) ∧
          (∀ j : Fin 32, if s.regs.vl ≠ 0 ∧ t.evreg ≤ j.val ∧ j.val < t.evreg + g then
              RegTakes s u j t.evreg .f32 (tailed s (fun _ => false) (fun n => if n ∈ activeIndices s p then some (ev n).1 else none))
            else u.regs.vregs[j] = v.regs.vregs[j]) ∧
          u.regs.masks = v.regs.masks ∧ u.regs.fflags = v.regs.fflags ∧ u.regs.gens = v.regs.gens ∧ u.regs.cv = v.regs.cv))

/-- VSOFTFIN, VTREEM, VACCEPT and VMAXI (R335, R336, R337, R339): the final quotients by the row's sum; a candidate sees the
prefix and its tree's ancestors; each row's count of leading accepted candidates; and each row's best live candidate, whose
value and column join the two lists and whose live bit clears. That VACCEPT's count wraps in the destination's width is log
entry 16. -/
def Obligations.Generation : Prop :=
  ∀ (s : State) (k : Bool) (d a b : BitVec 5) (q : Bool) (x : Source),
    let p := pfxOf s.regs
    let g := groupFactor s.regs
    let rs := rowSize s
    let act := fun r => (span (r * rs) s.regs.vl).filter (predicate s p)
    (source s q a = .ok x → x.fmt = .f32 → destTag s d = .f32 → ∀ i, i = Instr.vsoftfin k d a b q → Allowed s i → GoesOn s i →
      QueuesReady s [(q, a)] →
      let t := Attn.of (s.x b)
      1 ≤ t.d ∧ t.d ≤ 64 ∧ t.d + 2 ≤ rs →
      ∃ u, exec i s = .next u ∧ AfterMember s u ∧ Consumed s u [(q, a)] ∧
        InOrder s u k true false d .f32 (fun j => !(decide (j / rs < s.regs.vr) && decide (j % rs < t.d + 2)))
          (((span 0 s.regs.vr).flatMap (fun r => span (r * rs) (t.d + 2))).filter (predicate s p)) id (fun j r =>
            let l := j / rs * rs + t.d
            let z := Val.div (asVal x j) (asVal x l)
            if l ≤ j then (elem s x j, 0, r.gen) else if elem s x l = 0 then (0, 0, r.gen)
            else (xword (roundCore fp32 Rnd.rne z.1).1, z.2 ||| (roundCore fp32 Rnd.rne z.1).2, r.gen))) ∧
    (groupSource s a.toNat g = .ok x → x.fmt = .i64 → 2 ≤ rs → ∀ i, i = Instr.vtreem k d a → Allowed s i → GoesOn s i →
      SetsMask (exec i s) s false d [] (fun j =>
        let r := j / rs * rs
        let n : Int := ((j % rs : Nat) : Int) - (x.get (r + 1)).toInt
        n < 0 ∨ n < 64 ∧ (x.get r).getLsbD n.toNat = true)) ∧
    (destTag s d = .bits ∨ ((destTag s d).isInt = true ∧ 2 ≤ (destTag s d).bytes) → ∀ i, i = Instr.vaccept k d a → Allowed s i →
      GoesOn s i →
      let f := if destTag s d = .bits then Fmt.u32 else destTag s d
      let first := fun r => ((span 0 s.regs.vl).find? (fun c =>
        !(predicate s p (r * rs + c) && inSet (maskOf s a) (r * rs + c)))).getD s.regs.vl
      ∃ u, exec i s = .next u ∧ AfterMember s u ∧ Consumed s u [] ∧
        InOrder s u k true false d f (fun j => !(inShape s j && j % rs == 0)) (span 0 s.regs.vr) (· * rs)
          (fun r c => (wrapBits (8 * f.bytes) (first r), 0, c.gen))) ∧
    (groupSource s a.toNat g = .ok x → x.fmt.isInt = true ∨ x.fmt.isFloat = true → 4 ≤ declWidth s →
      ∀ i, i = Instr.vmaxi k d a b → Allowed s i → GoesOn s i →
      let live := inSet (maskOf s b)
      let items := (span 0 s.regs.vr).filterMap (fun r => (bestOf (candidate x) ((act r).filter live)).map (fun j =>
        (r * rs + ((act r).filter (fun n => !live n)).length, j)))
      let at_ := fun (f : Nat → XWord) n => (lastAt (·.1) n items).map (fun c => f c.2.2)
      ∃ u v, exec i s = .next u ∧ AfterMember s u ∧ u.regs.queues = s.regs.queues ∧
        DeliveredTwo s v false false d x.fmt .u32 (fun _ => false)
          (at_ (fun j => if x.fmt.isFloat = true ∧ asVal x j = .nan then xword x.fmt.fp.nan else x.get j))
          (at_ (fun j => xword (j % rs))) (fun _ => False) (fun _ => False) ∧
        u.regs.vregs = v.regs.vregs ∧ u.regs.fflags = s.regs.fflags ∧ u.regs.gens = s.regs.gens ∧
        ∀ j : Fin 8, u.regs.masks[j] = if s.regs.vl ≠ 0 ∧ j.val = b.toNat then
          ⟨s.regs.masks[j].com, some (items.foldl (fun m c => m ^^^ 2 ^ c.2) (maskOf s b))⟩ else s.regs.masks[j])

/-! ### Tag-selected operations and the matrix engine (R84, R86, R196 to R206, R264 to R276) -/

/-- The tag-selected operations (R196 to R204, Tables 9.4 to 9.6): TAGW and TOPR.RETAG change the bits of WMASK in the tags of
the rows named, or of those that match; TAGR gives the base row's tag and TMATCH the number of matches; TOPR.SET, TOPR.ADD,
TOPR.MULS and TOPR.CLR change each element of the span of every matched row, integers clamped and floats rounded once. x[rd]
takes the count and nothing else changes but FFLAGS, and each is ordered before what follows (R241). Those that change a span
wait while queued matrix instructions of the hart have still to read it (R266).
The tagging store (R205, R206): each row's active elements go to the row's bytes, column c's at c·w, and the row's tag is
x[rb]; VL = 0 writes nothing; it waits for queued reads too. A row wider than 64 bytes, or of T6, is ILLEGAL. That this wait
is how R266's order is kept is log entry 41. -/
def Obligations.TagOperations : Prop :=
  (∀ (s : State) (d a b : BitVec 5) (y : BitVec 3), MayCommit s → s.holds = true →
      let c := s.committed
      let v := (s.x a).toNat
      let base := v % 2 ^ 15
      let n := if v / 2 ^ 16 % 2 ^ 15 = 0 then 2 ^ 15 else v / 2 ^ 16 % 2 ^ 15
      let hit := fun r => (c.core.tag r ^^^ BitVec.ofNat 16 (v / 2 ^ 32)) &&& BitVec.ofNat 16 (v / 2 ^ 48) == 0
      let rows := (span base n).filter hit
      let limit := min (2 ^ 15) (s.core.request / 64)
      let op := (s.x b).toNat
      let m := BitVec.ofNat 16 (op / 2 ^ 16)
      let retag := fun l => c.setCore (l.foldl (fun k r => k.setTag r ((k.tag r &&& ~~~m) ||| (BitVec.ofNat 16 op &&& m))) c.core)
      let off := s.hart.tspanOff.toNat
      let len := s.hart.tspanLen.toNat
      let free := ∀ r ∈ rows, queuedReads s (64 * r + off) len = false
      v / 2 ^ 15 % 2 = 0 → v / 2 ^ 31 % 2 = 0 →
      (base + 1 ≤ limit → SetsIn (exec (.tagr d a) s) c.order d ((c.core.tag base).setWidth 64)) ∧
      (base + n ≤ limit →
        SetsIn (exec (.tagw d a b) s) (retag (span base n)).order d (xword n) ∧
        SetsIn (exec (.tmatch d a) s) c.order d (xword rows.length) ∧
        SetsIn (exec (.toprRetag d a b) s) (retag rows).order d (xword rows.length) ∧
        (off + len ≤ 64 → ¬free → Waits (exec (.toprClr d a) s) c .matrix) ∧
        (off + len ≤ 64 → free →
          SetsIn (exec (.toprClr d a) s) (c.setCore { c.core with
            scratch := rows.foldl (fun q r => memZero q (64 * r + off) len) c.core.scratch }).order d (xword rows.length)) ∧
        (off + len ≤ 64 → ∀ p ∈ [(0, Fmt.i8), (1, .u8), (2, .i16), (3, .u16), (4, .i32), (5, .u32), (6, .f16), (7, .f32)],
          y.toNat = p.1 → off % p.2.bytes = 0 → len % p.2.bytes = 0 →
          let f := p.2
          let r : Rnd := ⟨if s.regs.frm = 5 then 0 else s.regs.frm.toNat, 0⟩
          let x := fp32.val (op % 2 ^ 32)
          let once := fun (z : Val × Flags) => (xword (roundTo f.fp r z.1).bits, z.2 ||| (roundTo f.fp r z.1).flags)
          ∀ i ∈ [(Instr.toprSet d a b y, fun (_ : XWord) => (lowBits f.bytes (s.x b), (0 : Flags))),
              (.toprAdd d a b y, fun e => if f.isInt then narrowInt f true (f.int e + (lo32 (s.x b)).toInt)
                else once ((f.val e).add r.down x)),
              (.toprMuls d a b y, fun e => if f.isInt then narrowInt f true (f.int e * (lo32 (s.x b)).toInt)
                else once ((f.val e).mul x))],
            let one := fun (q : List Host.Cell × Flags) (at_ : Nat) =>
              let z := i.2 (xword (leNat (memReadN q.1 at_ f.bytes)))
              (memWriteN q.1 at_ (leBytes f.bytes z.1.toNat), q.2 ||| z.2)
            let out := (rows.flatMap (fun r => (span 0 (len / f.bytes)).map (fun j => 64 * r + off + j * f.bytes))).foldl one
              (c.core.scratch, 0)
            (¬free → Waits (exec i.1 s) c .matrix) ∧
            (free → SetsIn (exec i.1 s) ((c.setCore { c.core with scratch := out.1 }).raise out.2).order d (xword rows.length))))) ∧
  (∀ (s : State) (d a b : BitVec 5) (x : Source), MayCommit s → Allowed s (.vstt d a b) →
      groupSource s.committed d.toNat (groupFactor s.regs) = .ok x →
      let c := s.committed.spendPfx
      let w := fmtWidth s x.fmt
      let rs := rowSize s
      let base := (s.x a).toNat
      let one := fun (u : State) r =>
        let v := ((span (r * rs) s.regs.vl).filter (predicate s (pfxOf s.regs))).foldl (fun (u : State) j =>
          u.spWrite s.coreId (64 * (base / 64 + r) + j % rs * w) (leBytes w (x.get j).toNat)) u
        v.setCore (v.core.setTag (base / 64 + r) (BitVec.ofNat 16 (s.x b).toNat))
      (x.fmt ≠ .t6 → s.regs.vl * w ≤ 64 →
        (s.regs.vl = 0 → SetsIn (exec (.vstt d a b) s) c 0 0) ∧
        (s.regs.vl ≠ 0 → base < 2 ^ 21 → base % 64 = 0 → s.holds = true → base / 64 + s.regs.vr ≤ min (2 ^ 15) (s.core.request / 64) →
          (queuedReads s base (64 * s.regs.vr) = true → Waits (exec (.vstt d a b) s) s.committed .matrix) ∧
          (queuedReads s base (64 * s.regs.vr) = false →
            SetsIn (exec (.vstt d a b) s) ((span 0 s.regs.vr).foldl one c) 0 0))) ∧
      (Traps s → x.fmt = .t6 ∨ 64 < s.regs.vl * w →
        ∃ t, exec (.vstt d a b) s = .next t ∧ EntersTrap s.committed.settle t { code := 0x01, tv := s.regs.pc } false 0 s.regs.pc))

/-- The matrix instructions at issue (R264 to R276): MZERO, MOP, MLDW and MDRAIN join the hart's queue of 16, the last two
under a ticket, with MOP's register group as it stands (log entry 43; so are a MOP of VL = 0 that joins nothing and the bits
of DEST that MDRAIN ignores); a full queue makes all four wait; MKEEP changes the keep set and gives the deal position; MTOV
and MFROMV move rows of a tile once the queue is empty, MTOV with the tile's flags; MWAIT waits for that. -/
def Obligations.MatrixIssue : Prop :=
  ∀ (s : State) (d a b : BitVec 5), MayCommit s → s.holds = true →
    let c := s.committed
    let room := s.hart.matrixQ.length < 16
    let none_ := s.hart.matrixQ = []
    let rs := rowSize s
    let k := s.regs.vl
    let x := s.x a
    let y := s.x b
    (room → SetsIn (exec (.mzero d) s) (c.enqueueMatrix (.zero d.toNat)) 0 0) ∧
    (¬room → Waits (exec (.mzero d) s) c .matrix) ∧
    (∀ (oa : MopOperand) (fa : Fmt), Allowed s (.mop d a b) → mopDescBad true x k = false → mopDescBad false y k = false →
      oa.desc = x →
      (x.getLsbD 26 = true → oa.group = none ∧ mopFormat x = some fa ∧
        (k ≠ 0 → SpaceRange s (xword (xbits x 0 21)) (mopExtent x fa.bytes k) 64)) →
      (x.getLsbD 26 = false → s.regs.vr = 64 ∧ (xbits x 0 21) % groupFactor s.regs = 0 ∧
        xbits x 0 21 + groupFactor s.regs ≤ s.hart.vn ∧ fa ∈ [Fmt.f16, .bf16, .i8, .t8, .t6] ∧
        ∃ g, groupSource c (xbits x 0 21) (groupFactor s.regs) = .ok g ∧ g.fmt = fa ∧ oa.group = some (fa,
          ((span 0 (64 * k)).map (fun n => elem s g (n / k * rs + n % k))).toArray)) →
      (fa = .i8 ↔ mopFormat y = some .i8) →
      (k ≠ 0 → (x.getLsbD 24 = true → SpaceRange s (xword (64 * mopScaleRow x)) (64 * ((k + 31) / 32)) 64) ∧
        (y.getLsbD 24 = true → SpaceRange s (xword (64 * mopScaleRow y)) (64 * ((k + 31) / 32)) 64) ∧
        (∀ f, mopFormat y = some f → if y.getLsbD 26 then SpaceRange s (xword (xbits y 0 21)) (mopExtent y f.bytes k) 64
          else 128 * s.hart.mwb.toNat + mopBufferBytes y f k ≤ Config.wbufBytes)) →
      (k = 0 → (x.getLsbD 26 = true → xbits x 0 21 % 64 = 0) → (y.getLsbD 26 = true → xbits y 0 21 % 64 = 0) →
        SetsIn (exec (.mop d a b) s) c 0 0) ∧
      (k ≠ 0 → ¬room → Waits (exec (.mop d a b) s) c .matrix) ∧
      (k ≠ 0 → room → SetsIn (exec (.mop d a b) s) (c.enqueueMatrix
        (.mop d.toNat k oa { desc := y, group := none } s.hart.mwb.toNat)) 0 0)) ∧
    (∀ u, y.toNat < 2 ^ 24 →
      let line := y.toNat % 2 ^ 12
      let n := if y.toNat / 2 ^ 12 = 0 then 4096 else y.toNat / 2 ^ 12
      128 * (line + n) ≤ Config.wbufBytes → MemoryRange c .read x (128 * n) 128 u →
        (¬room → Waits (exec (.mldw d a b) s) c .matrix) ∧
        (room → Issues (exec (.mldw d a b) s) u d 2 0 .mload ([], []) (fun t => t.enqueueMatrix (.load u.nextCmd x line n)))) ∧
    (x.toNat < 16 →
      let q := c.core
      let field := BitVec.ofNat 1024 ((2 ^ 64 - 1) * 2 ^ (64 * x.toNat))
      SetsIn (exec (.mkeep d a b) s)
        (c.setCore { q with keep := (q.keep &&& ~~~field) ||| BitVec.ofNat 1024 (y.toNat * 2 ^ (64 * x.toNat)) }) d
        (xword (q.dealExpert % 2 ^ 16 + 2 ^ 16 * (q.dealRound % 2 ^ 32) + if q.dealRunning then 2 ^ 63 else 0))) ∧
    (∀ v u0 u1 u2, ReadsDescriptor c y 32 32 v u0 →
      let q := BitVec.ofNat 256 v
      let w := (drainFormat q).bytes
      let dest := drainDest q
      let extent := 63 * drainPitch q + 64 * w
      drainBad q = false →
      (drainSp q = true → u1 = u0 ∧ (if drainColumns q
        then SpaceRange s (dest &&& ~~~63) (64 * (drainPitch q * (63 * w / 64) + 64)) 64
        else SpaceRange s dest extent 64 ∧ dest.toNat + drainPitch q < 2 ^ 21 ∧ drainPitch q % w = 0)) →
      (drainSp q = false → memForm u0 true dest w = .ok () ∧ (dest + xword (drainPitch q)).toNat % w = 0 ∧
        MemoryRange u0 .write dest extent w u1) →
      (if drainAmax q then ∃ pa, located u1 .update (drainWord q) 4 0 = .ok (pa, u2) else u2 = u1) →
        (¬room → Waits (exec (.mdrain d a b) s) c .matrix) ∧
        (room →
          Issues (exec (.mdrain d a b) s) u2 d 4 0 .mdrain ([], []) (fun t => t.enqueueMatrix (.drain u2.nextCmd a.toNat q)))) ∧
    (y.toNat + s.regs.vr ≤ 64 → k ≤ 64 →
      let place := fun j => 64 * (y.toNat + j / rs) + j % rs
      (Allowed s (.mtov d a b) → destTag c d = .bits ∨ destTag c d = .f32 → none_ → k ≠ 0 →
        let acc := c.core.tile a.toNat
        ∃ u v, SetsIn (exec (.mtov d a b) s) u 0 0 ∧
          (∀ j : Fin 32, if d.toNat ≤ j.val ∧ j.val < d.toNat + groupFactor s.regs then
              RegTakes c v j d.toNat .f32 (tailed c (fun j => !inShape s j) (fun j =>
                if j ∈ shapeIndices s then some ((acc.getD (place j) 0).setWidth 64) else none)) ∧
              u.regs.vregs[j] = ⟨curTile v.regs.vregs[j], none⟩
            else u.regs.vregs[j] = c.regs.vregs[j]) ∧
          u = c.setRegs { c.regs with vregs := u.regs.vregs, fflags := c.regs.fflags ||| c.core.tileFlags a.toNat }) ∧
      (Allowed s (.mtov d a b) → destTag c d = .bits ∨ destTag c d = .f32 → none_ → k = 0 →
        SetsIn (exec (.mtov d a b) s) c 0 0) ∧
      (∀ g, Allowed s (.mfromv d a b) → groupSource c a.toNat (groupFactor s.regs) = .ok g → g.fmt = .f32 → none_ →
        let new := (shapeIndices s).foldl (fun (t : Array (BitVec 32)) j => t.setIfInBounds (place j) ((g.get j).setWidth 32))
          (c.core.tile d.toNat)
        SetsIn (exec (.mfromv d a b) s) (c.setCore (c.core.setTile d.toNat new)) 0 0)) ∧
    (none_ → SetsIn (exec .mwait s) c 0 0) ∧ (¬none_ → Waits (exec .mwait s) c .matrix)

/-- The matrix queue's head executes wholly at one point (R264, R268 to R274, R267): MZERO zeroes a tile and its flags; MOP
adds to each of the 4,096 accumulators the blocks' exact sums, scaled and rounded, in their order; MLDW fills the weight
buffer; MDRAIN stores each accumulator times its scale, rounded once, with its amax, and its ticket takes the tile's flags. A
drain starts at this point, after every command issued so far (R317). That an instruction acts whole at one step is log entry
43. -/
def Obligations.MatrixPoints : Prop :=
  ∀ (s : State) (h : Nat) (op : MatrixOp) (rest : List MatrixOp),
    let f := s.focus h
    let c := f.setHart { f.hart with matrixQ := rest }
    let k := c.core
    let done := fun (t : State) => exec (.matrixExecute h) s = .next (t.focus s.cur)
    f.hart.matrixQ = op :: rest → f.holds = true → k.retired = false →
    (∀ t, op = .zero t → done (c.setCore ((k.setTile t (Array.replicate 4096 0)).setTileFlags t 0))) ∧
    (∀ t n a b mwb, op = .mop t n a b mwb →
      let value := operandVal k mwb n
      let acc := fun i => (span 0 ((n + 31) / 32)).foldl (fun q blk =>
        mopBlock ((span (32 * blk) (min 32 (n - 32 * blk))).map (fun j => (value a (i / 64) j).mul (value b (i % 64) j)))
          (scaleCode k a.desc (i / 64) blk) (scaleCode k b.desc (i % 64) blk) q) (((k.tile t).getD i 0).toNat, (0 : Flags))
      ∃ (new : Array (BitVec 32)) (fl : Flags),
        done (c.setCore ((k.setTile t new).setTileFlags t (k.tileFlags t ||| fl))) ∧ new.size = 4096 ∧
        (∀ i, i < 4096 → new.getD i 0 = BitVec.ofNat 32 (acc i).1) ∧
        ∀ j, fl.getLsbD j = true ↔ ∃ i, i < 4096 ∧ (acc i).2.getLsbD j = true) ∧
    (∀ cmd src line n bytes u, op = .load cmd src line n →
      EngineReads cmd bytes c ((span 0 n).map (fun j => (src + xword (128 * j), 128))) u →
      done ((u.setCore { u.core with wbuf := (span 0 n).foldl (fun m j =>
        memWriteN m (128 * (line + j)) (bytes (src + xword (128 * j)))) u.core.wbuf }).finishCmd cmd 0 0 0)) ∧
    (∀ cmd t q pa u w, op = .drain cmd t q →
      let tile := k.tile t
      let bytes := (drainFormat q).bytes
      let scaled := fun i => (fp32.val (tile.getD i 0).toNat).mul (fp32.val (drainScale q))
      let code := fun i => roundCore (drainFormat q).fp Rnd.rne (scaled i).1
      let place := fun i => drainPlace q (i / 64) (i % 64)
      let fl := (span 0 4096).foldl (fun f i => f ||| (scaled i).2 ||| (code i).2) (0 : Flags)
      (if drainSp q then u = c else EngineTargets cmd pa c ((span 0 4096).map (fun i => xword (place i))) u) →
      let v := (span 0 4096).foldl (fun (u : State) i => if drainSp q then u.spWrite c.coreId (place i) (leBytes bytes (code i).1)
        else u.engWrite (xword (place i)) (pa (xword (place i))) (leBytes bytes (code i).1) []) u
      let v := v.setCore (v.core.setTileFlags t (v.core.tileFlags t ||| fl))
      (if drainAmax q then amaxUpdate v cmd q (amaxOf tile q) = .ok w else w = v) →
      let z := if drainClears q then w.setCore ((w.core.setTile t (Array.replicate 4096 0)).setTileFlags t 0) else w
      done (z.finishCmd cmd 0 (v.core.tileFlags t).toNat 0))

/-! ### The copy engine, weight arrays and bank commands (R259 to R263, R277 to R314) -/

/-- The copy commands at issue (R261, R263, R277 to R279): each, once its ranges are checked, joins the engine's work under a
fresh ticket and owns the memory lines it will write, and those of its pages not yet mapped once they are (log entry 44); one
of no bytes completes at once; a deal sets the deal position of each of its cores that no earlier deal runs on (R276; log
entry 45). -/
def Obligations.CopyIssue : Prop :=
  ∀ (s : State) (d a b r : BitVec 5), MayCommit s →
    let c := s.committed
    let dst := s.x a
    let src := s.x b
    let ctl := (s.x r).toNat
    let n := ctl % 2 ^ 40
    let dsp := ctl.testBit 60
    let ssp := ctl.testBit 61
    (ctl / 2 ^ 40 % 2 ^ 20 = 0 → ctl / 2 ^ 62 = 0 →
      (n = 0 →
        Issues (exec (.dcopy d a b r) s) c d 0 1 (.copy dst src 0 dsp ssp) ([], []) (fun t => t.finishCmd c.nextCmd 0 0 0) ∧
        (ssp = false → Issues (exec (.dfill d a b r) s) c d 2 1 (.fill dst src 0 dsp) ([], []) (fun t => t.finishCmd c.nextCmd 0 0 0))) ∧
      (n ≠ 0 → ∀ u0 u1, (ssp = true → SpaceRange s src n 1) → (dsp = true → SpaceRange s dst n 1) →
        (if dsp then u1 = u0 else MemoryRange u0 .write dst n 1 u1) →
        let lines := if dsp then ([], []) else linesOf u1 dst n
        ((if ssp then u0 = c else MemoryRange c .read src n 1 u0) →
          Issues (exec (.dcopy d a b r) s) u1 d 0 1 (.copy dst src n dsp ssp) lines id) ∧
        (ssp = false → u0 = c → Issues (exec (.dfill d a b r) s) u1 d 2 1 (.fill dst src n dsp) lines id))) ∧
    (∀ v u u1 u2 u3 u4, ReadsDescriptor c dst 64 64 v u →
      let q := BitVec.ofNat 512 v
      c2Bad q = false → (if c2Ssp q then c2Side u q false = .ok u1 else u1 = u) → (if c2Dsp q then c2Side u1 q true = .ok u2 else u2 = u1) →
      (if c2Ssp q then u3 = u2 else c2Side u2 q false = .ok u3) → (if c2Dsp q then u4 = u3 else c2Side u3 q true = .ok u4) →
      let lines := if c2Dsp q then [] else
        (span 0 (c2Rows q)).map (fun j => linesOf u4 (c2Dst q + xword (j * c2Dpitch q)) (c2Cols q * c2Width q))
      Issues (exec (.dcopy2d d a) s) u4 d 1 1 (.copy2d q) (lines.flatMap (·.1), lines.flatMap (·.2)) id) ∧
    (∀ v u w, ReadsDescriptor c dst 32 64 v u →
      let q := BitVec.ofNat 256 v
      dealBad q = false → dealBase q + dealSlots q * dealSize q ≤ 4096 →
      MemoryRange u .read (dealSrc q) (dealExperts q * dealSize q * 128) 128 w →
      let cores := (w.cores.filter (fun k => !s.hart.steward && k.2.holder == some s.hart.gang)).map (·.1)
      Issues (exec (.ddeal d a) s) w d 5 1 (.deal q 0 cores) ([], []) (fun t => cores.foldl (fun t j =>
        let k := t.coreAt j
        if k.dealRunning then t
        else t.setCoreAt j { k with dealExpert := 0, dealRound := 0, dealRunning := true, dealSlot := 0 }) t))

/-- TKWAIT and TKTEST (R262, R320, R396): the status word of a finished ticket goes to x[rd] and frees it, or under EFT a
failure raises ENGINE with the word; of a command under way TKTEST gives code 1 and TKWAIT waits; a value no ticket has gives
code 2. A command that ends leaves the outstanding ones, and its ticket takes CODE, OP, MAJ, TFLAGS and DETAIL (Table 14.4). -/
def Obligations.TicketWaits : Prop :=
  ∀ (s : State) (d a : BitVec 5) (sc : BitVec 3), MayCommit s →
    let c := s.committed
    let found := s.hart.tickets.find? (fun t => t.value.toNat = (s.x a).toNat)
    (∀ t w, found = some t → t.status = some w →
      let freed := c.setHart { c.hart with tickets := s.hart.tickets.filter (fun u => u.value != t.value) }
      (s.hart.eft = false ∨ w.toNat % 2 ^ 8 < 0x10 → ∀ i ∈ [Instr.tkwait d a sc, .tktest d a sc], SetsIn (exec i s) freed d w) ∧
      (Traps s → s.hart.eft = true → 0x10 ≤ w.toNat % 2 ^ 8 → ∀ i ∈ [Instr.tkwait d a sc, .tktest d a sc],
        ∃ u, exec i s = .next u ∧ EntersTrap freed.settle u { code := 0x0F, tv := w } false 0 s.regs.pc)) ∧
    (∀ t k, found = some t → t.status = none → mget? s.cmds t.cmd = some k →
      Waits (exec (.tkwait d a sc) s) c .ticket ∧
      SetsIn (exec (.tktest d a sc) s) c d (xword (1 + 2 ^ 8 * k.op + 2 ^ 13 * k.maj))) ∧
    (found = none → (s.x a).toNat < 2 ^ 16 → ∀ i ∈ [Instr.tkwait d a sc, .tktest d a sc], SetsIn (exec i s) c d 2) ∧
    (Traps s → found = none → 2 ^ 16 ≤ (s.x a).toNat → ∀ i ∈ [Instr.tkwait d a sc, .tktest d a sc],
      ∃ u, exec i s = .next u ∧ EntersTrap c.settle u { code := 0x01, tv := s.regs.pc } false 0 s.regs.pc) ∧
    (∀ (u : State) n k code tflags detail, mget? u.cmds n = some k →
      let h := u.hartAt k.hart
      u.finishCmd n code tflags detail = { u with cmds := mdel u.cmds n }.setHartAt k.hart { h with
        tickets := h.tickets.map (fun (t : Ticket) => if t.cmd = n then { t with
          status := some (xword (code + 2 ^ 8 * k.op + 2 ^ 13 * k.maj + 2 ^ 16 * tflags + 2 ^ 24 * detail)) } else t) })

/-- A copy command's end (R277 to R279, R315 to R319): DCOPY, DFILL and DCOPY2D read all of their source and then write all of
their destination, in pieces that no line of the destination ends within, and complete; a source in local stores that are
saved while their gang is stopped is read there (R366); DCOPY2D moves element (r, c) of its rows and columns from and to the
places of R278; a passage of a deal writes one expert's image to the next slot of every core that keeps it, of those whose
stores the gang still holds; it waits while a living gang is stopped on one (R367), and at its end a core's position is that
of the next deal, if one is issued there (R276; log entry 45); an access that finds its bank in the other mode has arrived,
and keeps its place in that bank's order (R290; log entry 29). That all reads come before all writes is log entry 44, and that
each passage is a step of its own log entry 45. -/
def Obligations.CopyPoints : Prop :=
  ∀ (s : State) (n : Nat) (c : Cmd), mget? s.cmds n = some c →
    let f := s.focus c.hart
    let done := fun (t : State) => exec (.copyComplete n) s = .next ((t.finishCmd n 0 0 0).focus s.cur)
    let put := fun (dsp : Bool) (dst : XWord) (items : List Item) (l : List (Nat × Nat)) =>
      items.map (fun i => (i.sp, i.va)) = l.map (fun p => (dsp, dst + xword p.1)) ∧ ∀ i ∈ items, i.sp = true → i.pa = i.va.toNat
    (ownedEarlier f n c.lines = false →
      (∀ dst src len dsp ssp items u, c.kind = .copy dst src len dsp ssp →
        let l := piecesOf dst.toNat (if dsp then 64 else 128) len len 0
        gather (copyPiece n dst dsp (readSource n c.gang src ssp)) (·.1) f l = .ok (items, none, u) →
          done (u.performItems u.coreId items) ∧ put dsp dst items l ∧
          (ssp = true → items.flatMap (·.data) = l.flatMap (fun p => memReadN (scratchOf f.core c.gang) (src.toNat + p.1) p.2))) ∧
      (∀ dst pat len dsp items u, c.kind = .fill dst pat len dsp →
        let l := piecesOf dst.toNat (if dsp then 64 else 128) len len 0
        gather (copyPiece n dst dsp (fun s o k => .ok (fillBytes pat o k, [], s))) (·.1) f l = .ok (items, none, u) →
          done (u.performItems u.coreId items) ∧ put dsp dst items l ∧
          items.flatMap (·.data) = (span 0 len).map (fun j => BitVec.ofNat 8 (pat.toNat / 256 ^ (j % 8)))) ∧
      (∀ q bytes pa u, c.kind = .copy2d q →
        let w := c2Width q
        let place := fun (base : XWord) pitch (o : Bool) k =>
          let r := k / c2Cols q
          let j := k % c2Cols q
          if o then 64 * (base.toNat / 64 + pitch * (j * w / 64) + r) + j * w % 64 else base.toNat + r * pitch + j * w
        let to_ := place (c2Dst q) (c2Dpitch q) (c2Do q)
        let all := span 0 (c2Rows q * c2Cols q)
        EngineCopies n c.gang (c2Ssp q) (c2Dsp q) w (place (c2Src q) (c2Spitch q) (c2So q)) to_ bytes pa f all u →
          done (all.foldl (fun t k => if c2Dsp q then t.spWrite u.coreId (to_ k) (bytes k)
            else t.engWrite (xword (to_ k)) (pa k) (bytes k) []) u))) ∧
    (∀ q k cores data u, c.kind = .deal q k cores →
      let e := k % dealExperts q
      let held := cores.filter (fun j => (f.coreAt j).holder == some c.gang)
      let begun := held.foldl (fun t j => t.setCoreAt j (dealStart (t.coreAt j) e (k / dealExperts q))) f
      let busy := (held.filter (fun j => (begun.coreAt j).keep.getLsbD e && decide ((begun.coreAt j).dealSlot < dealSlots q))).any
        (fun j => readsSlot begun j (128 * (dealBase q + (begun.coreAt j).dealSlot * dealSize q)) (128 * dealSize q))
      (∀ o ∈ s.cmds, o.1 < n → o.2.gang = c.gang → ∀ x y z, o.2.kind ≠ .deal x y z) →
      ((mget? s.gangs c.gang).isSome = true → ∀ j ∈ cores, (∀ i ∈ (f.coreAt j).saved, i.gang ≠ c.gang) ∧
        ((f.coreAt j).holder = some c.gang → (f.coreAt j).moving = none)) →
      (0 < k / dealExperts q → busy = false) →
      dealRead begun n (dealSrc q + xword (e * (128 * dealSize q))) (span 0 (dealSize q)) = .ok (data, none, u) →
      let v := held.foldl (fun t j => t.setCoreAt j (dealFill (t.coreAt j) q e
        (data ++ List.replicate (128 * dealSize q - data.length) 0))) u
      let later := fun (j : Nat) => s.cmds.any (fun o => o.1 != n && o.2.gang == c.gang && (match o.2.kind with
        | .deal _ _ l => l.contains j
        | _ => false))
      exec (.dealPassage n) s = .next ((if k + 1 = dealExperts q * dealRounds q
        then (held.foldl (fun t j => t.setCoreAt j (if later j
          then { t.coreAt j with dealExpert := 0, dealRound := 0, dealRunning := true, dealSlot := 0 }
          else { t.coreAt j with dealRunning := false })) v).finishCmd n 0 0 0
        else { v with cmds := mset v.cmds n { c with kind := .deal q (k + 1) cores, since := none } }).focus s.cur)) ∧
    (∀ p t, copyPoint f n c = .error (some (.bankMode p t)) → (∀ u, c.since ≠ some (p, u)) →
      exec (.copyComplete n) s = .next { s with cmds := mset s.cmds n { c with since := some (p, t) } })

/-- The array instructions at issue (R263, R280 to R283, R308, R311): a handle is 1 to 4095; CMV reads its input and fixes the
current version now, or ends with code 3 without one; CCAL of a degraded version ends with 0x21; CSTAT gives the versions and
the arrays held. -/
def Obligations.ArrayIssue : Prop :=
  ∀ (s : State) (d a b r : BitVec 5), MayCommit s → 0 < (s.x a).toNat → (s.x a).toNat < 4096 →
    let c := s.committed
    let h := (s.x a).toNat
    let x := c.handleAt s.hart.ctx h
    let cur := x.bind (·.cur)
    (∀ v u u1 u2, ReadsDescriptor c (s.x b) 32 32 v u →
      let q := BitVec.ofNat 256 v
      cwBad q = false → MemoryRange u .read (cwAddr q) ((cwKin q - 1) * cwPitch q + cwN q) 1 u1 →
      (if cwScales q = 0 then u2 = u1 else MemoryRange u1 .read (cwScales q) (4 * cwN q) 4 u2) →
      Issues (exec (.cwrite d a b) s) u2 d 1 2 (.cwrite h q) ([], []) id) ∧
    Issues (exec (.ccommit d a) s) c d 2 2 (.ccommit h) ([], []) id ∧
    (let ctl := (s.x r).toNat
     let out := ctl % 2 ^ 21
     let stat := ctl / 2 ^ 21 % 2 ^ 21
     let kin := match x with | some x => x.kin | none => 0
     let n := match x with | some x => x.n | none => 0
     ctl / 2 ^ 42 % 2 ^ 20 = 0 → SpaceRange s (s.x b) kin 64 → SpaceRange s (xword out) (4 * n) 64 →
     SpaceRange s (xword stat) (8 + (n + 7) / 8) 64 →
     (cur = none → Issues (exec (.cmv d a b r) s) c d 0 2 (.ccommit h) ([], []) (fun t => t.finishCmd c.nextCmd 3 0 0)) ∧
     (∀ v, cur = some v → Issues (exec (.cmv d a b r) s) c d 0 2 (.cmv {
        handle := h, version := v.num, input := (span (s.x b).toNat kin).map (memRead c.core.scratch), out := out, stat := stat
        split := ctl.testBit 62, fp := ctl.testBit 63, done := [], retries := 0, sat := 0, satBits := 0, discards := [] }) ([], []) id)) ∧
    SetsIn (exec (.cstat d a) s) c d (xword (match x with
      | none => 0
      | some x => (match x.cur with | some v => v.num + 2 ^ 48 * v.arrays.length | none => 0) +
        (if x.pending.isSome then 2 ^ 32 else 0) + if x.rotating.isSome then 2 ^ 33 else 0)) ∧
    (cur = none → Issues (exec (.ccal d a) s) c d 4 2 (.ccal h []) ([], []) (fun t => t.finishCmd c.nextCmd 3 0 0)) ∧
    (∀ v, cur = some v → v.degraded = false →
      Issues (exec (.ccal d a) s) c d 4 2 (.ccal h (span 0 v.arrays.length)) ([], []) id) ∧
    (∀ v, cur = some v → v.degraded = true →
      let tile := (v.arrays.findIdx? (fun j => (mgetD c.warrays j .initial).failed)).getD 0
      Issues (exec (.ccal d a) s) c d 4 2 (.ccal h []) ([], []) (fun t => t.finishCmd c.nextCmd 0x21 0 tile))

/-- The bank commands at issue (R284 to R289, R293): BINST reads and checks its image, waiting for a word of it that is held
as for any read, BMSG its message row, and each joins the queue of the pseudo-channel of its target, or ends with INTERLEAVED
where that is not dedicated; BSTAT gives the installed handlers, the mode and the kitty, or 0. That a target outside device
memory is INTERLEAVED too, what is read of an image that goes nowhere, which pseudo-channels share a stack's kitty, that
DETAIL is 0 where the image cannot be read, and that a failed read comes before a failed check, is log entry 47. -/
def Obligations.BankIssue : Prop :=
  ∀ (s : State) (d a b r : BitVec 5), MayCommit s →
    let c := s.committed
    let joins := fun (u : State) pa (t : State) =>
      let p := pa / Config.slotBytes
      if dedicatedAt t pa then t.setChanAt p { t.chanAt p with queue := (t.chanAt p).queue ++ [u.nextCmd] }
      else t.finishCmd u.nextCmd 0x30 0 0
    (∀ v u pa w, (s.x r).toNat ≤ 15 → ReadsDescriptor c (s.x a) 64 64 v u → located u .write (s.x b) 1 0 = .ok (pa, w) →
      let found := fun (t : State) (image : ImageRead) =>
        Issues (exec (.binst d a b r) s) t d 0 3 (.binst image pa (s.x r).toNat) ([], []) (joins t pa)
      (dedicatedAt w pa = false ∨ 64 ≤ w.hart.tickets.length → found w (.bad 0 0)) ∧
      (dedicatedAt w pa = true → w.hart.tickets.length < 64 →
        (∀ code t, (engReadGood w w.nextCmd (s.x a) 64 = .error (.fail code t) ∨
          ∃ hd t0 count bound sp, engReadGood w w.nextCmd (s.x a) 64 = .ok (hd, t0) ∧ imageHeader (leNat hd) = some (count, bound, sp) ∧
            readWords t0 w.nextCmd (s.x a + 64) (span 0 count) = .error (.fail code t)) → found t (.bad code 0)) ∧
        (∀ x, (engReadGood w w.nextCmd (s.x a) 64 = .error (.hold x) ∨
          ∃ hd t0 count bound sp, engReadGood w w.nextCmd (s.x a) 64 = .ok (hd, t0) ∧ imageHeader (leNat hd) = some (count, bound, sp) ∧
            readWords t0 w.nextCmd (s.x a + 64) (span 0 count) = .error (.hold x)) → Waits (exec (.binst d a b r) s) c x) ∧
        (∀ hd t, engReadGood w w.nextCmd (s.x a) 64 = .ok (hd, t) →
          (imageHeader (leNat hd) = none → found t (.bad 0x31 0xFFFFFFFFFF)) ∧
          (∀ count bound sp, imageHeader (leNat hd) = some (count, bound, sp) →
            (∀ ws t1, readWords t w.nextCmd (s.x a + 64) (span 0 count) = .ok (ws, t1) →
              ((∀ i, i < ws.length → brixemWordOk (ws.getD i 0) i count = true) →
                found t1 (.good { bound := bound, span := sp, words := ws.toArray })) ∧
              (∀ i, i < ws.length → brixemWordOk (ws.getD i 0) i count = false →
                (∀ j, j < i → brixemWordOk (ws.getD j 0) j count = true) → found t1 (.bad 0x31 i))))))) ∧
    (∀ pa w,
      let ctl := (s.x r).toNat
      let reply := ctl % 2 ^ 21
      let n := ctl / 2 ^ 21
      let at_ := (s.x b).toNat
      let row := memReadN c.core.scratch at_ 64
      1 ≤ n → n < 64 → SpaceRange s (s.x b) 64 64 → leNat (row.take 1) ≤ 15 → leNat ((row.drop 1).take 7) = 0 →
      SpaceRange s (xword reply) (64 * n) 64 → located c .write (s.x a) 1 0 = .ok (pa, w) →
      Issues (exec (.bmsg d a b r) s) w d 1 3 (.bmsg pa (s.x a) (leNat (row.take 1))
        ((span 0 7).map (fun j => xword (leNat (memReadN c.core.scratch (at_ + 8 + 8 * j) 8)))) reply n) ([], []) (joins w pa)) ∧
    (∀ pa w, located c .write (s.x a) 1 0 = .ok (pa, w) →
      let p := pa / Config.slotBytes
      let k := c.chanAt p
      SetsIn (exec (.bstat d a) s) w d (if dedicatedAt c pa then
        xword (setOf (mkeys k.handlers) + (if k.allBank then 2 ^ 16 else 0) + 2 ^ 32 * (mgetD c.kitties (p / 128) .initial).level)
        else 0))

/-- The ends of the array commands (R280 to R282, R303 to R312, R418, R419): CWRITE writes a pending version into arrays of
the grant or fails; CCOMMIT makes the pending version current, its number one more than the commits; a kept pass gives the
tile's column sums, and a third discard of a tile fails its array; CMV writes its results and its status row; a rotation moves
one tile to a spare. That arrays, failures and passes are free choices and each pass a step of its own is log entry 46. -/
def Obligations.ArrayPoints : Prop :=
  ∀ (s : State) (n : Nat),
    let done := fun (i : Instr) (t : State) => exec i s = .next t
    (∀ c h q, mget? s.cmds n = some c → c.kind = .cwrite h q →
      let f := s.focus c.hart
      let ends := fun (t : State) => done (.cwriteComplete n) (t.focus s.cur)
      let old := f.handleAt c.ctx h
      let sizes := fun (x : Handle) => x.kin = cwKin q ∧ x.n = cwN q
      let need := ((cwKin q + 1023) / 1024) * ((cwN q + 1023) / 1024)
      let free := freeArrays f c.ctx
      let put := fun (t : State) a => t.setArray a { mgetD t.warrays a .initial with
        calibrated := t.gtime, held := c.ctx :: (mgetD t.warrays a .initial).held.erase c.ctx }
      (∀ o ∈ s.cmds, o.1 < n → o.2.ctx = c.ctx → ∀ p, o.2.kind ≠ .cwrite h p) →
      (∀ x, old = some x → ¬sizes x → ends (f.finishCmd n 4 0 0)) ∧
      ((∀ x, old = some x → sizes x) → free.length < need → ends (f.finishCmd n 0x20 0 (need - free.length))) ∧
      ((∀ x, old = some x → sizes x) → need ≤ free.length →
        (∀ code t, readMatrix f n q = .error (.fail code t) → ends (t.finishCmd n code 0 0)) ∧
        (∀ w z u, readMatrix f n q = .ok (w, z, u) →
          let x := old.getD { kin := cwKin q, n := cwN q, cur := none, pending := none, old := [], commits := 0, rotating := none }
          let fails := fun k => Config.happens (u.free + need + k)
          let filled := fun (t : State) arrays => ends ((t.setHandle c.ctx h { x with pending := some {
            num := 0, weights := w.toArray, scales := z.map List.toArray, arrays := arrays, degraded := false } }).finishCmd n 0 0 0)
          ∃ l : List Nat, l.length = need ∧ (∀ a ∈ l, a ∈ free) ∧ (free.Nodup → l.Nodup) ∧
            let after := fun k => (l.take k).foldl (fun (t : State) a => put t.draw a) { u with free := u.free + need }
            ((∀ k, k < need → fails k = false) → filled (after need) l) ∧
            (∀ k, k < need → fails k = true → (∀ j, j < k → fails j = false) →
              (∀ t, replaceArray (after k).draw c.ctx (l.getD k 0) = (none, t) → ends (t.finishCmd n 0x21 0 k)) ∧
              (∀ b t, replaceArray (after k).draw c.ctx (l.getD k 0) = (some b, t) → (∀ j, k < j → j < need → fails j = false) →
                filled ((l.drop (k + 1)).foldl (fun (t : State) a => put t.draw a) (put t b)) (l.set k b)))))) ∧
    (∀ (t : State) ctx a b,
      let w := mgetD t.warrays a .initial
      let u := (t.setArray a { w with owner := none }).retireOne (.array a)
      spareOf u (a / Config.arraysPerDie) = some b →
      replaceArray t ctx a = (some b, u.setArray b {
        owner := w.owner, failed := false, calibrated := t.gtime, held := ctx :: (mgetD u.warrays b .initial).held.erase ctx })) ∧
    (∀ c h, mget? s.cmds n = some c → c.kind = .ccommit h →
      (∀ x p, s.handleAt c.ctx h = some x → x.pending = some p →
        let y := { x with
          cur := some { p with num := x.commits + 1 }, pending := none, old := x.cur.toList ++ x.old
          commits := x.commits + 1, rotating := none }
        done (.versionSwitch n) ((((s.setHandle c.ctx h y).finishCmd n 0 0 0).finishCals c.ctx h 0 0).dropOld c.ctx h)) ∧
      ((∀ x, s.handleAt c.ctx h = some x → x.pending = none) → done (.versionSwitch n) (s.finishCmd n 3 0 0))) ∧
    (∀ c j h v, mget? s.cmds n = some c → c.kind = .cmv j → s.handleAt c.ctx j.handle = some h → h.version j.version = some v →
      let put := fun (t : State) (k : CmvJob) => { t with cmds := mset t.cmds n { c with kind := .cmv k } }
      let along := fun k => (k + 1023) / 1024
      (∀ tile, v.degraded = false → tile < along h.kin * along h.n → mget? j.done tile = none →
        let row := 1024 * (tile / along h.n)
        let col := 1024 * (tile % along h.n)
        let sums := (span 0 (min 1024 (h.n - col))).map (fun k => columnSum (fun i => (v.weights.getD ((row + i) * h.n + col + k) 0).toInt)
          (fun i => j.input.toArray.getD (row + i) 0) (min 1024 (h.kin - row)) j.split (s.free + 96 * k))
        let sat := ((span 0 (min 1024 (h.n - col))).filter (fun k => (sums.getD k (0, false, 0)).2.1)).map (col + ·)
        let a := v.arrays.getD tile 0
        let k := mgetD j.discards tile 0 + 1
        done (.arrayPass n tile true) (put { s with free := s.free + 96 * 1024 } { j with
          done := mset j.done tile (sums.map (·.1)).toArray, retries := j.retries + (sums.map (·.2.2)).sum
          satBits := sat.foldl addIndex j.satBits }) ∧
        (k < 3 → done (.arrayPass n tile false)
          (put (s.setArray a { mgetD s.warrays a .initial with calibrated := s.gtime }) { j with discards := mset j.discards tile k })) ∧
        (3 ≤ k → done (.arrayPass n tile false)
          (failArray (put s { j with discards := mdel j.discards tile }) c j.handle j.version tile a))) ∧
      (v.degraded = false → along h.kin * along h.n ≤ j.done.length →
        let y := fun i => (span 0 (along h.kin)).foldl (fun (t : Int) r =>
          t + (mgetD j.done (r * along h.n + i / 1024) #[]).getD (i % 1024) 0) 0
        let out := fun i => if j.fp then (roundCore fp32 Rnd.rne ((Val.ofInt (y i)).mul
          (match v.scales with | some q => fp32.val (q.getD i 0).toNat | none => .fin false 1 0)).1).1 else ((y i) % 2 ^ 32).toNat
        let t := s.spWrite c.core j.out ((span 0 h.n).flatMap (fun i => leBytes 4 (out i)))
        let t := t.spWrite c.core j.stat (leBytes 2 (min j.retries 0xFFFF) ++ leBytes 2 (min (countBits j.satBits h.n) 0xFFFF) ++
          leBytes 4 j.version ++ leBytes ((h.n + 7) / 8) j.satBits)
        done (.cmvComplete n) ((t.finishCmd n 0 0 0).dropOld c.ctx j.handle)) ∧
      (v.degraded = true →
        let tile := (v.arrays.findIdx? (fun a => (mgetD s.warrays a .initial).failed)).getD 0
        let t := s.spWrite c.core j.stat (leBytes 4 0 ++ leBytes 4 j.version ++ leBytes ((h.n + 7) / 8) 0)
        done (.cmvComplete n) ((t.finishCmd n 0x21 0 tile).dropOld c.ctx j.handle))) ∧
    (∀ ctx h tile x v a b, s.handleAt ctx h = some x → x.cur = some v → x.rotating = none → v.degraded = false →
      v.arrays[tile]? = some a → spareOf s (a / Config.arraysPerDie) = some b →
      done (.recalibration ctx h tile) ((s.setArray b { mgetD s.warrays b .initial with
        calibrated := s.gtime, held := ctx :: (mgetD s.warrays b .initial).held.erase ctx }).setHandle ctx h
        { x with rotating := some (tile, b) })) ∧
    (∀ ctx h tile x v b, s.handleAt ctx h = some x → x.cur = some v → x.rotating = some (tile, b) →
      let a := v.arrays.getD tile 0
      let t := s.setArray b { mgetD s.warrays b .initial with owner := some ctx, calibrated := s.gtime }
      let t := t.setArray a { mgetD t.warrays a .initial with owner := none, calibrated := t.gtime }
      done (.rotationSwitch ctx h) ((t.setHandle ctx h
        { x with cur := some { v with arrays := v.arrays.set tile b }, rotating := none }).calDone ctx h tile))

/-- A pseudo-channel's sequencer (R284, R285, R291 to R295, R301, R302, R322, R417): it installs the handler at its queue's
head when the image passed BINST's checks, or fails the command as they did; it starts a handler on a message, or answers an
empty slot with code 1; a handler that ends records its entries of bad residue, writes its reply rows with code and count in
the first quadword, sets normal mode and gives its ticket 0 or code 0x32; a mode switch ends with every bank precharged; and a
normal operation of a stack is paid at once or waits behind those that wait: bank operations within the credit first, then
normal ones, the oldest first of each. What a failed image leaves, which pseudo-channels are a stack's, and which accesses
reach a stack, is log entry 47. -/
def Obligations.BankPoints : Prop :=
  ∀ (s : State) (p n : Nat) (cmd : Cmd) (rest : List Nat),
    let k := s.chanAt p
    let popped := fun (t : State) => t.setChanAt p { t.chanAt p with queue := (t.chanAt p).queue.tail }
    (k.run = none → k.queue = n :: rest → mget? s.cmds n = some cmd →
      (∀ h pa slot, cmd.kind = .binst (.good h) pa slot →
        let t := popped s
        exec (.handlerInstall p) s =
          .next ((t.setChanAt p { t.chanAt p with handlers := mset (t.chanAt p).handlers slot h }).finishCmd n 0 0 0)) ∧
      (∀ code detail pa slot, cmd.kind = .binst (.bad code detail) pa slot →
        exec (.handlerInstall p) s = .next ((popped s).finishCmd n code 0 detail)) ∧
      (∀ pa va slot args reply count, cmd.kind = .bmsg pa va slot args reply count →
        let o := pa % 2 ^ 29
        let run := fun (pages : Nat) => ({
          cmd := n, hart := cmd.hart, slot := slot
          b := Vector.ofFn (fun i : Fin 16 => if i.val = 0 then 0 else if i.val ≤ 7 then args.getD (i.val - 1) 0
            else if i.val = 8 then xword o else 0)
          pcw := 0, count := 0, lo := o / 2 ^ 21 * 2 ^ 21, hi := min (2 ^ 29) (o / 2 ^ 21 * 2 ^ 21 + pages * 2 ^ 21), openRow := none
          reply := [], rows := count, replyAt := reply, arith := [], paid := false } : Run)
        let begun := fun (pages : Nat) => (popped s).setChanAt p { (popped s).chanAt p with run := some (run pages) }
        (mget? k.handlers slot = none → exec (.handlerStart p) s = .next (endHandler (begun 0) p 1)) ∧
        (∀ h, mget? k.handlers slot = some h → (∀ c ∈ s.cmds, c.2.late = [] ∧ ∀ l ∈ c.2.lines,
            l < (p * 2 ^ 29 + (run h.span).lo) / 128 ∨ (p * 2 ^ 29 + (run h.span).hi) / 128 ≤ l) →
          exec (.handlerStart p) s = .next (begun h.span)))) ∧
    (∀ r code pa va slot args reply count, k.run = some r → mget? s.cmds r.cmd = some cmd →
      cmd.kind = .bmsg pa va slot args reply count →
      let code := if code = 0 ∧ r.arith ≠ [] then 6 else code
      let t := r.arith.foldl (fun (t : State) e => t.reportError (some cmd.ctx) 3 2 cmd.gang va.toNat pa e.2 e.1) s
      let u := t.spWrite cmd.core r.replyAt
        (leBytes 8 (code + 2 ^ 16 * r.count) ++ (span 8 (64 * r.rows - 8)).map (fun i => mgetD r.reply i 0))
      let stack := p / 128
      let u := u.setKitty stack { u.kittyAt stack with waiting := (u.kittyAt stack).waiting.filter (fun o => o.chan != some p) }
      endHandler s p code = (u.setChanAt p { u.chanAt p with run := none, allBank := false, switching := none }).finishCmd r.cmd
        (if code = 0 then 0 else 0x32) 0 code) ∧
    (∀ m, k.switching = some m →
      exec (.modeSwitchDone p) s = .next (s.setChanAt p { k with
        allBank := m, switching := none, run := k.run.map (fun r => { r with openRow := none }) })) ∧
    (∀ (columns : Nat) (activate : Bool), p < 12 → 1 ≤ columns → columns ≤ 4 →
      let q := s.kittyAt p
      let ops := (if activate then [(⟨2, false, none⟩ : StackOp)] else []) ++ List.replicate columns ⟨3, false, none⟩
      let cost := (if activate then 2 else 0) + 3 * columns
      let joined := { q with waiting := q.waiting ++ ops }
      exec (.kittyService p cost) s = .next ((s.setKitty p joined).serveStack p) ∧
      (q.waiting = [] → cost ≤ q.level →
        exec (.kittyService p cost) s = .next (s.setKitty p { q with level := q.level - cost })) ∧
      (joined.next? = none → exec (.kittyService p cost) s = .next (s.setKitty p joined))) ∧
    (∀ (q : Kitty) pre o post, q.waiting = pre ++ o :: post →
      let first := fun (o : StackOp) => o.bankOp = true ∧ o.cost ≤ q.credit ∧ o.cost ≤ q.level
      let second := fun (o : StackOp) => o.bankOp = false ∧ o.cost ≤ q.level
      let third := fun (o : StackOp) => o.cost + 4096 ≤ q.level
      (first o → (∀ w ∈ pre, ¬first w) → q.next? = some pre.length) ∧
      ((∀ w ∈ q.waiting, ¬first w) → second o → (∀ w ∈ pre, ¬second w) → q.next? = some pre.length) ∧
      ((∀ w ∈ q.waiting, ¬first w ∧ w.bankOp = true) → third o → (∀ w ∈ pre, ¬third w) → q.next? = some pre.length) ∧
      (∀ n, q.next? = some pre.length →
        let k := { q with
          waiting := pre ++ post, level := q.level - o.cost, credit := if o.bankOp then q.credit - o.cost else q.credit }
        q.serve (n + 1) = (o :: (k.serve n).1, (k.serve n).2)))

/-- The Dovetail instructions (R342 to R348), each a release and an acquire of its hart: lookup, insertion with its eviction
of the least recently used leaf of count 0, counting and status of the context's directory; nothing else changes. The order of
uses, and what counts as one, is log entry 17. -/
def Obligations.Dovetail : Prop :=
  ∀ (s : State) (d a b r : BitVec 5), MayCommit s → (s.x a).toNat < 2 ^ 32 →
    let c := s.committed.order
    let v := c.dove
    let id := (s.x a).toNat
    let at_ := (s.x b).toNat
    let row := (span 0 16).map (fun j => BitVec.ofNat 32 (leNat (memReadN c.core.scratch (at_ + 4 * j) 4)))
    let live := fun k => (mget? v.entries k).isSome
    let hit := if id ≠ 0 ∧ live id = false then none else v.entries.find? (fun e => e.2.parent == id && e.2.tokens == row)
    let now := v.entries.foldl (fun m e => max m e.2.used) 0 + 1
    let put := fun (w : Dove) k e => { w with entries := mset w.entries k e }
    let leaf := fun k => v.entries.all (fun e => e.2.parent != k)
    let entry := mget? v.entries id
    (SpaceRange s (s.x b) 64 64 →
      (∀ k e, hit = some (k, e) → SetsIn (exec (.pdlook d a b r) s)
        ((c.setDove (put v k { e with used := now })).setX d e.page) r (xword k)) ∧
      (hit = none → SetsIn (exec (.pdlook d a b r) s) (c.setX d 0) r 0) ∧
      (s.x r ≠ 0 →
        let ins := fun w (code k : Nat) page => SetsIn (exec (.pdins d a b r) s) ((c.setDove w).setX d (xword (k + code * 2 ^ 32))) r page
        (∀ k e, hit = some (k, e) → if e.count = 0xFFFF then ins v 3 0 0
          else ins (put v k { e with count := e.count + 1, used := now }) 1 k 0) ∧
        (hit = none → id ≠ 0 ∧ live id = false → ins v 2 0 0) ∧
        (hit = none → (id = 0 ∨ live id = true) →
          let fresh : DoveEntry := { parent := id, tokens := row, page := s.x r, count := 1, used := now }
          let add := fun w => { put w v.next fresh with next := v.next + 1 }
          let victims := v.entries.filter (fun e => e.2.count == 0 && leaf e.1 && e.1 != id)
          (2 ^ 32 ≤ v.next → ins v 3 0 0) ∧
          (v.next < 2 ^ 32 → v.entries.length < v.quota → ins (add v) 0 v.next 0) ∧
          (v.next < 2 ^ 32 → v.quota ≤ v.entries.length → victims = [] → ins v 3 0 0) ∧
          (v.next < 2 ^ 32 → v.quota ≤ v.entries.length → ∀ pre k e post, victims = pre ++ (k, e) :: post →
            (∀ x ∈ pre, e.used < x.2.used) → (∀ x ∈ post, e.used ≤ x.2.used) →
            ins (add { v with entries := mdel v.entries k }) 0 v.next e.page)))) ∧
    (∀ e, entry = some e →
      (e.count ≠ 0xFFFF → SetsIn (exec (.pdref d a) s) (c.setDove (put v id { e with count := e.count + 1, used := now })) d
        (xword (e.count + 1))) ∧
      (e.count ≠ 0 → SetsIn (exec (.pdunref d a) s) (c.setDove (put v id { e with count := e.count - 1 })) d
        (xword (e.count - 1)))) ∧
    ((∀ e, entry = some e → e.count = 0xFFFF) → SetsIn (exec (.pdref d a) s) c d (BitVec.allOnes 64)) ∧
    ((∀ e, entry = some e → e.count = 0) → SetsIn (exec (.pdunref d a) s) c d (BitVec.allOnes 64)) ∧
    SetsIn (exec (.pdstat d a) s) c d (if id = 0 then xword (v.entries.length + v.quota * 2 ^ 32) else match entry with
      | none => 0
      | some e => xword (e.count + 2 ^ 16 + (if leaf id then 2 ^ 17 else 0) + e.parent * 2 ^ 32))

/-- The Brixem instructions (R294 to R297, R300, Tables 15.1 and 15.4), run by the sequencer that `bank` names, within its
bound, in the mode and footprint that each needs, once its operations are served (R302), which it waits for without counting:
each counts one, goes to the next word or its branch's target, and changes the run, the bank units, or a quadword of memory;
HALT ends the handler with code 0, and a read of a bad unit, once it has been paid for, ends it with code 5 (R417). What they
do beyond Table 15.4, and the end past a handler's last word, are log entries 47 and 14. -/
def Obligations.Brixem : Prop :=
  ∀ (s : State) (r : Run) (d a b : BitVec 4) (i : BitVec 15) (n : BitVec 6) (m : Bool) (z : BitVec 3),
    let p := s.bank
    let c := s.chanAt p
    let reg := fun j => if j = (0 : BitVec 4) then (0 : XWord) else r.b[j.toNat]
    let x := reg a
    let y := reg b
    let put := fun (q : Run) v => if d = 0 then q else { q with b := q.b.set d.toNat v }
    let goes := fun (j : Instr) (t : State) (k : Chan) (q : Run) (by_ : Int) =>
      exec j s = .next (t.setChanAt p { k with run := some { q with
        count := r.count + 1, pcw := (r.pcw + by_).toNat, paid := false } })
    let sx := i.signExtend 64
    let e := y.toNat % 64
    let row := x.toNat / 2 ^ 15 % 2 ^ 14
    let stack := p / 128
    let kitty := s.kittyAt stack
    -- an instruction that spends: its operations join those that wait, and it takes effect, from the state `u`, once they are served
    let spends := fun (j : Instr) (t : State) (ops : List StackOp) (then_ : State → Prop) =>
      (r.paid = true → then_ s) ∧
      (r.paid = false → (∃ o ∈ kitty.waiting, o.chan = some p) → exec j s = .next s) ∧
      (r.paid = false → (∀ o ∈ kitty.waiting, o.chan ≠ some p) →
        let u := (t.setKitty stack { kitty with waiting := kitty.waiting ++ ops }).serveStack stack
        if (u.chanAt p).run.any (fun r => r.paid) then then_ u else exec j s = .next u)
    -- a read that meets a bad unit has spent, and ends the handler with code 5
    let poisoned := fun (j : Instr) (at_ n : Nat) (t : State) => ∀ u, bankRead t r at_ n = .error u → exec j s = .next (endHandler u p 5)
    c.run = some r → c.switching = none → r.count + 1 ≤ boundOf c r →
    exec .bHalt s = .next (endHandler (s.setChanAt p { c with run := some { r with count := r.count + 1 } }) p 0) ∧
    (∀ j ∈ [(Instr.bLi d i, sx), (.bAdd d a b i, x + y + sx), (.bSub d a b, x - y), (.bAnd d a b, x &&& y),
        (.bShl d a n, x <<< n.toNat), (.bShr d a n, x >>> n.toNat)], goes j.1 s c (put r j.2) 1) ∧
    goes (.bBnz a i) s c r (if x ≠ 0 then i.toInt else 1) ∧ goes (.bBz a i) s c r (if x = 0 then i.toInt else 1) ∧
    goes (.bMode m) s (if m = c.allBank then c else { c with switching := some m }) r 1 ∧
    goes .bAclr s { c with acc := [] } r 1 ∧
    goes (.bAclrEntry b) s { c with acc := c.acc.filter (fun q => q.1 % 64 != e) } r 1 ∧
    goes (.bRout a z) s c { r with reply := putReply r.reply (8 * z.toNat) (leBytes 8 x.toNat) } 1 ∧
    (1 ≤ x.toNat → x.toNat < r.rows →
      let entry := fun k => mgetD c.acc (64 * k + e) .zero
      let bad := fun k => residueBad (entry k)
      goes (.bArd a b) s c { r with
        reply := putReply r.reply (64 * x.toNat) ((span 0 16).flatMap (fun k =>
          leBytes 4 (if bad k then fp32.nan else readBack (entry k))))
        arith := noteArith r.arith e (setOf ((span 0 16).filter bad)) } 1) ∧
    (c.allBank = false →
      let o := (x + sx).toNat
      let at_ := p * 2 ^ 29 + o
      let ops := (if Config.happens s.free then [(⟨2, false, some p⟩ : StackOp)] else []) ++ [⟨3, false, some p⟩]
      o % 8 = 0 → r.lo ≤ o → o + 8 ≤ r.hi →
      ((∀ j, j < 8 → mget? s.badUnits ((at_ + j) / 2) = none) →
        spends (.bLdq d a i) s.draw ops (fun t => goes (.bLdq d a i) t c (put r (xword (leNat (memReadN s.mem at_ 8)))) 1)) ∧
      spends (.bLdq d a i) s.draw ops (poisoned (.bLdq d a i) at_ 8) ∧
      spends (.bStq a b i) s.draw ops (fun t =>
        goes (.bStq a b i) (t.homeWrite 2 (runAgent s r).1 (runAgent s r).2 at_ (leBytes 8 y.toNat)) c r 1)) ∧
    (c.allBank = true →
      goes .bPre s c { r with openRow := none } 1 ∧
      (r.lo ≤ 2 ^ 15 * row → 2 ^ 15 * (row + 1) ≤ r.hi →
          spends (.bAct a) s [⟨24, true, some p⟩] (fun t => goes (.bAct a) t c { r with openRow := some row } 1)) ∧
      (r.openRow = some row →
          let at_ := p * 2 ^ 29 + 2 ^ 15 * row + x.toNat / 2 ^ 9 % 2 ^ 6 * 512
          let value := fun j => BitVec.ofNat 16 (leNat (memReadN s.mem (at_ + 2 * j) 2))
          let good := fun k => ∀ j, j < k → mget? s.badUnits ((at_ + j) / 2) = none
          let n := if m then 32 else 512
          spends (.bXld a m) s [⟨16, true, some p⟩] (poisoned (.bXld a m) at_ n) ∧
          spends (.bMac a b) s [⟨16, true, some p⟩] (poisoned (.bMac a b) at_ 512) ∧
          (good n → spends (.bXld a m) s [⟨16, true, some p⟩] (fun t => goes (.bXld a m) t { c with
            x := (span 0 256).foldl (fun w j => mput 0 w j (value (if m then j % 16 else j))) c.x } r 1)) ∧
          (good 512 → spends (.bMac a b) s [⟨16, true, some p⟩] (fun t => goes (.bMac a b) t { c with
            acc := (span 0 16).foldl (fun w k => mput .zero w (64 * k + e) (accAdd (mgetD c.acc (64 * k + e) .zero)
              ((span 0 16).map (fun j => ((value (16 * k + j)).toNat, (mgetD c.x (16 * k + j) 0).toNat))))) c.acc } r 1))))

/-! ### What the device decides of harts, lanes, gangs and cores -/

/-- Lanes and budgets (R24 to R26, R31, R340): a hart that has held its groups for 4,096 cycles while one of its class or a
higher one waits, or while a timed one does, meets an implicit checkpoint, gives its groups back and joins the waiting ones; a
free group goes to a waiting hart whose free request fits, timed ones first, then the one that came first, then the slot after
the one served last; BUDGET discards the strip and enters its handler with CYB in TV. That a grant starts the 4,096 cycles
afresh, and that every hart that is not timed gives its groups back to one that is, is log entry 56; that the boundary lies
before or after a prefix by a free choice, at trap level 0, is log entry 19; that at trap levels 1 and 2, which have no
checkpoint, the groups go back before a prefix and none is latched, and that the hart then waits as after CLAIM, is log entry
13. -/
def Obligations.LanePoints : Prop :=
  ∀ (s : State) (h core : Nat),
    let f := s.focus h
    let mates := (s.coreAt (h / 8)).laneWait.map (fun w => s.hartAt (8 * (h / 8) + w.1))
    (f.hart.live = .running → f.hart.wait = none → f.hart.undo = none → f.hart.timed = false → queuesEmpty f.regs = true →
      commitWait f = none → lanesHeld (s.coreAt (h / 8)) (h % 8) ≠ 0 →
      (∃ w ∈ mates, w.timed = true) ∨ f.hart.laneSince + 4096 ≤ s.gtime ∧ (∃ w ∈ mates, f.hart.cls.toNat ≤ w.cls.toNat) →
      let m := if f.hart.tl = 0 then latchPrefix f.settle else f.settle
      let c := if f.hart.tl = 0 then m.openStrip m.regs.pc else m
      let k := c.coreAt (h / 8)
      let left := {
        k with
        lanes := k.lanes.map (fun l => if l = some (h % 8) then none else l)
        laneWait := k.laneWait.filter (fun w => w.1 ≠ h % 8) ++ [(h % 8, s.gtime)] }
      exec (.laneHoldExpiry h) s =
        .next (((c.setCoreAt (h / 8) left).setHart { c.hart with wait := some .lanesClaim }).focus s.cur)) ∧
    (∀ (u : State),
      let next := instrAt u u.regs.pc
      (∀ i w, next = some (i, w) → i.isPfx = true → u.regs.pfxValid = false → latchPrefix u = if Config.happens u.free
        then u.draw.setRegs { u.regs with pc := u.regs.pc + 4, pfxFields := w.setWidth 25, pfxValid := true } else u.draw) ∧
      ((∀ i w, next = some (i, w) → i.isPfx = false ∨ u.regs.pfxValid = true) → latchPrefix u = u)) ∧
    (∀ pre w post,
      let k := s.coreAt core
      let hart := fun (x : Nat × Nat) => s.hartAt (8 * core + x.1)
      let rank := fun (x : Nat × Nat) => (x.1 + 7 - k.laneLast % 8) % 8
      let granted := fun n => (s.setCoreAt core (giveLanes k w.1 n)).setHartAt (8 * core + w.1)
        { hart w with wait := none, laneSince := s.gtime, readySince := readyAt s.gtime }
      k.laneWait = pre ++ w :: post →
      ((∀ x ∈ pre, (hart x).timed = false) → (hart w).timed = true →
        (hart w).laneReq - lanesHeld k w.1 ≤ lanesFree k →
        exec (.laneGrant core) s = .next (granted ((hart w).laneReq - lanesHeld k w.1))) ∧
      ((∀ x ∈ k.laneWait, (hart x).timed = false) → lanesFree k ≠ 0 →
        (∀ x ∈ pre, w.2 < x.2 ∨ w.2 = x.2 ∧ rank w < rank x) → (∀ x ∈ post, w.2 < x.2 ∨ w.2 = x.2 ∧ rank w ≤ rank x) →
        exec (.laneGrant core) s = .next (granted (hart w).laneReq))) ∧
    (∀ (k : Core) slot n,
      let q := giveLanes k slot n
      lanesHeld q slot = lanesHeld k slot + min n (lanesFree k) ∧ lanesFree q = lanesFree k - n ∧ q.laneLast = slot ∧
        (∀ j, j ≠ slot → lanesHeld q j = lanesHeld k j) ∧ q.laneWait = k.laneWait.filter (fun w => w.1 ≠ slot)) ∧
    (Traps s → AtConvoy s → s.hart.cyb ≠ 0 → s.hart.stripOpened + s.hart.cyb.toNat ≤ s.gtime →
      ∃ t, exec .budget s = .next t ∧
        EntersTrap s.discard t { code := 0x0B, tv := s.hart.cyb.setWidth 64 } true 0 s.hart.ckpt.pc)

/-- Launches and exits (R41, R76, R222, R224, R255, R276, R356 to R363, R377): an eligible launch that has waited for 2^20
cycles holds back later ones of its class and below; the eligible launch of the highest class, the earliest of them, is placed
at once, each member at its entry point with GTIME in x1 and the launch record's address in x2, its core serving the context
and its local stores reading 0; a core that holds a hart of another context takes none; a member with nothing left to wait for
leaves its gang, and the last one ends it. That SCP reads 0 at a member's start is log entry 58. How a scratchpad request is
rounded, and the free choice of the cores, is log entry 51; how a member exits is log entry 30. -/
def Obligations.Placements : Prop :=
  ∀ (s : State) (ctx : Nat),
    let c := s.ctxAt ctx
    let waiting := c.queues.flatMap (fun q => q.2)
    let overdue := fun (l : Launch) => !l.blocking && l.eligibleAt.any (fun t => decide (t + 2 ^ 20 ≤ s.gtime))
    ((∃ l ∈ waiting, overdue l = true) →
      exec (.launchWaitExpiry ctx) s = .next (s.setCtxAt ctx {
        c with queues := mmap (fun _ q => q.map (fun l => if overdue l then { l with blocking := true } else l)) c.queues })) ∧
    (∀ l places pre post,
      let ready := fun (x : Launch) => (∀ n ∈ x.deps, mget? s.cmds n = none) ∧ fits s ctx x = true ∧
        ∀ b ∈ waiting, b.blocking = true → b.order < x.order → specClass b.spec < specClass x.spec
      let before := fun (x : Launch) => specClass x.spec < specClass l.spec ∨ specClass x.spec = specClass l.spec ∧ l.order < x.order
      let notAfter := fun (x : Launch) =>
        specClass x.spec < specClass l.spec ∨ specClass x.spec = specClass l.spec ∧ l.order ≤ x.order
      let cores := places.map (· / 8)
      waiting = pre ++ l :: post → ready l → (∀ x ∈ pre, ready x → before x) → (∀ x ∈ post, ready x → notAfter x) →
      places.length = specHarts l.spec → places.Nodup → (∀ k ∈ places, k < Config.stewardBase ∧ (s.hartAt k).live = .free) →
      places ≠ [] → (∀ a ∈ cores, ∀ b ∈ cores, a / confineCores (specConfine l.spec) = b / confineCores (specConfine l.spec)) →
      (∀ a ∈ cores, (places.filter (fun k => k / 8 == a)).length ≤ coreRoom s ctx l.spec a) →
      ∃ t g, exec (.gangPlacement ctx places) s = .next t ∧
        mget? t.gangs s.nextGang = some g ∧ g.ctx = ctx ∧ g.size = specHarts l.spec ∧ g.origin = s.gtime ∧ g.record = l.record ∧
        g.exited = [] ∧ g.bars = [] ∧ g.launcher = l.launcher ∧ g.rootHseq = l.rootHseq ∧
        (∀ x ∈ s.gangs, x.2.ctx = ctx → s.gangs.length < 2 ^ 32 - 1 → x.2.gid ≠ g.gid) ∧
        (∀ i k, places[i]? = some k →
          let m := t.hartAt k
          mget? g.members i = some k ∧ m.live = .running ∧ m.regs.pc = specEntry l.spec ∧ m.ctx = ctx ∧ m.gang = s.nextGang ∧
            m.memberIdx = i ∧ m.laneReq = specLanes l.spec ∧ m.timed = specTimed l.spec ∧ m.tl = 0 ∧ m.thb = 0 ∧ m.scp = 0 ∧
            m.ckpt = snapshot m.regs m.regs.pc ∧ m.ordered = s.written.length ∧ (∀ j : Fin 5, m.fenced[j] = s.written.length) ∧
            m.regs = { Regs.initial with
              pc := m.regs.pc, x := ((Vector.replicate 32 (0 : XWord)).set 1 (xword s.gtime)).set 2 l.record }) ∧
        (∀ k, k ∉ places → t.hartAt k = s.hartAt k) ∧
        (∀ a, a ∈ cores →
          let k := t.coreAt a
          k.serves = some ctx ∧ k.lanes = (s.coreAt a).lanes ∧
          (specSp l.spec = 0 → k = { s.coreAt a with serves := some ctx }) ∧
          (specSp l.spec ≠ 0 → k.holder = some s.nextGang ∧ k.request = (specSp l.spec + 4095) / 4096 * 4096 ∧ k.scratch = [] ∧
            k.tenant = some ctx ∧ k.tags = [] ∧ k.acc = [] ∧ k.tflags = [] ∧ k.wbuf = [] ∧ k.keep = 0 ∧ k.dealExpert = 0 ∧
            k.dealRound = 0 ∧ k.dealRunning = false ∧ k.dealSlot = 0)) ∧
        (∀ a, a ∉ cores → t.coreAt a = s.coreAt a) ∧ t.gids = mset s.gids s.nextGang g.gid ∧
        t.ctxAt ctx = { c with queues := mmap (fun _ q => q.filter (fun x => x.order != l.order)) c.queues } ∧
        t = { s with
          hart := t.hart, harts := t.harts, gangs := t.gangs, nextGang := s.nextGang + 1, gids := t.gids, free := s.free + 1
          cores := t.cores, ctxs := t.ctxs }) ∧
    (∀ spec k x, (k, x) ∈ s.allHarts → k < Config.stewardBase → x.live ≠ .free → x.ctx ≠ ctx → coreRoom s ctx spec (k / 8) = 0) ∧
    (∀ h g,
      let m := s.hartAt h
      let core := h / 8
      mget? s.gangs m.gang = some g → m.live = .running → m.wait = some .exit → (∀ t ∈ m.tickets, t.status ≠ none) → m.matrixQ = [] →
      let r := ((s.releaseLeader h 1).releaseLeader h 2).setHartAt h .initial
      let k := r.coreAt core
      let v := r.setCoreAt core {
        k with
        lanes := k.lanes.map (fun l => if l = some (h % 8) then none else l), laneWait := k.laneWait.filter (fun w => w.1 ≠ h % 8) }
      let alone := ∀ x ∈ v.allHarts, x.1 / 8 = core → x.1 < Config.stewardBase → x.2.live ≠ .free → x.2.gang ≠ m.gang
      let out := g.exited ++ [m.memberIdx]
      let ends := fun (w : State) =>
        (out.length ≠ g.size →
          let left := { g with exited := out }
          let due := (mkeys g.bars).filter (fun b => decide ((left.barrier b).completed < left.reached b))
          exec (.memberExit h) s = .next { w with
            gangs := mset w.gangs m.gang left, agenda := due.map (fun b => Turn.own .barrier m.gang b) ++ w.agenda }) ∧
        (out.length = g.size →
          let e := { w with gangs := mdel w.gangs m.gang, transfers := w.transfers.filter (fun t => t.gang != m.gang) }
          let e := match g.launcher with | some l => e.finishCmd l.2 0 0 0 | none => e
          exec (.memberExit h) s = .next (match g.rootHseq with
            | some q =>
              let e := e.statusRecord g.ctx q 3 0
              e.setCtxAt g.ctx { e.ctxAt g.ctx with rootLive := false }
            | none => e))
      (alone ∧ k.holder = some m.gang → ends (v.setCoreAt core { v.coreAt core with holder := none, request := 0 })) ∧
      (¬(alone ∧ k.holder = some m.gang) → ends v))

/-- The ends of waits (R44, R46, R215, R216, R220 to R222, R422): a barrier generation completes when every member still in
the gang has arrived at it, and frees those that wait for it; a hart goes on at its instant; WAITADDR reads again, and
completes once the value has changed, while the same value leaves it waiting, with what its walk has found, the event itself
answering notEnabled (log entry 6); a hart that waits for the vector register file goes on once its context owns it, unless
its declaration was scrubbed and waits for a VRESTORE (R368, Table 21.5), and the event by which the steward serves a VOWN,
giving the file to the waiting hart's context where it does not own it, is the model's choice (log entry 7); a SENDT's rows
are written, with their arrival record, at a receiver that is not stopped; and harts held on a page go on when it has no
leader. That the completion of a barrier is a step of its own is log entry 18. -/
def Obligations.WaitPoints : Prop :=
  ∀ (s : State),
    (∀ gang bar g n, mget? s.gangs gang = some g → (g.barrier bar).completed < n →
      let here := fun m => m < g.size ∧ m ∉ g.exited
      (∀ m, here m → n ≤ mgetD (g.barrier bar).arrived m 0) → (∃ m, here m ∧ mgetD (g.barrier bar).arrived m 0 = n) →
      ∃ t, exec (.barrierComplete gang bar) s = .next t ∧
        t.gangs = mset s.gangs gang { g with bars := mset g.bars bar { g.barrier bar with completed := n } } ∧
        (∀ k, let h := s.hartAt k
          ((h.gang = gang ∧ ∃ j, j ≤ n ∧ h.wait = some (.barrier bar j)) →
            t.hartAt k = { h with wait := none, readySince := readyAt s.gtime }) ∧
          (¬(h.gang = gang ∧ ∃ j, j ≤ n ∧ h.wait = some (.barrier bar j)) → t.hartAt k = h)) ∧
        t = { s with gangs := t.gangs, hart := t.hart, harts := t.harts }) ∧
    (∀ h t, (s.hartAt h).wait = some (.time t) → t ≤ s.gtime →
      exec (.waittInstant h) s = .next (s.setHartAt h { s.hartAt h with wait := none, readySince := instantAt s.gtime })) ∧
    (∀ h d a b sc v,
      let f := s.focus h
      let w := some (Wait.addr d a b sc)
      f.hart.live = .running → f.hart.wait = w → exec (.waitaddr d a b sc) (f.setHart { f.hart with wait := none }) = .next v →
      v.hart.wait ≠ w → exec (.waitaddrWake h) s = .next (v.focus s.cur)) ∧
    (∀ h d a b sc pa,
      let f := s.focus h
      let g := f.setHart { f.hart with wait := none }
      let c := g.committed
      let v := xword (leNat (memReadN c.mem pa 8))
      f.hart.live = .running → f.hart.wait = some (.addr d a b sc) → MayCommit g → OrderedAt c .read (g.x a) 8 sc pa →
      (v ≠ g.x b → ∃ e u, SameButTlb c e ∧ e.hart = c.hart ∧ SetsIn (.next u) e d v ∧ exec (.waitaddrWake h) s = .next (u.focus s.cur)) ∧
      (v = g.x b → ∀ u, orderedAccess c .read (g.x a) 8 sc = .ok (pa, u) →
        (u.agenda = s.agenda → exec (.waitaddrWake h) s = .fault (.notEnabled "WAITADDR_WAKE")) ∧
        (u.agenda ≠ s.agenda →
          exec (.waitaddrWake h) s = .next ((u.setHart { u.hart with wait := some (.addr d a b sc) }).focus s.cur)))) ∧
    (∀ k rest, s.agenda = .own .vownService k 0 :: rest →
      let r := { s with agenda := rest }
      let h := s.hartAt k
      let c := s.coreAt (k / 8)
      let mine := c.owned = true ∧ c.owner.toNat = h.ctx
      h.wait = some .vown →
      (mine → h.scrubbed = true → step s = .next r) ∧ (mine → h.scrubbed = false → step s = .next (r.releaseVown (k / 8) h.ctx)) ∧
      (¬mine → step s = .next ((r.setCoreAt (k / 8) { c with owner := BitVec.ofNat 6 h.ctx, owned := true, clean := false }).releaseVown
        (k / 8) h.ctx))) ∧
    (∀ c x k, let h := s.hartAt k
      let free := k / 8 = c ∧ h.ctx = x ∧ h.wait = some .vown ∧ h.scrubbed = false
      (free → (s.releaseVown c x).hartAt k = { h with wait := none, readySince := readyAt s.gtime }) ∧
      (¬free → (s.releaseVown c x).hartAt k = h)) ∧
    (∀ i t, s.transfers[i]? = some t →
      let h := s.hartAt t.hart
      let mine := h.gang = t.gang ∧ h.memberIdx = t.member ∧ h.live ≠ .free
      let k := s.coreAt t.core
      let u := { s with transfers := s.transfers.eraseIdx i }
      (mine → k.holder = some t.gang → (h.live = .stopped → k.moving ≠ none) →
        let first : Arrival := { slot := t.slot, stamp := t.stamp, count := 1 }
        let records :=
          if h.arrivals.any (fun r => r.slot == t.slot) then
            h.arrivals.map (fun r => if r.slot = t.slot then { r with count := r.count + 1 } else r)
          else if h.arrivals.length < 8 then h.arrivals ++ [first] else h.arrivals
        let put := t.rows.zipIdx.foldl (fun m r => memWriteN m (64 * (t.dst + r.2)) r.1) k.scratch
        ∃ w, exec (.sendtArrival i) s = .next w ∧ (w.coreAt t.core).scratch = put ∧
          (∀ c, w.coreAt c = { s.coreAt c with scratch := (w.coreAt c).scratch }) ∧
          (∀ c, c ≠ t.core → w.coreAt c = s.coreAt c) ∧
          w = { u.setHartAt t.hart { h with arrivals := records } with cores := w.cores }) ∧
      (¬mine → exec (.sendtArrival i) s = .next u)) ∧
    (∀ ctx page, (∀ l ∈ s.leaders, ¬(l.ctx = ctx ∧ l.page = page)) →
      (∃ h ∈ s.allHarts, h.2.wait = some (.page ctx page)) →
      ∃ t, exec (.faultHoldRelease ctx page) s = .next t ∧
        (∀ k, t.hartAt k = if (s.hartAt k).wait = some (.page ctx page)
          then { s.hartAt k with wait := none, readySince := readyAt s.gtime } else s.hartAt k) ∧
        t = { s with hart := t.hart, harts := t.harts })

/-- Cores and time (R9, R44 to R47, R301, R302, R309, R364, R366, R367, R398, R435): a core is moved to another context with
the strips of its harts discarded, or kept where they wait, and only certain waits kept, each hart saved under its context's
key (R375); a prefix that comes next at its PC at trap level 1 or 2 may be latched (R116); while a gang keeps local stores
there, they are saved first, and put back when the core serves their context again, under the context's key alone; a core that
is retired runs no context's harts (R434; log entry 53); and a cycle advances GTIME, refills the kitties as the throttle step
allows and has each serve what it can, makes every array due 1 s after its last calibration, and changes nothing else that a
hart computes with. Which waits and strips a stop keeps is log entry 19, the saving of local stores log entry 20, and the
recalibration log entry 46. -/
def Obligations.CoreMoves : Prop :=
  ∀ (s : State) (core ctx : Nat),
    let k := s.coreAt core
    let on := fun (c j : Nat) (h : Hart) => j / 8 == core && h.ctx == c && !h.steward && h.live != .free
    let saved := fun (h : Hart) => match h.wait with
      | some .lanesClaim => true
      | some (.time _) => true
      | some (.barrier ..) => true
      | some .ticket => true
      | some .matrix => true
      | some (.bankMode ..) => true
      | some .exit => true
      | _ => false
    let inside := fun (h : Hart) => match h.wait with
      | some .lanesClaim => true
      | some (.bankMode ..) => true
      | some (.page ..) => true
      | some .vown => true
      | _ => false
    let stops := fun (h h' : Hart) =>
      h'.live = .stopped ∧ h'.sealed = some (s.ctxAt h.ctx).key ∧ h'.undo = none ∧ h'.wait = (if saved h = true then h.wait else none) ∧
        (h.tl = 0 ∧ inside h = false → h'.regs = discardRegs h h.regs ∧ h'.early = false ∧ h'.stripOpened = 0) ∧
        (h.tl ≠ 0 ∨ inside h = true → h'.early = h.early ∧ h'.stripOpened = s.gtime - h.stripOpened ∧
          (∀ d x vl vr, h.wait = some (.lanesSetvl d x vl vr) →
            h'.regs = writeX { h.regs with pc := h.regs.pc - 4, vl := vl, vr := vr } d x) ∧
          ((∀ d x vl vr, h.wait ≠ some (.lanesSetvl d x vl vr)) → h'.regs = h.regs)) ∧
        h' = { h with
          live := .stopped, sealed := h'.sealed, undo := none, stripOpened := h'.stripOpened, wait := h'.wait, regs := h'.regs
          early := h'.early }
    -- the machine when hart j comes to be stopped: others may have latched a prefix before it, each by a free choice
    let turnOf := fun (j : Nat) (u : State) => s.free ≤ u.free ∧ u.hartAt j = s.hartAt j ∧
      (∀ i, u.hartAt i = { s.hartAt i with regs := (u.hartAt i).regs }) ∧ u = { s with free := u.free, hart := u.hart, harts := u.harts }
    let goesOn := fun (h : Hart) => { h with live := .running, sealed := none, stripOpened := s.gtime - h.stripOpened, readySince := readyAt s.gtime }
    let ofCtx := fun (c g : Nat) => (mget? s.gangs g).any (fun x => x.ctx == c)
    let comes := fun (c j : Nat) (h : Hart) => on c j h = true ∧ h.live = .stopped ∧ h.sealed = some (s.ctxAt c).key
    let mine := fun (c : Nat) (i : LocalImage) => ofCtx c i.gang = true ∧ i.key = (s.ctxAt c).key
    let served := fun (k : Core) (c : Nat) (k' : Core) =>
      (∀ w, w ∈ k'.laneWait ↔ w ∈ k.laneWait ∨
        ∃ x ∈ s.allHarts, comes c x.1 x.2 ∧ x.2.wait = some .lanesClaim ∧ w = (x.1 % 8, s.gtime)) ∧
        (∀ pre i post, k.saved = pre ++ i :: post → (∀ x ∈ pre, ¬mine c x) → mine c i →
          k' = { k with
            serves := some c, moving := none, laneWait := k'.laneWait, holder := some i.gang, tenant := some c, request := i.request
            scratch := i.scratch, tags := i.tags, acc := i.acc, tflags := i.tflags, wbuf := i.wbuf, keep := i.keep
            dealExpert := i.dealExpert, dealRound := i.dealRound, dealRunning := i.dealRunning, dealSlot := i.dealSlot
            saved := k.saved.filter (fun x => x.gang != i.gang) }) ∧
        ((∀ i ∈ k.saved, ¬mine c i) → k' = { k with serves := some c, moving := none, laneWait := k'.laneWait })
    (k.serves ≠ some ctx → k.moving = none → k.retired = false → core < 768 → ctx < 64 → (s.ctxAt ctx).state = .run →
      (s.ctxAt ctx).pending = [] → (∀ g ∈ s.gangs, g.2.timed = true → ∀ m ∈ g.2.members, m.2 / 8 ≠ core) →
      (∀ p, k.serves = some p → ∀ x ∈ s.allHarts, on p x.1 x.2 = true → x.2.timed = false ∧ x.2.undo = none) →
      ∃ t, exec (.coreSwitch core ctx) s = .next t ∧
        let holding := k.holder ≠ none
        (∀ j p, k.serves = some p → on p j (s.hartAt j) = true →
          let h := s.hartAt j
          ∃ u, turnOf j u ∧ stops (if h.tl ≠ 0 ∧ h.wait = none then (latchPrefix (u.asHart j)).hart else h) (t.hartAt j)) ∧
        (∀ j, (∀ p, k.serves = some p → on p j (s.hartAt j) = false) →
          let h := s.hartAt j
          (holding → t.hartAt j = h) ∧
          (¬holding → t.hartAt j = if comes ctx j h then goesOn h else h)) ∧
        (∀ c, c ≠ core → t.coreAt c = s.coreAt c) ∧
        (let slots := ((mkeys s.allHarts).filter (fun j => k.serves.any (fun p => on p j (s.hartAt j)))).map (· % 8)
         let waits := k.laneWait.filter (fun w => !slots.contains w.1)
         (holding → t.coreAt core = { k with lanes := (t.coreAt core).lanes, laneWait := waits, moving := some ctx }) ∧
         (¬holding → served { k with lanes := (t.coreAt core).lanes, laneWait := waits } ctx (t.coreAt core))) ∧
        (∀ l : Fin 4,
          let lost := ∃ p j, k.serves = some p ∧ on p j (s.hartAt j) = true ∧ k.lanes[l] = some (j % 8)
          (lost → (t.coreAt core).lanes[l] = none) ∧ (¬lost → (t.coreAt core).lanes[l] = k.lanes[l])) ∧
        t = { s with hart := t.hart, harts := t.harts, cores := t.cores, free := t.free }) ∧
    (∀ q n g, k.moving = some q → k.holder = some n → mget? s.gangs n = some g → storesBusy s core = false →
      ∃ t, exec (.localStoreSave core) s = .next t ∧
        (let image : LocalImage := {
          gang := n, key := (s.ctxAt g.ctx).key, request := k.request, scratch := k.scratch, tags := k.tags, acc := k.acc
          tflags := k.tflags, wbuf := k.wbuf, keep := k.keep, dealExpert := k.dealExpert, dealRound := k.dealRound
          dealRunning := k.dealRunning, dealSlot := k.dealSlot }
         let left := { k with
          holder := none, tenant := none, request := 0, scratch := [], tags := [], acc := [], tflags := [], wbuf := [], keep := 0
          dealExpert := 0, dealRound := 0, dealRunning := false, dealSlot := 0, saved := k.saved ++ [image] }
         let runs := (s.ctxAt q).state = .run ∧ (s.ctxAt q).pending = [] ∧ k.retired = false
         (runs → served left q (t.coreAt core)) ∧ (¬runs → t.coreAt core = { left with serves := none, moving := none }) ∧
         ∀ j, t.hartAt j = if runs ∧ comes q j (s.hartAt j)
          then goesOn (s.hartAt j) else s.hartAt j) ∧
        (∀ c, c ≠ core → t.coreAt c = s.coreAt c) ∧
        t = { s with hart := t.hart, harts := t.harts, cores := t.cores }) ∧
    (∃ t more, exec .coreCycle s = .next t ∧ t.gtime = s.gtime + 1 ∧ t.agenda = s.agenda ++ more ∧
      (∀ h x w, (h, x) ∈ s.allHarts → x.live = .running → x.wait = some (.time w) → w ≤ s.gtime + 1 → Turn.own .waitt h 0 ∈ more) ∧
      (∀ i x w, s.transfers[i]? = some x → x.due = some w → w ≤ s.gtime + 1 → Turn.own .sendt i 0 ∈ more) ∧
      (∀ e ∈ Config.outside (s.gtime + 1), outsideEvent e = true → Turn.event e ∈ more) ∧
      (∀ c, (s.coreAt c).laneWait ≠ [] → c ∈ mkeys s.cores → Turn.own .laneGrant c 0 ∈ more) ∧
      (∀ p, let n := 16 - s.dev.throttleStep.toNat
        let filled := fun (st : Nat) => { s.kittyAt st with
          level := min 65536 ((s.kittyAt st).level + 10 * n), credit := min 4096 ((s.kittyAt st).credit + 7 * n) }
        let done := fun (st : Nat) => (filled st).serve (filled st).waiting.length
        t.kittyAt p = (done p).2 ∧
        t.chanAt p = { s.chanAt p with run := (t.chanAt p).run } ∧
        ((∃ st, (∃ o ∈ (done st).1, o.chan = some p) ∧ ∀ o ∈ (done st).2.waiting, o.chan ≠ some p) →
          (t.chanAt p).run = (s.chanAt p).run.map (fun r => { r with paid := true })) ∧
        ((∀ st, (∀ o ∈ (done st).1, o.chan ≠ some p) ∨ ∃ o ∈ (done st).2.waiting, o.chan = some p) →
          (t.chanAt p).run = (s.chanAt p).run)) ∧
      (∀ a w, mget? t.warrays a = some w → ∃ v, mget? s.warrays a = some v ∧
        (w = v ∨ w = { v with calibrated := s.gtime + 1 } ∧ v.failed = false ∧ v.calibrated + 1250000000 ≤ s.gtime + 1)) ∧
      (∀ c x h y v tile a, (c, x) ∈ s.ctxs → (h, y) ∈ x.handles → y.cur = some v → v.arrays[tile]? = some a →
        calibrationDue { s with gtime := s.gtime + 1 } a = true → Turn.own .recalibrate (c + 64 * h) tile ∈ more) ∧
      (∀ c, t.coreAt c = { s.coreAt c with servedVec := (t.coreAt c).servedVec, servedOther := (t.coreAt c).servedOther }) ∧
      (∀ c, t.ctxAt c = { s.ctxAt c with queues := (t.ctxAt c).queues }) ∧
      t = { s with
        gtime := t.gtime, agenda := t.agenda, free := t.free, chans := t.chans, kitties := t.kitties, cores := t.cores, ctxs := t.ctxs
        warrays := t.warrays })

/-! ### Contexts -/

/-- The ends of kills, releases and entries to Error (R231, R379, R400, R409, R427, R434), once no started work of the context
is left: the scrub, with the resources of `bad` that do not read back retired, unless they were; the records SCRUB, then KILL,
then TDISTATE; and Error, or Free with nothing granted, the error queue erased and no hart waiting for a kill. An
uncorrectable error of a core's structures kills the context that holds them; one in a dirty cache line leaves poison there,
with its error record; one in a translation cache drops the entry (R403 to R405). The order of the work that waits, and that a
release ends the kills asked for meanwhile, is log entry 21, what a patrol finds is log entry 23, and what the scrub of a
resource covers log entry 53. The order of the work that waits is log entry 21, what a patrol finds is log entry 23, and what
the scrub of a resource covers log entry 53. -/
def Obligations.ContextEnds : Prop :=
  ∀ (s : State) (ctx : Nat) (bad : List Nat), ctx < 64 →
    let c := s.ctxAt ctx
    let gone := (bad.eraseDups.map Resource.of).filter (fun r => scrubCovers s ctx r && !isRetired s r)
    let queue := c.errBase + 16384 ≤ Config.auditBase ∨ Config.auditBase + Config.auditBytes ≤ c.errBase
    let retired := fun (t : State) =>
      t.dev.retiredCores = s.dev.retiredCores + (gone.filter (fun r => match r with | .core _ => true | _ => false)).length ∧
      t.dev.retiredSlots = s.dev.retiredSlots + (gone.filter (fun r => match r with | .slot _ => true | _ => false)).length ∧
      t.dev.retiredArrays = s.dev.retiredArrays + (gone.filter (fun r => match r with | .array _ => true | _ => false)).length ∧
      (∀ f, f ∈ t.dev.retiredFrames ↔ f ∈ s.dev.retiredFrames ∨ Resource.frame f ∈ gone) ∧
      (∀ k, Resource.core k ∈ gone → (t.coreAt k).retired = true) ∧ (∀ p, Resource.slot p ∈ gone → (t.chanAt p).retired = true)
    let errs := c.state = .locked ∨ c.state = .run
    let record := fun (n d : Nat) => (n, ctx, BitVec.ofNat 368 d)
    let tdi := if errs then [record 6 3] else []
    let state := if errs then CtxState.error else c.state
    ((∀ x ∈ s.cmds, x.2.ctx ≠ ctx) →
      (∀ cause reason pc value gid m rest, c.pending = .kill cause reason pc value gid m :: rest →
        ∃ t, exec (.killScrub ctx bad) s = .next t ∧ Scrubbed s t ctx (fun _ => False) ∧ retired t ∧
          Audited s t ([record 3 gone.length,
            record 4 (cause + 2 ^ 8 * reason + 2 ^ 16 * pc + 2 ^ 80 * value + 2 ^ 144 * gid + 2 ^ 176 * m)] ++ tdi) ∧
          (t.ctxAt ctx).state = state ∧ (t.ctxAt ctx).pending = rest.filter (· ≠ .error) ∧
          (∀ h ∈ t.allHarts, h.2.wait ≠ some (.kill ctx)) ∧ t.agenda = s.agenda ∧ t.gtime = s.gtime) ∧
      (∀ rest, c.pending = .release :: rest → queue →
        ∃ t, exec (.releaseScrub ctx bad) s = .next t ∧ Scrubbed s t ctx (fun a => c.errBase ≤ a ∧ a < c.errBase + 16384) ∧ retired t ∧
          (∀ i, i < 16384 → memRead t.mem (c.errBase + i) = 0) ∧
          Audited s t [record 3 gone.length, record 6 0] ∧
          t.ctxAt ctx = { Ctx.initial with status := c.status, lastHseq := c.lastHseq, lastDseq := c.lastDseq } ∧
          (∀ a ∈ t.warrays, a.2.owner ≠ some ctx) ∧ (∀ p ∈ slotsOf s ctx, (t.chanAt p).dedicated = none) ∧
          (∀ h ∈ t.allHarts, h.2.wait ≠ some (.kill ctx)) ∧
          t.dev.response = .tdispOk ctx ∧ t.agenda = s.agenda ∧ t.gtime = s.gtime) ∧
      (∀ rest, c.pending = .error :: rest →
        ∃ t, exec (.errorEntryDone ctx) s = .next t ∧ Audited s t tdi ∧
          t.ctxAt ctx = { c with state := state, pending := rest.filter (· ≠ .error) } ∧ (∀ k, k ≠ ctx → t.ctxAt k = s.ctxAt k) ∧
          (Memory.wf s.mem = true → ∀ a, ¬InAudit a → memRead t.mem a = memRead s.mem a) ∧
          t = { s with
            ctxs := t.ctxs, mem := t.mem, written := t.written, badUnits := t.badUnits
            dev := { s.dev with chain := t.dev.chain, next := t.dev.next } })) ∧
    (∀ code target flag,
      let done := fun t => exec (.patrol code target flag) s = .next t
      let killed := fun v gid m => done (s.killContext v 0 2 0 (xword code) gid m)
      let k := s.coreAt target
      let h := s.hartAt target
      (code = 1 → k.owned = true → (∃ x ∈ s.allHarts, x.1 / 8 = target ∧ x.1 < Config.stewardBase ∧ x.2.live ≠ .free ∧
        x.2.ctx = k.owner.toNat ∧ x.2.vn * x.2.vlmax ≠ 0) → killed k.owner.toNat 0 0) ∧
      (code = 2 ∨ code = 3 → h.live ≠ .free → h.steward = false → killed h.ctx (s.gidOf h.gang).toNat h.memberIdx) ∧
      (4 ≤ code → code ≤ 7 → ∀ n g, k.holder = some n → mget? s.gangs n = some g → killed g.ctx 0 0) ∧
      (code = 8 ∨ code = 9 → flag = 0 → done s) ∧
      (code = 8 ∨ code = 9 → flag ≠ 0 →
        let u := target / 8 * 4
        let b := (span u 4).foldl (fun m i => mset m i 3) s.badUnits
        done ({ s with badUnits := b }.reportError (ownerOf s (2 * u)) 1 3 0 0 (2 * u) 0 0)) ∧
      (code = 10 → done s) ∧ (code = 11 → done { s with tlb := s.tlb.eraseIdx target }))

/-- What begins a release or an entry to Error (R379, R424 to R427): STOP_INTERFACE and an FLR of a context that is not Free
(one of a Free context answers without effect, log entry 28), an IDE integrity failure, a TDISP violation, and a host link
that fails or is reset stop the context, and its release or its entry to Error joins the work that waits (log entry 21); the
links' registers follow the links, the host link returns after 100 ms only once it has failed, and a peer port that stays out
of L0 for 100 ms fails. How a link comes back, and in which order the two ends act, is log entry 52. -/
def Obligations.LinksAndStops : Prop :=
  ∀ (s : State) (ctx link : Nat),
    let c := s.ctxAt ctx
    let d := s.dev
    let bit : BitVec 8 := 1 <<< (link - 1)
    let freed := fun (t : State) =>
      ∀ k, t.hartAt k = if (s.hartAt k).wait = some .link then { s.hartAt k with wait := none, readySince := readyAt s.gtime } else s.hartAt k
    (∀ i ∈ [Instr.stopInterface ctx, .flr ctx],
      (63 < ctx → exec i s = .next { s with dev := { d with response := .tdispError ctx } }) ∧
      (ctx ≤ 63 → .release ∈ c.pending → exec i s = .next s) ∧
      (ctx ≤ 63 → .release ∉ c.pending → c.state = .free → exec i s = .next { s with dev := { d with response := .tdispOk ctx } }) ∧
      (ctx ≤ 63 → .release ∉ c.pending → c.state ≠ .free →
        ∃ t, exec i s = .next t ∧ ContextStops s t ctx ∧ (t.ctxAt ctx).pending = c.pending ++ [.release] ∧
          (t.ctxAt ctx).killed = c.killed)) ∧
    (∀ i ∈ [Instr.ideIntegrityFailure ctx, .tdispViolation ctx],
      ((c.state = .locked ∨ c.state = .run) → c.pending = [] →
        ∃ t, exec i s = .next t ∧ ContextStops s t ctx ∧ (t.ctxAt ctx).pending = [.error] ∧ (t.ctxAt ctx).killed = c.killed) ∧
      (¬((c.state = .locked ∨ c.state = .run) ∧ c.pending = []) → exec i s = .next s)) ∧
    (let hit := fun k => ((s.ctxAt k).state = .locked ∨ (s.ctxAt k).state = .run) ∧ (s.ctxAt k).pending = []
     let lost := fun (u : Device) (t : State) =>
      t.dev = { u with ideKeys := [], hostFailed := true } ∧
      (∀ k, (hit k → t.ctxAt k = { s.ctxAt k with queues := [], rootLive := false, hostVisible := false, pending := [.error] }) ∧
        (¬hit k → t.ctxAt k = s.ctxAt k)) ∧
      (∀ j, let h := s.hartAt j
        (HartOf h.ctx h ∧ hit h.ctx → t.hartAt j = { h with
          live := .stopped, regs := if h.tl = 0 then discardRegs h h.regs else h.regs, undo := none, matrixQ := [], wait := none
          issueAt := none }) ∧
        (¬(HartOf h.ctx h ∧ hit h.ctx) → t.hartAt j = h)) ∧
      (∀ g, g ∈ t.gangs ↔ g ∈ s.gangs ∧ ¬hit g.2.ctx) ∧
      t = { s with
        hart := t.hart, harts := t.harts, gangs := t.gangs, leaders := t.leaders, cmds := t.cmds, ctxs := t.ctxs, dev := t.dev }
     (∀ w, mget? d.linksDown 0 = some w → w + 125000000 ≤ s.gtime → d.hostFailed = false → ∃ t, exec .hostLinkFail s = .next t ∧ lost d t) ∧
     ∃ t, exec .hostLinkReset s = .next t ∧ lost { d with linksDown := mset d.linksDown 0 s.gtime, hostUp := false } t) ∧
    (link ≤ 8 → mget? d.linksDown link = none → (link = 0 ∨ d.pfail.getLsbD (link - 1) = false) →
      exec (.linkDown link) s = .next { s with dev := { d with
        linksDown := mset d.linksDown link s.gtime, hostUp := if link = 0 then false else d.hostUp
        peersUp := if link = 0 then d.peersUp else d.peersUp &&& ~~~bit } }) ∧
    (∀ w, mget? d.linksDown link = some w → s.gtime < w + 125000000 ∨ link = 0 ∧ d.hostFailed = true →
      ∃ t, exec (.linkRetrained link) s = .next t ∧ freed t ∧
        t = { s with hart := t.hart, harts := t.harts, dev := { d with
          linksDown := mdel d.linksDown link, hostUp := if link = 0 then true else d.hostUp
          hostFailed := if link = 0 then false else d.hostFailed
          peersUp := if link = 0 then d.peersUp else d.peersUp ||| bit
          retrain := if d.retrain = 0xFFFF then d.retrain else d.retrain + 1 } }) ∧
    (∀ port w, port < 8 → mget? d.linksDown (1 + port) = some w → w + 125000000 ≤ s.gtime →
      ∃ t, exec (.peerPortFail port) s = .next t ∧ freed t ∧
        t = { s with hart := t.hart, harts := t.harts, dev := { d with
          linksDown := mdel d.linksDown (1 + port), pfail := d.pfail ||| (1 <<< port) } })

/-- A context's interface (R352, R353, R369, R375 to R377, R384, R428, R429, R431, R433, R434, R445): LOCK_INTERFACE puts the
reserved grant in force with a fresh ASID and key, its error queue erased, its frame table and page tables written, and the
records CTXCREATE and TDISTATE; START_INTERFACE enters Run; an interface in another state answers with an error; a start whose
record can be read now is accepted, with its context block and its launch, or refused with the code of Table 26.3 (5 too where
its second half has no canonical address, R92), and waits while it cannot, or while the host's link is down (R424); one whose
block would go where the context may not write is refused (R97); bad units that its reads find are recorded. Which frames,
addresses and places the grant has is log entry 25; how the record is read is log entry 28, and that its walk uses no cache
log entry 57. -/
def Obligations.Interfaces : Prop :=
  ∀ (s : State) (ctx : Nat), ctx < 64 →
    let c := s.ctxAt ctx
    let answer := fun (t : State) r => { t with dev := { t.dev with response := r } }
    let reserve := 524288 - ((s.dev.next.toNat : Int) - s.dev.floor.toNat) ≤ 1024
    let may := c.pending = [] ∧ ¬reserve
    let record := fun (n d : Nat) => (n, ctx, BitVec.ofNat 368 d)
    let live := c.state = .locked ∨ c.state = .run
    (∀ g, c.reserved = some g → c.state = .free → may → booted s = true → grantMet s ctx g = true → s.ctxs.length < 65535 →
      ∃ t, exec (.lockInterface ctx) s = .next t ∧ t.dev.response = .tdispOk ctx ∧
        (let k := t.ctxAt ctx
         k = { Ctx.initial with
          state := .locked, asid := k.asid, key := Config.ctxKey s.free, grant := some g, errBase := k.errBase
          dove := { entries := [], next := 1, quota := g.dvq } } ∧
         k.asid ≠ 0 ∧ (∀ x ∈ s.ctxs, x.2.state ≠ .free → x.2.asid ≠ k.asid) ∧
         Audited s t [record 2 (k.asid.toNat + 2 ^ 16 * g.frames.length + 2 ^ 48 * g.slots.length + 2 ^ 64 * g.arrays +
          2 ^ 80 * g.dvq + 2 ^ 112 * g.nhvis + 2 ^ 144 * g.peers.toNat), record 6 1] ∧
         (Memory.wf s.mem = true → ∀ a, ¬InAudit a → memRead t.mem a = memRead
          ((frameTable g ++ stewardMappings ctx g).foldl (fun m e => memWriteN m e.1 (leBytes 8 e.2)) (memZero s.mem k.errBase 16384)) a)) ∧
        (∀ p, (t.chanAt p).dedicated = if p ∈ g.slots then some ctx else (s.chanAt p).dedicated) ∧
        (∀ x, x ≠ ctx → t.ctxAt x = s.ctxAt x) ∧
        t = { s with
          ctxs := t.ctxs, dev := t.dev, mem := t.mem, written := t.written, badUnits := t.badUnits, chans := t.chans
          warrays := t.warrays, free := s.free + 2 }) ∧
    (c.reserved = none ∨ c.state ≠ .free ∨ ¬may ∨ booted s = false ∨ (∃ g, c.reserved = some g ∧ grantMet s ctx g = false) →
      exec (.lockInterface ctx) s = .next (answer s (.tdispError ctx))) ∧
    (c.state = .locked → may →
      ∃ t, exec (.startInterface ctx) s = .next t ∧ t.dev.response = .tdispOk ctx ∧ Audited s t [record 6 2] ∧
        t.ctxAt ctx = { c with state := .run, hostVisible := true } ∧ (∀ x, x ≠ ctx → t.ctxAt x = s.ctxAt x) ∧
        (Memory.wf s.mem = true → ∀ a, ¬InAudit a → memRead t.mem a = memRead s.mem a) ∧
        t = { s with ctxs := t.ctxs, dev := t.dev, mem := t.mem, written := t.written, badUnits := t.badUnits }) ∧
    (c.state ≠ .locked ∨ ¬may → exec (.startInterface ctx) s = .next (answer s (.tdispError ctx))) ∧
    exec (.getDeviceInterfaceState ctx) s = .next (answer s (.tdiState ctx c.state)) ∧
    (live → exec (.getDeviceInterfaceReport ctx) s = .next (answer s (.tdiReport ctx 65536))) ∧
    (¬live → exec (.getDeviceInterfaceReport ctx) s = .next (answer s (.tdispError ctx))) ∧
    (∀ q,
      (¬live ∨ c.pending ≠ [] → exec (.start ctx q) s = .next s) ∧
      (live → c.pending = [] → s.waiting ≠ [] ∨ (Outside.start ctx q).held s = true →
        exec (.start ctx q) s = .next { s with waiting := s.waiting ++ [(s.gtime, .start ctx q)] }) ∧
      (live → c.pending = [] → s.waiting = [] → (Outside.start ctx q).held s = false →
        let b := s.setCtxAt ctx { c with startHseq := q }
        let refused := fun code => exec (.start ctx q) s = .next (b.statusRecord ctx q 2 code)
        let run := c.state = .run
        let va := sext 57 (xword (64 * c.startAddr.toNat))
        let spec := fun bs => BitVec.ofNat 512 (leNat bs)
        let bad := fun bs => specBad (spec bs) = true ∨ ∃ d ∈ specDeps (spec bs), d ≠ 0
        (c.state = .locked → refused 1) ∧
        (run → q ≠ c.lastHseq + 1 → refused 2) ∧
        (run → q = c.lastHseq + 1 → c.rootLive = true → refused 3) ∧
        (run → q = c.lastHseq + 1 → c.rootLive = false → reserve → refused 4) ∧
        (run → q = c.lastHseq + 1 → c.rootLive = false → ¬reserve →
          let one := readRecord s ctx va 64
          let two := readRecord s ctx (va + 64) 64
          let met := b.foundBad 0 0 (one.2 ++ two.2)
          let m := met.ctxAt ctx
          (canonical (va + 64) = false ∨ one.1 = none ∨ two.1 = none → exec (.start ctx q) s = .next (met.statusRecord ctx q 2 5)) ∧
          (∀ bs pa cs pb, one.1 = some (bs, pa) → two.1 = some (cs, pb) →
            let may := ∃ g, c.grant = some g ∧ mayMap g (pb / 4096 * 4096) 4096 = .ok ()
            (¬may → exec (.start ctx q) s = .next (met.statusRecord ctx q 2 5)) ∧
            (may → bad bs → exec (.start ctx q) s = .next (met.statusRecord ctx q 2 6)) ∧
            (may → ¬bad bs →
              let l : Launch := {
                spec := spec bs, record := va, launcher := none, rootHseq := some q, deps := [], acceptedAt := s.gtime
                order := s.nextCmd, blocking := false, eligibleAt := none }
              let qn := launchQueue c (specClass l.spec)
              let first : StatusRec := { dseq := c.lastDseq + 1, hseq := q, kind := 1, code := 0, gtime := xword s.gtime }
              ∃ t, exec (.start ctx q) s = .next t ∧ t.ctxAt ctx = { c with
                  startHseq := q, lastHseq := q, rootLive := true, queues := mset c.queues qn (mgetD c.queues qn [] ++ [l])
                  status := (first :: c.status).take 16, lastDseq := c.lastDseq + 1, errLast := m.errLast } ∧
                (∀ g, c.grant = some g → t.mem = memWriteN met.mem (pb + 8) (contextBlock g)) ∧
                (∀ x, x ≠ ctx → t.ctxAt x = met.ctxAt x) ∧
                t = { met with
                  ctxs := t.ctxs, nextCmd := s.nextCmd + 1, mem := t.mem, written := t.written, badUnits := t.badUnits })))))

/-! ### The device and its host -/

/-- Reset, boot, attestation and power (R369, R370, R373, R374, R382, R386, R431, R435): a device reset keeps only what lies
outside the package and opens the next boot epoch; each boot stage is measured before it is verified, and the boot stops at
the first that fails; requests of the exchange answer in their order, with the options of Table 22.1, GET_MEASUREMENTS with
the eight slots; the capability structures report the options that Table 22.1 names and no other; a change of the power limit
does not pass the host's writes that wait (R250), nor a host link that is down (R424); and the throttle rises while a window
passes the limit. What a reset keeps is log entry 24, the window of the power limit log entry 26, and the bytes that only SPDM
lays out log entry 27. -/
def Obligations.DeviceEvents : Prop :=
  ∀ (s : State),
    let d := s.dev
    let done := fun (i : Instr) (t : State) => exec i s = .next t
    let ext := fun (i : Fin 8) (digest : List Byte) => BitVec.ofNat 512 (leNat (shake256 (leBytes 64 d.ms[i].toNat ++ digest) 64))
    let reserve := 524288 - ((d.next.toNat : Int) - d.floor.toNat) ≤ 1024
    (∀ i ∈ [Instr.deviceReset, .d3cold],
      ∃ t, done i t ∧ (∀ a, a < Config.deviceBytes → memRead t.mem a = 0) ∧
        (Memory.wf s.mem = true → ∀ a, Config.deviceBytes ≤ a → memRead t.mem a = memRead s.mem a) ∧
        (let e := if d.epoch = 0xFFFFFF then d.epoch else d.epoch + 1
         let first : XWord := (e.setWidth 64) <<< 40
         t.dev = { Device.initial with
          epoch := e, epochSpent := decide (d.epoch = 0xFFFFFF), floor := first, next := first, ack := first, exported := first }) ∧
        t = { State.reset with dev := t.dev, mem := t.mem, badUnits := t.badUnits, free := s.free }) ∧
    done .d3hotRequest s ∧
    (∀ img ok, d.bootResult = 0 → d.stage ≤ 6 →
      let stops := fun (m : Vector (BitVec 512) 8) (r : BitVec 2) =>
        { s with dev := { d with ms := m, bootStage := BitVec.ofNat 3 d.stage, bootResult := r } }
      let measured := Vector.ofFn (fun j : Fin 8 => if j.val = d.stage then ext j (shake256 img 64) else d.ms[j])
      done (.bootStage img false ok) (stops d.ms 3) ∧
      (ok = false ∨ d.stage = 3 ∧ d.epochSpent = true → done (.bootStage img true ok) (stops measured 2)) ∧
      (ok = true → ¬(d.stage = 3 ∧ d.epochSpent = true) → d.stage < 6 →
        done (.bootStage img true ok) { s with dev := { d with ms := measured, stage := d.stage + 1 } }) ∧
      (ok = true → d.stage = 6 →
        ∃ t digest, done (.bootStage img true ok) t ∧ digest.length = 64 ∧
          t.dev.ms = Vector.ofFn (fun j : Fin 8 => if j.val = 7 then ext 7 digest else measured[j]) ∧ t.dev.bootResult = 1 ∧
          Audited s t [(1, 0, BitVec.ofNat 368 (leNat (shake256 (t.dev.ms.toList.flatMap (fun m => leBytes 64 m.toNat)) 46)))] ∧
          (Memory.wf s.mem = true → ∀ a, ¬InAudit a → memRead t.mem a = memRead s.mem a) ∧
          t = { s with free := s.free + 8, mem := t.mem, written := t.written, badUnits := t.badUnits, dev := { d with
            ms := t.dev.ms, stage := 7, bootResult := 1, chain := t.dev.chain, next := t.dev.next } })) ∧
    (let p := d.spdm
     let offering := fun (i : Instr) (ok : Bool) (code : Nat) (offers : List SpdmOption) (body : List Byte) (q : Spdm) =>
      let sent := fun c o b r => done i { s with free := s.free + 1, dev := { d with response := .spdm c o b, spdm := r } }
      if ok then sent code offers body q else sent 0x7F [] [] p
     let answered := fun i ok code body q => offering i ok code [] body q
     let free := Config.responseBytes s.free
     let sig := Config.signature s.free
     let slots := d.ms.toList.zipIdx.flatMap (fun m => BitVec.ofNat 8 (m.2 + 1) :: leBytes 64 m.1.toNat)
     offering .getVersion true 0x04 [.version 1 3] free
      { versioned := true, capable := false, negotiated := false, session := false, keyed := false } ∧
     offering .getCapabilities p.versioned 0x61 ([0x81, 0x82, 0x83, 0x84, 0xE0, 0xE1, 0xE3, 0xE4, 0xE5].map .request) free
      { p with capable := true } ∧
     (∀ a h, offering (.negotiateAlgorithms a h) (p.capable && a == 1 && h == 1) 0x63 [.falcon1024, .shake256 64] free
      { p with negotiated := true }) ∧
     answered .getDigests p.negotiated 0x01 (shake256 Config.certChain 64) p ∧
     answered .getCertificate p.negotiated 0x02 Config.certChain p ∧
     (∀ n, answered (.challenge n) p.negotiated 0x03 (n ++ sig) p) ∧
     (∀ n, answered (.getMeasurements false n) p.negotiated 0x60 slots p ∧
      answered (.getMeasurements true n) p.negotiated 0x60 (slots ++ n ++ sig) p) ∧
     (∀ b, answered (.keyExchange b) p.negotiated 0x64 free { p with keyed := true } ∧
      answered (.finish b) p.keyed 0x65 free { p with session := true }) ∧
     (∀ fn k, (p.session = true → fn ≤ 64 → done (.ideKm fn k)
        { s with free := s.free + 1, dev := { d with ideKeys := mset d.ideKeys fn k, response := .spdm 0 [] [] } }) ∧
      (¬(p.session = true ∧ fn ≤ 64) → done (.ideKm fn k)
        { s with free := s.free + 1, dev := { d with response := .spdm 0x7F [] [] } }))) ∧
    (∀ v : XWord,
      let n := v.toNat % 2 ^ 8
      let waits := s.waiting ≠ [] ∨ mget? d.linksDown 0 ≠ none
      (waits → done (.powerLimit v) { s with waiting := s.waiting ++ [(s.gtime, .power v)] }) ∧
      (¬waits → 64 < n ∨ reserve → done (.powerLimit v) s) ∧
      (¬waits → n ≤ 64 → ¬reserve → d.bootResult ≠ 1 → done (.powerLimit v) { s with dev := { d with powerLimit := BitVec.ofNat 8 n } }) ∧
      (¬waits → n ≤ 64 → ¬reserve → d.bootResult = 1 →
        ∃ t digest, done (.powerLimit v) t ∧ digest.length = 64 ∧ Audited s t [(5, 0, BitVec.ofNat 368 (2000 + 25 * n))] ∧
          (Memory.wf s.mem = true → ∀ a, ¬InAudit a → memRead t.mem a = memRead s.mem a) ∧
          t = { s with free := s.free + 8, mem := t.mem, written := t.written, badUnits := t.badUnits, dev := { d with
            powerLimit := BitVec.ofNat 8 n, chain := t.dev.chain, next := t.dev.next
            ms := Vector.ofFn (fun j : Fin 8 => if j.val = 7 then ext 7 digest else d.ms[j]) } })) ∧
    (∀ w, ∃ t, done (.powerWindow w) t ∧
      (let over_ := 2000 + 25 * d.powerLimit.toNat < w
       (over_ → t.dev.throttleStep = if d.throttleStep.toNat < 12 then d.throttleStep + 1 else d.throttleStep) ∧
       (¬over_ → t.dev.throttleStep = d.throttleStep ∨ d.throttleStep ≠ 0 ∧ t.dev.throttleStep = d.throttleStep - 1)) ∧
      t.dev.throttleWindows = (if t.dev.throttleStep = 0 ∨ d.throttleWindows = 0xFFFFFFFF then d.throttleWindows
        else d.throttleWindows + 1) ∧
      t = { s with free := s.free + 1, dev := { d with
        throttleStep := t.dev.throttleStep, throttleWindows := t.dev.throttleWindows } }) ∧
    (∀ o : LinkOption, capability o = true ↔ o ∈ [
      LinkOption.lanes 16, .rate 64, .flit, .virtualFunctions 64, .doe 0, .selectiveIde 65, .aesGcm 256, .tdisp 1 0, .spdm 1 3,
      .cxl 3 1, .cxlType 2, .cxlIo, .cxlCache, .cxlMem, .cxlIdeContainment, .powerState 0, .powerState 4])

/-- Management requests and registers (R376, R380, R381, R383 to R385, R423, R432, R433): a request other than the next one is
discarded; GRANT reserves free frames, slots, arrays and entries, or answers with the code of the first check that fails;
EXPORT writes the range, its own record and a signature to host memory; an unknown request answers with code 1; AUDITACK moves
the floor within what has been exported; and a register write changes MREQ, or a start register's ADDR: its width of 8 bytes,
and that one to MREQ at an offset that is no multiple of 8 changes nothing, is log entry 58. None of them passes the host's
accesses that wait (R250), nor a host link that is down (R424). A bad unit that EXPORT reads leaves its bytes' units in DEST
poisoned (R299; log entry 57). Which resources GRANT finds is a free choice of log entry 25, and where EXPORT ends is log
entry 29. -/
def Obligations.HostRequests : Prop :=
  ∀ (s : State) (q : XWord),
    let d := s.dev
    let byte := fun i => (d.mreq.getD i 0).toNat
    let field := fun i n => leNat ((d.mreq.drop i).take n)
    let zeros := fun i n => ((d.mreq.drop i).take n).all (· == 0)
    let op := byte 0
    let request := fun i => i = Instr.grant q ∧ op = 1 ∨ i = .exportAudit q ∧ op = 2 ∨ i = .unknownOp q ∧ op ≠ 1 ∧ op ≠ 2
    let answers := fun (i : Instr) (t : State) (resp : List Byte) => exec i s = .next { t with
      dev := { t.dev with mseq := q, mdone := q, mresp := (resp ++ List.replicate 256 0).take 256 } }
    let fails := fun (i : Instr) (code : Nat) => answers i s (leBytes 8 code)
    let ctx := byte 1 % 64
    let room := 524288 - ((d.next.toNat : Int) - d.floor.toNat)
    let waits := s.waiting ≠ [] ∨ mget? d.linksDown 0 ≠ none
    let joins := fun (i : Instr) (o : Outside) => waits → exec i s = .next { s with waiting := s.waiting ++ [(s.gtime, o)] }
    (∀ i ∈ [Instr.grant q, .exportAudit q, .unknownOp q], joins i (.request q)) ∧ joins (.auditack q) (.auditack q) ∧
    (∀ fn off, fn = 0 ∧ off ≠ 0x200 ∧ off ≠ 0x410 ∧ off ≠ 0x800 ∨ fn ≠ 0 ∧ off ≠ 8 →
      joins (.registerWrite fn off q) (.register fn off q)) ∧
    (¬waits →
    (∀ i, request i → q ≠ d.mdone + 1 ∨ d.bootResult ≠ 1 → exec i s = .next s) ∧
    (q = d.mdone + 1 → d.bootResult = 1 →
      (op ≠ 1 → op ≠ 2 → fails (.unknownOp q) 1) ∧
      (op = 1 →
        let formed := byte 1 / 64 = 0 ∧ zeros 2 6 = true ∧ zeros 25 7 = true ∧ zeros 96 160 = true
        let c := s.ctxAt ctx
        (¬formed → fails (.grant q) 1) ∧ (formed → c.state ≠ .free → fails (.grant q) 2) ∧
        (formed → c.state = .free → reserve s ctx = none → fails (.grant q) 3) ∧
        (∀ g, formed → c.state = .free → reserve s ctx = some g →
          answers (.grant q) { s.setCtxAt ctx { c with reserved := some g } with free := s.free + 3 }
            (leBytes 8 0 ++ leBytes 8 g.ptroot ++ leBytes 8 g.ptva.toNat ++ leBytes 8 g.framesVa.toNat ++ leBytes 8 g.ftpa) ∧
          g.frames.length = field 8 4 ∧ g.slots.length = field 12 2 ∧ g.arrays = field 14 2 ∧ g.dvq = field 16 4 ∧
            g.nhvis = field 20 4 ∧ g.peers.toNat = byte 24 ∧
          g.frames.Nodup ∧ g.slots.Nodup ∧ (∀ f ∈ g.frames, frameFree s ctx f = true ∧ f / 256 ∉ g.slots) ∧
          (∀ p ∈ g.slots, slotFree s ctx p = true) ∧ g.arrays + ((otherGrants s ctx).map (·.arrays)).sum ≤ arraysGood s ∧
          g.dvq + ((otherGrants s ctx).map (·.dvq)).sum ≤ Config.doveEntries ∧ (∀ h ∈ g.hosts, hostRangeOk h = true) ∧
          g.ptroot = g.table.getD 0 0 * 2 ^ 21)) ∧
      (op = 2 →
        let first := field 8 8
        let last := field 16 8
        let dest := field 24 8
        let need := 128 * (last - first + 2) + 2048
        let formed := byte 1 = 0 ∧ zeros 2 6 = true ∧ zeros 40 216 = true
        let ranged := d.floor.toNat ≤ first ∧ first ≤ last ∧ last < d.next.toNat ∧ dest % 4096 = 0 ∧ Config.hostBase ≤ dest ∧
          dest + need ≤ Config.peerBase ∧ need ≤ field 32 8
        (¬formed → fails (.exportAudit q) 1) ∧ (formed → ¬ranged → fails (.exportAudit q) 4) ∧
        (formed → ranged → room ≤ 320 → fails (.exportAudit q) 5) ∧
        (formed → ranged → 320 < room →
          ∃ t, exec (.exportAudit q) s = .next t ∧ Audited s t [(7, 0, BitVec.ofNat 368 (first + 2 ^ 64 * last))] ∧
            (let sig := (Config.signature s.free).take 2046
             let slot := fun (m : List Host.Cell) seq => memReadN m (Config.auditBase + 128 * (seq % 524288)) 128
             let out := (span first (last + 1 - first)).flatMap (slot s.mem) ++ slot t.mem d.next.toNat ++
              (leBytes 2 sig.length ++ sig ++ List.replicate 2046 0).take 2048
             let bad := fun n i => badByte s (Config.auditBase + 128 * (n % 524288) + i) = true
             (∀ n i, first ≤ n → n ≤ last → i < 128 → bad n i → mget? t.badUnits ((dest + 128 * (n - first) + i) / 2) = some 3) ∧
             (Memory.wf s.mem = true → (∀ n i, first ≤ n → n ≤ last → i < 128 → ¬bad n i) → ∀ a, ¬InAudit a →
              memRead t.mem a = if dest ≤ a ∧ a < dest + out.length then out.getD (a - dest) 0 else memRead s.mem a) ∧
             t.dev.mresp = (leBytes 8 0 ++ leBytes 8 d.next.toNat ++ leBytes 8 out.length ++ List.replicate 256 0).take 256) ∧
            t.dev.exported.toNat = max d.exported.toNat (last + 1) ∧
            t = { s with free := s.free + 1, ctxs := t.ctxs, mem := t.mem, written := t.written, badUnits := t.badUnits, dev := { d with
              mseq := q, mdone := q, mresp := t.dev.mresp, chain := t.dev.chain, next := t.dev.next, exported := t.dev.exported
              errors := t.dev.errors } }))) ∧
    (d.floor.toNat ≤ q.toNat → q.toNat ≤ d.next.toNat → q.toNat ≤ d.exported.toNat →
      exec (.auditack q) s = .next { s with dev := { d with ack := q, floor := q } }) ∧
    (¬(d.floor.toNat ≤ q.toNat ∧ q.toNat ≤ d.next.toNat ∧ q.toNat ≤ d.exported.toNat) → exec (.auditack q) s = .next s) ∧
    (∀ fn off,
      let writes := exec (.registerWrite fn off q) s
      let c := s.ctxAt (fn - 1)
      let open_ := fn ≤ 64 ∧ (c.state = .locked ∨ c.state = .run) ∧ c.pending = []
      (fn = 0 → 0xC00 ≤ off → off < 0xD00 → off % 8 = 0 → writes = .next { s with dev := { d with
        mreq := d.mreq.take (off - 0xC00) ++ leBytes 8 q.toNat ++ d.mreq.drop (off - 0xC00 + 8) } }) ∧
      (fn = 0 → ¬(0xC00 ≤ off ∧ off < 0xD00 ∧ off % 8 = 0) → off ≠ 0x200 → off ≠ 0x410 → off ≠ 0x800 → writes = .next s) ∧
      (fn ≠ 0 → off = 0 → open_ →
        writes = .next (s.setCtxAt (fn - 1) { c with startAddr := BitVec.ofNat 51 (q.toNat / 2 ^ 6) })) ∧
      (fn ≠ 0 → off ≠ 8 → ¬(off = 0 ∧ open_) → writes = .next s)))

/-- Accesses from outside (R249, R250, R252, R290, R316, R322, R372, R380, R406, R407, R424), each waiting behind those that
wait, and while an engine owns one of its lines, a bank does not serve it, or the host's link is down: a peer's write and a
host's write to a host-visible frame of a context that runs take effect at the home, but for the audit region; other writes of
the host are discarded, and other reads of it give ones; a read of a bad unit answers with poison and records it; and the
host's write to its own memory is seen by every later read. The one that waits first is performed once nothing holds it and
neither a hart nor an engine has waited longer for its pseudo-channel (R290); a start, a register write, an AUDITACK and a
change of the power limit wait so too. Their waiting in one line, and which accesses reach the device, is log entry 29; that a
write into the audit region takes effect beside it only is log entry 22. -/
def Obligations.OutsideAccesses : Prop :=
  ∀ (s : State) (pa : Nat) (data : List Byte) (n : Nat),
    let held := fun (host : Bool) n => host = true ∧ mget? s.dev.linksDown 0 ≠ none ∨
      ∃ l, pa / 128 ≤ l ∧ l ≤ (pa + n - 1) / 128 ∧ accessWait s (128 * l) ≠ none
    let now := fun (host : Bool) n => s.waiting = [] ∧ ¬held host n
    let joins := fun (host : Bool) n (i : Instr) (o : Outside) =>
      s.waiting ≠ [] ∨ held host n → exec i s = .next { s with waiting := s.waiting ++ [(s.gtime, o)] }
    let inside := fun n => pa + n ≤ Config.deviceBytes
    let seen := fun n => ∃ c g, c ∈ s.ctxs ∧ c.2.state = .run ∧ c.2.hostVisible = true ∧ c.2.grant = some g ∧
      ∀ i, i < n → (pa + i) / 2 ^ 21 ∈ g.table.take g.nhvis
    let clean := fun n => ∀ i, i < n → mget? s.badUnits ((pa + i) / 2) = none
    let responds := fun (i : Instr) (r : Response) => exec i s = .next { s with dev := { s.dev with response := r } }
    let wrote := fun (i : Instr) => ∃ t, exec i s = .next t ∧
      (Memory.wf s.mem = true → clean data.length →
        ∀ a, memRead t.mem a = if pa ≤ a ∧ a < pa + data.length ∧ ¬InAudit a then data.getD (a - pa) 0 else memRead s.mem a) ∧
      (∀ i, i < data.length / 2 → pa % 2 = 0 → ¬InAudit (pa + 2 * i) → mget? t.badUnits (pa / 2 + i) = none) ∧
      t = { s with
        mem := t.mem, written := t.written, badUnits := t.badUnits, ctxs := t.ctxs, dev := { s.dev with errors := t.dev.errors } }
    (data ≠ [] → inside data.length →
      joins false data.length (.hostOrPeerWrite true pa data) (.write true pa data) ∧
      joins true data.length (.hostOrPeerWrite false pa data) (.write false pa data) ∧
      (now false data.length → wrote (.hostOrPeerWrite true pa data)) ∧
      (now true data.length → seen data.length → wrote (.hostOrPeerWrite false pa data)) ∧
      (now true data.length → ¬seen data.length → exec (.hostOrPeerWrite false pa data) s = .next s)) ∧
    (data ≠ [] → Config.hostBase ≤ pa → pa + data.length ≤ Config.peerBase →
      joins true data.length (.snoopInvalidate pa data) (.snoop pa data) ∧
      (now true data.length → wrote (.snoopInvalidate pa data))) ∧
    (0 < n → inside n →
      let bytes := (span pa n).map (memRead s.mem)
      let found := fun agent => s.foundBad agent 0 (((span pa n).filter (badByte s)).map (fun a => (a / 2, 0)))
      let poisoned := fun (t : State) => { t with dev := { t.dev with response := .poisoned } }
      joins false n (.peerRead pa n) (.peerRead pa n) ∧ joins true n (.cxlMemRead pa n) (.cxlRead pa n) ∧
      (now false n → (clean n → responds (.peerRead pa n) (.bytes bytes)) ∧
        (¬clean n → exec (.peerRead pa n) s = .next (poisoned (found 5)))) ∧
      (now true n → (clean n → seen n → responds (.cxlMemRead pa n) (.bytes bytes)) ∧
        (¬seen n → responds (.cxlMemRead pa n) (.bytes (List.replicate n 0xFF))) ∧
        (¬clean n → seen n → exec (.cxlMemRead pa n) s = .next (poisoned (found 4))))) ∧
    (∀ rest since more x y z, s.agenda = .own .outside 0 0 :: rest →
      ∀ p ∈ [(Outside.write x pa data, Instr.hostOrPeerWrite x pa data), (.cxlRead pa n, .cxlMemRead pa n), (.peerRead pa n, .peerRead pa n),
          (.snoop pa data, .snoopInvalidate pa data), (.start y z, .start y z), (.register y n z, .registerWrite y n z),
          (.auditack z, .auditack z), (.power z, .powerLimit z)],
        s.waiting = (since, p.1) :: more →
        let r := { s with agenda := rest }
        let longer := fun (slot : Nat) =>
          (∃ h ∈ s.allHarts, h.2.live = .running ∧ ∃ t, h.2.wait = some (.bankMode slot t) ∧ t < since) ∨
          (∃ c ∈ s.cmds, ∃ t, c.2.since = some (slot, t) ∧ t < since)
        (p.1.held r = true → step s = .next r) ∧
        (∀ at_ m, (at_, m) ∈ p.1.spans r → 0 < m →
          (∃ slot ∈ mkeys s.chans, at_ < (slot + 1) * 2 ^ 29 ∧ slot * 2 ^ 29 < at_ + m ∧ longer slot) → step s = .next r) ∧
        (p.1.held r = false → (∀ slot, ¬longer slot) → ∀ u, exec p.2 { r with waiting := [] } = .next u →
          step s = .next { u with waiting := more }))

/-! ### Steps, encodings, and what every step keeps -/

/-- A step runs what is fetched (R34, R36, R90, R100, R112, R116, R213, R294, R295, R340, R390, R406): with a hart first on
the agenda that may execute, waits for nothing and has no BUDGET due, it runs the one instruction of a lone word at the PC, or
the prefix and then its successor, each the word that Commits says a fetch gives; a hart that waits at a bank is passed over
until its turn there (R290); with a sequencer first, the handler's next word; with an event, that event; with a unit that a
walk found bad, its poisoning and record; and with nothing decided, a cycle passes. The agenda is log entry 5, a steward
hart's cause log entry 7, the boundary before or after a prefix log entry 19, and what a fetch observes log entry 59. -/
def Obligations.StepRunsDecoded : Prop :=
  ∀ (s : State) (rest : List Turn),
    let r := { s with agenda := rest }
    (s.agenda = [] → step s = exec .coreCycle s) ∧
    (∀ e, s.agenda = .event e :: rest → (∀ n, exec e r ≠ .fault (.notEnabled n)) → step s = exec e r) ∧
    (∀ e n, s.agenda = .event e :: rest → exec e r = .fault (.notEnabled n) → step s = .next r) ∧
    (∀ agent gang unit va, s.agenda = .found agent gang unit va :: rest → step s = .next (r.foundBad agent gang [(unit, va)])) ∧
    (∀ p run h w i, s.agenda = .bank p :: rest → (s.chanAt p).run = some run → mget? (s.chanAt p).handlers run.slot = some h →
      (s.chanAt p).switching = none → h.words[run.pcw]? = some w → decodeBrixem w = .ok i →
      step s = exec i { r with bank := p }) ∧
    (∀ k, s.agenda = .hart k :: rest →
      let f := r.focus k
      let h := f.hart
      let g := f.setHart { h with issueAt := none }
      let fetched := fun (a : State) (va : XWord) (w : Word) (b : State) => ∃ pa, access a .fetch va 4 0 = .ok (pa, b) ∧
        poisonCheck (b.setRegs { b.regs with storeBuf := [] }) .fetch va pa 4 0 = .ok () ∧ w = fetchedWord b pa
      let alone := fun (w : Word) (i : Instr) => decodeWord w = .ok i ∧ i.isPfx = false ∧ i.kbit = false ∧ namesCv w = false ∧
        isVscore i = false ∧ isVexpm i = false ∧ isVaccv i = false
      let owns := fun i => h.steward = true ∨ f.core.owned = true ∧ f.core.owner.toNat = h.ctx ∨ ownerChecked i = false
      (∀ p t, h.wait = some (.bankMode p t) → bankTurnOf f k p t = false → step s = .next r) ∧
      (h.live = .running → (if h.steward then Config.stewardBase ≤ k ∧ k < Config.stewardBase + 4
        else f.core.serves = some h.ctx ∧ f.core.moving = none ∧ f.core.retired = false) → h.wait = none →
      (h.tl ≠ 0 ∨ h.cyb = 0 ∨ s.gtime < h.stripOpened + h.cyb.toNat) →
      (∀ w i b, h.regs.pfxValid = false → fetched g h.regs.pc w b → alone w i → owns i →
        memberCauses b i h.regs.pc .absent = [] → step s = exec i b) ∧
      (∀ w p b v i c t, h.regs.pfxValid = false → fetched g h.regs.pc w b → decodeWord w = .ok p → p.isPfx = true →
        fetched b (h.regs.pc + 4) v c → alone v i → owns i → (vecUse (groupFactor h.regs) i).isSome = true →
        memberCauses c i (h.regs.pc + 4) (.ofFields (w.setWidth 25) h.regs.pc) = [] →
        exec p c = .next t → t.hart.undo ≠ none → step s = exec i t) ∧
      (∀ w i b, h.regs.pfxValid = true → fetched g h.regs.pc w b → alone w i → owns i →
        (vecUse (groupFactor h.regs) i).isSome = true →
        memberCauses b i h.regs.pc (.ofFields h.regs.pfxFields h.regs.pc) = [] → step s = exec i b)))

/-- The worked encodings of the manual (R102, R106, R293, R296, Table 5.11 and the text around it), and words of other formats
written out from its tables, decode to what they stand for; the words of all zeros and of major 0x3F, unlisted ops and set
reserved bits decode to nothing (R108). -/
def Obligations.DecodeWords : Prop :=
  (∀ p ∈ [
      (0x04531C00, Instr.add 5 6 7 false), (0x04A58212, .div 10 11 0 true), (0x52040280, .vld true 0 8 true false true),
      (0x4A000882, .vfmul true 0 0 2 false false true false), (0x5C520280, .vredsum false 5 4 false true),
      (0xF8D40080, .pfx 3 false 5 0 0 false 2 false), (0x48110F00, .vfadd false 1 2 3 true true false false),
      (0b000010_0_00001_00010_000_111111111111, .addi 1 2 0xFFF), (0b000011_0_00011_00000000000000000001, .lui 3 1),
      (0b000101_0_00100_00101_011_000000001000, .ldD 4 5 8), (0b000110_0_00110_00111_010_111111111100, .stW 6 7 0xFFC),
      (0b000111_0_001_00010_00011_000000000010, .bne 2 3 2), (0b001011_0_00001_00010_00011_010_1_000010, .amoAdd 1 2 3 2 true),
      (0b001100_0_00000_00000_00000_000_0000001, .scommit), (0b001101_0_00000_00000_101_000000000000, .tret),
      (0b011001_0_00001_00010_00011_00000_00001, .mop 1 2 3)],
    decodeWord p.1 = .ok p.2) ∧
  (∀ p ∈ [
      (0b00010_0011_0100_0101_000000000000110, Instr.bAdd 3 4 5 6), (0b01011_0000_0000_0000_000000000000001, .bMode true),
      (0b01111_0000_0110_0111_000000000000000, .bMac 6 7), (0, .bHalt)],
    decodeBrixem p.1 = .ok p.2) ∧
  ∀ p ∈ [
      (0x00000000, Reject.unlisted), (0xFC000000, .unlisted), (0xFFFFFFFF, .unlisted),
      (0b000001_0_00001_00010_00011_0_000_011000, .unlisted), (0b000001_0_00001_00010_00011_0_001_000000, .reserved),
      (0b001101_0_00000_00001_101_000000000000, .reserved)],
    decodeWord p.1 = .error p.2

/-- Decoding reads back what encoding writes (R101 to R108, R292, R293, R296), for every instruction of either word set with
every operand value that its encoding admits; each word that decodes is the encoding of what it decodes to, which is well-
formed. -/
def Obligations.DecodeEncode : Prop :=
  (∀ i : Instr, i.isEvent = false → i.wf = true → i.isBrixem = false → decodeWord (encode i) = .ok i) ∧
  (∀ i : Instr, i.wf = true → i.isBrixem = true → decodeBrixem (encode i) = .ok i) ∧
  ∀ (w : Word) (i : Instr),
    (decodeWord w = .ok i → encode i = w ∧ i.wf = true ∧ i.isEvent = false ∧ i.isBrixem = false) ∧
    (decodeBrixem w = .ok i → encode i = w ∧ i.wf = true ∧ i.isBrixem = true)

/-- Every step keeps physical memory in its canonical form: addresses rising, no byte listed that reads as an unlisted one
does. The form is the model's own (log entry 2). -/
def Obligations.MemoryForm : Prop :=
  ∀ (s t : State), Memory.wf s.mem = true → step s = .next t → Memory.wf t.mem = true

/-- What a device reset leaves, where the manual says it (R76, R290, R292, R301, R373, Tables 22.4, 22.10, 26.1): every
measurement slot and BOOTSTAT 0, the power limit 3,600 W, no throttling, every context Free, no hart, kitties full, pseudo-
channels in normal mode with no handler; and memory in its canonical form, every byte reading 0: of physical memory's contents
after reset the manual says nothing, and this clause is the model's choice (log entry 2). -/
def Obligations.ResetValues : Prop :=
  let s := State.reset
  (∀ i : Fin 8, s.dev.ms[i] = 0) ∧ s.dev.bootStage = 0 ∧ s.dev.bootResult = 0 ∧ 2000 + 25 * s.dev.powerLimit.toNat = 3600 ∧
    s.dev.throttleStep = 0 ∧ s.dev.throttleWindows = 0 ∧ s.dev.pfail = 0 ∧ s.dev.mseq = 0 ∧ s.dev.mdone = 0 ∧
    s.dev.chain = 0 ∧ s.waiting = [] ∧ s.written = [] ∧ (∀ c, (s.ctxAt c).state = .free) ∧ (∀ k, (s.hartAt k).live = .free) ∧
    (∀ p, s.kittyAt p = { level := 65536, credit := 4096, waiting := [] }) ∧
    (∀ p, (s.chanAt p).allBank = false ∧ (s.chanAt p).dedicated = none ∧ (s.chanAt p).handlers = [] ∧ (s.chanAt p).run = none) ∧
    (∀ a, memRead s.mem a = 0) ∧ Memory.wf s.mem = true

/-- The rounding functions that every result goes through (R58 to R60, R65): of the two codes of a format next to an exact
value, the one that the mode names, ties to the even code under RNE; RSR by its generator, which steps once before; past the
largest finite number infinity or that number, by mode and sign, with OF and NX; NX when the value is no code's, UF when it is
then tiny after rounding; and, to an integer of a range, the two integers next to it, with NV beyond the range. That an
overflow under RSR gives what RNE gives, and how RSR judges what is tiny, is log entry 35. -/
def Obligations.RoundingRules : Prop :=
  ∀ (f : FpFmt) (r : Rnd) (neg : Bool) (m : Nat) (e : Int), f ∈ [fp16, bf16, fp32, fp64] → r.mode ≤ 5 → 0 < m →
    let x : ℚ := m * 2 ^ e
    let v := Val.fin neg m e
    let up := fun (odd : Bool) (d w : ℚ) => match r.mode with
      | 0 => w < 2 * d ∨ 2 * d = w ∧ odd = true
      | 1 => False
      | 2 => neg = true ∧ d ≠ 0
      | 3 => neg = false ∧ d ≠ 0
      | 4 => w ≤ 2 * d
      | _ => r.gen.toNat * w < d * 2 ^ 32
    let limit : ℚ := 2 ^ (f.bias + 1)
    let past := (roundCore f r v).2 = 5 ∧ (roundCore f r v).1 = f.sign neg +
      if r.mode = 1 ∨ r.mode = 2 ∧ neg = false ∨ r.mode = 3 ∧ neg = true then f.top - 1 else f.top
    let fine : ℚ := 2 ^ (f.qmin - 1)
    let least : ℚ := 2 ^ (f.qmin + f.fb)
    let tiny := x < least ∧ ¬(least - fine ≤ x ∧ up true (x - (least - fine)) fine)
    (limit ≤ x → past) ∧
    (∀ k : Nat, k < f.top →
      let size := fun (k : Nat) => match f.val k with
        | .fin _ m e => (m * 2 ^ e : ℚ)
        | _ => limit
      let d := x - size k
      let w := size (k + 1) - size k
      let last := k + 1 = f.top
      let exceeds := last ∧ (if r.mode = 5 then w ≤ 2 * d else up (k % 2 == 1) d w)
      0 ≤ d → d < w →
      (exceeds → past) ∧
      (¬exceeds → (up (k % 2 == 1) d w ∧ ¬last → (roundCore f r v).1 = f.sign neg + (k + 1)) ∧
        (¬(up (k % 2 == 1) d w ∧ ¬last) → (roundCore f r v).1 = f.sign neg + k) ∧
        (d = 0 → (roundCore f r v).2 = 0) ∧ (d ≠ 0 → ¬tiny → (roundCore f r v).2 = 1) ∧ (d ≠ 0 → tiny → (roundCore f r v).2 = 3))) ∧
    (roundCore f r (.fin neg 0 e) = (f.sign neg, 0) ∧ roundCore f r (.inf neg) = (f.sign neg + f.top, 0) ∧
      roundCore f r .nan = (f.nan, 0)) ∧
    (∀ y, let g := if r.mode = 5 then genStep r.gen else r.gen
      roundTo f r y = ⟨(roundCore f ⟨r.mode, g⟩ y).1, (roundCore f ⟨r.mode, g⟩ y).2, g⟩) ∧
    (∀ (g : BitVec 32) (i : Nat), i < 32 → (genStep g).getLsbD i =
      if i = 0 then (g.getLsbD 31 ^^ g.getLsbD 21 ^^ g.getLsbD 1 ^^ g.getLsbD 0) else g.getLsbD (i - 1)) ∧
    (∀ (lo hi : Int) (k : Nat), lo ≤ hi → -2 ^ 127 ≤ lo → hi < 2 ^ 127 →
      let d := x - k
      let up := match r.mode with
        | 5 => (genStep r.gen).toNat < d * 2 ^ 32
        | _ => up (k % 2 == 1) d 1
      let g := if r.mode = 5 then genStep r.gen else r.gen
      let gives := fun (n : Int) =>
        (n < lo → roundToInt lo hi r v = (lo, Flags.nv, g)) ∧ (hi < n → roundToInt lo hi r v = (hi, Flags.nv, g)) ∧
        (lo ≤ n → n ≤ hi → roundToInt lo hi r v = (n, if d = 0 then 0 else Flags.nx, g))
      0 ≤ d → d < 1 → (up → gives (if neg then -(k + 1 : Int) else k + 1)) ∧ (¬up → gives (if neg then -(k : Int) else k)) ∧
        roundToInt lo hi r .nan = (0, Flags.nv, g) ∧ roundToInt lo hi r (.inf neg) = (if neg then lo else hi, Flags.nv, g))
end

