-- ==== Sys2Proof/Laws/Dispatch.lean ====
section
/-! SUPPORT. Each arm of the dispatch as an equation. -/

set_option Elab.async false

namespace Sys2Proof
namespace Machine

theorem exec_add {s : State} {d a b w} : exec (.add d a b w) s = execAdd d a b w s := rfl
theorem exec_sub {s : State} {d a b w} : exec (.sub d a b w) s = execSub d a b w s := rfl
theorem exec_and {s : State} {d a b} : exec (.and d a b) s = execAnd d a b s := rfl
theorem exec_or {s : State} {d a b} : exec (.or d a b) s = execOr d a b s := rfl
theorem exec_xor {s : State} {d a b} : exec (.xor d a b) s = execXor d a b s := rfl
theorem exec_andn {s : State} {d a b} : exec (.andn d a b) s = execAndn d a b s := rfl
theorem exec_sll {s : State} {d a b w} : exec (.sll d a b w) s = execSll d a b w s := rfl
theorem exec_srl {s : State} {d a b w} : exec (.srl d a b w) s = execSrl d a b w s := rfl
theorem exec_sra {s : State} {d a b w} : exec (.sra d a b w) s = execSra d a b w s := rfl
theorem exec_slt {s : State} {d a b} : exec (.slt d a b) s = execSlt d a b s := rfl
theorem exec_sltu {s : State} {d a b} : exec (.sltu d a b) s = execSltu d a b s := rfl
theorem exec_min {s : State} {d a b} : exec (.min d a b) s = execMin d a b s := rfl
theorem exec_max {s : State} {d a b} : exec (.max d a b) s = execMax d a b s := rfl
theorem exec_minu {s : State} {d a b} : exec (.minu d a b) s = execMinu d a b s := rfl
theorem exec_maxu {s : State} {d a b} : exec (.maxu d a b) s = execMaxu d a b s := rfl
theorem exec_mul {s : State} {d a b w} : exec (.mul d a b w) s = execMul d a b w s := rfl
theorem exec_mulh {s : State} {d a b} : exec (.mulh d a b) s = execMulh d a b s := rfl
theorem exec_mulhu {s : State} {d a b} : exec (.mulhu d a b) s = execMulhu d a b s := rfl
theorem exec_div {s : State} {d a b w} : exec (.div d a b w) s = execDiv d a b w s := rfl
theorem exec_divu {s : State} {d a b w} : exec (.divu d a b w) s = execDivu d a b w s := rfl
theorem exec_rem {s : State} {d a b w} : exec (.rem d a b w) s = execRem d a b w s := rfl
theorem exec_remu {s : State} {d a b w} : exec (.remu d a b w) s = execRemu d a b w s := rfl
theorem exec_clz {s : State} {d a w} : exec (.clz d a w) s = execClz d a w s := rfl
theorem exec_popc {s : State} {d a w} : exec (.popc d a w) s = execPopc d a w s := rfl
theorem exec_addi {s : State} {d a imm} : exec (.addi d a imm) s = execAddi d a imm s := rfl
theorem exec_andi {s : State} {d a imm} : exec (.andi d a imm) s = execAndi d a imm s := rfl
theorem exec_ori {s : State} {d a imm} : exec (.ori d a imm) s = execOri d a imm s := rfl
theorem exec_xori {s : State} {d a imm} : exec (.xori d a imm) s = execXori d a imm s := rfl
theorem exec_slti {s : State} {d a imm} : exec (.slti d a imm) s = execSlti d a imm s := rfl
theorem exec_slli {s : State} {d a sh} : exec (.slli d a sh) s = execSlli d a sh s := rfl
theorem exec_srli {s : State} {d a sh} : exec (.srli d a sh) s = execSrli d a sh s := rfl
theorem exec_srai {s : State} {d a sh} : exec (.srai d a sh) s = execSrai d a sh s := rfl
theorem exec_lui {s : State} {d imm} : exec (.lui d imm) s = execLui d imm s := rfl
theorem exec_auipc {s : State} {d imm} : exec (.auipc d imm) s = execAuipc d imm s := rfl
theorem exec_ldB {s : State} {d a imm} : exec (.ldB d a imm) s = execLdB d a imm s := rfl
theorem exec_ldH {s : State} {d a imm} : exec (.ldH d a imm) s = execLdH d a imm s := rfl
theorem exec_ldW {s : State} {d a imm} : exec (.ldW d a imm) s = execLdW d a imm s := rfl
theorem exec_ldD {s : State} {d a imm} : exec (.ldD d a imm) s = execLdD d a imm s := rfl
theorem exec_ldBu {s : State} {d a imm} : exec (.ldBu d a imm) s = execLdBu d a imm s := rfl
theorem exec_ldHu {s : State} {d a imm} : exec (.ldHu d a imm) s = execLdHu d a imm s := rfl
theorem exec_ldWu {s : State} {d a imm} : exec (.ldWu d a imm) s = execLdWu d a imm s := rfl
theorem exec_stB {s : State} {b a imm} : exec (.stB b a imm) s = execStB b a imm s := rfl
theorem exec_stH {s : State} {b a imm} : exec (.stH b a imm) s = execStH b a imm s := rfl
theorem exec_stW {s : State} {b a imm} : exec (.stW b a imm) s = execStW b a imm s := rfl
theorem exec_stD {s : State} {b a imm} : exec (.stD b a imm) s = execStD b a imm s := rfl
theorem exec_beq {s : State} {a b imm} : exec (.beq a b imm) s = execBeq a b imm s := rfl
theorem exec_bne {s : State} {a b imm} : exec (.bne a b imm) s = execBne a b imm s := rfl
theorem exec_blt {s : State} {a b imm} : exec (.blt a b imm) s = execBlt a b imm s := rfl
theorem exec_bge {s : State} {a b imm} : exec (.bge a b imm) s = execBge a b imm s := rfl
theorem exec_bltu {s : State} {a b imm} : exec (.bltu a b imm) s = execBltu a b imm s := rfl
theorem exec_bgeu {s : State} {a b imm} : exec (.bgeu a b imm) s = execBgeu a b imm s := rfl
theorem exec_jal {s : State} {d imm} : exec (.jal d imm) s = execJal d imm s := rfl
theorem exec_jalr {s : State} {d a imm} : exec (.jalr d a imm) s = execJalr d a imm s := rfl
theorem exec_fadd {s : State} {d a b f rm} : exec (.fadd d a b f rm) s = execFadd d a b f rm s := rfl
theorem exec_fsub {s : State} {d a b f rm} : exec (.fsub d a b f rm) s = execFsub d a b f rm s := rfl
theorem exec_fmul {s : State} {d a b f rm} : exec (.fmul d a b f rm) s = execFmul d a b f rm s := rfl
theorem exec_fdiv {s : State} {d a b f rm} : exec (.fdiv d a b f rm) s = execFdiv d a b f rm s := rfl
theorem exec_fsqrt {s : State} {d a f rm} : exec (.fsqrt d a f rm) s = execFsqrt d a f rm s := rfl
theorem exec_fmin {s : State} {d a b f} : exec (.fmin d a b f) s = execFmin d a b f s := rfl
theorem exec_fmax {s : State} {d a b f} : exec (.fmax d a b f) s = execFmax d a b f s := rfl
theorem exec_fma {s : State} {d a b f rm} : exec (.fma d a b f rm) s = execFma d a b f rm s := rfl
theorem exec_feq {s : State} {d a b f} : exec (.feq d a b f) s = execFeq d a b f s := rfl
theorem exec_flt {s : State} {d a b f} : exec (.flt d a b f) s = execFlt d a b f s := rfl
theorem exec_fle {s : State} {d a b f} : exec (.fle d a b f) s = execFle d a b f s := rfl
theorem exec_fclass {s : State} {d a f} : exec (.fclass d a f) s = execFclass d a f s := rfl
theorem exec_fcvtI {s : State} {d a kind f rm} : exec (.fcvtI d a kind f rm) s = execFcvtI d a kind f rm s := rfl
theorem exec_fcvtF {s : State} {d a kind f rm} : exec (.fcvtF d a kind f rm) s = execFcvtF d a kind f rm s := rfl
theorem exec_fcvt {s : State} {d a kind f rm} : exec (.fcvt d a kind f rm) s = execFcvt d a kind f rm s := rfl
theorem exec_fsgnj {s : State} {d a b f} : exec (.fsgnj d a b f) s = execFsgnj d a b f s := rfl
theorem exec_ldAcq {s : State} {d a sh w} : exec (.ldAcq d a sh w) s = execLdAcq d a sh w s := rfl
theorem exec_stRel {s : State} {a b sh w} : exec (.stRel a b sh w) s = execStRel a b sh w s := rfl
theorem exec_amoAdd {s : State} {d a b sh w} : exec (.amoAdd d a b sh w) s = execAmoAdd d a b sh w s := rfl
theorem exec_amoAnd {s : State} {d a b sh w} : exec (.amoAnd d a b sh w) s = execAmoAnd d a b sh w s := rfl
theorem exec_amoOr {s : State} {d a b sh w} : exec (.amoOr d a b sh w) s = execAmoOr d a b sh w s := rfl
theorem exec_amoXor {s : State} {d a b sh w} : exec (.amoXor d a b sh w) s = execAmoXor d a b sh w s := rfl
theorem exec_amoMin {s : State} {d a b sh w} : exec (.amoMin d a b sh w) s = execAmoMin d a b sh w s := rfl
theorem exec_amoMax {s : State} {d a b sh w} : exec (.amoMax d a b sh w) s = execAmoMax d a b sh w s := rfl
theorem exec_amoMinu {s : State} {d a b sh w} : exec (.amoMinu d a b sh w) s = execAmoMinu d a b sh w s := rfl
theorem exec_amoMaxu {s : State} {d a b sh w} : exec (.amoMaxu d a b sh w) s = execAmoMaxu d a b sh w s := rfl
theorem exec_amoSwap {s : State} {d a b sh w} : exec (.amoSwap d a b sh w) s = execAmoSwap d a b sh w s := rfl
theorem exec_amoCas {s : State} {d a b sh w} : exec (.amoCas d a b sh w) s = execAmoCas d a b sh w s := rfl
theorem exec_amoFmax {s : State} {d a b sh} : exec (.amoFmax d a b sh) s = execAmoFmax d a b sh s := rfl
theorem exec_fence {s : State} {sh} : exec (.fence sh) s = execFence sh s := rfl
theorem exec_scommit {s : State} : exec (.scommit) s = execScommit s := rfl
theorem exec_bar {s : State} {d a sh} : exec (.bar d a sh) s = execBar d a sh s := rfl
theorem exec_bararr {s : State} {d a sh} : exec (.bararr d a sh) s = execBararr d a sh s := rfl
theorem exec_barwait {s : State} {a b sh} : exec (.barwait a b sh) s = execBarwait a b sh s := rfl
theorem exec_claim {s : State} {d a b sh} : exec (.claim d a b sh) s = execClaim d a b sh s := rfl
theorem exec_waitt {s : State} {d a} : exec (.waitt d a) s = execWaitt d a s := rfl
theorem exec_sendt {s : State} {a b} : exec (.sendt a b) s = execSendt a b s := rfl
theorem exec_recvchk {s : State} {d a} : exec (.recvchk d a) s = execRecvchk d a s := rfl
theorem exec_waitaddr {s : State} {d a b sh} : exec (.waitaddr d a b sh) s = execWaitaddr d a b sh s := rfl
theorem exec_yield {s : State} : exec (.yield) s = execYield s := rfl
theorem exec_launch {s : State} {d a} : exec (.launch d a) s = execLaunch d a s := rfl
theorem exec_xinv {s : State} {a b sh} : exec (.xinv a b sh) s = execXinv a b sh s := rfl
theorem exec_csrr {s : State} {d c} : exec (.csrr d c) s = execCsrr d c s := rfl
theorem exec_csrw {s : State} {d a c} : exec (.csrw d a c) s = execCsrw d a c s := rfl
theorem exec_csrs {s : State} {d a c} : exec (.csrs d a c) s = execCsrs d a c s := rfl
theorem exec_csrc {s : State} {d a c} : exec (.csrc d a c) s = execCsrc d a c s := rfl
theorem exec_trap {s : State} {a imm} : exec (.trap a imm) s = execTrap a imm s := rfl
theorem exec_tret {s : State} : exec (.tret) s = execTret s := rfl
theorem exec_vsave {s : State} {d a} : exec (.vsave d a) s = execVsave d a s := rfl
theorem exec_vrestore {s : State} {d a} : exec (.vrestore d a) s = execVrestore d a s := rfl
theorem exec_scrub {s : State} {d a} : exec (.scrub d a) s = execScrub d a s := rfl
theorem exec_ctxkill {s : State} {d a} : exec (.ctxkill d a) s = execCtxkill d a s := rfl
theorem exec_setown {s : State} {d a} : exec (.setown d a) s = execSetown d a s := rfl
theorem exec_vdecl {s : State} {d a} : exec (.vdecl d a) s = execVdecl d a s := rfl
theorem exec_setvl {s : State} {d a b} : exec (.setvl d a b) s = execSetvl d a b s := rfl
theorem exec_vtag {s : State} {d t b} : exec (.vtag d t b) s = execVtag d t b s := rfl
theorem exec_vshape {s : State} {t g} : exec (.vshape t g) s = execVshape t g s := rfl
theorem exec_vmv {s : State} {k d a e qa} : exec (.vmv k d a e qa) s = execVmv k d a e qa s := rfl
theorem exec_vbcast {s : State} {k d a e} : exec (.vbcast k d a e) s = execVbcast k d a e s := rfl
theorem exec_vid {s : State} {k d e} : exec (.vid k d e) s = execVid k d e s := rfl
theorem exec_vidr {s : State} {k d e} : exec (.vidr k d e) s = execVidr k d e s := rfl
theorem exec_vxtract {s : State} {k d a b qa} : exec (.vxtract k d a b qa) s = execVxtract k d a b qa s := rfl
theorem exec_vinsert {s : State} {k d a b} : exec (.vinsert k d a b) s = execVinsert k d a b s := rfl
theorem exec_vadd {s : State} {k d a b w e qa qb} : exec (.vadd k d a b w e qa qb) s = execVadd k d a b w e qa qb s := rfl
theorem exec_vsub {s : State} {k d a b w e qa qb} : exec (.vsub k d a b w e qa qb) s = execVsub k d a b w e qa qb s := rfl
theorem exec_vmul {s : State} {k d a b w e qa qb} : exec (.vmul k d a b w e qa qb) s = execVmul k d a b w e qa qb s := rfl
theorem exec_vmulh {s : State} {k d a b w e qa qb} : exec (.vmulh k d a b w e qa qb) s = execVmulh k d a b w e qa qb s := rfl
theorem exec_vmin {s : State} {k d a b w e qa qb} : exec (.vmin k d a b w e qa qb) s = execVmin k d a b w e qa qb s := rfl
theorem exec_vmax {s : State} {k d a b w e qa qb} : exec (.vmax k d a b w e qa qb) s = execVmax k d a b w e qa qb s := rfl
theorem exec_vand {s : State} {k d a b w e qa qb} : exec (.vand k d a b w e qa qb) s = execVand k d a b w e qa qb s := rfl
theorem exec_vor {s : State} {k d a b w e qa qb} : exec (.vor k d a b w e qa qb) s = execVor k d a b w e qa qb s := rfl
theorem exec_vxor {s : State} {k d a b w e qa qb} : exec (.vxor k d a b w e qa qb) s = execVxor k d a b w e qa qb s := rfl
theorem exec_vsll {s : State} {k d a b w e qa qb} : exec (.vsll k d a b w e qa qb) s = execVsll k d a b w e qa qb s := rfl
theorem exec_vsrl {s : State} {k d a b w e qa qb} : exec (.vsrl k d a b w e qa qb) s = execVsrl k d a b w e qa qb s := rfl
theorem exec_vsra {s : State} {k d a b w e qa qb} : exec (.vsra k d a b w e qa qb) s = execVsra k d a b w e qa qb s := rfl
theorem exec_vabs {s : State} {k d a w e qa} : exec (.vabs k d a w e qa) s = execVabs k d a w e qa s := rfl
theorem exec_vwmac {s : State} {k d a b e qa qb} : exec (.vwmac k d a b e qa qb) s = execVwmac k d a b e qa qb s := rfl
theorem exec_vdiv {s : State} {k d a b w e qa qb} : exec (.vdiv k d a b w e qa qb) s = execVdiv k d a b w e qa qb s := rfl
theorem exec_vrem {s : State} {k d a b w e qa qb} : exec (.vrem k d a b w e qa qb) s = execVrem k d a b w e qa qb s := rfl
theorem exec_vcmpeq {s : State} {k d a b e qa qb} : exec (.vcmpeq k d a b e qa qb) s = execVcmpeq k d a b e qa qb s := rfl
theorem exec_vcmplt {s : State} {k d a b e qa qb} : exec (.vcmplt k d a b e qa qb) s = execVcmplt k d a b e qa qb s := rfl
theorem exec_vcmple {s : State} {k d a b e qa qb} : exec (.vcmple k d a b e qa qb) s = execVcmple k d a b e qa qb s := rfl
theorem exec_vsel {s : State} {k d a b w e qa qb} : exec (.vsel k d a b w e qa qb) s = execVsel k d a b w e qa qb s := rfl
theorem exec_vfadd {s : State} {k d a b w e qa qb} : exec (.vfadd k d a b w e qa qb) s = execVfadd k d a b w e qa qb s := rfl
theorem exec_vfsub {s : State} {k d a b w e qa qb} : exec (.vfsub k d a b w e qa qb) s = execVfsub k d a b w e qa qb s := rfl
theorem exec_vfmul {s : State} {k d a b w e qa qb} : exec (.vfmul k d a b w e qa qb) s = execVfmul k d a b w e qa qb s := rfl
theorem exec_vfaddX {s : State} {k d a b e qa qb} : exec (.vfaddX k d a b e qa qb) s = execVfaddX k d a b e qa qb s := rfl
theorem exec_vfsubX {s : State} {k d a b e qa qb} : exec (.vfsubX k d a b e qa qb) s = execVfsubX k d a b e qa qb s := rfl
theorem exec_vfmulX {s : State} {k d a b e qa qb} : exec (.vfmulX k d a b e qa qb) s = execVfmulX k d a b e qa qb s := rfl
theorem exec_vfma {s : State} {k d a b e qa qb} : exec (.vfma k d a b e qa qb) s = execVfma k d a b e qa qb s := rfl
theorem exec_vfdiv {s : State} {k d a b w e qa qb} : exec (.vfdiv k d a b w e qa qb) s = execVfdiv k d a b w e qa qb s := rfl
theorem exec_vfsqrt {s : State} {k d a w e qa} : exec (.vfsqrt k d a w e qa) s = execVfsqrt k d a w e qa s := rfl
theorem exec_vfrcp {s : State} {k d a w e qa} : exec (.vfrcp k d a w e qa) s = execVfrcp k d a w e qa s := rfl
theorem exec_vfexp2 {s : State} {k d a w e qa} : exec (.vfexp2 k d a w e qa) s = execVfexp2 k d a w e qa s := rfl
theorem exec_vflog2 {s : State} {k d a w e qa} : exec (.vflog2 k d a w e qa) s = execVflog2 k d a w e qa s := rfl
theorem exec_vfmin {s : State} {k d a b w e qa qb} : exec (.vfmin k d a b w e qa qb) s = execVfmin k d a b w e qa qb s := rfl
theorem exec_vfmax {s : State} {k d a b w e qa qb} : exec (.vfmax k d a b w e qa qb) s = execVfmax k d a b w e qa qb s := rfl
theorem exec_vfcmpeq {s : State} {k d a b e qa qb} : exec (.vfcmpeq k d a b e qa qb) s = execVfcmpeq k d a b e qa qb s := rfl
theorem exec_vfcmplt {s : State} {k d a b e qa qb} : exec (.vfcmplt k d a b e qa qb) s = execVfcmplt k d a b e qa qb s := rfl
theorem exec_vfcmple {s : State} {k d a b e qa qb} : exec (.vfcmple k d a b e qa qb) s = execVfcmple k d a b e qa qb s := rfl
theorem exec_vfclass {s : State} {k d a w e qa} : exec (.vfclass k d a w e qa) s = execVfclass k d a w e qa s := rfl
theorem exec_vdwadd {s : State} {k d a b e} : exec (.vdwadd k d a b e) s = execVdwadd k d a b e s := rfl
theorem exec_vdwmul {s : State} {k d a b e} : exec (.vdwmul k d a b e) s = execVdwmul k d a b e s := rfl
theorem exec_vdwnorm {s : State} {k d a e} : exec (.vdwnorm k d a e) s = execVdwnorm k d a e s := rfl
theorem exec_vredsumX {s : State} {k d a e} : exec (.vredsumX k d a e) s = execVredsumX k d a e s := rfl
theorem exec_vcvt {s : State} {k d a e qa} : exec (.vcvt k d a e qa) s = execVcvt k d a e qa s := rfl
theorem exec_vscale {s : State} {k d a f e qa} : exec (.vscale k d a f e qa) s = execVscale k d a f e qa s := rfl
theorem exec_vquant {s : State} {k d a b e qa qb} : exec (.vquant k d a b e qa qb) s = execVquant k d a b e qa qb s := rfl
theorem exec_vdeq {s : State} {k d a b e qa qb} : exec (.vdeq k d a b e qa qb) s = execVdeq k d a b e qa qb s := rfl
theorem exec_vld {s : State} {k d a sp o qa} : exec (.vld k d a sp o qa) s = execVld k d a sp o qa s := rfl
theorem exec_vlds {s : State} {k d a b sp o qa} : exec (.vlds k d a b sp o qa) s = execVlds k d a b sp o qa s := rfl
theorem exec_vldx {s : State} {k d a b sp o qa} : exec (.vldx k d a b sp o qa) s = execVldx k d a b sp o qa s := rfl
theorem exec_vldb {s : State} {k d a b sp o qa} : exec (.vldb k d a b sp o qa) s = execVldb k d a b sp o qa s := rfl
theorem exec_vst {s : State} {k d a sp o} : exec (.vst k d a sp o) s = execVst k d a sp o s := rfl
theorem exec_vsts {s : State} {k d a b sp o} : exec (.vsts k d a b sp o) s = execVsts k d a b sp o s := rfl
theorem exec_vstx {s : State} {k d a b sp o} : exec (.vstx k d a b sp o) s = execVstx k d a b sp o s := rfl
theorem exec_vstt {s : State} {d a b} : exec (.vstt d a b) s = execVstt d a b s := rfl
theorem exec_vgather {s : State} {k d a b e qb} : exec (.vgather k d a b e qb) s = execVgather k d a b e qb s := rfl
theorem exec_vslideup {s : State} {k d a b w e qa} : exec (.vslideup k d a b w e qa) s = execVslideup k d a b w e qa s := rfl
theorem exec_vslidedn {s : State} {k d a b w e qa} : exec (.vslidedn k d a b w e qa) s = execVslidedn k d a b w e qa s := rfl
theorem exec_vcompress {s : State} {k d a b e qa} : exec (.vcompress k d a b e qa) s = execVcompress k d a b e qa s := rfl
theorem exec_vexpand {s : State} {k d a b e qa} : exec (.vexpand k d a b e qa) s = execVexpand k d a b e qa s := rfl
theorem exec_vrev {s : State} {k d a w e qa} : exec (.vrev k d a w e qa) s = execVrev k d a w e qa s := rfl
theorem exec_vmand {s : State} {k d a b} : exec (.vmand k d a b) s = execVmand k d a b s := rfl
theorem exec_vmor {s : State} {k d a b} : exec (.vmor k d a b) s = execVmor k d a b s := rfl
theorem exec_vmxor {s : State} {k d a b} : exec (.vmxor k d a b) s = execVmxor k d a b s := rfl
theorem exec_vmnot {s : State} {k d a} : exec (.vmnot k d a) s = execVmnot k d a s := rfl
theorem exec_vmpop {s : State} {k d a} : exec (.vmpop k d a) s = execVmpop k d a s := rfl
theorem exec_vmffs {s : State} {k d a} : exec (.vmffs k d a) s = execVmffs k d a s := rfl
theorem exec_vmset {s : State} {k d a} : exec (.vmset k d a) s = execVmset k d a s := rfl
theorem exec_vmffsr {s : State} {k d a} : exec (.vmffsr k d a) s = execVmffsr k d a s := rfl
theorem exec_vredsum {s : State} {k d a e qa} : exec (.vredsum k d a e qa) s = execVredsum k d a e qa s := rfl
theorem exec_vredmax {s : State} {k d a e qa} : exec (.vredmax k d a e qa) s = execVredmax k d a e qa s := rfl
theorem exec_vredmin {s : State} {k d a e qa} : exec (.vredmin k d a e qa) s = execVredmin k d a e qa s := rfl
theorem exec_vredand {s : State} {k d a e qa} : exec (.vredand k d a e qa) s = execVredand k d a e qa s := rfl
theorem exec_vredor {s : State} {k d a e qa} : exec (.vredor k d a e qa) s = execVredor k d a e qa s := rfl
theorem exec_vscansum {s : State} {k d a b e qa} : exec (.vscansum k d a b e qa) s = execVscansum k d a b e qa s := rfl
theorem exec_vscanmax {s : State} {k d a b e qa} : exec (.vscanmax k d a b e qa) s = execVscanmax k d a b e qa s := rfl
theorem exec_vscanand {s : State} {k d a b e qa} : exec (.vscanand k d a b e qa) s = execVscanand k d a b e qa s := rfl
theorem exec_vsegsum {s : State} {k d a b e qa} : exec (.vsegsum k d a b e qa) s = execVsegsum k d a b e qa s := rfl
theorem exec_vsegmax {s : State} {k d a b e qa} : exec (.vsegmax k d a b e qa) s = execVsegmax k d a b e qa s := rfl
theorem exec_tagw {s : State} {d a b} : exec (.tagw d a b) s = execTagw d a b s := rfl
theorem exec_tagr {s : State} {d a} : exec (.tagr d a) s = execTagr d a s := rfl
theorem exec_tmatch {s : State} {d a} : exec (.tmatch d a) s = execTmatch d a s := rfl
theorem exec_toprSet {s : State} {d a b y} : exec (.toprSet d a b y) s = execToprSet d a b y s := rfl
theorem exec_toprAdd {s : State} {d a b y} : exec (.toprAdd d a b y) s = execToprAdd d a b y s := rfl
theorem exec_toprMuls {s : State} {d a b y} : exec (.toprMuls d a b y) s = execToprMuls d a b y s := rfl
theorem exec_toprClr {s : State} {d a} : exec (.toprClr d a) s = execToprClr d a s := rfl
theorem exec_toprRetag {s : State} {d a b} : exec (.toprRetag d a b) s = execToprRetag d a b s := rfl
theorem exec_mzero {s : State} {d} : exec (.mzero d) s = execMzero d s := rfl
theorem exec_mop {s : State} {d a b} : exec (.mop d a b) s = execMop d a b s := rfl
theorem exec_mldw {s : State} {d a b} : exec (.mldw d a b) s = execMldw d a b s := rfl
theorem exec_mkeep {s : State} {d a b} : exec (.mkeep d a b) s = execMkeep d a b s := rfl
theorem exec_mdrain {s : State} {d a b} : exec (.mdrain d a b) s = execMdrain d a b s := rfl
theorem exec_mtov {s : State} {d a b} : exec (.mtov d a b) s = execMtov d a b s := rfl
theorem exec_mfromv {s : State} {d a b} : exec (.mfromv d a b) s = execMfromv d a b s := rfl
theorem exec_mwait {s : State} : exec (.mwait) s = execMwait s := rfl
theorem exec_dcopy {s : State} {d a b c} : exec (.dcopy d a b c) s = execDcopy d a b c s := rfl
theorem exec_dcopy2d {s : State} {d a} : exec (.dcopy2d d a) s = execDcopy2d d a s := rfl
theorem exec_dfill {s : State} {d a b c} : exec (.dfill d a b c) s = execDfill d a b c s := rfl
theorem exec_tkwait {s : State} {d a sh} : exec (.tkwait d a sh) s = execTkwait d a sh s := rfl
theorem exec_tktest {s : State} {d a sh} : exec (.tktest d a sh) s = execTktest d a sh s := rfl
theorem exec_ddeal {s : State} {d a} : exec (.ddeal d a) s = execDdeal d a s := rfl
theorem exec_cmv {s : State} {d a b c} : exec (.cmv d a b c) s = execCmv d a b c s := rfl
theorem exec_cwrite {s : State} {d a b} : exec (.cwrite d a b) s = execCwrite d a b s := rfl
theorem exec_ccommit {s : State} {d a} : exec (.ccommit d a) s = execCcommit d a s := rfl
theorem exec_cstat {s : State} {d a} : exec (.cstat d a) s = execCstat d a s := rfl
theorem exec_ccal {s : State} {d a} : exec (.ccal d a) s = execCcal d a s := rfl
theorem exec_binst {s : State} {d a b c} : exec (.binst d a b c) s = execBinst d a b c s := rfl
theorem exec_bmsg {s : State} {d a b c} : exec (.bmsg d a b c) s = execBmsg d a b c s := rfl
theorem exec_bstat {s : State} {d a} : exec (.bstat d a) s = execBstat d a s := rfl
theorem exec_vscore {s : State} {k d a b w} : exec (.vscore k d a b w) s = execVscore k d a b w s := rfl
theorem exec_vexpm {s : State} {k d b w} : exec (.vexpm k d b w) s = execVexpm k d b w s := rfl
theorem exec_vaccv {s : State} {k d b} : exec (.vaccv k d b) s = execVaccv k d b s := rfl
theorem exec_vsoftfin {s : State} {k d a b qa} : exec (.vsoftfin k d a b qa) s = execVsoftfin k d a b qa s := rfl
theorem exec_vtreem {s : State} {k d a} : exec (.vtreem k d a) s = execVtreem k d a s := rfl
theorem exec_vaccept {s : State} {k d a} : exec (.vaccept k d a) s = execVaccept k d a s := rfl
theorem exec_vcommitm {s : State} {k d a b qa} : exec (.vcommitm k d a b qa) s = execVcommitm k d a b qa s := rfl
theorem exec_vmaxi {s : State} {k d a b} : exec (.vmaxi k d a b) s = execVmaxi k d a b s := rfl
theorem exec_pdlook {s : State} {d a b c} : exec (.pdlook d a b c) s = execPdlook d a b c s := rfl
theorem exec_pdins {s : State} {d a b c} : exec (.pdins d a b c) s = execPdins d a b c s := rfl
theorem exec_pdref {s : State} {d a} : exec (.pdref d a) s = execPdref d a s := rfl
theorem exec_pdunref {s : State} {d a} : exec (.pdunref d a) s = execPdunref d a s := rfl
theorem exec_pdstat {s : State} {d a} : exec (.pdstat d a) s = execPdstat d a s := rfl
theorem exec_pfx {s : State} {pm pn em ek dc dce rm sat} : exec (.pfx pm pn em ek dc dce rm sat) s = execPfx pm pn em ek dc dce rm sat s := rfl
theorem exec_bHalt {s : State} : exec (.bHalt) s = execBHalt s := rfl
theorem exec_bLi {s : State} {d imm} : exec (.bLi d imm) s = execBLi d imm s := rfl
theorem exec_bAdd {s : State} {d a b imm} : exec (.bAdd d a b imm) s = execBAdd d a b imm s := rfl
theorem exec_bSub {s : State} {d a b} : exec (.bSub d a b) s = execBSub d a b s := rfl
theorem exec_bAnd {s : State} {d a b} : exec (.bAnd d a b) s = execBAnd d a b s := rfl
theorem exec_bShl {s : State} {d a imm} : exec (.bShl d a imm) s = execBShl d a imm s := rfl
theorem exec_bShr {s : State} {d a imm} : exec (.bShr d a imm) s = execBShr d a imm s := rfl
theorem exec_bBnz {s : State} {a imm} : exec (.bBnz a imm) s = execBBnz a imm s := rfl
theorem exec_bBz {s : State} {a imm} : exec (.bBz a imm) s = execBBz a imm s := rfl
theorem exec_bLdq {s : State} {d a imm} : exec (.bLdq d a imm) s = execBLdq d a imm s := rfl
theorem exec_bStq {s : State} {a b imm} : exec (.bStq a b imm) s = execBStq a b imm s := rfl
theorem exec_bMode {s : State} {imm} : exec (.bMode imm) s = execBMode imm s := rfl
theorem exec_bAct {s : State} {a} : exec (.bAct a) s = execBAct a s := rfl
theorem exec_bPre {s : State} : exec (.bPre) s = execBPre s := rfl
theorem exec_bXld {s : State} {a imm} : exec (.bXld a imm) s = execBXld a imm s := rfl
theorem exec_bMac {s : State} {a b} : exec (.bMac a b) s = execBMac a b s := rfl
theorem exec_bAclr {s : State} : exec (.bAclr) s = execBAclr s := rfl
theorem exec_bAclrEntry {s : State} {b} : exec (.bAclrEntry b) s = execBAclrEntry b s := rfl
theorem exec_bArd {s : State} {a b} : exec (.bArd a b) s = execBArd a b s := rfl
theorem exec_bRout {s : State} {a imm} : exec (.bRout a imm) s = execBRout a imm s := rfl
theorem exec_deviceReset {s : State} : exec (.deviceReset) s = execDeviceReset s := rfl
theorem exec_bootStage {s : State} {img readable passes} : exec (.bootStage img readable passes) s = execBootStage img readable passes s := rfl
theorem exec_coreCycle {s : State} : exec (.coreCycle) s = execCoreCycle s := rfl
theorem exec_laneHoldExpiry {s : State} {h} : exec (.laneHoldExpiry h) s = execLaneHoldExpiry h s := rfl
theorem exec_laneGrant {s : State} {core} : exec (.laneGrant core) s = execLaneGrant core s := rfl
theorem exec_budget {s : State} : exec (.budget) s = execBudget s := rfl
theorem exec_launchWaitExpiry {s : State} {ctx} : exec (.launchWaitExpiry ctx) s = execLaunchWaitExpiry ctx s := rfl
theorem exec_gangPlacement {s : State} {ctx places} : exec (.gangPlacement ctx places) s = execGangPlacement ctx places s := rfl
theorem exec_memberExit {s : State} {h} : exec (.memberExit h) s = execMemberExit h s := rfl
theorem exec_barrierComplete {s : State} {gang bar} : exec (.barrierComplete gang bar) s = execBarrierComplete gang bar s := rfl
theorem exec_waittInstant {s : State} {h} : exec (.waittInstant h) s = execWaittInstant h s := rfl
theorem exec_waitaddrWake {s : State} {h} : exec (.waitaddrWake h) s = execWaitaddrWake h s := rfl
theorem exec_sendtArrival {s : State} {imm} : exec (.sendtArrival imm) s = execSendtArrival imm s := rfl
theorem exec_matrixExecute {s : State} {h} : exec (.matrixExecute h) s = execMatrixExecute h s := rfl
theorem exec_copyComplete {s : State} {cmd} : exec (.copyComplete cmd) s = execCopyComplete cmd s := rfl
theorem exec_dealPassage {s : State} {cmd} : exec (.dealPassage cmd) s = execDealPassage cmd s := rfl
theorem exec_cwriteComplete {s : State} {cmd} : exec (.cwriteComplete cmd) s = execCwriteComplete cmd s := rfl
theorem exec_versionSwitch {s : State} {cmd} : exec (.versionSwitch cmd) s = execVersionSwitch cmd s := rfl
theorem exec_arrayPass {s : State} {cmd tile plumbOk} : exec (.arrayPass cmd tile plumbOk) s = execArrayPass cmd tile plumbOk s := rfl
theorem exec_cmvComplete {s : State} {cmd} : exec (.cmvComplete cmd) s = execCmvComplete cmd s := rfl
theorem exec_recalibration {s : State} {ctx handle tile} : exec (.recalibration ctx handle tile) s = execRecalibration ctx handle tile s := rfl
theorem exec_rotationSwitch {s : State} {ctx handle} : exec (.rotationSwitch ctx handle) s = execRotationSwitch ctx handle s := rfl
theorem exec_handlerStart {s : State} {chan} : exec (.handlerStart chan) s = execHandlerStart chan s := rfl
theorem exec_modeSwitchDone {s : State} {chan} : exec (.modeSwitchDone chan) s = execModeSwitchDone chan s := rfl
theorem exec_kittyService {s : State} {stack normalCost} :
    exec (.kittyService stack normalCost) s = execKittyService stack normalCost s := rfl
theorem exec_patrol {s : State} {code target at_} : exec (.patrol code target at_) s = execPatrol code target at_ s := rfl
theorem exec_faultHoldRelease {s : State} {ctx page} : exec (.faultHoldRelease ctx page) s = execFaultHoldRelease ctx page s := rfl
theorem exec_coreSwitch {s : State} {core ctx} : exec (.coreSwitch core ctx) s = execCoreSwitch core ctx s := rfl
theorem exec_localStoreSave {s : State} {core} : exec (.localStoreSave core) s = execLocalStoreSave core s := rfl
theorem exec_killScrub {s : State} {ctx bad} : exec (.killScrub ctx bad) s = execKillScrub ctx bad s := rfl
theorem exec_releaseScrub {s : State} {ctx bad} : exec (.releaseScrub ctx bad) s = execReleaseScrub ctx bad s := rfl
theorem exec_errorEntryDone {s : State} {ctx} : exec (.errorEntryDone ctx) s = execErrorEntryDone ctx s := rfl
theorem exec_linkDown {s : State} {link} : exec (.linkDown link) s = execLinkDown link s := rfl
theorem exec_linkRetrained {s : State} {link} : exec (.linkRetrained link) s = execLinkRetrained link s := rfl
theorem exec_peerPortFail {s : State} {port} : exec (.peerPortFail port) s = execPeerPortFail port s := rfl
theorem exec_hostLinkFail {s : State} : exec (.hostLinkFail) s = execHostLinkFail s := rfl
theorem exec_hostLinkReset {s : State} : exec (.hostLinkReset) s = execHostLinkReset s := rfl
theorem exec_ideIntegrityFailure {s : State} {ctx} : exec (.ideIntegrityFailure ctx) s = execIdeIntegrityFailure ctx s := rfl
theorem exec_tdispViolation {s : State} {ctx} : exec (.tdispViolation ctx) s = execTdispViolation ctx s := rfl
theorem exec_flr {s : State} {ctx} : exec (.flr ctx) s = execFlr ctx s := rfl
theorem exec_lockInterface {s : State} {ctx} : exec (.lockInterface ctx) s = execLockInterface ctx s := rfl
theorem exec_startInterface {s : State} {ctx} : exec (.startInterface ctx) s = execStartInterface ctx s := rfl
theorem exec_stopInterface {s : State} {ctx} : exec (.stopInterface ctx) s = execStopInterface ctx s := rfl
theorem exec_getDeviceInterfaceReport {s : State} {ctx} : exec (.getDeviceInterfaceReport ctx) s = execGetDeviceInterfaceReport ctx s := rfl
theorem exec_getDeviceInterfaceState {s : State} {ctx} : exec (.getDeviceInterfaceState ctx) s = execGetDeviceInterfaceState ctx s := rfl
theorem exec_getVersion {s : State} : exec (.getVersion) s = execGetVersion s := rfl
theorem exec_getCapabilities {s : State} : exec (.getCapabilities) s = execGetCapabilities s := rfl
theorem exec_negotiateAlgorithms {s : State} {asym hash} : exec (.negotiateAlgorithms asym hash) s = execNegotiateAlgorithms asym hash s := rfl
theorem exec_getDigests {s : State} : exec (.getDigests) s = execGetDigests s := rfl
theorem exec_getCertificate {s : State} : exec (.getCertificate) s = execGetCertificate s := rfl
theorem exec_challenge {s : State} {nonce} : exec (.challenge nonce) s = execChallenge nonce s := rfl
theorem exec_getMeasurements {s : State} {signed nonce} : exec (.getMeasurements signed nonce) s = execGetMeasurements signed nonce s := rfl
theorem exec_keyExchange {s : State} {data} : exec (.keyExchange data) s = execKeyExchange data s := rfl
theorem exec_finish {s : State} {data} : exec (.finish data) s = execFinish data s := rfl
theorem exec_ideKm {s : State} {fn key} : exec (.ideKm fn key) s = execIdeKm fn key s := rfl
theorem exec_d3cold {s : State} : exec (.d3cold) s = execD3cold s := rfl
theorem exec_d3hotRequest {s : State} : exec (.d3hotRequest) s = execD3hotRequest s := rfl
theorem exec_start {s : State} {ctx hseq} : exec (.start ctx hseq) s = execStart ctx hseq s := rfl
theorem exec_grant {s : State} {mseq} : exec (.grant mseq) s = execGrant mseq s := rfl
theorem exec_exportAudit {s : State} {mseq} : exec (.exportAudit mseq) s = execExportAudit mseq s := rfl
theorem exec_auditack {s : State} {v} : exec (.auditack v) s = execAuditack v s := rfl
theorem exec_powerLimit {s : State} {v} : exec (.powerLimit v) s = execPowerLimit v s := rfl
theorem exec_powerWindow {s : State} {watts} : exec (.powerWindow watts) s = execPowerWindow watts s := rfl
theorem exec_registerWrite {s : State} {fn off v} : exec (.registerWrite fn off v) s = execRegisterWrite fn off v s := rfl
theorem exec_hostOrPeerWrite {s : State} {peer pa data} : exec (.hostOrPeerWrite peer pa data) s = execHostOrPeerWrite peer pa data s := rfl
theorem exec_cxlMemRead {s : State} {pa n} : exec (.cxlMemRead pa n) s = execCxlMemRead pa n s := rfl
theorem exec_snoopInvalidate {s : State} {pa data} : exec (.snoopInvalidate pa data) s = execSnoopInvalidate pa data s := rfl
theorem exec_illegal {s : State} {word} : exec (.illegal word) s = execIllegal word s := rfl
theorem exec_handlerInstall {s : State} {chan} : exec (.handlerInstall chan) s = execHandlerInstall chan s := rfl
theorem exec_peerRead {s : State} {pa n} : exec (.peerRead pa n) s = execPeerRead pa n s := rfl
theorem exec_unknownOp {s : State} {mseq} : exec (.unknownOp mseq) s = execUnknownOp mseq s := rfl

end Machine
end Sys2Proof
end

