-- ==== Sys2Proof/Laws/State.lean ====
section
/-! SUPPORT. What each named update of the state leaves in each field: one lemma per field per update, by rfl. -/

namespace Sys2Proof
namespace Machine

/-- The registers are those of the executing hart. -/
@[simp] theorem State.regs_eq (s : State) : s.regs = s.hart.regs := rfl

/-! ### setHart -/

@[simp] theorem State.setHart_agenda (s : State) (h : Hart) : (s.setHart h).agenda = s.agenda := rfl
@[simp] theorem State.setHart_gtime (s : State) (h : Hart) : (s.setHart h).gtime = s.gtime := rfl
@[simp] theorem State.setHart_free (s : State) (h : Hart) : (s.setHart h).free = s.free := rfl
@[simp] theorem State.setHart_cur (s : State) (h : Hart) : (s.setHart h).cur = s.cur := rfl
@[simp] theorem State.setHart_hart (s : State) (h : Hart) : (s.setHart h).hart = h := rfl
@[simp] theorem State.setHart_harts (s : State) (h : Hart) : (s.setHart h).harts = s.harts := rfl
@[simp] theorem State.setHart_bank (s : State) (h : Hart) : (s.setHart h).bank = s.bank := rfl
@[simp] theorem State.setHart_cores (s : State) (h : Hart) : (s.setHart h).cores = s.cores := rfl
@[simp] theorem State.setHart_gangs (s : State) (h : Hart) : (s.setHart h).gangs = s.gangs := rfl
@[simp] theorem State.setHart_nextGang (s : State) (h : Hart) : (s.setHart h).nextGang = s.nextGang := rfl
@[simp] theorem State.setHart_gids (s : State) (h : Hart) : (s.setHart h).gids = s.gids := rfl
@[simp] theorem State.setHart_ctxs (s : State) (h : Hart) : (s.setHart h).ctxs = s.ctxs := rfl
@[simp] theorem State.setHart_cmds (s : State) (h : Hart) : (s.setHart h).cmds = s.cmds := rfl
@[simp] theorem State.setHart_nextCmd (s : State) (h : Hart) : (s.setHart h).nextCmd = s.nextCmd := rfl
@[simp] theorem State.setHart_transfers (s : State) (h : Hart) : (s.setHart h).transfers = s.transfers := rfl
@[simp] theorem State.setHart_chans (s : State) (h : Hart) : (s.setHart h).chans = s.chans := rfl
@[simp] theorem State.setHart_kitties (s : State) (h : Hart) : (s.setHart h).kitties = s.kitties := rfl
@[simp] theorem State.setHart_warrays (s : State) (h : Hart) : (s.setHart h).warrays = s.warrays := rfl
@[simp] theorem State.setHart_mem (s : State) (h : Hart) : (s.setHart h).mem = s.mem := rfl
@[simp] theorem State.setHart_written (s : State) (h : Hart) : (s.setHart h).written = s.written := rfl
@[simp] theorem State.setHart_badUnits (s : State) (h : Hart) : (s.setHart h).badUnits = s.badUnits := rfl
@[simp] theorem State.setHart_tlb (s : State) (h : Hart) : (s.setHart h).tlb = s.tlb := rfl
@[simp] theorem State.setHart_xinvs (s : State) (h : Hart) : (s.setHart h).xinvs = s.xinvs := rfl
@[simp] theorem State.setHart_leaders (s : State) (h : Hart) : (s.setHart h).leaders = s.leaders := rfl
@[simp] theorem State.setHart_waiting (s : State) (h : Hart) : (s.setHart h).waiting = s.waiting := rfl
@[simp] theorem State.setHart_dev (s : State) (h : Hart) : (s.setHart h).dev = s.dev := rfl

/-! ### setRegs -/

@[simp] theorem State.setRegs_agenda (s : State) (r : Regs) : (s.setRegs r).agenda = s.agenda := rfl
@[simp] theorem State.setRegs_gtime (s : State) (r : Regs) : (s.setRegs r).gtime = s.gtime := rfl
@[simp] theorem State.setRegs_free (s : State) (r : Regs) : (s.setRegs r).free = s.free := rfl
@[simp] theorem State.setRegs_cur (s : State) (r : Regs) : (s.setRegs r).cur = s.cur := rfl
@[simp] theorem State.setRegs_hart (s : State) (r : Regs) : (s.setRegs r).hart = { s.hart with regs := r } := rfl
@[simp] theorem State.setRegs_harts (s : State) (r : Regs) : (s.setRegs r).harts = s.harts := rfl
@[simp] theorem State.setRegs_bank (s : State) (r : Regs) : (s.setRegs r).bank = s.bank := rfl
@[simp] theorem State.setRegs_cores (s : State) (r : Regs) : (s.setRegs r).cores = s.cores := rfl
@[simp] theorem State.setRegs_gangs (s : State) (r : Regs) : (s.setRegs r).gangs = s.gangs := rfl
@[simp] theorem State.setRegs_nextGang (s : State) (r : Regs) : (s.setRegs r).nextGang = s.nextGang := rfl
@[simp] theorem State.setRegs_gids (s : State) (r : Regs) : (s.setRegs r).gids = s.gids := rfl
@[simp] theorem State.setRegs_ctxs (s : State) (r : Regs) : (s.setRegs r).ctxs = s.ctxs := rfl
@[simp] theorem State.setRegs_cmds (s : State) (r : Regs) : (s.setRegs r).cmds = s.cmds := rfl
@[simp] theorem State.setRegs_nextCmd (s : State) (r : Regs) : (s.setRegs r).nextCmd = s.nextCmd := rfl
@[simp] theorem State.setRegs_transfers (s : State) (r : Regs) : (s.setRegs r).transfers = s.transfers := rfl
@[simp] theorem State.setRegs_chans (s : State) (r : Regs) : (s.setRegs r).chans = s.chans := rfl
@[simp] theorem State.setRegs_kitties (s : State) (r : Regs) : (s.setRegs r).kitties = s.kitties := rfl
@[simp] theorem State.setRegs_warrays (s : State) (r : Regs) : (s.setRegs r).warrays = s.warrays := rfl
@[simp] theorem State.setRegs_mem (s : State) (r : Regs) : (s.setRegs r).mem = s.mem := rfl
@[simp] theorem State.setRegs_written (s : State) (r : Regs) : (s.setRegs r).written = s.written := rfl
@[simp] theorem State.setRegs_badUnits (s : State) (r : Regs) : (s.setRegs r).badUnits = s.badUnits := rfl
@[simp] theorem State.setRegs_tlb (s : State) (r : Regs) : (s.setRegs r).tlb = s.tlb := rfl
@[simp] theorem State.setRegs_xinvs (s : State) (r : Regs) : (s.setRegs r).xinvs = s.xinvs := rfl
@[simp] theorem State.setRegs_leaders (s : State) (r : Regs) : (s.setRegs r).leaders = s.leaders := rfl
@[simp] theorem State.setRegs_waiting (s : State) (r : Regs) : (s.setRegs r).waiting = s.waiting := rfl
@[simp] theorem State.setRegs_dev (s : State) (r : Regs) : (s.setRegs r).dev = s.dev := rfl

/-! ### setX -/

@[simp] theorem State.setX_agenda (s : State) (d : BitVec 5) (v : XWord) : (s.setX d v).agenda = s.agenda := rfl
@[simp] theorem State.setX_gtime (s : State) (d : BitVec 5) (v : XWord) : (s.setX d v).gtime = s.gtime := rfl
@[simp] theorem State.setX_free (s : State) (d : BitVec 5) (v : XWord) : (s.setX d v).free = s.free := rfl
@[simp] theorem State.setX_cur (s : State) (d : BitVec 5) (v : XWord) : (s.setX d v).cur = s.cur := rfl
@[simp] theorem State.setX_hart (s : State) (d : BitVec 5) (v : XWord) : (s.setX d v).hart = { s.hart with regs := writeX s.hart.regs d v } := rfl
@[simp] theorem State.setX_harts (s : State) (d : BitVec 5) (v : XWord) : (s.setX d v).harts = s.harts := rfl
@[simp] theorem State.setX_bank (s : State) (d : BitVec 5) (v : XWord) : (s.setX d v).bank = s.bank := rfl
@[simp] theorem State.setX_cores (s : State) (d : BitVec 5) (v : XWord) : (s.setX d v).cores = s.cores := rfl
@[simp] theorem State.setX_gangs (s : State) (d : BitVec 5) (v : XWord) : (s.setX d v).gangs = s.gangs := rfl
@[simp] theorem State.setX_nextGang (s : State) (d : BitVec 5) (v : XWord) : (s.setX d v).nextGang = s.nextGang := rfl
@[simp] theorem State.setX_gids (s : State) (d : BitVec 5) (v : XWord) : (s.setX d v).gids = s.gids := rfl
@[simp] theorem State.setX_ctxs (s : State) (d : BitVec 5) (v : XWord) : (s.setX d v).ctxs = s.ctxs := rfl
@[simp] theorem State.setX_cmds (s : State) (d : BitVec 5) (v : XWord) : (s.setX d v).cmds = s.cmds := rfl
@[simp] theorem State.setX_nextCmd (s : State) (d : BitVec 5) (v : XWord) : (s.setX d v).nextCmd = s.nextCmd := rfl
@[simp] theorem State.setX_transfers (s : State) (d : BitVec 5) (v : XWord) : (s.setX d v).transfers = s.transfers := rfl
@[simp] theorem State.setX_chans (s : State) (d : BitVec 5) (v : XWord) : (s.setX d v).chans = s.chans := rfl
@[simp] theorem State.setX_kitties (s : State) (d : BitVec 5) (v : XWord) : (s.setX d v).kitties = s.kitties := rfl
@[simp] theorem State.setX_warrays (s : State) (d : BitVec 5) (v : XWord) : (s.setX d v).warrays = s.warrays := rfl
@[simp] theorem State.setX_mem (s : State) (d : BitVec 5) (v : XWord) : (s.setX d v).mem = s.mem := rfl
@[simp] theorem State.setX_written (s : State) (d : BitVec 5) (v : XWord) : (s.setX d v).written = s.written := rfl
@[simp] theorem State.setX_badUnits (s : State) (d : BitVec 5) (v : XWord) : (s.setX d v).badUnits = s.badUnits := rfl
@[simp] theorem State.setX_tlb (s : State) (d : BitVec 5) (v : XWord) : (s.setX d v).tlb = s.tlb := rfl
@[simp] theorem State.setX_xinvs (s : State) (d : BitVec 5) (v : XWord) : (s.setX d v).xinvs = s.xinvs := rfl
@[simp] theorem State.setX_leaders (s : State) (d : BitVec 5) (v : XWord) : (s.setX d v).leaders = s.leaders := rfl
@[simp] theorem State.setX_waiting (s : State) (d : BitVec 5) (v : XWord) : (s.setX d v).waiting = s.waiting := rfl
@[simp] theorem State.setX_dev (s : State) (d : BitVec 5) (v : XWord) : (s.setX d v).dev = s.dev := rfl

/-! ### setPc -/

@[simp] theorem State.setPc_agenda (s : State) (v : XWord) : (s.setPc v).agenda = s.agenda := rfl
@[simp] theorem State.setPc_gtime (s : State) (v : XWord) : (s.setPc v).gtime = s.gtime := rfl
@[simp] theorem State.setPc_free (s : State) (v : XWord) : (s.setPc v).free = s.free := rfl
@[simp] theorem State.setPc_cur (s : State) (v : XWord) : (s.setPc v).cur = s.cur := rfl
@[simp] theorem State.setPc_hart (s : State) (v : XWord) : (s.setPc v).hart = { s.hart with regs := { s.hart.regs with pc := v } } := rfl
@[simp] theorem State.setPc_harts (s : State) (v : XWord) : (s.setPc v).harts = s.harts := rfl
@[simp] theorem State.setPc_bank (s : State) (v : XWord) : (s.setPc v).bank = s.bank := rfl
@[simp] theorem State.setPc_cores (s : State) (v : XWord) : (s.setPc v).cores = s.cores := rfl
@[simp] theorem State.setPc_gangs (s : State) (v : XWord) : (s.setPc v).gangs = s.gangs := rfl
@[simp] theorem State.setPc_nextGang (s : State) (v : XWord) : (s.setPc v).nextGang = s.nextGang := rfl
@[simp] theorem State.setPc_gids (s : State) (v : XWord) : (s.setPc v).gids = s.gids := rfl
@[simp] theorem State.setPc_ctxs (s : State) (v : XWord) : (s.setPc v).ctxs = s.ctxs := rfl
@[simp] theorem State.setPc_cmds (s : State) (v : XWord) : (s.setPc v).cmds = s.cmds := rfl
@[simp] theorem State.setPc_nextCmd (s : State) (v : XWord) : (s.setPc v).nextCmd = s.nextCmd := rfl
@[simp] theorem State.setPc_transfers (s : State) (v : XWord) : (s.setPc v).transfers = s.transfers := rfl
@[simp] theorem State.setPc_chans (s : State) (v : XWord) : (s.setPc v).chans = s.chans := rfl
@[simp] theorem State.setPc_kitties (s : State) (v : XWord) : (s.setPc v).kitties = s.kitties := rfl
@[simp] theorem State.setPc_warrays (s : State) (v : XWord) : (s.setPc v).warrays = s.warrays := rfl
@[simp] theorem State.setPc_mem (s : State) (v : XWord) : (s.setPc v).mem = s.mem := rfl
@[simp] theorem State.setPc_written (s : State) (v : XWord) : (s.setPc v).written = s.written := rfl
@[simp] theorem State.setPc_badUnits (s : State) (v : XWord) : (s.setPc v).badUnits = s.badUnits := rfl
@[simp] theorem State.setPc_tlb (s : State) (v : XWord) : (s.setPc v).tlb = s.tlb := rfl
@[simp] theorem State.setPc_xinvs (s : State) (v : XWord) : (s.setPc v).xinvs = s.xinvs := rfl
@[simp] theorem State.setPc_leaders (s : State) (v : XWord) : (s.setPc v).leaders = s.leaders := rfl
@[simp] theorem State.setPc_waiting (s : State) (v : XWord) : (s.setPc v).waiting = s.waiting := rfl
@[simp] theorem State.setPc_dev (s : State) (v : XWord) : (s.setPc v).dev = s.dev := rfl

/-! ### advance -/

@[simp] theorem State.advance_agenda (s : State) : (s.advance).agenda = s.agenda := rfl
@[simp] theorem State.advance_gtime (s : State) : (s.advance).gtime = s.gtime := rfl
@[simp] theorem State.advance_free (s : State) : (s.advance).free = s.free := rfl
@[simp] theorem State.advance_cur (s : State) : (s.advance).cur = s.cur := rfl
@[simp] theorem State.advance_hart (s : State) : (s.advance).hart = { s.hart with regs := { s.hart.regs with pc := s.hart.regs.pc + 4 } } := rfl
@[simp] theorem State.advance_harts (s : State) : (s.advance).harts = s.harts := rfl
@[simp] theorem State.advance_bank (s : State) : (s.advance).bank = s.bank := rfl
@[simp] theorem State.advance_cores (s : State) : (s.advance).cores = s.cores := rfl
@[simp] theorem State.advance_gangs (s : State) : (s.advance).gangs = s.gangs := rfl
@[simp] theorem State.advance_nextGang (s : State) : (s.advance).nextGang = s.nextGang := rfl
@[simp] theorem State.advance_gids (s : State) : (s.advance).gids = s.gids := rfl
@[simp] theorem State.advance_ctxs (s : State) : (s.advance).ctxs = s.ctxs := rfl
@[simp] theorem State.advance_cmds (s : State) : (s.advance).cmds = s.cmds := rfl
@[simp] theorem State.advance_nextCmd (s : State) : (s.advance).nextCmd = s.nextCmd := rfl
@[simp] theorem State.advance_transfers (s : State) : (s.advance).transfers = s.transfers := rfl
@[simp] theorem State.advance_chans (s : State) : (s.advance).chans = s.chans := rfl
@[simp] theorem State.advance_kitties (s : State) : (s.advance).kitties = s.kitties := rfl
@[simp] theorem State.advance_warrays (s : State) : (s.advance).warrays = s.warrays := rfl
@[simp] theorem State.advance_mem (s : State) : (s.advance).mem = s.mem := rfl
@[simp] theorem State.advance_written (s : State) : (s.advance).written = s.written := rfl
@[simp] theorem State.advance_badUnits (s : State) : (s.advance).badUnits = s.badUnits := rfl
@[simp] theorem State.advance_tlb (s : State) : (s.advance).tlb = s.tlb := rfl
@[simp] theorem State.advance_xinvs (s : State) : (s.advance).xinvs = s.xinvs := rfl
@[simp] theorem State.advance_leaders (s : State) : (s.advance).leaders = s.leaders := rfl
@[simp] theorem State.advance_waiting (s : State) : (s.advance).waiting = s.waiting := rfl
@[simp] theorem State.advance_dev (s : State) : (s.advance).dev = s.dev := rfl

/-! ### raise -/

@[simp] theorem State.raise_agenda (s : State) (f : Flags) : (s.raise f).agenda = s.agenda := rfl
@[simp] theorem State.raise_gtime (s : State) (f : Flags) : (s.raise f).gtime = s.gtime := rfl
@[simp] theorem State.raise_free (s : State) (f : Flags) : (s.raise f).free = s.free := rfl
@[simp] theorem State.raise_cur (s : State) (f : Flags) : (s.raise f).cur = s.cur := rfl
@[simp] theorem State.raise_hart (s : State) (f : Flags) : (s.raise f).hart = { s.hart with regs := { s.hart.regs with fflags := accrue s.hart.regs.fflags f } } := rfl
@[simp] theorem State.raise_harts (s : State) (f : Flags) : (s.raise f).harts = s.harts := rfl
@[simp] theorem State.raise_bank (s : State) (f : Flags) : (s.raise f).bank = s.bank := rfl
@[simp] theorem State.raise_cores (s : State) (f : Flags) : (s.raise f).cores = s.cores := rfl
@[simp] theorem State.raise_gangs (s : State) (f : Flags) : (s.raise f).gangs = s.gangs := rfl
@[simp] theorem State.raise_nextGang (s : State) (f : Flags) : (s.raise f).nextGang = s.nextGang := rfl
@[simp] theorem State.raise_gids (s : State) (f : Flags) : (s.raise f).gids = s.gids := rfl
@[simp] theorem State.raise_ctxs (s : State) (f : Flags) : (s.raise f).ctxs = s.ctxs := rfl
@[simp] theorem State.raise_cmds (s : State) (f : Flags) : (s.raise f).cmds = s.cmds := rfl
@[simp] theorem State.raise_nextCmd (s : State) (f : Flags) : (s.raise f).nextCmd = s.nextCmd := rfl
@[simp] theorem State.raise_transfers (s : State) (f : Flags) : (s.raise f).transfers = s.transfers := rfl
@[simp] theorem State.raise_chans (s : State) (f : Flags) : (s.raise f).chans = s.chans := rfl
@[simp] theorem State.raise_kitties (s : State) (f : Flags) : (s.raise f).kitties = s.kitties := rfl
@[simp] theorem State.raise_warrays (s : State) (f : Flags) : (s.raise f).warrays = s.warrays := rfl
@[simp] theorem State.raise_mem (s : State) (f : Flags) : (s.raise f).mem = s.mem := rfl
@[simp] theorem State.raise_written (s : State) (f : Flags) : (s.raise f).written = s.written := rfl
@[simp] theorem State.raise_badUnits (s : State) (f : Flags) : (s.raise f).badUnits = s.badUnits := rfl
@[simp] theorem State.raise_tlb (s : State) (f : Flags) : (s.raise f).tlb = s.tlb := rfl
@[simp] theorem State.raise_xinvs (s : State) (f : Flags) : (s.raise f).xinvs = s.xinvs := rfl
@[simp] theorem State.raise_leaders (s : State) (f : Flags) : (s.raise f).leaders = s.leaders := rfl
@[simp] theorem State.raise_waiting (s : State) (f : Flags) : (s.raise f).waiting = s.waiting := rfl
@[simp] theorem State.raise_dev (s : State) (f : Flags) : (s.raise f).dev = s.dev := rfl

/-! ### buffer -/

@[simp] theorem State.buffer_agenda (s : State) (t : StoreRec) : (s.buffer t).agenda = s.agenda := rfl
@[simp] theorem State.buffer_gtime (s : State) (t : StoreRec) : (s.buffer t).gtime = s.gtime := rfl
@[simp] theorem State.buffer_free (s : State) (t : StoreRec) : (s.buffer t).free = s.free := rfl
@[simp] theorem State.buffer_cur (s : State) (t : StoreRec) : (s.buffer t).cur = s.cur := rfl
@[simp] theorem State.buffer_hart (s : State) (t : StoreRec) : (s.buffer t).hart = { s.hart with regs := { s.hart.regs with storeBuf := s.hart.regs.storeBuf ++ [t] } } := rfl
@[simp] theorem State.buffer_harts (s : State) (t : StoreRec) : (s.buffer t).harts = s.harts := rfl
@[simp] theorem State.buffer_bank (s : State) (t : StoreRec) : (s.buffer t).bank = s.bank := rfl
@[simp] theorem State.buffer_cores (s : State) (t : StoreRec) : (s.buffer t).cores = s.cores := rfl
@[simp] theorem State.buffer_gangs (s : State) (t : StoreRec) : (s.buffer t).gangs = s.gangs := rfl
@[simp] theorem State.buffer_nextGang (s : State) (t : StoreRec) : (s.buffer t).nextGang = s.nextGang := rfl
@[simp] theorem State.buffer_gids (s : State) (t : StoreRec) : (s.buffer t).gids = s.gids := rfl
@[simp] theorem State.buffer_ctxs (s : State) (t : StoreRec) : (s.buffer t).ctxs = s.ctxs := rfl
@[simp] theorem State.buffer_cmds (s : State) (t : StoreRec) : (s.buffer t).cmds = s.cmds := rfl
@[simp] theorem State.buffer_nextCmd (s : State) (t : StoreRec) : (s.buffer t).nextCmd = s.nextCmd := rfl
@[simp] theorem State.buffer_transfers (s : State) (t : StoreRec) : (s.buffer t).transfers = s.transfers := rfl
@[simp] theorem State.buffer_chans (s : State) (t : StoreRec) : (s.buffer t).chans = s.chans := rfl
@[simp] theorem State.buffer_kitties (s : State) (t : StoreRec) : (s.buffer t).kitties = s.kitties := rfl
@[simp] theorem State.buffer_warrays (s : State) (t : StoreRec) : (s.buffer t).warrays = s.warrays := rfl
@[simp] theorem State.buffer_mem (s : State) (t : StoreRec) : (s.buffer t).mem = s.mem := rfl
@[simp] theorem State.buffer_written (s : State) (t : StoreRec) : (s.buffer t).written = s.written := rfl
@[simp] theorem State.buffer_badUnits (s : State) (t : StoreRec) : (s.buffer t).badUnits = s.badUnits := rfl
@[simp] theorem State.buffer_tlb (s : State) (t : StoreRec) : (s.buffer t).tlb = s.tlb := rfl
@[simp] theorem State.buffer_xinvs (s : State) (t : StoreRec) : (s.buffer t).xinvs = s.xinvs := rfl
@[simp] theorem State.buffer_leaders (s : State) (t : StoreRec) : (s.buffer t).leaders = s.leaders := rfl
@[simp] theorem State.buffer_waiting (s : State) (t : StoreRec) : (s.buffer t).waiting = s.waiting := rfl
@[simp] theorem State.buffer_dev (s : State) (t : StoreRec) : (s.buffer t).dev = s.dev := rfl

/-! ### openStrip -/

@[simp] theorem State.openStrip_agenda (s : State) (p : XWord) : (s.openStrip p).agenda = s.agenda := rfl
@[simp] theorem State.openStrip_gtime (s : State) (p : XWord) : (s.openStrip p).gtime = s.gtime := rfl
@[simp] theorem State.openStrip_free (s : State) (p : XWord) : (s.openStrip p).free = s.free := rfl
@[simp] theorem State.openStrip_cur (s : State) (p : XWord) : (s.openStrip p).cur = s.cur := rfl
@[simp] theorem State.openStrip_hart (s : State) (p : XWord) : (s.openStrip p).hart = { s.hart with ckpt := snapshot s.hart.regs p, scp := p.setWidth 57, stripOpened := s.gtime, early := false } := rfl
@[simp] theorem State.openStrip_harts (s : State) (p : XWord) : (s.openStrip p).harts = s.harts := rfl
@[simp] theorem State.openStrip_bank (s : State) (p : XWord) : (s.openStrip p).bank = s.bank := rfl
@[simp] theorem State.openStrip_cores (s : State) (p : XWord) : (s.openStrip p).cores = s.cores := rfl
@[simp] theorem State.openStrip_gangs (s : State) (p : XWord) : (s.openStrip p).gangs = s.gangs := rfl
@[simp] theorem State.openStrip_nextGang (s : State) (p : XWord) : (s.openStrip p).nextGang = s.nextGang := rfl
@[simp] theorem State.openStrip_gids (s : State) (p : XWord) : (s.openStrip p).gids = s.gids := rfl
@[simp] theorem State.openStrip_ctxs (s : State) (p : XWord) : (s.openStrip p).ctxs = s.ctxs := rfl
@[simp] theorem State.openStrip_cmds (s : State) (p : XWord) : (s.openStrip p).cmds = s.cmds := rfl
@[simp] theorem State.openStrip_nextCmd (s : State) (p : XWord) : (s.openStrip p).nextCmd = s.nextCmd := rfl
@[simp] theorem State.openStrip_transfers (s : State) (p : XWord) : (s.openStrip p).transfers = s.transfers := rfl
@[simp] theorem State.openStrip_chans (s : State) (p : XWord) : (s.openStrip p).chans = s.chans := rfl
@[simp] theorem State.openStrip_kitties (s : State) (p : XWord) : (s.openStrip p).kitties = s.kitties := rfl
@[simp] theorem State.openStrip_warrays (s : State) (p : XWord) : (s.openStrip p).warrays = s.warrays := rfl
@[simp] theorem State.openStrip_mem (s : State) (p : XWord) : (s.openStrip p).mem = s.mem := rfl
@[simp] theorem State.openStrip_written (s : State) (p : XWord) : (s.openStrip p).written = s.written := rfl
@[simp] theorem State.openStrip_badUnits (s : State) (p : XWord) : (s.openStrip p).badUnits = s.badUnits := rfl
@[simp] theorem State.openStrip_tlb (s : State) (p : XWord) : (s.openStrip p).tlb = s.tlb := rfl
@[simp] theorem State.openStrip_xinvs (s : State) (p : XWord) : (s.openStrip p).xinvs = s.xinvs := rfl
@[simp] theorem State.openStrip_leaders (s : State) (p : XWord) : (s.openStrip p).leaders = s.leaders := rfl
@[simp] theorem State.openStrip_waiting (s : State) (p : XWord) : (s.openStrip p).waiting = s.waiting := rfl
@[simp] theorem State.openStrip_dev (s : State) (p : XWord) : (s.openStrip p).dev = s.dev := rfl

/-! ### setCoreAt -/

@[simp] theorem State.setCoreAt_agenda (s : State) (c : Nat) (k : Core) : (s.setCoreAt c k).agenda = s.agenda := rfl
@[simp] theorem State.setCoreAt_gtime (s : State) (c : Nat) (k : Core) : (s.setCoreAt c k).gtime = s.gtime := rfl
@[simp] theorem State.setCoreAt_free (s : State) (c : Nat) (k : Core) : (s.setCoreAt c k).free = s.free := rfl
@[simp] theorem State.setCoreAt_cur (s : State) (c : Nat) (k : Core) : (s.setCoreAt c k).cur = s.cur := rfl
@[simp] theorem State.setCoreAt_hart (s : State) (c : Nat) (k : Core) : (s.setCoreAt c k).hart = s.hart := rfl
@[simp] theorem State.setCoreAt_harts (s : State) (c : Nat) (k : Core) : (s.setCoreAt c k).harts = s.harts := rfl
@[simp] theorem State.setCoreAt_bank (s : State) (c : Nat) (k : Core) : (s.setCoreAt c k).bank = s.bank := rfl
@[simp] theorem State.setCoreAt_cores (s : State) (c : Nat) (k : Core) : (s.setCoreAt c k).cores = mset s.cores c k := rfl
@[simp] theorem State.setCoreAt_gangs (s : State) (c : Nat) (k : Core) : (s.setCoreAt c k).gangs = s.gangs := rfl
@[simp] theorem State.setCoreAt_nextGang (s : State) (c : Nat) (k : Core) : (s.setCoreAt c k).nextGang = s.nextGang := rfl
@[simp] theorem State.setCoreAt_gids (s : State) (c : Nat) (k : Core) : (s.setCoreAt c k).gids = s.gids := rfl
@[simp] theorem State.setCoreAt_ctxs (s : State) (c : Nat) (k : Core) : (s.setCoreAt c k).ctxs = s.ctxs := rfl
@[simp] theorem State.setCoreAt_cmds (s : State) (c : Nat) (k : Core) : (s.setCoreAt c k).cmds = s.cmds := rfl
@[simp] theorem State.setCoreAt_nextCmd (s : State) (c : Nat) (k : Core) : (s.setCoreAt c k).nextCmd = s.nextCmd := rfl
@[simp] theorem State.setCoreAt_transfers (s : State) (c : Nat) (k : Core) : (s.setCoreAt c k).transfers = s.transfers := rfl
@[simp] theorem State.setCoreAt_chans (s : State) (c : Nat) (k : Core) : (s.setCoreAt c k).chans = s.chans := rfl
@[simp] theorem State.setCoreAt_kitties (s : State) (c : Nat) (k : Core) : (s.setCoreAt c k).kitties = s.kitties := rfl
@[simp] theorem State.setCoreAt_warrays (s : State) (c : Nat) (k : Core) : (s.setCoreAt c k).warrays = s.warrays := rfl
@[simp] theorem State.setCoreAt_mem (s : State) (c : Nat) (k : Core) : (s.setCoreAt c k).mem = s.mem := rfl
@[simp] theorem State.setCoreAt_written (s : State) (c : Nat) (k : Core) : (s.setCoreAt c k).written = s.written := rfl
@[simp] theorem State.setCoreAt_badUnits (s : State) (c : Nat) (k : Core) : (s.setCoreAt c k).badUnits = s.badUnits := rfl
@[simp] theorem State.setCoreAt_tlb (s : State) (c : Nat) (k : Core) : (s.setCoreAt c k).tlb = s.tlb := rfl
@[simp] theorem State.setCoreAt_xinvs (s : State) (c : Nat) (k : Core) : (s.setCoreAt c k).xinvs = s.xinvs := rfl
@[simp] theorem State.setCoreAt_leaders (s : State) (c : Nat) (k : Core) : (s.setCoreAt c k).leaders = s.leaders := rfl
@[simp] theorem State.setCoreAt_waiting (s : State) (c : Nat) (k : Core) : (s.setCoreAt c k).waiting = s.waiting := rfl
@[simp] theorem State.setCoreAt_dev (s : State) (c : Nat) (k : Core) : (s.setCoreAt c k).dev = s.dev := rfl

/-! ### setCtxAt -/

@[simp] theorem State.setCtxAt_agenda (s : State) (c : Nat) (k : Ctx) : (s.setCtxAt c k).agenda = s.agenda := rfl
@[simp] theorem State.setCtxAt_gtime (s : State) (c : Nat) (k : Ctx) : (s.setCtxAt c k).gtime = s.gtime := rfl
@[simp] theorem State.setCtxAt_free (s : State) (c : Nat) (k : Ctx) : (s.setCtxAt c k).free = s.free := rfl
@[simp] theorem State.setCtxAt_cur (s : State) (c : Nat) (k : Ctx) : (s.setCtxAt c k).cur = s.cur := rfl
@[simp] theorem State.setCtxAt_hart (s : State) (c : Nat) (k : Ctx) : (s.setCtxAt c k).hart = s.hart := rfl
@[simp] theorem State.setCtxAt_harts (s : State) (c : Nat) (k : Ctx) : (s.setCtxAt c k).harts = s.harts := rfl
@[simp] theorem State.setCtxAt_bank (s : State) (c : Nat) (k : Ctx) : (s.setCtxAt c k).bank = s.bank := rfl
@[simp] theorem State.setCtxAt_cores (s : State) (c : Nat) (k : Ctx) : (s.setCtxAt c k).cores = s.cores := rfl
@[simp] theorem State.setCtxAt_gangs (s : State) (c : Nat) (k : Ctx) : (s.setCtxAt c k).gangs = s.gangs := rfl
@[simp] theorem State.setCtxAt_nextGang (s : State) (c : Nat) (k : Ctx) : (s.setCtxAt c k).nextGang = s.nextGang := rfl
@[simp] theorem State.setCtxAt_gids (s : State) (c : Nat) (k : Ctx) : (s.setCtxAt c k).gids = s.gids := rfl
@[simp] theorem State.setCtxAt_ctxs (s : State) (c : Nat) (k : Ctx) : (s.setCtxAt c k).ctxs = mset s.ctxs c k := rfl
@[simp] theorem State.setCtxAt_cmds (s : State) (c : Nat) (k : Ctx) : (s.setCtxAt c k).cmds = s.cmds := rfl
@[simp] theorem State.setCtxAt_nextCmd (s : State) (c : Nat) (k : Ctx) : (s.setCtxAt c k).nextCmd = s.nextCmd := rfl
@[simp] theorem State.setCtxAt_transfers (s : State) (c : Nat) (k : Ctx) : (s.setCtxAt c k).transfers = s.transfers := rfl
@[simp] theorem State.setCtxAt_chans (s : State) (c : Nat) (k : Ctx) : (s.setCtxAt c k).chans = s.chans := rfl
@[simp] theorem State.setCtxAt_kitties (s : State) (c : Nat) (k : Ctx) : (s.setCtxAt c k).kitties = s.kitties := rfl
@[simp] theorem State.setCtxAt_warrays (s : State) (c : Nat) (k : Ctx) : (s.setCtxAt c k).warrays = s.warrays := rfl
@[simp] theorem State.setCtxAt_mem (s : State) (c : Nat) (k : Ctx) : (s.setCtxAt c k).mem = s.mem := rfl
@[simp] theorem State.setCtxAt_written (s : State) (c : Nat) (k : Ctx) : (s.setCtxAt c k).written = s.written := rfl
@[simp] theorem State.setCtxAt_badUnits (s : State) (c : Nat) (k : Ctx) : (s.setCtxAt c k).badUnits = s.badUnits := rfl
@[simp] theorem State.setCtxAt_tlb (s : State) (c : Nat) (k : Ctx) : (s.setCtxAt c k).tlb = s.tlb := rfl
@[simp] theorem State.setCtxAt_xinvs (s : State) (c : Nat) (k : Ctx) : (s.setCtxAt c k).xinvs = s.xinvs := rfl
@[simp] theorem State.setCtxAt_leaders (s : State) (c : Nat) (k : Ctx) : (s.setCtxAt c k).leaders = s.leaders := rfl
@[simp] theorem State.setCtxAt_waiting (s : State) (c : Nat) (k : Ctx) : (s.setCtxAt c k).waiting = s.waiting := rfl
@[simp] theorem State.setCtxAt_dev (s : State) (c : Nat) (k : Ctx) : (s.setCtxAt c k).dev = s.dev := rfl

/-! ### setChanAt -/

@[simp] theorem State.setChanAt_agenda (s : State) (p : Nat) (c : Chan) : (s.setChanAt p c).agenda = s.agenda := rfl
@[simp] theorem State.setChanAt_gtime (s : State) (p : Nat) (c : Chan) : (s.setChanAt p c).gtime = s.gtime := rfl
@[simp] theorem State.setChanAt_free (s : State) (p : Nat) (c : Chan) : (s.setChanAt p c).free = s.free := rfl
@[simp] theorem State.setChanAt_cur (s : State) (p : Nat) (c : Chan) : (s.setChanAt p c).cur = s.cur := rfl
@[simp] theorem State.setChanAt_hart (s : State) (p : Nat) (c : Chan) : (s.setChanAt p c).hart = s.hart := rfl
@[simp] theorem State.setChanAt_harts (s : State) (p : Nat) (c : Chan) : (s.setChanAt p c).harts = s.harts := rfl
@[simp] theorem State.setChanAt_bank (s : State) (p : Nat) (c : Chan) : (s.setChanAt p c).bank = s.bank := rfl
@[simp] theorem State.setChanAt_cores (s : State) (p : Nat) (c : Chan) : (s.setChanAt p c).cores = s.cores := rfl
@[simp] theorem State.setChanAt_gangs (s : State) (p : Nat) (c : Chan) : (s.setChanAt p c).gangs = s.gangs := rfl
@[simp] theorem State.setChanAt_nextGang (s : State) (p : Nat) (c : Chan) : (s.setChanAt p c).nextGang = s.nextGang := rfl
@[simp] theorem State.setChanAt_gids (s : State) (p : Nat) (c : Chan) : (s.setChanAt p c).gids = s.gids := rfl
@[simp] theorem State.setChanAt_ctxs (s : State) (p : Nat) (c : Chan) : (s.setChanAt p c).ctxs = s.ctxs := rfl
@[simp] theorem State.setChanAt_cmds (s : State) (p : Nat) (c : Chan) : (s.setChanAt p c).cmds = s.cmds := rfl
@[simp] theorem State.setChanAt_nextCmd (s : State) (p : Nat) (c : Chan) : (s.setChanAt p c).nextCmd = s.nextCmd := rfl
@[simp] theorem State.setChanAt_transfers (s : State) (p : Nat) (c : Chan) : (s.setChanAt p c).transfers = s.transfers := rfl
@[simp] theorem State.setChanAt_chans (s : State) (p : Nat) (c : Chan) : (s.setChanAt p c).chans = mset s.chans p c := rfl
@[simp] theorem State.setChanAt_kitties (s : State) (p : Nat) (c : Chan) : (s.setChanAt p c).kitties = s.kitties := rfl
@[simp] theorem State.setChanAt_warrays (s : State) (p : Nat) (c : Chan) : (s.setChanAt p c).warrays = s.warrays := rfl
@[simp] theorem State.setChanAt_mem (s : State) (p : Nat) (c : Chan) : (s.setChanAt p c).mem = s.mem := rfl
@[simp] theorem State.setChanAt_written (s : State) (p : Nat) (c : Chan) : (s.setChanAt p c).written = s.written := rfl
@[simp] theorem State.setChanAt_badUnits (s : State) (p : Nat) (c : Chan) : (s.setChanAt p c).badUnits = s.badUnits := rfl
@[simp] theorem State.setChanAt_tlb (s : State) (p : Nat) (c : Chan) : (s.setChanAt p c).tlb = s.tlb := rfl
@[simp] theorem State.setChanAt_xinvs (s : State) (p : Nat) (c : Chan) : (s.setChanAt p c).xinvs = s.xinvs := rfl
@[simp] theorem State.setChanAt_leaders (s : State) (p : Nat) (c : Chan) : (s.setChanAt p c).leaders = s.leaders := rfl
@[simp] theorem State.setChanAt_waiting (s : State) (p : Nat) (c : Chan) : (s.setChanAt p c).waiting = s.waiting := rfl
@[simp] theorem State.setChanAt_dev (s : State) (p : Nat) (c : Chan) : (s.setChanAt p c).dev = s.dev := rfl

/-! ### soon -/

@[simp] theorem State.soon_agenda (s : State) (t : Turn) : (s.soon t).agenda = t :: s.agenda := rfl
@[simp] theorem State.soon_gtime (s : State) (t : Turn) : (s.soon t).gtime = s.gtime := rfl
@[simp] theorem State.soon_free (s : State) (t : Turn) : (s.soon t).free = s.free := rfl
@[simp] theorem State.soon_cur (s : State) (t : Turn) : (s.soon t).cur = s.cur := rfl
@[simp] theorem State.soon_hart (s : State) (t : Turn) : (s.soon t).hart = s.hart := rfl
@[simp] theorem State.soon_harts (s : State) (t : Turn) : (s.soon t).harts = s.harts := rfl
@[simp] theorem State.soon_bank (s : State) (t : Turn) : (s.soon t).bank = s.bank := rfl
@[simp] theorem State.soon_cores (s : State) (t : Turn) : (s.soon t).cores = s.cores := rfl
@[simp] theorem State.soon_gangs (s : State) (t : Turn) : (s.soon t).gangs = s.gangs := rfl
@[simp] theorem State.soon_nextGang (s : State) (t : Turn) : (s.soon t).nextGang = s.nextGang := rfl
@[simp] theorem State.soon_gids (s : State) (t : Turn) : (s.soon t).gids = s.gids := rfl
@[simp] theorem State.soon_ctxs (s : State) (t : Turn) : (s.soon t).ctxs = s.ctxs := rfl
@[simp] theorem State.soon_cmds (s : State) (t : Turn) : (s.soon t).cmds = s.cmds := rfl
@[simp] theorem State.soon_nextCmd (s : State) (t : Turn) : (s.soon t).nextCmd = s.nextCmd := rfl
@[simp] theorem State.soon_transfers (s : State) (t : Turn) : (s.soon t).transfers = s.transfers := rfl
@[simp] theorem State.soon_chans (s : State) (t : Turn) : (s.soon t).chans = s.chans := rfl
@[simp] theorem State.soon_kitties (s : State) (t : Turn) : (s.soon t).kitties = s.kitties := rfl
@[simp] theorem State.soon_warrays (s : State) (t : Turn) : (s.soon t).warrays = s.warrays := rfl
@[simp] theorem State.soon_mem (s : State) (t : Turn) : (s.soon t).mem = s.mem := rfl
@[simp] theorem State.soon_written (s : State) (t : Turn) : (s.soon t).written = s.written := rfl
@[simp] theorem State.soon_badUnits (s : State) (t : Turn) : (s.soon t).badUnits = s.badUnits := rfl
@[simp] theorem State.soon_tlb (s : State) (t : Turn) : (s.soon t).tlb = s.tlb := rfl
@[simp] theorem State.soon_xinvs (s : State) (t : Turn) : (s.soon t).xinvs = s.xinvs := rfl
@[simp] theorem State.soon_leaders (s : State) (t : Turn) : (s.soon t).leaders = s.leaders := rfl
@[simp] theorem State.soon_waiting (s : State) (t : Turn) : (s.soon t).waiting = s.waiting := rfl
@[simp] theorem State.soon_dev (s : State) (t : Turn) : (s.soon t).dev = s.dev := rfl

/-! ### draw -/

@[simp] theorem State.draw_agenda (s : State) : (s.draw).agenda = s.agenda := rfl
@[simp] theorem State.draw_gtime (s : State) : (s.draw).gtime = s.gtime := rfl
@[simp] theorem State.draw_free (s : State) : (s.draw).free = s.free + 1 := rfl
@[simp] theorem State.draw_cur (s : State) : (s.draw).cur = s.cur := rfl
@[simp] theorem State.draw_hart (s : State) : (s.draw).hart = s.hart := rfl
@[simp] theorem State.draw_harts (s : State) : (s.draw).harts = s.harts := rfl
@[simp] theorem State.draw_bank (s : State) : (s.draw).bank = s.bank := rfl
@[simp] theorem State.draw_cores (s : State) : (s.draw).cores = s.cores := rfl
@[simp] theorem State.draw_gangs (s : State) : (s.draw).gangs = s.gangs := rfl
@[simp] theorem State.draw_nextGang (s : State) : (s.draw).nextGang = s.nextGang := rfl
@[simp] theorem State.draw_gids (s : State) : (s.draw).gids = s.gids := rfl
@[simp] theorem State.draw_ctxs (s : State) : (s.draw).ctxs = s.ctxs := rfl
@[simp] theorem State.draw_cmds (s : State) : (s.draw).cmds = s.cmds := rfl
@[simp] theorem State.draw_nextCmd (s : State) : (s.draw).nextCmd = s.nextCmd := rfl
@[simp] theorem State.draw_transfers (s : State) : (s.draw).transfers = s.transfers := rfl
@[simp] theorem State.draw_chans (s : State) : (s.draw).chans = s.chans := rfl
@[simp] theorem State.draw_kitties (s : State) : (s.draw).kitties = s.kitties := rfl
@[simp] theorem State.draw_warrays (s : State) : (s.draw).warrays = s.warrays := rfl
@[simp] theorem State.draw_mem (s : State) : (s.draw).mem = s.mem := rfl
@[simp] theorem State.draw_written (s : State) : (s.draw).written = s.written := rfl
@[simp] theorem State.draw_badUnits (s : State) : (s.draw).badUnits = s.badUnits := rfl
@[simp] theorem State.draw_tlb (s : State) : (s.draw).tlb = s.tlb := rfl
@[simp] theorem State.draw_xinvs (s : State) : (s.draw).xinvs = s.xinvs := rfl
@[simp] theorem State.draw_leaders (s : State) : (s.draw).leaders = s.leaders := rfl
@[simp] theorem State.draw_waiting (s : State) : (s.draw).waiting = s.waiting := rfl
@[simp] theorem State.draw_dev (s : State) : (s.draw).dev = s.dev := rfl

/-! ### put -/

@[simp] theorem State.put_agenda (s : State) (w : Writer) (pa : Nat) (l : List Byte) : (s.put w pa l).agenda = s.agenda := rfl
@[simp] theorem State.put_gtime (s : State) (w : Writer) (pa : Nat) (l : List Byte) : (s.put w pa l).gtime = s.gtime := rfl
@[simp] theorem State.put_free (s : State) (w : Writer) (pa : Nat) (l : List Byte) : (s.put w pa l).free = s.free := rfl
@[simp] theorem State.put_cur (s : State) (w : Writer) (pa : Nat) (l : List Byte) : (s.put w pa l).cur = s.cur := rfl
@[simp] theorem State.put_hart (s : State) (w : Writer) (pa : Nat) (l : List Byte) : (s.put w pa l).hart = s.hart := rfl
@[simp] theorem State.put_harts (s : State) (w : Writer) (pa : Nat) (l : List Byte) : (s.put w pa l).harts = s.harts := rfl
@[simp] theorem State.put_bank (s : State) (w : Writer) (pa : Nat) (l : List Byte) : (s.put w pa l).bank = s.bank := rfl
@[simp] theorem State.put_cores (s : State) (w : Writer) (pa : Nat) (l : List Byte) : (s.put w pa l).cores = s.cores := rfl
@[simp] theorem State.put_gangs (s : State) (w : Writer) (pa : Nat) (l : List Byte) : (s.put w pa l).gangs = s.gangs := rfl
@[simp] theorem State.put_nextGang (s : State) (w : Writer) (pa : Nat) (l : List Byte) : (s.put w pa l).nextGang = s.nextGang := rfl
@[simp] theorem State.put_gids (s : State) (w : Writer) (pa : Nat) (l : List Byte) : (s.put w pa l).gids = s.gids := rfl
@[simp] theorem State.put_ctxs (s : State) (w : Writer) (pa : Nat) (l : List Byte) : (s.put w pa l).ctxs = s.ctxs := rfl
@[simp] theorem State.put_cmds (s : State) (w : Writer) (pa : Nat) (l : List Byte) : (s.put w pa l).cmds = s.cmds := rfl
@[simp] theorem State.put_nextCmd (s : State) (w : Writer) (pa : Nat) (l : List Byte) : (s.put w pa l).nextCmd = s.nextCmd := rfl
@[simp] theorem State.put_transfers (s : State) (w : Writer) (pa : Nat) (l : List Byte) : (s.put w pa l).transfers = s.transfers := rfl
@[simp] theorem State.put_chans (s : State) (w : Writer) (pa : Nat) (l : List Byte) : (s.put w pa l).chans = s.chans := rfl
@[simp] theorem State.put_kitties (s : State) (w : Writer) (pa : Nat) (l : List Byte) : (s.put w pa l).kitties = s.kitties := rfl
@[simp] theorem State.put_warrays (s : State) (w : Writer) (pa : Nat) (l : List Byte) : (s.put w pa l).warrays = s.warrays := rfl
@[simp] theorem State.put_mem (s : State) (w : Writer) (pa : Nat) (l : List Byte) : (s.put w pa l).mem = memWriteN s.mem pa l := rfl
@[simp] theorem State.put_written (s : State) (w : Writer) (pa : Nat) (l : List Byte) : (s.put w pa l).written = { by_ := w, pa := pa, old := memReadN s.mem pa l.length, new := l } :: s.written := rfl
@[simp] theorem State.put_badUnits (s : State) (w : Writer) (pa : Nat) (l : List Byte) : (s.put w pa l).badUnits = s.badUnits := rfl
@[simp] theorem State.put_tlb (s : State) (w : Writer) (pa : Nat) (l : List Byte) : (s.put w pa l).tlb = s.tlb := rfl
@[simp] theorem State.put_xinvs (s : State) (w : Writer) (pa : Nat) (l : List Byte) : (s.put w pa l).xinvs = s.xinvs := rfl
@[simp] theorem State.put_leaders (s : State) (w : Writer) (pa : Nat) (l : List Byte) : (s.put w pa l).leaders = s.leaders := rfl
@[simp] theorem State.put_waiting (s : State) (w : Writer) (pa : Nat) (l : List Byte) : (s.put w pa l).waiting = s.waiting := rfl
@[simp] theorem State.put_dev (s : State) (w : Writer) (pa : Nat) (l : List Byte) : (s.put w pa l).dev = s.dev := rfl

/-! ### order -/

@[simp] theorem State.order_agenda (s : State) : (s.order).agenda = s.agenda := rfl
@[simp] theorem State.order_gtime (s : State) : (s.order).gtime = s.gtime := rfl
@[simp] theorem State.order_free (s : State) : (s.order).free = s.free := rfl
@[simp] theorem State.order_cur (s : State) : (s.order).cur = s.cur := rfl
@[simp] theorem State.order_hart (s : State) : (s.order).hart = { s.hart with ordered := s.written.length } := rfl
@[simp] theorem State.order_harts (s : State) : (s.order).harts = s.harts := rfl
@[simp] theorem State.order_bank (s : State) : (s.order).bank = s.bank := rfl
@[simp] theorem State.order_cores (s : State) : (s.order).cores = s.cores := rfl
@[simp] theorem State.order_gangs (s : State) : (s.order).gangs = s.gangs := rfl
@[simp] theorem State.order_nextGang (s : State) : (s.order).nextGang = s.nextGang := rfl
@[simp] theorem State.order_gids (s : State) : (s.order).gids = s.gids := rfl
@[simp] theorem State.order_ctxs (s : State) : (s.order).ctxs = s.ctxs := rfl
@[simp] theorem State.order_cmds (s : State) : (s.order).cmds = s.cmds := rfl
@[simp] theorem State.order_nextCmd (s : State) : (s.order).nextCmd = s.nextCmd := rfl
@[simp] theorem State.order_transfers (s : State) : (s.order).transfers = s.transfers := rfl
@[simp] theorem State.order_chans (s : State) : (s.order).chans = s.chans := rfl
@[simp] theorem State.order_kitties (s : State) : (s.order).kitties = s.kitties := rfl
@[simp] theorem State.order_warrays (s : State) : (s.order).warrays = s.warrays := rfl
@[simp] theorem State.order_mem (s : State) : (s.order).mem = s.mem := rfl
@[simp] theorem State.order_written (s : State) : (s.order).written = s.written := rfl
@[simp] theorem State.order_badUnits (s : State) : (s.order).badUnits = s.badUnits := rfl
@[simp] theorem State.order_tlb (s : State) : (s.order).tlb = s.tlb := rfl
@[simp] theorem State.order_xinvs (s : State) : (s.order).xinvs = s.xinvs := rfl
@[simp] theorem State.order_leaders (s : State) : (s.order).leaders = s.leaders := rfl
@[simp] theorem State.order_waiting (s : State) : (s.order).waiting = s.waiting := rfl
@[simp] theorem State.order_dev (s : State) : (s.order).dev = s.dev := rfl

/-! ### fence -/

@[simp] theorem State.fence_agenda (s : State) (sc : Nat) : (s.fence sc).agenda = s.agenda := rfl
@[simp] theorem State.fence_gtime (s : State) (sc : Nat) : (s.fence sc).gtime = s.gtime := rfl
@[simp] theorem State.fence_free (s : State) (sc : Nat) : (s.fence sc).free = s.free := rfl
@[simp] theorem State.fence_cur (s : State) (sc : Nat) : (s.fence sc).cur = s.cur := rfl
@[simp] theorem State.fence_hart (s : State) (sc : Nat) : (s.fence sc).hart = { s.hart with ordered := s.written.length, fenced := Vector.ofFn (fun j : Fin 5 => if j.val ≤ sc then s.written.length else s.hart.fenced[j]) } := rfl
@[simp] theorem State.fence_harts (s : State) (sc : Nat) : (s.fence sc).harts = s.harts := rfl
@[simp] theorem State.fence_bank (s : State) (sc : Nat) : (s.fence sc).bank = s.bank := rfl
@[simp] theorem State.fence_cores (s : State) (sc : Nat) : (s.fence sc).cores = s.cores := rfl
@[simp] theorem State.fence_gangs (s : State) (sc : Nat) : (s.fence sc).gangs = s.gangs := rfl
@[simp] theorem State.fence_nextGang (s : State) (sc : Nat) : (s.fence sc).nextGang = s.nextGang := rfl
@[simp] theorem State.fence_gids (s : State) (sc : Nat) : (s.fence sc).gids = s.gids := rfl
@[simp] theorem State.fence_ctxs (s : State) (sc : Nat) : (s.fence sc).ctxs = s.ctxs := rfl
@[simp] theorem State.fence_cmds (s : State) (sc : Nat) : (s.fence sc).cmds = s.cmds := rfl
@[simp] theorem State.fence_nextCmd (s : State) (sc : Nat) : (s.fence sc).nextCmd = s.nextCmd := rfl
@[simp] theorem State.fence_transfers (s : State) (sc : Nat) : (s.fence sc).transfers = s.transfers := rfl
@[simp] theorem State.fence_chans (s : State) (sc : Nat) : (s.fence sc).chans = s.chans := rfl
@[simp] theorem State.fence_kitties (s : State) (sc : Nat) : (s.fence sc).kitties = s.kitties := rfl
@[simp] theorem State.fence_warrays (s : State) (sc : Nat) : (s.fence sc).warrays = s.warrays := rfl
@[simp] theorem State.fence_mem (s : State) (sc : Nat) : (s.fence sc).mem = s.mem := rfl
@[simp] theorem State.fence_written (s : State) (sc : Nat) : (s.fence sc).written = s.written := rfl
@[simp] theorem State.fence_badUnits (s : State) (sc : Nat) : (s.fence sc).badUnits = s.badUnits := rfl
@[simp] theorem State.fence_tlb (s : State) (sc : Nat) : (s.fence sc).tlb = s.tlb := rfl
@[simp] theorem State.fence_xinvs (s : State) (sc : Nat) : (s.fence sc).xinvs = s.xinvs := rfl
@[simp] theorem State.fence_leaders (s : State) (sc : Nat) : (s.fence sc).leaders = s.leaders := rfl
@[simp] theorem State.fence_waiting (s : State) (sc : Nat) : (s.fence sc).waiting = s.waiting := rfl
@[simp] theorem State.fence_dev (s : State) (sc : Nat) : (s.fence sc).dev = s.dev := rfl

/-! ### defer -/

@[simp] theorem State.defer_agenda (s : State) (o : Outside) : (s.defer o).agenda = s.agenda := rfl
@[simp] theorem State.defer_gtime (s : State) (o : Outside) : (s.defer o).gtime = s.gtime := rfl
@[simp] theorem State.defer_free (s : State) (o : Outside) : (s.defer o).free = s.free := rfl
@[simp] theorem State.defer_cur (s : State) (o : Outside) : (s.defer o).cur = s.cur := rfl
@[simp] theorem State.defer_hart (s : State) (o : Outside) : (s.defer o).hart = s.hart := rfl
@[simp] theorem State.defer_harts (s : State) (o : Outside) : (s.defer o).harts = s.harts := rfl
@[simp] theorem State.defer_bank (s : State) (o : Outside) : (s.defer o).bank = s.bank := rfl
@[simp] theorem State.defer_cores (s : State) (o : Outside) : (s.defer o).cores = s.cores := rfl
@[simp] theorem State.defer_gangs (s : State) (o : Outside) : (s.defer o).gangs = s.gangs := rfl
@[simp] theorem State.defer_nextGang (s : State) (o : Outside) : (s.defer o).nextGang = s.nextGang := rfl
@[simp] theorem State.defer_gids (s : State) (o : Outside) : (s.defer o).gids = s.gids := rfl
@[simp] theorem State.defer_ctxs (s : State) (o : Outside) : (s.defer o).ctxs = s.ctxs := rfl
@[simp] theorem State.defer_cmds (s : State) (o : Outside) : (s.defer o).cmds = s.cmds := rfl
@[simp] theorem State.defer_nextCmd (s : State) (o : Outside) : (s.defer o).nextCmd = s.nextCmd := rfl
@[simp] theorem State.defer_transfers (s : State) (o : Outside) : (s.defer o).transfers = s.transfers := rfl
@[simp] theorem State.defer_chans (s : State) (o : Outside) : (s.defer o).chans = s.chans := rfl
@[simp] theorem State.defer_kitties (s : State) (o : Outside) : (s.defer o).kitties = s.kitties := rfl
@[simp] theorem State.defer_warrays (s : State) (o : Outside) : (s.defer o).warrays = s.warrays := rfl
@[simp] theorem State.defer_mem (s : State) (o : Outside) : (s.defer o).mem = s.mem := rfl
@[simp] theorem State.defer_written (s : State) (o : Outside) : (s.defer o).written = s.written := rfl
@[simp] theorem State.defer_badUnits (s : State) (o : Outside) : (s.defer o).badUnits = s.badUnits := rfl
@[simp] theorem State.defer_tlb (s : State) (o : Outside) : (s.defer o).tlb = s.tlb := rfl
@[simp] theorem State.defer_xinvs (s : State) (o : Outside) : (s.defer o).xinvs = s.xinvs := rfl
@[simp] theorem State.defer_leaders (s : State) (o : Outside) : (s.defer o).leaders = s.leaders := rfl
@[simp] theorem State.defer_waiting (s : State) (o : Outside) : (s.defer o).waiting = s.waiting ++ [(s.gtime, o)] := rfl
@[simp] theorem State.defer_dev (s : State) (o : Outside) : (s.defer o).dev = s.dev := rfl

/-! ### devWrite -/

@[simp] theorem State.devWrite_agenda (s : State) (pa : Nat) (l : List Byte) : (s.devWrite pa l).agenda = s.agenda := rfl
@[simp] theorem State.devWrite_gtime (s : State) (pa : Nat) (l : List Byte) : (s.devWrite pa l).gtime = s.gtime := rfl
@[simp] theorem State.devWrite_free (s : State) (pa : Nat) (l : List Byte) : (s.devWrite pa l).free = s.free := rfl
@[simp] theorem State.devWrite_cur (s : State) (pa : Nat) (l : List Byte) : (s.devWrite pa l).cur = s.cur := rfl
@[simp] theorem State.devWrite_hart (s : State) (pa : Nat) (l : List Byte) : (s.devWrite pa l).hart = s.hart := rfl
@[simp] theorem State.devWrite_harts (s : State) (pa : Nat) (l : List Byte) : (s.devWrite pa l).harts = s.harts := rfl
@[simp] theorem State.devWrite_bank (s : State) (pa : Nat) (l : List Byte) : (s.devWrite pa l).bank = s.bank := rfl
@[simp] theorem State.devWrite_cores (s : State) (pa : Nat) (l : List Byte) : (s.devWrite pa l).cores = s.cores := rfl
@[simp] theorem State.devWrite_gangs (s : State) (pa : Nat) (l : List Byte) : (s.devWrite pa l).gangs = s.gangs := rfl
@[simp] theorem State.devWrite_nextGang (s : State) (pa : Nat) (l : List Byte) : (s.devWrite pa l).nextGang = s.nextGang := rfl
@[simp] theorem State.devWrite_gids (s : State) (pa : Nat) (l : List Byte) : (s.devWrite pa l).gids = s.gids := rfl
@[simp] theorem State.devWrite_ctxs (s : State) (pa : Nat) (l : List Byte) : (s.devWrite pa l).ctxs = s.ctxs := rfl
@[simp] theorem State.devWrite_cmds (s : State) (pa : Nat) (l : List Byte) : (s.devWrite pa l).cmds = s.cmds := rfl
@[simp] theorem State.devWrite_nextCmd (s : State) (pa : Nat) (l : List Byte) : (s.devWrite pa l).nextCmd = s.nextCmd := rfl
@[simp] theorem State.devWrite_transfers (s : State) (pa : Nat) (l : List Byte) : (s.devWrite pa l).transfers = s.transfers := rfl
@[simp] theorem State.devWrite_chans (s : State) (pa : Nat) (l : List Byte) : (s.devWrite pa l).chans = s.chans := rfl
@[simp] theorem State.devWrite_kitties (s : State) (pa : Nat) (l : List Byte) : (s.devWrite pa l).kitties = s.kitties := rfl
@[simp] theorem State.devWrite_warrays (s : State) (pa : Nat) (l : List Byte) : (s.devWrite pa l).warrays = s.warrays := rfl
@[simp] theorem State.devWrite_mem (s : State) (pa : Nat) (l : List Byte) : (s.devWrite pa l).mem = memWriteN s.mem pa l := rfl
@[simp] theorem State.devWrite_written (s : State) (pa : Nat) (l : List Byte) : (s.devWrite pa l).written = { by_ := .outside, pa := pa, old := memReadN s.mem pa l.length, new := l } :: s.written := rfl
@[simp] theorem State.devWrite_badUnits (s : State) (pa : Nat) (l : List Byte) : (s.devWrite pa l).badUnits = clearUnits s.badUnits pa l.length := rfl
@[simp] theorem State.devWrite_tlb (s : State) (pa : Nat) (l : List Byte) : (s.devWrite pa l).tlb = s.tlb := rfl
@[simp] theorem State.devWrite_xinvs (s : State) (pa : Nat) (l : List Byte) : (s.devWrite pa l).xinvs = s.xinvs := rfl
@[simp] theorem State.devWrite_leaders (s : State) (pa : Nat) (l : List Byte) : (s.devWrite pa l).leaders = s.leaders := rfl
@[simp] theorem State.devWrite_waiting (s : State) (pa : Nat) (l : List Byte) : (s.devWrite pa l).waiting = s.waiting := rfl
@[simp] theorem State.devWrite_dev (s : State) (pa : Nat) (l : List Byte) : (s.devWrite pa l).dev = s.dev := rfl

/-! ### Scalar registers (R122) -/

/-- x0 reads 0. -/
@[simp] theorem readX_zero (r : Regs) : readX r 0 = 0 := rfl

/-- A read after a write: the value written, unless the register is x0. -/
theorem readX_writeX (r : Regs) (d i : BitVec 5) (v : XWord) :
    readX (writeX r d v) i = if i = 0 then 0 else if i = d then v else readX r i := by
  unfold readX writeX
  by_cases hi : i = 0
  · simp [hi]
  · by_cases hd : d = 0
    · have : i ≠ d := fun h => hi (h.trans hd)
      rw [if_pos hd, if_neg hi, if_neg hi, if_neg this]
    · simp only [hi, hd, if_false]
      rw [Vector.getElem_set]
      by_cases h : i = d
      · simp [h]
      · have : d.toNat ≠ i.toNat := fun e => h (BitVec.eq_of_toNat_eq e.symm)
        simp [h, this]

/-- A write to a scalar register is a change of the file x alone. -/
theorem writeX_eq (r : Regs) (d : BitVec 5) (v : XWord) : writeX r d v = { r with x := (writeX r d v).x } := by
  unfold writeX; split <;> rfl

@[simp] theorem writeX_pc (r : Regs) (d : BitVec 5) (v : XWord) : (writeX r d v).pc = r.pc := by unfold writeX; split <;> rfl
@[simp] theorem writeX_vl (r : Regs) (d : BitVec 5) (v : XWord) : (writeX r d v).vl = r.vl := by unfold writeX; split <;> rfl
@[simp] theorem writeX_vr (r : Regs) (d : BitVec 5) (v : XWord) : (writeX r d v).vr = r.vr := by unfold writeX; split <;> rfl
@[simp] theorem writeX_gcode (r : Regs) (d : BitVec 5) (v : XWord) : (writeX r d v).gcode = r.gcode := by unfold writeX; split <;> rfl
@[simp] theorem writeX_tailZero (r : Regs) (d : BitVec 5) (v : XWord) : (writeX r d v).tailZero = r.tailZero := by unfold writeX; split <;> rfl
@[simp] theorem writeX_frm (r : Regs) (d : BitVec 5) (v : XWord) : (writeX r d v).frm = r.frm := by unfold writeX; split <;> rfl
@[simp] theorem writeX_fflags (r : Regs) (d : BitVec 5) (v : XWord) : (writeX r d v).fflags = r.fflags := by unfold writeX; split <;> rfl
@[simp] theorem writeX_seed (r : Regs) (d : BitVec 5) (v : XWord) : (writeX r d v).seed = r.seed := by unfold writeX; split <;> rfl
@[simp] theorem writeX_gens (r : Regs) (d : BitVec 5) (v : XWord) : (writeX r d v).gens = r.gens := by unfold writeX; split <;> rfl
@[simp] theorem writeX_pfxFields (r : Regs) (d : BitVec 5) (v : XWord) : (writeX r d v).pfxFields = r.pfxFields := by unfold writeX; split <;> rfl
@[simp] theorem writeX_pfxValid (r : Regs) (d : BitVec 5) (v : XWord) : (writeX r d v).pfxValid = r.pfxValid := by unfold writeX; split <;> rfl
@[simp] theorem writeX_vregs (r : Regs) (d : BitVec 5) (v : XWord) : (writeX r d v).vregs = r.vregs := by unfold writeX; split <;> rfl
@[simp] theorem writeX_masks (r : Regs) (d : BitVec 5) (v : XWord) : (writeX r d v).masks = r.masks := by unfold writeX; split <;> rfl
@[simp] theorem writeX_queues (r : Regs) (d : BitVec 5) (v : XWord) : (writeX r d v).queues = r.queues := by unfold writeX; split <;> rfl
@[simp] theorem writeX_qtags (r : Regs) (d : BitVec 5) (v : XWord) : (writeX r d v).qtags = r.qtags := by unfold writeX; split <;> rfl
@[simp] theorem writeX_storeBuf (r : Regs) (d : BitVec 5) (v : XWord) : (writeX r d v).storeBuf = r.storeBuf := by unfold writeX; split <;> rfl
@[simp] theorem writeX_pend (r : Regs) (d : BitVec 5) (v : XWord) : (writeX r d v).pend = r.pend := by unfold writeX; split <;> rfl
@[simp] theorem writeX_cv (r : Regs) (d : BitVec 5) (v : XWord) : (writeX r d v).cv = r.cv := by unfold writeX; split <;> rfl
@[simp] theorem writeX_chain (r : Regs) (d : BitVec 5) (v : XWord) : (writeX r d v).chain = r.chain := by unfold writeX; split <;> rfl
@[simp] theorem writeX_first (r : Regs) (d : BitVec 5) (v : XWord) : (writeX r d v).first = r.first := by unfold writeX; split <;> rfl
@[simp] theorem writeX_member (r : Regs) (d : BitVec 5) (v : XWord) : (writeX r d v).member = r.member := by unfold writeX; split <;> rfl

end Machine
end Sys2Proof
end

