-- ==== Sys2Proof/Laws/Memory.lean ====
section
/-! SUPPORT. Memory: a read after a write, the canonical form kept by every memory operation, and what a write at the home may
change besides. -/

namespace Sys2Proof
namespace Machine

/-! ### The canonical form -/

theorem memWfFrom_le {m : List Host.Cell} {lo hi : Nat} (h : memWfFrom hi m = true) (hl : lo ≤ hi) : memWfFrom lo m = true := by
  cases m with
  | nil => rfl
  | cons c t =>
    obtain ⟨k, v⟩ := c
    simp only [memWfFrom, Bool.and_eq_true, decide_eq_true_eq] at *
    exact ⟨⟨by omega, h.1.2⟩, h.2⟩

theorem memWrite_wfFrom {m : List Host.Cell} {lo : Nat} (a : Nat) (b : Byte) (h : memWfFrom lo m = true) (hl : lo ≤ a) :
    memWfFrom lo (memWrite m a b) = true := by
  induction m generalizing lo with
  | nil => by_cases hb : b = unlisted <;> simp [memWrite, hb, memWfFrom, hl]
  | cons c t ih =>
    obtain ⟨k, v⟩ := c
    simp only [memWfFrom, Bool.and_eq_true, decide_eq_true_eq] at h
    obtain ⟨⟨h1, h2⟩, h3⟩ := h
    by_cases ha : a = k
    · by_cases hb : b = unlisted
      · simpa [memWrite, ha, hb] using memWfFrom_le h3 (by omega)
      · simp [memWrite, ha, hb, memWfFrom, h1, h3]
    · by_cases hk : a < k
      · by_cases hb : b = unlisted
        · simp [memWrite, ha, hk, hb, memWfFrom, h1, h3]
          simpa using h2
        · simp only [memWrite, ha, hk, hb, if_true, if_false, memWfFrom, Bool.and_eq_true, decide_eq_true_eq]
          exact ⟨⟨hl, by simpa using hb⟩, ⟨⟨by omega, h2⟩, h3⟩⟩
      · simp only [memWrite, ha, hk, if_false, memWfFrom, Bool.and_eq_true, decide_eq_true_eq]
        exact ⟨⟨h1, h2⟩, ih h3 (by omega)⟩

/-- The write of a byte keeps the canonical form. -/
theorem memWrite_wf {m : List Host.Cell} (a : Nat) (b : Byte) (h : Memory.wf m = true) : Memory.wf (memWrite m a b) = true :=
  memWrite_wfFrom a b h (Nat.zero_le a)

/-- The write of bytes keeps the canonical form. -/
theorem memWriteN_wf {m : List Host.Cell} (a : Nat) (l : List Byte) (h : Memory.wf m = true) :
    Memory.wf (memWriteN m a l) = true := by
  induction l generalizing m a with
  | nil => exact h
  | cons b bs ih => exact ih _ (memWrite_wf a b h)

theorem filter_wfFrom {m : List Host.Cell} {lo : Nat} (p : Host.Cell → Bool) (h : memWfFrom lo m = true) :
    memWfFrom lo (m.filter p) = true := by
  induction m generalizing lo with
  | nil => rfl
  | cons c t ih =>
    obtain ⟨k, v⟩ := c
    simp only [memWfFrom, Bool.and_eq_true, decide_eq_true_eq] at h
    obtain ⟨⟨h1, h2⟩, h3⟩ := h
    by_cases hp : p (k, v)
    · simp only [List.filter_cons_of_pos hp, memWfFrom, Bool.and_eq_true, decide_eq_true_eq]
      exact ⟨⟨h1, h2⟩, ih h3⟩
    · simp only [List.filter_cons_of_neg hp]
      exact memWfFrom_le (ih h3) (by omega)

/-- Zeroing a range keeps the canonical form. -/
theorem memZero_wf {m : List Host.Cell} (a n : Nat) (h : Memory.wf m = true) : Memory.wf (memZero m a n) = true :=
  filter_wfFrom _ h

/-! ### Reads after writes -/

theorem memRead_low {m : List Host.Cell} {lo a : Nat} (h : memWfFrom lo m = true) (ha : a < lo) : memRead m a = unlisted := by
  cases m with
  | nil => rfl
  | cons c t =>
    obtain ⟨k, v⟩ := c
    simp only [memWfFrom, Bool.and_eq_true, decide_eq_true_eq] at h
    have h1 : a ≠ k := by omega
    have h2 : a < k := by omega
    simp [memRead, h1, h2]

theorem memRead_memWrite_from {m : List Host.Cell} {lo : Nat} (a : Nat) (b : Byte) (x : Nat) (h : memWfFrom lo m = true) :
    memRead (memWrite m a b) x = if x = a then b else memRead m x := by
  induction m generalizing lo with
  | nil =>
    by_cases hb : b = unlisted <;> by_cases hx : x = a <;> simp [memWrite, memRead, hb, hx]
  | cons c t ih =>
    obtain ⟨k, v⟩ := c
    simp only [memWfFrom, Bool.and_eq_true, decide_eq_true_eq] at h
    obtain ⟨⟨h1, h2⟩, h3⟩ := h
    have ht : ∀ y, y < k + 1 → memRead t y = unlisted := fun y hy => memRead_low h3 hy
    by_cases ha : a = k
    · subst ha
      by_cases hb : b = unlisted
      · by_cases hx : x = a
        · simp [memWrite, hb, hx, ht a (by omega)]
        · by_cases hk : x < a
          · simp [memWrite, hb, hx, memRead, hk, ht x (by omega)]
          · simp [memWrite, hb, hx, memRead, hk]
      · by_cases hx : x = a <;> simp [memWrite, hb, hx, memRead]
    · by_cases hk : a < k
      · by_cases hb : b = unlisted
        · by_cases hx : x = a
          · subst hx; simp [memWrite, ha, hk, hb, memRead]
          · simp [memWrite, ha, hk, hb, hx]
        · by_cases hx : x = a
          · simp [memWrite, ha, hk, hb, hx, memRead]
          · by_cases hxa : x < a
            · have : x < k := by omega
              have : x ≠ k := by omega
              simp [memWrite, ha, hk, hb, hx, memRead, hxa, *]
            · simp [memWrite, ha, hk, hb, hx, memRead, hxa]
      · simp only [memWrite, ha, hk, if_false, memRead]
        rw [ih h3]
        by_cases hx : x = a
        · have : ¬ a = k := ha
          have : ¬ a < k := hk
          simp [hx, *]
        · simp [hx]

/-- A read after the write of a byte. -/
theorem memRead_memWrite {m : List Host.Cell} (a : Nat) (b : Byte) (x : Nat) (h : Memory.wf m = true) :
    memRead (memWrite m a b) x = if x = a then b else memRead m x := memRead_memWrite_from a b x h

/-- A read after the write of bytes: the byte written there, or what was there. -/
theorem memRead_memWriteN {m : List Host.Cell} (a : Nat) (l : List Byte) (x : Nat) (h : Memory.wf m = true) :
    memRead (memWriteN m a l) x = if a ≤ x ∧ x < a + l.length then l.getD (x - a) 0 else memRead m x := by
  induction l generalizing m a with
  | nil =>
    have : ¬(a ≤ x ∧ x < a + ([] : List Byte).length) := by simp
    rw [if_neg this]; rfl
  | cons b bs ih =>
    rw [memWriteN, ih _ (memWrite_wf a b h), memRead_memWrite a b x h]
    by_cases hx : x = a
    · subst hx
      have h1 : ¬(x + 1 ≤ x ∧ x < x + 1 + bs.length) := by omega
      have h2 : x ≤ x ∧ x < x + (b :: bs).length := by simp
      rw [if_neg h1, if_pos h2]
      simp
    · by_cases h1 : a + 1 ≤ x ∧ x < a + 1 + bs.length
      · have h2 : a ≤ x ∧ x < a + (b :: bs).length := by simp; omega
        rw [if_pos h1, if_pos h2]
        have : x - a = (x - (a + 1)) + 1 := by omega
        rw [this, List.getD_cons_succ]
      · have h2 : ¬(a ≤ x ∧ x < a + (b :: bs).length) := by simp at *; omega
        rw [if_neg h1, if_neg h2, if_neg hx]

/-! ### What a write at the home changes -/

/-- Nothing changed but memory, the note of what was written, residues, contexts' error queues and function 0's records. -/
def HomeFrame (s t : State) : Prop :=
  t = { s with mem := t.mem, written := t.written, badUnits := t.badUnits, ctxs := t.ctxs, dev := t.dev }

theorem HomeFrame.rfl {s : State} : HomeFrame s s := Eq.refl s

theorem HomeFrame.trans {s t u : State} (h : HomeFrame s t) (g : HomeFrame t u) : HomeFrame s u := by
  unfold HomeFrame at *
  rw [g, h]

theorem HomeFrame.devWrite (s : State) (pa : Nat) (l : List Byte) : HomeFrame s (s.devWrite pa l) := Eq.refl _

theorem HomeFrame.foldl {α : Type} {f : State → α → State} (hf : ∀ s x, HomeFrame s (f s x)) (l : List α) (s : State) :
    HomeFrame s (l.foldl f s) := by
  induction l generalizing s with
  | nil => exact .rfl
  | cons x l ih => exact (hf s x).trans (ih _)

theorem reportError_frame (s : State) (c : Option Nat) (k a g v p x y : Nat) : HomeFrame s (s.reportError c k a g v p x y) := by
  cases c with
  | none => exact Eq.refl _
  | some c =>
    unfold State.reportError
    refine HomeFrame.trans ?_ (HomeFrame.devWrite _ _ _)
    refine HomeFrame.trans ?_ (HomeFrame.devWrite _ _ _)
    exact HomeFrame.trans (t := s.setCtxAt c { s.ctxAt c with errLast := (s.ctxAt c).errLast + 1 }) (Eq.refl _) (Eq.refl _)

theorem foundBad_frame (s : State) (a g : Nat) (l : List (Nat × XWord)) : HomeFrame s (s.foundBad a g l) := by
  refine HomeFrame.foldl (fun s u => ?_) l s
  split
  · exact .rfl
  · split
    · exact .rfl
    · exact HomeFrame.trans (t := { s with badUnits := mset s.badUnits u.1 3 }) (Eq.refl _) (reportError_frame _ _ _ _ _ _ _ _ _)

/-- A write at the home leaves every part of the machine but memory and what residue checks record. -/
theorem homeWrite_frame (s : State) (a g : Nat) (va : XWord) (pa : Nat) (l : List Byte) : HomeFrame s (s.homeWrite a g va pa l) := by
  unfold State.homeWrite
  split
  · exact .rfl
  · refine HomeFrame.trans (t := List.foldl _ (s.put (s.writerOf a) pa l) (partUnits pa l.length)) ?_ (Eq.refl _)
    refine HomeFrame.trans (t := s.put (s.writerOf a) pa l) (Eq.refl _) (HomeFrame.foldl (fun s u => ?_) _ _)
    split
    · exact .rfl
    · split
      · exact .rfl
      · exact HomeFrame.trans (t := { s with badUnits := mset s.badUnits u 3 }) (Eq.refl _) (reportError_frame _ _ _ _ _ _ _ _ _)

/-- A range of whole units covers none in part. -/
theorem partUnits_even {pa n : Nat} (h1 : pa % 2 = 0) (h2 : n % 2 = 0) : partUnits pa n = [] := by
  have h3 : ¬pa % 2 = 1 := by omega
  have h4 : ¬((pa + n) % 2 = 1 ∧ (n > 1 ∨ pa % 2 = 0)) := by omega
  simp [partUnits, h3, h4]

/-- A write of whole units that the home does not discard changes their bytes and clears their residues. -/
theorem homeWrite_even {s : State} {a g pa : Nat} {va : XWord} {l : List Byte}
    (h : discards s pa = false) (h1 : pa % 2 = 0)
    (h2 : l.length % 2 = 0) :
    s.homeWrite a g va pa l = { s.put (s.writerOf a) pa l with badUnits := clearUnits s.badUnits pa l.length } := by
  unfold State.homeWrite
  rw [h, if_neg Bool.false_ne_true]
  dsimp only
  rw [partUnits_even h1 h2]
  rfl

end Machine
end Sys2Proof
end

