-- ==== Sys2Proof/Laws/Convoy.lean ====
section
/-! SUPPORT. How an instruction ends: what each shape of instruction answers once its effect is known. -/

namespace Sys2Proof
namespace Machine

/-- The bytes that buffered stores hold depend on the buffer alone. -/
theorem storeBytesHeld_congr {r q : Regs} (h : q.storeBuf = r.storeBuf) : storeBytesHeld q = storeBytesHeld r := by
  simp [storeBytesHeld, h]

/-- A change of the registers that keeps the buffered stores keeps the strip open. -/
theorem InStrip.of {s t : State} (h : InStrip s) (h1 : t.hart.tl = s.hart.tl) (h2 : t.hart.early = s.hart.early)
    (h3 : t.hart.regs.storeBuf = s.hart.regs.storeBuf) : InStrip t :=
  ⟨h1.trans h.1, h2.trans h.2.1, (storeBytesHeld_congr h3).trans_le h.2.2⟩

/-- What the end of a convoy leaves of a state. -/
def State.retired (s : State) : State :=
  s.setHart { s.hart with
    undo := none, wait := none, readySince := readyAt s.gtime
    regs := { s.hart.regs with pend := none, cv := none, chain := none, first := none, member := 0 } }

theorem retire_inStrip {s0 s : State} {r0 : Regs} (h : InStrip s) : retire s0 r0 s = .next s.retired := by
  obtain ⟨h1, h2, h3⟩ := h
  have hb : storeBytesHeld { s.regs with pend := none, cv := none, chain := none, first := none, member := 0 }
      ≤ Config.storeBufBytes := h3
  simp only [State.regs] at *
  simp [retire, h1, h2, hb, State.retired]

/-- An instruction of the open strip that forms a convoy of one. -/
theorem ordinary_next {s t : State} {f : State → Eff State} (ht : InStrip t) (hf : f s = .ok t) :
    ordinary f s = .next t.advance.retired := by
  have ha : InStrip t.advance := ht.of rfl rfl rfl
  simp only [ordinary, finishMember, hf, retire_inStrip ha]
  rfl

/-- What the end of a convoy at the next word leaves: the registers `r`, and the rest of the machine. -/
theorem advance_retired_same (s : State) : SameMachine s s.advance.retired :=
  ⟨fun _ => rfl, rfl⟩

/-- An instruction of the open strip whose whole effect is a scalar register. -/
theorem ordinary_sets {s : State} {f : State → Eff State} {d : BitVec 5} {v : XWord} (h : InStrip s)
    (hf : f s = .ok (s.setX d v)) : Sets (ordinary f s) s d v := by
  have ht : InStrip (s.setX d v) := h.of rfl rfl (by simp)
  refine ⟨_, ordinary_next ht hf, ⟨rfl, fun r hr => ?_⟩, ?_, ?_, fun _ => rfl, rfl⟩
  · have := readX_writeX s.regs d r v
    rw [if_neg hr] at this
    exact this
  · simp [State.retired]
  · simp [OnlyX, State.retired]

/-- A control transfer that does not reach the launch record. -/
theorem transfer_next {s t : State} {f : State → Eff (Bool × State)} {b : Bool} (ht : InStrip t) (hf : f s = .ok (b, t))
    (hr : (b && atRecord t t.regs.pc) = false) : transfer f s = .next t.retired := by
  simp only [transfer, hf, hr, retire_inStrip ht]
  rfl

/-! ### Commits -/

/-- Nothing changed but memory, the note of what was written, scratchpads, residues, contexts' error queues and function 0's
records. -/
def StoreFrame (s t : State) : Prop :=
  t = { s with mem := t.mem, written := t.written, badUnits := t.badUnits, ctxs := t.ctxs, dev := t.dev, cores := t.cores }

theorem StoreFrame.trans {s t u : State} (h : StoreFrame s t) (g : StoreFrame t u) : StoreFrame s u := by
  unfold StoreFrame at *
  rw [g, h]

theorem HomeFrame.store {s t : State} (h : HomeFrame s t) : StoreFrame s t := by
  unfold HomeFrame StoreFrame at *
  rw [h]

theorem perform_frame (s : State) (t : StoreRec) : StoreFrame s (s.perform t) := by
  unfold State.perform
  split
  · exact Eq.refl _
  · exact (homeWrite_frame _ _ _ _ _ _).store

theorem performs_frame (l : List StoreRec) (s : State) : StoreFrame s (l.foldl State.perform s) := by
  induction l generalizing s with
  | nil => exact Eq.refl _
  | cons t l ih => exact (perform_frame s t).trans (ih _)

/-- The stores of a strip performed: the buffer is empty, and the rest of the hart is as it was. -/
theorem performAll_hart (s : State) : s.performAll.hart = { s.hart with regs := { s.hart.regs with storeBuf := [] } } := by
  have h := performs_frame s.regs.storeBuf s
  unfold StoreFrame at h
  have : (s.regs.storeBuf.foldl State.perform s).hart = s.hart := by rw [h]
  simp only [State.regs_eq] at this
  simp [State.performAll, this]

theorem performAll_frame (s : State) :
    s.performAll = { s with
      mem := s.performAll.mem, written := s.performAll.written, badUnits := s.performAll.badUnits, ctxs := s.performAll.ctxs, dev := s.performAll.dev
      cores := s.performAll.cores, hart := s.performAll.hart } := by
  have h := performs_frame s.regs.storeBuf s
  unfold StoreFrame at h
  unfold State.performAll
  rw [h]
  rfl

theorem settle_hart (s : State) :
    s.settle.hart = { s.hart with regs := commitTwins { s.hart.regs with storeBuf := [] } } := by
  simp [State.settle, performAll_hart]

theorem settle_gtime (s : State) : s.settle.gtime = s.gtime := by
  have h := performAll_frame s
  have : s.performAll.gtime = s.gtime := by rw [h]
  simpa [State.settle] using this

theorem committed_hart (s : State) :
    s.committed.hart = { s.hart with
      regs := commitTwins { s.hart.regs with storeBuf := [] }
      ckpt := snapshot (commitTwins { s.hart.regs with storeBuf := [] }) s.hart.regs.pc
      scp := s.hart.regs.pc.setWidth 57, stripOpened := s.gtime, early := false } := by
  simp [State.committed, settle_hart, settle_gtime]

/-- The commit that comes before an irreversible instruction. -/
theorem preCommit_ok {s : State} (h : MayCommit s) : preCommit s = .ok s.committed := by
  obtain ⟨h1, ⟨h2, h3, _⟩, h4, h5⟩ := h
  have h6 : s.settle.hart.tl = 0 := by rw [settle_hart]; exact h1
  simp only [State.regs_eq] at *
  simp [preCommit, h1, h2, commitAt, h4, h5, h6, State.committed]

/-- What an irreversible instruction leaves: the retired state with a new strip open at the next word. -/
def State.reopened (s : State) : State := s.retired.openStrip s.hart.regs.pc

theorem InStrip.of_empty {s : State} (h1 : s.hart.tl = 0) (h2 : s.hart.early = false) (h3 : s.hart.regs.storeBuf = []) :
    InStrip s := ⟨h1, h2, by simp [storeBytesHeld, h3]⟩

/-- An irreversible instruction whose effect is known. -/
theorem irreversibleThen_next {s t : State} {f : State → Eff (State × (Hart → Hart))} {g : Hart → Hart} (h : MayCommit s)
    (hf : f s.committed = .ok (t, g)) (ht : InStrip t) :
    irreversibleThen f s = .next (t.advance.reopened.setHart (g t.advance.reopened.hart)) := by
  have ha : InStrip t.advance := ht.of rfl rfl rfl
  have h0 : t.advance.retired.hart.tl = 0 := ht.1
  simp only [irreversibleThen, preCommit_ok h, hf, retire_inStrip ha]
  rw [if_pos h0]
  rfl

theorem irreversible_next {s t : State} {f : State → Eff State} (h : MayCommit s) (hf : f s.committed = .ok t)
    (ht : InStrip t) : irreversible f s = .next t.advance.reopened := by
  have := irreversibleThen_next (f := fun s => do return (← f s, id)) (g := id) h (by rw [hf]; rfl) ht
  exact this

/-- What an irreversible instruction answers, from the state `t` that its effect leaves. -/
theorem irreversible_ends {s t : State} {f : State → Eff State} (h : MayCommit s) (hf : f s.committed = .ok t)
    (h1 : t.hart.tl = 0) (h2 : t.hart.early = false) (h3 : t.hart.regs.storeBuf = [])
    (h4 : t.hart.regs.pc = s.committed.hart.regs.pc) :
    ∃ u, irreversible f s = .next u ∧ NextStrip s.committed u ∧ u.hart.wait = none ∧ StripOnly t.hart u.hart ∧
      u.hart.regs = { t.hart.regs with
        pc := t.hart.regs.pc + 4, pend := none, cv := none, chain := none, first := none, member := 0 } ∧
      u = { t with hart := u.hart } := by
  refine ⟨_, irreversible_next h hf (.of_empty h1 h2 h3), ⟨?_, ?_, ?_, ?_, ?_⟩, ?_, ?_, ?_, ?_⟩
  · simp [State.reopened, State.retired, h4]
  · simp [State.reopened, State.retired]
  · simp [State.reopened, State.retired]
  · simp [State.reopened]
  · simp [State.reopened, State.retired]
  · simp [State.reopened, State.retired]
  · simp [StripOnly, State.reopened, State.retired]
  · simp [State.reopened, State.retired]
  · rfl

theorem committed_tl {s : State} (h : MayCommit s) : s.committed.hart.tl = 0 := by rw [committed_hart]; exact h.1
theorem committed_early (s : State) : s.committed.hart.early = false := by rw [committed_hart]
theorem committed_buf (s : State) : s.committed.hart.regs.storeBuf = [] := by rw [committed_hart]; rfl

/-- An irreversible instruction whose whole effect is a scalar register. -/
theorem irreversible_sets {s : State} {f : State → Eff State} {d : BitVec 5} {v : XWord} (h : MayCommit s)
    (hf : f s.committed = .ok (s.committed.setX d v)) : SetsAfterCommit (irreversible f s) s d v := by
  obtain ⟨u, h1, h2, h3, h4, h5, h6⟩ := irreversible_ends h hf (committed_tl h) (committed_early s)
    (by simp [committed_buf]) (by simp)
  refine ⟨u, h1, h2, h3, ⟨rfl, fun r hr => ?_⟩, ?_, h4, h6⟩
  · have := readX_writeX s.committed.regs d r v
    rw [if_neg hr] at this
    rw [State.x, State.regs, h5]
    exact this
  · rw [OnlyX, State.regs, h5]
    simp

/-! ### Accesses -/

/-- Nothing changed but the translation caches, the number of the next free value, and what a walk found. -/
def TlbFrame (s t : State) : Prop := OnlyFound s t ∧ t = { s with tlb := t.tlb, free := t.free, agenda := t.agenda }

theorem OnlyFound.rfl {s : State} : OnlyFound s s := ⟨[], by simp⟩

theorem walked_frame (s : State) (agent : Nat) (w : Walk) (va : XWord) : TlbFrame s (s.walked agent w va) := by
  refine ⟨⟨_, Eq.refl _, fun x hx => ?_⟩, Eq.refl _⟩
  obtain ⟨u, -, rfl⟩ := List.mem_map.1 hx
  exact ⟨_, _, _, _, Eq.refl _⟩

theorem locatedBy_frame {g : Nat} {s t : State} {acc : Access} {va : XWord} {al ix pa : Nat}
    (h : locatedBy g s acc va al ix = .ok (pa, t)) : TlbFrame s t := by
  unfold locatedBy at h
  dsimp only at h
  split at h
  · cases h
  · split at h
    · cases h
    · split at h
      · cases h; exact ⟨.rfl, Eq.refl _⟩
      · split at h
        · cases h
        · split at h
          · cases h
          · split at h
            · cases h
            · cases h; exact walked_frame _ _ _ _

theorem located_frame {s t : State} {acc : Access} {va : XWord} {al ix pa : Nat} (h : located s acc va al ix = .ok (pa, t)) :
    TlbFrame s t := locatedBy_frame h

/-- An access changes nothing but what its translation caches, draws and finds. -/
theorem access_frame {s t : State} {acc : Access} {va : XWord} {al ix pa : Nat} (h : access s acc va al ix = .ok (pa, t)) :
    TlbFrame s t := by
  unfold access at h
  split at h
  · cases h
  · rename_i hl
    split at h
    · cases h
    · cases h; exact located_frame hl

theorem TlbFrame.hart {s t : State} (h : TlbFrame s t) : t.hart = s.hart := by rw [h.2]
theorem TlbFrame.mem {s t : State} (h : TlbFrame s t) : t.mem = s.mem := by rw [h.2]

theorem TlbFrame.seenBytes {s t : State} (h : TlbFrame s t) (pa n : Nat) : seenBytes t pa n = seenBytes s pa n := by
  simp only [Machine.seenBytes, State.regs, h.hart, h.mem]

/-- What a readable load reads. -/
theorem loadBytes_ok {s : State} {va : XWord} {n pa : Nat} (h : Readable s va n pa) :
    ∃ s1, loadBytes s .read va n n 0 = .ok (seenBytes s pa n, s1) ∧ TlbFrame s s1 := by
  obtain ⟨s1, h1, h2⟩ := h
  have hf := access_frame h1
  refine ⟨s1, ?_, hf⟩
  rw [← hf.seenBytes]
  simp only [loadBytes, h1, bind, Except.bind, h2, pure, Except.pure]

/-! ### Traps -/

theorem causeGroup_eq (code : Nat) : causeGroup code = entryOf code := by
  unfold causeGroup entryOf cDIVZ cALIGN cXLAT cPROT cPOISON cBUDGET cQLEFT cSTAMP cTRAPI cENGINE
  split
  · simp [*]
  · split
    · rename_i h; rcases h with h | h | h | h <;> simp [h]
    · split
      · rename_i h; rcases h with h | h <;> simp [h]
      · split
        · simp [*]
        · split
          · simp [*]
          · split
            · simp [*]
            · split <;> simp_all

/-- Entry to trap level 1. -/
theorem enterTrap_enters {c : State} {tr : Trap} {restart : Bool} {member : Nat} {ret : XWord} (h : Traps c) :
    EntersTrap c (enterTrap c tr restart member ret) tr restart member ret := by
  obtain ⟨_, h1, h2⟩ := h
  have h3 : ¬(c.hart.tl = 2 ∨ c.hart.thb = 0) := by
    rw [h1]; simpa using h2
  have h4 : ¬c.hart.thb = 0#47 := h2
  by_cases hx : pageFault tr = true
  · have : tr.code = 7 ∧ canonical tr.tv = true := by simpa [pageFault, cXLAT] using hx
    refine ⟨?_, ?_, ?_, ?_⟩ <;> simp [enterTrap, h4, h1, hx, setTrapRegs, causeGroup_eq, State.setHart, this]
  · have : ¬(tr.code = 7 ∧ canonical tr.tv = true) := by simpa [pageFault, cXLAT] using hx
    refine ⟨?_, ?_, ?_, ?_⟩ <;> simp [enterTrap, h4, h1, hx, setTrapRegs, causeGroup_eq, State.setHart, this]

theorem convoyStart_eq {s : State} (h : AtConvoy s) : s.convoyStart = s := by
  obtain ⟨h1, _, h3⟩ := h
  have : ({ s.regs with member := 0 } : Regs) = s.hart.regs := by rw [← h3]; rfl
  simp only [State.convoyStart, h1, this]
  rfl

theorem discard_hart (s : State) :
    s.discard.hart = { s.hart with
      regs := discardRegs s.hart s.hart.regs, undo := none, early := false, stripOpened := s.gtime } := by
  unfold State.discard
  dsimp only
  split <;> rfl

theorem Traps.discard {s : State} (h : Traps s) : Traps s.discard := by
  unfold Traps at *
  rw [discard_hart]
  exact h

theorem Traps.settle {s : State} (h : Traps s) : Traps s.settle := by
  unfold Traps at *
  rw [settle_hart]
  exact h

theorem noting_none {s : State} {tr : Trap} (hf : tr.found = []) (hd : tr.drawn = 0) : s.noting tr = s := by
  unfold State.noting
  rw [hf, hd, Nat.max_zero]
  rfl

theorem convoyStart_finds (s : State) : s.convoyStart.finds = s.finds := by
  unfold State.convoyStart
  split <;> rfl

theorem convoyStart_free (s : State) : s.convoyStart.free = s.free := by
  unfold State.convoyStart
  split <;> rfl

/-- What has been found before an instruction changes nothing more when its trap carries it. -/
theorem takeTrap_found (s : State) (tr : Trap) (l : List (Nat × XWord)) :
    takeTrap s { tr with found := s.finds ++ l } = takeTrap s { tr with found := l } := by
  have h : s.convoyStart.noting { tr with found := s.finds ++ l } = s.convoyStart.noting { tr with found := l } := by
    have : s.finds.filter (fun u => !s.convoyStart.finds.contains u) = [] := by
      rw [convoyStart_finds, List.filter_eq_nil_iff]
      intro u hu
      simp [hu]
    simp only [State.noting, List.filter_append, this, List.nil_append]
  simp only [takeTrap, h]
  rfl

/-- Nor does what has been drawn before it. -/
theorem takeTrap_drawn (s : State) (tr : Trap) (n : Nat) :
    takeTrap s { tr with drawn := max s.free n } = takeTrap s { tr with drawn := n } := by
  have h : s.convoyStart.noting { tr with drawn := max s.free n } = s.convoyStart.noting { tr with drawn := n } := by
    simp only [State.noting, convoyStart_free, ← Nat.max_assoc, Nat.max_self]
  simp only [takeTrap, h]
  rfl

/-- A cause that restarts the strip: its effects are discarded (R389). -/
theorem takeTrap_restart {s : State} {tr : Trap} (h : Traps s) (hc : AtConvoy s) (hf : tr.found = []) (hd : tr.drawn = 0)
    (hl : heldByLeader s tr = false) (hr : causeRestarts tr = true ∨ queuesEmpty s.regs = false) :
    ∃ t, takeTrap s tr = .next t ∧ EntersTrap s.discard t tr true 0 s.hart.ckpt.pc := by
  refine ⟨_, ?_, enterTrap_enters h.discard⟩
  have hr' : (causeRestarts tr || !queuesEmpty s.regs) = true := by
    rcases hr with hr | hr <;> rw [hr] <;> simp
  have htl : ¬(s.hart.tl ≠ 0) := by rw [h.2.1]; simp
  simp only [takeTrap, h.1, convoyStart_eq hc, noting_none hf hd, hl, Bool.false_eq_true, if_false, if_neg htl, hr', if_true, hc.2.2]

/-- A precise cause: the strip before the instruction is committed (R389). -/
theorem takeTrap_precise {s : State} {tr : Trap} (h : Traps s) (hc : MayCommit s) (hf : tr.found = []) (hd : tr.drawn = 0)
    (hl : heldByLeader s tr = false) (hr : causeRestarts tr = false) :
    ∃ t, takeTrap s tr = .next t ∧ EntersTrap s.settle t tr false 0 s.hart.regs.pc := by
  refine ⟨_, ?_, enterTrap_enters h.settle⟩
  obtain ⟨h1, h2, h3, h4⟩ := hc
  have hr' : (causeRestarts tr || !queuesEmpty s.regs) = false := by rw [hr, h3]; rfl
  have htl : ¬(s.hart.tl ≠ 0) := by rw [h.2.1]; simp
  simp only [takeTrap, h.1, convoyStart_eq h2, noting_none hf hd, hl, Bool.false_eq_true, if_false, if_neg htl, hr', h4, h2.2.2]
  rfl

theorem heldByLeader_other {s : State} {tr : Trap} (h : tr.code ≠ cXLAT) : heldByLeader s tr = false := by
  simp [heldByLeader, pageFault, h]

/-! ### Irreversible instructions, after the commit -/

/-- A commit changes nothing but memory and scratchpads, the note of what was written, residues, error queues and the hart. -/
theorem committed_frame (s : State) :
    s.committed = { s with
      mem := s.committed.mem, written := s.committed.written, badUnits := s.committed.badUnits, ctxs := s.committed.ctxs, dev := s.committed.dev
      cores := s.committed.cores, hart := s.committed.hart } := by
  have e : ∀ p : State, p = { s with
      mem := p.mem, written := p.written, badUnits := p.badUnits, ctxs := p.ctxs, dev := p.dev, cores := p.cores
      hart := p.hart } → ∀ r pc,
      (p.setRegs r).openStrip pc = { s with
        mem := p.mem, written := p.written, badUnits := p.badUnits, ctxs := p.ctxs, dev := p.dev, cores := p.cores
        hart := ((p.setRegs r).openStrip pc).hart } := by
    intro p h r pc
    cases p
    simp only [State.mk.injEq] at h
    obtain ⟨rfl, rfl, rfl, rfl, -, rfl, rfl, -, rfl, rfl, rfl, -, rfl, rfl, rfl, rfl, rfl, rfl, -, -, -, rfl, rfl, rfl, rfl, -⟩ := h
    rfl
  exact e _ (performAll_frame s) _ _

theorem committed_pc (s : State) : s.committed.hart.regs.pc = s.hart.regs.pc := by rw [committed_hart]; rfl

/-- What an irreversible instruction leaves of a state whose stores are performed. -/
theorem irreversibleThen_sets {s c : State} {f : State → Eff (State × (Hart → Hart))} {g : Hart → Hart} {d : BitVec 5} {v : XWord}
    {w : Option Wait} (h : MayCommit s) (hf : f s.committed = .ok (c.setX d v, g)) (h1 : c.hart.tl = 0) (h2 : c.hart.early = false)
    (h3 : c.hart.regs.storeBuf = []) (hg : ∀ k, k.wait = none → g k = { k with wait := w }) :
    SetsInWaits (irreversibleThen f s) c d v w := by
  have hb : InStrip (c.setX d v) := .of_empty h1 h2 (by simpa using h3)
  refine ⟨_, irreversibleThen_next h hf hb, ?_⟩
  have hw : (c.setX d v).advance.reopened.hart.wait = none := rfl
  rw [hg _ hw]
  refine ⟨⟨?_, ?_, ?_, ?_, ?_⟩, rfl, ⟨rfl, fun r hr => ?_⟩, ?_, ?_, ?_⟩
  · simp [State.reopened, State.retired]
  · simp [State.reopened, State.retired]
  · simp [State.reopened, State.retired]
  · simp [State.reopened]
  · simp [State.reopened, State.retired]
  · have := readX_writeX c.regs d r v
    rw [if_neg hr] at this
    exact this
  · simp [OnlyX, State.reopened, State.retired]
  · simp [StripOnly, State.reopened, State.retired]
  · rfl

/-- An irreversible instruction that leaves no wait. -/
theorem irreversible_setsIn {s c : State} {f : State → Eff State} {d : BitVec 5} {v : XWord} (h : MayCommit s)
    (hf : f s.committed = .ok (c.setX d v)) (h1 : c.hart.tl = 0) (h2 : c.hart.early = false) (h3 : c.hart.regs.storeBuf = []) :
    SetsIn (irreversible f s) c d v :=
  irreversibleThen_sets (g := id) h (by simp only [hf]; rfl) h1 h2 h3 (fun k hk => by rw [← hk]; rfl)

theorem setX_zero (s : State) (v : XWord) : s.setX 0 v = s := rfl

/-- An irreversible instruction that waits, once its commit is made. -/
theorem irreversible_waits {s c : State} {f : State → Eff State} {w : Wait} (h : MayCommit s) (hf : f s.committed = .error (.wait w)) :
    Waits (irreversible f s) s.committed w := by
  have hc : s.committed.convoyStart = s.committed := by
    apply convoyStart_eq
    obtain ⟨_, ⟨a, b, c⟩, _⟩ := h
    refine ⟨?_, ?_, ?_⟩ <;> simp [committed_hart, commitTwins] <;> assumption
  simp only [irreversible, irreversibleThen, preCommit_ok h, hf, bind, Except.bind, stopped, hc, Waits]

theorem MayCommit.committed {s : State} (h : MayCommit s) : MayCommit s.committed := by
  obtain ⟨h1, ⟨h2, h3, h4⟩, h5, h6⟩ := h
  have hq : s.committed.regs.queues = s.regs.queues := by simp [committed_hart, commitTwins]
  refine ⟨committed_tl ⟨h1, ⟨h2, h3, h4⟩, h5, h6⟩, ⟨?_, ?_, ?_⟩, ?_, ?_⟩
  · simp [committed_hart]; assumption
  · simp [committed_hart, commitTwins]; assumption
  · simp [committed_hart, commitTwins]; assumption
  · simp only [queuesEmpty, hq]; exact h5
  · simp [commitWait, committed_hart, commitTwins]

theorem Traps.committed {s : State} (h : Traps s) : Traps s.committed := by
  unfold Traps at *
  rw [committed_hart]
  exact h

/-- An irreversible instruction that meets a precise cause. -/
theorem irreversible_precise {s : State} {f : State → Eff State} {t : Trap} (h : MayCommit s) (ht : Traps s)
    (hf : f s.committed = .error (.trap t)) (h1 : t.found = []) (hd : t.drawn = 0)
    (h2 : heldByLeader s.committed t = false) (h3 : causeRestarts t = false) :
    ∃ u, irreversible f s = .next u ∧ EntersTrap s.committed.settle u t false 0 s.regs.pc := by
  obtain ⟨u, h4, h5⟩ := takeTrap_precise ht.committed h.committed h1 hd h2 h3
  rw [committed_pc] at h5
  refine ⟨u, ?_, h5⟩
  rw [← h4]
  simp only [irreversible, irreversibleThen, preCommit_ok h, hf, bind, Except.bind, stopped]

end Machine
end Sys2Proof
end

