-- ==== Sys2Proof/Laws/Crypto.lean ====
section
/-! SUPPORT. A sealed image opens to its plaintext. -/

namespace Sys2Proof
namespace Machine

theorem pieces_flatten {α : Type} (k n : Nat) (l : List α) : (pieces k n l).flatten = l.take (k * n) := by
  induction n generalizing l with
  | zero => simp [pieces]
  | succ n ih => simp [pieces, ih, Nat.mul_succ, Nat.add_comm, List.take_add]

theorem pieces_length {α : Type} (k n : Nat) (l : List α) : (pieces k n l).length = n := by
  induction n generalizing l with
  | zero => rfl
  | succ n ih => simp [pieces, ih]

theorem mem_pieces {α : Type} {k n : Nat} {l p : List α} (hl : k * n ≤ l.length) (h : p ∈ pieces k n l) :
    p.length = k ∧ ∀ x ∈ p, x ∈ l := by
  induction n generalizing l with
  | zero => cases h
  | succ n ih =>
    rw [Nat.mul_succ] at hl
    rcases List.mem_cons.1 h with rfl | h
    · exact ⟨by simp; omega, fun x hx => List.mem_of_mem_take hx⟩
    · obtain ⟨h1, h2⟩ := ih (by simp; omega) h
      exact ⟨h1, fun x hx => List.mem_of_mem_drop (h2 x hx)⟩

theorem nextWord_length {i : Nat} {rcon : Byte} {ws : List (List Byte)} (h : ∀ w ∈ ws, w.length = 4) (hn : 8 ≤ ws.length) :
    (nextWord i rcon ws).length = 4 := by
  have h0 : (ws.headD []).length = 4 := by
    cases ws with
    | nil => cases hn
    | cons w _ => exact h w (.head _)
  have h7 : (ws.getD 7 []).length = 4 := by
    rw [List.getD_eq_getElem _ _ (by omega)]; exact h _ (List.getElem_mem _)
  have hm : ((ws.headD []).drop 1 ++ (ws.headD []).take 1).length = 4 := by
    rw [List.length_append, List.length_drop, List.length_take]; omega
  unfold nextWord
  simp only [List.length_zipWith, h7]
  split
  · split
    · rename_i hb
      have := congrArg List.length hb
      simp only [List.length_map, hm, List.length_cons] at this
      simp only [List.length_cons]; omega
    · rename_i hb
      have := congrArg List.length hb
      simp only [List.length_map, hm, List.length_nil] at this
      omega
  · split
    · simp only [List.length_map]; omega
    · omega

theorem expandFrom_words (n : Nat) : ∀ (i : Nat) (rcon : Byte) (ws : List (List Byte)), (∀ w ∈ ws, w.length = 4) → 8 ≤ ws.length →
    (∀ w ∈ expandFrom n i rcon ws, w.length = 4) ∧ (expandFrom n i rcon ws).length = n + ws.length := by
  induction n with
  | zero => intro i rcon ws h _; exact ⟨h, (Nat.zero_add _).symm⟩
  | succ n ih =>
    intro i rcon ws h hn
    have h1 : ∀ w ∈ nextWord i rcon ws :: ws, w.length = 4 := by
      rintro w (_ | ⟨_, hw⟩)
      · exact nextWord_length h hn
      · exact h w hw
    obtain ⟨h2, h3⟩ := ih (i + 1) (if i % 8 = 0 then xtime rcon else rcon) _ h1 (by simp; omega)
    exact ⟨h2, by simp only [expandFrom, h3, List.length_cons]; omega⟩

/-- The fifteen round keys have 16 bytes each. -/
theorem roundKeys_length {key : List Byte} (h : key.length = 32) :
    (∀ k ∈ roundKeys key, k.length = 16) ∧ (roundKeys key).length = 15 := by
  have h8 : ∀ w ∈ (pieces 4 8 key).reverse, w.length = 4 := fun w hw => (mem_pieces (by omega) (List.mem_reverse.1 hw)).1
  obtain ⟨h1, h2⟩ := expandFrom_words 52 8 1 _ h8 (by simp [pieces_length])
  simp only [List.length_reverse, pieces_length] at h2
  refine ⟨fun k hk => ?_, by simp [roundKeys, pieces_length]⟩
  obtain ⟨p, hp, rfl⟩ := List.mem_map.1 hk
  obtain ⟨h3, h4⟩ := mem_pieces (by rw [List.length_reverse, h2]) hp
  have : ∀ w ∈ p, w.length = 4 := fun w hw => h1 w (List.mem_reverse.1 (h4 w hw))
  match p, h3 with
  | [a, b, c, d], _ => simp [this]

theorem aesRounds_length (ks : List (List Byte)) : ∀ s : List Byte, (∀ k ∈ ks, k.length = 16) → ks ≠ [] → (aesRounds ks s).length = 16 := by
  induction ks with
  | nil => intro s _ h; exact absurd rfl h
  | cons k ks ih =>
    intro s h _
    cases ks with
    | nil => simp [aesRounds, addKey, shiftRows, h k (.head _), span]
    | cons k2 ks => exact ih _ (fun j hj => h j (.tail _ hj)) (by simp)

theorem aesBlock_length {ks : List (List Byte)} (b : List Byte) (h : ∀ k ∈ ks, k.length = 16) (hn : ks.length = 15) :
    (aesBlock ks b).length = 16 := by
  match ks, hn with
  | k :: k2 :: ks, _ => exact aesRounds_length _ _ (fun j hj => h j (.tail _ hj)) (by simp)

/-- Counter mode undoes itself. -/
theorem ctrBlocks_twice {ks : List (List Byte)} {iv : List Byte} (h : ∀ k ∈ ks, k.length = 16) (hn : ks.length = 15) (n : Nat) :
    ∀ (c : Nat) (bs : List Byte), bs.length ≤ 16 * n →
      (ctrBlocks ks iv n c bs).length = bs.length ∧ ctrBlocks ks iv n c (ctrBlocks ks iv n c bs) = bs := by
  induction n with
  | zero => intro c bs hb; have : bs = [] := List.eq_nil_of_length_eq_zero (by omega); subst this; exact ⟨rfl, rfl⟩
  | succ n ih =>
    intro c bs hb
    have e := aesBlock_length (iv ++ beBytes 4 c) h hn
    set k := aesBlock ks (iv ++ beBytes 4 c) with hk
    obtain ⟨h1, h2⟩ := ih (c + 1) (bs.drop 16) (by simp; omega)
    have hz : (List.zipWith (· ^^^ ·) (bs.take 16) k).length = min 16 bs.length := by simp [e]
    have hx : List.zipWith (· ^^^ ·) (List.zipWith (· ^^^ ·) (bs.take 16) k) k = bs.take 16 := by
      apply List.ext_getElem
      · simp [e]
      · intro j _ _; simp [BitVec.xor_assoc]
    refine ⟨by simp only [ctrBlocks, ← hk, List.length_append, hz, h1, List.length_drop]; omega, ?_⟩
    simp only [ctrBlocks, ← hk]
    by_cases hl : 16 ≤ bs.length
    · rw [List.take_append_of_le_length (by omega), List.take_of_length_le (by omega), hx,
        List.drop_append_of_le_length (by omega), List.drop_of_length_le (by omega), List.nil_append, h2, List.take_append_drop]
    · have hd : bs.drop 16 = [] := List.drop_of_length_le (by omega)
      rw [hd] at h1 h2 ⊢
      have he : ctrBlocks ks iv n (c + 1) [] = [] := List.eq_nil_of_length_eq_zero h1
      rw [he, List.append_nil, List.take_of_length_le (by omega), hx, List.drop_of_length_le (by omega), he, List.append_nil,
        List.take_of_length_le (by omega)]

theorem keyBytes_length (k : BitVec 256) : (keyBytes k).length = 32 := by simp [keyBytes, leBytes]

/-- What gcmSeal seals, gcmOpen opens (R230). -/
theorem gcmOpen_gcmSeal (key : BitVec 256) {iv : List Byte} (pt : List Byte) (h : iv.length = 12) : gcmOpen key (gcmSeal key iv pt) = some pt := by
  obtain ⟨hk, hn⟩ := roundKeys_length (keyBytes_length key)
  obtain ⟨h1, h2⟩ := ctrBlocks_twice (iv := iv) hk hn ((pt.length + 15) / 16) 2 pt (by omega)
  have ht : (gcmTag (roundKeys (keyBytes key)) iv (ctrBlocks (roundKeys (keyBytes key)) iv ((pt.length + 15) / 16) 2 pt)).length = 16 := by
    simp [gcmTag, aesBlock_length _ hk hn, beBytes, leBytes]
  unfold gcmOpen gcmSeal
  simp only []
  generalize ctrBlocks (roundKeys (keyBytes key)) iv ((pt.length + 15) / 16) 2 pt = ct at *
  generalize htag : gcmTag (roundKeys (keyBytes key)) iv ct = t at *
  have hl : (iv ++ ct ++ t).length = 28 + ct.length := by simp [h, ht]; omega
  rw [if_neg (by omega), hl, show 28 + ct.length - 28 = ct.length by omega]
  have e1 : (iv ++ ct ++ t).take 12 = iv := by rw [List.append_assoc, List.take_append_of_le_length (by omega), List.take_of_length_le (by omega)]
  have e2 : ((iv ++ ct ++ t).drop 12).take ct.length = ct := by
    rw [List.append_assoc, List.drop_append_of_le_length (by omega), List.drop_of_length_le (by omega), List.nil_append, List.take_left']
    rfl
  have e3 : (iv ++ ct ++ t).drop (28 + ct.length - 16) = t := by
    rw [List.drop_append_of_le_length (by simp; omega), List.drop_of_length_le (by simp; omega), List.nil_append]
  rw [e1, e2, e3, if_pos htag, h1, h2]

theorem memReadN_memWriteN_from {m : List Host.Cell} (a : Nat) (l : List Byte) (h : Memory.wf m = true) (n : Nat) :
    ∀ k, k + n ≤ l.length → memReadN (memWriteN m a l) (a + k) n = (l.drop k).take n := by
  induction n with
  | zero => intro k _; simp [memReadN, span]
  | succ n ih =>
    intro k hk
    have e := ih (k + 1) (by omega)
    rw [← Nat.add_assoc] at e
    simp only [memReadN, span, List.map_cons] at e ⊢
    rw [e, memRead_memWriteN _ _ _ h, if_pos ⟨by omega, by omega⟩, show a + k - a = k by omega,
      List.drop_eq_getElem_cons (by omega : k < l.length), List.take_succ_cons, List.getD_eq_getElem _ _ (by omega)]

/-- The bytes just written are read back. -/
theorem memReadN_memWriteN {m : List Host.Cell} (a n : Nat) (l : List Byte) (h : Memory.wf m = true) (hn : n ≤ l.length) :
    memReadN (memWriteN m a l) a n = l.take n := by
  simpa using memReadN_memWriteN_from a l h n 0 (by omega)

/-- A sealed image's length, from its head (Table 10.7). -/
theorem imageLength_gcmSeal (key : BitVec 256) {iv : List Byte} (pt : List Byte) (h : iv.length = 12) (hp : 16 ≤ pt.length) :
    let v := leNat (pt.take 8)
    imageLength key ((gcmSeal key iv pt).take 28) = 64 + bitsAt v 24 6 * bitsAt v 0 17 * 2 ^ bitsAt v 20 2 + 8 * bitsAt v 0 17 + 28 := by
  obtain ⟨hk, hn⟩ := roundKeys_length (keyBytes_length key)
  obtain ⟨n, hb⟩ : ∃ n, (pt.length + 15) / 16 = n + 1 := ⟨(pt.length + 15) / 16 - 1, by omega⟩
  have e := aesBlock_length (iv ++ beBytes 4 2) hk hn
  set k := aesBlock (roundKeys (keyBytes key)) (iv ++ beBytes 4 2) with hkey
  have hz : (List.zipWith (· ^^^ ·) (pt.take 16) k).length = 16 := by simp [e]; omega
  have hx : List.zipWith (· ^^^ ·) (List.zipWith (· ^^^ ·) (pt.take 16) k) k = pt.take 16 := by
    apply List.ext_getElem
    · simp [e]
    · intro j _ _; simp [BitVec.xor_assoc]
  unfold imageLength gcmSeal
  simp only [hb, ctrBlocks, ← hkey, List.append_assoc]
  have e1 : ∀ r : List Byte, ((iv ++ r).take 28).take 12 = iv := by
    intro r; rw [List.take_take, List.take_append_of_le_length (by omega), List.take_of_length_le (by omega)]
  have e2 : ∀ c r : List Byte, c.length = 16 → (((iv ++ (c ++ r)).take 28).drop 12).take 16 = c := by
    intro c r hc
    rw [← List.append_assoc, List.take_append_of_le_length (by simp [h, hc]), List.take_of_length_le (l := iv ++ c) (by simp [h, hc]),
      List.drop_append_of_le_length (by omega), List.drop_of_length_le (by omega), List.nil_append, List.take_of_length_le (by omega)]
  rw [e1, e2 _ _ hz, ← hkey, List.take_of_length_le (Nat.le_of_eq hz), hx, List.append_nil, List.take_take]
  rfl

end Machine
end Sys2Proof
end

