-- ==== Sys2Proof/Laws/Scalar.lean ====
section
/-! SUPPORT. What scalar instructions of the open strip answer, by shape. -/

namespace Sys2Proof
namespace Machine

theorem ordinary_stops {s : State} {f : State → Eff State} {e} (h : f s = .error e) : ordinary f s = stopped s e := by
  simp only [ordinary, finishMember, h]

theorem leBytes_length (n v : Nat) : (leBytes n v).length = n := by
  induction n generalizing v with
  | zero => rfl
  | succ n ih => simp [leBytes, ih]

theorem leBytes_get (n v j : Nat) (h : j < n) : (leBytes n v)[j]? = some (BitVec.ofNat 8 (v / 256 ^ j)) := by
  induction n generalizing v j with
  | zero => omega
  | succ n ih =>
    cases j with
    | zero => simp [leBytes]
    | succ j =>
      simp only [leBytes, List.getElem?_cons_succ, ih (v / 256) j (by omega)]
      rw [Nat.div_div_eq_div_mul, pow_succ, Nat.mul_comm]

theorem forwarded_append (l : List StoreRec) (t : StoreRec) (sp : Bool) (a : Nat) :
    forwarded (l ++ [t]) sp a = if t.sp = sp ∧ t.addr ≤ a ∧ a < t.addr + t.data.length then t.data[a - t.addr]? else forwarded l sp a := by
  simp [forwarded, List.foldl_append]

theorem store_next {s s1 : State} {b a : BitVec 5} {i : BitVec 12} {n pa : Nat} (h1 : s.hart.tl = 0) (h2 : s.hart.early = false)
    (h3 : access s .write (s.x a + i.signExtend 64) n 0 = .ok (pa, s1)) (h4 : storeBytesHeld s.regs + n ≤ Config.storeBufBytes) :
    storeOp b a i n s = .next (s1.buffer ⟨false, pa, leBytes n (s.x b).toNat, s.x a + i.signExtend 64⟩).advance.retired := by
  have hf := access_frame h3
  refine ordinary_next ⟨?_, ?_, ?_⟩ ?_
  · simpa [hf.hart] using h1
  · simpa [hf.hart] using h2
  · simp only [State.regs, State.buffer_hart, hf.hart]
    unfold storeBytesHeld at *
    simp only [List.map_append, List.sum_append, List.map_cons, List.map_nil, leBytes_length, List.sum_cons, List.sum_nil]
    exact h4
  · simp only [storeBytes, h3, bind, Except.bind, pure, Except.pure]

theorem canonical_iff (v : XWord) : canonical v = true ↔ (-2 ^ 56 ≤ v.toInt ∧ v.toInt < 2 ^ 56) := by
  unfold canonical sext
  constructor
  · intro h
    have h := eq_of_beq h
    have : v.toInt = (v.setWidth 57).toInt := by
      conv_lhs => rw [← h]
      rw [BitVec.toInt_signExtend_of_le (by omega)]
    rw [this]
    generalize v.setWidth 57 = w
    have h1 := BitVec.toInt_lt (x := w)
    have h2 := BitVec.le_toInt (x := w)
    norm_num at h1 h2 ⊢
    exact ⟨h2, h1⟩
  · intro h
    simp only [beq_iff_eq]
    apply BitVec.eq_of_toInt_eq
    rw [BitVec.toInt_signExtend_of_le (by omega)]
    have hv := v.isLt
    rw [BitVec.toInt_setWidth, Int.bmod_def]
    rw [BitVec.toInt_eq_toNat_cond] at *
    norm_num at *
    split at h <;> split <;> omega

theorem stopped_trap (s : State) (t : Trap) : stopped s (.trap t) = takeTrap s t := rfl

/-- An address that is not canonical meets XLAT, of a context's hart (R129). -/
theorem located_xlat {s : State} {acc va al ix} (hs : s.hart.steward = false) (hc : canonical va = false) :
   located s acc va al ix = .error (.trap { code := cXLAT, tv := va, write := acc = .write || acc = .update, fetch := acc = .fetch, index := ix, found := s.finds, drawn := s.free }) := by
  simp [located, locatedBy, hs, hc]

/-- A misaligned address meets ALIGN (R129). -/
theorem located_align {s : State} {acc va al ix} (hc : s.hart.steward = true ∨ canonical va = true) (ha : alignedTo va al = false) :
   located s acc va al ix = .error (.trap { code := cALIGN, tv := va, write := acc = .write || acc = .update, fetch := acc = .fetch, index := ix, found := s.finds, drawn := s.free }) := by
  rcases hc with hc | hc <;> simp [located, locatedBy, hc, ha]

theorem load_stops {s : State} {d a : BitVec 5} {i : BitVec 12} {n : Nat} {sg e} (h : located s .read (s.x a + i.signExtend 64) n 0 = .error e) :
   loadOp d a i n sg s = stopped s e := by
  refine ordinary_stops ?_
  simp only [loadNat, loadBytes, access, h, bind, Except.bind]
theorem store_stops {s : State} {d a : BitVec 5} {i : BitVec 12} {n : Nat} {e} (h : located s .write (s.x a + i.signExtend 64) n 0 = .error e) :
   storeOp d a i n s = stopped s e := by
  refine ordinary_stops ?_
  simp only [storeBytes, access, h, bind, Except.bind]

theorem seenBytes_eq (s : State) (pa n) : seenBytes s pa n = (span pa n).map (seenByte s) := rfl

theorem load_sets {s : State} {d a : BitVec 5} {i : BitVec 12} {n pa : Nat} {sg : Bool} {v : XWord} (h : InStrip s)
   (hr : Readable s (s.x a + i.signExtend 64) n pa) (hv : v = if sg then sext (8 * n) (xword (leNat (seenBytes s pa n))) else xword (leNat (seenBytes s pa n))) :
   SetsByAccess (loadOp d a i n sg s) s d v := by
  obtain ⟨s1, h1, hf⟩ := loadBytes_ok hr
  have ht : InStrip (s1.setX d v) := h.of (by simp [hf.hart]) (by simp [hf.hart]) (by simp [hf.hart])
  refine ⟨_, ordinary_next ht ?_, ⟨rfl, fun r hr => ?_⟩, ?_, ?_, ?_, ?_⟩
  · simp only [loadNat, h1, bind, Except.bind, pure, Except.pure, hv]
  · have := readX_writeX s.regs d r v
    rw [if_neg hr] at this
    have hx : (s1.setX d v).advance.retired.x r = readX (writeX s1.regs d v) r := rfl
    rw [hx]; simp only [State.regs, hf.hart]; exact this
  · simp [State.retired, hf.hart]
  · simp [OnlyX, State.retired, hf.hart]
  · intro a; simp [State.retired, hf.mem]
  · refine ⟨hf.1, ?_⟩
    rw [hf.2]; rfl

theorem atRecord_congr {s t : State} {v} (h1 : t.hart.steward = s.hart.steward) (h2 : t.hart.gang = s.hart.gang) (h3 : t.gangs = s.gangs) :
   atRecord t v = atRecord s v := by
  simp only [atRecord, h1, h2, h3]

theorem branch_goes {s : State} {a b : BitVec 5} {i : BitVec 12} {c : XWord → XWord → Bool} (h : InStrip s) (hr : c (s.x a) (s.x b) = true → atRecord s (s.regs.pc + i.signExtend 64 <<< (2:Nat)) = false) :
   Goes (branchOp a b i c s) s 0 0 (if c (s.x a) (s.x b) then s.regs.pc + i.signExtend 64 <<< (2:Nat) else s.regs.pc + 4) := by
  refine ⟨_, transfer_next (b := c (s.x a) (s.x b)) (t := s.setPc (if c (s.x a) (s.x b) then s.regs.pc + i.signExtend 64 <<< (2:Nat) else s.regs.pc + 4)) (h.of rfl rfl rfl) rfl ?_, ⟨rfl, fun r hr => ?_⟩, ?_, ?_, fun _ => rfl, rfl⟩
  · cases hcc : c (s.x a) (s.x b)
    · rfl
    · simp only [if_true]
      exact (atRecord_congr (s := s) rfl rfl rfl).trans (hr hcc)
  · rw [if_neg hr]; rfl
  · rfl
  · simp [OnlyX, State.retired]

theorem jump_goes {s : State} {d : BitVec 5} {t : State → XWord} (h : InStrip s) (ha : (t s).toNat % 4 = 0) (hr : atRecord s (t s) = false) :
   Goes (jumpOp d t s) s d (s.regs.pc + 4) (t s) := by
  refine ⟨_, transfer_next (b := true) (t := (s.setX d (s.regs.pc + 4)).setPc (t s)) (h.of rfl rfl (by simp)) ?_ ?_, ⟨rfl, fun r hr => ?_⟩, ?_, ?_, fun _ => rfl, rfl⟩
  · simp [alignedTo, ha]
  · exact (atRecord_congr (s := s) rfl rfl rfl).trans hr
  · have := readX_writeX s.regs d r (s.regs.pc + 4)
    rw [if_neg hr] at this
    exact this
  · rfl
  · simp [OnlyX, State.retired]

theorem gen_setGen (gs : Vector (BitVec 32) 64) (i : Nat) (g) : gen (setGen gs 0 g) i = if i % 64 = 0 then g else gen gs i := by
  have : i % 64 < 64 := Nat.mod_lt _ (by omega)
  simp only [gen, setGen]
  simp [List.getD_eq_getElem?_getD, List.getElem?_set]
  split
  · rename_i h; simp [← h]
  · rename_i h; simp [Ne.symm h]
theorem fpResult_eq (s : State) (d v fl g) : s.fpResult d v fl g = s.setRegs (writeX { s.hart.regs with gens := setGen s.hart.regs.gens 0 g, fflags := s.hart.regs.fflags ||| fl } d v) := rfl
theorem fp_sets {s : State} {f : State → Eff State} {d v fl g} (h : InStrip s) (hf : f s = .ok (s.fpResult d v fl g)) : SetsRounded (ordinary f s) s d v fl g := by
  rw [fpResult_eq] at hf
  generalize hr : ({ s.hart.regs with gens := setGen s.hart.regs.gens 0 g, fflags := s.hart.regs.fflags ||| fl } : Regs) = r at hf
  have ht : InStrip (s.setRegs (writeX r d v)) := h.of rfl rfl (by simp [← hr])
  refine ⟨_, ordinary_next ht hf, ⟨rfl, fun i hi => ?_⟩, ?_, ?_, ?_, ?_, fun _ => rfl, rfl⟩
  · have := readX_writeX r d i v
    rw [if_neg hi] at this
    have e : readX r i = s.x i := by rw [← hr]; rfl
    rw [e] at this
    exact this
  · simp [State.retired, ← hr]
  · simp [State.retired, ← hr]
  · intro i; simp [State.retired, ← hr, gen_setGen]
  · simp [OnlyXFlags, State.retired, ← hr]

end Machine
end Sys2Proof
end

