-- ==== Sys2Proof/Laws/Ordered.lean ====
section
/-! SUPPORT. What ordered accesses and atomics answer. -/

namespace Sys2Proof
namespace Machine

/-- An ordered access changes nothing but what its translation caches, draws and finds. -/
theorem orderedAccess_frame {s t : State} {acc : Access} {va : XWord} {n : Nat} {sc : BitVec 3} {pa : Nat}
    (h : orderedAccess s acc va n sc = .ok (pa, t)) : TlbFrame s t := by
  have hu : ∀ {p : Nat} {u : State}, access (if acc = .read then s else s.order) acc va n 0 = .ok (p, u) →
      TlbFrame s (u.setHart s.hart) := by
    intro p u hv
    split at hv
    · have hf := access_frame hv
      have : u.setHart s.hart = u := by rw [← hf.hart]; rfl
      rw [this]; exact hf
    · obtain ⟨ho, hf⟩ := access_frame hv
      refine ⟨ho, ?_⟩
      rw [hf]
      rfl
  unfold orderedAccess at h
  simp only [bind, Except.bind, pure, Except.pure] at h
  split at h
  · cases h
  · rename_i v hv
    obtain ⟨p, u⟩ := v
    dsimp only at h
    split at h
    · cases h
    · split at h
      · split at h
        · cases h
        · cases h; exact hu hv
      · cases h; exact hu hv

/-- A write at the home leaves which peer ports have failed. -/
theorem homeWrite_pfail (s : State) (a g : Nat) (va : XWord) (pa : Nat) (l : List Byte) :
    (s.homeWrite a g va pa l).dev.pfail = s.dev.pfail := by
  have hr : ∀ (s : State) c k a g v p x y, (s.reportError c k a g v p x y).dev.pfail = s.dev.pfail := by
    intro s c k a g v p x y
    cases c <;> rfl
  have hl : ∀ (f : State → Nat → State), (∀ s u, (f s u).dev.pfail = s.dev.pfail) → ∀ (l : List Nat) (s : State),
      (l.foldl f s).dev.pfail = s.dev.pfail := by
    intro f hf l
    induction l with
    | nil => intro s; rfl
    | cons u l ih => intro s; rw [List.foldl_cons, ih, hf]
  unfold State.homeWrite
  split
  · rfl
  · refine (hl _ (fun s u => ?_) _ _).trans rfl
    split
    · rfl
    · split
      · rfl
      · exact (hr _ _ _ _ _ _ _ _ _).trans rfl

theorem perform_pfail (s : State) (t : StoreRec) : (s.perform t).dev.pfail = s.dev.pfail := by
  unfold State.perform
  split
  · rfl
  · exact homeWrite_pfail _ _ _ _ _ _

/-- A commit leaves which peer ports have failed. -/
theorem performAll_pfail (s : State) : s.performAll.dev.pfail = s.dev.pfail := by
  have h : ∀ (l : List StoreRec) (s : State), (l.foldl State.perform s).dev.pfail = s.dev.pfail := by
    intro l
    induction l with
    | nil => intro s; rfl
    | cons t l ih => intro s; rw [List.foldl_cons, ih, perform_pfail]
  simp [State.performAll, h]

theorem committed_cur (s : State) : s.committed.cur = s.cur := by rw [committed_frame]

/-- The state that the effect of an atomic, or of an ordered write, of n aligned bytes leaves; `acq` says that it orders what stands
before it. -/
theorem writesHome_of {s c : State} {f : State → Eff State} {d : BitVec 5} {v : XWord} {pa n : Nat} {new : Option Nat} (acq : Bool)
    (h : MayCommit s) (ho : OnlyFound s.committed c)
    (hc : c = { s.committed with
      mem := c.mem, written := c.written, badUnits := c.badUnits, tlb := c.tlb, free := c.free, agenda := c.agenda })
    (hw : c.written = (match new with
      | some w => { by_ := .hart s.cur, pa := pa, old := memReadN s.committed.mem pa n, new := leBytes n w } :: s.committed.written
      | none => s.committed.written))
    (hm : ∀ a, memRead c.mem a = byteAfter s.committed.mem pa n new a)
    (hf : f s.committed = .ok ((if acq then c.order else c).setX d v)) :
    WritesHome (irreversible f s) s acq d v pa n new := by
  obtain ⟨e, he⟩ : ∃ e, e = if acq then c.order else c := ⟨_, rfl⟩
  rw [← he] at hf
  have hh : e.hart = { s.committed.hart with ordered := if acq then c.written.length else s.committed.hart.ordered } := by
    rw [he]; split <;> (rw [hc]; try rfl)
  have hr : e = { c with hart := e.hart } := by rw [he]; split <;> rfl
  obtain ⟨t, g1, g2, g3, g4, g5, g6, g7⟩ := irreversible_setsIn h hf (by rw [hh]; exact committed_tl h)
    (by rw [hh]; exact committed_early s) (by rw [hh]; exact committed_buf s)
  have gw : t.written = c.written := by rw [g7, hr]
  refine ⟨t, g1, ?_, g3, ?_, ?_, ?_, ?_, ?_, ?_, ?_⟩
  · simpa only [NextStrip, State.regs, hh] using g2
  · simpa only [WritesX, State.x, State.regs, hh] using g4
  · simpa only [OnlyX, State.regs, hh] using g5
  · rw [gw]; simpa only [StripOnly, hh] using g6
  · intro a; rw [← hm]; rw [g7, hr]
  · rw [g7, hr]; exact ho
  · exact gw.trans hw
  · rw [g7, hr]; conv_lhs => rw [hc]

/-- A write through a port that works, outside the audit region, is not discarded. -/
theorem PortUp.discards {s : State} {pa : Nat} (h : PortUp s pa) : discards s pa = false := by
  obtain ⟨h1, h2⟩ := h
  simp only [Machine.discards, Bool.or_eq_false_iff, Bool.and_eq_false_iff, decide_eq_false_iff_not]
  constructor
  · by_cases hp : Config.peerBase ≤ pa
    · right; cases hx : s.dev.pfail.getLsbD ((pa - Config.peerBase) / 2 ^ 46)
      · rfl
      · exact absurd ⟨hp, hx⟩ h1
    · exact .inl hp
  · by_cases hp : Config.auditBase ≤ pa
    · exact .inr fun hq => h2 ⟨hp, hq⟩
    · exact .inl hp

/-- What a write of n aligned bytes does to memory. -/
theorem homeWrite_bytes {s u : State} {g pa n w : Nat} {va : XWord} (hu : TlbFrame s u) (hw : Memory.wf s.mem = true)
    (hp : PortUp s pa) (h1 : pa % 2 = 0) (h2 : n % 2 = 0) :
    let c := u.homeWrite 0 g va pa (leBytes n w)
    OnlyFound s c ∧ c = { s with
      mem := c.mem, written := c.written, badUnits := c.badUnits, tlb := c.tlb, free := c.free, agenda := c.agenda } ∧
      c.written = { by_ := .hart s.cur, pa := pa, old := memReadN s.mem pa n, new := leBytes n w } :: s.written ∧
      ∀ a, memRead c.mem a = byteAfter s.mem pa n (some w) a := by
  obtain ⟨ho, hu⟩ := hu
  obtain ⟨tl, fr, ag, rfl⟩ : ∃ tl fr ag, u = { s with tlb := tl, free := fr, agenda := ag } := ⟨_, _, _, hu⟩
  have e := homeWrite_even (s := { s with tlb := tl, free := fr, agenda := ag }) (a := 0) (g := g) (va := va) (l := leBytes n w)
    hp.discards h1
    (by rw [leBytes_length]; exact h2)
  dsimp only
  rw [e]
  refine ⟨ho, rfl, by simp [leBytes_length, State.writerOf], fun a => ?_⟩
  have hb : (leBytes n w).length = n := leBytes_length n w
  dsimp only [State.put]
  rw [memRead_memWriteN _ _ _ hw, hb, byteAfter]
  split
  · rename_i ha
    rw [List.getD_eq_getElem?_getD, leBytes_get _ _ _ (by omega), Option.getD_some]
  · rfl

theorem devWrite_wf (s : State) (pa : Nat) (l : List Byte) (h : Memory.wf s.mem = true) : Memory.wf (s.devWrite pa l).mem = true :=
  memWriteN_wf _ _ h

theorem reportError_wf (s : State) (c : Option Nat) (k a g v p x y : Nat) (h : Memory.wf s.mem = true) :
    Memory.wf (s.reportError c k a g v p x y).mem = true := by
  cases c with
  | none => exact h
  | some c =>
    unfold State.reportError
    dsimp only
    exact devWrite_wf _ _ _ (devWrite_wf _ _ _ h)

theorem foldl_wf {α : Type} {f : State → α → State} (hf : ∀ s u, Memory.wf s.mem = true → Memory.wf (f s u).mem = true) (l : List α)
    (s : State) (h : Memory.wf s.mem = true) : Memory.wf (l.foldl f s).mem = true := by
  induction l generalizing s with
  | nil => exact h
  | cons u l ih => exact ih _ (hf s u h)

/-- Every write at the home keeps memory's canonical form. -/
theorem homeWrite_wf (s : State) (a g : Nat) (va : XWord) (pa : Nat) (l : List Byte) (h : Memory.wf s.mem = true) :
    Memory.wf (s.homeWrite a g va pa l).mem = true := by
  unfold State.homeWrite
  split
  · exact h
  · dsimp only
    refine foldl_wf (fun s u hs => ?_) _ _ ?_
    · split
      · exact hs
      · split
        · exact hs
        · exact reportError_wf _ _ _ _ _ _ _ _ _ hs
    · exact memWriteN_wf _ _ h

/-- A commit keeps memory's canonical form. -/
theorem performAll_wf (s : State) (h : Memory.wf s.mem = true) : Memory.wf s.performAll.mem = true := by
  unfold State.performAll
  rw [State.setRegs_mem]
  refine foldl_wf (fun s t hs => ?_) _ _ h
  unfold State.perform
  split
  · exact hs
  · exact homeWrite_wf _ _ _ _ _ _ hs

theorem committed_wf (s : State) (h : Memory.wf s.mem = true) : Memory.wf s.committed.mem = true := performAll_wf s h

theorem committed_portUp {s : State} {pa : Nat} (h : PortUp s pa) : PortUp s.committed pa := by
  have : s.committed.dev.pfail = s.dev.pfail := performAll_pfail s
  unfold PortUp at *
  rw [this]; exact h

theorem committed_x (s : State) (r : BitVec 5) : s.committed.x r = s.x r := by
  simp only [State.x, State.regs, committed_hart, readX, commitTwins]

/-- A number of bytes is below the power of 256. -/
theorem leNat_lt (l : List Byte) : leNat l < 256 ^ l.length := by
  induction l with
  | nil => simp [leNat]
  | cons b l ih =>
    have := b.isLt
    simp only [leNat, List.length_cons, pow_succ]
    omega

theorem span_length (a n : Nat) : (span a n).length = n := by
  induction n generalizing a with
  | zero => rfl
  | succ n ih => simp [span, ih]

theorem memReadN_length (m : List Host.Cell) (a n : Nat) : (memReadN m a n).length = n := by
  simp [memReadN, span_length]

/-- What an atomic answers. -/
theorem amo_home {s : State} {d a b : BitVec 5} {sc : BitVec 3} {w : Bool} {pa : Nat} {op : State → Nat → Nat → Option Nat}
    {ext : Nat → XWord} (h : MayCommit s) (hw : Memory.wf s.mem = true) (hp : PortUp s pa) (h1 : pa % widthOf w = 0)
    (ho : OrderedAt s.committed .update (s.x a) (widthOf w) sc pa) (hop : ∀ u, u.hart = s.committed.hart → op u = op s.committed) :
    WritesHome (amoOp d a b sc w op ext s) s true d (ext (leNat (memReadN s.committed.mem pa (widthOf w)))) pa (widthOf w)
      (op s.committed (leNat (memReadN s.committed.mem pa (widthOf w))) ((s.x b).toNat % 2 ^ (8 * widthOf w))) := by
  obtain ⟨u, hu⟩ := ho
  have hf := orderedAccess_frame hu
  have e2 : widthOf w % 2 = 0 := by cases w <;> rfl
  have e1 : pa % 2 = 0 := by cases w <;> simp [widthOf] at h1 <;> omega
  have ex : ∀ r, u.x r = s.x r := fun r => by rw [← committed_x s]; simp only [State.x, State.regs, hf.hart]
  have ex' : ∀ r, s.committed.x r = s.x r := fun r => committed_x s r
  unfold amoOp
  cases hv : op s.committed (leNat (memReadN s.committed.mem pa (widthOf w))) ((s.x b).toNat % 2 ^ (8 * widthOf w)) with
  | none =>
    refine writesHome_of (c := u) true h hf.1 ?_ ?_ (fun _ => ?_) ?_
    · rw [hf.2]
    · rw [hf.2]
    · rw [hf.mem]; rfl
    · simp only [ex', hu, bind, Except.bind, pure, Except.pure, hop u hf.hart, hf.mem, ex, hv, if_true]
  | some v =>
    obtain ⟨go, g1, g3, g2⟩ := homeWrite_bytes (g := u.hart.gang) (va := s.x a) (w := v) hf (committed_wf s hw) (committed_portUp hp) e1 e2
    refine writesHome_of true h go g1 (by rw [g3, committed_cur]) g2 ?_
    simp only [ex', hu, bind, Except.bind, pure, Except.pure, hop u hf.hart, hf.mem, ex, hv, if_true]

/-- What an ordered write answers. -/
theorem stRel_home {s : State} {a b : BitVec 5} {sc : BitVec 3} {w : Bool} {pa : Nat} (h : MayCommit s) (hw : Memory.wf s.mem = true)
    (hp : PortUp s pa) (h1 : pa % widthOf w = 0) (ho : OrderedAt s.committed .write (s.x a) (widthOf w) sc pa) :
    WritesHome (execStRel a b sc w s) s false 0 0 pa (widthOf w) (some (s.x b).toNat) := by
  obtain ⟨u, hu⟩ := ho
  have hf := orderedAccess_frame hu
  have e2 : widthOf w % 2 = 0 := by cases w <;> rfl
  have e1 : pa % 2 = 0 := by cases w <;> simp [widthOf] at h1 <;> omega
  have ex : ∀ r, u.x r = s.x r := fun r => by rw [← committed_x s]; simp only [State.x, State.regs, hf.hart]
  obtain ⟨go, g1, g3, g2⟩ :=
    homeWrite_bytes (g := u.hart.gang) (va := s.x a) (w := (s.x b).toNat) hf (committed_wf s hw) (committed_portUp hp) e1 e2
  refine writesHome_of false h go g1 (by rw [g3, committed_cur]) g2 ?_
  simp only [committed_x, hu, bind, Except.bind, ex]
  rfl

end Machine
end Sys2Proof
end

