-- ==== Sys2Proof/Laws/Vector.lean ====
section
/-! SUPPORT. What members of a convoy answer: the end of a member, what a delivered group holds, and the loop over elements. -/

namespace Sys2Proof
namespace Machine

/-- The end of a member whose effect is known: the next word, and what the convoy keeps for its next member. -/
theorem member_next {s u : State} {i : Instr} {f : Pfx → State → Eff State} (ha : Allowed s i) (hf : f (pfxOf s.regs) s = .ok u)
    (hg : i.kbit = true ∨ InStrip u) :
    ∃ t, member i f s = .next t ∧
      t.regs = { u.regs with
        pc := u.regs.pc + 4, pend := none, cv := t.regs.cv, chain := t.regs.chain, first := t.regs.first
        member := t.regs.member } ∧
      (i.kbit = true → t.regs.cv = u.regs.cv ∧ t.regs.chain = u.regs.chain) ∧
      t = { u with
        hart := { u.hart with
          regs := t.hart.regs, undo := t.hart.undo, wait := t.hart.wait, readySince := t.hart.readySince } } := by
  have hc : checkMember s i = .ok () := by
    unfold Allowed at ha
    simp only [checkMember, ha]
  have hr : (do
      checkMember s i
      f (pfxOf s.regs) s) = Except.ok u := by
    simp only [hc, bind, Except.bind, hf]
  cases hk : i.kbit with
  | true =>
    have key : member i f s = .next (u.advance.setHart { u.advance.hart with
        undo := some (s.hart.undo.getD s.regs)
        regs := { u.advance.regs with pend := none, member := u.advance.regs.member + 1 } }) := by
      simp only [member, hr, finishMember, hk, if_true]
    exact ⟨_, key, rfl, fun _ => ⟨rfl, rfl⟩, rfl⟩
  | false =>
    have hi : InStrip u := by
      rcases hg with h | h
      · rw [hk] at h; cases h
      · exact h
    have hadv : InStrip u.advance := hi.of rfl rfl rfl
    have key : member i f s = .next u.advance.retired := by
      simp only [member, hr, finishMember, hk, Bool.false_eq_true, if_false]
      exact retire_inStrip hadv
    exact ⟨_, key, rfl, fun h => Bool.noConfusion h, rfl⟩

/-- What a member with the empty queues checked consumes. -/
theorem consume_ok {s : State} {ops : List (Bool × BitVec 5)} (h : QueuesReady s ops) :
    ∃ t, consume s ops = .ok t ∧ Consumed s t ops ∧ t = s.setRegs { s.regs with queues := t.regs.queues } := by
  unfold consume
  by_cases hv : s.regs.vl = 0
  · rw [if_pos hv]
    refine ⟨s, rfl, fun q => ?_, rfl⟩
    rw [if_neg (fun h => h.1 hv)]
  · rw [if_neg hv]
    generalize hqs : ((ops.filter (fun o => o.1 && o.2.toNat < 4)).map (fun o => o.2.toNat)).eraseDups = qs
    have hmem : ∀ q, q ∈ qs ↔ ∃ o ∈ ops, o.1 = true ∧ o.2.toNat < 4 ∧ o.2.toNat = q := by
      intro q
      rw [← hqs]
      simp only [List.mem_eraseDups, List.mem_map, List.mem_filter, Bool.and_eq_true, decide_eq_true_eq]
      constructor
      · rintro ⟨o, ⟨h1, h2, h3⟩, h4⟩; exact ⟨o, h1, h2, h3, h4⟩
      · rintro ⟨o, h1, h2, h3, h4⟩; exact ⟨o, ⟨h1, h2, h3⟩, h4⟩
    have hnone : qs.find? (fun q => (s.regs.queues.toList.getD q []).isEmpty) = none := by
      rw [List.find?_eq_none]
      intro q hq
      obtain ⟨o, h1, h2, h3, rfl⟩ := (hmem q).1 hq
      simpa using h hv o h1 h2 h3
    simp only [hnone]
    refine ⟨_, rfl, fun q => ?_, rfl⟩
    have hiff : (qs.contains q.val = true) ↔ (true, BitVec.ofNat 5 q.val) ∈ ops := by
      rw [List.contains_iff_mem, hmem]
      constructor
      · rintro ⟨⟨b, f⟩, h1, h2, h3, h4⟩
        simp only at h2 h4
        subst h2
        have : f = BitVec.ofNat 5 q.val := by
          apply BitVec.eq_of_toNat_eq
          rw [h4, BitVec.toNat_ofNat, Nat.mod_eq_of_lt (by omega)]
        rwa [← this]
      · intro h1
        refine ⟨_, h1, rfl, ?_, ?_⟩ <;> simp <;> omega
    show (Vector.ofFn _)[q] = _
    simp only [Vector.getElem_ofFn, Fin.getElem_fin]
    by_cases hc : (true, BitVec.ofNat 5 q.val) ∈ ops
    · rw [if_pos (hiff.2 hc), if_pos ⟨hv, hc⟩]
    · rw [if_neg (fun h => hc (hiff.1 h)), if_neg (fun h => hc h.2)]

/-! ### Slots and groups -/

theorem lowBits_getLsbD (n : Nat) (v : XWord) (i : Nat) : (lowBits n v).getLsbD i = (v.getLsbD i && decide (i < 8 * n)) := by
  unfold lowBits
  rw [BitVec.getLsbD_and, BitVec.getLsbD_ofNat, Nat.testBit_two_pow_sub_one]
  by_cases h : i < 64
  · simp [h]
  · simp [BitVec.getLsbD_of_ge v i (by omega)]

/-- A written slot holds the element's bits, as many of them as the slot and the format have. -/
theorem slotWrite_low (w b : Nat) (x v : XWord) : lowBits (min w b) (slotWrite w b x v) = lowBits (min w b) v := by
  apply BitVec.eq_of_getLsbD_eq
  intro i hi
  simp only [lowBits_getLsbD]
  by_cases hm : i < 8 * min w b
  · have h1 : i < 8 * w := by omega
    have h2 : i < 8 * b := by omega
    simp only [hm, decide_true, Bool.and_true]
    unfold slotWrite
    split
    · split
      · simp [lowBits_getLsbD, h1]
      · simp [lowBits_getLsbD, h1]
    · simp [lowBits_getLsbD, h2]
  · simp [hm]

theorem writeGroup_vreg (s : State) (first n : Nat) (fmt : Fmt) (new : Array (Option XWord)) (j : Fin 32) :
    (s.writeGroup first n fmt new).regs.vregs[j] =
      if first ≤ j.val ∧ j.val < first + n then
        ⟨s.regs.vregs[j].com, some ⟨fmt, (curTile s.regs.vregs[j]).elems.mapIdx (fun q x =>
          match new.getD ((j.val - first) * s.hart.vlmax + q) none with
          | some y => slotWrite (declWidth s) (fmtWidth s fmt) x y
          | none => x)⟩⟩
      else s.regs.vregs[j] := by
  show (Vector.ofFn _)[j] = _
  simp only [Vector.getElem_ofFn, Fin.getElem_fin] <;> rfl

/-- A register of a group written from an array that agrees with `val`. -/
theorem regTakes_of {s t : State} {j : Fin 32} {first : Nat} {fmt : Fmt} {new : Array (Option XWord)} {val : Nat → Option XWord}
    (hv : ∀ i, new.getD i none = val i)
    (ht : t.regs.vregs[j] = ⟨s.regs.vregs[j].com, some ⟨fmt, (curTile s.regs.vregs[j]).elems.mapIdx (fun q x =>
          match new.getD ((j.val - first) * s.hart.vlmax + q) none with
          | some y => slotWrite (declWidth s) (fmtWidth s fmt) x y
          | none => x)⟩⟩) : RegTakes s t j first fmt val := by
  refine ⟨_, ht, by simp, fun q hq => ?_⟩
  simp only [← hv]
  cases hn : new.getD ((j.val - first) * s.hart.vlmax + q) none with
  | some v =>
    simp only [Array.getD_eq_getD_getElem?, Array.getElem?_mapIdx]
    rw [Array.getElem?_eq_getElem hq]
    simp only [Option.map_some, Option.getD_some]
    rw [← Array.getD_eq_getD_getElem?, hn]
    exact slotWrite_low _ _ _ _
  | none =>
    simp only [Array.getD_eq_getD_getElem?, Array.getElem?_mapIdx]
    rw [Array.getElem?_eq_getElem hq]
    simp only [Option.map_some, Option.getD_some]
    rw [← Array.getD_eq_getD_getElem?, hn]

theorem withTail_getD (s : State) (isTail : Nat → Bool) (new : Array (Option XWord)) (h : new.size = capacity s) (i : Nat) :
    (withTail s isTail new).getD i none = tailed s isTail (fun j => new.getD j none) i := by
  unfold withTail tailed
  by_cases hi : i < capacity s
  · rw [if_pos hi]
    have hn : new[i]? = some new[i] := Array.getElem?_eq_getElem (by omega)
    cases hz : s.regs.tailZero with
    | true =>
      simp only [if_true, Array.getD_eq_getD_getElem?, Array.getElem?_mapIdx, hn, Option.map_some, Option.getD_some, true_and]
      cases hv : new[i] with
      | some v => simp
      | none => simp
    | false =>
      simp only [Bool.false_eq_true, if_false, Array.getD_eq_getD_getElem?, hn, Option.getD_some, false_and]
      cases hv : new[i] <;> rfl
  · rw [if_neg hi]
    have hn : new[i]? = none := Array.getElem?_eq_none (by omega)
    cases hz : s.regs.tailZero <;> simp [Array.getD_eq_getD_getElem?, hn]

/-! ### The end of a member with one destination group -/

theorem writeMask_mask (s : State) (m v : Nat) (j : Fin 8) :
    (s.writeMask m v).regs.masks[j] = if j.val = m then ⟨s.regs.masks[j].com, some v⟩ else s.regs.masks[j] := by
  show (Vector.ofFn _)[j] = _
  simp only [Vector.getElem_ofFn, Fin.getElem_fin]

/-- The copy that a prefix names stands apart from the destination group (R115). -/
def CopyApart (s : State) (w : Bool) (d : BitVec 5) : Prop :=
  w = true → (pfxOf s.regs).dce = true → ∀ j, d.toNat ≤ j → j < d.toNat + groupFactor s.regs →
    (pfxOf s.regs).dc.toNat ≤ j → j < (pfxOf s.regs).dc.toNat + groupFactor s.regs → False

/-- A register of a group after `writeGroup`. -/
def written (s : State) (first : Nat) (fmt : Fmt) (new : Array (Option XWord)) (j : Fin 32) : VReg :=
  ⟨s.regs.vregs[j].com, some ⟨fmt, (curTile s.regs.vregs[j]).elems.mapIdx (fun q x =>
    match new.getD ((j.val - first) * s.hart.vlmax + q) none with
    | some y => slotWrite (declWidth s) (fmtWidth s fmt) x y
    | none => x)⟩⟩

/-- Two states with the same vector registers and declaration. -/
def SameFile (s c : State) : Prop :=
  c.regs.vregs = s.regs.vregs ∧ c.hart.vlmax = s.hart.vlmax ∧ c.hart.wcode = s.hart.wcode

theorem written_congr {s c : State} (h : SameFile s c) : written c = written s := by
  obtain ⟨h1, h2, h3⟩ := h
  have hw : declWidth c = declWidth s := by simp only [declWidth, h3]
  have hf : ∀ f, fmtWidth c f = fmtWidth s f := fun f => by simp only [fmtWidth, hw]
  funext first fmt new j
  simp only [written, h1, h2, hw, hf]

theorem written_eq {s c : State} {j : Fin 32} (h : c.regs.vregs[j] = s.regs.vregs[j]) (h2 : c.hart.vlmax = s.hart.vlmax)
    (h3 : c.hart.wcode = s.hart.wcode) (first : Nat) (fmt : Fmt) (new : Array (Option XWord)) :
    written c first fmt new j = written s first fmt new j := by
  have hw : declWidth c = declWidth s := by simp only [declWidth, h3]
  have hf : ∀ f, fmtWidth c f = fmtWidth s f := fun f => by simp only [fmtWidth, hw]
  simp only [written, h, h2, hw, hf]

@[simp] theorem State.writeGroup_masks (s : State) (d n : Nat) (fmt : Fmt) (new : Array (Option XWord)) :
    (s.writeGroup d n fmt new).hart.regs.masks = s.hart.regs.masks := by
  simp only [State.writeGroup, State.regs_eq, State.setRegs_hart]

@[simp] theorem State.writeGroup_fflags (s : State) (d n : Nat) (fmt : Fmt) (new : Array (Option XWord)) :
    (s.writeGroup d n fmt new).hart.regs.fflags = s.hart.regs.fflags := by
  simp only [State.writeGroup, State.regs_eq, State.setRegs_hart]

@[simp] theorem State.writeGroup_gens (s : State) (d n : Nat) (fmt : Fmt) (new : Array (Option XWord)) :
    (s.writeGroup d n fmt new).hart.regs.gens = s.hart.regs.gens := by
  simp only [State.writeGroup, State.regs_eq, State.setRegs_hart]

@[simp] theorem State.writeGroup_vlmax (s : State) (d n : Nat) (fmt : Fmt) (new : Array (Option XWord)) :
    (s.writeGroup d n fmt new).hart.vlmax = s.hart.vlmax := by
  simp only [State.writeGroup, State.setRegs_hart]

@[simp] theorem State.writeGroup_wcode (s : State) (d n : Nat) (fmt : Fmt) (new : Array (Option XWord)) :
    (s.writeGroup d n fmt new).hart.wcode = s.hart.wcode := by
  simp only [State.writeGroup, State.setRegs_hart]

theorem deliver_vreg {s c : State} {p : Pfx} {w : Bool} {d n : Nat} {fmt : Fmt} {new : Array (Option XWord)} (h : SameFile s c)
    (hap : w = true → p.dce = true → ∀ j, d ≤ j → j < d + n → p.dc.toNat ≤ j → j < p.dc.toNat + n → False) (j : Fin 32) :
    (c.deliver p w d n fmt new).regs.vregs[j] =
      if w = true ∧ d ≤ j.val ∧ j.val < d + n then written s d fmt new j
      else if w = true ∧ p.dce = true ∧ p.dc.toNat ≤ j.val ∧ j.val < p.dc.toNat + n then written s p.dc.toNat fmt new j
      else s.regs.vregs[j] := by
  have h1 : c.regs.vregs[j] = s.regs.vregs[j] := by rw [h.1]
  cases w with
  | false =>
    have : (c.deliver p false d n fmt new).regs.vregs[j] = c.regs.vregs[j] := rfl
    rw [this, h1]
    simp
  | true =>
    cases hd : p.dce with
    | false =>
      have : (c.deliver p true d n fmt new).regs.vregs[j] = (c.writeGroup d n fmt new).regs.vregs[j] := by
        simp only [State.deliver, hd, Bool.and_false, Bool.false_eq_true, if_false, if_true, State.setRegs_hart, State.regs_eq]
      rw [this, writeGroup_vreg]
      by_cases hj : d ≤ j.val ∧ j.val < d + n
      · rw [if_pos hj, if_pos ⟨rfl, hj⟩]
        exact congrFun (congrFun (congrFun (congrFun (written_congr h) d) fmt) new) j
      · rw [if_neg hj, if_neg (fun x => hj x.2), if_neg (fun x => by simp at x), h1]
    | true =>
      have : (c.deliver p true d n fmt new).regs.vregs[j] =
          ((c.writeGroup d n fmt new).writeGroup p.dc.toNat n fmt new).regs.vregs[j] := by
        simp only [State.deliver, hd, Bool.and_true, if_true, State.setRegs_hart, State.regs_eq]
      rw [this, writeGroup_vreg (c.writeGroup d n fmt new)]
      by_cases hj : d ≤ j.val ∧ j.val < d + n
      · have hn : ¬(p.dc.toNat ≤ j.val ∧ j.val < p.dc.toNat + n) := fun x => hap rfl hd j hj.1 hj.2 x.1 x.2
        rw [if_neg hn, if_pos ⟨rfl, hj⟩, writeGroup_vreg, if_pos hj]
        exact congrFun (congrFun (congrFun (congrFun (written_congr h) d) fmt) new) j
      · have hs : (c.writeGroup d n fmt new).regs.vregs[j] = s.regs.vregs[j] := by
          rw [writeGroup_vreg, if_neg hj, h1]
        by_cases hc : p.dc.toNat ≤ j.val ∧ j.val < p.dc.toNat + n
        · rw [if_pos hc, if_neg (fun x => hj x.2), if_pos ⟨rfl, rfl, hc⟩]
          exact written_eq hs ((State.writeGroup_vlmax _ _ _ _ _).trans h.2.1) ((State.writeGroup_wcode _ _ _ _ _).trans h.2.2) _ _ _
        · rw [if_neg hc, if_neg (fun x => hj x.2), if_neg (fun x => hc x.2.2), hs]

theorem deliver_masks (x : State) (p : Pfx) (w : Bool) (d n : Nat) (fmt : Fmt) (new : Array (Option XWord)) :
    (x.deliver p w d n fmt new).regs.masks = x.regs.masks := by
  simp only [State.deliver, State.setRegs_hart, State.regs_eq]
  cases w <;> cases p.dce <;> simp

theorem deliver_fflags (x : State) (p : Pfx) (w : Bool) (d n : Nat) (fmt : Fmt) (new : Array (Option XWord)) :
    (x.deliver p w d n fmt new).regs.fflags = x.regs.fflags := by
  simp only [State.deliver, State.setRegs_hart, State.regs_eq]
  cases w <;> cases p.dce <;> simp

theorem deliver_gens (x : State) (p : Pfx) (w : Bool) (d n : Nat) (fmt : Fmt) (new : Array (Option XWord)) :
    (x.deliver p w d n fmt new).regs.gens = x.regs.gens := by
  simp only [State.deliver, State.setRegs_hart, State.regs_eq]
  cases w <;> cases p.dce <;> simp

theorem account_fflags (x : State) (p : Pfx) (e : Bool) (o : Outs) : (x.account p e o).regs.fflags = x.regs.fflags ||| o.flags := by
  cases e <;> rfl

theorem account_gens (x : State) (p : Pfx) (e : Bool) (o : Outs) : (x.account p e o).regs.gens = o.gens := by
  cases e <;> rfl

theorem account_file (x : State) (p : Pfx) (e : Bool) (o : Outs) : SameFile x (x.account p e o) := by
  cases e <;> exact ⟨rfl, rfl, rfl⟩

theorem account_mask (x : State) (p : Pfx) (e : Bool) (o : Outs) (j : Fin 8) :
    (x.account p e o).regs.masks[j] =
      if e = true ∧ j.val = p.em.toNat then ⟨x.regs.masks[j].com, some o.exc⟩ else x.regs.masks[j] := by
  cases e with
  | false => rw [if_neg (fun h => Bool.noConfusion h.1)]; rfl
  | true =>
    have := writeMask_mask (x.setRegs { x.regs with fflags := accrue x.regs.fflags o.flags, gens := o.gens }) p.em.toNat o.exc j
    refine Eq.trans (b := _) rfl (this.trans ?_)
    by_cases hj : j.val = p.em.toNat
    · rw [if_pos hj, if_pos ⟨rfl, hj⟩]; rfl
    · rw [if_neg hj, if_neg (fun h => hj h.2)]; rfl

theorem deliverTail_pos {s : State} {p : Pfx} {w e : Bool} {d : BitVec 5} {fmt : Fmt} {isTail : Nat → Bool} {o : Outs}
    (hv : s.regs.vl ≠ 0) :
    let x := (s.spendPfx.account p e o).deliver p w d.toNat (groupFactor s.regs) fmt (withTail s.spendPfx isTail o.new)
    deliverTail s p w e d fmt isTail o =
      x.setRegs { x.regs with cv := some { tag := fmt, elems := o.new.map (fun v => v.getD 0) } } := by
  unfold deliverTail
  dsimp only
  rw [if_neg (show ¬s.spendPfx.regs.vl = 0 from hv)]
  cases e <;> rfl

theorem deliverTail_zero {s : State} {p : Pfx} {w e : Bool} {d : BitVec 5} {fmt : Fmt} {isTail : Nat → Bool} {o : Outs}
    (hv : s.regs.vl = 0) :
    deliverTail s p w e d fmt isTail o =
      s.spendPfx.setRegs { s.spendPfx.regs with cv := some { tag := fmt, elems := o.new.map (fun _ => 0) } } := by
  unfold deliverTail
  dsimp only
  rw [if_pos (show s.spendPfx.regs.vl = 0 from hv)]

/-- What `deliverTail` leaves, from a state `c` that has consumed its queues. -/
theorem deliverTail_delivered {s c t : State} {k w e : Bool} {d : BitVec 5} {fmt : Fmt} {isTail : Nat → Bool} {o : Outs}
    {val : Nat → Option XWord} {flag exc : Nat → Prop} {g : Nat → BitVec 32} {q : Vector (List Tile) 4}
    (hc : c = s.setRegs { s.regs with queues := q }) (hap : CopyApart s w d)
    (hval : ∀ i, i < capacity s → o.new.getD i none = val i) (hsize : o.new.size = capacity s)
    (hflag : ∀ b, b < 7 → (o.flags.getLsbD b = true ↔ flag b)) (hexc : ∀ i, inSet o.exc i = true ↔ exc i)
    (hg : ∀ l, l < 64 → gen o.gens l = g l)
    (ht : let u := deliverTail c (pfxOf s.regs) w e d fmt isTail o
      t.regs = { u.regs with
        pc := u.regs.pc + 4, pend := none, cv := t.regs.cv, chain := t.regs.chain, first := t.regs.first
        member := t.regs.member } ∧ (k = true → t.regs.cv = u.regs.cv)) :
    Delivered s t k w e d fmt isTail val flag exc g := by
  have hvl : c.regs.vl = s.regs.vl := by rw [hc]; rfl
  have hgf : groupFactor c.regs = groupFactor s.regs := by rw [hc]; rfl
  have hsame : SameFile s c.spendPfx := by rw [hc]; exact ⟨rfl, rfl, rfl⟩
  have hm : c.spendPfx.regs.masks = s.regs.masks := by rw [hc]; rfl
  have hff : c.spendPfx.regs.fflags = s.regs.fflags := by rw [hc]; rfl
  have hgn : c.spendPfx.regs.gens = s.regs.gens := by rw [hc]; rfl
  have hwt : withTail c.spendPfx isTail o.new = withTail s isTail o.new := by rw [hc]; rfl
  obtain ⟨ht, hcv⟩ := ht
  refine ⟨fun hv => ?_, fun hv => ?_, fun hk => ?_⟩
  · rw [deliverTail_zero (hvl.trans hv)] at ht
    rw [ht]
    exact ⟨hsame.1, hm, hff, hgn⟩
  · rw [deliverTail_pos (show c.regs.vl ≠ 0 by rw [hvl]; exact hv)] at ht
    have hval' : ∀ i, (withTail s isTail o.new).getD i none = tailed s isTail val i := by
      intro i
      rw [withTail_getD s isTail o.new hsize]
      unfold tailed
      by_cases hi : i < capacity s
      · simp only [if_pos hi, hval i hi]
      · simp only [if_neg hi]
    have hfile : SameFile s (c.spendPfx.account (pfxOf s.regs) e o) := by
      have h2 := account_file c.spendPfx (pfxOf s.regs) e o
      exact ⟨h2.1.trans hsame.1, h2.2.1.trans hsame.2.1, h2.2.2.trans hsame.2.2⟩
    rw [hwt, hgf] at ht
    refine ⟨fun j => ?_, fun b hb => ?_, fun l hl => ?_, fun j => ?_⟩
    · have hj := deliver_vreg (n := groupFactor s.regs) (fmt := fmt) (new := withTail s isTail o.new) hfile hap j
      have hj : t.regs.vregs[j] = _ := Eq.trans (by rw [ht]; rfl) hj
      split
      · rename_i h1
        rw [if_pos h1] at hj
        exact regTakes_of hval' hj
      · rename_i h1
        rw [if_neg h1] at hj
        split
        · rename_i h2
          rw [if_pos h2] at hj
          exact regTakes_of hval' hj
        · rename_i h2
          rw [if_neg h2] at hj
          exact hj
    · have hf : t.regs.fflags = s.regs.fflags ||| o.flags := by
        rw [ht]
        exact (deliver_fflags _ _ _ _ _ _ _).trans ((account_fflags _ _ _ _).trans (by rw [hff]))
      rw [hf, BitVec.getLsbD_or, Bool.or_eq_true, hflag b hb]
    · have hf : t.regs.gens = o.gens := by
        rw [ht]
        exact (deliver_gens _ _ _ _ _ _ _).trans (account_gens _ _ _ _)
      rw [hf, hg l hl]
    · have hf : t.regs.masks[j] = (c.spendPfx.account (pfxOf s.regs) e o).regs.masks[j] := by
        rw [ht]
        exact congrArg (fun v : Vector MReg 8 => v[j]) (deliver_masks _ _ _ _ _ _ _)
      rw [hf, account_mask, hm]
      by_cases hj : e = true ∧ j.val = (pfxOf s.regs).em.toNat
      · rw [if_pos hj, if_pos hj]
        exact ⟨_, rfl, hexc⟩
      · rw [if_neg hj, if_neg hj]
  · have hcv := hcv hk
    by_cases hv : s.regs.vl = 0
    · rw [deliverTail_zero (hvl.trans hv)] at hcv
      refine ⟨_, hcv, rfl, fun i hi => ?_⟩
      rw [if_pos hv]
      have : i < o.new.size := by omega
      simp [Array.getD_eq_getD_getElem?, this]
    · rw [deliverTail_pos (show c.regs.vl ≠ 0 by rw [hvl]; exact hv)] at hcv
      refine ⟨_, hcv, rfl, fun i hi => ?_⟩
      rw [if_neg hv, ← hval i hi]
      have : i < o.new.size := by omega
      simp [Array.getD_eq_getD_getElem?, this]

/-! ### The loop over items -/

theorem gen_setGen_at (gs : Vector (BitVec 32) 64) (i l : Nat) (g : BitVec 32) :
    gen (setGen gs i g) l = if l % 64 = i % 64 then g else gen gs l := by
  have h1 : i % 64 < 64 := Nat.mod_lt _ (by omega)
  have h2 : l % 64 < 64 := Nat.mod_lt _ (by omega)
  simp only [gen, setGen, h1, dite_true, List.getD_eq_getElem?_getD, Vector.toList_set, List.getElem?_set, Vector.length_toList]
  by_cases h : i % 64 = l % 64
  · simp [h, h2]
  · simp [h, Ne.symm h]

theorem gen_mod (gs : Vector (BitVec 32) 64) (l : Nat) : gen gs (l % 64) = gen gs l := by simp [gen]

theorem lastAt_append {α : Type} (place : α → Nat) (i : Nat) (pre : List α) (x : α) :
    lastAt place i (pre ++ [x]) = if place x = i then some (pre, x) else lastAt place i pre := by
  induction pre with
  | nil => simp [lastAt]
  | cons y ys ih =>
    simp only [List.cons_append, lastAt, ih]
    by_cases h : place x = i
    · simp [h]
    · simp [h]

theorem genAfter_append {α : Type} (s : State) (place : α → Nat) (f : α → Rnd → Step1) (l : Nat) (pre : List α) (x : α) :
    genAfter s place f l (pre ++ [x]) =
      if place x % 64 = l % 64 then (f x ⟨modeOf s (pfxOf s.regs), genAfter s place f l pre⟩).2.2 else genAfter s place f l pre := by
  unfold genAfter
  rw [List.filter_append, List.foldl_append]
  by_cases h : place x % 64 = l % 64 <;> simp [h]

theorem genAfter_mod {α : Type} (s : State) (place : α → Nat) (f : α → Rnd → Step1) {l m : Nat} (h : l % 64 = m % 64) (is : List α) :
    genAfter s place f l is = genAfter s place f m is := by
  unfold genAfter
  rw [h, ← gen_mod s.regs.gens l, ← gen_mod s.regs.gens m, h]

theorem computes_append {α : Type} (s : State) (place : α → Nat) (f : α → Rnd → Step1) (is : List α) (x : α) (pre : List α) (y : α)
    (r : Step1) :
    Computes s (is ++ [x]) place f pre y r ↔
      Computes s is place f pre y r ∨
        (pre = is ∧ y = x ∧ r = f x ⟨modeOf s (pfxOf s.regs), genAfter s place f (place x) is⟩) := by
  constructor
  · rintro ⟨post, h1, h2⟩
    rcases List.eq_nil_or_concat post with rfl | ⟨q, z, rfl⟩
    · have h3 := List.append_inj' h1 rfl
      obtain ⟨rfl, h4⟩ := h3
      simp only [List.cons.injEq, and_true] at h4
      subst h4
      exact .inr ⟨rfl, rfl, h2⟩
    · rw [List.concat_eq_append, ← List.cons_append, ← List.append_assoc] at h1
      obtain ⟨h3, _⟩ := List.append_inj' h1 rfl
      exact .inl ⟨q, h3, h2⟩
  · rintro (⟨post, h1, h2⟩ | ⟨rfl, rfl, h2⟩)
    · exact ⟨post ++ [x], by rw [h1]; simp, h2⟩
    · exact ⟨[], rfl, h2⟩

/-- The outcome of a list of items, each entered at its index under the generator of that index. -/
def overItems {α : Type} (s : State) (p : Pfx) (is : List α) (place : α → Nat) (f : α → Rnd → Step1) : Outs :=
  is.foldl (fun o x =>
    let r := f x { mode := modeOf s p, gen := gen o.gens (place x) }
    o.put p.ek (place x) r.1 r.2.1 r.2.2) (Outs.start s)

theorem overItems_append {α : Type} (s : State) (p : Pfx) (is : List α) (x : α) (place : α → Nat) (f : α → Rnd → Step1) :
    overItems s p (is ++ [x]) place f =
      let o := overItems s p is place f
      let r := f x { mode := modeOf s p, gen := gen o.gens (place x) }
      o.put p.ek (place x) r.1 r.2.1 r.2.2 := by
  simp [overItems, List.foldl_append]

theorem inSet_addIndex (m i j : Nat) : inSet (addIndex m i) j = true ↔ inSet m j = true ∨ i = j := by
  simp [inSet, addIndex, Nat.testBit_or, Nat.testBit_two_pow]

theorem overItems_gen {α : Type} (s : State) (is : List α) (place : α → Nat) (f : α → Rnd → Step1) (l : Nat) :
    gen (overItems s (pfxOf s.regs) is place f).gens l = genAfter s place f l is := by
  induction is using List.reverseRecOn generalizing l with
  | nil => simp [overItems, genAfter, Outs.start]
  | append_singleton is x ih =>
    rw [overItems_append, genAfter_append]
    simp only [Outs.put, gen_setGen_at, ih]
    by_cases h : l % 64 = place x % 64
    · rw [if_pos h, if_pos h.symm, genAfter_mod s place f h]
    · rw [if_neg h, if_neg (Ne.symm h)]

theorem overItems_size {α : Type} (s : State) (p : Pfx) (is : List α) (place : α → Nat) (f : α → Rnd → Step1) :
    (overItems s p is place f).new.size = capacity s := by
  induction is using List.reverseRecOn with
  | nil => simp [overItems, Outs.start, blank]
  | append_singleton is x ih =>
    rw [overItems_append]
    simp only [Outs.put, Array.size_setIfInBounds, ih]

theorem overItems_new {α : Type} (s : State) (is : List α) (place : α → Nat) (f : α → Rnd → Step1) {i : Nat} (hi : i < capacity s) :
    (overItems s (pfxOf s.regs) is place f).new.getD i none = resultAt s is place f i := by
  induction is using List.reverseRecOn with
  | nil => simp [overItems, Outs.start, blank, resultAt, lastAt, Array.getD_eq_getD_getElem?, hi]
  | append_singleton is x ih =>
    have hs := overItems_size s (pfxOf s.regs) is place f
    rw [overItems_append]
    unfold resultAt at *
    rw [lastAt_append]
    simp only [Outs.put, overItems_gen]
    by_cases h : place x = i
    · rw [if_pos h]
      have : i < (overItems s (pfxOf s.regs) is place f).new.size := by omega
      simp [Array.getD_eq_getD_getElem?, h, this, -State.regs_eq]
    · rw [if_neg h, ← ih]
      simp [Array.getD_eq_getD_getElem?, Array.getElem?_setIfInBounds, h]

theorem overItems_flag {α : Type} (s : State) (is : List α) (place : α → Nat) (f : α → Rnd → Step1) (b : Nat) :
    (overItems s (pfxOf s.regs) is place f).flags.getLsbD b = true ↔
      ∃ pre x r, Computes s is place f pre x r ∧ r.2.1.getLsbD b = true := by
  induction is using List.reverseRecOn with
  | nil =>
    refine ⟨fun h => by simp [overItems, Outs.start] at h, fun ⟨pre, x, r, ⟨post, h, _⟩, _⟩ => by simp at h⟩
  | append_singleton is x ih =>
    rw [overItems_append]
    simp only [Outs.put, BitVec.getLsbD_or, Bool.or_eq_true, ih, overItems_gen]
    constructor
    · rintro (⟨pre, y, r, h1, h2⟩ | h)
      · exact ⟨pre, y, r, (computes_append ..).2 (.inl h1), h2⟩
      · exact ⟨is, x, _, (computes_append ..).2 (.inr ⟨rfl, rfl, rfl⟩), h⟩
    · rintro ⟨pre, y, r, h1, h2⟩
      rcases (computes_append ..).1 h1 with h1 | ⟨rfl, rfl, rfl⟩
      · exact .inl ⟨pre, y, r, h1, h2⟩
      · exact .inr h2

theorem overItems_exc {α : Type} (s : State) (is : List α) (place : α → Nat) (f : α → Rnd → Step1) (i : Nat) :
    inSet (overItems s (pfxOf s.regs) is place f).exc i = true ↔
      ∃ pre x r, Computes s is place f pre x r ∧ place x = i ∧ excepts (pfxOf s.regs).ek r.2.1 = true := by
  induction is using List.reverseRecOn with
  | nil =>
    refine ⟨fun h => by simp [overItems, Outs.start, inSet] at h, fun ⟨pre, x, r, ⟨post, h, _⟩, _⟩ => by simp at h⟩
  | append_singleton is x ih =>
    have key : inSet (overItems s (pfxOf s.regs) (is ++ [x]) place f).exc i = true ↔
        inSet (overItems s (pfxOf s.regs) is place f).exc i = true ∨ (place x = i ∧
          excepts (pfxOf s.regs).ek (f x ⟨modeOf s (pfxOf s.regs), genAfter s place f (place x) is⟩).2.1 = true) := by
      rw [overItems_append]
      simp only [Outs.put, overItems_gen]
      split
      · rename_i h
        rw [inSet_addIndex]
        simp [h, -State.regs_eq]
      · rename_i h
        simp [h, -State.regs_eq]
    rw [key, ih]
    constructor
    · rintro (⟨pre, y, r, h1, h2⟩ | ⟨h2, h3⟩)
      · exact ⟨pre, y, r, (computes_append ..).2 (.inl h1), h2⟩
      · exact ⟨is, x, _, (computes_append ..).2 (.inr ⟨rfl, rfl, rfl⟩), h2, h3⟩
    · rintro ⟨pre, y, r, h1, h2⟩
      rcases (computes_append ..).1 h1 with h1 | ⟨rfl, rfl, rfl⟩
      · exact .inl ⟨pre, y, r, h1, h2⟩
      · exact .inr h2

/-- A member that delivers the outcome of a list of items. -/
theorem inOrder_of {α : Type} {s c t : State} {k w e : Bool} {d : BitVec 5} {fmt : Fmt} {isTail : Nat → Bool} {is : List α}
    {place : α → Nat} {f : α → Rnd → Step1} {q : Vector (List Tile) 4}
    (hc : c = s.setRegs { s.regs with queues := q }) (hap : CopyApart s w d)
    (ht : let u := deliverTail c (pfxOf s.regs) w e d fmt isTail (overItems s (pfxOf s.regs) is place f)
      t.regs = { u.regs with
        pc := u.regs.pc + 4, pend := none, cv := t.regs.cv, chain := t.regs.chain, first := t.regs.first
        member := t.regs.member } ∧ (k = true → t.regs.cv = u.regs.cv)) :
    InOrder s t k w e d fmt isTail is place f :=
  deliverTail_delivered hc hap (fun _ hi => overItems_new s is place f hi) (overItems_size ..) (fun b _ => overItems_flag s is place f b)
    (fun i => overItems_exc s is place f i) (fun l _ => overItems_gen s is place f l) ht

/-! ### Element-wise members -/

theorem pfxOf_present {r : Regs} (h : (pfxOf r).dce = true) : (pfxOf r).present = true := by
  unfold pfxOf at *
  split
  · rfl
  · rename_i h0
    rw [h0] at h
    dsimp only at h
    split
    · rfl
    · rename_i h1
      rw [if_neg h1] at h
      cases h

/-- The copy stands apart from a destination group whenever no decode-time cause meets the instruction. -/
theorem copyApart_of {s : State} {i : Instr} {w : Bool} {d : BitVec 5} {u : VecUse} (ha : Allowed s i)
    (hu : vecUse (groupFactor s.regs) i = some u) (hd : w = true → u.dst = [(d.toNat, groupFactor s.regs)])
    (hh : u.headCopy = false) : CopyApart s w d := by
  intro hw hdce j h1 h2 h3 h4
  have hb : pfxBad u (pfxOf s.regs) = false := by
    unfold Allowed at ha
    simp only [memberCauses, hu, List.append_eq_nil_iff] at ha
    by_contra hn
    have := ha.1.1.1
    rw [if_pos (by simpa using hn)] at this
    cases this
  have hp := pfxOf_present hdce
  simp only [pfxBad, hp, Bool.true_and, Bool.or_eq_false_iff, copyGroup, hd hw, hdce, if_true, hh, Bool.false_eq_true, if_false,
    List.any_cons, List.any_nil, Bool.or_false] at hb
  have ho := hb.2.2
  simp only [overlaps, Bool.and_eq_false_iff, decide_eq_false_iff_not] at ho
  omega

theorem eachElem_eq (s : State) (p : Pfx) (f : Nat → Rnd → Step1) : eachElem s p f = overItems s p (activeIndices s p) id f := rfl

theorem writeGroup_shape (s : State) (d n : Nat) (fmt : Fmt) (new : Array (Option XWord)) :
    ∃ v, s.writeGroup d n fmt new = s.setRegs { s.regs with vregs := v } := ⟨_, rfl⟩

theorem deliver_shape (s : State) (p : Pfx) (w : Bool) (d n : Nat) (fmt : Fmt) (new : Array (Option XWord)) :
    ∃ v c, s.deliver p w d n fmt new = s.setRegs { s.regs with vregs := v, cv := c } := by
  unfold State.deliver
  cases w with
  | false => exact ⟨s.regs.vregs, _, rfl⟩
  | true =>
    obtain ⟨v1, h1⟩ := writeGroup_shape s d n fmt new
    cases p.dce with
    | false =>
      simp only [if_true, Bool.and_false, Bool.false_eq_true, if_false, h1]
      exact ⟨v1, _, rfl⟩
    | true =>
      obtain ⟨v2, h2⟩ := writeGroup_shape (s.setRegs { s.regs with vregs := v1 }) p.dc.toNat n fmt new
      simp only [if_true, Bool.and_true, h1, h2]
      exact ⟨v2, _, rfl⟩

theorem account_shape (s : State) (p : Pfx) (e : Bool) (o : Outs) :
    ∃ m, s.account p e o = s.setRegs { s.regs with fflags := accrue s.regs.fflags o.flags, gens := o.gens, masks := m } := by
  cases e with
  | false => exact ⟨s.regs.masks, rfl⟩
  | true => exact ⟨_, rfl⟩

/-- The only registers that the end of a member with one destination group changes. -/
theorem deliverTail_shape (c : State) (p : Pfx) (w e : Bool) (d : BitVec 5) (fmt : Fmt) (isTail : Nat → Bool) (o : Outs) :
    ∃ v m f g t, deliverTail c p w e d fmt isTail o = c.setRegs { c.regs with
      pfxValid := false, vregs := v, masks := m, fflags := f, gens := g, cv := t } := by
  by_cases hv : c.regs.vl = 0
  · rw [deliverTail_zero hv]
    exact ⟨c.regs.vregs, c.regs.masks, c.regs.fflags, c.regs.gens, _, rfl⟩
  · rw [deliverTail_pos hv]
    obtain ⟨m, h1⟩ := account_shape c.spendPfx p e o
    obtain ⟨v, t, h2⟩ := deliver_shape (c.spendPfx.account p e o) p w d.toNat (groupFactor c.regs) fmt (withTail c.spendPfx isTail o.new)
    refine ⟨v, m, accrue c.regs.fflags o.flags, o.gens, some { tag := fmt, elems := o.new.map (fun v => v.getD 0) }, ?_⟩
    dsimp only
    rw [h2, h1]
    simp only [State.spendPfx, State.regs_eq, State.setRegs_hart]
    generalize (some { tag := fmt, elems := o.new.map (fun v => v.getD 0) } : Option Tile) = z
    generalize accrue c.hart.regs.fflags o.flags = a
    rfl

/-- A member that consumes its queues, delivers one group, and ends. -/
theorem member_delivers {s c u : State} {i : Instr} {f : Pfx → State → Eff State} {w e : Bool} {d : BitVec 5} {fmt : Fmt}
    {isTail : Nat → Bool} {o : Outs} {q : Vector (List Tile) 4} (ha : Allowed s i) (hg : GoesOn s i)
    (hc : c = s.setRegs { s.regs with queues := q }) (hu : u = deliverTail c (pfxOf s.regs) w e d fmt isTail o)
    (hf : f (pfxOf s.regs) s = .ok u) :
    ∃ t, member i f s = .next t ∧ AfterMember s t ∧ t.regs.queues = q ∧
      (t.regs = { u.regs with
        pc := u.regs.pc + 4, pend := none, cv := t.regs.cv, chain := t.regs.chain, first := t.regs.first
        member := t.regs.member } ∧ (i.kbit = true → t.regs.cv = u.regs.cv)) := by
  obtain ⟨v, m, ff, g, cv, hs⟩ := deliverTail_shape c (pfxOf s.regs) w e d fmt isTail o
  rw [hc] at hs
  rw [hc, hs] at hu
  subst hu
  obtain ⟨t, h1, h2, h3, h4⟩ := member_next ha hf (hg.imp id (fun h => h.of rfl rfl rfl))
  refine ⟨t, h1, ⟨?_, ?_⟩, ?_, h2, fun h => (h3 h).1⟩
  · rw [h2]; rfl
  · rw [h4]; rfl
  · rw [h2]; rfl

theorem consume_setRegs {s : State} {ops : List (Bool × BitVec 5)} (h : QueuesReady s ops) :
    ∃ q, consume s ops = .ok (s.setRegs { s.regs with queues := q }) ∧ ∀ t : State, t.regs.queues = q → Consumed s t ops := by
  obtain ⟨t, h1, h2, h3⟩ := consume_ok h
  refine ⟨t.regs.queues, by rw [h1, ← h3], fun x hx j => ?_⟩
  rw [hx]
  exact h2 j

/-- What an element-wise member answers. -/
theorem elementwise_ok {s : State} {i : Instr} {d : BitVec 5} {w e : Bool} {ops : List (Bool × BitVec 5)}
    {plan : State → Pfx → List Source → Eff Plan} {srcs : List Source} {c : Plan} (ha : Allowed s i) (hg : GoesOn s i)
    (hq : QueuesReady s ops) (hap : CopyApart s w d) (hs : ops.mapM (fun o => source s o.1 o.2) = .ok srcs)
    (hp : plan s (pfxOf s.regs) srcs = .ok c) :
    Elementwise (elementwise i d w e ops plan s) s i w e d ops c.fmt c.each := by
  obtain ⟨q, h1, h2⟩ := consume_setRegs hq
  obtain ⟨t, h3, h4, h5, h6⟩ := member_delivers (w := w) (e := e) (d := d) (fmt := c.fmt)
    (f := fun p s => do
      let srcs ← ops.mapM (fun o => source s o.1 o.2)
      let c ← plan s p srcs
      let t ← consume s ops
      return deliverElems t p w e d c.fmt (eachElem s p c.each)) ha hg rfl rfl (by
        simp only [hs, hp, h1, bind, Except.bind, pure, Except.pure, eachElem_eq]
        rfl)
  exact ⟨t, h3, h4, h2 t h5, inOrder_of rfl hap h6⟩

theorem mapM_one {s : State} {qa : Bool} {a : BitVec 5} {x : Source} (h1 : source s qa a = .ok x) :
    [(qa, a)].mapM (fun o : Bool × BitVec 5 => source s o.1 o.2) = .ok [x] := by
  simp [List.mapM_cons, List.mapM_nil, h1, bind, Except.bind, pure, Except.pure]

theorem mapM_two {s : State} {qa qb : Bool} {a b : BitVec 5} {x y : Source} (h1 : source s qa a = .ok x)
    (h2 : source s qb b = .ok y) : [(qa, a), (qb, b)].mapM (fun o : Bool × BitVec 5 => source s o.1 o.2) = .ok [x, y] := by
  simp [List.mapM_cons, List.mapM_nil, h1, h2, bind, Except.bind, pure, Except.pure]

/-! ### Members that set a mask register -/

theorem inSet_foldl (l : List Nat) (m i : Nat) : inSet (l.foldl addIndex m) i = true ↔ inSet m i = true ∨ i ∈ l := by
  induction l generalizing m with
  | nil => simp
  | cons x l ih =>
    rw [List.foldl_cons, ih, inSet_addIndex, List.mem_cons]
    constructor
    · rintro ((h | h) | h)
      · exact .inl h
      · exact .inr (.inl h.symm)
      · exact .inr (.inr h)
    · rintro (h | h | h)
      · exact .inl (.inl h)
      · exact .inl (.inr h.symm)
      · exact .inr h

theorem inSet_setOf (l : List Nat) (i : Nat) : inSet (setOf l) i = true ↔ i ∈ l := by
  rw [setOf, inSet_foldl]
  simp [inSet]

theorem writeMask_shape (s : State) (m v : Nat) : ∃ x, s.writeMask m v = s.setRegs { s.regs with masks := x } := ⟨_, rfl⟩

/-- What a member that sets the bits of a list in mask register d answers; under E the exception mask is emptied. -/
theorem setsMask_ok {s : State} {i : Instr} {f : Pfx → State → Eff State} {e : Bool} {d : BitVec 5} {ops : List (Bool × BitVec 5)}
    {l : List Nat} {b : Nat → Prop} (ha : Allowed s i) (hg : GoesOn s i) (hq : QueuesReady s ops)
    (hl : ∀ j, j ∈ l ↔ j ∈ activeIndices s (pfxOf s.regs) ∧ b j)
    (hf : ∀ c, consume s ops = .ok c → f (pfxOf s.regs) s = .ok (
      if s.regs.vl = 0 then c.spendPfx.noTile
      else if e then (c.spendPfx.noTile.writeMask d.toNat (setOf l)).writeMask (pfxOf s.regs).em.toNat 0
      else c.spendPfx.noTile.writeMask d.toNat (setOf l))) :
    SetsMask (member i f s) s e d ops b := by
  obtain ⟨q, h1, h2⟩ := consume_setRegs hq
  have hf := hf _ h1
  generalize hc : (s.setRegs { s.regs with queues := q }).spendPfx.noTile = c at hf
  have hcs : c = { s.setRegs { s.regs with queues := q, pfxValid := false, cv := none } with free := s.free + capacity s } := by
    rw [← hc]; rfl
  by_cases hv : s.regs.vl = 0
  · rw [if_pos hv] at hf
    obtain ⟨t, h3, h4, h5, h6⟩ := member_next ha hf (hg.imp id (fun h => by rw [hcs]; exact h.of rfl rfl rfl))
    rw [hcs] at h4 h6
    refine ⟨t, h3, ⟨?_, ?_⟩, h2 t ?_, ?_, ?_, ?_, fun _ => ?_, fun h => absurd hv h⟩
    · rw [h4]; rfl
    · rw [h6]; rfl
    all_goals rw [h4]; rfl
  · rw [if_neg hv] at hf
    obtain ⟨m, hm, hmj⟩ : ∃ m, f (pfxOf s.regs) s = .ok (c.setRegs { c.regs with masks := m }) ∧
        ∀ j : Fin 8, if e = true ∧ j.val = (pfxOf s.regs).em.toNat then m[j] = ⟨s.regs.masks[j].com, some 0⟩
          else if j.val = d.toNat then m[j] = ⟨s.regs.masks[j].com, some (setOf l)⟩ else m[j] = s.regs.masks[j] := by
      have hcm : c.regs.masks = s.regs.masks := by rw [hcs]; rfl
      cases e with
      | false =>
        obtain ⟨x, hx⟩ := writeMask_shape c d.toNat (setOf l)
        simp only [Bool.false_eq_true, if_false] at hf
        refine ⟨x, by rw [hf, hx], fun j => ?_⟩
        have hj := writeMask_mask c d.toNat (setOf l) j
        rw [hx, hcm] at hj
        have hj : x[j] = _ := hj
        rw [if_neg (fun h => Bool.noConfusion h.1)]
        by_cases hd : j.val = d.toNat
        · rw [if_pos hd] at *; exact hj
        · rw [if_neg hd] at *; exact hj
      | true =>
        obtain ⟨x, hx⟩ := writeMask_shape c d.toNat (setOf l)
        obtain ⟨y, hy⟩ := writeMask_shape (c.setRegs { c.regs with masks := x }) (pfxOf s.regs).em.toNat 0
        simp only [if_true] at hf
        refine ⟨y, by rw [hf, hx, hy]; rfl, fun j => ?_⟩
        have hj := writeMask_mask c d.toNat (setOf l) j
        rw [hx, hcm] at hj
        have hj : x[j] = _ := hj
        have hk := writeMask_mask (c.setRegs { c.regs with masks := x }) (pfxOf s.regs).em.toNat 0 j
        rw [hy] at hk
        have hk : y[j] = if j.val = (pfxOf s.regs).em.toNat then ⟨x[j].com, some 0⟩ else x[j] := hk
        by_cases hd : j.val = d.toNat
        · rw [if_pos hd] at hj
          by_cases he : j.val = (pfxOf s.regs).em.toNat
          · rw [if_pos he] at hk; rw [if_pos ⟨rfl, he⟩, hk, hj]
          · rw [if_neg he] at hk; rw [if_neg (fun h => he h.2), if_pos hd, hk, hj]
        · rw [if_neg hd] at hj
          by_cases he : j.val = (pfxOf s.regs).em.toNat
          · rw [if_pos he] at hk; rw [if_pos ⟨rfl, he⟩, hk, hj]
          · rw [if_neg he] at hk; rw [if_neg (fun h => he h.2), if_neg hd, hk, hj]
    obtain ⟨t, h3, h4, h5, h6⟩ := member_next ha hm (hg.imp id (fun h => by rw [hcs]; exact h.of rfl rfl rfl))
    rw [hcs] at h4 h6
    refine ⟨t, h3, ⟨?_, ?_⟩, h2 t ?_, ?_, ?_, ?_, fun h => absurd h hv, fun _ j => ?_⟩
    · rw [h4]; rfl
    · rw [h6]; rfl
    · rw [h4]; rfl
    · rw [h4]; rfl
    · rw [h4]; rfl
    · rw [h4]; rfl
    · have hj := hmj j
      have ht : t.regs.masks[j] = m[j] := by rw [h4]; rfl
      rw [ht]
      by_cases he : e = true ∧ j.val = (pfxOf s.regs).em.toNat
      · rw [if_pos he] at *; exact hj
      · rw [if_neg he] at *
        by_cases hd : j.val = d.toNat
        · rw [if_pos hd] at *
          exact ⟨_, hj, fun i => (inSet_setOf l i).trans (hl i)⟩
        · rw [if_neg hd] at *; exact hj

end Machine
end Sys2Proof
end

