-- ==== Sys2Proof/Tests/Slice0.lean ====
section
/-! SUPPORT. Tests of decoding and of single steps, whose results come from the manual, and for each statement of Obligations.lean a
witness: a concrete state and operands that meet its hypotheses together. -/

set_option Elab.async false
set_option maxRecDepth 10000

namespace Sys2Proof
namespace Tests
open Machine

/-! ### Decoding: words written out from the encoding tables -/

theorem test_decode_major01 : ∀ p ∈ ([
      (0b000001_0_00011_00010_00001_1_000_000000, .add 3 2 1 true),
      (0b000001_0_00011_00010_00001_1_000_000001, .sub 3 2 1 true),
      (0b000001_0_00011_00010_00001_0_000_000010, .and 3 2 1),
      (0b000001_0_00011_00010_00001_0_000_000011, .or 3 2 1),
      (0b000001_0_00011_00010_00001_0_000_000100, .xor 3 2 1),
      (0b000001_0_00011_00010_00001_0_000_000101, .andn 3 2 1),
      (0b000001_0_00011_00010_00001_1_000_000110, .sll 3 2 1 true),
      (0b000001_0_00011_00010_00001_1_000_000111, .srl 3 2 1 true),
      (0b000001_0_00011_00010_00001_1_000_001000, .sra 3 2 1 true),
      (0b000001_0_00011_00010_00001_0_000_001001, .slt 3 2 1),
      (0b000001_0_00011_00010_00001_0_000_001010, .sltu 3 2 1),
      (0b000001_0_00011_00010_00001_0_000_001011, .min 3 2 1),
      (0b000001_0_00011_00010_00001_0_000_001100, .max 3 2 1),
      (0b000001_0_00011_00010_00001_0_000_001101, .minu 3 2 1),
      (0b000001_0_00011_00010_00001_0_000_001110, .maxu 3 2 1),
      (0b000001_0_00011_00010_00001_1_000_001111, .mul 3 2 1 true),
      (0b000001_0_00011_00010_00001_0_000_010000, .mulh 3 2 1),
      (0b000001_0_00011_00010_00001_0_000_010001, .mulhu 3 2 1),
      (0b000001_0_00011_00010_00001_1_000_010010, .div 3 2 1 true),
      (0b000001_0_00011_00010_00001_1_000_010011, .divu 3 2 1 true),
      (0b000001_0_00011_00010_00001_1_000_010100, .rem 3 2 1 true),
      (0b000001_0_00011_00010_00001_1_000_010101, .remu 3 2 1 true),
      (0b000001_0_00011_00010_00000_1_000_010110, .clz 3 2 true),
      (0b000001_0_00011_00010_00000_1_000_010111, .popc 3 2 true)] : List (Word × Instr)),
    decodeWord p.1 = .ok p.2 := by
  simp only [List.forall_mem_cons, List.not_mem_nil, false_implies, implies_true, and_true]; decide +kernel

theorem test_decode_major02 : ∀ p ∈ ([
      (0b000010_0_00011_00010_000_000000000101, .addi 3 2 5),
      (0b000010_0_00011_00010_001_000000000101, .andi 3 2 5),
      (0b000010_0_00011_00010_010_000000000101, .ori 3 2 5),
      (0b000010_0_00011_00010_011_000000000101, .xori 3 2 5),
      (0b000010_0_00011_00010_100_000000000101, .slti 3 2 5),
      (0b000010_0_00011_00010_101_000000000010, .slli 3 2 2),
      (0b000010_0_00011_00010_110_000000000010, .srli 3 2 2),
      (0b000010_0_00011_00010_111_000000000010, .srai 3 2 2)] : List (Word × Instr)),
    decodeWord p.1 = .ok p.2 := by
  simp only [List.forall_mem_cons, List.not_mem_nil, false_implies, implies_true, and_true]; decide +kernel

theorem test_decode_major03 : ∀ p ∈ ([
      (0b000011_0_00011_00000000000000000101, .lui 3 5)] : List (Word × Instr)),
    decodeWord p.1 = .ok p.2 := by
  simp only [List.forall_mem_cons, List.not_mem_nil, false_implies, implies_true, and_true]; decide +kernel

theorem test_decode_major04 : ∀ p ∈ ([
      (0b000100_0_00011_00000000000000000101, .auipc 3 5)] : List (Word × Instr)),
    decodeWord p.1 = .ok p.2 := by
  simp only [List.forall_mem_cons, List.not_mem_nil, false_implies, implies_true, and_true]; decide +kernel

theorem test_decode_major05 : ∀ p ∈ ([
      (0b000101_0_00011_00010_000_000000000101, .ldB 3 2 5),
      (0b000101_0_00011_00010_001_000000000101, .ldH 3 2 5),
      (0b000101_0_00011_00010_010_000000000101, .ldW 3 2 5),
      (0b000101_0_00011_00010_011_000000000101, .ldD 3 2 5),
      (0b000101_0_00011_00010_100_000000000101, .ldBu 3 2 5),
      (0b000101_0_00011_00010_101_000000000101, .ldHu 3 2 5),
      (0b000101_0_00011_00010_110_000000000101, .ldWu 3 2 5)] : List (Word × Instr)),
    decodeWord p.1 = .ok p.2 := by
  simp only [List.forall_mem_cons, List.not_mem_nil, false_implies, implies_true, and_true]; decide +kernel

theorem test_decode_major06 : ∀ p ∈ ([
      (0b000110_0_00001_00010_000_000000000101, .stB 1 2 5),
      (0b000110_0_00001_00010_001_000000000101, .stH 1 2 5),
      (0b000110_0_00001_00010_010_000000000101, .stW 1 2 5),
      (0b000110_0_00001_00010_011_000000000101, .stD 1 2 5)] : List (Word × Instr)),
    decodeWord p.1 = .ok p.2 := by
  simp only [List.forall_mem_cons, List.not_mem_nil, false_implies, implies_true, and_true]; decide +kernel

theorem test_decode_major07 : ∀ p ∈ ([
      (0b000111_0_000_00010_00001_000000000101, .beq 2 1 5),
      (0b000111_0_001_00010_00001_000000000101, .bne 2 1 5),
      (0b000111_0_010_00010_00001_000000000101, .blt 2 1 5),
      (0b000111_0_011_00010_00001_000000000101, .bge 2 1 5),
      (0b000111_0_100_00010_00001_000000000101, .bltu 2 1 5),
      (0b000111_0_101_00010_00001_000000000101, .bgeu 2 1 5)] : List (Word × Instr)),
    decodeWord p.1 = .ok p.2 := by
  simp only [List.forall_mem_cons, List.not_mem_nil, false_implies, implies_true, and_true]; decide +kernel

theorem test_decode_major08 : ∀ p ∈ ([
      (0b001000_0_00011_00000000000000000101, .jal 3 5)] : List (Word × Instr)),
    decodeWord p.1 = .ok p.2 := by
  simp only [List.forall_mem_cons, List.not_mem_nil, false_implies, implies_true, and_true]; decide +kernel

theorem test_decode_major09 : ∀ p ∈ ([
      (0b001001_0_00011_00010_000000000000101, .jalr 3 2 5)] : List (Word × Instr)),
    decodeWord p.1 = .ok p.2 := by
  simp only [List.forall_mem_cons, List.not_mem_nil, false_implies, implies_true, and_true]; decide +kernel

theorem test_decode_major0A : ∀ p ∈ ([
      (0b001010_0_00011_00010_00001_10_011_00000, .fadd 3 2 1 2 3),
      (0b001010_0_00011_00010_00001_10_011_00001, .fsub 3 2 1 2 3),
      (0b001010_0_00011_00010_00001_10_011_00010, .fmul 3 2 1 2 3),
      (0b001010_0_00011_00010_00001_10_011_00011, .fdiv 3 2 1 2 3),
      (0b001010_0_00011_00010_00000_10_011_00100, .fsqrt 3 2 2 3),
      (0b001010_0_00011_00010_00001_10_000_00101, .fmin 3 2 1 2),
      (0b001010_0_00011_00010_00001_10_000_00110, .fmax 3 2 1 2),
      (0b001010_0_00011_00010_00001_10_011_00111, .fma 3 2 1 2 3),
      (0b001010_0_00011_00010_00001_10_000_01000, .feq 3 2 1 2),
      (0b001010_0_00011_00010_00001_10_000_01001, .flt 3 2 1 2),
      (0b001010_0_00011_00010_00001_10_000_01010, .fle 3 2 1 2),
      (0b001010_0_00011_00010_00000_10_000_01011, .fclass 3 2 2),
      (0b001010_0_00011_00010_00011_10_011_01100, .fcvtI 3 2 3 2 3),
      (0b001010_0_00011_00010_00011_10_011_01101, .fcvtF 3 2 3 2 3),
      (0b001010_0_00011_00010_00011_10_011_01110, .fcvt 3 2 3 2 3),
      (0b001010_0_00011_00010_00001_10_000_01111, .fsgnj 3 2 1 2)] : List (Word × Instr)),
    decodeWord p.1 = .ok p.2 := by
  simp only [List.forall_mem_cons, List.not_mem_nil, false_implies, implies_true, and_true]; decide +kernel

theorem test_decode_major0B : ∀ p ∈ ([
      (0b001011_0_00011_00010_00000_010_1_000000, .ldAcq 3 2 2 true),
      (0b001011_0_00000_00010_00001_010_1_000001, .stRel 2 1 2 true),
      (0b001011_0_00011_00010_00001_010_1_000010, .amoAdd 3 2 1 2 true),
      (0b001011_0_00011_00010_00001_010_1_000011, .amoAnd 3 2 1 2 true),
      (0b001011_0_00011_00010_00001_010_1_000100, .amoOr 3 2 1 2 true),
      (0b001011_0_00011_00010_00001_010_1_000101, .amoXor 3 2 1 2 true),
      (0b001011_0_00011_00010_00001_010_1_000110, .amoMin 3 2 1 2 true),
      (0b001011_0_00011_00010_00001_010_1_000111, .amoMax 3 2 1 2 true),
      (0b001011_0_00011_00010_00001_010_1_001000, .amoMinu 3 2 1 2 true),
      (0b001011_0_00011_00010_00001_010_1_001001, .amoMaxu 3 2 1 2 true),
      (0b001011_0_00011_00010_00001_010_1_001010, .amoSwap 3 2 1 2 true),
      (0b001011_0_00011_00010_00001_010_1_001011, .amoCas 3 2 1 2 true),
      (0b001011_0_00011_00010_00001_010_0_001100, .amoFmax 3 2 1 2)] : List (Word × Instr)),
    decodeWord p.1 = .ok p.2 := by
  simp only [List.forall_mem_cons, List.not_mem_nil, false_implies, implies_true, and_true]; decide +kernel

theorem test_decode_major0C : ∀ p ∈ ([
      (0b001100_0_00000_00000_00000_010_0000000, .fence 2),
      (0b001100_0_00000_00000_00000_000_0000001, .scommit),
      (0b001100_0_00011_00010_00000_010_0000010, .bar 3 2 2),
      (0b001100_0_00011_00010_00000_010_0000011, .bararr 3 2 2),
      (0b001100_0_00000_00010_00001_010_0000100, .barwait 2 1 2),
      (0b001100_0_00011_00010_00001_010_0000101, .claim 3 2 1 2),
      (0b001100_0_00011_00010_00000_000_0000110, .waitt 3 2),
      (0b001100_0_00000_00010_00001_000_0000111, .sendt 2 1),
      (0b001100_0_00011_00010_00000_000_0001000, .recvchk 3 2),
      (0b001100_0_00011_00010_00001_010_0001001, .waitaddr 3 2 1 2),
      (0b001100_0_00000_00000_00000_000_0001010, .yield),
      (0b001100_0_00011_00010_00000_000_0001011, .launch 3 2),
      (0b001100_0_00000_00010_00001_010_0001100, .xinv 2 1 2)] : List (Word × Instr)),
    decodeWord p.1 = .ok p.2 := by
  simp only [List.forall_mem_cons, List.not_mem_nil, false_implies, implies_true, and_true]; decide +kernel

theorem test_decode_major0D : ∀ p ∈ ([
      (0b001101_0_00011_00000_000_000000001000, .csrr 3 8),
      (0b001101_0_00011_00010_001_000000001000, .csrw 3 2 8),
      (0b001101_0_00011_00010_010_000000001000, .csrs 3 2 8),
      (0b001101_0_00011_00010_011_000000001000, .csrc 3 2 8),
      (0b001101_0_00000_00010_100_000000000101, .trap 2 5),
      (0b001101_0_00000_00000_101_000000000000, .tret),
      (0b001101_0_00011_00010_110_000000000000, .vsave 3 2),
      (0b001101_0_00011_00010_110_000000000001, .vrestore 3 2),
      (0b001101_0_00011_00010_110_000000000010, .scrub 3 2),
      (0b001101_0_00011_00010_110_000000000011, .ctxkill 3 2),
      (0b001101_0_00011_00010_110_000000000100, .setown 3 2)] : List (Word × Instr)),
    decodeWord p.1 = .ok p.2 := by
  simp only [List.forall_mem_cons, List.not_mem_nil, false_implies, implies_true, and_true]; decide +kernel

theorem test_decode_major10 : ∀ p ∈ ([
      (0b010000_0_00011_00010_00000_1_0_0_0_000000, .vdecl 3 2),
      (0b010000_0_00011_00010_00001_1_0_0_0_000001, .setvl 3 2 1),
      (0b010000_0_00011_01010_00001_1_0_0_0_000010, .vtag 3 10 1),
      (0b010000_0_00000_00110_00000_0_0_0_0_000011, .vshape true 2),
      (0b010000_1_00011_00010_00000_1_1_0_0_000100, .vmv true 3 2 true false),
      (0b010000_1_00011_00010_00000_1_1_0_0_000101, .vbcast true 3 2 true),
      (0b010000_1_00011_00000_00000_1_1_0_0_000110, .vid true 3 true),
      (0b010000_1_00011_00000_00000_1_1_0_0_000111, .vidr true 3 true),
      (0b010000_1_00011_00010_00001_1_0_0_0_001000, .vxtract true 3 2 1 false),
      (0b010000_1_00011_00010_00001_1_0_0_0_001001, .vinsert true 3 2 1)] : List (Word × Instr)),
    decodeWord p.1 = .ok p.2 := by
  simp only [List.forall_mem_cons, List.not_mem_nil, false_implies, implies_true, and_true]; decide +kernel

theorem test_decode_major11 : ∀ p ∈ ([
      (0b010001_1_00011_00010_00001_1_1_0_0_000000, .vadd true 3 2 1 true true false false),
      (0b010001_1_00011_00010_00001_1_1_0_0_000001, .vsub true 3 2 1 true true false false),
      (0b010001_1_00011_00010_00001_1_1_0_0_000010, .vmul true 3 2 1 true true false false),
      (0b010001_1_00011_00010_00001_1_1_0_0_000011, .vmulh true 3 2 1 true true false false),
      (0b010001_1_00011_00010_00001_1_1_0_0_000100, .vmin true 3 2 1 true true false false),
      (0b010001_1_00011_00010_00001_1_1_0_0_000101, .vmax true 3 2 1 true true false false),
      (0b010001_1_00011_00010_00001_1_1_0_0_000110, .vand true 3 2 1 true true false false),
      (0b010001_1_00011_00010_00001_1_1_0_0_000111, .vor true 3 2 1 true true false false),
      (0b010001_1_00011_00010_00001_1_1_0_0_001000, .vxor true 3 2 1 true true false false),
      (0b010001_1_00011_00010_00001_1_1_0_0_001001, .vsll true 3 2 1 true true false false),
      (0b010001_1_00011_00010_00001_1_1_0_0_001010, .vsrl true 3 2 1 true true false false),
      (0b010001_1_00011_00010_00001_1_1_0_0_001011, .vsra true 3 2 1 true true false false),
      (0b010001_1_00011_00010_00000_1_1_0_0_001100, .vabs true 3 2 true true false),
      (0b010001_1_00011_00010_00001_1_1_0_0_001101, .vwmac true 3 2 1 true false false),
      (0b010001_1_00011_00010_00001_1_1_0_0_001110, .vdiv true 3 2 1 true true false false),
      (0b010001_1_00011_00010_00001_1_1_0_0_001111, .vrem true 3 2 1 true true false false),
      (0b010001_1_00011_00010_00001_1_1_0_0_010000, .vcmpeq true 3 2 1 true false false),
      (0b010001_1_00011_00010_00001_1_1_0_0_010001, .vcmplt true 3 2 1 true false false),
      (0b010001_1_00011_00010_00001_1_1_0_0_010010, .vcmple true 3 2 1 true false false),
      (0b010001_1_00011_00010_00001_1_1_0_0_010011, .vsel true 3 2 1 true true false false)] : List (Word × Instr)),
    decodeWord p.1 = .ok p.2 := by
  simp only [List.forall_mem_cons, List.not_mem_nil, false_implies, implies_true, and_true]; decide +kernel

theorem test_decode_major12 : ∀ p ∈ ([
      (0b010010_1_00011_00010_00001_1_1_0_0_000000, .vfadd true 3 2 1 true true false false),
      (0b010010_1_00011_00010_00001_1_1_0_0_000001, .vfsub true 3 2 1 true true false false),
      (0b010010_1_00011_00010_00001_1_1_0_0_000010, .vfmul true 3 2 1 true true false false),
      (0b010010_1_00011_00010_00001_1_1_0_0_000011, .vfaddX true 3 2 1 true false false),
      (0b010010_1_00011_00010_00001_1_1_0_0_000100, .vfsubX true 3 2 1 true false false),
      (0b010010_1_00011_00010_00001_1_1_0_0_000101, .vfmulX true 3 2 1 true false false),
      (0b010010_1_00011_00010_00001_1_1_0_0_000110, .vfma true 3 2 1 true false false),
      (0b010010_1_00011_00010_00001_1_1_0_0_000111, .vfdiv true 3 2 1 true true false false),
      (0b010010_1_00011_00010_00000_1_1_0_0_001000, .vfsqrt true 3 2 true true false),
      (0b010010_1_00011_00010_00000_1_1_0_0_001001, .vfrcp true 3 2 true true false),
      (0b010010_1_00011_00010_00000_1_1_0_0_001010, .vfexp2 true 3 2 true true false),
      (0b010010_1_00011_00010_00000_1_1_0_0_001011, .vflog2 true 3 2 true true false),
      (0b010010_1_00011_00010_00001_1_1_0_0_001100, .vfmin true 3 2 1 true true false false),
      (0b010010_1_00011_00010_00001_1_1_0_0_001101, .vfmax true 3 2 1 true true false false),
      (0b010010_1_00011_00010_00001_1_1_0_0_001110, .vfcmpeq true 3 2 1 true false false),
      (0b010010_1_00011_00010_00001_1_1_0_0_001111, .vfcmplt true 3 2 1 true false false),
      (0b010010_1_00011_00010_00001_1_1_0_0_010000, .vfcmple true 3 2 1 true false false),
      (0b010010_1_00011_00010_00000_1_1_0_0_010001, .vfclass true 3 2 true true false),
      (0b010010_1_00011_00010_00001_1_1_0_0_010010, .vdwadd true 3 2 1 true),
      (0b010010_1_00011_00010_00001_1_1_0_0_010011, .vdwmul true 3 2 1 true),
      (0b010010_1_00011_00010_00000_1_1_0_0_010100, .vdwnorm true 3 2 true),
      (0b010010_1_00011_00010_00000_1_1_0_0_010101, .vredsumX true 3 2 true)] : List (Word × Instr)),
    decodeWord p.1 = .ok p.2 := by
  simp only [List.forall_mem_cons, List.not_mem_nil, false_implies, implies_true, and_true]; decide +kernel

theorem test_decode_major13 : ∀ p ∈ ([
      (0b010011_1_00011_00010_00000_1_1_0_0_000000, .vcvt true 3 2 true false),
      (0b010011_1_00011_00010_01000_1_1_0_0_000001, .vscale true 3 2 8 true false),
      (0b010011_1_00011_00010_00001_1_1_0_0_000010, .vquant true 3 2 1 true false false),
      (0b010011_1_00011_00010_00001_1_1_0_0_000011, .vdeq true 3 2 1 true false false)] : List (Word × Instr)),
    decodeWord p.1 = .ok p.2 := by
  simp only [List.forall_mem_cons, List.not_mem_nil, false_implies, implies_true, and_true]; decide +kernel

theorem test_decode_major14 : ∀ p ∈ ([
      (0b010100_1_00011_00010_00000_1_1_1_0_000000, .vld true 3 2 true true true),
      (0b010100_1_00011_00010_00001_1_1_1_0_000001, .vlds true 3 2 1 true true true),
      (0b010100_1_00011_00010_00001_1_1_1_0_000010, .vldx true 3 2 1 true true true),
      (0b010100_1_00011_00010_00001_1_1_1_0_000011, .vldb true 3 2 1 true true true)] : List (Word × Instr)),
    decodeWord p.1 = .ok p.2 := by
  simp only [List.forall_mem_cons, List.not_mem_nil, false_implies, implies_true, and_true]; decide +kernel

theorem test_decode_major15 : ∀ p ∈ ([
      (0b010101_1_00011_00010_00000_1_1_0_0_000000, .vst true 3 2 true true),
      (0b010101_1_00011_00010_00001_1_1_0_0_000001, .vsts true 3 2 1 true true),
      (0b010101_1_00011_00010_00001_1_1_0_0_000010, .vstx true 3 2 1 true true),
      (0b010101_0_00011_00010_00001_1_0_0_0_000011, .vstt 3 2 1)] : List (Word × Instr)),
    decodeWord p.1 = .ok p.2 := by
  simp only [List.forall_mem_cons, List.not_mem_nil, false_implies, implies_true, and_true]; decide +kernel

theorem test_decode_major16 : ∀ p ∈ ([
      (0b010110_1_00011_00010_00001_1_1_0_0_000000, .vgather true 3 2 1 true false),
      (0b010110_1_00011_00010_00001_1_1_0_0_000001, .vslideup true 3 2 1 true true false),
      (0b010110_1_00011_00010_00001_1_1_0_0_000010, .vslidedn true 3 2 1 true true false),
      (0b010110_1_00011_00010_00001_1_1_0_0_000011, .vcompress true 3 2 1 true false),
      (0b010110_1_00011_00010_00001_1_1_0_0_000100, .vexpand true 3 2 1 true false),
      (0b010110_1_00011_00010_00000_1_1_0_0_000101, .vrev true 3 2 true true false),
      (0b010110_1_00011_00010_00001_1_0_0_0_000110, .vmand true 3 2 1),
      (0b010110_1_00011_00010_00001_1_0_0_0_000111, .vmor true 3 2 1),
      (0b010110_1_00011_00010_00001_1_0_0_0_001000, .vmxor true 3 2 1),
      (0b010110_1_00011_00010_00000_1_0_0_0_001001, .vmnot true 3 2),
      (0b010110_1_00011_00010_00000_1_0_0_0_001010, .vmpop true 3 2),
      (0b010110_1_00011_00010_00000_1_0_0_0_001011, .vmffs true 3 2),
      (0b010110_1_00011_00010_00000_1_0_0_0_001100, .vmset true 3 2),
      (0b010110_1_00011_00010_00000_1_0_0_0_001101, .vmffsr true 3 2)] : List (Word × Instr)),
    decodeWord p.1 = .ok p.2 := by
  simp only [List.forall_mem_cons, List.not_mem_nil, false_implies, implies_true, and_true]; decide +kernel

theorem test_decode_major17 : ∀ p ∈ ([
      (0b010111_1_00011_00010_00000_1_1_0_0_000000, .vredsum true 3 2 true false),
      (0b010111_1_00011_00010_00000_1_1_0_0_000001, .vredmax true 3 2 true false),
      (0b010111_1_00011_00010_00000_1_1_0_0_000010, .vredmin true 3 2 true false),
      (0b010111_1_00011_00010_00000_1_1_0_0_000011, .vredand true 3 2 true false),
      (0b010111_1_00011_00010_00000_1_1_0_0_000100, .vredor true 3 2 true false),
      (0b010111_1_00011_00010_00001_1_1_0_0_000101, .vscansum true 3 2 1 true false),
      (0b010111_1_00011_00010_00001_1_1_0_0_000110, .vscanmax true 3 2 1 true false),
      (0b010111_1_00011_00010_00001_1_1_0_0_000111, .vscanand true 3 2 1 true false),
      (0b010111_1_00011_00010_00001_1_1_0_0_001000, .vsegsum true 3 2 1 true false),
      (0b010111_1_00011_00010_00001_1_1_0_0_001001, .vsegmax true 3 2 1 true false)] : List (Word × Instr)),
    decodeWord p.1 = .ok p.2 := by
  simp only [List.forall_mem_cons, List.not_mem_nil, false_implies, implies_true, and_true]; decide +kernel

theorem test_decode_major18 : ∀ p ∈ ([
      (0b011000_0_00011_00010_00001_0000_000_000, .tagw 3 2 1),
      (0b011000_0_00011_00010_00000_0001_000_000, .tagr 3 2),
      (0b011000_0_00011_00010_00000_0010_000_000, .tmatch 3 2),
      (0b011000_0_00011_00010_00001_0011_101_000, .toprSet 3 2 1 5),
      (0b011000_0_00011_00010_00001_0100_101_000, .toprAdd 3 2 1 5),
      (0b011000_0_00011_00010_00001_0101_101_000, .toprMuls 3 2 1 5),
      (0b011000_0_00011_00010_00000_0110_000_000, .toprClr 3 2),
      (0b011000_0_00011_00010_00001_0111_000_000, .toprRetag 3 2 1)] : List (Word × Instr)),
    decodeWord p.1 = .ok p.2 := by
  simp only [List.forall_mem_cons, List.not_mem_nil, false_implies, implies_true, and_true]; decide +kernel

theorem test_decode_major19 : ∀ p ∈ ([
      (0b011001_0_00011_00000_00000_00000_00000, .mzero 3),
      (0b011001_0_00011_00010_00001_00000_00001, .mop 3 2 1),
      (0b011001_0_00011_00010_00001_00000_00010, .mldw 3 2 1),
      (0b011001_0_00011_00010_00001_00000_00011, .mkeep 3 2 1),
      (0b011001_0_00011_00010_00001_00000_00100, .mdrain 3 2 1),
      (0b011001_0_00011_00010_00001_00000_00101, .mtov 3 2 1),
      (0b011001_0_00011_00010_00001_00000_00110, .mfromv 3 2 1),
      (0b011001_0_00000_00000_00000_00000_00111, .mwait)] : List (Word × Instr)),
    decodeWord p.1 = .ok p.2 := by
  simp only [List.forall_mem_cons, List.not_mem_nil, false_implies, implies_true, and_true]; decide +kernel

theorem test_decode_major1A : ∀ p ∈ ([
      (0b011010_0_00011_00010_00001_00111_00000, .dcopy 3 2 1 7),
      (0b011010_0_00011_00010_00000_00000_00001, .dcopy2d 3 2),
      (0b011010_0_00011_00010_00001_00111_00010, .dfill 3 2 1 7),
      (0b011010_0_00011_00010_00000_00010_00011, .tkwait 3 2 2),
      (0b011010_0_00011_00010_00000_00010_00100, .tktest 3 2 2),
      (0b011010_0_00011_00010_00000_00000_00101, .ddeal 3 2)] : List (Word × Instr)),
    decodeWord p.1 = .ok p.2 := by
  simp only [List.forall_mem_cons, List.not_mem_nil, false_implies, implies_true, and_true]; decide +kernel

theorem test_decode_major1B : ∀ p ∈ ([
      (0b011011_0_00011_00010_00001_00111_00000, .cmv 3 2 1 7),
      (0b011011_0_00011_00010_00001_00000_00001, .cwrite 3 2 1),
      (0b011011_0_00011_00010_00000_00000_00010, .ccommit 3 2),
      (0b011011_0_00011_00010_00000_00000_00011, .cstat 3 2),
      (0b011011_0_00011_00010_00000_00000_00100, .ccal 3 2)] : List (Word × Instr)),
    decodeWord p.1 = .ok p.2 := by
  simp only [List.forall_mem_cons, List.not_mem_nil, false_implies, implies_true, and_true]; decide +kernel

theorem test_decode_major1C : ∀ p ∈ ([
      (0b011100_0_00011_00010_00001_00111_00000, .binst 3 2 1 7),
      (0b011100_0_00011_00010_00001_00111_00001, .bmsg 3 2 1 7),
      (0b011100_0_00011_00010_00000_00000_00010, .bstat 3 2)] : List (Word × Instr)),
    decodeWord p.1 = .ok p.2 := by
  simp only [List.forall_mem_cons, List.not_mem_nil, false_implies, implies_true, and_true]; decide +kernel

theorem test_decode_major1D : ∀ p ∈ ([
      (0b011101_0_00011_00010_00001_1_0_0_0_000000, .vscore false 3 2 1 true),
      (0b011101_0_00011_00100_00001_1_0_1_0_000001, .vexpm false 3 1 true),
      (0b011101_0_00011_00100_00001_1_0_1_0_000010, .vaccv false 3 1),
      (0b011101_0_00011_00010_00001_1_0_0_0_000011, .vsoftfin false 3 2 1 false),
      (0b011101_0_00011_00010_00000_1_0_0_0_000100, .vtreem false 3 2)] : List (Word × Instr)),
    decodeWord p.1 = .ok p.2 := by
  simp only [List.forall_mem_cons, List.not_mem_nil, false_implies, implies_true, and_true]; decide +kernel

theorem test_decode_major1E : ∀ p ∈ ([
      (0b011110_1_00011_00010_00000_1_0_0_0_000000, .vaccept true 3 2),
      (0b011110_1_00011_00010_00001_1_0_0_0_000001, .vcommitm true 3 2 1 false),
      (0b011110_1_00011_00010_00001_1_0_0_0_000010, .vmaxi true 3 2 1)] : List (Word × Instr)),
    decodeWord p.1 = .ok p.2 := by
  simp only [List.forall_mem_cons, List.not_mem_nil, false_implies, implies_true, and_true]; decide +kernel

theorem test_decode_major1F : ∀ p ∈ ([
      (0b011111_0_00011_00010_00001_00111_00000, .pdlook 3 2 1 7),
      (0b011111_0_00011_00010_00001_00111_00001, .pdins 3 2 1 7),
      (0b011111_0_00011_00010_00000_00000_00010, .pdref 3 2),
      (0b011111_0_00011_00010_00000_00000_00011, .pdunref 3 2),
      (0b011111_0_00011_00010_00000_00000_00100, .pdstat 3 2)] : List (Word × Instr)),
    decodeWord p.1 = .ok p.2 := by
  simp only [List.forall_mem_cons, List.not_mem_nil, false_implies, implies_true, and_true]; decide +kernel

/-- Table 5.7: PFX's word in the manual's example, and one with every field set. -/
theorem test_decode_prefix : decodeWord 0xF8D40080 = .ok (.pfx 3 false 5 0 0 false 2 false) ∧
    decodeWord (0b111110_0_010_1_001_011_00110_1_011_1_00000 : Word) = .ok (.pfx 2 true 1 3 6 true 3 true) := by decide

/-- Tables 15.1 and 15.4: op in bits 31:27, then d, a, b and the immediate. -/
theorem test_decode_brixem1 : decodeBrixem 0b00000_0000_0000_0000_000000000000000 = .ok .bHalt ∧
    decodeBrixem 0b00001_0011_0000_0000_100000000000001 = .ok (.bLi 3 0x4001) ∧
    decodeBrixem 0b00010_0011_0010_0001_000000000000111 = .ok (.bAdd 3 2 1 7) ∧
    decodeBrixem 0b00011_0011_0010_0001_000000000000000 = .ok (.bSub 3 2 1) ∧
    decodeBrixem 0b00100_0011_0010_0001_000000000000000 = .ok (.bAnd 3 2 1) ∧
    decodeBrixem 0b00101_0011_0010_0000_000000000111111 = .ok (.bShl 3 2 63) ∧
    decodeBrixem 0b00110_0011_0010_0000_000000000000001 = .ok (.bShr 3 2 1) ∧
    decodeBrixem 0b00111_0000_0010_0000_111111111111111 = .ok (.bBnz 2 0x7FFF) ∧
    decodeBrixem 0b01000_0000_0010_0000_000000000000010 = .ok (.bBz 2 2) ∧
    decodeBrixem 0b01001_0011_0010_0000_000000000001000 = .ok (.bLdq 3 2 8) := by decide +kernel

theorem test_decode_brixem2 : decodeBrixem 0b01010_0000_0010_0001_000000000001000 = .ok (.bStq 2 1 8) ∧
    decodeBrixem 0b01011_0000_0000_0000_000000000000001 = .ok (.bMode true) ∧
    decodeBrixem 0b01100_0000_0010_0000_000000000000000 = .ok (.bAct 2) ∧
    decodeBrixem 0b01101_0000_0000_0000_000000000000000 = .ok .bPre ∧
    decodeBrixem 0b01110_0000_0010_0000_000000000000001 = .ok (.bXld 2 true) ∧
    decodeBrixem 0b01111_0000_0010_0001_000000000000000 = .ok (.bMac 2 1) ∧
    decodeBrixem 0b10000_0000_0000_0000_000000000000000 = .ok .bAclr ∧
    decodeBrixem 0b10000_0000_0000_0001_000000000000001 = .ok (.bAclrEntry 1) ∧
    decodeBrixem 0b10001_0000_0010_0001_000000000000000 = .ok (.bArd 2 1) ∧
    decodeBrixem 0b10010_0000_0010_0000_000000000000111 = .ok (.bRout 2 7) := by decide +kernel

/-- R108: words that decode to nothing. -/
theorem test_decode_refused : decodeWord 0x00000000 = .error .unlisted ∧ decodeWord 0xFC000000 = .error .unlisted ∧
    decodeWord 0xFFFFFFFF = .error .unlisted ∧ decodeWord 0b000001_0_00001_00010_00011_0_000_011000 = .error .unlisted ∧
    decodeWord 0b000001_0_00001_00010_00011_0_001_000000 = .error .reserved ∧
    decodeWord 0b001101_0_00000_00001_101_000000000000 = .error .reserved := by decide +kernel

/-- The word that the next step executes after withFetchWord (x5 := x6 + x7). -/
theorem test_step : (match step (State.reset.withFetchWord 32 0x04531C00) with | .next t => t.regs.pc.toNat | _ => 0) = 4 := by decide +kernel

/-! ### What well-formedness refuses: a term for each check -/

/-- Rounding mode 6 (R136). -/
theorem test_wf_mode : ∀ i ∈ ([
    .fadd 0 0 0 0 6, .fsub 0 0 0 0 6, .fmul 0 0 0 0 6, .fdiv 0 0 0 0 6, .fsqrt 0 0 0 6, .fma 0 0 0 0 6, .fcvtI 0 0 0 0 6,
    .fcvtF 0 0 0 0 6, .fcvt 0 0 0 0 6] : List Instr), i.wf = false := by decide

/-- A kind or source format above 3 (R140). -/
theorem test_wf_kind : ∀ i ∈ ([
    .fcvtI 0 0 4 0 0, .fcvtF 0 0 4 0 0, .fcvt 0 0 4 0 0] : List Instr), i.wf = false := by decide

/-- A scope above 4 (R105). -/
theorem test_wf_scope : ∀ i ∈ ([
    .ldAcq 0 0 5 true, .stRel 0 0 5 true, .amoAdd 0 0 0 5 true, .amoAnd 0 0 0 5 true, .amoOr 0 0 0 5 true, .amoXor 0 0 0 5
    true, .amoMin 0 0 0 5 true, .amoMax 0 0 0 5 true, .amoMinu 0 0 0 5 true, .amoMaxu 0 0 0 5 true, .amoSwap 0 0 0 5 true,
    .amoCas 0 0 0 5 true, .amoFmax 0 0 0 5, .fence 5, .bar 0 0 5, .bararr 0 0 5, .barwait 0 0 5, .claim 0 0 0 5, .waitaddr 0 0
    0 5, .tkwait 0 0 5, .tktest 0 0 5] : List Instr), i.wf = false := by decide

/-- Fields with checks of their own (R107, R112, R155, R240, R296). -/
theorem test_wf_other : ∀ i ∈ ([
    .xinv 0 0 4, .vtag 0 14 0, .vtag 0 0 2, .vtag 4 0 1, .vscale true 0 0 2 true true, .pfx 0 true 0 0 0 true 0 true, .pfx 0
    false 0 0 1 false 0 true, .pfx 0 false 0 0 0 true 7 true, .bRout 0 0] : List Instr), i.wf = false := by decide

/-- An unassigned CSR number (R227). -/
theorem test_wf_csr : ∀ i ∈ ([
    .csrr 0 0x11, .csrw 0 0 0x11, .csrs 0 0 0x11, .csrc 0 0 0x11] : List Instr), i.wf = false := by decide

/-- A source field above 4 with its queue bit set (R104). -/
theorem test_wf_source : ∀ i ∈ ([
    .vmv true 0 5 true true, .vxtract true 0 5 0 true, .vadd true 0 5 0 true true true true, .vadd true 0 0 5 true true true
    true, .vsub true 0 5 0 true true true true, .vsub true 0 0 5 true true true true, .vmul true 0 5 0 true true true true,
    .vmul true 0 0 5 true true true true, .vmulh true 0 5 0 true true true true, .vmulh true 0 0 5 true true true true, .vmin
    true 0 5 0 true true true true, .vmin true 0 0 5 true true true true, .vmax true 0 5 0 true true true true, .vmax true 0 0
    5 true true true true, .vand true 0 5 0 true true true true, .vand true 0 0 5 true true true true, .vor true 0 5 0 true
    true true true, .vor true 0 0 5 true true true true, .vxor true 0 5 0 true true true true, .vxor true 0 0 5 true true true
    true, .vsll true 0 5 0 true true true true, .vsll true 0 0 5 true true true true, .vsrl true 0 5 0 true true true true,
    .vsrl true 0 0 5 true true true true, .vsra true 0 5 0 true true true true, .vsra true 0 0 5 true true true true, .vabs
    true 0 5 true true true, .vwmac true 0 5 0 true true true, .vwmac true 0 0 5 true true true, .vdiv true 0 5 0 true true
    true true, .vdiv true 0 0 5 true true true true, .vrem true 0 5 0 true true true true, .vrem true 0 0 5 true true true
    true, .vcmpeq true 0 5 0 true true true, .vcmpeq true 0 0 5 true true true, .vcmplt true 0 5 0 true true true, .vcmplt
    true 0 0 5 true true true, .vcmple true 0 5 0 true true true, .vcmple true 0 0 5 true true true, .vsel true 0 5 0 true
    true true true, .vsel true 0 0 5 true true true true, .vfadd true 0 5 0 true true true true, .vfadd true 0 0 5 true true
    true true, .vfsub true 0 5 0 true true true true, .vfsub true 0 0 5 true true true true, .vfmul true 0 5 0 true true true
    true, .vfmul true 0 0 5 true true true true, .vfaddX true 0 5 0 true true true, .vfaddX true 0 0 5 true true true, .vfsubX
    true 0 5 0 true true true, .vfsubX true 0 0 5 true true true, .vfmulX true 0 5 0 true true true, .vfmulX true 0 0 5 true
    true true, .vfma true 0 5 0 true true true, .vfma true 0 0 5 true true true, .vfdiv true 0 5 0 true true true true, .vfdiv
    true 0 0 5 true true true true, .vfsqrt true 0 5 true true true, .vfrcp true 0 5 true true true, .vfexp2 true 0 5 true
    true true, .vflog2 true 0 5 true true true, .vfmin true 0 5 0 true true true true, .vfmin true 0 0 5 true true true true,
    .vfmax true 0 5 0 true true true true, .vfmax true 0 0 5 true true true true, .vfcmpeq true 0 5 0 true true true, .vfcmpeq
    true 0 0 5 true true true, .vfcmplt true 0 5 0 true true true, .vfcmplt true 0 0 5 true true true, .vfcmple true 0 5 0
    true true true, .vfcmple true 0 0 5 true true true, .vfclass true 0 5 true true true, .vcvt true 0 5 true true, .vscale
    true 0 5 0 true true, .vquant true 0 5 0 true true true, .vquant true 0 0 5 true true true, .vdeq true 0 5 0 true true
    true, .vdeq true 0 0 5 true true true, .vgather true 0 0 5 true true, .vslideup true 0 5 0 true true true, .vslidedn true
    0 5 0 true true true, .vcompress true 0 5 0 true true, .vexpand true 0 5 0 true true, .vrev true 0 5 true true true,
    .vredsum true 0 5 true true, .vredmax true 0 5 true true, .vredmin true 0 5 true true, .vredand true 0 5 true true,
    .vredor true 0 5 true true, .vscansum true 0 5 0 true true, .vscanmax true 0 5 0 true true, .vscanand true 0 5 0 true
    true, .vsegsum true 0 5 0 true true, .vsegmax true 0 5 0 true true, .vsoftfin true 0 5 0 true, .vcommitm true 0 5 0 true] : List Instr), i.wf = false := by decide

/-- A destination with W = 0 (R104). -/
theorem test_wf_result : ∀ i ∈ ([
    .vadd true 1 0 0 false true true true, .vsub true 1 0 0 false true true true, .vmul true 1 0 0 false true true true,
    .vmulh true 1 0 0 false true true true, .vmin true 1 0 0 false true true true, .vmax true 1 0 0 false true true true,
    .vand true 1 0 0 false true true true, .vor true 1 0 0 false true true true, .vxor true 1 0 0 false true true true, .vsll
    true 1 0 0 false true true true, .vsrl true 1 0 0 false true true true, .vsra true 1 0 0 false true true true, .vabs true
    1 0 false true true, .vdiv true 1 0 0 false true true true, .vrem true 1 0 0 false true true true, .vsel true 1 0 0 false
    true true true, .vfadd true 1 0 0 false true true true, .vfsub true 1 0 0 false true true true, .vfmul true 1 0 0 false
    true true true, .vfdiv true 1 0 0 false true true true, .vfsqrt true 1 0 false true true, .vfrcp true 1 0 false true true,
    .vfexp2 true 1 0 false true true, .vflog2 true 1 0 false true true, .vfmin true 1 0 0 false true true true, .vfmax true 1
    0 0 false true true true, .vfclass true 1 0 false true true, .vslideup true 1 0 0 false true true, .vslidedn true 1 0 0
    false true true, .vrev true 1 0 false true true, .vscore true 1 0 0 false, .vexpm true 1 0 false] : List Instr), i.wf = false := by decide

/-- A mask field above 7 (R104). -/
theorem test_wf_mask : ∀ i ∈ ([
    .vcmpeq true 8 0 0 true true true, .vcmplt true 8 0 0 true true true, .vcmple true 8 0 0 true true true, .vfcmpeq true 8 0
    0 true true true, .vfcmplt true 8 0 0 true true true, .vfcmple true 8 0 0 true true true, .vcompress true 0 0 8 true true,
    .vexpand true 0 0 8 true true, .vmand true 8 0 0, .vmand true 0 8 0, .vmand true 0 0 8, .vmor true 8 0 0, .vmor true 0 8
    0, .vmor true 0 0 8, .vmxor true 8 0 0, .vmxor true 0 8 0, .vmxor true 0 0 8, .vmnot true 8 0, .vmnot true 0 8, .vmpop
    true 0 8, .vmffs true 0 8, .vmset true 8 0, .vmffsr true 0 8, .vsegsum true 0 0 8 true true, .vsegmax true 0 0 8 true
    true, .vtreem true 8 0, .vaccept true 0 8, .vmaxi true 0 0 8] : List Instr), i.wf = false := by decide

/-- Column orientation in memory (R182). -/
theorem test_wf_orientation : ∀ i ∈ ([
    .vld true 0 0 false true false, .vlds true 0 0 0 false true false, .vldx true 0 0 0 false true false, .vldb true 0 0 0
    false true false, .vst true 0 0 false true, .vsts true 0 0 0 false true, .vstx true 0 0 0 false true] : List Instr), i.wf = false := by decide

/-- A queue above q3 (R104). -/
theorem test_wf_queue : ∀ i ∈ ([
    .vld true 4 0 true true true, .vlds true 4 0 0 true true true, .vldx true 4 0 0 true true true, .vldb true 4 0 0 true true
    true] : List Instr), i.wf = false := by decide

/-- A tile above 15 (R104). -/
theorem test_wf_tile : ∀ i ∈ ([
    .mzero 16, .mop 16 0 0, .mdrain 0 16 0, .mtov 0 16 0, .mfromv 16 0 0] : List Instr), i.wf = false := by decide

/-! ### Small states -/

/-- A gang of two members, on cores 0 and 1. -/
def gang : Gang := {
  gid := 1, ctx := 0, size := 2, cls := 0, timed := false, lanes := 1, sp := 4096, record := 0x100000, origin := 0
  members := [(0, 0), (1, 8)], exited := [], bars := [], launcher := none, rootHseq := none }

/-- A hart of context 0 that runs, with handlers named, mapped memory and the core's local stores; `f` changes it. -/
def with_ (f : Hart → Hart) : State :=
  let s := State.reset.atHart 0x04000000
  let h := { loadedHart false with thb := 1, gang := 1 }
  { s with
    hart := f h
    gangs := [(1, gang)]
    cores := [(0, { s.coreAt 0 with holder := some 1, request := 0x200000 }), (1, { Core.initial with holder := some 1, request := 4096 })] }

/-- As `with_`, of the registers. -/
def at_ (f : Regs → Regs) : State := with_ (fun h => { h with regs := f h.regs })

def up : State := at_ id

/-- x1 to x3 hold some values. -/
def withX (a b c : XWord) : State := at_ (fun r => { r with x := ((r.x.set 1 a).set 2 b).set 3 c })

/-- VL is 2, one register holds a row, and v1 to v3 and the tile in q0 carry some tags; x1 to x3 hold some values. -/
def tags (f g h : Fmt) (a b c : XWord) : State :=
  at_ (fun r =>
    let t := fun f => (⟨⟨f, Array.replicate 64 0⟩, none⟩ : VReg)
    { r with
      vl := 2, x := ((r.x.set 1 a).set 2 b).set 3 c, vregs := ((r.vregs.set 1 (t f)).set 2 (t g)).set 3 (t h)
      queues := r.queues.set 0 [⟨f, Array.replicate 64 0⟩] })

/-- Fresh states stand at the first word of a convoy of an open strip. -/
theorem strip_of {f : Hart → Hart} (h1 : (f { loadedHart false with thb := 1, gang := 1 }).tl = 0)
    (h2 : (f { loadedHart false with thb := 1, gang := 1 }).early = false)
    (h3 : (f { loadedHart false with thb := 1, gang := 1 }).regs.storeBuf = []) : InStrip (with_ f) :=
  ⟨h1, h2, by show storeBytesHeld (with_ f).hart.regs ≤ _; unfold storeBytesHeld; rw [show (with_ f).hart.regs.storeBuf = [] from h3]; exact Nat.zero_le _⟩

theorem x_strip (a b c : XWord) : InStrip (withX a b c) := strip_of rfl rfl rfl
theorem x_convoy (a b c : XWord) : AtConvoy (withX a b c) := ⟨rfl, rfl, rfl⟩
theorem x_commit (a b c : XWord) : MayCommit (withX a b c) := ⟨rfl, ⟨rfl, rfl, rfl⟩, rfl, rfl⟩
theorem x_traps (a b c : XWord) : Traps (withX a b c) := ⟨rfl, rfl, (by decide : (1 : BitVec 47) ≠ 0)⟩
theorem t_strip (f g h : Fmt) (a b c : XWord) : InStrip (tags f g h a b c) := strip_of rfl rfl rfl
theorem t_goes (f g h : Fmt) (a b c : XWord) (i : Instr) : GoesOn (tags f g h a b c) i := .inr (t_strip ..)

/-- The address of an answer. -/
def addr {α : Type} (r : Eff (Nat × α)) : Option Nat := match r with | .ok p => some p.1 | .error _ => none

theorem of_addr {α : Type} {r : Eff (Nat × α)} {pa : Nat} (h : addr r = some pa) : ∃ u, r = .ok (pa, u) := by
  unfold addr at h; split at h
  · exact ⟨_, by cases h; rfl⟩
  · cases h

/-- The address of a read that is allowed and meets no bad unit. -/
def readAddr (s : State) (va : XWord) (n : Nat) : Option Nat :=
  match access s .read va n 0 with
  | .error _ => none
  | .ok (pa, u) => match poisonCheck u .read va pa n 0 with | .ok _ => some pa | .error _ => none

theorem readable_of {s : State} {va : XWord} {n pa : Nat} (h : readAddr s va n = some pa) : Readable s va n pa := by
  unfold readAddr at h
  split at h
  · cases h
  · rename_i p u ha
    split at h
    · rename_i hp; cases h; exact ⟨u, ha, hp⟩
    · cases h

/-! ### Witnesses of the hypotheses -/

theorem witness_IntegerResults : ∃ s, InStrip s := ⟨withX 1 2 3, x_strip ..⟩

theorem witness_Division : ∃ s, InStrip s ∧ s.x 1 = BitVec.intMin 64 ∧ s.x 2 = BitVec.allOnes 64 ∧ lo32 (s.x 2) ≠ 0 ∧ Traps s ∧
    MayCommit s ∧ s.x 3 = 0 :=
  ⟨withX (BitVec.intMin 64) (BitVec.allOnes 64) 0, x_strip .., rfl, rfl, by decide, x_traps .., x_commit .., rfl⟩

theorem ok_of {α : Type} {r : Eff α} {p : α → Bool} (h : (match r with | .ok v => p v | .error _ => false) = true) :
    ∃ v, r = .ok v ∧ p v = true := by
  split at h
  · exact ⟨_, rfl, h⟩
  · cases h

/-- Why a walk fails. -/
def failure (r : Except Nat Leaf) : Option Nat := match r with | .ok _ => none | .error c => some c

/-- The strip store buffer holds n bytes, and q0 some tiles. -/
def brimming (n : Nat) (q : List Tile) : State :=
  at_ (fun r => { r with
    x := r.x.set 1 0xFF8, storeBuf := [⟨false, 0x200000, List.replicate n 0, 0⟩], queues := r.queues.set 0 q })

theorem brimming_bytes (n : Nat) (q : List Tile) : storeBytesHeld (brimming n q).regs = n := by
  simp [brimming, at_, with_, State.regs, storeBytesHeld]

theorem witness_ScalarAccesses : (∃ s, InStrip s ∧ (∀ n ∈ [1, 2, 4, 8], Readable s (s.x 1 + 0) n 0x200FF8)) ∧
    (∃ s, s.hart.tl = 0 ∧ s.hart.early = false ∧ Writable s (s.x 1 + 0) 8 0x200FF8 ∧ storeBytesHeld s.regs + 8 ≤ Config.storeBufBytes) ∧
    (∃ s, Traps s ∧ AtConvoy s ∧ (s.x 1).toNat % 2 ≠ 0 ∧ 2 ^ 56 ≤ (s.x 2).toInt ∧ (s.x 3).toInt < -2 ^ 56) ∧
    (∃ s, Traps s ∧ AtConvoy s ∧ (s.x 1).toNat % 8 = 0 ∧
      let r := walk s true s.dieId s.hart.ctx (s.x 1).toNat
      let full : Trap := { code := 0x07, tv := s.x 1, drawn := r.2.free, found := walkFound s r.2 (s.x 1) }
      failure r.1 = some 0x07 ∧ r.2.read.all (fun p => bankWait s p == none) = true ∧ heldByLeader (s.noting full) full = false) ∧
    (∃ s, Traps s ∧ AtConvoy s ∧ (s.x 1).toNat % 8 = 0 ∧
      let r := walk s true s.dieId s.hart.ctx (s.x 1).toNat
      let full : Trap := { code := 0x08, tv := s.x 1, write := true, drawn := r.2.free, found := walkFound s r.2 (s.x 1) }
      (∃ l, r.1 = .ok l ∧ l.w = false) ∧ r.2.read.all (fun p => bankWait s p == none) = true ∧
        heldByLeader (s.noting full) full = false) ∧
    ∀ q, q = [] ∨ q = [(⟨.bits, #[]⟩ : Tile)] → ∃ (s u : State) (pa : Nat), s.hart.tl = 0 ∧ s.hart.early = false ∧ s.regs.first = none ∧
      s.hart.undo = none ∧ access s .write (s.x 1 + 0) 8 0 = .ok (pa, u) ∧ Config.storeBufBytes < storeBytesHeld s.regs + 1 ∧
      commitWait (u.buffer ⟨false, pa, leBytes 8 (s.x 2).toNat, s.x 1⟩) = none ∧ queuesEmpty s.regs = decide (q = []) := by
  refine ⟨⟨withX 0xFF8 0 0, x_strip .., ?_⟩, ⟨withX 0xFF8 0 0, rfl, rfl, ⟨_, rfl⟩, by decide +kernel⟩,
    ⟨withX 1 0x100000000000000 0xFEFFFFFFFFFFFFFF, x_traps .., x_convoy .., by decide, by decide, by decide⟩,
    ⟨withX 0x200000 0 0, x_traps .., x_convoy .., by decide, by decide +kernel, by decide +kernel, by decide +kernel⟩,
    ⟨{ withX 0x1FFFF8 0 0 with mem := memWriteN up.mem 0x2000 (leBytes 8 0x200017) }, ⟨rfl, rfl, (by decide : (1 : BitVec 47) ≠ 0)⟩,
      ⟨rfl, rfl, rfl⟩, by decide, ⟨_, rfl, rfl⟩, by decide +kernel, by decide +kernel⟩, ?_⟩
  · intro n hn; fin_cases hn <;> exact ⟨_, rfl, rfl⟩
  · intro q h
    have hw : ∃ p, access (brimming 16384 q) .write 0xFF8 8 0 = .ok p ∧
        commitWait (p.2.buffer ⟨false, p.1, leBytes 8 0, 0xFF8⟩) = none := by
      rcases h with rfl | rfl <;> exact
        (ok_of (p := fun p => (commitWait (p.2.buffer ⟨false, p.1, leBytes 8 0, 0xFF8⟩)).isNone) (by decide +kernel)).imp
          fun _ h => ⟨h.1, Option.isNone_iff_eq_none.1 h.2⟩
    obtain ⟨p, h1, h2⟩ := hw
    refine ⟨brimming 16384 q, p.2, p.1, rfl, rfl, rfl, rfl, h1, by rw [brimming_bytes]; decide, h2, ?_⟩
    rcases h with rfl | rfl <;> rfl

theorem witness_ControlFlow : (∃ s, InStrip s ∧ s.x 1 = s.x 2 ∧ s.x 1 ≠ s.x 3 ∧ atRecord s (s.regs.pc + 4) = false) ∧
    (∃ s, Traps s ∧ AtConvoy s ∧ (s.x 1).toNat % 4 ≠ 0) ∧
    (∃ s, Traps s ∧ AtConvoy s ∧ (s.x 1).toNat % 4 = 0 ∧ atRecord s (s.x 1) = true ∧ queuesEmpty s.regs = true ∧
      commitWait s = none) ∧
    (∃ s, Traps s ∧ AtConvoy s ∧ (s.x 1).toNat % 4 = 0 ∧ atRecord s (s.x 1) = true ∧ queuesEmpty s.regs = false) ∧
    ∀ q, q = [] ∨ q = [(⟨.bits, #[]⟩ : Tile)] → ∃ s, Traps s ∧ AtConvoy s ∧ atRecord s (s.regs.pc + 2 <<< 2) = true ∧ s.x 1 = s.x 2 ∧
      s.x 1 ≠ s.x 3 ∧ queuesEmpty s.regs = decide (q = []) ∧ commitWait s = none :=
  ⟨⟨withX 1 1 2, x_strip .., rfl, by decide, by decide⟩, ⟨withX 2 0 0, x_traps .., x_convoy .., by decide⟩,
    ⟨withX 0x100000 0 0, x_traps .., x_convoy .., by decide, by decide, rfl, rfl⟩,
    ⟨tags .f32 .f32 .f32 0x100000 0 0, ⟨rfl, rfl, (by decide : (1 : BitVec 47) ≠ 0)⟩, ⟨rfl, rfl, rfl⟩, by decide, by decide, rfl⟩,
    fun q h => ⟨{ at_ (fun r => { r with x := r.x.set 3 1, queues := r.queues.set 0 q }) with gangs := [(1, { gang with record := 8 })] },
      ⟨rfl, rfl, (by decide : (1 : BitVec 47) ≠ 0)⟩, ⟨rfl, rfl, rfl⟩, rfl, rfl, (by decide : (0 : XWord) ≠ 1), by
        rcases h with rfl | rfl <;> rfl, rfl⟩⟩

theorem witness_FloatResults : ∃ s, InStrip s ∧ (3 : BitVec 5).toNat < 4 := ⟨withX 1 2 3, x_strip .., by decide⟩

theorem port_up (s : State) {pa : Nat} (h : pa < Config.auditBase) : PortUp s pa :=
  ⟨fun c => absurd c.1 (by have : Config.auditBase ≤ Config.peerBase := by decide
                           omega), fun c => absurd c.1 (by omega)⟩

theorem witness_Atomics : (∃ s, InStrip s ∧ OrderedAt s .read (s.x 1) 4 4 0x200040 ∧ OrderedAt s .read (s.x 1) 8 4 0x200040) ∧
    ∃ s, MayCommit s ∧ Memory.wf s.mem = true ∧ PortUp s 0x200040 ∧ OrderedAt s.committed .write (s.x 1) 8 4 0x200040 ∧
      OrderedAt s.committed .update (s.x 1) 8 4 0x200040 ∧ OrderedAt s.committed .update (s.x 1) 4 4 0x200040 := by
  have h : ∀ a n, (a = .write ∨ a = .update) → (n = 4 ∨ n = 8) → OrderedAt (withX 0x40 0 0).committed a 0x40 n 4 0x200040 := by
    rintro a n (rfl | rfl) (rfl | rfl) <;> exact of_addr (by decide +kernel)
  exact ⟨⟨withX 0x40 0 0, x_strip .., of_addr (by decide +kernel), of_addr (by decide +kernel)⟩,
    ⟨withX 0x40 0 0, x_commit .., by decide +kernel, port_up _ (by decide), h _ _ (.inl rfl) (.inr rfl), h _ _ (.inr rfl) (.inr rfl),
      h _ _ (.inr rfl) (.inl rfl)⟩⟩

theorem witness_Commits : (∃ s, MayCommit s ∧ -2 ^ 56 ≤ (s.x 1).toInt ∧ (s.x 1).toInt < 2 ^ 56) ∧
    (∃ s, MayCommit s ∧ Traps s ∧ (s.x 1).toInt = 2 ^ 56) ∧
    (∃ s : State, s.written.length = 2 ∧
      ∀ w ∈ s.written, w.by_ = .hart s.cur ∨ s.written.length ≤ s.hart.fenced.toList.getD (w.by_.level s.cur) 0) ∧
    (∃ s : State, Memory.wf s.mem = true ∧ Writer.hart 8 ≠ .hart s.cur ∧
      s.hart.fenced.toList.getD ((Writer.hart 8).level s.cur) 0 = s.written.length) ∧
    ∃ s : State, s.regs.storeBuf ≠ [] ∧ Memory.wf s.mem = true ∧ ∀ t ∈ s.regs.storeBuf, t.sp = false → PortUp s t.addr ∧
      ∀ u ∈ partUnits t.addr t.data.length, mget? s.badUnits u = none ∨ mget? s.badUnits u = some 3 := by
  refine ⟨⟨withX 0x40 0 0, x_commit .., by decide, by decide⟩,
    ⟨withX 0x100000000000000 0 0, x_commit .., x_traps .., by decide⟩,
    ⟨{ with_ (fun h => { h with fenced := Vector.replicate 5 2 }) with
        written := [⟨.hart 8, 0x200000, [0], [1]⟩, ⟨.hart 0, 0x200000, [0], [0]⟩] }, rfl, by decide⟩,
    ⟨up, by decide +kernel, by decide, by decide⟩,
    ⟨at_ (fun r => { r with storeBuf := [⟨false, 0x200041, [1], 0x41⟩] }), by decide, by decide +kernel, ?_⟩⟩
  intro t ht _
  have : t = ⟨false, 0x200041, [1], 0x41⟩ := by simpa [at_, with_, State.regs] using ht
  subst this
  exact ⟨port_up _ (by decide), fun u _ => .inl rfl⟩

theorem witness_Barriers : ∃ s g, MayCommit s ∧ mget? s.gangs s.hart.gang = some g ∧ (s.x 1).toNat < 16 ∧
    mgetD (g.barrier 15).arrived s.hart.memberIdx 0 + 1 ≤ (g.barrier 15).completed + 2 ∧
    (s.x 2).toNat ≤ (g.barrier 15).completed ∧ (g.barrier 15).completed < (s.x 3).toNat :=
  ⟨withX 15 0 1, gang, x_commit .., rfl, by decide, by decide, by decide, by decide⟩

theorem witness_Claims : (∃ s, MayCommit s ∧ Traps s ∧ s.hart.vlmax ≠ 0 ∧ s.x 3 = 0) ∧ ∃ s, MayCommit s ∧ Memory.wf s.mem = true ∧ PortUp s 0x200040 ∧ s.hart.vlmax ≠ 0 ∧
    OrderedAt s.committed .update (s.x 1) 16 4 0x200040 ∧ (s.x 2).toNat ≠ 0 :=
  ⟨⟨withX 0 0 0, x_commit .., x_traps .., by decide, rfl⟩,
    ⟨withX 0x40 5 0, x_commit .., by decide +kernel, port_up _ (by decide), by decide, of_addr (by decide +kernel), by decide⟩⟩

/-- A hart on a core with some lane groups and waiting harts. -/
def lanes (timed : Bool) (n : Nat) (l : List (Option Nat)) (w : List (Nat × Nat)) : State :=
  let s := with_ (fun h => { h with timed := timed, laneReq := n })
  { s with cores := [(0, { s.coreAt 0 with lanes := Vector.ofFn (fun i : Fin 4 => l.getD i.val none), laneWait := w })] }

theorem witness_LanesTaken :
    let free := fun (s : State) => (s.core.lanes.toList.filter (fun l => l = none ∨ (s.hart.timed = false ∧ l = some s.slotId))).length
    let holds := fun (s : State) => (s.core.lanes.toList.filter (fun l => l = some s.slotId)).length
    (∃ s : State, s.hart.steward = false ∧ s.hart.timed = false ∧ ∃ w ∈ s.core.laneWait, w.1 ≠ s.slotId) ∧
    (∃ s : State, s.hart.steward = false ∧ s.hart.timed = false ∧ (∀ w ∈ s.core.laneWait, w.1 = s.slotId) ∧ free s = 0) ∧
    (∃ s : State, s.hart.steward = false ∧ s.hart.timed = false ∧ (∀ w ∈ s.core.laneWait, w.1 = s.slotId) ∧ free s ≠ 0) ∧
    (∃ s : State, s.hart.timed = true ∧ s.hart.laneReq ≤ holds s) ∧
    (∃ s : State, s.hart.timed = true ∧ holds s < s.hart.laneReq ∧ s.hart.laneReq ≤ holds s + free s) ∧
    ∃ s : State, s.hart.timed = true ∧ holds s + free s < s.hart.laneReq :=
  ⟨⟨lanes false 2 [] [(1, 0)], rfl, rfl, (1, 0), by decide, by decide⟩,
    ⟨lanes false 2 [some 1, some 1, some 2, some 3] [], rfl, rfl, by decide, by decide⟩,
    ⟨lanes false 2 [some 0] [], rfl, rfl, by decide, by decide⟩, ⟨lanes true 1 [some 0] [], rfl, by decide⟩,
    ⟨lanes true 4 [some 0] [], rfl, by decide, by decide⟩, ⟨lanes true 2 [some 0, some 1, some 1, some 1] [], rfl, by decide⟩⟩

/-- Virtual address 0 on is mapped to the window of peer 0. -/
def peered : State :=
  { up with
    mem := memWriteN up.mem 0x2000 (leBytes 8 (Config.peerBase + 0x1F))
    ctxs := [(0, { loadedContext with grant := loadedContext.grant.map (fun g => { g with peers := 1 }) })] }

theorem witness_TimeAndAddressWaits : ∃ s, MayCommit s ∧ OrderedAt s.committed .read (s.x 1) 8 4 0x200040 ∧
    xword (leNat (memReadN s.committed.mem 0x200040 8)) = s.x 2 ∧ xword (leNat (memReadN s.committed.mem 0x200040 8)) ≠ s.x 3 :=
  ⟨withX 0x40 0 5, x_commit .., of_addr (by decide +kernel), by decide +kernel, by decide +kernel⟩

theorem witness_Atomics_waitaddr : ∃ s, MayCommit s ∧ Traps s ∧ ∃ u, access s.committed .read (s.x 1) 8 0 = .ok (Config.peerBase, u) :=
  ⟨peered, ⟨rfl, ⟨rfl, rfl, rfl⟩, rfl, rfl⟩, ⟨rfl, rfl, (by decide : (1 : BitVec 47) ≠ 0)⟩, of_addr (by decide +kernel)⟩

/-- x1 and x2 of a hart that holds an arrival record and a ticket. -/
def waiter (a b : XWord) (st : Option XWord) (eft : Bool) : State :=
  with_ (fun h => {
    h with
    arrivals := [⟨7, 3, 64⟩], stampx := 3, tickets := [⟨9, 0, st⟩], eft := eft
    regs := { h.regs with x := (h.regs.x.set 1 a).set 2 b } })

theorem waiter_commit (a b : XWord) (st : Option XWord) (e : Bool) : MayCommit (waiter a b st e) := ⟨rfl, ⟨rfl, rfl, rfl⟩, rfl, rfl⟩
theorem waiter_traps (a b : XWord) (st : Option XWord) (e : Bool) : Traps (waiter a b st e) :=
  ⟨rfl, rfl, (by decide : (1 : BitVec 47) ≠ 0)⟩

theorem witness_RowTransfers :
    (∃ (s : State) (g : Gang), MayCommit s ∧ mget? s.gangs s.hart.gang = some g ∧ 1 < g.size ∧ s.holds = true ∧
      (s.x 1).toNat = 2 ^ 15 + 2 ^ 36 ∧ 64 * (0 + 1) ≤ s.core.request ∧ 64 * (0 + 1) ≤ (s.coreAt (mgetD g.members 1 0 / 8)).request ∧
      (s.coreAt (mgetD g.members 1 0 / 8)).holder ≠ none) ∧
    (∃ (s : State) (g : Gang), MayCommit s ∧ Traps s ∧ mget? s.gangs s.hart.gang = some g ∧ (s.x 1).toNat / 2 ^ 36 = g.size) ∧
    (∃ (s : State) (g : Gang), MayCommit s ∧ mget? s.gangs s.hart.gang = some g ∧ s.holds = true ∧ (s.x 1).toNat = 2 ^ 15 + 2 ^ 36 ∧
      64 * (0 + 1) ≤ s.core.request ∧ mgetD g.members 1 0 ≠ s.cur ∧ (s.hartAt 8).gang = s.hart.gang ∧ (s.hartAt 8).memberIdx = 1 ∧
      (s.hartAt 8).live = .stopped) ∧
    (∃ (s : State) (r : Arrival), MayCommit s ∧ s.hart.arrivals.find? (fun r => r.slot == s.x 1) = some r ∧ r.stamp = s.hart.stampx) ∧
    (∃ s : State, MayCommit s ∧ Traps s ∧ s.hart.arrivals.find? (fun r => r.slot == s.x 1) = none) ∧
    (∃ (s : State) (r : Arrival), MayCommit s ∧ Traps s ∧ s.hart.arrivals.find? (fun r => r.slot == s.x 1) = some r ∧
      r.stamp ≠ s.hart.stampx) ∧
    (∃ (s : State) (g : Gang), MayCommit s ∧ Traps s ∧ mget? s.gangs s.hart.gang = some g ∧ (s.x 1).toNat = 2 ^ 36 + 32767 ∧
      1 < g.size ∧ s.holds = true ∧ s.core.request < 64 * (32767 + 64)) ∧
    ∃ (s : State) (g : Gang), MayCommit s ∧ Traps s ∧ mget? s.gangs s.hart.gang = some g ∧ (s.x 1).toNat = 2 ^ 21 * 32767 + 2 ^ 36 ∧
      1 < g.size ∧ s.holds = true ∧ 64 * (0 + 64) ≤ s.core.request ∧ (s.hartAt (mgetD g.members 1 0)).live ≠ .stopped ∧
      (s.coreAt (mgetD g.members 1 0 / 8)).holder ≠ none ∧ (s.coreAt (mgetD g.members 1 0 / 8)).request < 64 * (32767 + 64) :=
  ⟨⟨withX 0x1000008000 5 0, gang, x_commit .., rfl, by decide, rfl, by decide, by decide, by decide, by decide⟩,
    ⟨withX 0x2000000000 0 0, gang, x_commit .., x_traps .., rfl, by decide⟩,
    ⟨{ withX 0x1000008000 5 0 with harts := [(8, { Hart.initial with live := .stopped, gang := 1, memberIdx := 1 })] }, gang,
      ⟨rfl, ⟨rfl, rfl, rfl⟩, rfl, rfl⟩, rfl, rfl, by decide, by decide, by decide, rfl, rfl, rfl⟩,
    ⟨waiter 7 0 none false, _, waiter_commit .., rfl, rfl⟩, ⟨waiter 8 0 none false, waiter_commit .., waiter_traps .., rfl⟩,
    ⟨with_ (fun h => { h with arrivals := [⟨0, 4, 1⟩] }), _, ⟨rfl, ⟨rfl, rfl, rfl⟩, rfl, rfl⟩,
      ⟨rfl, rfl, (by decide : (1 : BitVec 47) ≠ 0)⟩, rfl, by decide⟩,
    ⟨withX 0x1000007FFF 0 0, gang, x_commit .., x_traps .., rfl, by decide, by decide, rfl, by decide⟩,
    ⟨withX (0x1000000000 + 32767 <<< 21) 0 0, gang, x_commit .., x_traps .., rfl, by decide, by decide, rfl, by decide, by decide,
      by decide, by decide⟩⟩

/-- A specification of two members, each of which asks for one lane group and waits for ticket 9. -/
def spec2 : BitVec 512 := BitVec.ofNat 512 (0x2000 + 2 * 2 ^ 64 + 2 ^ 80 + 9 * 2 ^ 256)

theorem witness_Launches :
    (∃ s : State, MayCommit s ∧ s.hart.steward = false ∧ Readable s.committed (s.x 1) 64 0x200040 ∧ (s.x 1).toNat % 64 = 0 ∧
      specBad (BitVec.ofNat 512 (leNat (memReadN s.committed.mem 0x200040 64))) = false ∧
      (∀ v ∈ (specDeps (BitVec.ofNat 512 (leNat (memReadN s.committed.mem 0x200040 64)))).filter (· ≠ 0),
        (s.hart.tickets.find? (fun t => t.value.toNat = v)).isSome = true)) ∧
    ∃ s : State, s.hart.tickets ≠ [] ∧ s.hart.tickets.length ≤ 64 := by
  let s := waiter 0x40 0 none false
  exact ⟨⟨{ s with mem := memWriteN s.mem 0x200040 (leBytes 64 spec2.toNat) }, ⟨rfl, ⟨rfl, rfl, rfl⟩, rfl, rfl⟩, rfl,
    readable_of (by decide +kernel), by decide, by decide +kernel, by decide +kernel⟩,
    ⟨waiter 0 0 none false, by decide, by decide⟩⟩

theorem witness_ControlRegisters : (∃ s, InStrip s) ∧ (∃ s, InStrip s ∧ s.hart.steward = true) ∧ ∃ s, MayCommit s :=
  ⟨⟨withX 1 2 3, x_strip ..⟩, ⟨with_ (fun h => { h with steward := true }), strip_of rfl rfl rfl, rfl⟩, ⟨withX 1 2 3, x_commit ..⟩⟩

theorem witness_TrapsTaken : (∃ s, Traps s ∧ MayCommit s) ∧
    (∀ l : Fin 2, ∃ s : State, s.hart.tl = 1 + l.val ∧ (if s.hart.tl = 2 then s.hart.t2 else s.hart.t1).tp.toNat % 4 = 2 ∧
      s.hart.steward = false ∧ AtConvoy s ∧ s.hart.thb ≠ 0) ∧
    (∃ s : State, s.hart.tl = 1 ∧ s.hart.t1.tp.toNat % 4 = 0 ∧ atRecord s (s.hart.t1.tp.signExtend 64) = false) ∧
    (∃ s : State, s.hart.tl = 2 ∧ s.hart.t2.tp.toNat % 4 = 0 ∧ atRecord s (s.hart.t2.tp.signExtend 64) = false) ∧ decodeMember 0 = .error .unlisted :=
  ⟨⟨withX 0 0 0, x_traps .., x_commit ..⟩,
    fun l => ⟨with_ (fun h => { h with tl := 1 + l.val, t1 := { h.t1 with tp := 2 }, t2 := { h.t2 with tp := 2 } }), rfl,
      by revert l; decide, rfl, ⟨rfl, rfl, rfl⟩, (by decide : (1 : BitVec 47) ≠ 0)⟩,
    ⟨with_ (fun h => { h with tl := 1 }), rfl, by decide, by decide⟩,
    ⟨with_ (fun h => { h with tl := 2 }), rfl, by decide, by decide⟩, by decide⟩

/-- A steward hart with a descriptor at 0x1000. -/
def steward (v : Nat) : State :=
  let s := State.reset.atSteward 0
  { s with
    hart := { s.hart with regs := { s.hart.regs with x := s.hart.regs.x.set 1 0x1000 } }, mem := memWriteN s.mem 0x1000 (leBytes 16 v) }

theorem steward_read (v : Nat) : Readable (steward v).committed 0x1000 16 0x1000 := ⟨_, rfl, rfl⟩

/-- No access waits while no link is down, no command runs and no pseudo-channel has been used. -/
theorem no_wait {s : State} (h1 : s.dev.linksDown = []) (h2 : s.cmds = []) (h3 : s.chans = []) (p : Nat) : accessWait s p = none := by
  simp [accessWait, linkWait, bankWait, h1, h2, h3, mget?]

theorem witness_StewardOperations :
    let desc := fun (s : State) => leNat (memReadN s.committed.mem 0x1000 16)
    (∃ s, MayCommit s ∧ s.hart.steward = true ∧ (s.x 1).toNat % 16 = 0 ∧ Readable s.committed (s.x 1) 16 0x1000 ∧
      desc s = 0x2000 * 2 ^ 64 ∧ (s.committed.hartAt 0).vn ≤ 32 ∧ 0 ≠ s.cur ∧ (s.committed.coreAt 0).clean = true ∧
      (∀ p, accessWait s.committed p = none) ∧ ∀ u, mget? s.committed.badUnits u = none) ∧
    (∃ s, MayCommit s ∧ s.hart.steward = true ∧ Readable s.committed (s.x 1) 16 0x1000 ∧ desc s = 0x2000 * 2 ^ 64 ∧
      accessWait s.committed (0x2000 / 128 * 128) = some .line ∧
      0x2000 < 0x2000 + imageLength (s.committed.ctxAt 0).key (memReadN s.committed.mem 0x2000 28)) ∧
    (∃ s, MayCommit s ∧ Readable s.committed (s.x 1) 16 0x1000 ∧ desc s = 0 ∧ (s.committed.coreAt 0).clean = false) ∧
    (∃ s, MayCommit s ∧ Readable s.committed (s.x 1) 16 0x1000 ∧ desc s = 0x2001 * 2 ^ 64) ∧
    (∃ s, MayCommit s ∧ Readable s.committed (s.x 1) 16 0x1000 ∧ desc s = 2 ^ 24 + 2 ^ 16 + 767) ∧
    (∃ s, MayCommit s ∧ Readable s.committed (s.x 1) 16 0x1000 ∧ desc s = 768) ∧
    (∃ s, MayCommit s ∧ Readable s.committed (s.x 1) 16 0x1000 ∧ desc s = 0 ∧ (s.committed.ctxAt 0).killed = false ∧
      (s.committed.ctxAt 0).state ≠ .free) ∧
    ∃ s, MayCommit s ∧ Readable s.committed (s.x 1) 16 0x1000 ∧ desc s = 0 ∧ (s.committed.ctxAt 0).killed = true :=
  ⟨⟨steward (0x2000 * 2 ^ 64), ⟨rfl, ⟨rfl, rfl, rfl⟩, rfl, rfl⟩, rfl, by decide, steward_read _, by decide +kernel, by decide +kernel,
      by decide, by decide +kernel, no_wait rfl rfl rfl, fun _ => rfl⟩,
    ⟨{ steward (0x2000 * 2 ^ 64) with cmds := [(0, ⟨0, 0, 0, 1, 0, 1, .mload, [0x2000 / 128], [], none⟩)] }, ⟨rfl, ⟨rfl, rfl, rfl⟩, rfl, rfl⟩, rfl,
      ⟨_, rfl, rfl⟩, by decide +kernel, by decide +kernel, Nat.lt_add_of_pos_right (Nat.lt_of_lt_of_le (by decide) (Nat.le_add_left 28 _))⟩,
    ⟨{ steward 0 with cores := [(0, { Core.initial with clean := false })] }, ⟨rfl, ⟨rfl, rfl, rfl⟩, rfl, rfl⟩, ⟨_, rfl, rfl⟩,
      by decide +kernel, rfl⟩,
    ⟨steward (0x2001 * 2 ^ 64), ⟨rfl, ⟨rfl, rfl, rfl⟩, rfl, rfl⟩, steward_read _, by decide +kernel⟩,
    ⟨steward (2 ^ 24 + 2 ^ 16 + 767), ⟨rfl, ⟨rfl, rfl, rfl⟩, rfl, rfl⟩, steward_read _, by decide +kernel⟩,
    ⟨steward 768, ⟨rfl, ⟨rfl, rfl, rfl⟩, rfl, rfl⟩, steward_read _, by decide +kernel⟩,
    ⟨{ steward 0 with ctxs := [(0, { Ctx.initial with state := .run })] }, ⟨rfl, ⟨rfl, rfl, rfl⟩, rfl, rfl⟩, ⟨_, rfl, rfl⟩,
      by decide +kernel, rfl, by decide⟩,
    ⟨{ steward 0 with ctxs := [(0, { Ctx.initial with killed := true })] }, ⟨rfl, ⟨rfl, rfl, rfl⟩, rfl, rfl⟩, ⟨_, rfl, rfl⟩,
      by decide +kernel, rfl⟩⟩

/-- No decode-time cause meets the members, each of which the strip lets end its convoy, and the queues hold what they read. -/
def Fit (s : State) (l : List Instr) (ops : List (Bool × BitVec 5)) : Prop :=
  (∀ i ∈ l, Allowed s i ∧ GoesOn s i) ∧ QueuesReady s ops

theorem fit_of {f g h : Fmt} {a b c : XWord} {l : List Instr} {ops : List (Bool × BitVec 5)}
    (hl : (l.all fun i => (memberCauses (tags f g h a b c) i (tags f g h a b c).regs.pc (pfxOf (tags f g h a b c).regs)).isEmpty) = true)
    (hq : (ops.all fun o => !o.1 || o.2 == 0) = true) : Fit (tags f g h a b c) l ops := by
  refine ⟨fun i hi => ⟨List.isEmpty_iff.1 (List.all_eq_true.1 hl i hi), t_goes ..⟩, fun _ o ho h1 _ => ?_⟩
  have := List.all_eq_true.1 hq o ho
  simp only [h1, Bool.not_true, Bool.false_or, beq_iff_eq] at this
  rw [this]; simp [tags, at_, with_, State.regs]

theorem witness_Declarations :
    let ok := fun v => v / 2 ^ 17 % 8 = 0 ∧ v / 2 ^ 22 % 4 = 0 ∧ v / 2 ^ 30 = 0 ∧ v / 2 ^ 24 % 2 ^ 6 ≤ 32 ∧
      (v / 2 ^ 24 % 2 ^ 6 ≠ 0 → 64 ≤ v % 2 ^ 17 ∧ v % 2 ^ 17 ≤ 65536)
    ∃ s, MayCommit s ∧ Traps s ∧ ok (s.x 1).toNat ∧ ok (s.x 2).toNat ∧ ¬ok (s.x 3).toNat :=
  ⟨withX (0x20300000 + 64) 0 0x2030003F, x_commit .., x_traps .., by decide, by decide, by decide⟩

theorem witness_ShapeAndTags : (∃ s, MayCommit s ∧ Traps s ∧ s.hart.vlmax ≠ 0 ∧ s.x 1 = 64 ∧ s.x 2 = 65 ∧ s.x 3 = 0) ∧
    (∃ s, MayCommit s ∧ Traps s ∧ s.hart.vlmax = 0) ∧
    ∃ s f, InStrip s ∧ s.hart.vlmax ≠ 0 ∧ Fmt.ofCode? (13 : BitVec 5).toNat = some f ∧ f.bytes ≤ declWidth s ∧
      (31 : BitVec 5).toNat % 2 ^ s.regs.gcode.toNat = 0 ∧ (31 : BitVec 5).toNat + 2 ^ s.regs.gcode.toNat ≤ s.hart.vn :=
  ⟨⟨withX 64 65 0, x_commit .., x_traps .., by decide, rfl, rfl, rfl⟩,
    ⟨with_ (fun h => { h with vlmax := 0 }), ⟨rfl, ⟨rfl, rfl, rfl⟩, rfl, rfl⟩, ⟨rfl, rfl, (by decide : (1 : BitVec 47) ≠ 0)⟩, rfl⟩,
    ⟨withX 0 0 0, _, x_strip .., by decide, rfl, by decide, by decide, by decide⟩⟩

theorem witness_Prefixes : (∃ s : State, s.regs.pend = none ∧ s.regs.pfxValid = false) ∧ ∃ s, Traps s ∧ MayCommit s ∧ s.regs.pfxValid = true :=
  ⟨⟨up, rfl, rfl⟩, ⟨at_ (fun r => { r with pfxValid := true }), ⟨rfl, rfl, (by decide : (1 : BitVec 47) ≠ 0)⟩,
    ⟨rfl, ⟨rfl, rfl, rfl⟩, rfl, rfl⟩, rfl⟩⟩

theorem witness_VectorMoves : ∃ s x y, source s true 0 = .ok x ∧ source s false 2 = .ok y ∧ x.fmt = y.fmt ∧
    destTag s 5 = .bits ∧ (destTag s 3).isInt = true ∧ (s.x 1).toNat < capacity s ∧ ¬(s.x 2).toNat < capacity s ∧
    Fit s [.vmv false 3 0 true true, .vbcast false 5 1 true, .vid false 3 true, .vidr false 5 true, .vsel false 0 0 2 false false true false,
      .vxtract false 4 0 1 true, .vinsert false 3 1 2] [(true, 0), (false, 2)] :=
  ⟨tags .i16 .i16 .u8 63 64 0, _, _, rfl, rfl, rfl, rfl, rfl, by decide, by decide, fit_of (by decide) (by decide)⟩

theorem witness_VectorIntegers :
    (∃ s x y, source s true 0 = .ok x ∧ source s false 2 = .ok y ∧ x.fmt.isInt = true ∧ opFormat [x.fmt, y.fmt] = some x.fmt ∧
      destFormat s true 3 x.fmt = .ok .i32 ∧
      Fit s [.vadd false 3 0 2 true true true false, .vsub false 3 0 2 true true true false, .vmul false 3 0 2 true false true false,
        .vmulh false 3 0 2 true false true false, .vmin false 3 0 2 true false true false, .vmax false 3 0 2 true false true false,
        .vsll false 3 0 2 true false true false, .vsrl false 3 0 2 true false true false, .vsra false 3 0 2 true false true false,
        .vdiv false 3 0 2 true false true false, .vrem false 3 0 2 true false true false, .vabs false 3 0 true false true,
        .vand false 3 0 2 true false true false, .vor false 3 0 2 true false true false, .vxor false 3 0 2 true false true false]
        [(true, 0), (false, 2)]) ∧
    (∃ s x y, source s true 0 = .ok x ∧ source s false 2 = .ok y ∧ x.fmt = .bits ∧ y.fmt = .bits ∧
      Fit s [.vand false 3 0 2 true false true false] [(true, 0), (false, 2)]) ∧
    ∃ s x y, source s true 0 = .ok x ∧ source s false 2 = .ok y ∧ x.fmt = .bits ∧ y.fmt.isInt = true ∧
      destFormat s true 3 y.fmt = .ok .u8 ∧ opFormat ([x.fmt, y.fmt].filter (· ≠ .bits)) = some y.fmt ∧
      Fit s [.vxor false 3 0 2 true false true false] [(true, 0), (false, 2)] :=
  ⟨⟨tags .i16 .i16 .i32 0 0 0, _, _, rfl, rfl, rfl, rfl, rfl, fit_of (by decide) (by decide)⟩,
    ⟨tags .bits .bits .bits 0 0 0, _, _, rfl, rfl, rfl, rfl, fit_of (by decide) (by decide)⟩,
    ⟨tags .bits .i64 .u8 0 0 0, _, _, rfl, rfl, rfl, rfl, rfl, rfl, fit_of (by decide) (by decide)⟩⟩

theorem witness_VectorMasks :
    (∃ s x y f, source s true 0 = .ok x ∧ source s false 2 = .ok y ∧ opFormat [x.fmt, y.fmt] = some f ∧ f.isInt = true ∧
      Fit s [.vcmpeq false 7 0 2 true true false, .vcmplt false 7 0 2 true true false, .vcmple false 7 0 2 false true false]
        [(true, 0), (false, 2)]) ∧
    (∃ s x y f, source s true 0 = .ok x ∧ source s false 2 = .ok y ∧ opFormat [x.fmt, y.fmt] = some f ∧ f.isFloat = true ∧
      Fit s [.vfcmpeq false 7 0 2 true true false, .vfcmplt false 7 0 2 true true false, .vfcmple false 7 0 2 false true false]
        [(true, 0), (false, 2)]) ∧
    ∃ s, (destTag s 3).isInt = true ∧ 2 ≤ (destTag s 3).bytes ∧ destTag s 4 = .bits ∧
      Fit s [.vmand false 7 0 1, .vmor false 7 0 1, .vmxor false 7 0 1, .vmnot false 7 0, .vmset false 7 1, .vmpop false 4 7,
        .vmffsr false 4 7, .vmffs false 3 7, .vmffs false 4 7] [] :=
  ⟨⟨tags .u8 .u8 .bits 0 0 0, _, _, _, rfl, rfl, rfl, rfl, fit_of (by decide) (by decide)⟩,
    ⟨tags .f16 .f16 .bits 0 0 0, _, _, _, rfl, rfl, rfl, rfl, fit_of (by decide) (by decide)⟩,
    ⟨tags .u8 .u8 .i16 2 0 0, rfl, by decide, rfl, fit_of (by decide) (by decide)⟩⟩

theorem witness_VectorFloats : ∃ s x y f c, source s true 0 = .ok x ∧ source s false 2 = .ok y ∧ f.isFloat = true ∧ x.fmt = f ∧
    destFormat s true 3 f = .ok f ∧ opFormat [x.fmt, y.fmt] = some f ∧ groupSource s 3 (groupFactor s.regs) = .ok c ∧
    opFormat [x.fmt, y.fmt, c.fmt] = some f ∧ destTag s 4 = .bits ∧
    Fit s [.vfadd false 3 0 2 true true true false, .vfsub false 3 0 2 true true true false, .vfmul false 3 0 2 true true true false,
      .vfdiv false 3 0 2 true true true false, .vfmin false 3 0 2 true true true false, .vfmax false 3 0 2 true true true false,
      .vfsqrt false 3 0 true true true, .vfrcp false 3 0 true true true, .vfexp2 false 3 0 true true true, .vflog2 false 3 0 true true true,
      .vfma false 3 0 2 true true false, .vfclass false 4 0 true true true] [(true, 0), (false, 2)] :=
  ⟨tags .bf16 .bf16 .bf16 0 0 0, _, _, .bf16, _, rfl, rfl, rfl, rfl, rfl, rfl, rfl, rfl, rfl, fit_of (by decide) (by decide)⟩

theorem witness_VectorPairs :
    (∃ s x y f, source s true 0 = .ok x ∧ source s false 2 = .ok y ∧ opFormat [x.fmt, y.fmt] = some f ∧ f.isFloat = true ∧
      destTag s 4 = .bits ∧
      Fit s [.vfaddX false 4 0 2 true true false, .vfsubX false 4 0 2 true true false, .vfmulX false 4 0 2 true true false]
        [(true, 0), (false, 2)]) ∧
    (∃ s x y f, groupSource s 2 (2 * groupFactor s.regs) = .ok x ∧ groupSource s 2 (2 * groupFactor s.regs) = .ok y ∧ x.fmt = f ∧
      y.fmt = f ∧ f.isFloat = true ∧ destTag s 4 = .bits ∧
      Fit s [.vdwadd false 4 2 2 true, .vdwmul false 4 2 2 true, .vdwnorm false 4 2 true, .vredsumX false 4 2 true] []) ∧
    ∃ s x y f, source s true 0 = .ok x ∧ source s false 2 = .ok y ∧ opFormat [x.fmt, y.fmt] = some f ∧ f.isInt = true ∧ f.bytes ≠ 8 ∧
      Fit s [.vwmac false 4 0 2 true true false] [(true, 0), (false, 2)] :=
  ⟨⟨tags .f32 .f32 .bits 0 0 0, _, _, _, rfl, rfl, rfl, rfl, rfl, fit_of (by decide) (by decide)⟩,
    ⟨tags .f16 .f16 .f16 0 0 0, _, _, .f16, rfl, rfl, rfl, rfl, rfl, rfl, fit_of (by decide) (by decide)⟩,
    ⟨tags .i32 .i32 .bits 0 0 0, _, _, _, rfl, rfl, rfl, rfl, by decide, fit_of (by decide) (by decide)⟩⟩

theorem witness_VectorConversions :
    (∃ s x, source s true 0 = .ok x ∧ x.fmt ≠ .bits ∧ destTag s 3 ≠ .bits ∧ Fit s [.vcvt false 3 0 true true] [(true, 0)]) ∧
    (∃ s x, source s true 0 = .ok x ∧ x.fmt.isFloat = true ∧ destTag s 4 = .bits ∧ destTag s 3 = .e8 ∧
      Fit s [.vscale false 4 0 1 true true, .vscale false 3 0 8 true true, .vscale false 3 0 11 false true, .vscale false 4 0 12 true true]
        [(true, 0)]) ∧
    (∃ s x y, source s true 0 = .ok x ∧ source s false 2 = .ok y ∧ y.fmt = .e8 ∧ x.fmt.isFloat = true ∧ destTag s 3 = .t6 ∧
      Fit s [.vquant false 3 0 2 true true false] [(true, 0), (false, 2)]) ∧
    ∃ s x y, source s true 0 = .ok x ∧ source s false 2 = .ok y ∧ y.fmt = .e8 ∧ x.fmt = .i8 ∧ (destTag s 3).isFloat = true ∧
      Fit s [.vdeq false 3 0 2 true true false] [(true, 0), (false, 2)] :=
  ⟨⟨tags .e8 .i8 .i64 0 0 0, _, rfl, by decide, by decide, fit_of (by decide) (by decide)⟩,
    ⟨tags .f32 .i8 .e8 0 0 0, _, rfl, rfl, rfl, rfl, fit_of (by decide) (by decide)⟩,
    ⟨tags .f32 .e8 .t6 0 0 0, _, _, rfl, rfl, rfl, rfl, rfl, fit_of (by decide) (by decide)⟩,
    ⟨tags .i8 .e8 .f32 0 0 0, _, _, rfl, rfl, rfl, rfl, rfl, fit_of (by decide) (by decide)⟩⟩

theorem witness_Permutes : ∃ s x y, source s false 2 = .ok y ∧ source s true 0 = .ok x ∧ x.fmt.isInt = true ∧
    (s.x 1).toNat = 0 ∧ (s.x 2).toNat = 64 ∧
    Fit s [.vgather false 4 2 0 true true, .vslideup false 4 0 1 true true true, .vslidedn false 4 0 2 true true true,
      .vrev false 4 0 true true true, .vcompress false 4 0 7 true true, .vexpand false 4 0 7 true true] [(true, 0)] :=
  ⟨tags .u16 .f16 .bits 0 64 0, _, _, rfl, rfl, rfl, rfl, rfl, fit_of (by decide) (by decide)⟩

theorem witness_Reductions :
    (∃ s x, source s true 0 = .ok x ∧ destFormat s true 3 x.fmt = .ok .i64 ∧ x.fmt.isInt = true ∧
      Fit s [.vredsum false 3 0 true true, .vredmax false 3 0 true true, .vredmin false 3 0 true true, .vredand false 3 0 true true,
        .vredor false 3 0 true true] [(true, 0)]) ∧
    (∃ s x, source s true 0 = .ok x ∧ destFormat s true 3 x.fmt = .ok .f32 ∧ x.fmt.isFloat = true ∧
      Fit s [.vredsum false 3 0 true true, .vredmax false 3 0 true true, .vredmin false 3 0 true true] [(true, 0)]) ∧
    ∃ s x, source s true 0 = .ok x ∧ x.fmt = .bits ∧ Fit s [.vredand false 3 0 true true, .vredor false 3 0 true true] [(true, 0)] :=
  ⟨⟨tags .i32 .f16 .i64 0 0 0, _, rfl, rfl, rfl, fit_of (by decide) (by decide)⟩,
    ⟨tags .f32 .f16 .f32 0 0 0, _, rfl, rfl, rfl, fit_of (by decide) (by decide)⟩,
    ⟨tags .bits .f16 .bits 0 0 0, _, rfl, rfl, fit_of (by decide) (by decide)⟩⟩

theorem witness_Scans :
    (∃ s x c, source s true 0 = .ok x ∧ x.fmt.isFloat = true ∧ combineOf s .sum 3 (pfxOf s.regs) x = .ok c ∧
      Fit s [.vscansum false 3 0 0 true true, .vscansum false 3 0 1 true true, .vsegsum false 3 0 7 true true] [(true, 0)]) ∧
    (∃ s x c, source s true 0 = .ok x ∧ x.fmt.isInt = true ∧ combineOf s .max 3 (pfxOf s.regs) x = .ok c ∧
      Fit s [.vscanmax false 3 0 0 true true, .vsegmax false 3 0 0 true true] [(true, 0)]) ∧
    ∃ s x c, source s true 0 = .ok x ∧ x.fmt.isInt = true ∧ combineOf s .and 3 (pfxOf s.regs) x = .ok c ∧ Fit s [.vscanand false 3 0 0 true true] [(true, 0)] :=
  ⟨⟨tags .f32 .f16 .f32 7 0 0, _, _, rfl, rfl, rfl, fit_of (by decide) (by decide)⟩,
    ⟨tags .i32 .f16 .i64 7 0 0, _, _, rfl, rfl, rfl, fit_of (by decide) (by decide)⟩,
    ⟨tags .u16 .f16 .u16 7 0 0, _, _, rfl, rfl, rfl, fit_of (by decide) (by decide)⟩⟩

/-- The elements that a load or store of this form places, in order. -/
def places (s : State) (form : VForm) (o : Bool) (f : Fmt) (a b : BitVec 5) (ix : Nat → Int) : List Place :=
  (activeIndices s (pfxOf s.regs)).map (fun j => placeOf s form o (f == .t6) (s.x a).toNat (s.x b).toInt (fmtWidth s f) (ix j) j)

def zeros (n : Nat) : Place → List Byte := fun _ => List.replicate n 0

theorem witness_VectorLoads :
    (∃ s, destTag s 3 = .i32 ∧ (∃ x, groupSource s 2 (groupFactor s.regs) = .ok x ∧ x.fmt = .i64) ∧
      (∃ u, ReadInTurn false 4 (zeros 4) s (places s .unit false .i32 1 0 (fun _ => 0)) u) ∧
      (∃ u, ReadInTurn false 4 (zeros 4) s (places s .strided false .i32 1 2 (fun _ => 0)) u) ∧
      (∃ u, ReadInTurn false 4 (zeros 4) s (places s .indexed false .i32 1 2 (fun _ => 0)) u) ∧
      (∃ u, ReadInTurn false 4 (zeros 4) s (places s .block false .i32 1 2 (fun _ => 0)) u) ∧
      Fit s [.vld false 3 1 false false false, .vlds false 3 1 2 false false false, .vldx false 3 1 2 false false false,
        .vldb false 3 1 2 false false false] []) ∧
    (∃ s u, destTag s 3 = .t6 ∧ ReadInTurn false 1 (zeros 1) s ((places s .unit false .t6 1 0 (fun _ => 0)).flatMap (fun e =>
        (span 0 3).map (fun j => { e with addr := e.addr + (j : Nat) }))) u ∧ Fit s [.vld false 3 1 false false false] []) ∧
    ∃ s u, s.regs.qtags.toList.getD 1 .bits = .bits ∧ (s.regs.queues.toList.getD 1 []).length < 4 ∧
      ReadInTurn true 8 (zeros 8) s (places s .unit true .bits 1 0 (fun _ => 0)) u ∧
      ReadInTurn true 8 (zeros 8) s (places s .strided false .bits 1 2 (fun _ => 0)) u ∧
      Fit s [.vld false 1 1 true true true, .vlds false 1 1 2 true false true] [] :=
  ⟨⟨tags .i16 .i64 .i32 0xFF8 4 0, rfl, ⟨_, rfl, rfl⟩, ⟨_, _, _, rfl, rfl, rfl, _, _, rfl, rfl, rfl, rfl⟩,
      ⟨_, _, _, rfl, rfl, rfl, _, _, rfl, rfl, rfl, rfl⟩, ⟨_, _, _, rfl, rfl, rfl, _, _, rfl, rfl, rfl, rfl⟩,
      ⟨_, _, _, rfl, rfl, rfl, _, _, rfl, rfl, rfl, rfl⟩, fit_of (by decide) (by decide)⟩,
    ⟨tags .i16 .i64 .t6 0xFFD 4 0, _, rfl, ⟨_, _, rfl, rfl, rfl, _, _, rfl, rfl, rfl, _, _, rfl, rfl, rfl, _, _, rfl, rfl, rfl,
      _, _, rfl, rfl, rfl, _, _, rfl, rfl, rfl, rfl⟩, fit_of (by decide) (by decide)⟩,
    ⟨tags .i16 .i64 .i16 0x38 0x1FFFC0 0, _, rfl, by decide,
      ⟨⟨by decide, by decide, by decide, rfl, by decide⟩, rfl, ⟨by decide, by decide, by decide, rfl, by decide⟩, rfl, rfl⟩,
      ⟨⟨by decide, by decide, by decide, rfl, by decide⟩, rfl, ⟨by decide, by decide, by decide, rfl, by decide⟩, rfl, rfl⟩,
      fit_of (by decide) (by decide)⟩⟩

/-- As `tags`, with a row of two tokens to commit. -/
def committing : State :=
  let s := tags .u32 .i16 .u16 0x40 4 0
  s.setRegs { s.regs with vregs := s.regs.vregs.set 2 ⟨⟨.i16, Array.replicate 64 2⟩, none⟩ }

theorem witness_VectorStores :
    (∃ s x u out, groupSource s 3 (groupFactor s.regs) = .ok x ∧ x.fmt = .u16 ∧
      StoredInTurn false s ((places s .unit false .u16 1 0 (fun _ => 0)).map (fun e => (e, leBytes 2 (x.get e.i).toNat))) out u ∧
      InStrip u ∧ Fit s [.vst false 3 1 false false, .vsts false 3 1 2 false false, .vstx false 3 1 2 false false] []) ∧
    (∃ s x u out, groupSource s 3 (groupFactor s.regs) = .ok x ∧ x.fmt = .t6 ∧
      StoredInTurn true s ((packUnits x.get (places s .unit false .t6 1 0 (fun _ => 0))).flatMap (fun c =>
        (span 0 3).map (fun j => (({ c.1 with addr := c.1.addr + (j : Nat) } : Place), [BitVec.ofNat 8 (c.2 / 256 ^ j)])))) out u ∧
      InStrip u ∧ Fit s [.vst false 3 1 true false] []) ∧
    ∃ s x y c, source s true 0 = .ok x ∧ groupSource s 2 (groupFactor s.regs) = .ok y ∧ x.fmt = .u32 ∧ y.fmt.isInt = true ∧
      consume s [(true, 0)] = .ok c ∧ Fit s [.vcommitm false 1 0 2 true] [(true, 0)] ∧ InStrip s ∧
      (span 0 s.regs.vr).filter (fun r => predicate s (pfxOf s.regs) (r * rowSize s) &&
        decide (0 < min (y.fmt.int (y.get (r * rowSize s))).toNat s.regs.vl)) = [0] ∧
      let place := fun n va => ({ i := 0, k := n, addr := va, col := none, slot := 0 } : Place)
      ∃ c1 c2 out u, ReadInTurn false 8 (zeros 8) c [place 0 0x40] c1 ∧ ReadInTurn false 8 (zeros 8) c1 [place 0 0x48] c2 ∧
        StoredInTurn false c2 [(place 0 0, leBytes 4 (x.get 0).toNat), (place 1 4, leBytes 4 (x.get 1).toNat), (place 0 0x48, leBytes 8 2)]
          out u ∧ InStrip u :=
  ⟨⟨tags .i16 .i64 .u16 0xFFC 4 0, _, _, _, rfl, rfl, ⟨_, _, rfl, _, rfl, _, _, rfl, _, rfl, rfl, rfl⟩,
      ⟨rfl, rfl, by decide⟩, fit_of (by decide) (by decide)⟩,
    ⟨tags .i16 .i64 .t6 61 4 0, _, _, _, rfl, rfl, ⟨⟨by decide, by decide, by decide, rfl, by decide⟩, _, rfl,
      ⟨by decide, by decide, by decide, rfl, by decide⟩, _, rfl, ⟨by decide, by decide, by decide, rfl, by decide⟩, _, rfl, rfl, rfl⟩,
      ⟨rfl, rfl, by decide⟩, fit_of (by decide) (by decide)⟩,
    ⟨committing, _, _, _, rfl, rfl, rfl, rfl, rfl, ⟨fun i hi => ⟨List.isEmpty_iff.1 (by cases List.mem_singleton.1 hi; rfl), .inr ⟨rfl, rfl, by decide⟩⟩,
        fun _ o ho h1 _ => by cases List.mem_singleton.1 ho; simp [committing, tags, at_, with_, State.regs, State.setRegs, State.setHart]⟩,
      ⟨rfl, rfl, by decide⟩, by decide +kernel, _, _, _, _, ⟨_, _, rfl, rfl, rfl, rfl⟩, ⟨_, _, rfl, rfl, rfl, rfl⟩,
      ⟨_, _, rfl, _, rfl, _, _, rfl, _, rfl, _, _, rfl, _, rfl, rfl, rfl⟩, ⟨rfl, rfl, by decide⟩⟩⟩

/-- As `tags`, in a chain with the descriptor x1 and a current tile of FP32. -/
def chained (f g h : Fmt) (a : XWord) : State :=
  let s := tags f g h a 0 0
  s.setRegs { s.regs with
    member := 1, cv := some ⟨.f32, Array.replicate 64 0⟩, chain := some { desc := a, idx := 2, mn := #[0], alpha := #[0] } }

theorem chained_goes (f g h : Fmt) (a : XWord) (i : Instr) : GoesOn (chained f g h a) i := .inr ⟨rfl, rfl, Nat.zero_le _⟩

theorem witness_AttentionChain :
    (∃ s q x, ∃ key : Nat → List Val, groupSource s 1 (groupFactor s.regs) = .ok q ∧ groupSource s 2 (groupFactor s.regs) = .ok x ∧ q.fmt = .f16 ∧
      x.fmt = .u16 ∧ (Attn.of (s.x 1)).rsv = false ∧ (Attn.of (s.x 1)).kfmt = 0 ∧ (Attn.of (s.x 1)).d = 1 ∧ (Attn.of (s.x 1)).qreg = 1 ∧
      (∀ j ∈ activeIndices s (pfxOf s.regs), headVector s (Attn.of (s.x 1)) (x.fmt.int (x.get j)) j = .ok (key j)) ∧
      Fit s [.vscore false 4 1 2 true] []) ∧
    (∃ s ch c z, s.regs.chain = some ch ∧ source s true 4 = .ok c ∧ groupSource s 3 (groupFactor s.regs) = .ok z ∧ z.fmt = .f32 ∧
      (Attn.of ch.desc).d + 2 = rowSize s ∧ Allowed s (.vexpm false 4 3 true) ∧ GoesOn s (.vexpm false 4 3 true)) ∧
    ∃ s ch c z x y, ∃ val : Nat → List Val, s.regs.chain = some ch ∧ source s true 4 = .ok c ∧ groupSource s 3 (groupFactor s.regs) = .ok z ∧ z.fmt = .f32 ∧
      (Attn.of ch.desc).d = 1 ∧ groupSource s 2 (groupFactor s.regs) = .ok x ∧ x.fmt = .u16 ∧
      (∀ j ∈ activeIndices s (pfxOf s.regs),
        headVector s (Attn.of ch.desc) (x.fmt.int (x.get j) + (Attn.of ch.desc).voff) j = .ok (val j)) ∧
      (Attn.of ch.desc).ev = true ∧ (Attn.of ch.desc).evreg = 1 ∧ groupSource s 1 (groupFactor s.regs) = .ok y ∧ y.fmt = .f32 ∧
      Allowed s (.vaccv false 3 2) ∧ GoesOn s (.vaccv false 3 2) := by
  refine ⟨⟨tags .f16 .u16 .f32 0x21 0 0, _, _, fun _ => [Fmt.f16.val 0], rfl, rfl, rfl, rfl, by decide, by decide, by decide, by decide, ?_,
      fit_of (by decide) (by decide)⟩,
    ⟨chained .f32 .u16 .f32 (62 * 32), _, _, _, rfl, rfl, rfl, rfl, by decide, by unfold Allowed; exact List.isEmpty_iff.1 (by decide),
      chained_goes ..⟩,
    ⟨chained .f32 .u16 .f32 0xC020, _, _, _, _, _, fun _ => [Fmt.f16.val 0], rfl, rfl, rfl, rfl, by decide, rfl, rfl, ?_, by decide, by decide,
      rfl, rfl, List.isEmpty_iff.1 (by decide), chained_goes ..⟩⟩
  all_goals intro j hj; fin_cases hj <;> rfl

theorem witness_Generation :
    (∃ s x, source s true 0 = .ok x ∧ x.fmt = .f32 ∧ destTag s 3 = .f32 ∧ (Attn.of (s.x 1)).d = 62 ∧
      Fit s [.vsoftfin false 3 0 1 true] [(true, 0)]) ∧
    (∃ s x, groupSource s 2 (groupFactor s.regs) = .ok x ∧ x.fmt = .i64 ∧ destTag s 4 = .bits ∧ (destTag s 3).isInt = true ∧
      2 ≤ (destTag s 3).bytes ∧ 2 ≤ rowSize s ∧ Fit s [.vtreem false 7 2, .vaccept false 4 7, .vaccept false 3 7] []) ∧
    ∃ s x, groupSource s 2 (groupFactor s.regs) = .ok x ∧ x.fmt.isFloat = true ∧ 4 ≤ declWidth s ∧ Fit s [.vmaxi false 4 2 7] [] :=
  ⟨⟨tags .f32 .i16 .f32 (62 * 32) 0 0, _, rfl, rfl, rfl, by decide, fit_of (by decide) (by decide)⟩,
    ⟨tags .f32 .i64 .i16 0 0 0, _, rfl, rfl, rfl, rfl, by decide, by decide, fit_of (by decide) (by decide)⟩,
    ⟨tags .f32 .f16 .i16 0 0 0, _, rfl, rfl, by decide, fit_of (by decide) (by decide)⟩⟩

/-- As `tags`, with empty queues and a span of n bytes from byte o. -/
def spanned (f g h : Fmt) (a : XWord) (o n : Nat) : State :=
  let s := tags f g h a 0 0
  { s with hart := { s.hart with
      tspanOff := BitVec.ofNat _ o, tspanLen := BitVec.ofNat _ n, regs := { s.regs with queues := Vector.replicate 4 [] } } }

theorem spanned_commit (f g h : Fmt) (a : XWord) (o n : Nat) : MayCommit (spanned f g h a o n) := ⟨rfl, ⟨rfl, rfl, rfl⟩, rfl, rfl⟩

/-- The format of a source that is readable. -/
def fmtOf (r : Eff Source) : Option Fmt := match r with | .ok x => some x.fmt | .error _ => none

theorem of_fmt {r : Eff Source} {f : Fmt} (h : fmtOf r = some f) : ∃ x, r = .ok x ∧ x.fmt = f := by
  unfold fmtOf at h; split at h
  · exact ⟨_, rfl, by cases h; rfl⟩
  · cases h

/-- The hart's matrix queue holds MOPs on S-space from byte 0 on. -/
def withOp (s : State) (n : Nat) : State :=
  { s with hart := { s.hart with matrixQ := List.replicate n (.mop 1 1 ⟨0x4000000, none⟩ ⟨0x4000000, none⟩ 0) } }

theorem witness_TagOperations :
    (∃ s, MayCommit s ∧ s.holds = true ∧ (s.x 1).toNat / 2 ^ 15 % 2 = 0 ∧ (s.x 1).toNat / 2 ^ 31 % 2 = 0 ∧
      (s.x 1).toNat % 2 ^ 15 + (s.x 1).toNat / 2 ^ 16 % 2 ^ 15 = min (2 ^ 15) (s.core.request / 64) ∧
      s.hart.tspanOff.toNat + s.hart.tspanLen.toNat = 64 ∧ s.hart.tspanOff.toNat % 4 = 0 ∧ s.hart.tspanLen.toNat % 4 = 0 ∧
      ∀ a n, queuedReads s a n = false) ∧
    (∃ s, MayCommit s ∧ s.holds = true ∧ (s.x 1).toNat = 2 ^ 16 ∧ s.hart.tspanOff.toNat + s.hart.tspanLen.toNat = 64 ∧
      queuedReads s (64 * 0 + 60) 4 = true) ∧
    (∃ s, MayCommit s ∧ Allowed s (.vstt 3 1 2) ∧ (∃ x, groupSource s.committed 3 (groupFactor s.regs) = .ok x ∧ x.fmt = .i32) ∧
      s.regs.vl ≠ 0 ∧ (s.x 1).toNat = 64 ∧ s.holds = true ∧ queuedReads s 64 64 = true) ∧
    ∃ s, MayCommit s ∧ Traps s ∧ commitWait s = none ∧ Allowed s (.vstt 3 1 2) ∧
      (∃ x, groupSource s.committed 3 (groupFactor s.regs) = .ok x ∧ x.fmt = .i32) ∧ s.regs.vl * fmtWidth s .i32 ≤ 64 ∧ s.regs.vl ≠ 0 ∧
      (s.x 1).toNat = 64 * (2 ^ 15 - 1) ∧ s.holds = true ∧ 2 ^ 15 - 1 + s.regs.vr ≤ min (2 ^ 15) (s.core.request / 64) :=
  ⟨⟨spanned .i16 .i16 .i16 0x00027FFE 32 32, spanned_commit .., rfl, by decide, by decide, by decide, by decide, by decide, by decide,
      fun _ _ => rfl⟩,
    ⟨withOp (spanned .i16 .i16 .i16 0x10000 60 4) 1, ⟨rfl, ⟨rfl, rfl, rfl⟩, rfl, rfl⟩, rfl, by decide, by decide, by decide⟩,
    ⟨withOp (spanned .i16 .i16 .i32 64 0 0) 2, ⟨rfl, ⟨rfl, rfl, rfl⟩, rfl, rfl⟩, List.isEmpty_iff.1 (by decide),
      of_fmt (by decide +kernel), by decide, by decide, rfl, by decide⟩,
    ⟨spanned .i16 .i16 .i32 0x1FFFC0 0 0, spanned_commit .., ⟨rfl, rfl, (by decide : (1 : BitVec 47) ≠ 0)⟩, rfl,
      List.isEmpty_iff.1 (by decide),
      of_fmt (by decide +kernel), by decide, by decide, by decide, rfl, by decide⟩⟩

/-- The state after a checked range, and after a descriptor that holds v. -/
def rangeEnd (s : State) (acc : Access) (va : XWord) (n align : Nat) : Option State :=
  match located s acc va align 0 with
  | .error _ => none
  | .ok (_, c) => match located c acc (va + xword (n - 1)) 1 0 with | .error _ => none | .ok (_, u) => some u

def descEnd (s : State) (va : XWord) (n align v : Nat) : Option State :=
  match access s .read va align 0 with
  | .error _ => none
  | .ok (pa, u) => match poisonCheck u .read va pa n 0 with
    | .error _ => none
    | .ok _ => if va.toNat % align = 0 ∧ v = leNat ((span pa n).map (seenByte s)) then some u else none

theorem range_of {s u : State} {acc : Access} {va : XWord} {n align : Nat} (h : rangeEnd s acc va n align = some u) :
    MemoryRange s acc va n align u := by
  unfold rangeEnd at h
  split at h
  · cases h
  · rename_i h1
    split at h
    · cases h
    · rename_i h2; cases h; exact ⟨_, _, _, h1, h2⟩

theorem desc_of {s u : State} {va : XWord} {n align v : Nat} (h : descEnd s va n align v = some u) : ReadsDescriptor s va n align v u := by
  unfold descEnd at h
  split at h
  · cases h
  · rename_i h1
    split at h
    · cases h
    · rename_i h2
      split at h
      · rename_i h3; cases h; exact ⟨h3.1, _, h1, h2, h3.2⟩
      · cases h

theorem some_bind {α β : Type} {o : Option α} {f : α → Option β} (h : (o.bind f).isSome = true) :
    ∃ a, o = some a ∧ (f a).isSome = true := by
  cases o with
  | none => cases h
  | some a => exact ⟨a, rfl, h⟩

theorem some_of {α : Type} {o : Option α} (h : o.isSome = true) : ∃ a, o = some a := Option.isSome_iff_exists.1 h

/-- A descriptor of 64 bytes at address 0x40; x1 to x3 hold some values. -/
def described (v : Nat) (a b c : XWord) : State :=
  let s := withX a b c
  { s with mem := memWriteN s.mem 0x200040 (leBytes 64 v) }

theorem described_commit (v : Nat) (a b c : XWord) : MayCommit (described v a b c) := ⟨rfl, ⟨rfl, rfl, rfl⟩, rfl, rfl⟩

/-- VL is 1 of 64 rows; v1 holds FP16. -/
def tall (a b : XWord) : State :=
  let s := withX a b 0
  s.setRegs { s.regs with vl := 1, vr := 64, vregs := s.regs.vregs.set 1 ⟨⟨.f16, Array.replicate 64 0⟩, none⟩ }

theorem witness_MatrixIssue :
    (∃ s, MayCommit s ∧ s.holds = true ∧ s.hart.matrixQ = [] ∧ s.regs.vl = 0 ∧ Allowed s (.mop 1 1 2) ∧
      mopDescBad true (s.x 1) 0 = false ∧ mopDescBad false (s.x 2) 0 = false ∧ (s.x 1).getLsbD 26 = true ∧
      xbits (s.x 1) 0 21 % 64 = 0 ∧ xbits (s.x 2) 0 21 % 64 = 0) ∧
    (∃ s, MayCommit s ∧ s.holds = true ∧ s.hart.matrixQ.length = 16) ∧
    (∀ n, n ∈ [0, 16] → ∃ s, MayCommit s ∧ s.holds = true ∧ s.hart.matrixQ.length = n ∧ s.regs.vl = 2 ∧ Allowed s (.mop 1 1 1) ∧
      mopDescBad true (s.x 1) 2 = false ∧ mopDescBad false (s.x 1) 2 = false ∧ mopFormat (s.x 1) = some .f16 ∧
      (s.x 1).getLsbD 26 = true ∧ (s.x 1).getLsbD 24 = false ∧
      SpaceRange s (xword (xbits (s.x 1) 0 21)) (mopExtent (s.x 1) 2 2) 64 ∧ Allowed s (.mtov 4 1 0) ∧ destTag s.committed 4 = .bits ∧
      Allowed s (.mfromv 1 3 0) ∧ (∃ g, groupSource s.committed 3 (groupFactor s.regs) = .ok g ∧ g.fmt = .f32) ∧
      (s.x 0).toNat + s.regs.vr ≤ 64) ∧
    (∃ s, MayCommit s ∧ s.holds = true ∧ Allowed s (.mop 1 1 2) ∧ mopDescBad true (s.x 1) 1 = false ∧ (s.x 1).getLsbD 26 = false ∧
      s.regs.vr = 64 ∧ (∃ g, groupSource s.committed (xbits (s.x 1) 0 21) (groupFactor s.regs) = .ok g ∧ g.fmt = .f16) ∧
      mopDescBad false (s.x 2) 1 = false ∧ (s.x 2).getLsbD 26 = false ∧ mopFormat (s.x 2) = some .f16 ∧
      128 * s.hart.mwb.toNat + mopBufferBytes (s.x 2) .f16 1 ≤ Config.wbufBytes) ∧
    (∃ s u, MayCommit s ∧ s.holds = true ∧ s.hart.matrixQ.length = 16 ∧ s.x 1 = 0xF80 ∧ s.x 2 = 0x1FFF ∧ MemoryRange s.committed .read (s.x 1) (128 * 1) 128 u) ∧
    (∃ s, MayCommit s ∧ s.holds = true ∧ (s.x 1).toNat = 15) ∧
    (∃ s v u, MayCommit s ∧ s.holds = true ∧ s.hart.matrixQ.length = 16 ∧ ReadsDescriptor s.committed (s.x 1) 32 32 v u ∧
      drainBad (BitVec.ofNat 256 v) = false ∧
      drainSp (BitVec.ofNat 256 v) = true ∧ drainColumns (BitVec.ofNat 256 v) = false ∧ drainPitch (BitVec.ofNat 256 v) = 256 ∧
      drainAmax (BitVec.ofNat 256 v) = false ∧ SpaceRange s (drainDest (BitVec.ofNat 256 v)) (63 * 256 + 64 * 4) 64) ∧
    ∃ s v u0 u1, MayCommit s ∧ s.holds = true ∧ ReadsDescriptor s.committed (s.x 1) 32 32 v u0 ∧ drainBad (BitVec.ofNat 256 v) = false ∧
      drainSp (BitVec.ofNat 256 v) = false ∧ drainPitch (BitVec.ofNat 256 v) = 4 ∧ drainFormat (BitVec.ofNat 256 v) = .f32 ∧
      memForm u0 true (drainDest (BitVec.ofNat 256 v)) 4 = .ok () ∧
      memForm u0 true (drainDest (BitVec.ofNat 256 v) + xword 4) 4 = .ok () ∧
      MemoryRange u0 .write (drainDest (BitVec.ofNat 256 v)) (63 * 4 + 64 * 4) 4 u1 ∧
      drainAmax (BitVec.ofNat 256 v) = true ∧ ∃ pa u2, located u1 .update (drainWord (BitVec.ofNat 256 v)) 4 0 = .ok (pa, u2) := by
  refine ⟨⟨withX 0x4000000 0x4000000 0, x_commit .., rfl, rfl, rfl, List.isEmpty_iff.1 (by decide), by decide, by decide, by decide,
      by decide, by decide⟩,
    ⟨with_ (fun h => { h with matrixQ := List.replicate 16 (.zero 0) }), ⟨rfl, ⟨rfl, rfl, rfl⟩, rfl, rfl⟩, rfl, rfl⟩,
    ?_,
    ⟨tall 1 0, ⟨rfl, ⟨rfl, rfl, rfl⟩, rfl, rfl⟩, rfl, List.isEmpty_iff.1 (by decide), by decide, by decide, rfl,
      of_fmt (by decide +kernel), by decide, by decide, by decide, by decide⟩, ?_,
    ⟨withX 15 0 0, x_commit .., rfl, by decide⟩, ?_, ?_⟩
  · intro n hn
    fin_cases hn
    · exact ⟨withOp (spanned .i16 .i16 .f32 0x4000000 0 0) 0, ⟨rfl, ⟨rfl, rfl, rfl⟩, rfl, rfl⟩, rfl, rfl, rfl,
        List.isEmpty_iff.1 (by decide), by decide, by decide, by decide, by decide, by decide, ⟨by decide, by decide, rfl, by decide⟩,
        List.isEmpty_iff.1 (by decide), by decide +kernel, List.isEmpty_iff.1 (by decide), of_fmt (by decide +kernel), by decide⟩
    · exact ⟨withOp (spanned .i16 .i16 .f32 0x4000000 0 0) 16, ⟨rfl, ⟨rfl, rfl, rfl⟩, rfl, rfl⟩, rfl, rfl, rfl,
        List.isEmpty_iff.1 (by decide), by decide, by decide, by decide, by decide, by decide, ⟨by decide, by decide, rfl, by decide⟩,
        List.isEmpty_iff.1 (by decide), by decide +kernel, List.isEmpty_iff.1 (by decide), of_fmt (by decide +kernel), by decide⟩
  · obtain ⟨u, h⟩ := some_of (o := rangeEnd (withOp (withX 0xF80 0x1FFF 0) 16).committed .read 0xF80 128 128) (by decide +kernel)
    exact ⟨withOp (withX 0xF80 0x1FFF 0) 16, u, ⟨rfl, ⟨rfl, rfl, rfl⟩, rfl, rfl⟩, rfl, rfl, rfl, rfl, range_of h⟩
  · let v := 256 * 2 ^ 96 + 2 ^ 114
    obtain ⟨u, h⟩ := some_of (o := descEnd (withOp (described v 0x40 0 0) 16).committed 0x40 32 32 v) (by decide +kernel)
    exact ⟨withOp (described v 0x40 0 0) 16, v, u, ⟨rfl, ⟨rfl, rfl, rfl⟩, rfl, rfl⟩, by decide +kernel, rfl, desc_of h, by decide, by decide, by decide, by decide, by decide,
      ⟨by decide, by decide, by decide +kernel, by decide⟩⟩
  · let v := 0xE00 + 4 * 2 ^ 96 + 2 ^ 117 + 0x80 * 2 ^ 128
    obtain ⟨u, h1, h⟩ := some_bind (o := descEnd (described v 0x40 0 0).committed 0x40 32 32 v)
      (f := fun u => (if (memForm u true 0xE00 4).isOk && (memForm u true 0xE04 4).isOk then some u else none).bind fun u =>
        (rangeEnd u .write 0xE00 508 4).bind fun w => (located w .update 0x80 4 0).toOption) (by decide +kernel)
    obtain ⟨u', h2, h⟩ := some_bind h
    split at h2 <;> cases h2
    rename_i h2
    obtain ⟨w, h3, h⟩ := some_bind h
    obtain ⟨z, h4⟩ := some_of h
    have good : ∀ {a : Eff Unit}, a.isOk = true → a = .ok () := by rintro (_ | _) h <;> first | cases h; done | rfl
    have e1 : drainDest (BitVec.ofNat 256 v) = 0xE00 := by decide
    have e2 : drainWord (BitVec.ofNat 256 v) = 0x80 := by decide
    have found : ∀ {a : Eff (Nat × State)}, a.toOption = some z → a = .ok (z.1, z.2) := by rintro (_ | _) h <;> cases h; rfl
    rw [Bool.and_eq_true] at h2
    exact ⟨described v 0x40 0 0, v, u, w, described_commit .., by decide +kernel, desc_of h1, by decide, by decide, by decide, by decide,
      by rw [e1]; exact good h2.1, by rw [e1]; exact good h2.2, by rw [e1]; exact range_of h3, by decide, _, _, by rw [e2]; exact found h4⟩

/-- A hart whose matrix queue has a head. -/
def draining (op : MatrixOp) : State := with_ (fun h => { h with matrixQ := [op] })

theorem witness_MatrixPoints :
    (∃ s op rest, (s : State).hart.matrixQ = op :: rest ∧ s.holds = true ∧ s.core.retired = false ∧ op = .zero 3) ∧
    (∃ s op rest, (s : State).hart.matrixQ = op :: rest ∧ s.holds = true ∧ s.core.retired = false ∧ op = .mop 3 33 ⟨0x4000000, none⟩ ⟨0x4000000, none⟩ 0) ∧
    (∃ s rest u, (s : State).hart.matrixQ = .load 1 0x80 4095 1 :: rest ∧ s.holds = true ∧ s.core.retired = false ∧
      EngineReads 1 (fun _ => List.replicate 128 0) (s.setHart { s.hart with matrixQ := rest })
        ((span 0 1).map (fun j => (0x80 + xword (128 * j), 128))) u) ∧
    ∃ s q rest, (s : State).hart.matrixQ = .drain 1 3 q :: rest ∧ s.holds = true ∧ s.core.retired = false ∧ drainSp q = true ∧ drainAmax q = false :=
  ⟨⟨draining (.zero 3), _, _, rfl, rfl, rfl, rfl⟩, ⟨draining (.mop 3 33 ⟨0x4000000, none⟩ ⟨0x4000000, none⟩ 0), _, _, rfl, rfl, rfl, rfl⟩,
    ⟨draining (.load 1 0x80 4095 1), _, _, rfl, rfl, rfl, _, rfl, rfl⟩, ⟨draining (.drain 1 3 (2 ^ 114)), _, _, rfl, rfl, rfl, by decide, by decide⟩⟩

theorem witness_CopyIssue :
    (∃ s, MayCommit s ∧ (s.x 3).toNat % 2 ^ 40 = 0 ∧ (s.x 3).toNat / 2 ^ 40 % 2 ^ 20 = 0 ∧ (s.x 3).toNat / 2 ^ 62 = 0 ∧
      (s.x 3).toNat.testBit 61 = false) ∧
    (∃ s u0 u1, MayCommit s ∧ s.x 3 = 1 ∧ MemoryRange s.committed .read (s.x 2) 1 1 u0 ∧ MemoryRange u0 .write (s.x 1) 1 1 u1) ∧
    (∃ s, MayCommit s ∧ (s.x 3).toNat = 64 + 2 ^ 60 + 2 ^ 61 ∧ SpaceRange s (s.x 1) 64 1 ∧ SpaceRange s (s.x 2) 64 1) ∧
    (∃ s v u u1 u2, MayCommit s ∧ ReadsDescriptor s.committed (s.x 1) 64 64 v u ∧ c2Bad (BitVec.ofNat 512 v) = false ∧
      c2Ssp (BitVec.ofNat 512 v) = true ∧ c2Dsp (BitVec.ofNat 512 v) = false ∧ c2Side u (BitVec.ofNat 512 v) false = .ok u1 ∧
      c2Side u1 (BitVec.ofNat 512 v) true = .ok u2) ∧
    ∃ s v u w, MayCommit s ∧ ReadsDescriptor s.committed (s.x 1) 32 64 v u ∧ dealBad (BitVec.ofNat 256 v) = false ∧
      dealBase (BitVec.ofNat 256 v) = 4095 ∧ dealSlots (BitVec.ofNat 256 v) * dealSize (BitVec.ofNat 256 v) = 1 ∧
      MemoryRange u .read (dealSrc (BitVec.ofNat 256 v)) 128 128 w := by
  refine ⟨⟨withX 0 0 0, x_commit .., by decide, by decide, by decide, by decide⟩, ?_,
    ⟨withX 0 0x1FFFC0 0x3000000000000040, x_commit .., by decide, ⟨by decide, by decide, rfl, by decide⟩,
      ⟨by decide, by decide, rfl, by decide⟩⟩, ?_, ?_⟩
  · obtain ⟨u, h1, h⟩ := some_bind (o := rangeEnd (withX 0x40 0xFFF 1).committed .read 0xFFF 1 1)
      (f := fun u => rangeEnd u .write 0x40 1 1) (by decide +kernel)
    obtain ⟨w, h⟩ := some_of h
    exact ⟨_, u, w, x_commit .., rfl, range_of h1, range_of h⟩
  · let v := 0x80 + 2 ^ 128 + 2 ^ 144 + 2 ^ 227
    obtain ⟨u, h1, h⟩ := some_bind (o := descEnd (described v 0x40 0 0).committed 0x40 64 64 v)
      (f := fun u => (c2Side u (BitVec.ofNat 512 v) false).toOption.bind fun w => (c2Side w (BitVec.ofNat 512 v) true).toOption)
      (by decide +kernel)
    obtain ⟨u1, h2, h⟩ := some_bind h
    obtain ⟨u2, h3⟩ := some_of h
    have found : ∀ {a : Eff State} {z}, a.toOption = some z → a = .ok z := by rintro (_ | _) z h <;> cases h; rfl
    exact ⟨described v 0x40 0 0, v, u, u1, u2, described_commit .., desc_of h1, by decide +kernel, by decide +kernel,
      by decide +kernel, found h2, found h3⟩
  · let v := 0x80 + 2 ^ 64 + 2 ^ 80 + 4095 * 2 ^ 96 + 2 ^ 112 + 2 ^ 128
    obtain ⟨u, h1, h⟩ := some_bind (o := descEnd (described v 0x40 0 0).committed 0x40 32 64 v)
      (f := fun u => rangeEnd u .read 0x80 128 128) (by decide +kernel)
    obtain ⟨w, h⟩ := some_of h
    exact ⟨described v 0x40 0 0, v, u, w, described_commit .., desc_of h1, by decide, by decide, by decide,
      by rw [show dealSrc (BitVec.ofNat 256 v) = 0x80 by decide]; exact range_of h⟩

theorem witness_TicketWaits :
    (∃ s t w, MayCommit s ∧ Traps s ∧ s.hart.tickets.find? (fun t => t.value.toNat = (s.x 1).toNat) = some t ∧ t.status = some w ∧
      w.toNat % 2 ^ 8 = 0x0F) ∧
    (∃ s t w, MayCommit s ∧ Traps s ∧ s.hart.tickets.find? (fun t => t.value.toNat = (s.x 1).toNat) = some t ∧ t.status = some w ∧
      s.hart.eft = true ∧ w.toNat % 2 ^ 8 = 0x10) ∧
    (∃ s : State, ∃ t k, MayCommit s ∧ s.hart.tickets.find? (fun t => t.value.toNat = (s.x 1).toNat) = some t ∧ t.status = none ∧
      mget? s.cmds t.cmd = some k) ∧
    ∃ s, MayCommit s ∧ Traps s ∧ s.hart.tickets.find? (fun t => t.value.toNat = (s.x 1).toNat) = none ∧ (s.x 1).toNat = 2 ^ 16 - 1 ∧
      s.hart.tickets.find? (fun t => t.value.toNat = (s.x 2).toNat) = none ∧ (s.x 2).toNat = 2 ^ 16 :=
  ⟨⟨waiter 9 0 (some 0x0F) false, _, _, waiter_commit .., waiter_traps .., rfl, rfl, by decide⟩,
    ⟨waiter 9 0 (some 0x10) true, _, _, waiter_commit .., waiter_traps .., rfl, rfl, rfl, by decide⟩,
    ⟨{ waiter 9 0 none false with cmds := [(0, ⟨0, 0, 0, 1, 0, 1, .mload, [], [], none⟩)] }, _, _, ⟨rfl, ⟨rfl, rfl, rfl⟩, rfl, rfl⟩, rfl, rfl, rfl⟩,
    ⟨waiter 0xFFFF 0x10000 none false, waiter_commit .., waiter_traps .., rfl, by decide, rfl, by decide⟩⟩

/-- Command 5 of the hart is under way. -/
def working (k : CmdKind) : State := { up with cmds := [(5, ⟨0, 0, 0, 1, 0, 1, k, [], [], none⟩)] }

theorem witness_CopyPoints :
    (∃ (s : State) (c : Cmd), ∃ u items, mget? s.cmds 5 = some c ∧ ownedEarlier s 5 c.lines = false ∧
      c.kind = .copy 0x7F 0x80 2 false false ∧ gather (copyPiece 5 0x7F false (readSource 5 c.gang 0x80 false)) (·.1) s
        (piecesOf 0x7F 128 2 2 0) = .ok (items, none, u)) ∧
    (∃ (s : State) (c : Cmd), ∃ u items, mget? s.cmds 5 = some c ∧ c.kind = .fill 0x3F 0xFF 2 true ∧
      gather (copyPiece 5 0x3F true (fun s o k => .ok (fillBytes 0xFF o k, [], s))) (·.1) s (piecesOf 0x3F 64 2 2 0) =
        .ok (items, none, u)) ∧
    (∃ (s : State) (c : Cmd) (q : BitVec 512), ∃ pa u, mget? s.cmds 5 = some c ∧ c.kind = .copy2d q ∧ ownedEarlier s 5 c.lines = false ∧
      c2Rows q * c2Cols q = 2 ∧ c2Width q = 1 ∧ c2Dpitch q = 64 ∧
      c2Ssp q = false ∧ c2Dsp q = false ∧ EngineCopies 5 c.gang false false 1 (fun k => 0x80 + k) (fun k => 0x100 + k * 64) (fun _ => [0]) pa s [0, 1] u) ∧
    (∃ (s : State) (c : Cmd), ∃ q, mget? s.cmds 5 = some c ∧ c.kind = .deal q 1 [0] ∧ dealExperts q = 1 ∧ dealRounds q = 2 ∧
      (∀ o ∈ s.cmds, o.1 < 5 → False) ∧ (mget? s.gangs c.gang).isSome = true ∧
      let k := dealStart (s.coreAt 0) 0 1
      k.saved = [] ∧ k.holder = some c.gang ∧ k.moving = none ∧ k.keep.getLsbD 0 = true ∧ k.dealSlot < dealSlots q ∧
        readsSlot (s.setCoreAt 0 k) 0 (128 * (dealBase q + k.dealSlot * dealSize q)) (128 * dealSize q) = false) ∧
    (∃ (s : State) (c : Cmd), ∃ q data u, mget? s.cmds 5 = some c ∧ c.kind = .deal q 0 [0] ∧ dealSize q = 1 ∧
      ((s.setCoreAt 0 (dealStart (s.coreAt 0) 0 0)).coreAt 0).holder = some c.gang ∧
      dealRead (s.setCoreAt 0 (dealStart (s.coreAt 0) 0 0)) 5 (dealSrc q) (span 0 1) = .ok (data, none, u)) ∧
    ∃ (s : State) (c : Cmd), mget? s.cmds 5 = some c ∧ c.since = none ∧
      (match copyPoint (s.focus c.hart) 5 c with | .error (some (.bankMode 0 _)) => true | _ => false) = true :=
  ⟨⟨working (.copy 0x7F 0x80 2 false false), _, _, _, rfl, rfl, rfl, rfl⟩, ⟨working (.fill 0x3F 0xFF 2 true), _, _, _, rfl, rfl, rfl⟩,
    ⟨working (.copy2d (BitVec.ofNat 512 (0x100 + 0x80 * 2 ^ 64 + 2 * 2 ^ 128 + 2 ^ 144 + 64 * 2 ^ 160 + 2 ^ 192))), _, _, fun k => 0x200100 + k * 64, _,
      rfl, rfl, rfl, by decide, by decide, by decide, by decide, by decide, _, _, (if_neg Bool.false_ne_true).mpr rfl,
      (if_neg Bool.false_ne_true).mpr rfl, _, _, (if_neg Bool.false_ne_true).mpr rfl, (if_neg Bool.false_ne_true).mpr rfl, rfl⟩,
    ⟨{ working (.deal (BitVec.ofNat 256 (0x80 + 2 ^ 64 + 2 ^ 80 + 2 ^ 112 + 2 * 2 ^ 128)) 1 [0]) with
        cores := [(0, { up.coreAt 0 with keep := 1 })] }, _, _, rfl, rfl, by decide, by decide,
      fun o ho h => by simp [working] at ho; subst ho; exact absurd h (by decide), rfl, rfl, rfl, rfl, by decide, by decide, by decide +kernel⟩,
    ⟨working (.deal (BitVec.ofNat 256 (0x80 + 2 ^ 64 + 2 ^ 80 + 2 ^ 112 + 2 ^ 128)) 0 [0]), _, _, _, _, rfl, rfl, by decide, rfl, rfl⟩,
    ⟨{ working (.copy 0x7F 0x80 2 false false) with chans := [(0, { Chan.initial with allBank := true })] }, _, rfl, rfl, by decide +kernel⟩⟩

/-- A version of one tile in array 0. -/
def version (degraded : Bool) : Version := { num := 1, weights := #[1], scales := none, arrays := [0], degraded := degraded }

/-- The context's handle 1, of a 1 × 1 matrix. -/
def handle (cur pending : Option Version) (rot : Option (Nat × Nat)) : Handle :=
  { kin := 1, n := 1, cur := cur, pending := pending, old := [], commits := 1, rotating := rot }

/-- Context 0 has array 0 and the handle; x1 to x3 hold some values; command 5 is under way. -/
def arrays (h : Handle) (k : CmdKind) (a b c : XWord) : State :=
  let s := (withX a b c).setHandle 0 1 h
  { s with warrays := [(0, { owner := some 0, failed := false, calibrated := 0, held := [0] })], cmds := [(5, ⟨0, 0, 0, 1, 0, 2, k, [], [], none⟩)] }

theorem arrays_commit (h : Handle) (k : CmdKind) (a b c : XWord) : MayCommit (arrays h k a b c) := ⟨rfl, ⟨rfl, rfl, rfl⟩, rfl, rfl⟩

theorem witness_ArrayIssue :
    (∃ s v u u1, MayCommit s ∧ (s.x 3).toNat = 4095 ∧ ReadsDescriptor s.committed (s.x 1) 32 32 v u ∧ cwBad (BitVec.ofNat 256 v) = false ∧
      cwScales (BitVec.ofNat 256 v) = 0 ∧ (cwKin (BitVec.ofNat 256 v) - 1) * cwPitch (BitVec.ofNat 256 v) + cwN (BitVec.ofNat 256 v) = 1 ∧
      MemoryRange u .read (cwAddr (BitVec.ofNat 256 v)) 1 1 u1) ∧
    (∃ s, MayCommit s ∧ s.x 1 = 1 ∧ s.committed.handleAt s.hart.ctx 1 = none ∧ (s.x 3).toNat / 2 ^ 42 % 2 ^ 20 = 0 ∧ SpaceRange s (s.x 2) 0 64 ∧
      SpaceRange s (xword ((s.x 3).toNat % 2 ^ 21)) 0 64 ∧ SpaceRange s (xword ((s.x 3).toNat / 2 ^ 21 % 2 ^ 21)) 8 64) ∧
    (∃ s v, MayCommit s ∧ s.x 1 = 1 ∧ (s.committed.handleAt s.hart.ctx 1).bind (·.cur) = some v ∧ v.degraded = false ∧
      SpaceRange s (s.x 2) 1 64 ∧ SpaceRange s (xword ((s.x 3).toNat % 2 ^ 21)) 4 64 ∧
      SpaceRange s (xword ((s.x 3).toNat / 2 ^ 21 % 2 ^ 21)) 9 64) ∧
    ∃ s v, MayCommit s ∧ s.x 1 = 1 ∧ (s.committed.handleAt s.hart.ctx 1).bind (·.cur) = some v ∧ v.degraded = true := by
  refine ⟨?_, ⟨withX 1 0 0, x_commit .., rfl, by decide +kernel, by decide, ⟨by decide, by decide, rfl, by decide⟩,
      ⟨by decide, by decide, rfl, by decide⟩, ⟨by decide, by decide, rfl, by decide⟩⟩,
    ⟨arrays (handle (some (version false)) none none) .mload 1 0x1FFFC0 (0x40 + 0x80 <<< 21), _, arrays_commit .., rfl, rfl, rfl,
      ⟨by decide, by decide, by decide +kernel, by decide +kernel⟩, ⟨by decide, by decide, by decide +kernel, by decide +kernel⟩,
      ⟨by decide, by decide, by decide +kernel, by decide +kernel⟩⟩,
    ⟨arrays (handle (some (version true)) none none) .mload 1 0 0, _, arrays_commit .., rfl, rfl, rfl⟩⟩
  let v := 0x80 + 2 ^ 64 + 2 ^ 96 + 2 ^ 192
  obtain ⟨u, h1, h⟩ := some_bind (o := descEnd (described v 0x40 0 4095).committed 0x40 32 32 v)
    (f := fun u => rangeEnd u .read 0x80 1 1) (by decide +kernel)
  obtain ⟨w, h⟩ := some_of h
  exact ⟨described v 0x40 0 4095, v, u, w, described_commit .., rfl, desc_of h1, by decide, by decide, by decide,
    by rw [show cwAddr (BitVec.ofNat 256 v) = 0x80 by decide]; exact range_of h⟩

/-- A handler of pseudo-channel 0 runs, with the quadword register b1 and the kitty level. -/
def handler (m paid : Bool) (open_ : Option Nat) (b1 : XWord) (level : Nat) (waiting : List StackOp) : State :=
  { up with
    chans := [(0, { Chan.initial with
      dedicated := some 0, allBank := m, handlers := [(1, ⟨1, 1, #[0]⟩)]
      run := some {
        cmd := 5, hart := 0, slot := 1, b := (Vector.replicate 16 (0 : XWord)).set 1 b1, pcw := 0, count := 0, lo := 0x200000, hi := 0x400000
        openRow := open_, reply := [], rows := 2, replyAt := 0, arith := [], paid := paid } })]
    kitties := [(0, { level := level, credit := 4096, waiting := waiting })] }

/-- The image of an installation stands at 0x40, slot 0 is dedicated or not, and some units are bad. -/
def imaged (v w : Nat) (ded : Option Nat) (bad : Map (BitVec 2)) : State :=
  let s := described v 0x40 0x60 15
  { s with mem := memWriteN s.mem 0x200080 (leBytes 4 w), chans := [(0, { Chan.initial with dedicated := ded })], badUnits := bad }

/-- BINST's descriptor read and its target found, the state then meeting a test; and the words of the image read after its header. -/
def binstReady (s : State) (v : Nat) (p : Nat → State → Bool) : Bool :=
  match descEnd s.committed 0x40 64 64 v with
  | none => false
  | some u => match located u .write 0x60 1 0 with | .ok (pa, w) => p pa w | .error _ => false

def headThen (w : State) (p : List Byte → State → Bool) : Bool :=
  match engReadGood w w.nextCmd 0x40 64 with | .ok (hd, t) => p hd t | .error _ => false

theorem witness_BankIssue :
    let head := 1 + 4096 * 2 ^ 16 + 256 * 2 ^ 32
    let reads := fun (s : State) v (p : Nat → State → Bool) => MayCommit s ∧ s.x 1 = 0x40 ∧ s.x 2 = 0x60 ∧ (s.x 3).toNat = 15 ∧
      binstReady s v p = true
    let ready := fun (w : State) pa => dedicatedAt w pa && decide (w.hart.tickets.length < 64)
    (∃ s, reads s 7 (fun pa w => !dedicatedAt w pa)) ∧
    (∃ s, reads s 0 (fun pa w => ready w pa && headThen w (fun hd _ => imageHeader (leNat hd) == none))) ∧
    (∃ s, reads s head (fun pa w => ready w pa && headThen w (fun hd t => imageHeader (leNat hd) == some (1, 4096, 256) &&
      match readWords t w.nextCmd 0x80 [0] with | .error (.fail c _) => c == 0x14 | _ => false))) ∧
    (∃ s, reads s head (fun pa w => ready w pa && headThen w (fun hd t => imageHeader (leNat hd) == some (1, 4096, 256) &&
      match readWords t w.nextCmd 0x80 [0] with | .ok (ws, _) => ws.length == 1 && brixemWordOk (ws.getD 0 0) 0 1 | _ => false))) ∧
    (∃ s, reads s head (fun pa w => ready w pa && headThen w (fun hd t => imageHeader (leNat hd) == some (1, 4096, 256) &&
      match readWords t w.nextCmd 0x80 [0] with | .ok (ws, _) => ws.length == 1 && !brixemWordOk (ws.getD 0 0) 0 1 | _ => false))) ∧
    (∃ s, reads s head (fun pa w => ready w pa && headThen w (fun hd t => imageHeader (leNat hd) == some (1, 4096, 256) &&
      match readWords t w.nextCmd 0x80 [0] with | .error (.hold .line) => true | _ => false))) ∧
    ∃ s pa w, MayCommit s ∧ (s.x 3).toNat = 63 * 2 ^ 21 ∧ SpaceRange s (s.x 2) 64 64 ∧
      leNat ((memReadN s.committed.core.scratch (s.x 2).toNat 64).take 1) ≤ 15 ∧
      leNat (((memReadN s.committed.core.scratch (s.x 2).toNat 64).drop 1).take 7) = 0 ∧
      SpaceRange s (xword ((s.x 3).toNat % 2 ^ 21)) (64 * 63) 64 ∧ located s.committed .write (s.x 1) 1 0 = .ok (pa, w) := by
  have found : ∀ {a : Eff (Nat × State)} {z}, a.toOption = some z → a = .ok (z.1, z.2) := by rintro (_ | _) z h <;> cases h; rfl
  have may : ∀ v w ded bad, MayCommit (imaged v w ded bad) := fun _ _ _ _ => ⟨rfl, ⟨rfl, rfl, rfl⟩, rfl, rfl⟩
  refine ⟨⟨imaged 7 0 none [], may .., rfl, rfl, rfl, by decide +kernel⟩, ⟨imaged 0 0 (some 0) [], may .., rfl, rfl, rfl, by decide +kernel⟩,
    ⟨imaged (1 + 4096 * 2 ^ 16 + 256 * 2 ^ 32) 0 (some 0) [(0x200080 / 2, 3)], may .., rfl, rfl, rfl, by decide +kernel⟩,
    ⟨imaged (1 + 4096 * 2 ^ 16 + 256 * 2 ^ 32) 0 (some 0) [], may .., rfl, rfl, rfl, by decide +kernel⟩,
    ⟨imaged (1 + 4096 * 2 ^ 16 + 256 * 2 ^ 32) 0xFFFFFFFF (some 0) [], may .., rfl, rfl, rfl, by decide +kernel⟩, ?_, ?_⟩
  · exact ⟨{ imaged (1 + 4096 * 2 ^ 16 + 256 * 2 ^ 32) 0 (some 0) [] with
      chans := [(0, { (handler false true none 0 0 []).chanAt 0 with
        run := ((handler false true none 0 0 []).chanAt 0).run.map (fun r => { r with lo := 0x200080, hi := 0x200100 }) })] },
      ⟨rfl, ⟨rfl, rfl, rfl⟩, rfl, rfl⟩, rfl, rfl, rfl, by decide +kernel⟩
  obtain ⟨w, h⟩ := some_of (o := (located (withX 0x60 0x1FFFC0 0x7E00000).committed .write 0x60 1 0).toOption) (by decide +kernel)
  exact ⟨withX 0x60 0x1FFFC0 0x7E00000, _, _, x_commit .., by decide, ⟨by decide, by decide, rfl, by decide⟩, by decide +kernel,
    by decide +kernel, ⟨by decide, by decide, rfl, by decide⟩, found h⟩

def job : CmvJob := {
  handle := 1, version := 1, input := [2], out := 0, stat := 64, split := false, fp := true, done := [], retries := 0, sat := 0
  satBits := 0, discards := [(0, 1)] }

/-- A CWRITE of a 1 × 1 matrix at 0x80. -/
def oneByOne : BitVec 256 := BitVec.ofNat 256 (0x80 + 2 ^ 64 + 2 ^ 96 + 2 ^ 192)

theorem unreadable {α : Type} {r : Eng α} {c : Nat} (h : (match r with | .error (.fail k _) => k == c | _ => false) = true) :
    ∃ t, r = .error (.fail c t) := by
  split at h
  · rename_i k t; cases eq_of_beq h; exact ⟨t, rfl⟩
  · cases h

theorem witness_ArrayPoints :
    (∃ (s : State) (c : Cmd) (x : Handle), mget? s.cmds 5 = some c ∧ c.kind = .cwrite 1 oneByOne ∧ s.handleAt c.ctx 1 = some x ∧ x.kin = 2) ∧
    (∃ (s : State) (c : Cmd), mget? s.cmds 5 = some c ∧ c.kind = .cwrite 1 oneByOne ∧
      (∀ x, s.handleAt c.ctx 1 = some x → x.kin = cwKin oneByOne ∧ x.n = cwN oneByOne) ∧ (freeArrays s c.ctx).length = 0) ∧
    (∃ (s : State) (c : Cmd), mget? s.cmds 5 = some c ∧ c.kind = .cwrite 1 oneByOne ∧
      (∀ o ∈ s.cmds, o.1 < 5 → False) ∧
      (∀ x, s.handleAt c.ctx 1 = some x → x.kin = cwKin oneByOne ∧ x.n = cwN oneByOne) ∧ (freeArrays s c.ctx).length = 1 ∧
      ∃ w z u, readMatrix s 5 oneByOne = .ok (w, z, u)) ∧
    (∃ (s : State) (c : Cmd), mget? s.cmds 5 = some c ∧ c.kind = .cwrite 1 oneByOne ∧ (freeArrays s c.ctx).length = 1 ∧
      ∃ t, readMatrix s 5 oneByOne = .error (.fail 0x14 t)) ∧
    (∃ s : State, ((spareOf ((s.setArray 0 { mgetD s.warrays 0 .initial with owner := none }).retireOne (.array 0)) 0)).isSome = true ∧
      (replaceArray s 0 0).1.isSome = true) ∧
    (∃ s : State, (replaceArray s 0 0).1 = none) ∧
    (∃ (s : State) (c : Cmd) (x : Handle) (p : Version), mget? s.cmds 5 = some c ∧ c.kind = .ccommit 1 ∧ s.handleAt c.ctx 1 = some x ∧
      x.pending = some p) ∧
    (∃ (s : State) (c : Cmd) (x : Handle), mget? s.cmds 5 = some c ∧ c.kind = .ccommit 1 ∧ s.handleAt c.ctx 1 = some x ∧ x.pending = none) ∧
    (∃ (s : State) (c : Cmd) (j : CmvJob) (h : Handle) (v : Version), mget? s.cmds 5 = some c ∧ c.kind = .cmv j ∧
      s.handleAt c.ctx j.handle = some h ∧ h.version j.version = some v ∧ v.degraded = false ∧
      0 < (h.kin + 1023) / 1024 * ((h.n + 1023) / 1024) ∧ mget? j.done 0 = none ∧ mgetD j.discards 0 0 + 1 = 2) ∧
    (∃ (s : State) (c : Cmd) (j : CmvJob) (h : Handle) (v : Version), mget? s.cmds 5 = some c ∧ c.kind = .cmv j ∧
      s.handleAt c.ctx j.handle = some h ∧ h.version j.version = some v ∧ v.degraded = false ∧ mget? j.done 0 = none ∧
      mgetD j.discards 0 0 + 1 = 3) ∧
    (∃ (s : State) (c : Cmd) (j : CmvJob) (h : Handle) (v : Version), mget? s.cmds 5 = some c ∧ c.kind = .cmv j ∧
      s.handleAt c.ctx j.handle = some h ∧ h.version j.version = some v ∧ v.degraded = false ∧
      (h.kin + 1023) / 1024 * ((h.n + 1023) / 1024) = j.done.length) ∧
    (∃ (s : State) (c : Cmd) (j : CmvJob) (h : Handle) (v : Version), mget? s.cmds 5 = some c ∧ c.kind = .cmv j ∧
      s.handleAt c.ctx j.handle = some h ∧ h.version j.version = some v ∧ v.degraded = true) ∧
    (∃ (s : State) (x : Handle) (v : Version) (a : Nat), s.handleAt 0 1 = some x ∧ x.cur = some v ∧ x.rotating = none ∧ v.degraded = false ∧
      v.arrays[0]? = some a ∧ (spareOf s (a / Config.arraysPerDie)).isSome = true) ∧
    ∃ (s : State) (x : Handle) (v : Version), s.handleAt 0 1 = some x ∧ x.cur = some v ∧ x.rotating = some (0, 7) := by
  let v := version false
  refine ⟨⟨arrays ({ handle none none none with kin := 2 }) (.cwrite 1 oneByOne) 0 0 0, _, _, rfl, rfl, rfl, rfl⟩,
    ⟨arrays (handle (some v) none none) (.cwrite 1 oneByOne) 0 0 0, _, rfl, rfl, ?_, by decide +kernel⟩,
    ⟨arrays (handle none none none) (.cwrite 1 oneByOne) 0 0 0, _, rfl, rfl, ?_, ?_, by decide +kernel, _, _, _, rfl⟩,
    ⟨{ arrays (handle none none none) (.cwrite 1 oneByOne) 0 0 0 with badUnits := [(0x200080 / 2, 3)] }, _, rfl, rfl, by decide +kernel,
      unreadable (by decide +kernel)⟩,
    ⟨arrays (handle none none none) .mload 0 0 0, by decide +kernel, by decide +kernel⟩,
    ⟨{ up with ctxs := [(0, { up.ctxAt 0 with handles := (span 0 256).map (fun h => (h, handle none none (some (0, h)))) })] },
      by decide +kernel⟩,
    ⟨arrays (handle (some v) (some v) none) (.ccommit 1) 0 0 0, _, _, _, rfl, rfl, rfl, rfl⟩,
    ⟨arrays (handle (some v) none none) (.ccommit 1) 0 0 0, _, _, rfl, rfl, rfl, rfl⟩,
    ⟨arrays (handle (some v) none none) (.cmv job) 0 0 0, _, _, _, _, rfl, rfl, rfl, rfl, rfl, by decide, rfl, rfl⟩,
    ⟨arrays (handle (some v) none none) (.cmv { job with discards := [(0, 2)] }) 0 0 0, _, _, _, _, rfl, rfl, rfl, rfl, rfl, rfl, rfl⟩,
    ⟨arrays (handle (some v) none none) (.cmv { job with done := [(0, #[2])] }) 0 0 0, _, _, _, _, rfl, rfl, rfl, rfl, rfl, by decide⟩,
    ⟨arrays (handle (some (version true)) none none) (.cmv job) 0 0 0, _, _, _, _, rfl, rfl, rfl, rfl, rfl⟩,
    ⟨arrays (handle (some v) none none) .mload 0 0 0, _, _, _, rfl, rfl, rfl, rfl, rfl, by decide +kernel⟩,
    ⟨arrays (handle (some v) none (some (0, 7))) .mload 0 0 0, _, _, rfl, rfl, rfl⟩⟩
  · intro x h; cases h; exact ⟨by decide, by decide⟩
  · intro o ho h; simp [arrays, withX, at_, with_] at ho; subst ho; exact absurd h (by decide)
  · intro x h; cases h; exact ⟨by decide, by decide⟩

/-- Pseudo-channel 0 has a command, 5, in its queue. -/
def sequencer (k : CmdKind) (f : Chan → Chan) : State :=
  { up with
    cmds := [(5, ⟨0, 0, 0, 1, 0, 3, k, [], [], none⟩)]
    chans := [(0, f { Chan.initial with dedicated := some 0, queue := [5], handlers := [(1, ⟨1, 1, #[0]⟩)] })] }

/-- A run of command 5 that has met some entries of bad residue. -/
def runner (arith : List (Nat × Nat)) : Run := {
  cmd := 5, hart := 0, slot := 1, b := Vector.replicate 16 0, pcw := 0, count := 7, lo := 0x200000, hi := 0x400000, openRow := none
  reply := [], rows := 2, replyAt := 0, arith := arith, paid := false }

theorem witness_BankPoints :
    let waits := fun (s : State) (c : Cmd) => (s.chanAt 0).run = none ∧ (s.chanAt 0).queue = [5] ∧ mget? s.cmds 5 = some c
    (∃ s c h, waits s c ∧ c.kind = .binst (.good h) 0 15) ∧ (∃ s c, waits s c ∧ c.kind = .binst (.bad 0x31 0) 0 0) ∧
    (∃ s c args, waits s c ∧ c.kind = .bmsg 0 0 2 args 0 1 ∧ mget? (s.chanAt 0).handlers 2 = none) ∧
    (∃ s c args h, waits s c ∧ c.kind = .bmsg 0 0 1 args 0 1 ∧ mget? (s.chanAt 0).handlers 1 = some h ∧
      ∀ c ∈ s.cmds, c.2.late = [] ∧ c.2.lines = []) ∧
    (∀ l, l = [] ∨ l = [(63, 5)] → ∃ (s : State) (r : Run) (c : Cmd), ∃ args, (s.chanAt 0).run = some r ∧ r.arith = l ∧ mget? s.cmds r.cmd = some c ∧
      c.kind = .bmsg 0 0 1 args 0 2) ∧
    (∃ s : State, (s.chanAt 0).switching = some true) ∧
    let joined := fun (q : Kitty) => { q with waiting := q.waiting ++ List.replicate 1 (⟨3, false, none⟩ : StackOp) }
    let first := fun (q : Kitty) (o : StackOp) => o.bankOp = true ∧ o.cost ≤ q.credit ∧ o.cost ≤ q.level
    let second := fun (q : Kitty) (o : StackOp) => o.bankOp = false ∧ o.cost ≤ q.level
    (∃ s : State, (s.kittyAt 11).waiting = [] ∧ (s.kittyAt 11).level = 3) ∧
    (∃ s : State, (joined (s.kittyAt 11)).next? = none ∧ (s.kittyAt 11).level = 2) ∧
    (∃ q pre o post, q.waiting = pre ++ o :: post ∧ first q o ∧ pre ≠ [] ∧ (∀ w ∈ pre, ¬first q w) ∧ q.next? = some pre.length) ∧
    (∃ q o, q.waiting = [] ++ o :: [] ∧ (∀ w ∈ q.waiting, ¬first q w) ∧ second q o ∧ o.cost = q.level) ∧
    ∃ q o, q.waiting = [] ++ o :: [] ∧ (∀ w ∈ q.waiting, ¬first q w ∧ w.bankOp = true) ∧ o.cost + 4096 = q.level := by
  refine ⟨⟨sequencer (.binst (.good ⟨1, 1, #[0]⟩) 0 15) id, _, _, ⟨rfl, rfl, rfl⟩, rfl⟩,
    ⟨sequencer (.binst (.bad 0x31 0) 0 0) id, _, ⟨rfl, rfl, rfl⟩, rfl⟩, ⟨sequencer (.bmsg 0 0 2 [] 0 1) id, _, _, ⟨rfl, rfl, rfl⟩, rfl, rfl⟩,
    ⟨sequencer (.bmsg 0 0 1 [] 0 1) id, _, _, _, ⟨rfl, rfl, rfl⟩, rfl, rfl, ?_⟩,
    fun l _ => ⟨sequencer (.bmsg 0 0 1 [] 0 2) (fun c => { c with run := some (runner l) }), _, _, _, rfl, rfl, rfl, rfl⟩,
    ⟨sequencer .mload (fun c => { c with switching := some true }), rfl⟩,
    ⟨{ up with kitties := [(11, ⟨3, 0, []⟩)] }, rfl, rfl⟩, ⟨{ up with kitties := [(11, ⟨2, 0, [⟨3, false, none⟩]⟩)] }, by decide, rfl⟩,
    ⟨⟨24, 24, [⟨3, false, none⟩, ⟨24, true, some 0⟩]⟩, [⟨3, false, none⟩], _, [], rfl, by decide, by decide, by decide, by decide⟩,
    ⟨⟨3, 24, [⟨3, false, none⟩]⟩, _, rfl, by decide, by decide, rfl⟩, ⟨⟨4112, 15, [⟨16, true, some 0⟩]⟩, _, rfl, by decide, rfl⟩⟩
  intro c hc; have : c = (5, ⟨0, 0, 0, 1, 0, 3, .bmsg 0 0 1 [] 0 1, [], [], none⟩) := by simpa [sequencer] using hc
  subst this; exact ⟨rfl, rfl⟩

/-- Context 0 has a directory of the entries e, the next identifier n and the quota q; x1 to x3 hold some values. -/
def directory (e : Map DoveEntry) (n q : Nat) (a b c : XWord) : State := (withX a b c).setDove { entries := e, next := n, quota := q }

theorem directory_commit (e : Map DoveEntry) (n q : Nat) (a b c : XWord) : MayCommit (directory e n q a b c) :=
  ⟨rfl, ⟨rfl, rfl, rfl⟩, rfl, rfl⟩

/-- A page after `parent` with the row of zeros, or with another row. -/
def page (parent count used : Nat) (row : BitVec 32) : DoveEntry :=
  { parent := parent, tokens := List.replicate 16 row, page := 5, count := count, used := used }

theorem witness_Dovetail :
    let row := fun (s : State) => (span 0 16).map (fun j => BitVec.ofNat 32 (leNat (memReadN s.committed.core.scratch ((s.x 2).toNat + 4 * j) 4)))
    let find := fun (s : State) => s.committed.dove.entries.find? (fun e => e.2.parent == (s.x 1).toNat && e.2.tokens == row s)
    let victims := fun (s : State) => s.committed.dove.entries.filter (fun e =>
      e.2.count == 0 && s.committed.dove.entries.all (fun o => o.2.parent != e.1) && e.1 != (s.x 1).toNat)
    (∃ s, MayCommit s ∧ s.x 1 = 0 ∧ SpaceRange s (s.x 2) 64 64 ∧ s.x 3 = 5 ∧ (find s).map (fun e => (e.1, e.2.count)) = some (1, 0xFFFE)) ∧
    (∃ s, MayCommit s ∧ s.x 1 = 0 ∧ SpaceRange s (s.x 2) 64 64 ∧ s.x 3 = 5 ∧ (find s).map (fun e => (e.1, e.2.count)) = some (1, 0xFFFF)) ∧
    (∃ s, MayCommit s ∧ s.x 1 = 0xFFFFFFFF ∧ s.x 3 = 5 ∧ mget? s.committed.dove.entries (s.x 1).toNat = none) ∧
    (∃ s, MayCommit s ∧ s.x 1 = 0 ∧ s.x 3 = 5 ∧ find s = none ∧ s.committed.dove.next = 2 ^ 32) ∧
    (∃ s, MayCommit s ∧ s.x 1 = 1 ∧ s.x 3 = 5 ∧ (mget? s.committed.dove.entries 1).isSome = true ∧ find s = none ∧
      s.committed.dove.next = 2 ^ 32 - 1 ∧ s.committed.dove.entries.length < s.committed.dove.quota) ∧
    (∃ s, MayCommit s ∧ s.x 1 = 1 ∧ s.x 3 = 5 ∧ (mget? s.committed.dove.entries 1).isSome = true ∧ find s = none ∧
      s.committed.dove.next < 2 ^ 32 ∧ s.committed.dove.quota = s.committed.dove.entries.length ∧ victims s = []) ∧
    (∃ s, MayCommit s ∧ s.x 1 = 0 ∧ s.x 3 = 5 ∧ find s = none ∧ s.committed.dove.next < 2 ^ 32 ∧
      s.committed.dove.quota = s.committed.dove.entries.length ∧ victims s = [(1, page 0 0 4 7), (2, page 0 0 3 7), (4, page 0 0 3 7)]) ∧
    (∃ s, MayCommit s ∧ (mget? s.committed.dove.entries (s.x 1).toNat).map (·.count) = some 0xFFFF) ∧
    ∃ s, MayCommit s ∧ (mget? s.committed.dove.entries (s.x 1).toNat).map (·.count) = some 0 :=
  ⟨⟨directory [(1, page 0 0xFFFE 1 0)] 2 4 0 0x1FFFC0 5, directory_commit .., rfl, ⟨by decide, by decide, by decide +kernel, by decide +kernel⟩,
      rfl, by decide +kernel⟩,
    ⟨directory [(1, page 0 0xFFFF 1 0)] 2 4 0 0 5, directory_commit .., rfl, ⟨by decide, by decide, by decide +kernel, by decide +kernel⟩,
      rfl, by decide +kernel⟩,
    ⟨directory [(1, page 0 0 1 0)] 2 4 0xFFFFFFFF 0 5, directory_commit .., rfl, rfl, by decide +kernel⟩,
    ⟨directory [] (2 ^ 32) 4 0 0 5, directory_commit .., rfl, rfl, by decide +kernel, by decide +kernel⟩,
    ⟨directory [(1, page 0 0 1 0)] (2 ^ 32 - 1) 2 1 0 5, directory_commit .., rfl, rfl, by decide +kernel, by decide +kernel, by decide +kernel,
      by decide +kernel⟩,
    ⟨directory [(1, page 0 0 1 0)] 2 1 1 0 5, directory_commit .., rfl, rfl, by decide +kernel, by decide +kernel, by decide +kernel,
      by decide +kernel, by decide +kernel⟩,
    ⟨directory [(1, page 0 0 4 7), (2, page 0 0 3 7), (4, page 0 0 3 7)] 5 3 0 0 5, directory_commit .., rfl, rfl, by decide +kernel,
      by decide +kernel, by decide +kernel, by decide +kernel⟩,
    ⟨directory [(1, page 0 0xFFFF 1 0)] 2 4 1 0 0, directory_commit .., by decide +kernel⟩,
    ⟨directory [(1, page 0 0 1 0)] 2 4 1 0 0, directory_commit .., by decide +kernel⟩⟩

theorem witness_Brixem :
    let served := fun (s : State) (ops : List StackOp) =>
      ((((s.setKitty 0 { s.kittyAt 0 with waiting := (s.kittyAt 0).waiting ++ ops }).serveStack 0).chanAt 0).run).any (fun r => r.paid)
    (∃ (s : State) (r : Run), (s.chanAt s.bank).run = some r ∧ (s.chanAt s.bank).switching = none ∧
      r.count + 1 = boundOf (s.chanAt s.bank) r ∧ (r.b[1] : XWord).toNat = 1 ∧ 1 < r.rows) ∧
    (∃ (s : State) (r : Run), (s.chanAt s.bank).run = some r ∧ r.count + 1 ≤ boundOf (s.chanAt s.bank) r ∧
      (s.chanAt s.bank).allBank = false ∧ (r.b[1] : XWord).toNat % 8 = 0 ∧ (r.b[1] : XWord).toNat + 8 = r.hi ∧ r.paid = true ∧
      ∀ a, mget? s.badUnits a = none) ∧
    (∃ (s : State) (r : Run), (s.chanAt s.bank).run = some r ∧ r.paid = false ∧ ∃ o ∈ (s.kittyAt 0).waiting, o.chan = some 0) ∧
    (∃ (s : State) (r : Run), (s.chanAt s.bank).run = some r ∧ r.paid = false ∧ (∀ o ∈ (s.kittyAt 0).waiting, o.chan ≠ some 0) ∧
      served s [⟨24, true, some 0⟩] = true) ∧
    (∃ (s : State) (r : Run), (s.chanAt s.bank).run = some r ∧ r.paid = false ∧ (∀ o ∈ (s.kittyAt 0).waiting, o.chan ≠ some 0) ∧
      served s [⟨24, true, some 0⟩] = false) ∧
    (∃ (s : State) (r : Run), (s.chanAt s.bank).run = some r ∧ (s.chanAt s.bank).allBank = false ∧ r.paid = true ∧
      (r.b[1] : XWord).toNat = 0x200000 ∧ ∃ u, bankRead s r 0x200000 8 = .error u) ∧
    (∃ (s : State) (r : Run), (s.chanAt s.bank).run = some r ∧ (s.chanAt s.bank).allBank = true ∧ r.paid = true ∧ r.openRow = some 64 ∧
      (r.b[1] : XWord).toNat = 0x200000 ∧ (∃ u, bankRead s r 0x200000 32 = .error u) ∧ ∃ u, bankRead s r 0x200000 512 = .error u) ∧
    ∃ (s : State) (r : Run), (s.chanAt s.bank).run = some r ∧ r.count + 1 ≤ boundOf (s.chanAt s.bank) r ∧
      (s.chanAt s.bank).allBank = true ∧
      (r.b[1] : XWord).toNat / 2 ^ 15 % 2 ^ 14 = 64 ∧ r.lo ≤ 2 ^ 15 * 64 ∧ 2 ^ 15 * 65 ≤ r.hi ∧ r.openRow = some 64 ∧
      ∀ a, mget? s.badUnits a = none :=
  ⟨⟨handler false false none 1 0 [], _, rfl, rfl, rfl, by decide, by decide⟩,
    ⟨handler false true none 0x3FFFF8 5 [], _, rfl, by decide, rfl, by decide, by decide, rfl, fun _ => rfl⟩,
    ⟨handler true false none 0 0 [⟨24, true, some 0⟩], _, rfl, rfl, _, List.mem_singleton.mpr rfl, rfl⟩,
    ⟨handler true false none 0 51 [⟨24, true, some 1⟩, ⟨3, false, none⟩], _, rfl, rfl, by decide, by decide⟩,
    ⟨handler true false none 0 23 [], _, rfl, rfl, by decide, by decide⟩,
    ⟨{ handler false true none 0x200000 0 [] with badUnits := [(0x100003, 3)] }, _, rfl, rfl, rfl, by decide, _, rfl⟩,
    ⟨{ handler true true (some 64) 0x200000 0 [] with badUnits := [(0x10000F, 3)] }, _, rfl, rfl, rfl, rfl, by decide, ⟨_, rfl⟩, _, rfl⟩,
    ⟨handler true false (some 64) 0x200000 24 [], _, rfl, by decide, rfl, by decide, by decide, by decide, rfl, fun _ => rfl⟩⟩

/-- A hart that holds a lane group of core 0, others waiting. -/
def holder (since now : Nat) (cls : BitVec 2) (w : List (Nat × Hart)) : State :=
  let s := with_ (fun h => { h with laneSince := since, cls := 1 })
  { s with
    gtime := now, harts := w.map (fun p => (p.1, { p.2 with cls := cls }))
    cores := [(0, { s.coreAt 0 with lanes := Vector.ofFn (fun i : Fin 4 => if i.val = 0 then some 0 else none), laneWait := w.map (fun p => (p.1, 0)) })] }

theorem witness_LanePoints :
    let mates := fun (s : State) => (s.coreAt 0).laneWait.map (fun w => s.hartAt w.1)
    let ready := fun (s : State) => s.hart.live = .running ∧ s.hart.wait = none ∧ s.hart.undo = none ∧ s.hart.timed = false ∧
      queuesEmpty s.regs = true ∧ commitWait s = none ∧ lanesHeld (s.coreAt 0) 0 ≠ 0
    (∀ l : Fin 3, ∃ s, ready s ∧ s.hart.tl = l.val ∧ ∃ w ∈ mates s, w.timed = true) ∧
    (∃ s, ready s ∧ s.hart.laneSince + 4096 = s.gtime ∧ ∃ w ∈ mates s, s.hart.cls.toNat ≤ w.cls.toNat) ∧
    (∃ s : State, ∃ w, (s.coreAt 0).laneWait = [w] ∧ (s.hartAt w.1).timed = true ∧
      (s.hartAt w.1).laneReq - lanesHeld (s.coreAt 0) w.1 = lanesFree (s.coreAt 0)) ∧
    (∃ s : State, ∃ x w, (s.coreAt 0).laneWait = [x, w] ∧ (∀ x ∈ (s.coreAt 0).laneWait, (s.hartAt x.1).timed = false) ∧
      lanesFree (s.coreAt 0) = 3 ∧ w.2 = x.2 ∧ (w.1 + 7 - (s.coreAt 0).laneLast % 8) % 8 < (x.1 + 7 - (s.coreAt 0).laneLast % 8) % 8) ∧
    (∃ s, Traps s ∧ AtConvoy s ∧ s.hart.cyb ≠ 0 ∧ s.hart.stripOpened + s.hart.cyb.toNat = s.gtime) ∧
    ∀ w : Word, w = 0xF8000080 ∨ w = 0x40000204 → ∃ s : State, s.regs.pfxValid = false ∧
      (instrAt s s.regs.pc).map (fun p => (p.1.isPfx, p.2)) = some (decide (w = 0xF8000080), w) :=
  ⟨fun l =>
      let s := holder 0 1 0 [(1, { loadedHart false with timed := true })]
      ⟨{ s with hart := { s.hart with tl := l.val } }, ⟨rfl, rfl, rfl, rfl, rfl, rfl, (by decide : lanesHeld (s.coreAt 0) 0 ≠ 0)⟩, rfl, _, .head _, rfl⟩,
    ⟨holder 1 4097 1 [(1, loadedHart false)], ⟨rfl, rfl, rfl, rfl, rfl, rfl, by decide⟩, rfl, _, .head _, by decide⟩,
    ⟨holder 0 1 0 [(1, { loadedHart false with timed := true, laneReq := 3 })], _, rfl, rfl, rfl⟩,
    ⟨holder 0 1 0 [(7, loadedHart false), (1, loadedHart false)], _, _, rfl, by decide, rfl, rfl, by decide⟩,
    ⟨{ with_ (fun h => { h with cyb := 7 }) with gtime := 7 }, ⟨rfl, rfl, (by decide : (1 : BitVec 47) ≠ 0)⟩, ⟨rfl, rfl, rfl⟩, by decide, by decide⟩,
    fun w h => ⟨{ up with mem := memWriteN up.mem 0x200000 (leBytes 4 w.toNat) }, rfl, by rcases h with rfl | rfl <;> decide +kernel⟩⟩

theorem next_of {r : Result} {p : State → Bool} (h : (match r with | .next v => p v | _ => false) = true) : ∃ v, r = .next v ∧ p v = true := by
  split at h
  · exact ⟨_, rfl, h⟩
  · cases h

/-- A launch of one member with one lane group. -/
def launch (order : Nat) (blocking : Bool) (e : Option Nat) : Launch := {
  spec := BitVec.ofNat 512 (0x2000 + 2 ^ 64 + 2 ^ 80), record := 0x40, launcher := none, rootHseq := none, deps := [], acceptedAt := 0
  order := order, blocking := blocking, eligibleAt := e }

/-- Context 0 has launches in queue 0; f changes the gang and hart of the executing hart. -/
def queued (l : List Launch) (now : Nat) : State :=
  let s := up
  { s with gtime := now, ctxs := [(0, { s.ctxAt 0 with queues := [(0, l)] })] }

/-- The hart of member 0 exits. -/
def exiting (exited : List Nat) (size : Nat) (m : Nat → Option Nat) : State :=
  let s := with_ (fun h => { h with wait := some .exit })
  { s with gangs := [(1, { gang with exited := exited, size := size })], cores := [(0, { s.coreAt 0 with holder := m 0 })] }

theorem witness_Placements :
    (∃ s : State, ∃ l ∈ (s.ctxAt 0).queues.flatMap (fun q => q.2), l.blocking = false ∧ l.eligibleAt = some 1 ∧ 1 + 2 ^ 20 = s.gtime) ∧
    (∃ (s : State) (l x : Launch), (s.ctxAt 0).queues.flatMap (fun q => q.2) = [l, x] ∧ fits s 0 l = true ∧ specClass x.spec = specClass l.spec ∧
      l.order < x.order ∧ l.deps = [] ∧ l.blocking = false ∧ x.blocking = false ∧ specHarts l.spec = 1 ∧ (s.hartAt 16).live = .free ∧
      1 ≤ coreRoom s 0 l.spec 2) ∧
    (∃ (s : State) (k : Nat) (x : Hart), (k, x) ∈ s.allHarts ∧ k < Config.stewardBase ∧ x.live ≠ .free ∧ x.ctx ≠ 1) ∧
    (∃ (s : State) (g : Gang), mget? s.gangs s.hart.gang = some g ∧ s.hart.live = .running ∧ s.hart.wait = some .exit ∧ s.hart.tickets = [] ∧
      s.hart.matrixQ = [] ∧ g.exited.length + 1 = g.size ∧ s.core.holder = some s.hart.gang) ∧
    ∃ (s : State) (g : Gang), mget? s.gangs s.hart.gang = some g ∧ s.hart.live = .running ∧ s.hart.wait = some .exit ∧ s.hart.tickets = [] ∧
      s.hart.matrixQ = [] ∧ g.exited.length + 1 ≠ g.size ∧ s.core.holder = none :=
  ⟨⟨queued [launch 0 false (some 1)] (1 + 2 ^ 20), _, .head _, rfl, rfl, rfl⟩,
    ⟨queued [launch 0 false (some 0), launch 1 false (some 0)] 1, _, _, rfl, by decide +kernel, by decide +kernel, by decide, rfl, rfl, rfl,
      by decide +kernel, by decide, by decide +kernel⟩,
    ⟨up, _, _, .head _, by decide, by decide, by decide⟩,
    ⟨exiting [] 1 (fun _ => some 1), _, rfl, rfl, rfl, rfl, rfl, rfl, rfl⟩, ⟨exiting [] 2 (fun _ => none), _, rfl, rfl, rfl, rfl, rfl, by decide, rfl⟩⟩

/-- One transfer of a row to member 0, for gang 1 or another. -/
def sent (g : Nat) : State :=
  { up with transfers := [{ slot := 7, stamp := 1, gang := g, member := 0, hart := 0, core := 0, dst := 0, rows := [List.replicate 64 1], due := none }] }

/-- The hart waits until the word at 0x40 is not x2. -/
def watching (b : XWord) : State :=
  with_ (fun h => { h with wait := some (.addr 3 1 2 4), regs := { h.regs with x := (h.regs.x.set 1 0x40).set 2 b } })

theorem witness_WaitPoints :
    (∃ (s : State) (g : Gang), mget? s.gangs 1 = some g ∧ (g.barrier 0).completed < 1 ∧
      (∀ m, m < g.size ∧ m ∉ g.exited → 1 ≤ mgetD (g.barrier 0).arrived m 0) ∧ ∃ m, (m < g.size ∧ m ∉ g.exited) ∧ mgetD (g.barrier 0).arrived m 0 = 1) ∧
    (∃ s : State, s.hart.wait = some (.time 5) ∧ 5 = s.gtime) ∧
    (∃ s v : State, s.hart.live = .running ∧ s.hart.wait = some (.addr 3 1 2 0) ∧
      exec (.waitaddr 3 1 2 0) (s.setHart { s.hart with wait := none }) = .next v ∧ (v.hart.wait == none) = true) ∧
    (∀ b : XWord, b = 0 ∨ b = 5 → ∃ s : State, s.hart.live = .running ∧ s.hart.wait = some (.addr 3 1 2 4) ∧
      let g := s.setHart { s.hart with wait := none }
      MayCommit g ∧ OrderedAt g.committed .read (g.x 1) 8 4 0x200040 ∧ g.x 2 = b ∧
        xword (leNat (memReadN g.committed.mem 0x200040 8)) = 0) ∧
    (∀ m : Bool, ∃ s u : State, s.hart.wait = some (.addr 3 1 2 4) ∧
      let g := s.setHart { s.hart with wait := none }
      orderedAccess g.committed .read (g.x 1) 8 4 = .ok (0x200040, u) ∧ (u.agenda != s.agenda) = m) ∧
    (∀ m n : Bool, ∃ s : State, s.agenda = [.own .vownService 0 0] ∧ (s.hartAt 0).wait = some .vown ∧ (s.coreAt 0).owned = m ∧
      (s.coreAt 0).owner.toNat = (s.hartAt 0).ctx ∧ (s.hartAt 0).scrubbed = n) ∧
    (∃ (s : State) (t : Transfer), s.transfers[0]? = some t ∧ s.hart.gang = t.gang ∧ s.hart.memberIdx = t.member ∧ s.hart.live ≠ .free ∧
      (s.coreAt t.core).holder = some t.gang ∧ s.hart.live ≠ .stopped) ∧
    (∃ (s : State) (t : Transfer), s.transfers[0]? = some t ∧ (s.hartAt t.hart).gang ≠ t.gang) ∧
    ∃ s : State, (∀ l ∈ s.leaders, ¬(l.ctx = 0 ∧ l.page = 9)) ∧ ∃ h ∈ s.allHarts, h.2.wait = some (.page 0 9) := by
  refine ⟨⟨{ up with gangs := [(1, { gang with bars := [(0, { completed := 0, arrived := [(0, 1), (1, 2)] })] })] }, _, rfl, by decide, ?_, 0,
      by decide, rfl⟩, ⟨{ with_ (fun h => { h with wait := some (.time 5) }) with gtime := 5 }, rfl, rfl⟩, ?_, ?_, ?_,
    fun m n => ⟨{ with_ (fun h => { h with wait := some .vown, scrubbed := n }) with
      agenda := [.own .vownService 0 0], cores := [(0, { up.coreAt 0 with owned := m })] }, rfl, rfl, rfl, rfl, rfl⟩, ⟨sent 1, _, rfl, rfl, rfl,
      by decide, rfl, by decide⟩, ⟨sent 2, _, rfl, by decide⟩,
    ⟨with_ (fun h => { h with wait := some (.page 0 9) }), by decide, _, .head _, rfl⟩⟩
  · rintro m ⟨hm, -⟩; have : m = 0 ∨ m = 1 := by change m < 2 at hm; omega
    rcases this with rfl | rfl <;> decide
  · let s := with_ (fun h => { h with wait := some (.addr 3 1 2 0), regs := { h.regs with x := (h.regs.x.set 1 0x40).set 2 5 } })
    obtain ⟨v, h1, h2⟩ := next_of (r := exec (.waitaddr 3 1 2 0) (s.setHart { s.hart with wait := none })) (p := fun v => v.hart.wait == none)
      (by decide +kernel)
    exact ⟨s, v, rfl, rfl, h1, h2⟩
  · intro b h
    refine ⟨watching b, rfl, rfl, ⟨rfl, ⟨rfl, rfl, rfl⟩, rfl, rfl⟩, ?_, rfl, ?_⟩ <;> rcases h with rfl | rfl
    · exact of_addr (by decide +kernel)
    · exact of_addr (by decide +kernel)
    · decide +kernel
    · decide +kernel
  · intro m
    let s := { watching 0 with badUnits := if m then [(0, 1)] else [] }
    let g := s.setHart { s.hart with wait := none }
    obtain ⟨⟨pa, u⟩, h1, h2⟩ := ok_of (r := orderedAccess g.committed .read (g.x 1) 8 4)
      (p := fun v => v.1 == 0x200040 && (v.2.agenda != s.agenda) == m) (by cases m <;> decide +kernel)
    simp only [Bool.and_eq_true, beq_iff_eq] at h2
    obtain ⟨rfl, h2⟩ := h2
    exact ⟨s, u, rfl, h1, h2⟩

/-- Context 1 runs too; f changes core 0. -/
def twoContexts (f : Core → Core) : State :=
  let s := up
  { s with ctxs := mset s.ctxs 1 { Ctx.initial with state := .run }, cores := [(0, f (s.coreAt 0))] }

/-- An image of a gang's local stores. -/
def image (g : Nat) (key : BitVec 256) : LocalImage := {
  gang := g, key := key, request := 4096, scratch := [(0, 7)], tags := [], acc := [], tflags := [], wbuf := [], keep := 3, dealExpert := 1, dealRound := 2
  dealRunning := true, dealSlot := 1 }

theorem witness_CoreMoves :
    let free := fun (s : State) => (s.coreAt 0).serves = some 0 ∧ (s.coreAt 0).moving = none ∧ (s.coreAt 0).retired = false ∧
      (s.ctxAt 1).state = .run ∧ (s.ctxAt 1).pending = [] ∧ (∀ g ∈ s.gangs, g.2.timed = false) ∧
      ∀ x ∈ s.allHarts, x.2.timed = false ∧ x.2.undo = none
    let ofCtx := fun (s : State) c g => (mget? s.gangs g).any (fun x => x.ctx == c)
    let mine := fun (s : State) (i : LocalImage) => ofCtx s 1 i.gang = true ∧ i.key = (s.ctxAt 1).key
    (∃ s, free s ∧ (s.coreAt 0).holder = some 1 ∧ ofCtx s 0 1 = true) ∧
    (∃ s, free s ∧ (s.coreAt 0).holder = none ∧ (s.coreAt 0).saved = []) ∧
    (∃ s, free s ∧ (s.coreAt 0).holder = none ∧ (s.coreAt 0).saved = [image 1 0, image 2 5, image 2 0] ∧
      ¬mine s (image 1 0) ∧ ¬mine s (image 2 5) ∧ mine s (image 2 0)) ∧
    (∃ s, free s ∧ s.hart.tl = 1 ∧ s.hart.wait = some (.lanesSetvl 5 6 7 1)) ∧
    (∃ s, free s ∧ s.hart.tl = 1 ∧ s.hart.wait = none) ∧
    (∃ s h, free s ∧ h ∈ s.allHarts ∧ h.1 / 8 = 0 ∧ h.2.ctx = 1 ∧ h.2.live = .stopped ∧ h.2.sealed = some (s.ctxAt 1).key) ∧
    (∀ l, l = [] ∨ l = [.release] → ∃ (s : State) (g : Gang), (s.coreAt 0).moving = some 1 ∧ (s.coreAt 0).holder = some 1 ∧
      mget? s.gangs 1 = some g ∧ storesBusy s 0 = false ∧ (s.ctxAt 1).state = .run ∧ (s.ctxAt 1).pending = l) ∧
    (∃ s : State, (0, s.hart) ∈ s.allHarts ∧ s.hart.live = .running ∧ s.hart.wait = some (.time (s.gtime + 1))) ∧
    (∃ (s : State) (x : Transfer), s.transfers[0]? = some x ∧ x.due = some (s.gtime + 1)) ∧
    (∃ s : State, (s.coreAt 0).laneWait ≠ [] ∧ 0 ∈ mkeys s.cores) ∧
    ∃ (s : State) (c : Ctx) (h : Handle) (v : Version), (0, c) ∈ s.ctxs ∧ (1, h) ∈ c.handles ∧ h.cur = some v ∧ v.arrays[0]? = some 0 ∧
      calibrationDue { s with gtime := s.gtime + 1 } 0 = true := by
  have two : ∀ x ∈ up.allHarts, x.2.timed = false ∧ x.2.undo = none := by decide
  have one : ∀ g ∈ up.gangs, g.2.timed = false := by decide
  refine ⟨⟨twoContexts id, ⟨rfl, rfl, rfl, rfl, rfl, one, two⟩, rfl, rfl⟩,
    ⟨twoContexts (fun k => { k with holder := none }), ⟨rfl, rfl, rfl, rfl, rfl, one, two⟩, rfl, rfl⟩,
    ⟨{ twoContexts (fun k => { k with holder := none, saved := [image 1 0, image 2 5, image 2 0] }) with gangs := [(1, gang), (2, { gang with ctx := 1 })] },
      ⟨rfl, rfl, rfl, rfl, rfl, by decide, two⟩, rfl, rfl, by decide, by decide, by decide⟩,
    ⟨{ twoContexts id with hart := { up.hart with tl := 1, wait := some (.lanesSetvl 5 6 7 1) } }, ⟨rfl, rfl, rfl, rfl, rfl, one, by decide⟩,
      rfl, rfl⟩,
    ⟨{ twoContexts id with hart := { up.hart with tl := 1 } }, ⟨rfl, rfl, rfl, rfl, rfl, one, by decide⟩, rfl, rfl⟩,
    ⟨{ twoContexts id with harts := [(1, { loadedHart false with live := .stopped, sealed := some 0, ctx := 1 })] }, _,
      ⟨rfl, rfl, rfl, rfl, rfl, one, by decide⟩, .tail _ (.head _), rfl, rfl, rfl, rfl⟩,
    fun l h => ⟨{ twoContexts (fun k => { k with moving := some 1 }) with ctxs := [(1, { Ctx.initial with state := .run, pending := l })] }, _,
      rfl, rfl, rfl, by rcases h with rfl | rfl <;> decide +kernel, rfl, rfl⟩,
    ⟨with_ (fun h => { h with wait := some (.time 1) }), .head _, rfl, rfl⟩,
    ⟨{ sent 1 with transfers := (sent 1).transfers.map (fun x => { x with due := some 1 }) }, _, rfl, rfl⟩,
    ⟨holder 0 1 0 [(1, loadedHart false)], by decide, by decide⟩,
    ⟨{ arrays (handle (some (version false)) none none) .mload 0 0 0 with gtime := 1249999999 }, _, _, _, .head _, .head _, rfl, rfl,
      by decide +kernel⟩⟩

/-- Context 0 with something pending, and core 0 owned by it. -/
def ending (p : List Pending) : State :=
  let s := up
  { s with ctxs := [(0, { s.ctxAt 0 with pending := p })] }

theorem witness_ContextEnds :
    (∃ s : State, (∀ x ∈ s.cmds, x.2.ctx ≠ 0) ∧ (s.ctxAt 0).pending = [.kill 1 0 4 5 6 7, .error]) ∧
    (∃ s : State, (∀ x ∈ s.cmds, x.2.ctx ≠ 0) ∧ (s.ctxAt 0).pending = [.release] ∧ (s.ctxAt 0).errBase + 16384 ≤ Config.auditBase) ∧
    (∃ s : State, (∀ x ∈ s.cmds, x.2.ctx ≠ 0) ∧ (s.ctxAt 0).pending = [.error]) ∧
    ∃ (s : State) (g : Gang), (s.coreAt 0).owned = true ∧ (∃ x ∈ s.allHarts, x.1 / 8 = 0 ∧ x.1 < Config.stewardBase ∧ x.2.live ≠ .free ∧
      x.2.ctx = (s.coreAt 0).owner.toNat ∧ x.2.vn * x.2.vlmax ≠ 0) ∧ (s.hartAt 0).live ≠ .free ∧ (s.hartAt 0).steward = false ∧
      (s.coreAt 0).holder = some 1 ∧ mget? s.gangs 1 = some g :=
  ⟨⟨ending [.kill 1 0 4 5 6 7, .error], by decide, rfl⟩, ⟨ending [.release], by decide, rfl, by decide⟩, ⟨ending [.error], by decide, rfl⟩,
    ⟨up, _, rfl, ⟨_, .head _, by decide, by decide, by decide, rfl, by decide⟩, by decide, rfl, rfl, rfl⟩⟩

/-- Links have left L0 at a time. -/
def links (down : Map Nat) (now : Nat) : State :=
  let s := up
  { s with gtime := now, dev := { s.dev with linksDown := down } }

theorem witness_LinksAndStops :
    (∃ s : State, .release ∈ (s.ctxAt 63).pending) ∧ (∃ s : State, .release ∉ (s.ctxAt 63).pending ∧ (s.ctxAt 63).state = .free) ∧
    (∃ s : State, .release ∉ (s.ctxAt 0).pending ∧ (s.ctxAt 0).state = .run ∧ (s.ctxAt 0).pending = []) ∧
    (∃ s : State, mget? s.dev.linksDown 0 = some 5 ∧ 5 + 125000000 = s.gtime ∧ s.dev.hostFailed = false) ∧
    (∃ s : State, mget? s.dev.linksDown 0 = some 5 ∧ 5 + 125000000 = s.gtime ∧ s.dev.hostFailed = true) ∧
    (∃ s : State, mget? s.dev.linksDown 8 = none ∧ s.dev.pfail.getLsbD 7 = false) ∧
    (∃ s : State, mget? s.dev.linksDown 8 = some 5 ∧ s.gtime + 1 = 5 + 125000000) ∧
    ∃ s : State, mget? s.dev.linksDown (1 + 7) = some 5 ∧ 5 + 125000000 = s.gtime :=
  ⟨⟨{ up with ctxs := [(63, { Ctx.initial with pending := [.release] })] }, .head _⟩, ⟨up, by decide, rfl⟩, ⟨up, by decide, rfl, rfl⟩,
    ⟨links [(0, 5)] 125000005, rfl, rfl, rfl⟩,
    ⟨{ links [(0, 5)] 125000005 with dev := { up.dev with linksDown := [(0, 5)], hostFailed := true } }, rfl, rfl, rfl⟩, ⟨up, rfl, rfl⟩, ⟨links [(8, 5)] 125000004, rfl, rfl⟩, ⟨links [(8, 5)] 125000005, rfl, rfl⟩⟩

/-- Context 0 in a state, its device booted and its root start or reservation as given; `next` is the audit log's next number. -/
def interface_ (st : CtxState) (g : Option Grant) (root : Bool) (next addr : Nat) : State :=
  let s := up
  { s with
    ctxs := [(0, { s.ctxAt 0 with state := st, reserved := g, rootLive := root, startAddr := BitVec.ofNat 51 addr })]
    dev := { s.dev with bootResult := 1, floor := 0, next := xword next } }

/-- A grant of two frames. -/
def twoFrames : Grant := {
  frames := [2, 3], slots := [], arrays := 0, dvq := 0, nhvis := 2, peers := 0, hosts := [], ptroot := 0, ptva := 0, framesVa := 0, ftpa := 0 }

/-- As `interface_`, with a launch record at address 0x40. -/
def startable (v : Nat) : State :=
  let s := interface_ .run none false 0 1
  { s with mem := memWriteN s.mem 0x200040 (leBytes 64 v) }

/-- As `interface_`, with a start whose record's second half is the first page of the error queue. -/
def atErrorQueue : State :=
  let s := interface_ .run none false 0 0x3FF
  { s with
    ctxs := mset s.ctxs 0 { s.ctxAt 0 with errBase := 0x400000 }
    mem := memWriteN (memWriteN s.mem 0x2000 (leBytes 8 0x3001)) 0x3078 (leBytes 16 (0x20001F + 0x400007 * 2 ^ 64)) }

theorem witness_Interfaces :
    let reserve := fun (s : State) => 524288 - ((s.dev.next.toNat : Int) - s.dev.floor.toNat) ≤ 1024
    let runs := fun (s : State) => (s.ctxAt 0).state = .run ∧ (s.ctxAt 0).pending = []
    let free := fun s => runs s ∧ s.waiting = [] ∧ (Outside.start 0 1).held s = false
    let next := fun s => free s ∧ (s.ctxAt 0).lastHseq = 0 ∧ (s.ctxAt 0).rootLive = false ∧ ¬reserve s
    (∃ s g, (s.ctxAt 0).reserved = some g ∧ (s.ctxAt 0).state = .free ∧ (s.ctxAt 0).pending = [] ∧ ¬reserve s ∧ booted s = true ∧
      grantMet s 0 g = true ∧ s.ctxs.length < 65535) ∧
    (∃ s : State, (s.ctxAt 0).reserved = none) ∧ (∃ s : State, (s.ctxAt 0).state = .locked ∧ (s.ctxAt 0).pending = [] ∧ ¬reserve s) ∧
    (∃ s : State, (s.ctxAt 0).state = .locked ∧ reserve s ∧ s.dev.next = 524288 - 1024) ∧
    (∃ s : State, (s.ctxAt 0).state = .locked ∧ (s.ctxAt 0).pending = [] ∧ s.waiting = [] ∧ (Outside.start 0 1).held s = false) ∧
    (∃ s, runs s ∧ s.waiting ≠ []) ∧ (∃ s, runs s ∧ s.waiting = [] ∧ (Outside.start 0 1).held s = true) ∧
    (∃ s, free s ∧ (s.ctxAt 0).lastHseq = 0 ∧ (s.ctxAt 0).rootLive = true) ∧
    (∃ s, free s ∧ (s.ctxAt 0).lastHseq = 0 ∧ (s.ctxAt 0).rootLive = false ∧ reserve s) ∧
    (∃ s, next s ∧ (readRecord s 0 (sext 57 (xword (64 * (s.ctxAt 0).startAddr.toNat))) 64).1 = none) ∧
    (∃ s, next s ∧ canonical (sext 57 (xword (64 * (s.ctxAt 0).startAddr.toNat)) + 64) = false) ∧
    (∃ s, runs s ∧ s.waiting = [] ∧ (Outside.start 0 1).held s = true ∧ (mget? s.dev.linksDown 0).isSome = true) ∧
    (∃ s b c, next s ∧ (readRecord s 0 0x40 64).1 = some b ∧ (readRecord s 0 0x80 64).1 = some c ∧
      (∃ g, (s.ctxAt 0).grant = some g ∧ mayMap g (c.2 / 4096 * 4096) 4096 = .ok ()) ∧ specBad (BitVec.ofNat 512 (leNat b.1)) = true) ∧
    (∃ s b c, next s ∧ (readRecord s 0 0xFFC0 64).1 = some b ∧ (readRecord s 0 0x10000 64).1 = some c ∧
      ¬∃ g, (s.ctxAt 0).grant = some g ∧ mayMap g (c.2 / 4096 * 4096) 4096 = .ok ()) ∧
    ∃ s b c, next s ∧ (readRecord s 0 0x40 64).1 = some b ∧ (readRecord s 0 0x80 64).1 = some c ∧
      (∃ g, (s.ctxAt 0).grant = some g ∧ mayMap g (c.2 / 4096 * 4096) 4096 = .ok ()) ∧
      specBad (BitVec.ofNat 512 (leNat b.1)) = false ∧ ∀ d ∈ specDeps (BitVec.ofNat 512 (leNat b.1)), d = 0 :=
  ⟨⟨interface_ .free (some twoFrames) false 0 0, twoFrames, rfl, rfl, rfl, by decide, rfl, by decide +kernel, by decide⟩,
    ⟨up, rfl⟩, ⟨interface_ .locked none false 523263 0, rfl, rfl, by decide⟩, ⟨interface_ .locked none false 523264 0, rfl, by decide, rfl⟩,
    ⟨interface_ .locked none false 0 1, rfl, rfl, rfl, by decide +kernel⟩,
    ⟨{ interface_ .run none false 0 1 with waiting := [(0, .start 0 1)] }, ⟨rfl, rfl⟩, by decide⟩,
    ⟨{ interface_ .run none false 0 1 with cmds := [(0, ⟨0, 0, 0, 1, 0, 1, .mload, [0x200080 / 128], [], none⟩)] }, ⟨rfl, rfl⟩, rfl,
      by decide +kernel⟩,
    ⟨interface_ .run none true 0 1, ⟨⟨rfl, rfl⟩, rfl, by decide +kernel⟩, rfl, rfl⟩,
    ⟨interface_ .run none false 523264 1, ⟨⟨rfl, rfl⟩, rfl, by decide +kernel⟩, rfl, rfl, by decide⟩,
    ⟨interface_ .run none false 0 0x400000000, ⟨⟨⟨rfl, rfl⟩, rfl, by decide +kernel⟩, rfl, rfl, by decide⟩, by decide +kernel⟩,
    ⟨interface_ .run none false 0 0x3FFFFFFFFFFFF, ⟨⟨⟨rfl, rfl⟩, rfl, by decide +kernel⟩, rfl, rfl, by decide⟩, by decide +kernel⟩,
    ⟨let s := interface_ .run none false 0 1; { s with dev := { s.dev with linksDown := [(0, 5)] } }, ⟨rfl, rfl⟩, rfl, by decide +kernel, rfl⟩,
    ⟨startable 0, _, _, ⟨⟨⟨rfl, rfl⟩, rfl, by decide +kernel⟩, rfl, rfl, by decide⟩, rfl, rfl, ⟨_, rfl, rfl⟩, by decide +kernel⟩,
    ⟨atErrorQueue, _, _, ⟨⟨⟨rfl, rfl⟩, rfl, by decide +kernel⟩, rfl, rfl, by decide⟩, rfl, rfl, by rintro ⟨g, h, w⟩; cases h; cases w⟩,
    ⟨startable (0x2000 + 2 ^ 64 + 2 ^ 80), _, _, ⟨⟨⟨rfl, rfl⟩, rfl, by decide +kernel⟩, rfl, rfl, by decide⟩, rfl, rfl, ⟨_, rfl, rfl⟩, by decide +kernel,
      by decide +kernel⟩⟩

theorem witness_DeviceEvents :
    (∃ s : State, s.dev.bootResult = 0 ∧ s.dev.stage = 6) ∧ (∃ s : State, s.dev.bootResult = 0 ∧ s.dev.stage = 3 ∧ s.dev.epochSpent = true) ∧
    (∃ s : State, s.waiting ≠ []) ∧ (∃ s : State, mget? s.dev.linksDown 0 ≠ none) ∧
    (∃ s : State, s.waiting = [] ∧ mget? s.dev.linksDown 0 = none ∧ s.dev.bootResult = 0 ∧ ¬524288 - ((s.dev.next.toNat : Int) - s.dev.floor.toNat) ≤ 1024) ∧
    (∃ s : State, s.waiting = [] ∧ mget? s.dev.linksDown 0 = none ∧ s.dev.bootResult = 1 ∧ ¬524288 - ((s.dev.next.toNat : Int) - s.dev.floor.toNat) ≤ 1024) ∧
    ∃ s : State, s.dev.spdm.session = true ∧ s.dev.throttleStep = 12 ∧ Memory.wf s.mem = true :=
  ⟨⟨{ up with dev := { Device.initial with stage := 6 } }, rfl, rfl⟩, ⟨{ up with dev := { Device.initial with stage := 3, epochSpent := true } }, rfl, rfl, rfl⟩,
    ⟨{ up with waiting := [(0, .start 0 1)] }, by decide⟩, ⟨{ up with dev := { Device.initial with linksDown := [(0, 5)] } }, by decide⟩,
    ⟨{ up with dev := Device.initial }, rfl, rfl, rfl, by decide⟩,
    ⟨interface_ .run none false 0 0, rfl, rfl, rfl, by decide⟩,
    ⟨{ up with dev := { Device.initial with throttleStep := 12, spdm := ⟨true, true, true, true, true⟩ } }, rfl, rfl, by decide +kernel⟩⟩

/-- A booted device whose request register holds some bytes; `next` is the audit log's next number. -/
def asked (l : List Byte) (next : Nat) : State :=
  { State.reset with dev := { Device.initial with bootResult := 1, mreq := l ++ List.replicate (256 - l.length) 0, floor := 0, exported := 0, next := xword next } }

/-- A search in a circle finds two numbers by the time it has passed two good ones. -/
theorem pickFrom_two (good : Nat → Bool) (m k : Nat) : ∀ (start n fuel : Nat), good ((start + k) % m) = true →
    good ((start + k + 1) % m) = true → k + 2 ≤ fuel → n ≤ 2 → (pickFrom good m start n fuel).length = n := by
  induction k with
  | zero =>
    intro start n fuel h1 h2 hf hn
    obtain ⟨f, rfl⟩ : ∃ f, fuel = f + 2 := ⟨fuel - 2, by omega⟩
    match n with
    | 0 => rfl
    | 1 => simp [pickFrom, show good (start % m) = true from h1]
    | 2 => simp [pickFrom, show good (start % m) = true from h1, show good ((start + 1) % m) = true from h2]
  | succ k ih =>
    intro start n fuel h1 h2 hf hn
    obtain ⟨f, rfl⟩ : ∃ f, fuel = f + 1 := ⟨fuel - 1, by omega⟩
    have h1 : good ((start + 1 + k) % m) = true := by rw [← h1]; congr 2; omega
    have h2 : good ((start + 1 + k + 1) % m) = true := by rw [← h2]; congr 2; omega
    match n with
    | 0 => rfl
    | n + 1 =>
      unfold pickFrom
      split
      · simp [ih (start + 1) n f h1 h2 (by omega) (by omega)]
      · exact ih (start + 1) (n + 1) f h1 h2 (by omega) hn

/-- GRANT of two frames for context 0. -/
def grantRequest : List Byte := [1, 0, 0, 0, 0, 0, 0, 0, 2, 0, 0, 0, 0, 0, 0, 0, 0, 0, 0, 0, 2]

theorem grant_good (f : Nat) (h : f < Config.stewardFrame) : frameFree (asked grantRequest 0) 0 f = true := by
  have h1 : (asked grantRequest 0).dev.retiredFrames = [] := rfl
  have h2 : otherGrants (asked grantRequest 0) 0 = [] := by decide +kernel
  simp [frameFree, h, h1, h2]

theorem grant_found (n : Nat) :
    (pickFrom (fun f => frameFree (asked grantRequest 0) 0 f && !([] : List Nat).contains (f / 256)) (Config.deviceBytes / Config.frameBytes) n 2
      (Config.deviceBytes / Config.frameBytes)).length = 2 := by
  have good : ∀ f, f < Config.stewardFrame → (frameFree (asked grantRequest 0) 0 f && !([] : List Nat).contains (f / 256)) = true := by
    intro f h; simp [grant_good f h]
  have e : Config.deviceBytes / Config.frameBytes = 393216 := by decide
  have e2 : Config.stewardFrame = 392192 := by decide
  rw [e]
  by_cases h : n % 393216 = 1
  · exact pickFrom_two _ _ 0 n 2 _ (good _ (by omega)) (good _ (by omega)) (by omega) (by omega)
  · exact pickFrom_two _ _ ((393216 - n % 393216) % 393216) n 2 _ (good _ (by omega)) (good _ (by omega)) (by omega) (by omega)

theorem grant_reserved : ∃ g, Machine.reserve (asked grantRequest 0) 0 = some g := by
  unfold Machine.reserve
  simp only [show reqField (asked grantRequest 0).dev 8 4 = 2 by decide +kernel, show reqField (asked grantRequest 0).dev 12 2 = 0 by decide +kernel]
  rw [if_neg (by decide +kernel)]
  simp only [pickFrom]
  rw [if_neg (by rw [grant_found]; decide)]
  exact ⟨_, rfl⟩

/-- EXPORT of records 0 to 1 to host memory. -/
def exportRequest : List Byte :=
  [2, 0, 0, 0, 0, 0, 0, 0] ++ List.replicate 8 0 ++ leBytes 8 1 ++ leBytes 8 Config.hostBase ++ leBytes 8 4096

theorem witness_HostRequests :
    let runs := fun (s : State) => s.waiting = [] ∧ mget? s.dev.linksDown 0 = none
    (∃ s : State, s.waiting ≠ []) ∧ (∃ s : State, mget? s.dev.linksDown 0 ≠ none) ∧
    (∃ s : State, runs s ∧ (1 : XWord) ≠ s.dev.mdone + 1) ∧
    (∃ s : State, runs s ∧ (1 : XWord) = s.dev.mdone + 1 ∧ s.dev.bootResult = 1 ∧ (s.dev.mreq.getD 0 0).toNat = 3) ∧
    (∃ s : State, ∃ g, runs s ∧ (1 : XWord) = s.dev.mdone + 1 ∧ s.dev.bootResult = 1 ∧ (s.dev.mreq.getD 0 0).toNat = 1 ∧
      (s.dev.mreq.getD 1 0).toNat / 64 = 0 ∧ ((s.dev.mreq.drop 2).take 6).all (· == 0) = true ∧
      ((s.dev.mreq.drop 25).take 7).all (· == 0) = true ∧ ((s.dev.mreq.drop 96).take 160).all (· == 0) = true ∧
      (s.ctxAt 0).state = .free ∧ Machine.reserve s 0 = some g) ∧
    (∃ s : State, runs s ∧ (s.dev.mreq.getD 0 0).toNat = 1 ∧ (s.ctxAt 0).state = .free ∧ Machine.reserve s 0 = none) ∧
    (∀ bad : Bool, ∃ s : State, runs s ∧ badByte s (Config.auditBase + 128 * (0 % 524288) + 127) = bad ∧
      (bad = false → ∀ a, mget? s.badUnits a = none) ∧
      (1 : XWord) = s.dev.mdone + 1 ∧ s.dev.bootResult = 1 ∧ (s.dev.mreq.getD 0 0).toNat = 2 ∧ (s.dev.mreq.getD 1 0).toNat = 0 ∧
      ((s.dev.mreq.drop 2).take 6).all (· == 0) = true ∧ ((s.dev.mreq.drop 40).take 216).all (· == 0) = true ∧
      s.dev.floor.toNat = leNat ((s.dev.mreq.drop 8).take 8) ∧ leNat ((s.dev.mreq.drop 16).take 8) + 1 = s.dev.next.toNat ∧
      leNat ((s.dev.mreq.drop 24).take 8) = Config.hostBase ∧ 128 * 3 + 2048 ≤ leNat ((s.dev.mreq.drop 32).take 8)) ∧
    (∃ s : State, runs s ∧ 524288 - ((s.dev.next.toNat : Int) - s.dev.floor.toNat) = 320) ∧
    (∃ s : State, runs s ∧ s.dev.exported.toNat = 0 ∧ s.dev.floor.toNat = 0 ∧ s.dev.next.toNat = 2) ∧
    ∃ s : State, runs s ∧ (s.ctxAt (1 - 1)).state = .run ∧ (s.ctxAt (1 - 1)).pending = [] :=
  ⟨⟨{ up with waiting := [(0, .start 0 1)] }, by decide⟩, ⟨links [(0, 5)] 6, by decide⟩,
    ⟨{ asked [3] 0 with dev := { (asked [3] 0).dev with mdone := 7 } }, ⟨rfl, rfl⟩, by decide⟩, ⟨asked [3] 0, ⟨rfl, rfl⟩, by decide, rfl, by decide⟩,
    ⟨asked grantRequest 0, grant_reserved.choose, ⟨rfl, rfl⟩, by decide, rfl, by decide, by decide, by decide +kernel, by decide +kernel, by decide +kernel,
      rfl, grant_reserved.choose_spec⟩,
    ⟨asked [1] 0, ⟨rfl, rfl⟩, by decide, rfl, by unfold Machine.reserve; simp only []; rw [if_pos (by decide +kernel)]⟩,
    fun bad =>
      let s := asked exportRequest 2
      ⟨{ s with badUnits := if bad then [((Config.auditBase + 127) / 2, 3)] else [] }, ⟨rfl, rfl⟩, by cases bad <;> decide +kernel, by intro h a; subst h; rfl,
        (by decide : (1 : XWord) = s.dev.mdone + 1), rfl, (by decide +kernel : (s.dev.mreq.getD 0 0).toNat = 2),
        (by decide +kernel : (s.dev.mreq.getD 1 0).toNat = 0), (by decide +kernel : ((s.dev.mreq.drop 2).take 6).all (· == 0) = true),
        (by decide +kernel : ((s.dev.mreq.drop 40).take 216).all (· == 0) = true),
        (by decide +kernel : s.dev.floor.toNat = leNat ((s.dev.mreq.drop 8).take 8)),
        (by decide +kernel : leNat ((s.dev.mreq.drop 16).take 8) + 1 = s.dev.next.toNat),
        (by decide +kernel : leNat ((s.dev.mreq.drop 24).take 8) = Config.hostBase),
        (by decide +kernel : 128 * 3 + 2048 ≤ leNat ((s.dev.mreq.drop 32).take 8))⟩,
    ⟨asked [] 523968, ⟨rfl, rfl⟩, by decide⟩, ⟨asked [] 2, ⟨rfl, rfl⟩, by decide, by decide, by decide⟩, ⟨up, ⟨rfl, rfl⟩, rfl, rfl⟩⟩

/-- Context 0 with one frame that the host sees. -/
def shared_ (bad : Map (BitVec 2)) : State :=
  let s := up
  { s with
    ctxs := [(0, { s.ctxAt 0 with state := .run, hostVisible := true, grant := some { twoFrames with nhvis := 2 } })], badUnits := bad }

theorem witness_OutsideAccesses :
    let held := fun (s : State) (host : Bool) (pa n : Nat) => host = true ∧ mget? s.dev.linksDown 0 ≠ none ∨
      ∃ l, pa / 128 ≤ l ∧ l ≤ (pa + n - 1) / 128 ∧ accessWait s (128 * l) ≠ none
    let seen := fun (s : State) => ∃ c g, c ∈ s.ctxs ∧ c.2.state = .run ∧ c.2.hostVisible = true ∧ c.2.grant = some g ∧
      ∀ i, i < 2 → (0x4000FE + i) / 2 ^ 21 ∈ g.table.take g.nhvis
    (∃ s, s.waiting = [] ∧ ¬held s true 0x4000FE 2 ∧ seen s ∧ (∀ a, mget? s.badUnits a = none) ∧ Memory.wf s.mem = true) ∧
    (∃ s, s.waiting = [] ∧ ¬held s true 0x4000FE 2 ∧ ¬seen s) ∧ (∃ s : State, s.waiting ≠ []) ∧ (∃ s, held s true 0x4000FE 2 ∧ ¬held s false 0x4000FE 2) ∧
    (∃ s, held s false 0x4000FE 2 ∧ ¬held s false 0x400100 2) ∧ (∃ s, s.waiting = [] ∧ ¬held s true Config.hostBase 2) ∧
    (∃ s, s.waiting = [] ∧ ¬held s true 0x4000FE 2 ∧ mget? s.badUnits (0x4000FE / 2) = some 3 ∧ seen s) ∧
    let longer := fun (s : State) (slot since : Nat) =>
      (∃ h ∈ s.allHarts, h.2.live = .running ∧ ∃ t, h.2.wait = some (.bankMode slot t) ∧ t < since) ∨
      (∃ c ∈ s.cmds, ∃ t, c.2.since = some (slot, t) ∧ t < since)
    let mine := fun (s : State) (o : Outside) => s.agenda = [.own .outside 0 0] ∧ s.waiting = [(1, o)]
    (∃ s, mine s (.peerRead 0x4000FE 2) ∧ (Outside.peerRead 0x4000FE 2).held { s with agenda := [] } = true) ∧
    (∃ s, mine s (.peerRead 0x4000FE 2) ∧ (0x4000FE, 2) ∈ (Outside.peerRead 0x4000FE 2).spans { s with agenda := [] } ∧ (∃ slot ∈ mkeys s.chans, 0x4000FE < (slot + 1) * 2 ^ 29 ∧ slot * 2 ^ 29 < 0x4000FE + 2 ∧ longer s slot 1)) ∧
    ∃ s u : State, mine s (.power 5) ∧ (Outside.power 5).held { s with agenda := [] } = false ∧ (∀ slot, ¬longer s slot 1) ∧
      exec (.powerLimit 5) { s with agenda := [], waiting := [] } = .next u := by
  have one : ∀ {a l : Nat}, a / 128 ≤ l → l ≤ (a + 2 - 1) / 128 → a % 128 ≤ 126 → l = a / 128 := by intro a l h1 h2 h3; omega
  have line : ∀ (s : State) pa, pa % 128 ≤ 126 → (mget? s.dev.linksDown 0).isNone = true → (accessWait s (128 * (pa / 128))).isNone = true →
      ¬(true = true ∧ mget? s.dev.linksDown 0 ≠ none ∨ ∃ l, pa / 128 ≤ l ∧ l ≤ (pa + 2 - 1) / 128 ∧ accessWait s (128 * l) ≠ none) := by
    rintro s pa hp h1 h2 (⟨-, c⟩ | ⟨l, hl1, hl2, c⟩)
    · exact c (Option.isNone_iff_eq_none.1 h1)
    · rw [one hl1 hl2 hp] at c; exact c (Option.isNone_iff_eq_none.1 h2)
  have peer : ∀ (s : State) pa, pa % 128 ≤ 126 → (accessWait s (128 * (pa / 128))).isNone = true →
      ¬(false = true ∧ mget? s.dev.linksDown 0 ≠ none ∨ ∃ l, pa / 128 ≤ l ∧ l ≤ (pa + 2 - 1) / 128 ∧ accessWait s (128 * l) ≠ none) := by
    rintro s pa hp h2 (⟨c, -⟩ | ⟨l, hl1, hl2, c⟩)
    · cases c
    · rw [one hl1 hl2 hp] at c; exact c (Option.isNone_iff_eq_none.1 h2)
  have sees : ∀ b, ∃ c g, c ∈ (shared_ b).ctxs ∧ c.2.state = .run ∧ c.2.hostVisible = true ∧ c.2.grant = some g ∧
      ∀ i, i < 2 → (0x4000FE + i) / 2 ^ 21 ∈ g.table.take g.nhvis := by
    intro b
    refine ⟨_, _, .head _, rfl, rfl, rfl, ?_⟩
    intro i hi; have : i = 0 ∨ i = 1 := by omega
    rcases this with rfl | rfl <;> decide +kernel
  let owned : State := { up with cmds := [(0, ⟨0, 0, 0, 1, 0, 1, .mload, [0x4000FE / 128], [], none⟩)] }
  refine ⟨⟨shared_ [], rfl, line _ _ (by decide) rfl (by decide +kernel), sees _, fun _ => rfl, by decide +kernel⟩,
    ⟨up, rfl, line _ _ (by decide) rfl (by decide +kernel), ?_⟩, ⟨{ up with waiting := [(0, .peerRead 0 1)] }, by decide⟩,
    ⟨links [(0, 5)] 6, .inl ⟨rfl, by decide⟩, peer _ _ (by decide) (by decide +kernel)⟩,
    ⟨owned, .inr ⟨0x4000FE / 128, by decide, by decide, by decide +kernel⟩, peer _ _ (by decide) (by decide +kernel)⟩,
    ⟨up, rfl, line _ _ (by decide) rfl (by decide +kernel)⟩,
    ⟨shared_ [(0x20007F, 3)], rfl, line _ _ (by decide) rfl (by decide +kernel), by decide, sees _⟩,
    ⟨{ owned with agenda := [.own .outside 0 0], waiting := [(1, .peerRead 0x4000FE 2)] }, ⟨rfl, rfl⟩, by decide +kernel⟩,
    ⟨{ with_ (fun h => { h with wait := some (.bankMode 0 0) }) with
        agenda := [.own .outside 0 0], waiting := [(1, .peerRead 0x4000FE 2)], chans := [(0, Chan.initial)] }, ⟨rfl, rfl⟩, .head _, 0, by decide,
      by decide, by decide, .inl ⟨_, .head _, rfl, 0, rfl, by decide⟩⟩,
    ⟨{ up with agenda := [.own .outside 0 0], waiting := [(1, .power 5)], dev := Device.initial }, _, ⟨rfl, rfl⟩, by decide +kernel, ?_,
      (next_of (p := fun _ => true) rfl).choose_spec.1⟩⟩
  rotate_left
  · rintro slot (⟨h, hm, -, t, ht, -⟩ | ⟨c, hc, -⟩)
    · have : ∀ h ∈ up.allHarts, h.2.wait = none := by decide +kernel
      rw [this h hm] at ht; cases ht
    · cases hc
  rintro ⟨c, g, hc, -, h, -⟩
  have : ∀ c ∈ up.ctxs, c.2.hostVisible = false := by decide +kernel
  rw [this c hc] at h; cases h

/-- The word stands first and a hart is about to execute it. -/
noncomputable def first (w : Nat) : State := State.reset.withFetchWord 32 w

/-- PFXS holds an odd predicate of no mask, from an earlier word; the word w stands at the PC. -/
noncomputable def resumed (w : Nat) : State :=
  let s := first w
  s.setRegs { s.regs with pfxValid := true, pfxFields := 0 }

theorem witness_StepRunsDecoded :
    (∃ s : State, s.agenda = []) ∧
    (∃ (s : State) (e : Instr), s.agenda = [.event e] ∧ ∀ n, exec e { s with agenda := [] } ≠ .fault (.notEnabled n)) ∧
    (∃ (s : State) (e : Instr), ∃ n, s.agenda = [.event e] ∧ exec e { s with agenda := [] } = .fault (.notEnabled n)) ∧
    (∃ (s : State) (run : Run) (h : Handler) (w : Word) (i : Instr), s.agenda = [.bank 0] ∧ (s.chanAt 0).run = some run ∧
      mget? (s.chanAt 0).handlers run.slot = some h ∧ (s.chanAt 0).switching = none ∧ h.words[run.pcw]? = some w ∧ decodeBrixem w = .ok i) ∧
    (∃ s : State, s.agenda = [.found 1 2 3 4]) ∧
    (∃ s : State, s.agenda = [.hart (Config.stewardBase + 3)] ∧ (s.focus (Config.stewardBase + 3)).hart.steward = true) ∧
    (∃ (s b : State) (pa : Nat), access s .fetch s.regs.pc 4 0 = .ok (pa, b) ∧ fetchedWord b pa = 0x04A58212 ∧
      bytesWord (memReadN b.mem pa 4) = 0x04531C00 ∧ decodeWord 0x04531C00 = .ok (.add 5 6 7 false) ∧ (decodeWord 0x04A58212).isOk = true) ∧
    (∃ s : State, s.agenda = [.hart 0] ∧ s.hart.wait = some (.bankMode 0 1) ∧ bankTurnOf s 0 0 1 = false) ∧
    (∃ (s b : State) (i : Instr) (pa : Nat), s.agenda = [.hart 0] ∧ s.hart.live = .running ∧ s.core.serves = some s.hart.ctx ∧
      s.core.moving = none ∧ s.core.retired = false ∧ s.hart.wait = none ∧ s.hart.cyb = 0 ∧ s.regs.pfxValid = false ∧ access s .fetch s.regs.pc 4 0 = .ok (pa, b) ∧
      poisonCheck (b.setRegs { b.regs with storeBuf := [] }) .fetch s.regs.pc pa 4 0 = .ok () ∧
      fetchedWord b pa = 0x04531C00 ∧ decodeWord 0x04531C00 = .ok i ∧ i.isPfx = false ∧ i.kbit = false ∧
      namesCv 0x04531C00 = false ∧ isVscore i = false ∧ isVexpm i = false ∧ isVaccv i = false ∧ s.core.owned = true ∧
      s.core.owner.toNat = s.hart.ctx ∧ memberCauses b i s.regs.pc .absent = []) ∧
    (∃ (s b c : State) (p i : Instr) (pa pb : Nat), s.agenda = [.hart 0] ∧ s.hart.live = .running ∧ s.regs.pfxValid = false ∧
      access s .fetch s.regs.pc 4 0 = .ok (pa, b) ∧ fetchedWord b pa = 0xF8000080 ∧ decodeWord 0xF8000080 = .ok p ∧
      p.isPfx = true ∧ access b .fetch (s.regs.pc + 4) 4 0 = .ok (pb, c) ∧ fetchedWord c pb = 0x40000204 ∧
      decodeWord 0x40000204 = .ok i ∧ (vecUse (groupFactor s.regs) i).isSome = true ∧
      memberCauses c i (s.regs.pc + 4) (.ofFields ((0xF8000080 : Word).setWidth 25) s.regs.pc) = [] ∧
      ∃ t, exec p c = .next t ∧ t.hart.undo.isSome = true) ∧
    ∃ (s b : State) (i : Instr) (pa : Nat), s.regs.pfxValid = true ∧ access s .fetch s.regs.pc 4 0 = .ok (pa, b) ∧
      fetchedWord b pa = 0x40000204 ∧ decodeWord 0x40000204 = .ok i ∧ (vecUse (groupFactor s.regs) i).isSome = true ∧
      memberCauses b i s.regs.pc (.ofFields s.regs.pfxFields s.regs.pc) = [] := by
  refine ⟨⟨{ up with agenda := [] }, rfl⟩, ⟨{ up with agenda := [.event .d3hotRequest] }, _, rfl, ?_⟩,
    ⟨{ up with agenda := [.event (.copyComplete 9)] }, _, _, rfl, rfl⟩,
    ⟨first 0b01111_0000_0110_0111_000000000000000, _, _, _, _, rfl, rfl, rfl, rfl, rfl, rfl⟩,
    ⟨{ up with agenda := [.found 1 2 3 4] }, rfl⟩,
    ⟨{ up with agenda := [.hart (Config.stewardBase + 3)], harts := [(Config.stewardBase + 3, loadedHart true)] }, rfl, rfl⟩,
    ⟨{ withX 0 0 0 with
        mem := memWriteN up.mem 0x200000 (leBytes 4 0x04531C00)
        written := [⟨.hart 8, 0x200000, leBytes 4 0x04A58212, leBytes 4 0x04531C00⟩] }, _, _, rfl, rfl, rfl, rfl, rfl⟩,
    ⟨{ with_ (fun h => { h with wait := some (.bankMode 0 1) }) with
        agenda := [.hart 0], harts := [(1, { loadedHart false with wait := some (.bankMode 0 0) })] }, rfl, rfl, by decide⟩,
    ⟨first 0x04531C00, _, _, _, rfl, rfl, rfl, rfl, rfl, rfl, rfl, rfl, rfl, rfl, rfl, rfl, rfl, rfl, rfl, rfl, rfl, rfl, rfl, rfl,
      List.isEmpty_iff.1 rfl⟩,
    ⟨first 0xF8000080, _, _, _, _, _, _, rfl, rfl, rfl, rfl, rfl, rfl, rfl, rfl, rfl, rfl, rfl, List.isEmpty_iff.1 rfl,
      next_of (p := fun t => t.hart.undo.isSome) rfl⟩,
    ⟨resumed 0x40000204, _, _, _, rfl, rfl, rfl, rfl, rfl, List.isEmpty_iff.1 rfl⟩⟩
  intro n h; cases h

theorem witness_RoundingRules :
    let x := fun (m : Nat) (e : Int) => (m * 2 ^ e : ℚ)
    let size := fun (f : FpFmt) (k : Nat) => match f.val k with
      | .fin _ m e => (m * 2 ^ e : ℚ)
      | _ => 2 ^ (f.bias + 1)
    let between := fun (f : FpFmt) (k m : Nat) (e : Int) (d w : ℚ) => 0 < m ∧ k < f.top ∧ x m e - size f k = d ∧
      size f (k + 1) - size f k = w ∧ 0 ≤ d ∧ d < w
    (2 ^ (fp16.bias + 1) ≤ x 1 16) ∧ between fp16 0x3C00 1 0 0 (2 ^ (-10 : Int)) ∧
    between fp16 0x3C01 2051 (-11) (2 ^ (-11 : Int)) (2 ^ (-10 : Int)) ∧ between fp16 0 1 (-26) (2 ^ (-26 : Int)) (2 ^ (-24 : Int)) ∧
    between fp16 0x7BFF 65535 0 31 32 ∧ fp16.top = 0x7C00 ∧
    (∃ (n : Nat) (d : ℚ), x 7 (-1) - n = d ∧ 0 ≤ d ∧ d < 1 ∧ ¬((n : Int) < -8) ∧ (7 : Int) < n + 5) := by
  refine ⟨by norm_num [fp16, FpFmt.bias], ?_, ?_, ?_, ?_, by decide, 3, 1 / 2, by norm_num, by norm_num, by norm_num, by norm_num, by norm_num⟩
  · refine ⟨by decide, by decide, ?_, ?_, by norm_num, by norm_num⟩ <;>
      simp only [show fp16.val 0x3C00 = .fin false 1024 (-10) by decide, show fp16.val (0x3C00 + 1) = .fin false 1025 (-10) by decide] <;>
      norm_num
  · refine ⟨by decide, by decide, ?_, ?_, by norm_num, by norm_num⟩ <;>
      simp only [show fp16.val 0x3C01 = .fin false 1025 (-10) by decide, show fp16.val (0x3C01 + 1) = .fin false 1026 (-10) by decide] <;>
      norm_num
  · refine ⟨by decide, by decide, ?_, ?_, by norm_num, by norm_num⟩ <;>
      simp only [show fp16.val 0 = .fin false 0 (-24) by decide, show fp16.val (0 + 1) = .fin false 1 (-24) by decide] <;> norm_num
  · refine ⟨by decide, by decide, ?_, ?_, by norm_num, by norm_num⟩ <;>
      simp only [show fp16.val 0x7BFF = .fin false 2047 5 by decide, show fp16.val (0x7BFF + 1) = .inf false by decide] <;>
      norm_num [fp16, FpFmt.bias]

theorem witness_DecodeEncode : (∃ i : Instr, i.isEvent = false ∧ i.wf = true ∧ i.isBrixem = false) ∧
    (∃ i : Instr, i.wf = true ∧ i.isBrixem = true) ∧ (∃ w i, decodeWord w = .ok i) ∧ ∃ w i, decodeBrixem w = .ok i :=
  ⟨⟨.add 1 2 3 true, rfl, rfl, rfl⟩, ⟨.bHalt, rfl, rfl⟩, ⟨0x04531C00, _, rfl⟩, ⟨0, _, rfl⟩⟩

theorem witness_MemoryForm : ∃ s t, Memory.wf s.mem = true ∧ step s = .next t := by
  obtain ⟨t, h, -⟩ := next_of (r := step (first 0x04531C00)) (p := fun _ => true) (by decide +kernel)
  exact ⟨_, t, by decide +kernel, h⟩

/-- A descriptor of hart 0 and, at 0x2000, the image that a save of it makes. -/
def sealed : State :=
  let s := steward (0x2000 * 2 ^ 64)
  { s with mem := memWriteN s.mem 0x2000 (gcmSeal 0 (List.replicate 12 7) (savePlain .initial)) }

theorem witness_authentic_image : ∃ g,
    (gcmOpen 0 (memReadN sealed.mem 0x2000 (imageLength 0 (memReadN sealed.mem 0x2000 28)))).bind (restorePlain .initial) = some g := by
  have hw : Memory.wf (steward (0x2000 * 2 ^ 64)).mem = true := by decide +kernel
  have hl : (gcmSeal 0 (List.replicate 12 7) (savePlain .initial)).length = 92 := by decide +kernel
  have hn : imageLength 0 (memReadN sealed.mem 0x2000 28) = 92 := by
    rw [show sealed.mem = memWriteN (steward (0x2000 * 2 ^ 64)).mem 0x2000 (gcmSeal 0 (List.replicate 12 7) (savePlain .initial)) from rfl,
      memReadN_memWriteN _ _ _ hw (by omega), imageLength_gcmSeal _ _ rfl (by decide +kernel)]
    decide +kernel
  rw [hn, show sealed.mem = memWriteN (steward (0x2000 * 2 ^ 64)).mem 0x2000 (gcmSeal 0 (List.replicate 12 7) (savePlain .initial)) from rfl,
    memReadN_memWriteN _ _ _ hw (by omega), List.take_of_length_le (by omega), gcmOpen_gcmSeal _ _ rfl]
  exact some_of (by decide +kernel)

/-! ### Single steps, with the results that the manual's worked examples and rules give -/

/-- x[d] and FFLAGS after an instruction. -/
def result (i : Instr) (s : State) (d : BitVec 5) : Option (XWord × Flags) :=
  match exec i s with | .next t => some (t.x d, t.regs.fflags) | _ => none

/-- Elements from 0 on of a vector register's current tile after a member. -/
def elements (i : Instr) (s : State) (j n : Nat) : Option (List XWord) :=
  match exec i s with | .next t => some ((span 0 n).map (fun k => (curTile (vreg t.regs j)).elems.getD k 0)) | _ => none

/-- Table 6.5, from FP64: 2.5, −2.5, 3.0 × 10^9, −0.5 and NaN. -/
theorem test_fcvt_i : result (.fcvtI 2 1 0 1 0) (withX 0x4004000000000000 0 0) 2 = some (2, Flags.nx) ∧
    result (.fcvtI 2 1 0 1 4) (withX 0x4004000000000000 0 0) 2 = some (3, Flags.nx) ∧
    result (.fcvtI 2 1 0 1 2) (withX 0xC004000000000000 0 0) 2 = some (0xFFFFFFFFFFFFFFFD, Flags.nx) ∧
    result (.fcvtI 2 1 0 1 1) (withX 0x41E65A0BC0000000 0 0) 2 = some (0x7FFFFFFF, Flags.nv) := by decide +kernel

theorem test_fcvt_i_unsigned : result (.fcvtI 2 1 1 1 0) (withX 0xBFE0000000000000 0 0) 2 = some (0, Flags.nx) ∧
    result (.fcvtI 2 1 1 1 2) (withX 0xBFE0000000000000 0 0) 2 = some (0, Flags.nv) ∧
    result (.fcvtI 2 1 2 1 0) (withX 0x7FF8000000000000 0 0) 2 = some (0, Flags.nv) := by decide +kernel

/-- The text after R257: 1.0, −2.5 and 0.1 in FP16, here from FP64. -/
theorem test_fcvt : (result (.fcvt 2 1 1 2 0) (withX 0x3FF0000000000000 0 0) 2).map (·.1) = some 0x3C00 ∧
    (result (.fcvt 2 1 1 2 0) (withX 0xC004000000000000 0 0) 2).map (·.1) = some 0xC100 ∧
    (result (.fcvt 2 1 1 2 0) (withX 0x3FB999999999999A 0 0) 2).map (·.1) = some 0x2E66 := by decide +kernel

/-- The text after R142: flipping bit 31 negates an FP32 value (here 1.0). -/
theorem test_lui_xor : result (.lui 2 0x80000) up 2 = some (0x80000000, 0) ∧
    (result (.xor 3 1 2) (withX 0x123456783F800000 0x80000000 0) 3).map (·.1) = some 0x12345678BF800000 := by decide +kernel

/-- Chapter 12: LUI and ADDI build the descriptor 0x0220_0040 and the constant 0x0EF3_0C0B. -/
theorem test_addi : result (.addi 2 1 64) (withX 0x02200000 0 0) 2 = some (0x02200040, 0) ∧
    result (.addi 2 1 (-1013)) (withX 0x0EF31000 0 0) 2 = some (0x0EF30C0B, 0) := by decide +kernel

/-- R125, R126: the most negative dividend over −1 gives itself, and remainder 0; a divisor of zero raises DIVZ with the dividend. -/
theorem test_div : result (.div 3 1 2 false) (withX 0x8000000000000000 0xFFFFFFFFFFFFFFFF 0) 3 = some (0x8000000000000000, 0) ∧
    result (.rem 3 1 2 true) (withX 0x80000000 0xFFFFFFFFFFFFFFFF 7) 3 = some (0, 0) ∧
    (match exec (.divu 3 1 2 true) (withX 0xFFFFFFFF80000001 0x100000000 7) with
      | .next t => (t.x 3, t.hart.tl, t.hart.t1.cause.toNat, t.hart.t1.tv)
      | _ => (0, 0, 0, 0)) = (7, 1, 0x05, 0xFFFFFFFF80000001) := by decide +kernel

/-- The text after R69: 2^24 + 1 and (1 + 2^−23)^2 as exact pairs of FP32. -/
theorem test_exact_pairs : (let p := twoSum fp32 0x4B800000 0x3F800000; (p.h, p.l)) = (0x4B800000, 0x3F800000) ∧
    (let p := twoProd fp32 0x3F800001 0x3F800001; (p.h, p.l)) = (0x3F800002, 0x28800000) := by decide +kernel

/-- R146: the operation formats of mixed integer sources. -/
theorem test_op_format : opFormat [.u16, .i8] = some .i32 ∧ opFormat [.u8, .i16] = some .i16 ∧ opFormat [.u16, .i16] = some .i32 := by decide

/-- A row of INT64 values 1 to 5 in v1, VL 5, and the mask 0, 1, 1, 0, 1 in m7. -/
def five : State := at_ (fun r => { r with
  vl := 5
  vregs := (r.vregs.set 1 ⟨⟨.i64, (([1, 2, 3, 4, 5] : List XWord) ++ List.replicate 59 0).toArray⟩, none⟩).set 2
    ⟨⟨.i64, Array.replicate 64 9⟩, none⟩
  masks := r.masks.set 7 ⟨0b10110, none⟩ })

/-- The text after R189: [a, b, c, d, e] compresses to [b, c, e], and the two remaining elements follow the tail policy (here
undisturbed). -/
theorem test_vcompress : elements (.vcompress false 2 1 7 false false) five 2 6 = some [2, 3, 5, 9, 9, 9] := by decide +kernel

/-- R189: what VEXPAND spreads over the same columns; R187: a slide by one leaves column 0 alone. -/
theorem test_vexpand : elements (.vexpand false 2 1 7 false false) five 2 6 = some [9, 1, 2, 9, 3, 9] ∧
    elements (.vslideup false 2 1 3 true false false) (five.setRegs { five.regs with x := five.regs.x.set 3 1 }) 2 6 = some [9, 1, 2, 3, 4, 9] := by
  decide +kernel

/-- Rows 0 to 11 with the tags and bytes of Table 12.2 (row 8 as hart B leaves it), TSPAN 0 to 3, and the selector and operand of the
program's TOPR.MULS. -/
def sequences (sel : XWord) : State :=
  let s := withX sel 3 0
  let rows : List (Nat × List Int) := [(0x1001, [1, 2, 3, 4]), (0x2002, [10, -20, 40, 50]), (0x0003, [5, 5, 5, 5]), (0x3101, [-1, -2, -3, -4]),
    (0x1002, [-43, 42, 0, 1]), (0x5003, [60, 61, 62, 63]), (0x0102, [7, -7, 100, -100]), (0x2001, [8, 8, 8, 8]), (0x4002, [11, 12, -13, 14]),
    (0x7002, [2, 3, 4, 5]), (0x1103, [-50, -50, -50, -50]), (0x3001, [0, 0, 0, 0])]
  let k := rows.zipIdx.foldl (fun k r => { k.setTag r.2 (BitVec.ofNat 16 r.1.1) with
    scratch := memWriteN k.scratch (64 * r.2) (r.1.2.map (BitVec.ofInt 8)) }) s.core
  { s.setCore k with hart := { s.hart with tspanOff := 0, tspanLen := 4 } }

/-- Chapter 12: five rows of sequence 2 are scaled by 3, with clamps at 127 and −128; sequence 7 has no row. -/
theorem test_topr_muls : (match exec (.toprMuls 3 1 2 0) (sequences 0x00FF0002000C0000) with
      | .next t => (t.x 3, t.regs.fflags, [1, 4, 6, 8, 9, 0].map (fun r => (memReadN t.core.scratch (64 * r) 4).map BitVec.toInt))
      | _ => (0, 0, [])) = (5, Flags.sa, [[30, -60, 120, 127], [-128, 126, 0, 3], [21, -21, 127, -128], [33, 36, -39, 42], [6, 9, 12, 15],
        [1, 2, 3, 4]]) ∧
    result (.toprMuls 3 1 2 0) (sequences 0x00FF0007000C0000) 3 = some (0, 0) := by decide +kernel

/-- R228: TRAP enters the handler with its immediate; Table 6.3's comparisons, signed and unsigned. -/
theorem test_branches : (match exec (.blt 1 2 8) (withX 0xFFFFFFFFFFFFFFFF 1 0) with | .next t => t.regs.pc | _ => 0) = 32 ∧
    (match exec (.bltu 1 2 8) (withX 0xFFFFFFFFFFFFFFFF 1 0) with | .next t => t.regs.pc | _ => 0) = 4 := by decide +kernel

/-- R127, R128: loads extend by their kind; the store buffer's bytes are seen before memory's (R29). -/
theorem test_loads : (let s := withX 0x40 0xFFFFFFFFFFFF8081 0
    match exec (.stD 2 1 0) s with
      | .next t => (result (.ldB 3 1 0) t 3, result (.ldBu 3 1 0) t 3, result (.ldH 3 1 0) t 3, t.mem == s.mem)
      | _ => (none, none, none, false)) =
    (some (0xFFFFFFFFFFFFFF81, 0), some (0x81, 0), some (0xFFFFFFFFFFFF8081, 0), true) := by decide +kernel

/-- R213: an AMO returns the old value, sign-extended from 4 bytes, and a plain ADD wraps there. -/
theorem test_amo : (let s := withX 0x40 1 0
    let s := { s with mem := memWriteN s.mem 0x200040 [0xFF, 0xFF, 0xFF, 0xFF, 7] }
    match exec (.amoAdd 3 1 2 4 false) s with | .next t => (t.x 3, memReadN t.mem 0x200040 5) | _ => (0, [])) =
    (0xFFFFFFFFFFFFFFFF, [0, 0, 0, 0, 7]) := by decide +kernel

/-- The text after R271: a 2:4 INT8 group in which column 5 has v0 = 7, p0 = 1, v1 = −3, p1 = 3 stands for 0, 7, 0, −3. -/
theorem test_sparse_group : (let w := memWriteN (memWriteN (memWriteN [] 5 [7]) 69 [0xFD]) 130 [0xD0]
    (span 0 4).map (fun k => bufferVal w 0x8400000 .i8 0 k 5)) = [Val.ofInt 0, Val.ofInt 7, Val.ofInt 0, Val.ofInt (-3)] := by decide +kernel

/-- Table 2.1: after hart A's declaration, hart B's request for 10,000 elements is granted 6,144; then hart C's nothing. -/
theorem test_vdecl : (let a := { loadedHart false with vlmax := 4096, vn := 16, wcode := 2 }
    let s := { withX (0x20200000 + 10000) 0 0 with harts := [(1, a)] }
    match exec (.vdecl 2 1) s with
      | .next t =>
        let c := { withX (0x08100000 + 1024) 0 0 with harts := [(1, a), (2, { a with vlmax := (t.x 2).toNat, vn := 32 })] }
        (t.x 2, (result (.vdecl 2 1) c 2).map (·.1))
      | _ => (0, none)) = (6144, some 0) := by decide +kernel

/-- R228, R393: TRAP commits, enters the handler's entry 5 and leaves its operand in TV1 and its own address in TP1. -/
theorem test_trap : (match exec (.trap 1 5) (withX 77 0 0) with
      | .next t => (t.hart.tl, t.hart.t1.cause, t.hart.t1.tv, t.hart.t1.tp)
      | _ => (0, 0, 0, 0)) = (1, 0x0E, 77, 0) := by decide +kernel

end Tests
end Sys2Proof
end

section
/-! SUPPORT. Keyed lists, and the harts, cores and contexts that a state holds in them: what a lookup gives after a change. -/

namespace Sys2Proof
namespace Machine

/-! ### Keyed lists, whatever the order of their keys -/

theorem mget?_mset {α : Type} (m : Map α) (a b : Nat) (x : α) : mget? (mset m a x) b = if b = a then some x else mget? m b := by
  induction m with
  | nil => by_cases h : b = a <;> simp [mset, mget?, h]
  | cons c t ih =>
    obtain ⟨k, v⟩ := c
    by_cases hk : a = k
    · subst hk
      by_cases h : b = a <;> simp [mset, mget?, h]
    · by_cases hl : a < k
      · by_cases h : b = a
        · simp [mset, mget?, hk, hl, h]
        · by_cases hb : b < a
          · have h1 : b ≠ k := by omega
            have h2 : b < k := by omega
            simp [mset, mget?, hk, hl, h, hb, h1, h2]
          · simp [mset, mget?, hk, hl, h, hb]
      · simp only [mset, hk, hl, if_false, mget?, ih]
        by_cases h : b = a
        · subst h; simp [hk, hl]
        · simp [h]

theorem mgetD_mset {α : Type} (m : Map α) (a b : Nat) (x d : α) : mgetD (mset m a x) b d = if b = a then x else mgetD m b d := by
  unfold mgetD
  rw [mget?_mset]
  split <;> rfl

theorem mget?_mmap {α : Type} (f : Nat → α → α) (m : Map α) (a : Nat) : mget? (mmap f m) a = (mget? m a).map (f a) := by
  induction m with
  | nil => rfl
  | cons c t ih =>
    obtain ⟨k, v⟩ := c
    by_cases hk : a = k
    · subst hk; simp [mmap, mget?]
    · by_cases hl : a < k
      · simp [mmap, mget?, hk, hl]
      · simpa [mmap, mget?, hk, hl] using ih

theorem mgetD_mmap {α : Type} (f : Nat → α → α) (m : Map α) (a : Nat) (d : α) (h : f a d = d) :
    mgetD (mmap f m) a d = f a (mgetD m a d) := by
  unfold mgetD
  rw [mget?_mmap]
  cases mget? m a with
  | none => exact h.symm
  | some v => rfl

theorem mem_of_mget? {α : Type} {m : Map α} {a : Nat} {x : α} (h : mget? m a = some x) : (a, x) ∈ m := by
  induction m with
  | nil => cases h
  | cons c t ih =>
    obtain ⟨k, v⟩ := c
    simp only [mget?] at h
    split at h
    · rename_i hk; cases h; subst hk; exact .head _
    · split at h
      · cases h
      · exact .tail _ (ih h)

/-- An entry that is removed hides no other one. -/
theorem mget?_mdel {α : Type} (m : Map α) (a b : Nat) (h : b ≠ a) : mget? (mdel m a) b = mget? m b ∨ mget? m b = none := by
  induction m with
  | nil => exact .inl rfl
  | cons c t ih =>
    obtain ⟨k, v⟩ := c
    by_cases hk : a = k
    · subst hk
      by_cases hl : b < a
      · exact .inr (by simp [mget?, h, hl])
      · exact .inl (by simp [mget?, mdel, h, hl])
    · by_cases hl : a < k
      · exact .inl (by simp [mdel, hk, hl])
      · by_cases hb : b = k
        · exact .inl (by simp [mdel, mget?, hk, hl, hb])
        · by_cases hb2 : b < k
          · exact .inl (by simp [mdel, mget?, hk, hl, hb, hb2])
          · simpa [mdel, mget?, hk, hl, hb, hb2] using ih

/-! ### Cores, contexts and harts -/

theorem coreAt_setCoreAt (s : State) (c d : Nat) (k : Core) : (s.setCoreAt c k).coreAt d = if d = c then k else s.coreAt d :=
  mgetD_mset _ _ _ _ _

@[simp] theorem coreAt_setCoreAt_same (s : State) (c : Nat) (k : Core) : (s.setCoreAt c k).coreAt c = k := by
  simp [coreAt_setCoreAt]

theorem coreAt_setCoreAt_other (s : State) {c d : Nat} (k : Core) (h : d ≠ c) : (s.setCoreAt c k).coreAt d = s.coreAt d := by
  simp [coreAt_setCoreAt, h]

@[simp] theorem core_setCore (s : State) (k : Core) : (s.setCore k).core = k := coreAt_setCoreAt_same s _ k

theorem ctxAt_setCtxAt (s : State) (c d : Nat) (k : Ctx) : (s.setCtxAt c k).ctxAt d = if d = c then k else s.ctxAt d :=
  mgetD_mset _ _ _ _ _

theorem hartAt_setHartAt (s : State) (k j : Nat) (h : Hart) : (s.setHartAt k h).hartAt j = if j = k then h else s.hartAt j := by
  unfold State.setHartAt State.hartAt
  by_cases hk : k = s.cur
  · subst hk
    simp only [if_true]
    by_cases hj : j = s.cur <;> simp [hj]
  · simp only [hk, if_false]
    by_cases hj : j = s.cur
    · have : j ≠ k := fun e => hk (e.symm.trans hj)
      simp [hj, Ne.symm hk]
    · simp [hj, mgetD_mset]

/-- Every hart, changed by a function that makes no hart of none. -/
theorem hartAt_mapHarts (s : State) (f : Nat → Hart → Hart) (k : Nat) (h : f k .initial = .initial) :
    (s.mapHarts f).hartAt k = f k (s.hartAt k) := by
  unfold State.mapHarts State.hartAt
  dsimp only
  by_cases hk : k = s.cur
  · subst hk; simp
  · simp [hk, mgetD_mmap _ _ _ _ h]

/-- A hart at a key is one of those that exist, or none is there. -/
theorem hartAt_mem (s : State) (k : Nat) : (k, s.hartAt k) ∈ s.allHarts ∨ s.hartAt k = .initial := by
  unfold State.hartAt State.allHarts
  by_cases hk : k = s.cur
  · subst hk; simp
  · simp only [hk, if_false, mgetD]
    cases h : mget? s.harts k with
    | none => exact .inr rfl
    | some x => exact .inl (.tail _ (mem_of_mget? h))

/-! ### The executing hart changed -/

@[simp] theorem focus_cur (s : State) (k : Nat) : (s.focus k).cur = k := by
  unfold State.focus; split <;> simp [*]

/-- All but the executing hart and the others stays when another hart comes to execute. -/
theorem focus_frame (s : State) (k : Nat) :
    s.focus k = { s with cur := (s.focus k).cur, hart := (s.focus k).hart, harts := (s.focus k).harts } := by
  unfold State.focus; split <;> rfl

@[simp] theorem focus_agenda (s : State) (k : Nat) : (s.focus k).agenda = s.agenda := by rw [focus_frame]
@[simp] theorem focus_gtime (s : State) (k : Nat) : (s.focus k).gtime = s.gtime := by rw [focus_frame]
@[simp] theorem focus_cores (s : State) (k : Nat) : (s.focus k).cores = s.cores := by rw [focus_frame]

/-- The hart that comes to execute is the one at its key, or none stood there. -/
theorem focus_hart (s : State) (k : Nat) : (s.focus k).hart = s.hartAt k ∨ s.hartAt k = .initial := by
  unfold State.focus State.hartAt
  by_cases hk : k = s.cur
  · subst hk; simp
  · simp only [hk, if_false]
    by_cases hi : s.hart = .initial
    · simp only [hi, if_true, mgetD]
      rcases mget?_mdel s.harts s.cur k hk with h | h
      · rw [h]; exact .inl rfl
      · rw [h]; exact .inr rfl
    · simp only [hi, if_false, mgetD_mset, hk]
      exact .inl trivial

end Machine
end Sys2Proof
end

section
/-! SUPPORT. Lane groups (R24 to R26): what a core's groups come to when some are given, returned or waited for. -/

namespace Sys2Proof
namespace Machine

theorem fillLanes_length (slot n : Nat) (l : List (Option Nat)) : (fillLanes slot n l).length = l.length := by
  induction l generalizing n with
  | nil => cases n <;> rfl
  | cons x l ih =>
    cases n with
    | zero => rfl
    | succ n => cases x <;> simp [fillLanes, ih]

theorem fillLanes_held (slot n : Nat) (l : List (Option Nat)) :
    ((fillLanes slot n l).filter (· = some slot)).length =
      (l.filter (· = some slot)).length + min n (l.filter (· = none)).length := by
  induction l generalizing n with
  | nil => cases n <;> simp [fillLanes]
  | cons x l ih =>
    cases n with
    | zero => simp [fillLanes]
    | succ n =>
      cases x with
      | none => simp [fillLanes, ih]; omega
      | some y => by_cases h : y = slot <;> simp [fillLanes, h, ih]; omega

theorem fillLanes_free (slot n : Nat) (l : List (Option Nat)) :
    ((fillLanes slot n l).filter (· = none)).length = (l.filter (· = none)).length - n := by
  induction l generalizing n with
  | nil => cases n <;> simp [fillLanes]
  | cons x l ih =>
    cases n with
    | zero => simp [fillLanes]
    | succ n => cases x <;> simp [fillLanes, ih]

theorem fillLanes_other (slot n j : Nat) (h : j ≠ slot) (l : List (Option Nat)) :
    ((fillLanes slot n l).filter (· = some j)).length = (l.filter (· = some j)).length := by
  induction l generalizing n with
  | nil => cases n <;> simp [fillLanes]
  | cons x l ih =>
    cases n with
    | zero => simp [fillLanes]
    | succ n =>
      cases x with
      | none => simp [fillLanes, ih, Ne.symm h]
      | some y => by_cases hy : y = j <;> simp [fillLanes, hy, ih]

/-- The groups of a core, after some are given, in a list. -/
theorem giveLanes_toList (k : Core) (slot n : Nat) : (giveLanes k slot n).lanes.toList = fillLanes slot n k.lanes.toList := by
  have hl : (fillLanes slot n k.lanes.toList).length = 4 := by simp [fillLanes_length]
  apply List.ext_getElem
  · simp [giveLanes, hl]
  · intro i h1 h2
    simp [giveLanes, List.getD_eq_getElem?_getD, List.getElem?_eq_getElem h2]

theorem lanesHeld_giveLanes (k : Core) (slot n : Nat) :
    lanesHeld (giveLanes k slot n) slot = lanesHeld k slot + min n (lanesFree k) := by
  simp only [lanesHeld, lanesFree, giveLanes_toList, fillLanes_held]

theorem lanesFree_giveLanes (k : Core) (slot n : Nat) : lanesFree (giveLanes k slot n) = lanesFree k - n := by
  simp only [lanesFree, giveLanes_toList, fillLanes_free]

theorem lanesHeld_giveLanes_other (k : Core) {slot j : Nat} (n : Nat) (h : j ≠ slot) :
    lanesHeld (giveLanes k slot n) j = lanesHeld k j := by
  simp only [lanesHeld, giveLanes_toList, fillLanes_other slot n j h]

/-- A slot whose groups are returned holds none. -/
theorem lanesHeld_dropLanes (k : Core) (slot : Nat) : lanesHeld (dropLanes k slot) slot = 0 := by
  simp only [lanesHeld, dropLanes, Vector.toList_map, List.length_eq_zero_iff, List.filter_eq_nil_iff, List.mem_map]
  rintro _ ⟨x, -, rfl⟩
  by_cases h : x = some slot <;> simp [h]

theorem lanesHeld_dropLanes_other (k : Core) {slot j : Nat} (h : j ≠ slot) : lanesHeld (dropLanes k slot) j = lanesHeld k j := by
  simp only [lanesHeld, dropLanes, Vector.toList_map]
  induction k.lanes.toList with
  | nil => rfl
  | cons x l ih =>
    by_cases hx : x = some slot
    · simpa [hx, Ne.symm h] using ih
    · by_cases hj : x = some j <;> simpa [hx, hj, h] using ih

/-- Returned groups are free. -/
theorem lanesFree_dropLanes (k : Core) (slot : Nat) :
    lanesFree (dropLanes k slot) = (k.lanes.toList.filter (fun l => l = none ∨ l = some slot)).length := by
  simp only [lanesFree, dropLanes, Vector.toList_map]
  induction k.lanes.toList with
  | nil => rfl
  | cons x l ih =>
    by_cases hx : x = some slot
    · simpa [hx] using ih
    · by_cases hn : x = none
      · simpa [hn] using ih
      · simpa [hx, hn] using ih

/-! ### What SETVL and CLAIM do with lanes, by case -/

/-- The state and core after an untimed hart's request that is met. -/
theorem takeLanes_untimed_met {s : State} (hs : s.hart.steward = false) (ht : s.hart.timed = false)
    (hw : (dropLanes s.core s.slotId).laneWait = []) (hf : lanesFree (dropLanes s.core s.slotId) ≠ 0) :
    takeLanes s = ((s.setCore (giveLanes (dropLanes s.core s.slotId) s.slotId s.hart.laneReq)).setHart
      { s.hart with laneSince := s.gtime }, false) := by
  simp [takeLanes, hs, ht, hw, hf]

theorem takeLanes_untimed_waits {s : State} (hs : s.hart.steward = false) (ht : s.hart.timed = false)
    (h : (dropLanes s.core s.slotId).laneWait ≠ [] ∨ lanesFree (dropLanes s.core s.slotId) = 0) :
    takeLanes s = (s.setCore (joinLaneWait (dropLanes s.core s.slotId) s.slotId s.gtime), true) := by
  rcases h with h | h <;> simp [takeLanes, hs, ht, h]

theorem takeLanes_timed_held {s : State} (hs : s.hart.steward = false) (ht : s.hart.timed = true)
    (h : s.hart.laneReq ≤ lanesHeld s.core s.slotId) : takeLanes s = (s, false) := by
  have : s.hart.laneReq - lanesHeld s.core s.slotId = 0 := by omega
  simp [takeLanes, hs, ht, this]

theorem takeLanes_timed_met {s : State} (hs : s.hart.steward = false) (ht : s.hart.timed = true)
    (h1 : lanesHeld s.core s.slotId < s.hart.laneReq)
    (h2 : s.hart.laneReq ≤ lanesHeld s.core s.slotId + lanesFree s.core) :
    takeLanes s = ((s.setCore (giveLanes s.core s.slotId (s.hart.laneReq - lanesHeld s.core s.slotId))).setHart
      { s.hart with laneSince := s.gtime }, false) := by
  have e1 : ¬s.hart.laneReq - lanesHeld s.core s.slotId = 0 := by omega
  have e2 : s.hart.laneReq - lanesHeld s.core s.slotId ≤ lanesFree s.core := by omega
  simp only [takeLanes, hs, ht, if_neg e1, if_pos e2, if_true, Bool.false_eq_true, if_false]

theorem takeLanes_timed_waits {s : State} (hs : s.hart.steward = false) (ht : s.hart.timed = true)
    (h : lanesHeld s.core s.slotId + lanesFree s.core < s.hart.laneReq) :
    takeLanes s = (s.setCore (joinLaneWait s.core s.slotId s.gtime), true) := by
  have e1 : ¬s.hart.laneReq - lanesHeld s.core s.slotId = 0 := by omega
  have e2 : ¬s.hart.laneReq - lanesHeld s.core s.slotId ≤ lanesFree s.core := by omega
  simp only [takeLanes, hs, ht, if_neg e1, if_neg e2, if_true, Bool.false_eq_true, if_false]

/-- Taking lanes changes nothing but cores and the time of the hart's last grant. -/
theorem takeLanes_eq (s : State) : (takeLanes s).1 = { s with
    cores := (takeLanes s).1.cores, hart := { s.hart with laneSince := (takeLanes s).1.hart.laneSince } } := by
  unfold takeLanes
  dsimp only
  split
  · rfl
  · split
    · split
      · rfl
      · split <;> rfl
    · split <;> rfl

/-- The cores in which a hart's groups stand. -/
theorem takeLanes_coreAt_other (s : State) {i : Nat} (h : i ≠ s.coreId) : (takeLanes s).1.coreAt i = s.coreAt i := by
  have e (k : Core) : (s.setCore k).coreAt i = s.coreAt i := coreAt_setCoreAt_other s k h
  unfold takeLanes
  dsimp only
  split
  · rfl
  · split
    · split
      · rfl
      · split
        · exact e _
        · exact e _
    · split
      · exact e _
      · exact e _

/-- The registers, memory and the rest of the machine play no part in what a hart's request for lanes does. -/
theorem takeLanes_congr {s t : State} (h1 : t.cur = s.cur) (h2 : t.cores = s.cores) (h3 : t.gtime = s.gtime)
    (h4 : t.hart.steward = s.hart.steward) (h5 : t.hart.timed = s.hart.timed) (h6 : t.hart.laneReq = s.hart.laneReq)
    (h7 : t.hart.laneSince = s.hart.laneSince) :
    (takeLanes t).1.cores = (takeLanes s).1.cores ∧ (takeLanes t).1.hart.laneSince = (takeLanes s).1.hart.laneSince ∧
      (takeLanes t).2 = (takeLanes s).2 := by
  have e1 : t.core = s.core := by simp only [State.core, State.coreAt, State.coreId, h1, h2]
  have e2 : t.slotId = s.slotId := by simp only [State.slotId, h1]
  have e3 (k : Core) : (t.setCore k).cores = (s.setCore k).cores := by
    simp only [State.setCore, State.setCoreAt, State.coreId, h1, h2]
  unfold takeLanes
  dsimp only
  rw [e1, e2, h3, h4, h5, h6]
  split
  · exact ⟨h2, h7, rfl⟩
  · split
    · split
      · exact ⟨h2, h7, rfl⟩
      · split
        · exact ⟨e3 _, rfl, rfl⟩
        · exact ⟨e3 _, h7, rfl⟩
    · split
      · exact ⟨e3 _, rfl, rfl⟩
      · exact ⟨e3 _, h7, rfl⟩

/-! ### What a request comes to (R24, R26) -/

/-- The groups of other harts stay as they are. -/
theorem takeLanes_others (s : State) {h : Nat} (hh : h ≠ s.slotId) :
    lanesHeld (takeLanes s).1.core h = lanesHeld s.core h := by
  have e (k : Core) : (s.setCore k).core = k := core_setCore s k
  unfold takeLanes
  dsimp only
  split
  · rfl
  · split
    · split
      · rfl
      · split
        · exact (congrArg (lanesHeld · h) (e _)).trans (lanesHeld_giveLanes_other _ _ hh)
        · exact (congrArg (lanesHeld · h) (e (joinLaneWait s.core s.slotId s.gtime))).trans rfl
    · split
      · exact ((congrArg (lanesHeld · h) (e _)).trans (lanesHeld_giveLanes_other _ _ hh)).trans (lanesHeld_dropLanes_other _ hh)
      · exact (congrArg (lanesHeld · h) (e (joinLaneWait _ s.slotId s.gtime))).trans (lanesHeld_dropLanes_other s.core hh)

/-- An untimed hart that waits holds no group, and stands last among those that wait. -/
theorem takeLanes_untimed_waits_core {s : State} (hs : s.hart.steward = false) (ht : s.hart.timed = false)
    (h : (dropLanes s.core s.slotId).laneWait ≠ [] ∨ lanesFree (dropLanes s.core s.slotId) = 0) :
    (takeLanes s).2 = true ∧ lanesHeld (takeLanes s).1.core s.slotId = 0 ∧
      (s.slotId, s.gtime) ∈ (takeLanes s).1.core.laneWait := by
  rw [takeLanes_untimed_waits hs ht h, core_setCore]
  exact ⟨rfl, lanesHeld_dropLanes _ _, List.mem_append_right _ (.head _)⟩

end Machine
end Sys2Proof

open Sys2Proof Sys2Proof.Machine

/-- Settles O10, by the four cases of a request: an untimed or a timed hart's, met or not. -/
theorem lanesTaken : Obligations.LanesTaken := by
  intro s hs r k k' free holds
  have hfree : s.hart.timed = false → free = lanesFree (dropLanes k s.slotId) := by
    intro ht
    rw [lanesFree_dropLanes]
    simp [free, ht]
  have hfree' : s.hart.timed = true → free = lanesFree k := by
    intro ht
    simp [free, ht, lanesFree]
  refine ⟨fun h hh => takeLanes_others s hh, fun ht w hw hne => ?_, fun ht hall => ⟨fun hf => ?_, fun hf => ?_⟩,
    fun ht => ⟨fun h => ?_, fun ⟨h1, h2⟩ => ?_, fun h => ?_⟩⟩
  · -- a hart waits already
    have : w ∈ (dropLanes k s.slotId).laneWait := List.mem_filter.2 ⟨hw, by simpa using hne⟩
    exact takeLanes_untimed_waits_core hs ht (.inl (List.ne_nil_of_mem this))
  · -- no group is free
    obtain ⟨h1, -, h2⟩ := takeLanes_untimed_waits_core hs ht (.inr ((hfree ht).symm.trans hf))
    exact ⟨h1, h2⟩
  · -- some group is free, and no hart waits
    have hw : (dropLanes k s.slotId).laneWait = [] := by
      refine List.filter_eq_nil_iff.2 fun w hw => ?_
      simpa using hall w hw
    have e : r = _ := takeLanes_untimed_met hs ht hw (by rw [← hfree ht]; exact hf)
    have ek : k' = giveLanes (dropLanes k s.slotId) s.slotId s.hart.laneReq := by
      change r.1.core = _
      rw [e]
      exact core_setCore s _
    refine ⟨by rw [e], ?_, by rw [ek]; rfl, fun w hw' => ?_⟩
    · rw [ek, hfree ht]
      have := lanesHeld_giveLanes (dropLanes k s.slotId) s.slotId s.hart.laneReq
      rwa [lanesHeld_dropLanes, Nat.zero_add] at this
    · rw [ek] at hw'
      have : w ∈ (dropLanes k s.slotId).laneWait.filter (·.1 ≠ s.slotId) := hw'
      simpa using (List.mem_filter.1 this).2
  · -- a timed hart that holds all it asks for
    have e : r = _ := takeLanes_timed_held hs ht h
    rw [e]
    exact ⟨rfl, rfl⟩
  · -- what is missing is free
    rw [hfree' ht] at h2
    have e : r = _ := takeLanes_timed_met hs ht h1 h2
    have ek : k' = giveLanes k s.slotId (s.hart.laneReq - lanesHeld k s.slotId) := by
      change r.1.core = _
      rw [e]
      exact core_setCore s _
    refine ⟨by rw [e], ?_⟩
    rw [ek]
    have := lanesHeld_giveLanes k s.slotId (s.hart.laneReq - lanesHeld k s.slotId)
    change lanesHeld _ _ = _
    change lanesHeld k s.slotId < _ at h1
    change _ ≤ lanesHeld k s.slotId + _ at h2
    omega
  · -- something missing is not free
    rw [hfree' ht] at h
    have e : r = _ := takeLanes_timed_waits hs ht h
    have ek : k' = joinLaneWait k s.slotId s.gtime := by
      change r.1.core = _
      rw [e]
      exact core_setCore s _
    exact ⟨by rw [e], by rw [ek]; rfl⟩
end

section
/-! SUPPORT. SETVL and CLAIM (R27, R154, R217): what an instruction answers whose convoy opens the strip that follows it. -/

namespace Sys2Proof
namespace Machine

/-- An instruction that opens a strip at its own convoy, once its effect is known. -/
theorem opensStrip_next {s t : State} {f : State → Eff (State × (Hart → Hart))} {g : Hart → Hart} (h : MayCommit s)
    (hf : f s.committed = .ok (t, g)) (ht : InStrip t) :
    opensStrip f s = .next (t.advance.retired.setHart (g t.advance.retired.hart)) := by
  have ha : InStrip t.advance := ht.of rfl rfl rfl
  simp only [opensStrip, preCommit_ok h, hf, retire_inStrip ha]

/-- The same instruction where it meets a precise cause after its commit. -/
theorem opensStrip_precise {s : State} {f : State → Eff (State × (Hart → Hart))} {t : Trap} (h : MayCommit s) (ht : Traps s)
    (hf : f s.committed = .error (.trap t)) (h1 : t.found = []) (hd : t.drawn = 0) (h2 : heldByLeader s.committed t = false)
    (h3 : causeRestarts t = false) :
    ∃ u, opensStrip f s = .next u ∧ EntersTrap s.committed.settle u t false 0 s.regs.pc := by
  obtain ⟨u, h4, h5⟩ := takeTrap_precise ht.committed h.committed h1 hd h2 h3
  rw [committed_pc] at h5
  refine ⟨u, ?_, h5⟩
  rw [← h4]
  simp only [opensStrip, preCommit_ok h, hf, stopped]

/-- A precise cause that an instruction meets before its commit. -/
theorem stopped_precise {s : State} {tr : Trap} (h : MayCommit s) (ht : Traps s) (h1 : tr.found = []) (hd : tr.drawn = 0)
    (hc : tr.code ≠ cXLAT) (hr : causeRestarts tr = false) :
    ∃ t, stopped s (.trap tr) = .next t ∧ EntersTrap s.settle t tr false 0 s.regs.pc :=
  takeTrap_precise ht h h1 hd (heldByLeader_other hc) hr

theorem committed_gtime (s : State) : s.committed.gtime = s.gtime := by rw [committed_frame]

/-- What SETVL and CLAIM answer, whose effect on the committed machine leaves `u` before they ask for lanes: they take lanes as
the committed machine does, and the hart waits where that says so. -/
theorem opensStrip_lanes {s u : State} {f : State → Eff (State × (Hart → Hart))} {w : Wait} (h : MayCommit s)
    (hf : f s.committed = .ok ((takeLanes u).1, waitIf (takeLanes u).2 w))
    (hh : u.hart = { s.committed.hart with regs := u.hart.regs, ordered := u.hart.ordered })
    (hb : u.hart.regs.storeBuf = []) (h1 : u.cur = s.cur) (h2 : u.cores = s.committed.cores) (h3 : u.gtime = s.gtime) :
    let c := s.committed
    let r := takeLanes c
    ∃ t, opensStrip f s = .next t ∧
      t.regs = { u.hart.regs with
        pc := u.hart.regs.pc + 4, pend := none, cv := none, chain := none, first := none, member := 0 } ∧
      (t.core = r.1.core ∧ (∀ i, i ≠ s.coreId → t.coreAt i = c.coreAt i) ∧ t.hart.laneSince = r.1.hart.laneSince ∧
        t.hart.wait = if r.2 then some w else none) ∧
      t.hart = { u.hart with
        regs := t.hart.regs, undo := none, wait := t.hart.wait, readySince := readyAt s.gtime, laneSince := t.hart.laneSince } ∧
      t = { u with hart := t.hart, cores := t.cores } := by
  intro c r
  have hc1 : u.cur = c.cur := h1.trans (committed_cur s).symm
  obtain ⟨e1, e2, e3⟩ := takeLanes_congr (s := c) (t := u) hc1 h2 (h3.trans (committed_gtime s).symm)
    (by rw [hh]) (by rw [hh]) (by rw [hh]) (by rw [hh])
  obtain ⟨k, n, b, e⟩ : ∃ k n b, takeLanes u = ({ u with cores := k, hart := { u.hart with laneSince := n } }, b) :=
    ⟨_, _, _, Prod.ext (takeLanes_eq u) rfl⟩
  rw [e] at hf e1 e2 e3
  have ht : InStrip { u with cores := k, hart := { u.hart with laneSince := n } } :=
    .of_empty (by rw [hh]; exact committed_tl h) (by rw [hh]; exact committed_early s) hb
  refine ⟨_, opensStrip_next h hf ht, ?_, ⟨?_, fun i hi => ?_, ?_, ?_⟩, ?_, rfl⟩
  · cases b <;> rfl
  · have hr : r.1.cur = c.cur := by rw [show r.1 = _ from takeLanes_eq c]
    change mgetD k (u.cur / 8) _ = mgetD r.1.cores (r.1.cur / 8) _
    rw [hr, hc1, show k = r.1.cores from e1]
  · have hi' : i ≠ c.coreId := by rw [State.coreId, committed_cur]; exact hi
    exact (congrArg (fun m : Map Core => mgetD m i .initial) e1).trans (takeLanes_coreAt_other c hi')
  · rw [← e2]; cases b <;> rfl
  · rw [← e3]; cases b <;> rfl
  · rw [← h3]; cases b <;> rfl

/-- An instruction that names no register group meets no cause at decode once a hart has a declaration (R23, R109). -/
theorem checkMember_none {s : State} {i : Instr} (h1 : vecUse (groupFactor s.regs) i = none) (h2 : stewardOnly i = false)
    (h3 : soloUse (groupFactor s.hart.regs) i = some []) (h4 : tagTooWide (declWidth s) i = false) :
    checkMember s i = if s.hart.vlmax = 0 then declFault s else .ok () := by
  unfold checkMember memberCauses
  rw [h1]
  by_cases hv : s.hart.vlmax = 0 <;> simp [soloCauses, h2, h3, h4, hv, declFault]

theorem checkMember_claim (s : State) (d a b : BitVec 5) (sc : BitVec 3) :
    checkMember s (.claim d a b sc) = if s.hart.vlmax = 0 then declFault s else .ok () := checkMember_none rfl rfl rfl rfl

theorem checkMember_setvl (s : State) (d a b : BitVec 5) :
    checkMember s (.setvl d a b) = if s.hart.vlmax = 0 then declFault s else .ok () := checkMember_none rfl rfl rfl rfl

theorem checkMember_vshape (s : State) (t : Bool) (g : BitVec 2) :
    checkMember s (.vshape t g) = if s.hart.vlmax = 0 then declFault s else .ok () := checkMember_none rfl rfl rfl rfl

theorem intOf_signed64 (w : XWord) : intOf true 64 w = w.toInt := by
  have h := w.isLt
  rw [BitVec.toInt_eq_toNat_cond]
  unfold intOf
  simp only [Bool.true_and, decide_eq_true_eq, Nat.mod_eq_of_lt h]
  split <;> split <;> omega

theorem wrapBits_64 (i : Int) : wrapBits 64 i = BitVec.ofInt 64 i := by
  apply BitVec.eq_of_toNat_eq
  rw [wrapBits, BitVec.toNat_ofNat, BitVec.toNat_ofInt]
  omega

end Machine
end Sys2Proof
end

section
/-! CERTIFICATES. CLAIM, SETVL, VTAG and VSHAPE (O9, O18). -/

namespace Sys2Proof
namespace Machine

/-! ### CLAIM -/

/-- The signed 64-bit word of memory at an address. -/
def pairWord (m : List Host.Cell) (p : Nat) : Int := (xword (leNat (memReadN m p 8))).toInt

/-- What a claim of n iterations leaves at the home of a pair (R217): its first word takes `w`, unless n is 0. -/
theorem claim_home {s u : State} {g pa n w : Nat} {va : XWord} (hu : TlbFrame s u) (hw : Memory.wf s.mem = true)
    (hp : PortUp s pa) (h1 : pa % 16 = 0) :
    let c := if n = 0 then u else u.homeWrite 0 g va pa (leBytes 8 w)
    OnlyFound s c ∧ c = { s with
      mem := c.mem, written := c.written, badUnits := c.badUnits, tlb := c.tlb, free := c.free, agenda := c.agenda } ∧
      c.written = (if n ≠ 0 then { by_ := .hart s.cur, pa := pa, old := memReadN s.mem pa 8, new := leBytes 8 w } :: s.written
        else s.written) ∧
      ∀ p, memRead c.mem p = if n ≠ 0 ∧ pa ≤ p ∧ p < pa + 8 then BitVec.ofNat 8 (w / 256 ^ (p - pa)) else memRead s.mem p := by
  by_cases hn : n = 0
  · rw [if_pos hn]
    refine ⟨hu.1, ?_, ?_, fun p => ?_⟩
    · rw [hu.2]
    · rw [hu.2]; simp [hn]
    · rw [hu.mem, if_neg (fun h => h.1 hn)]
  · rw [if_neg hn]
    obtain ⟨h2, h3, h4, h5⟩ := homeWrite_bytes (g := g) (va := va) (w := w) hu hw hp (by omega : pa % 2 = 0) (by rfl : 8 % 2 = 0)
    refine ⟨h2, h3, ?_, fun p => (h5 p).trans ?_⟩
    · rw [h4, if_pos hn]
    · simp [byteAfter, hn]

/-- The effect of CLAIM on the committed machine, as `execClaim` has it. -/
def claimEffect (d a b : BitVec 5) (sc : BitVec 3) (s : State) : Eff (State × (Hart → Hart)) := do
  let req := (s.x b).toNat
  illegalWhen s (req == 0)
  let va := s.x a
  let (pa, s) ← orderedAccess s .update va 16 sc
  let next := intOf true 64 (xword (leNat (memReadN s.mem pa 8)))
  let last := intOf true 64 (xword (leNat (memReadN s.mem (pa + 8) 8)))
  let n := min (min req (rowSize s)) (last - next).toNat
  let s := if n = 0 then s else s.homeWrite 0 s.hart.gang va pa (leBytes 8 (wrapBits 64 (next + n)).toNat)
  let s := s.order
  let s := s.setX d (wrapBits 64 next)
  let s := s.setRegs { s.regs with vl := n }
  let (s, w) := takeLanes s
  return (s, waitIf w .lanesClaim)

theorem exec_claim_opens {s : State} {d a b : BitVec 5} {sc : BitVec 3} (hv : s.hart.vlmax ≠ 0) :
    exec (.claim d a b sc) s = opensStrip (claimEffect d a b sc) s := by
  rw [exec_claim, execClaim, checkMember_claim, if_neg hv]; rfl

theorem claimEffect_zero {s : State} {d a b : BitVec 5} {sc : BitVec 3} (hb : s.x b = 0) :
    claimEffect d a b sc s = illegal s := by
  simp only [claimEffect, hb, illegalWhen, illegal, bind, Except.bind]
  rfl

/-- The state that a claim of n iterations leaves before the hart asks for lanes, `e` being that after the access. -/
def claimed (e : State) (d : BitVec 5) (va : XWord) (pa n : Nat) : State :=
  let next := pairWord e.mem pa
  let u := if n = 0 then e else e.homeWrite 0 e.hart.gang va pa (leBytes 8 (BitVec.ofInt 64 (next + n)).toNat)
  let v := u.order.setX d (BitVec.ofInt 64 next)
  v.setRegs { v.regs with vl := n }

theorem claimEffect_ok {s e : State} {d a b : BitVec 5} {sc : BitVec 3} {pa : Nat} (hb : (s.x b).toNat ≠ 0)
    (he : orderedAccess s .update (s.x a) 16 sc = .ok (pa, e)) :
    let v := claimed e d (s.x a) pa (min (min (s.x b).toNat (rowSize e)) (pairWord e.mem (pa + 8) - pairWord e.mem pa).toNat)
    claimEffect d a b sc s = .ok ((takeLanes v).1, waitIf (takeLanes v).2 .lanesClaim) := by
  have hb' : ((s.x b).toNat == 0) = false := by simpa using hb
  simp only [claimEffect, illegalWhen, hb', Bool.false_eq_true, if_false, he, bind, Except.bind, pure, Except.pure,
    intOf_signed64, wrapBits_64]
  rfl

/-- What a claim of a pair answers (R40, R217). -/
theorem claim_answers {s : State} {d a b : BitVec 5} {sc : BitVec 3} {pa : Nat} (h : MayCommit s) (hw : Memory.wf s.mem = true)
    (hp : PortUp s pa) (hv : s.hart.vlmax ≠ 0) (ho : OrderedAt s.committed .update (s.x a) 16 sc pa) (ha : pa % 16 = 0)
    (hb : (s.x b).toNat ≠ 0) :
    let c := s.committed
    let next := pairWord c.mem pa
    let n := min (min (s.x b).toNat (rowSize s)) (pairWord c.mem (pa + 8) - next).toNat
    ∃ t u, exec (.claim d a b sc) s = .next t ∧
      (OnlyFound c u ∧ u = { c with
        mem := u.mem, written := u.written, badUnits := u.badUnits, tlb := u.tlb, free := u.free, agenda := u.agenda } ∧
      u.written = (if n ≠ 0 then { by_ := .hart c.cur, pa := pa, old := memReadN c.mem pa 8
                                   new := leBytes 8 (BitVec.ofInt 64 (next + n)).toNat } :: c.written else c.written) ∧
      ∀ p, memRead u.mem p = if n ≠ 0 ∧ pa ≤ p ∧ p < pa + 8 then
        BitVec.ofNat 8 ((BitVec.ofInt 64 (next + n)).toNat / 256 ^ (p - pa)) else memRead c.mem p) ∧
      t.regs = { writeX c.hart.regs d (BitVec.ofInt 64 next) with
        vl := n, pc := c.hart.regs.pc + 4, pend := none, cv := none, chain := none, first := none, member := 0 } ∧
      (let r := takeLanes c
       t.core = r.1.core ∧ (∀ i, i ≠ s.coreId → t.coreAt i = c.coreAt i) ∧ t.hart.laneSince = r.1.hart.laneSince ∧
         t.hart.wait = if r.2 then some .lanesClaim else none) ∧
      t.hart = { c.hart with
        regs := t.hart.regs, undo := none, wait := t.hart.wait, readySince := readyAt s.gtime, laneSince := t.hart.laneSince
        ordered := u.written.length } ∧
      t = { u with hart := t.hart, cores := t.cores } := by
  intro c next n
  obtain ⟨e, he⟩ := ho
  have hf := orderedAccess_frame he
  have hx (r : BitVec 5) : c.x r = s.x r := committed_x s r
  have hrow : rowSize e = rowSize s := by
    simp only [rowSize, capacity, groupFactor, State.regs, hf.hart, committed_hart, commitTwins]
  have hn : min (min (c.x b).toNat (rowSize e)) (pairWord e.mem (pa + 8) - pairWord e.mem pa).toNat = n := by
    rw [hx, hrow, hf.mem]
  have hok := claimEffect_ok (s := c) (d := d) (by rw [hx]; exact hb) (by rw [hx]; exact he)
  rw [hx, hn] at hok
  -- what the access leaves at the home of the pair
  have home := claim_home (n := n) (g := e.hart.gang) (va := s.x a) (w := (BitVec.ofInt 64 (next + n)).toNat) hf
    (committed_wf s hw) (committed_portUp hp) ha
  obtain ⟨u, hu⟩ : ∃ u, u = if n = 0 then e
      else e.homeWrite 0 e.hart.gang (s.x a) pa (leBytes 8 (BitVec.ofInt 64 (next + n)).toNat) := ⟨_, rfl⟩
  rw [← hu] at home
  obtain ⟨h1, h2, h3, h4⟩ := home
  have huh : u.hart = c.hart := by rw [h2]
  have hv' : claimed e d (s.x a) pa n = u.order.setRegs { writeX c.hart.regs d (BitVec.ofInt 64 next) with vl := n } := by
    have : pairWord e.mem pa = next := by rw [hf.mem]
    rw [claimed, this, ← hu, ← huh]
    rfl
  rw [hv'] at hok
  obtain ⟨t, g1, g2, g3, g4, g5⟩ := opensStrip_lanes h hok (by rw [← huh]; rfl)
    (by simpa using committed_buf s)
    ((show _ = u.cur from rfl).trans (by rw [h2]; exact committed_cur s))
    ((show _ = u.cores from rfl).trans (by rw [h2]))
    ((show _ = u.gtime from rfl).trans (by rw [h2]; exact committed_gtime s))
  refine ⟨t, u, ?_, ⟨h1, h2, h3, h4⟩, ?_, g3, ?_, ?_⟩
  · rw [← g1, exec_claim_opens hv]
  · rw [g2]; simp
  · rw [g4, ← huh]; rfl
  · rw [g5]; rfl

end Machine
end Sys2Proof

open Sys2Proof Sys2Proof.Machine

/-- Settles O9: the claim is one update at the pair's home, before the hart asks for lanes. -/
theorem claims : Obligations.Claims := by
  refine ⟨fun s d a b sc h ht hv hb => ?_, fun s d a b sc pa h hw hp hv ho ha => ?_⟩
  · have hx : s.committed.x b = 0 := (committed_x s b).trans hb
    have hpc : s.committed.regs.pc = s.regs.pc := committed_pc s
    rw [exec_claim_opens hv]
    refine opensStrip_precise (t := { code := 0x01, tv := s.regs.pc }) h ht ?_ rfl rfl (heldByLeader_other (show 0x01 ≠ cXLAT by decide)) rfl
    rw [claimEffect_zero hx, illegal, hpc]
    rfl
  · intro c word next n hb
    obtain ⟨t, u, g1, ⟨h1, h2, h3, h4⟩, g2, g3, g4, g5⟩ := claim_answers (d := d) h hw hp hv ho ha hb
    have hmem : t.mem = u.mem := by rw [g5]
    have hwr : t.written = u.written := by rw [g5]
    refine ⟨t, g1, ⟨rfl, fun r hr => ?_⟩, ?_, fun p => ?_, ?_, ?_, g3, ?_, ?_, ?_, ?_⟩
    · have := readX_writeX c.hart.regs d r (BitVec.ofInt 64 next)
      rw [if_neg hr] at this
      rw [State.x, g2]
      exact this
    · exact congrArg Regs.vl g2
    · rw [hmem]; exact h4 p
    · rw [g2]; exact congrArg (· + 4) (committed_pc s)
    · rw [OnlyX, g2, writeX_eq]; rfl
    · rw [hwr]; exact g4
    · rw [hwr, h3, committed_cur]; rfl
    · rw [OnlyFound, g5]; exact h1
    · rw [g5, h2]
end

section
/-! CERTIFICATES. SETVL, VTAG and VSHAPE (O18), and VDECL (O17). -/

namespace Sys2Proof
namespace Machine

/-! ### SETVL -/

/-- The row count that SETVL is asked for: 1 for 0 (R154). -/
def rowsAsked (s : State) (b : BitVec 5) : Nat := if (s.x b).toNat = 0 then 1 else (s.x b).toNat

theorem rowsAsked_eq (s : State) (b : BitVec 5) : rowsAsked s b = if s.x b = 0 then 1 else (s.x b).toNat := by
  have : (s.x b).toNat = 0 ↔ s.x b = 0 := by
    rw [← BitVec.toNat_inj]; rfl
  simp [rowsAsked, this]

theorem rowsOk_iff (n : Nat) : rowsOk n = true ↔ n ∈ [1, 2, 4, 8, 16, 32, 64] := List.contains_iff_mem

/-- The effect of SETVL on the committed machine, as `execSetvl` has it. -/
def setvlEffect (rows : Nat) (d a : BitVec 5) (s : State) : Eff (State × (Hart → Hart)) :=
  let vl := min (s.x a).toNat (capacity s / rows)
  let before := Wait.lanesSetvl d (s.x d) s.regs.vl s.regs.vr
  let s := (s.setRegs { s.regs with vr := rows, vl := vl }).setX d (xword vl)
  let (s, w) := takeLanes s
  .ok (s, waitIf w before)

theorem exec_setvl_opens {s : State} {d a b : BitVec 5} (hv : s.hart.vlmax ≠ 0) (hr : rowsOk (rowsAsked s b) = true) :
    exec (.setvl d a b) s = opensStrip (setvlEffect (rowsAsked s b) d a) s := by
  have h1 := checkMember_setvl s d a b
  rw [if_neg hv] at h1
  have h2 : illegalWhen s (!rowsOk (if (s.x b).toNat = 0 then 1 else (s.x b).toNat)) = .ok () := by
    rw [show rowsOk (if (s.x b).toNat = 0 then 1 else (s.x b).toNat) = true from hr]; rfl
  simp only [exec_setvl, execSetvl, h1, h2, bind, Except.bind]
  rfl

theorem exec_setvl_rows {s : State} {d a b : BitVec 5} (hv : s.hart.vlmax ≠ 0) (hr : rowsOk (rowsAsked s b) = false) :
    exec (.setvl d a b) s = stopped s (.trap { code := cILLEGAL, tv := s.regs.pc }) := by
  have h1 := checkMember_setvl s d a b
  rw [if_neg hv] at h1
  have h2 : illegalWhen s (!rowsOk (if (s.x b).toNat = 0 then 1 else (s.x b).toNat)) = illegal s := by
    rw [show rowsOk (if (s.x b).toNat = 0 then 1 else (s.x b).toNat) = false from hr]; rfl
  simp only [exec_setvl, execSetvl, h1, h2, bind, Except.bind]
  rfl

theorem exec_setvl_decl {s : State} {d a b : BitVec 5} (hv : s.hart.vlmax = 0) :
    exec (.setvl d a b) s = stopped s (.trap { code := cDECL, tv := s.regs.pc }) := by
  have h1 := checkMember_setvl s d a b
  rw [if_pos hv] at h1
  simp only [exec_setvl, execSetvl, h1, bind, Except.bind]
  rfl

/-- The state that SETVL leaves of the committed machine before the hart asks for lanes. -/
def shaped (c : State) (d : BitVec 5) (rows vl : Nat) : State :=
  (c.setRegs { c.regs with vr := rows, vl := vl }).setX d (xword vl)

/-- What a SETVL answers (R27, R154). -/
theorem setvl_answers {s : State} {d a b : BitVec 5} (h : MayCommit s) (hv : s.hart.vlmax ≠ 0)
    (hr : rowsOk (rowsAsked s b) = true) :
    let rows := rowsAsked s b
    let vl := min (s.x a).toNat (2 ^ s.regs.gcode.toNat * s.hart.vlmax / rows)
    let c := s.committed
    ∃ t, exec (.setvl d a b) s = .next t ∧
      t.regs = { writeX { c.hart.regs with vr := rows, vl := vl } d (xword vl) with
        pc := c.hart.regs.pc + 4, pend := none, cv := none, chain := none, first := none, member := 0 } ∧
      (let r := takeLanes c
       t.core = r.1.core ∧ (∀ i, i ≠ s.coreId → t.coreAt i = c.coreAt i) ∧ t.hart.laneSince = r.1.hart.laneSince ∧
         t.hart.wait = if r.2 then some (.lanesSetvl d (s.x d) s.regs.vl s.regs.vr) else none) ∧
      t.hart = { c.hart with
        regs := t.hart.regs, undo := none, wait := t.hart.wait, readySince := readyAt s.gtime, laneSince := t.hart.laneSince } ∧
      t = { c with hart := t.hart, cores := t.cores } := by
  intro rows vl c
  have hcap : capacity c = 2 ^ s.regs.gcode.toNat * s.hart.vlmax := by
    simp only [capacity, groupFactor, State.regs, c, committed_hart, commitTwins]
  have hvl : c.regs.vl = s.regs.vl := by simp only [State.regs, c, committed_hart, commitTwins]
  have hvr : c.regs.vr = s.regs.vr := by simp only [State.regs, c, committed_hart, commitTwins]
  have hok : setvlEffect rows d a c = .ok ((takeLanes (shaped c d rows vl)).1,
      waitIf (takeLanes (shaped c d rows vl)).2 (.lanesSetvl d (s.x d) s.regs.vl s.regs.vr)) := by
    simp only [setvlEffect, hcap, hvl, hvr, show ∀ r, c.x r = s.x r from committed_x s]
    rfl
  obtain ⟨t, g1, g2, g3, g4, g5⟩ := opensStrip_lanes (u := shaped c d rows vl) h hok rfl
    (by simpa [shaped] using committed_buf s) (committed_cur s) rfl (committed_gtime s)
  refine ⟨t, ?_, ?_, g3, g4, g5⟩
  · rw [← g1, exec_setvl_opens hv hr]
  · rw [g2]; simp [shaped]

/-! ### VTAG and VSHAPE -/

/-- Registers `r` once the convoy has ended at the next word. -/
def convoyEnded (r : Regs) : Regs :=
  { r with pc := r.pc + 4, pend := none, cv := none, chain := none, first := none, member := 0 }

theorem onlyX_convoyEnded (r : Regs) : OnlyX r (convoyEnded r) := rfl

/-- An instruction of the open strip that passes its check and changes registers alone. -/
theorem ordinaryChecked_regs {s : State} {i : Instr} {f : State → Eff State} {r : Regs} (h : InStrip s)
    (hc : checkMember s i = .ok ()) (hf : f s = .ok (s.setRegs r)) (hb : r.storeBuf = s.hart.regs.storeBuf) :
    ∃ u, ordinaryChecked i f s = .next u ∧ SameMachine s u ∧
      u.regs = convoyEnded r := by
  refine ⟨_, ordinary_next (t := s.setRegs r) (h.of rfl rfl hb) ?_, ⟨fun _ => rfl, rfl⟩, rfl⟩
  simp only [hc, bind, Except.bind, hf]

theorem checkMember_vtag {s : State} {d t b : BitVec 5} (hv : s.hart.vlmax ≠ 0) (ht : tagTooWide (declWidth s) (.vtag d t b) = false)
    (hb : b = 0 → d.toNat % groupFactor s.hart.regs = 0 ∧ d.toNat + groupFactor s.hart.regs ≤ s.hart.vn) :
    checkMember s (.vtag d t b) = .ok () := by
  have hs : soloCauses s (.vtag d t b) s.regs.pc = [] := by
    by_cases h0 : b = 0
    · obtain ⟨h1, h2⟩ := hb h0
      simp [soloCauses, stewardOnly, soloUse, h0, h1, hv, Nat.not_lt.2 h2]
      simpa [h0] using ht
    · simp only [soloCauses, soloUse, if_neg h0]
      simp [stewardOnly, hv, ht]
  simp only [checkMember, memberCauses, vecUse, hs]

theorem tagTooWide_vtag {w : Nat} {d t b : BitVec 5} {f : Fmt} (hf : Fmt.ofCode? t.toNat = some f) (hw : f.bytes ≤ w) :
    tagTooWide w (.vtag d t b) = false := by
  simp [tagTooWide, hf, hw]

/-- A group whose tag is set and none of whose elements is written: its bits stay (R155). -/
theorem writeGroup_blank (s : State) (first n : Nat) (f : Fmt) (j : Fin 32) :
    (s.writeGroup first n f (blank s)).regs.vregs[j] = if first ≤ j.val ∧ j.val < first + n then
      ⟨s.regs.vregs[j].com, some { tag := f, elems := (curTile s.regs.vregs[j]).elems }⟩ else s.regs.vregs[j] := by
  have hb (p : Nat) : (blank s).getD p none = none := by
    simp [blank, Array.getD_eq_getD_getElem?, Array.getElem?_replicate]
    split <;> rfl
  have hid (xs : Array XWord) : xs.mapIdx (fun _ x => x) = xs := by apply Array.ext <;> simp
  rw [writeGroup_vreg]
  simp only [hb, hid]

theorem writeGroup_eq (s : State) (first n : Nat) (f : Fmt) (new : Array (Option XWord)) :
    s.writeGroup first n f new = s.setRegs { s.regs with vregs := (s.writeGroup first n f new).regs.vregs } := by
  unfold State.writeGroup
  extract_lets
  generalize Vector.ofFn _ = v
  rfl

theorem execVtag_group {s : State} {d t : BitVec 5} {f : Fmt} (h : InStrip s) (hv : s.hart.vlmax ≠ 0)
    (hf : Fmt.ofCode? t.toNat = some f) (hw : f.bytes ≤ declWidth s) (h1 : d.toNat % groupFactor s.hart.regs = 0)
    (h2 : d.toNat + groupFactor s.hart.regs ≤ s.hart.vn) :
    ∃ u, exec (.vtag d t 0) s = .next u ∧ SameMachine s u ∧
      u.regs = convoyEnded { s.regs with
        vregs := (s.writeGroup d.toNat (groupFactor s.regs) f (blank s)).regs.vregs } := by
  obtain ⟨u, g1, g2, g3⟩ := ordinaryChecked_regs (i := .vtag d t 0)
    (f := fun s => .ok (s.writeGroup d.toNat (groupFactor s.regs) f (blank s))) h
    (checkMember_vtag hv (tagTooWide_vtag hf hw) fun _ => ⟨h1, h2⟩) (congrArg Except.ok (writeGroup_eq ..)) rfl
  refine ⟨u, ?_, g2, g3⟩
  rw [← g1, exec_vtag, execVtag, hf]
  rfl

/-- The registers of queue d with its tag set. -/
def queueTagged (r : Regs) (d : BitVec 5) (f : Fmt) : Regs :=
  { r with qtags := Vector.ofFn (fun i : Fin 4 => if i.val = d.toNat then f else r.qtags[i]) }

theorem execVtag_queue {s : State} {d t : BitVec 5} {f : Fmt} (h : InStrip s) (hv : s.hart.vlmax ≠ 0)
    (hf : Fmt.ofCode? t.toNat = some f) (hw : f.bytes ≤ declWidth s) :
    ∃ u, exec (.vtag d t 1) s = .next u ∧ SameMachine s u ∧
      u.regs = convoyEnded (queueTagged s.regs d f) := by
  obtain ⟨u, g1, g2, g3⟩ := ordinaryChecked_regs (i := .vtag d t 1) (r := queueTagged s.regs d f)
    (f := fun s => .ok (s.setRegs (queueTagged s.regs d f))) h
    (checkMember_vtag hv (tagTooWide_vtag hf hw) fun h0 => absurd h0 (show (1 : BitVec 5) ≠ 0 by decide)) rfl rfl
  refine ⟨u, ?_, g2, g3⟩
  rw [← g1, exec_vtag, execVtag, hf]
  rfl

/-- The registers after VSHAPE, VLMAX known (R156). -/
def reshaped (r : Regs) (vlmax : Nat) (z : Bool) (g : BitVec 2) : Regs :=
  { r with gcode := g, tailZero := z, vl := min r.vl (2 ^ g.toNat * vlmax / r.vr) }

theorem execVshape_answers {s : State} {z : Bool} {g : BitVec 2} (h : InStrip s) (hv : s.hart.vlmax ≠ 0) :
    ∃ u, exec (.vshape z g) s = .next u ∧ SameMachine s u ∧
      u.regs = convoyEnded (reshaped s.regs s.hart.vlmax z g) := by
  obtain ⟨u, g1, g2, g3⟩ := ordinaryChecked_regs (i := .vshape z g) (r := reshaped s.regs s.hart.vlmax z g)
    (f := fun s => .ok (s.setRegs (reshaped s.regs s.hart.vlmax z g))) h (by rw [checkMember_vshape, if_neg hv]) rfl rfl
  exact ⟨u, g1, g2, g3⟩

/-! ### VDECL -/

/-- The descriptor that Table 7.2 allows, and its fields. -/
theorem declOf_eq {v : Nat} (hv : v < 2 ^ 64) :
    Decl.of v = if v / 2 ^ 17 % 8 = 0 ∧ v / 2 ^ 22 % 4 = 0 ∧ v / 2 ^ 30 = 0 ∧ v / 2 ^ 24 % 2 ^ 6 ≤ 32 ∧
        (v / 2 ^ 24 % 2 ^ 6 ≠ 0 → 64 ≤ v % 2 ^ 17 ∧ v % 2 ^ 17 ≤ 65536)
      then some { n := v / 2 ^ 24 % 2 ^ 6, wcode := v / 2 ^ 20 % 4, count := v % 2 ^ 17 } else none := by
  have h30 : bitsAt v 30 34 = v / 2 ^ 30 := Nat.mod_eq_of_lt (by omega)
  have h0 : bitsAt v 0 17 = v % 2 ^ 17 := by simp [bitsAt]
  have h17 : bitsAt v 17 3 = v / 2 ^ 17 % 8 := rfl
  have h20 : bitsAt v 20 2 = v / 2 ^ 20 % 4 := rfl
  have h22 : bitsAt v 22 2 = v / 2 ^ 22 % 4 := rfl
  have h24 : bitsAt v 24 6 = v / 2 ^ 24 % 2 ^ 6 := rfl
  unfold Decl.of
  simp only [h30, h0, h17, h20, h22, h24]
  by_cases hc : v / 2 ^ 17 % 8 = 0 ∧ v / 2 ^ 22 % 4 = 0 ∧ v / 2 ^ 30 = 0 ∧ v / 2 ^ 24 % 2 ^ 6 ≤ 32 ∧
      (v / 2 ^ 24 % 2 ^ 6 ≠ 0 → 64 ≤ v % 2 ^ 17 ∧ v % 2 ^ 17 ≤ 65536)
  · rw [if_pos hc, if_neg (by omega)]
  · rw [if_neg hc, if_pos (by omega)]

/-- The effect of VDECL of a well-formed descriptor on the committed machine. -/
def vdeclEffect (k : Decl) (d : BitVec 5) (s : State) : Eff State :=
  let vlmax := grantOf k (Config.vrfBytes - spaceHeld s s.coreId s.hart.ctx s.cur)
  let s := s.setHart { s.hart with
    vlmax := vlmax, vn := k.n, wcode := BitVec.ofNat 2 k.wcode, reserve := 0, regs := declareRegs s.regs k vlmax }
  .ok (s.setX d (xword vlmax))

theorem execVdecl_some {s : State} {d a : BitVec 5} {k : Decl} (h : Decl.of (s.x a).toNat = some k) :
    exec (.vdecl d a) s = irreversible (vdeclEffect k d) s := by
  rw [exec_vdecl, execVdecl, h]
  rfl

theorem execVdecl_none {s : State} {d a : BitVec 5} (h : Decl.of (s.x a).toNat = none) :
    exec (.vdecl d a) s = stopped s (.trap { code := cILLEGAL, tv := s.regs.pc }) := by
  rw [exec_vdecl, execVdecl, h]

/-- The committed machine after the declaration `k` with VLMAX `vlmax`. -/
def declared (c : State) (k : Decl) (vlmax : Nat) : State :=
  c.setHart { c.hart with
    vlmax := vlmax, vn := k.n, wcode := BitVec.ofNat 2 k.wcode, reserve := 0, regs := declareRegs c.regs k vlmax }

/-- VDECL of a well-formed descriptor: the grant is out of what the hart's core has left for its context. -/
theorem vdecl_answers {s : State} {d a : BitVec 5} {k : Decl} (h : MayCommit s) (hk : Decl.of (s.x a).toNat = some k) :
    let vlmax := grantOf k (2 ^ 21 - spaceHeld s.committed s.coreId s.hart.ctx s.cur)
    SetsIn (exec (.vdecl d a) s) (declared s.committed k vlmax) d (xword vlmax) := by
  intro vlmax
  have h1 : s.committed.coreId = s.coreId := by rw [State.coreId, committed_cur]; rfl
  have h2 : s.committed.hart.ctx = s.hart.ctx := by rw [committed_hart]
  have hg : grantOf k (Config.vrfBytes - spaceHeld s.committed s.committed.coreId s.committed.hart.ctx s.committed.cur) = vlmax := by
    rw [h1, h2, committed_cur]
    rfl
  have he : vdeclEffect k d s.committed = .ok ((declared s.committed k vlmax).setX d (xword vlmax)) := by
    rw [← hg]
    rfl
  rw [execVdecl_some hk]
  exact irreversible_setsIn h he (committed_tl h) (committed_early s) (committed_buf s)

end Machine
end Sys2Proof

open Sys2Proof Sys2Proof.Machine

/-- Settles O18: SETVL by what a convoy that opens its strip answers, VTAG and VSHAPE as changes of registers alone. -/
theorem shapeAndTags : Obligations.ShapeAndTags := by
  refine ⟨fun s d a b h => ?_, fun s d t z g f h hv hf hw => ?_⟩
  · intro rows vl c
    have hrows : rowsAsked s b = rows := rowsAsked_eq s b
    refine ⟨fun hv hr => ?_, fun ht => ⟨fun hv hr => ?_, fun hv => ?_⟩⟩
    · obtain ⟨t, g1, g2, g3, g4, g5⟩ := setvl_answers (d := d) (a := a) (b := b) h hv
        (by rw [hrows]; exact (rowsOk_iff rows).2 hr)
      rw [hrows] at g2
      refine ⟨t, g1, ⟨rfl, fun r hr => ?_⟩, ?_, ?_, ?_, ?_, g3, g4, g5⟩
      · have := readX_writeX { c.hart.regs with vr := rows, vl := vl } d r (xword vl)
        rw [if_neg hr] at this
        rw [State.x, g2]
        exact this
      · rw [g2]; simp; rfl
      · rw [g2]; simp
      · rw [g2]; exact congrArg (· + 4) (committed_pc s)
      · rw [OnlyX, g2, writeX_eq]; rfl
    · rw [exec_setvl_rows hv (by rw [hrows, Bool.eq_false_iff, ne_eq, rowsOk_iff]; exact hr)]
      exact stopped_precise h ht rfl rfl (show 0x01 ≠ cXLAT by decide) rfl
    · rw [exec_setvl_decl hv]
      exact stopped_precise h ht rfl rfl (show 0x10 ≠ cXLAT by decide) rfl
  · intro n
    refine ⟨fun h1 h2 => ?_, fun hd => ?_, ?_⟩
    · obtain ⟨u, g1, g2, g3⟩ := execVtag_group h hv hf hw h1 h2
      refine ⟨u, g1, by rw [g3, convoyEnded], fun j => ?_, by rw [g3]; exact onlyX_convoyEnded _, by rw [g3, convoyEnded], g2⟩
      rw [g3]
      exact writeGroup_blank s d.toNat n f j
    · obtain ⟨u, g1, g2, g3⟩ := execVtag_queue (d := d) h hv hf hw
      refine ⟨u, g1, by rw [g3, convoyEnded, queueTagged], fun j => ?_, by rw [g3]; exact onlyX_convoyEnded _,
        by rw [g3, convoyEnded, queueTagged], g2⟩
      rw [g3]
      simp [convoyEnded, queueTagged]
    · obtain ⟨u, g1, g2, g3⟩ := execVshape_answers (z := z) (g := g) h hv
      exact ⟨u, g1, by rw [g3, convoyEnded, reshaped], by rw [g3]; exact onlyX_convoyEnded _,
        by rw [g3, convoyEnded, reshaped], g2⟩

/-- Settles O17: the descriptor is read before the commit, and the grant is what the register file has left. -/
theorem declarations : Obligations.Declarations := by
  intro s d a h v n count w ok c free vlmax r
  have hof := declOf_eq (s.x a).isLt
  refine ⟨fun hok => ?_, fun hok ht => ?_⟩
  · rw [if_pos hok] at hof
    have hg : grantOf ⟨n, w, count⟩ free = vlmax := by
      unfold grantOf
      rfl
    have hs := vdecl_answers (d := d) (k := ⟨n, w, count⟩) h hof
    rw [show grantOf ⟨n, w, count⟩ (2 ^ 21 - spaceHeld s.committed s.coreId s.hart.ctx s.cur) = vlmax from hg] at hs
    unfold declared declareRegs at hs
    exact hs
  · rw [if_neg hok] at hof
    rw [execVdecl_none hof]
    exact stopped_precise h ht rfl rfl (show 0x01 ≠ cXLAT by decide) rfl
end

section
/-! CERTIFICATES. What a commit leaves (O7): refuted by a list of bad units whose keys do not rise. -/

namespace Sys2Proof
namespace Machine

/-- A state that commits two stores while its bad units stand out of order: unit 5, poisoned, hides unit 3, mismatched, until the
first store covers unit 5 whole. The second store covers unit 3 in part, poisons it, and reports that to the owner of frame 0,
whose error queue lies at 0x1000. -/
def hiddenUnit : State :=
  { State.reset with
    hart := { Hart.initial with regs := { Hart.initial.regs with
      storeBuf := [⟨false, 10, [0, 0], 10⟩, ⟨false, 6, [0], 6⟩] } }
    badUnits := [(5, 3), (3, 1)]
    ctxs := [(0, { Ctx.initial with
      errBase := 0x1000
      grant := some {
        frames := [0], slots := [], arrays := 0, dvq := 0, nhvis := 0, peers := 0, hosts := [], ptroot := 0, ptva := 0
        framesVa := 0, ftpa := 0 } })] }

theorem hiddenUnit_storeBuf :
    hiddenUnit.regs.storeBuf = [⟨false, 10, [0, 0], 10⟩, ⟨false, 6, [0], 6⟩] := rfl

/-- No store of the buffer covers a part of a unit whose code a lookup finds to be other than that of poison. -/
theorem hiddenUnit_units : ∀ t ∈ hiddenUnit.regs.storeBuf, t.sp = false → PortUp hiddenUnit t.addr ∧
    ∀ u ∈ partUnits t.addr t.data.length, mget? hiddenUnit.badUnits u = none ∨ mget? hiddenUnit.badUnits u = some 3 := by
  rw [hiddenUnit_storeBuf]
  intro t ht _
  have hp : t.addr = 10 ∨ t.addr = 6 := by
    rcases List.mem_cons.1 ht with rfl | ht
    · exact .inl rfl
    · exact .inr (by rw [List.mem_singleton.1 ht])
  refine ⟨⟨fun h => ?_, fun h => ?_⟩, ?_⟩
  · have := h.1
    simp only [Config.peerBase] at this
    omega
  · simp only [InAudit, Config.auditBase] at h
    omega
  · rcases List.mem_cons.1 ht with rfl | ht
    · decide
    · rw [List.mem_singleton.1 ht]
      decide

/-- The commit writes the number of the record to the error queue. -/
theorem hiddenUnit_reports : memRead hiddenUnit.committed.mem 0x1000 = 1 := by decide +kernel

theorem hiddenUnit_saw : seenByte hiddenUnit 0x1000 = 0 := by decide +kernel

end Machine
end Sys2Proof

open Sys2Proof Sys2Proof.Machine

/-- Refutes O7: with bad units listed out of order, the commit of two stores writes an error record that no load of the hart
saw. -/
theorem not_commits : ¬ Obligations.Commits := by
  rintro ⟨-, -, -, h, -⟩
  obtain ⟨h, -⟩ := h hiddenUnit rfl hiddenUnit_units
  have := h 0x1000
  rw [hiddenUnit_reports, hiddenUnit_saw] at this
  exact absurd this (by decide)
end

section
/-! CERTIFICATES. SENDT and RECVCHK (O12). -/

namespace Sys2Proof
namespace Machine

/-! ### What a commit leaves of cores and harts -/

/-- Of the cores only scratchpads changed. -/
def ScratchOnly (s t : State) : Prop := ∀ i, t.coreAt i = { s.coreAt i with scratch := (t.coreAt i).scratch }

theorem ScratchOnly.trans {s t u : State} (h : ScratchOnly s t) (g : ScratchOnly t u) : ScratchOnly s u := fun i => by
  rw [g i, h i]

theorem ScratchOnly.of_cores {s t : State} (h : t.cores = s.cores) : ScratchOnly s t := fun i => by
  simp only [State.coreAt, h]

theorem perform_scratchOnly (s : State) (t : StoreRec) : ScratchOnly s (s.perform t) := by
  unfold State.perform
  split
  · intro i
    rw [State.spWrite, coreAt_setCoreAt]
    split
    · next h => rw [h]
    · rfl
  · have h := homeWrite_frame s 0 s.hart.gang t.va t.addr t.data
    unfold HomeFrame at h
    exact .of_cores (by rw [h])

theorem committed_scratchOnly (s : State) : ScratchOnly s s.committed := by
  have h : ∀ (l : List StoreRec) (s : State), ScratchOnly s (l.foldl State.perform s) := by
    intro l
    induction l with
    | nil => exact fun s => .of_cores rfl
    | cons t l ih => exact fun s => (perform_scratchOnly s t).trans (ih _)
  exact (h s.regs.storeBuf s).trans (.of_cores rfl)

theorem committed_coreId (s : State) : s.committed.coreId = s.coreId := by rw [State.coreId, committed_cur]; rfl

theorem committed_dieId (s : State) : s.committed.dieId = s.dieId := by rw [State.dieId, committed_coreId]; rfl

theorem committed_request (s : State) (i : Nat) : (s.committed.coreAt i).request = (s.coreAt i).request := by
  rw [committed_scratchOnly s i]

theorem committed_holder (s : State) (i : Nat) : (s.committed.coreAt i).holder = (s.coreAt i).holder := by
  rw [committed_scratchOnly s i]

theorem committed_holds (s : State) : s.committed.holds = s.holds := by
  have h : s.committed.core.holder = s.core.holder := by
    rw [State.core, committed_coreId]
    exact committed_holder s _
  simp only [State.holds, h, committed_hart]

theorem committed_hartAt (s : State) {k : Nat} (h : k ≠ s.cur) : s.committed.hartAt k = s.hartAt k := by
  have h1 : s.committed.harts = s.harts := by rw [committed_frame]
  simp only [State.hartAt, committed_cur, if_neg h, h1]

theorem committed_live (s : State) (k : Nat) : (s.committed.hartAt k).live = (s.hartAt k).live := by
  by_cases h : k = s.cur
  · simp only [State.hartAt, committed_cur, h, if_true, committed_hart]
  · rw [committed_hartAt s h]

theorem committed_gang? (s : State) : s.committed.gang? = mget? s.gangs s.hart.gang := by
  have h : s.committed.gangs = s.gangs := by rw [committed_frame]
  simp only [State.gang?, h, committed_hart]

theorem committed_own_request (s : State) : s.committed.core.request = s.core.request := by
  rw [State.core, committed_coreId]
  exact committed_request s _

/-- An irreversible instruction that meets a cause after its commit whose strip is discarded. -/
theorem irreversible_restart {s : State} {f : State → Eff State} {t : Trap} (h : MayCommit s) (ht : Traps s)
    (hf : f s.committed = .error (.trap t)) (h1 : t.found = []) (hd : t.drawn = 0)
    (h2 : heldByLeader s.committed t = false) (h3 : causeRestarts t = true) :
    ∃ u, irreversible f s = .next u ∧ EntersTrap s.committed.discard u t true 0 s.regs.pc := by
  obtain ⟨u, h4, h5⟩ := takeTrap_restart ht.committed h.committed.2.1 h1 hd h2 (.inl h3)
  have hp : s.committed.hart.ckpt.pc = s.regs.pc := by rw [committed_hart]; rfl
  rw [hp] at h5
  refine ⟨u, ?_, h5⟩
  rw [← h4]
  simp only [irreversible, irreversibleThen, preCommit_ok h, hf, bind, Except.bind, stopped]

/-! ### SENDT -/

/-- The first row, the row count, the first row of the receiver and the member that the word of SENDT names (R219). -/
def sendSrc (r : XWord) : Nat := r.toNat % 2 ^ 15
def sendCount (r : XWord) : Nat := if r.toNat / 2 ^ 15 % 2 ^ 6 = 0 then 64 else r.toNat / 2 ^ 15 % 2 ^ 6
def sendDst (r : XWord) : Nat := r.toNat / 2 ^ 21 % 2 ^ 15
def sendMember (r : XWord) : Nat := r.toNat / 2 ^ 36 % 2 ^ 12

theorem sendSrc_lt (r : XWord) : sendSrc r < 2 ^ 15 := Nat.mod_lt _ (by decide)

/-- The transfer that SENDT of the word `r`, at the slot time `at_`, puts under way (R45, R220). -/
def sendTransfer (s : State) (g : Gang) (r at_ : XWord) : Transfer :=
  let key := mgetD g.members (sendMember r) 0
  { slot := at_, stamp := BitVec.ofNat 16 (r.toNat / 2 ^ 48), gang := s.hart.gang, member := sendMember r, hart := key, core := key / 8
    dst := sendDst r, rows := rowsOf s.core.scratch (sendSrc r) (sendCount r)
    due := if s.gtime + (if key / 8 / Config.coresPerDie = s.dieId then 160 else 320) ≤ at_.toNat then some at_.toNat else none }

/-- The effect of SENDT, on the committed machine. -/
def sendtEffect (a b : BitVec 5) (s : State) : Eff State :=
  match s.gang? with
  | none => illegal s
  | some g => do
    illegalWhen s (decide (g.size ≤ sendMember (s.x a)))
    spRange s false (xword (64 * sendSrc (s.x a))) (64 * sendCount (s.x a)) 1
    let key := mgetD g.members (sendMember (s.x a)) 0
    let to_ := s.hartAt key
    let k := s.coreAt (key / 8)
    if to_.gang = s.hart.gang ∧ to_.memberIdx = sendMember (s.x a) ∧ to_.live = .stopped then .error (.wait .receiver)
    else if k.holder.isNone then protFault (xword (64 * sendDst (s.x a))) true true
    else if k.request < 64 * (sendDst (s.x a) + sendCount (s.x a)) then
      protFault (xword (max (64 * sendDst (s.x a)) k.request)) true true
    else .ok { s with transfers := s.transfers ++ [sendTransfer s g (s.x a) (s.x b)] }

theorem exec_sendt_effect (a b : BitVec 5) (s : State) : exec (.sendt a b) s = irreversible (sendtEffect a b) s := by
  rw [exec_sendt, execSendt]
  congr 1
  funext s
  have h0 : xbits (s.x a) 0 15 = sendSrc (s.x a) := by simp [xbits, bitsAt, sendSrc]
  have h48 : BitVec.ofNat 16 (xbits (s.x a) 48 16) = BitVec.ofNat 16 ((s.x a).toNat / 2 ^ 48) := by
    apply BitVec.eq_of_toNat_eq
    simp [xbits, bitsAt]
  simp only [h0, h48, sendtEffect]
  rfl

/-- A range of whole rows of the hart's own scratchpad is refused at its first byte that is not allowed (R387). -/
theorem spRange_rows {s : State} {src count : Nat} (hs : src < 2 ^ 15) (hh : s.holds = true) :
    spRange s false (xword (64 * src)) (64 * count) 1 =
      if s.core.request < 64 * (src + count) then protFault (xword (max (64 * src) s.core.request)) true false else .ok () := by
  have hn : (xword (64 * src)).toNat = 64 * src := Nat.mod_eq_of_lt (by omega)
  have hx : xbits (xword (64 * src)) 21 43 = 0 := by
    rw [xbits, hn, bitsAt]
    omega
  have ha : alignedTo (xword (64 * src)) 1 = true := by simp [alignedTo, Nat.mod_one]
  simp only [spRange, hx, ha, hh, hn, Nat.mul_add]
  rfl

/-- SENDT of a member of the gang, by a hart whose gang holds its core's local stores. -/
theorem sendtEffect_member {a b : BitVec 5} {s : State} {g : Gang} (hg : s.gang? = some g) (hm : sendMember (s.x a) < g.size)
    (hh : s.holds = true) :
    let r := s.x a
    let key := mgetD g.members (sendMember r) 0
    let to_ := s.hartAt key
    let k := s.coreAt (key / 8)
    sendtEffect a b s =
      if s.core.request < 64 * (sendSrc r + sendCount r) then protFault (xword (max (64 * sendSrc r) s.core.request)) true false
      else if to_.gang = s.hart.gang ∧ to_.memberIdx = sendMember r ∧ to_.live = .stopped then .error (.wait .receiver)
      else if k.holder = none then protFault (xword (64 * sendDst r)) true true
      else if k.request < 64 * (sendDst r + sendCount r) then protFault (xword (max (64 * sendDst r) k.request)) true true
      else .ok { s with transfers := s.transfers ++ [sendTransfer s g r (s.x b)] } := by
  intro r key to_ k
  simp only [sendtEffect, hg, spRange_rows (sendSrc_lt _) hh, show decide (g.size ≤ sendMember (s.x a)) = false by simpa using hm,
    Option.isNone_iff_eq_none]
  by_cases h : s.core.request < 64 * (sendSrc (s.x a) + sendCount (s.x a))
  · simp only [r, if_pos h]
    rfl
  · simp only [r, if_neg h]
    rfl

theorem sendtEffect_illegal {a b : BitVec 5} {s : State} {g : Gang} (hg : s.gang? = some g) (hm : g.size ≤ sendMember (s.x a)) :
    sendtEffect a b s = illegal s := by
  simp only [sendtEffect, hg, show decide (g.size ≤ sendMember (s.x a)) = true by simpa using hm]
  rfl

/-- `sendtEffect_member` of the committed machine, in terms of the machine before: a commit changes scratchpads alone of the
cores. -/
theorem sendtEffect_committed {a b : BitVec 5} {s : State} {g : Gang} (hg : mget? s.gangs s.hart.gang = some g)
    (hm : sendMember (s.x a) < g.size) (hh : s.holds = true) :
    let c := s.committed
    let r := s.x a
    let key := mgetD g.members (sendMember r) 0
    let to_ := c.hartAt key
    let k := s.coreAt (key / 8)
    sendtEffect a b c =
      if s.core.request < 64 * (sendSrc r + sendCount r) then protFault (xword (max (64 * sendSrc r) s.core.request)) true false
      else if to_.gang = s.hart.gang ∧ to_.memberIdx = sendMember r ∧ to_.live = .stopped then .error (.wait .receiver)
      else if k.holder = none then protFault (xword (64 * sendDst r)) true true
      else if k.request < 64 * (sendDst r + sendCount r) then protFault (xword (max (64 * sendDst r) k.request)) true true
      else .ok { c with transfers := c.transfers ++ [sendTransfer c g r (s.x b)] } := by
  intro c r key to_ k
  have hx := committed_x s
  have hg' : c.gang? = some g := (committed_gang? s).trans hg
  have hc : c.hart.gang = s.hart.gang := by rw [committed_hart]
  have := sendtEffect_member (b := b) hg' (by rw [hx]; exact hm) ((committed_holds s).trans hh)
  simpa only [hx, hc, c, committed_request, committed_holder, committed_own_request] using this

/-! ### RECVCHK -/

/-- The effect of RECVCHK, on the committed machine. -/
def recvchkEffect (d a : BitVec 5) (s : State) : Eff State :=
  let t := s.x a
  let r := s.hart.arrivals.find? (fun r => r.slot == t)
  match r with
  | some x =>
    if x.stamp = s.hart.stampx then
      .ok ((s.setHart { s.hart with arrivals := s.hart.arrivals.filter (fun y => y.slot != t) }).setX d (xword x.count))
    else .error (.trap { code := cSTAMP, tv := stampWord r t })
  | none => .error (.trap { code := cSTAMP, tv := stampWord r t })

theorem recvchkEffect_match {d a : BitVec 5} {s : State} {r : Arrival} (hf : s.hart.arrivals.find? (fun r => r.slot == s.x a) = some r)
    (hs : r.stamp = s.hart.stampx) :
    recvchkEffect d a s =
      .ok ((s.setHart { s.hart with arrivals := s.hart.arrivals.filter (fun y => y.slot != s.x a) }).setX d (xword r.count)) := by
  simp only [recvchkEffect, hf, if_pos hs]

/-- The word of STAMP names the stamp found, or 2^16, and the slot (R395). -/
theorem recvchkEffect_stamp {d a : BitVec 5} {s : State} {v : Nat}
    (hv : (s.hart.arrivals.find? (fun r => r.slot == s.x a) = none ∧ v = 2 ^ 16) ∨
      ∃ r, s.hart.arrivals.find? (fun r => r.slot == s.x a) = some r ∧ r.stamp ≠ s.hart.stampx ∧ v = r.stamp.toNat) :
    recvchkEffect d a s = .error (.trap { code := 0x0A, tv := xword (v + 2 ^ 32 * ((s.x a).toNat % 2 ^ 32)) }) := by
  have hw : xbits (s.x a) 0 32 = (s.x a).toNat % 2 ^ 32 := by simp [xbits, bitsAt]
  rcases hv with ⟨h1, rfl⟩ | ⟨r, h1, h2, rfl⟩
  · simp only [recvchkEffect, h1, stampWord, hw]
    rfl
  · simp only [recvchkEffect, h1, if_neg h2, stampWord, hw]
    rfl

theorem exec_recvchk_effect (d a : BitVec 5) (s : State) : exec (.recvchk d a) s = irreversible (recvchkEffect d a) s := rfl

end Machine
end Sys2Proof

open Sys2Proof Sys2Proof.Machine

/-- Settles O12: SENDT by the order of its checks on the committed machine, RECVCHK by the record that it finds. -/
theorem rowTransfers : Obligations.RowTransfers := by
  refine ⟨fun s a b g h hg => ?_, fun s d a h => ?_⟩
  · intro r src count dst mem key dest to_ c
    rw [exec_sendt_effect]
    refine ⟨fun hm ht => ?_, fun ht hm hh => ⟨fun h1 => ?_, fun h1 hl hd h2 => ?_⟩, fun hm hh h1 hk hg' hi hl => ?_, fun hm hh h1 hl h2 hd => ?_⟩
    · have e : sendtEffect a b c = illegal c := sendtEffect_illegal ((committed_gang? s).trans hg) (by rw [committed_x]; exact hm)
      have hp : c.regs.pc = s.regs.pc := committed_pc s
      refine irreversible_precise h ht (e.trans ?_) rfl rfl (heldByLeader_other (show 0x01 ≠ cXLAT by decide)) rfl
      rw [illegal, hp]
      rfl
    · have e : sendtEffect a b c = protFault (xword (max (64 * src) s.core.request)) true false :=
        (sendtEffect_committed hg hm hh).trans (if_pos h1)
      exact irreversible_restart h ht e rfl rfl (heldByLeader_other (show 0x08 ≠ cXLAT by decide)) rfl
    · have e : sendtEffect a b c = protFault (xword (max (64 * dst) dest.request)) true true :=
        (sendtEffect_committed hg hm hh).trans <| (if_neg (Nat.not_lt.2 h1)).trans <|
          (if_neg (fun q => hl ((committed_live s key).symm.trans q.2.2))).trans <| (if_neg hd).trans (if_pos h2)
      exact irreversible_restart h ht e rfl rfl (heldByLeader_other (show 0x08 ≠ cXLAT by decide)) rfl
    · have hk' : c.hartAt key = to_ := committed_hartAt s hk
      have e : sendtEffect a b c = .error (.wait .receiver) :=
        (sendtEffect_committed hg hm hh).trans <| (if_neg (Nat.not_lt.2 h1)).trans <| if_pos (hk'.symm ▸ ⟨hg', hi, hl⟩)
      exact irreversible_waits (c := c) h e
    · have e : sendtEffect a b c = .ok { c with transfers := c.transfers ++ [sendTransfer c g (s.x a) (s.x b)] } :=
        (sendtEffect_committed hg hm hh).trans <| (if_neg (Nat.not_lt.2 h1)).trans <|
          (if_neg (fun q => hl ((committed_live s key).symm.trans q.2.2))).trans <| (if_neg hd).trans (if_neg (Nat.not_lt.2 h2))
      intro t
      have et : sendTransfer c g (s.x a) (s.x b) = t := by
        have h1 : c.hart.gang = s.hart.gang := by rw [committed_hart]
        simp only [sendTransfer, h1, c, committed_gtime, committed_dieId]
        rfl
      rw [et] at e
      exact irreversible_setsIn (c := { c with transfers := c.transfers ++ [t] }) (d := 0) (v := 0) h e
        (committed_tl h) (committed_early s) (committed_buf s)
  · intro c found
    have hr : c.hart.arrivals = s.hart.arrivals ∧ c.hart.stampx = s.hart.stampx := by rw [committed_hart]; exact ⟨rfl, rfl⟩
    have hf : c.hart.arrivals.find? (fun r => r.slot == c.x a) = found := by rw [hr.1, committed_x]
    rw [exec_recvchk_effect]
    refine ⟨fun r h1 h2 => ?_, fun ht v hv => ?_⟩
    · have e := recvchkEffect_match (d := d) (hf.trans h1) (h2.trans hr.2.symm)
      rw [hr.1, committed_x] at e
      exact irreversible_setsIn h e (committed_tl h) (committed_early s) (committed_buf s)
    · rw [← hf, ← hr.2] at hv
      have e := recvchkEffect_stamp (d := d) hv
      rw [committed_x] at e
      exact irreversible_precise h ht e rfl rfl (heldByLeader_other (show 0x0A ≠ cXLAT by decide)) rfl
end

section
/-! CERTIFICATES. Lane holding times, lane grants and budgets (O45). -/

namespace Sys2Proof
namespace Machine

/-! ### The boundary of an implicit checkpoint -/

theorem eventStep_some {name : String} {r : Option State} {s : State} (h : r = some s) : eventStep name r = .next s := by
  rw [h]
  rfl

/-- A boundary at a prefix changes registers, and uses up a free value. -/
theorem latchPrefix_frame (s : State) :
    latchPrefix s = { s with free := (latchPrefix s).free, hart := { s.hart with regs := (latchPrefix s).regs } } := by
  unfold latchPrefix
  dsimp only
  split
  · split
    · rfl
    · split <;> rfl
  · rfl

theorem fld_setWidth (w : Word) (n : Nat) : fld w 0 n = w.setWidth n := by
  apply BitVec.eq_of_toNat_eq
  rw [fld, BitVec.extractLsb'_toNat, BitVec.toNat_setWidth, Nat.shiftRight_zero]

theorem latchPrefix_prefix {s : State} {i : Instr} {w : Word} (h : instrAt s s.regs.pc = some (i, w)) (hi : i.isPfx = true)
    (hv : s.regs.pfxValid = false) : latchPrefix s = if Config.happens s.free
      then s.draw.setRegs { s.regs with pc := s.regs.pc + 4, pfxFields := w.setWidth 25, pfxValid := true } else s.draw := by
  simp only [latchPrefix, h, hi, hv, Bool.not_true, Bool.or_self, Bool.false_eq_true, if_false, fld_setWidth]
  rfl

theorem latchPrefix_none {s : State} (h : ∀ i w, instrAt s s.regs.pc = some (i, w) → i.isPfx = false ∨ s.regs.pfxValid = true) :
    latchPrefix s = s := by
  unfold latchPrefix
  dsimp only
  split
  · next i w e =>
    rw [if_pos]
    rcases h i w e with h | h
    · simp [h]
    · rw [h, Bool.or_true]
  · rfl

theorem settle_cur (s : State) : s.settle.cur = s.cur := by
  have h := performAll_frame s
  have : s.performAll.cur = s.cur := by rw [h]
  simpa [State.settle] using this

/-- The state of a hart's implicit checkpoint, at trap level 0 before or after a prefix. -/
def boundary (s : State) : State :=
  if s.settle.hart.tl = 0 then (latchPrefix s.settle).openStrip (latchPrefix s.settle).regs.pc else s.settle

theorem boundary_same (s : State) : (boundary s).cur = s.cur ∧ (boundary s).gtime = s.gtime := by
  unfold boundary
  split
  · have h := latchPrefix_frame s.settle
    constructor
    · rw [← settle_cur s]
      change (latchPrefix s.settle).cur = _
      rw [h]
    · rw [← settle_gtime s]
      change (latchPrefix s.settle).gtime = _
      rw [h]
  · exact ⟨settle_cur s, settle_gtime s⟩

/-! ### Holding times -/

/-- The lanes of the hart at a key are due where those of the hart that would execute there are. -/
theorem lanesDue_focus {s : State} {h : Nat} (ht : (s.focus h).hart.timed = false)
    (hl : lanesHeld (s.coreAt (h / 8)) (h % 8) ≠ 0)
    (hw : let mates := (s.coreAt (h / 8)).laneWait.map (fun w => s.hartAt (8 * (h / 8) + w.1))
      (∃ w ∈ mates, w.timed = true) ∨
        (s.focus h).hart.laneSince + 4096 ≤ s.gtime ∧ ∃ w ∈ mates, (s.focus h).hart.cls.toNat ≤ w.cls.toNat) :
    lanesDue s h = true := by
  have hh : (s.hartAt h).timed = false ∧ (s.hartAt h).laneSince ≤ (s.focus h).hart.laneSince ∧
      (s.hartAt h).cls.toNat ≤ (s.focus h).hart.cls.toNat := by
    rcases focus_hart s h with e | e
    · rw [← e]
      exact ⟨ht, Nat.le_refl _, Nat.le_refl _⟩
    · rw [e]
      exact ⟨rfl, Nat.zero_le _, Nat.zero_le _⟩
  obtain ⟨h1, h2, h3⟩ := hh
  simp only [lanesDue, h1, Bool.not_false, Bool.true_and, Bool.and_eq_true, bne_iff_ne, ne_eq, hl, not_false_eq_true, true_and,
    Bool.or_eq_true, List.any_eq_true, decide_eq_true_eq]
  rcases hw with hw | ⟨h4, w, hw, h5⟩
  · exact .inr hw
  · exact .inl ⟨by omega, w, hw, by omega⟩

/-- The core of a hart whose lanes have been taken back, which waits for them since `now`. -/
def lanesLeft (k : Core) (slot now : Nat) : Core := joinLaneWait (dropLanes k slot) slot now

theorem laneHoldExpiry_answers {s : State} {h : Nat} (h1 : (s.focus h).hart.live = .running) (h2 : (s.focus h).hart.wait = none)
    (h3 : (s.focus h).hart.undo = none) (h4 : queuesEmpty (s.focus h).regs = true) (h5 : commitWait (s.focus h) = none)
    (h6 : lanesDue s h = true) :
    let c := boundary (s.focus h)
    exec (.laneHoldExpiry h) s = .next (((c.setCoreAt (h / 8) (lanesLeft (c.coreAt (h / 8)) (h % 8) s.gtime)).setHart
      { c.hart with wait := some .lanesClaim }).focus s.cur) := by
  intro c
  obtain ⟨hc, hg⟩ := boundary_same (s.focus h)
  have e : exec (.laneHoldExpiry h) s = .next (((c.setCore (lanesLeft c.core c.slotId c.gtime)).setHart
      { c.hart with wait := some .lanesClaim }).focus s.cur) := by
    refine eventStep_some ?_
    simp only [h1, isWaiting, h2, h3, h4, h5, h6]
    rfl
  rw [e, State.setCore, State.core, State.coreId, State.slotId, hc, hg, focus_cur, focus_gtime]

/-! ### Grants -/

theorem laneGrant_answers {s : State} {core slot n : Nat} (h : laneNext s core = some (slot, n)) :
    exec (.laneGrant core) s = .next ((s.setCoreAt core (giveLanes (s.coreAt core) slot n)).setHartAt (8 * core + slot)
      { s.hartAt (8 * core + slot) with wait := none, laneSince := s.gtime, readySince := readyAt s.gtime }) := by
  refine eventStep_some ?_
  rw [h]
  rfl

/-- The one of two candidates that comes first in an order: the one before stays where neither does. -/
def keepFirst {α : Type} (lt : α → α → Prop) [DecidableRel lt] (b : Option α) (w : α) : Option α :=
  match b with
  | none => some w
  | some x => if lt w x then some w else some x

theorem keepFirst_mem {α : Type} (lt : α → α → Prop) [DecidableRel lt] (l : List α) (b : Option α) :
    l.foldl (keepFirst lt) b = b ∨ ∃ x ∈ l, l.foldl (keepFirst lt) b = some x := by
  induction l generalizing b with
  | nil => exact .inl rfl
  | cons w l ih =>
    have hb : keepFirst lt b w = b ∨ keepFirst lt b w = some w := by
      unfold keepFirst
      split
      · exact .inr rfl
      · split
        · exact .inr rfl
        · exact .inl rfl
    rcases ih (keepFirst lt b w) with h | ⟨x, hx, h⟩
    · rcases hb with hb | hb
      · exact .inl (h.trans hb)
      · exact .inr ⟨w, .head _, h.trans hb⟩
    · exact .inr ⟨x, .tail _ hx, h⟩

/-- A candidate that comes before all those listed earlier, and after none of those listed later, is the first. -/
theorem keepFirst_first {α : Type} {lt : α → α → Prop} [DecidableRel lt] {pre post : List α} {w : α}
    (h1 : ∀ x ∈ pre, lt w x) (h2 : ∀ x ∈ post, ¬lt x w) : (pre ++ w :: post).foldl (keepFirst lt) none = some w := by
  have hp : keepFirst lt (pre.foldl (keepFirst lt) none) w = some w := by
    rcases keepFirst_mem lt pre none with h | ⟨x, hx, h⟩
    · rw [h]; rfl
    · rw [h]; exact if_pos (h1 x hx)
  rw [List.foldl_append, List.foldl_cons, hp]
  clear h1 hp
  induction post with
  | nil => rfl
  | cons x l ih =>
    have hx : keepFirst lt (some w) x = some w := if_neg (h2 x (.head _))
    rw [List.foldl_cons, hx]
    exact ih fun y hy => h2 y (.tail _ hy)

/-- R24's order of waiting harts, the slot served last being `last`. -/
abbrev laneBefore (last : Nat) (w x : Nat × Nat) : Prop := w.2 < x.2 ∨ (w.2 = x.2 ∧ laneRank last w.1 < laneRank last x.1)

/-- The earlier of two waiting harts, as `laneNext` compares them. -/
def laneEarlier (last : Nat) (b : Option (Nat × Nat)) (w : Nat × Nat) : Option (Nat × Nat) :=
  match b with
  | none => some w
  | some x => if w.2 < x.2 ∨ (w.2 = x.2 ∧ laneRank last w.1 < laneRank last x.1) then some w else some x

theorem laneEarlier_eq (last : Nat) : laneEarlier last = keepFirst (laneBefore last) := by
  funext b w
  cases b <;> rfl

theorem laneNext_timed {s : State} {core : Nat} {pre post : List (Nat × Nat)} {w : Nat × Nat}
    (hk : (s.coreAt core).laneWait = pre ++ w :: post) (hp : ∀ x ∈ pre, (s.hartAt (8 * core + x.1)).timed = false)
    (hw : (s.hartAt (8 * core + w.1)).timed = true)
    (hn : (s.hartAt (8 * core + w.1)).laneReq - lanesHeld (s.coreAt core) w.1 ≤ lanesFree (s.coreAt core)) :
    laneNext s core = some (w.1, (s.hartAt (8 * core + w.1)).laneReq - lanesHeld (s.coreAt core) w.1) := by
  have hf : (s.coreAt core).laneWait.find? (fun w => (s.hartAt (8 * core + w.1)).timed) = some w := by
    rw [hk, List.find?_eq_some_iff_append]
    exact ⟨hw, pre, post, rfl, fun x hx => by simp [hp x hx]⟩
  simp only [laneNext, hf, if_pos hn]

theorem laneNext_untimed {s : State} {core : Nat} {pre post : List (Nat × Nat)} {w : Nat × Nat}
    (hk : (s.coreAt core).laneWait = pre ++ w :: post)
    (hp : ∀ x ∈ (s.coreAt core).laneWait, (s.hartAt (8 * core + x.1)).timed = false) (hf : lanesFree (s.coreAt core) ≠ 0)
    (h1 : ∀ x ∈ pre, w.2 < x.2 ∨ w.2 = x.2 ∧ laneRank (s.coreAt core).laneLast w.1 < laneRank (s.coreAt core).laneLast x.1)
    (h2 : ∀ x ∈ post, w.2 < x.2 ∨ w.2 = x.2 ∧ laneRank (s.coreAt core).laneLast w.1 ≤ laneRank (s.coreAt core).laneLast x.1) :
    laneNext s core = some (w.1, (s.hartAt (8 * core + w.1)).laneReq) := by
  have hn : (s.coreAt core).laneWait.find? (fun w => (s.hartAt (8 * core + w.1)).timed) = none := by
    rw [List.find?_eq_none]
    exact fun x hx => by simp [hp x hx]
  have hb : (s.coreAt core).laneWait.foldl (laneEarlier (s.coreAt core).laneLast) none = some w := by
    rw [hk, laneEarlier_eq]
    exact keepFirst_first h1 fun x hx => by have := h2 x hx; omega
  unfold laneNext
  simp only [hn]
  change (match (s.coreAt core).laneWait.foldl (laneEarlier (s.coreAt core).laneLast) none with
    | none => none
    | some w => if lanesFree (s.coreAt core) = 0 then none else some (w.1, (s.hartAt (8 * core + w.1)).laneReq)) = _
  rw [hb]
  exact if_neg hf

end Machine
end Sys2Proof

open Sys2Proof Sys2Proof.Machine

/-- Settles O45: the holding time by the boundary it comes to, the grants by R24's order, BUDGET as a cause that restarts. -/
theorem lanePoints : Obligations.LanePoints := by
  intro s h core f mates
  refine ⟨fun h1 h2 h3 h4 h5 h6 h7 h8 => ?_, fun u => ⟨fun i w hn hi hv => latchPrefix_prefix hn hi hv, latchPrefix_none⟩, ?_, ?_,
    fun ht hc hb hd => ?_⟩
  · intro m c k left
    have hb : boundary f = c := by
      have htl : f.settle.hart.tl = f.hart.tl := by rw [settle_hart]
      by_cases h0 : f.hart.tl = 0
      · simp only [boundary, htl, h0, if_true, c, m]
      · simp only [boundary, htl, h0, if_false, c, m]
    have e := laneHoldExpiry_answers h1 h2 h3 h5 h6 (lanesDue_focus h4 h7 h8)
    rw [show boundary (s.focus h) = c from hb] at e
    exact e
  · intro pre w post k hart rank granted hk
    exact ⟨fun h1 h2 h3 => laneGrant_answers (laneNext_timed hk h1 h2 h3),
      fun h1 h2 h3 h4 => laneGrant_answers (laneNext_untimed hk h1 h2 h3 h4)⟩
  · intro k slot n q
    exact ⟨lanesHeld_giveLanes k slot n, lanesFree_giveLanes k slot n, rfl, fun j hj => lanesHeld_giveLanes_other k n hj, rfl⟩
  · have hd' : budgetDue s = true := by
      simp only [budgetDue, ht.2.1, hc.1, hd, decide_true, Option.isNone_none, Bool.true_and, Bool.and_true, decide_eq_true_eq]
      exact hb
    obtain ⟨t, e, ht'⟩ := takeTrap_restart (tr := { code := cBUDGET, tv := s.hart.cyb.setWidth 64 }) ht hc rfl rfl
      (heldByLeader_other (show cBUDGET ≠ cXLAT by decide)) (.inl rfl)
    exact ⟨t, by rw [← e, exec_budget, execBudget, if_pos hd'], ht'⟩
end

section
/-! CERTIFICATES. What one step runs for each turn of the agenda (O55). -/

namespace Sys2Proof
namespace Machine

/-! ### A sequencer's word -/

/-- What a sequencer does with a word is what the instruction that the word decodes to does (R293, R294). -/
theorem brixemMeaning_decoded {w : Word} {i : Instr} (h : decodeBrixem w = .ok i) (s : State) : brixemMeaning w s = exec i s := by
  have hr : rawBrixem w = some i := by
    unfold decodeBrixem at h
    split at h
    · cases h
    · next j hj =>
      split at h
      · cases h
      · split at h
        · cases h; exact hj
        · cases h
  unfold rawBrixem at hr
  unfold brixemMeaning
  generalize hop : (fld w 27 5 : BitVec 5).toNat = op at hr ⊢
  split at hr
  case h_17 =>
    split at hr
    · next hi =>
      cases hr
      exact if_pos (BitVec.eq_of_toNat_eq hi)
    · next hi =>
      cases hr
      exact if_neg (fun e => by rw [e] at hi; cases hi)
    · cases hr
  case h_20 => cases hr
  all_goals cases hr; rfl

theorem bankTurn_runs {s : State} {p : Nat} {run : Run} {h : Handler} {w : Word} {i : Instr} (hr : (s.chanAt p).run = some run)
    (hh : mget? (s.chanAt p).handlers run.slot = some h) (hs : (s.chanAt p).switching = none) (hw : h.words[run.pcw]? = some w)
    (hd : decodeBrixem w = .ok i) : bankTurn p s = exec i { s with bank := p } := by
  have hc : State.chanAt { s with bank := p } p = s.chanAt p := rfl
  simp only [bankTurn, hc, hr, hh, hs, hw, brixemMeaning_decoded hd]
  rfl

/-! ### A hart's word -/

/-- What a fetch gives: the word at the address that the access finds, in the state that the access leaves. -/
def Fetches (s : State) (va : XWord) (w : Word) (t : State) : Prop :=
  ∃ pa, access s .fetch va 4 0 = .ok (pa, t) ∧ poisonCheck (t.setRegs { t.regs with storeBuf := [] }) .fetch va pa 4 0 = .ok () ∧
    w = fetchedWord t pa

theorem Fetches.fetchWord {s t : State} {va : XWord} {w : Word} (h : Fetches s va w t) : fetchWord s va = .ok (w, t) := by
  obtain ⟨pa, h1, h2, rfl⟩ := h
  simp only [Machine.fetchWord, h1, bind, Except.bind, h2]
  rfl

/-- A fetch leaves the hart and the cores as they are. -/
theorem Fetches.same {s t : State} {va : XWord} {w : Word} (h : Fetches s va w t) :
    t.hart = s.hart ∧ t.cores = s.cores ∧ t.cur = s.cur := by
  obtain ⟨pa, h1, -⟩ := h
  obtain ⟨-, hf⟩ := access_frame h1
  rw [hf]
  exact ⟨rfl, rfl, rfl⟩

/-- A word that decodes to an instruction which neither joins the next word's convoy nor needs one to stand in. -/
def Alone (w : Word) (i : Instr) : Prop :=
  decodeWord w = .ok i ∧ i.isPfx = false ∧ i.kbit = false ∧ namesCv w = false ∧ isVscore i = false ∧ isVexpm i = false ∧
    isVaccv i = false

theorem decodeMember_ok {w : Word} {i : Instr} (h : decodeWord w = .ok i) : decodeMember w = .ok (i, false) := by
  simp only [decodeMember, h]

/-- A convoy that ends at its first member, whose prefix is `p`. -/
theorem gatherConvoy_last {n : Nat} {a : XWord} {p : Pfx} {g : Gathered} {w : Word} {i : Instr} {t : State}
    (hf : Fetches g.s a w t) (hw : Alone w i) (hp : p.present = true → (vecUse (groupFactor t.regs) i).isSome = true)
    (hc : memberCauses t i a p = []) :
    gatherConvoy (n + 1) a p g = { g with
      s := t, words := g.words ++ [i]
      members := g.members ++ [{ addr := a, word := w, instr := i, breaks := false, pfx := p }] } := by
  obtain ⟨h1, h2, h3, -⟩ := hw
  have hi : memberIllegal t i a p = none := by
    have h0 : (p.present && (vecUse (groupFactor t.regs) i).isNone) = false := by
      cases hb : p.present with
      | false => rfl
      | true => simpa using hp hb
    simp only [memberIllegal, h0, hc]
    rfl
  simp only [gatherConvoy, hf.fetchWord, decodeMember_ok h1, h2, hi, h3]
  rfl

theorem gatherConvoy_prefix {n : Nat} {a : XWord} {g : Gathered} {w : Word} {i : Instr} {t : State}
    (hf : Fetches g.s a w t) (hw : decodeWord w = .ok i) (hi : i.isPfx = true) :
    gatherConvoy (n + 1) a .absent g =
      gatherConvoy n (a + 4) (.ofFields (w.setWidth 25) a) { g with s := t, words := g.words ++ [i] } := by
  simp only [gatherConvoy, hf.fetchWord, decodeMember_ok hw, hi, fld_setWidth]
  rfl

/-- A lone member with no decode-time cause breaks no composition (R34, R35, R332). -/
theorem composition_alone {m : Member} (hw : Alone m.word m.instr) (hb : m.breaks = false) : composition false [] [m] = none := by
  obtain ⟨-, -, -, h1, h2, h3, h4⟩ := hw
  have hc : breaksChain false [] m.instr [] = false := by
    generalize m.instr = i at *
    cases i
    case vscore => cases h2
    case vexpm => cases h3
    case vaccv => cases h4
    all_goals simp [breaksChain]
  simp [composition, breaksConvoy, hb, h1, hc]

theorem causeOf_alone {s : State} {m : Member} (h : memberCauses s m.instr m.addr m.pfx = []) (n : Nat) : causeOf s n [m] = none := by
  simp [causeOf, h]

/-- A convoy of one member goes on where the hart's context owns what the member needs. -/
theorem convoyStop_alone {s : State} {words : List Instr} {m : Member} (hw : Alone m.word m.instr) (hb : m.breaks = false)
    (hc : memberCauses s m.instr m.addr m.pfx = []) (ho : ownsFile s = true ∨ ownerChecked m.instr = false) :
    convoyStop { s := s, words := words, members := [m], illegal := none, stop := none } = none := by
  have h : (!ownsFile s && [m].any (fun m => ownerChecked m.instr)) = false := by
    rcases ho with h | h <;> simp [h]
  simp only [convoyStop, Option.isSome_none, composition_alone hw hb, causeOf_alone hc, h]
  rfl

theorem runMembers_one (i : Instr) (s : State) : runMembers [i] s = exec i s := by
  simp only [runMembers]
  split
  · next t h =>
    rw [h]
    split <;> rfl
  · rfl

/-- A prefix that has executed is followed by its successor. -/
theorem runMembers_two {p i : Instr} {s t : State} (h : exec p s = .next t) (hu : t.hart.undo ≠ none) :
    runMembers [p, i] s = exec i t := by
  have hs : t.hart.undo.isSome = true := Option.isSome_iff_ne_none.2 hu
  rw [runMembers, h]
  simp only [hs, if_true, runMembers_one]

theorem convoyTurn_runs {s t : State} {words : List Instr} {m : Member}
    (hg : convoyAt s = { s := t, words := words, members := [m], illegal := none, stop := none }) (hw : Alone m.word m.instr)
    (hb : m.breaks = false) (hc : memberCauses t m.instr m.addr m.pfx = []) (ho : ownsFile t = true ∨ ownerChecked m.instr = false) :
    convoyTurn s = runMembers words t := by
  simp only [convoyTurn, hg, convoyStop_alone hw hb hc ho]

/-! ### A hart's turn -/

theorem hartTurn_runs {s : State} {k : Nat} (hm : mayExecute (s.focus k) = true) (hw : (s.focus k).hart.wait = none)
    (hb : budgetDue (s.focus k) = false) :
    hartTurn k s = convoyTurn ((s.focus k).setHart { (s.focus k).hart with issueAt := none }) := by
  simp only [hartTurn, hm, hw, hb]
  rfl

/-- A hart that waits at a bank is passed over until its turn there (R290). -/
theorem hartTurn_bank {s : State} {k p t : Nat} (hw : (s.focus k).hart.wait = some (.bankMode p t))
    (hb : bankTurnOf (s.focus k) k p t = false) : hartTurn k s = .next s := by
  simp only [hartTurn, hw, hb]
  split <;> rfl

theorem mayExecute_iff (s : State) : mayExecute s = true ↔ s.hart.live = .running ∧
    if s.hart.steward then Config.stewardBase ≤ s.cur ∧ s.cur < Config.stewardBase + 4
      else s.core.serves = some s.hart.ctx ∧ s.core.moving = none ∧ s.core.retired = false := by
  have h4 : Config.stewards = 4 := rfl
  cases h : s.hart.steward <;>
    simp [mayExecute, h, stewardKey, h4, and_assoc]

end Machine
end Sys2Proof

open Sys2Proof Sys2Proof.Machine

/-- Settles O55, turn by turn; a hart's by the convoy of one word, of a prefix and its successor, and of one word under a latched
prefix. -/
theorem stepRunsDecoded : Obligations.StepRunsDecoded := by
  intro s rest r
  have hs : ∀ t, s.agenda = t :: rest → step s = takeTurn t r := fun t h => by simp only [step, h]; rfl
  refine ⟨fun h => ?_, fun e h hn => ?_, fun e n h hn => ?_, fun agent gang unit va h => hs _ h,
    fun p run h w i ha hr hh hsw hw hd => ?_, fun k ha => ?_⟩
  · simp only [step, h]
  · rw [hs _ h, takeTurn, ifEnabled]
    exact hn
  · rw [hs _ h, takeTurn, hn]
    rfl
  · rw [hs _ ha]
    exact bankTurn_runs (s := r) hr hh hsw hw hd
  · intro f h g fetched alone owns
    refine ⟨fun p t hw hb => (hs _ ha).trans (hartTurn_bank hw hb), fun hl hx hw hb => ?_⟩
    have hrun : step s = convoyTurn g := by
      refine (hs _ ha).trans (hartTurn_runs ?_ hw ?_)
      · rw [mayExecute_iff, focus_cur]
        exact ⟨hl, hx⟩
      · have hu : ¬(h.tl = 0 ∧ h.cyb ≠ 0 ∧ h.stripOpened + h.cyb.toNat ≤ f.gtime) := by
          rw [focus_gtime]
          rintro ⟨h1, h2, h3⟩
          rcases hb with hb | hb | hb
          · exact hb h1
          · exact h2 hb
          · exact absurd hb (Nat.not_lt.2 h3)
        rw [Bool.eq_false_iff]
        intro hd
        simp only [budgetDue, Bool.and_eq_true, decide_eq_true_eq] at hd
        exact hu ⟨hd.1.1.1, hd.1.1.2, hd.2⟩
    have hown : ∀ {t : State} {i : Instr}, t.hart = g.hart → t.cores = g.cores → t.cur = g.cur → owns i →
        ownsFile t = true ∨ ownerChecked i = false := by
      intro t i h1 h2 h3 ho
      have hc : t.core = f.core := by simp only [State.core, State.coreAt, State.coreId, h2, h3]; rfl
      rcases ho with ho | ⟨ho, ho'⟩ | ho
      · exact .inl (by rw [ownsFile, h1]; simp [g, State.setHart, show h.steward = true from ho])
      · exact .inl (by rw [ownsFile, h1, hc]; simp [g, State.setHart, ho, ho', h])
      · exact .inr ho
    refine ⟨fun w i b hv hf hal ho hc => ?_, fun w p b v i c t hv hf hdp hpx hf2 hal ho hu hc he ht => ?_,
      fun w i b hv hf hal ho hu hc => ?_⟩
    · obtain ⟨e1, e2, e3⟩ := Fetches.same hf
      rw [hrun, ← runMembers_one]
      refine convoyTurn_runs (m := ⟨h.regs.pc, w, i, false, .absent⟩) ?_ hal rfl hc (hown e1 e2 e3 ho)
      have hp : (if g.regs.pfxValid then Pfx.ofFields g.regs.pfxFields g.regs.pc else .absent) = .absent :=
        if_neg (by rw [show g.regs.pfxValid = false from hv]; decide)
      rw [convoyAt, hp]
      exact gatherConvoy_last hf hal (fun h => absurd h (by decide)) hc
    · obtain ⟨e1, e2, e3⟩ := Fetches.same hf
      obtain ⟨e4, e5, e6⟩ := Fetches.same hf2
      rw [hrun, ← runMembers_two he ht]
      refine convoyTurn_runs (m := ⟨h.regs.pc + 4, v, i, false, .ofFields (w.setWidth 25) h.regs.pc⟩) ?_ hal rfl hc
        (hown (e4.trans e1) (e5.trans e2) (e6.trans e3) ho)
      have hp : (if g.regs.pfxValid then Pfx.ofFields g.regs.pfxFields g.regs.pc else .absent) = .absent :=
        if_neg (by rw [show g.regs.pfxValid = false from hv]; decide)
      have hg : groupFactor c.regs = groupFactor h.regs := by rw [State.regs, e4, e1]; rfl
      rw [convoyAt, hp]
      exact (gatherConvoy_prefix (g := ⟨g, [], [], none, none⟩) hf hdp hpx).trans (gatherConvoy_last hf2 hal (fun _ => by rw [hg]; exact hu) hc)
    · obtain ⟨e1, e2, e3⟩ := Fetches.same hf
      rw [hrun, ← runMembers_one]
      refine convoyTurn_runs (m := ⟨h.regs.pc, w, i, false, .ofFields h.regs.pfxFields h.regs.pc⟩) ?_ hal rfl hc (hown e1 e2 e3 ho)
      have hp : (if g.regs.pfxValid then Pfx.ofFields g.regs.pfxFields g.regs.pc else .absent) =
          .ofFields h.regs.pfxFields h.regs.pc := if_pos hv
      have hg : groupFactor b.regs = groupFactor h.regs := by rw [State.regs, e1]; rfl
      rw [convoyAt, hp]
      exact gatherConvoy_last hf hal (fun _ => by rw [hg]; exact hu) hc
end

section
/-! CERTIFICATES. The ends of waits (O47). -/

namespace Sys2Proof
namespace Machine

/-! ### Barriers (R215, R216) -/

theorem mem_span {a n m : Nat} : m ∈ span a n ↔ a ≤ m ∧ m < a + n := by
  induction n generalizing a with
  | zero => simp [span]
  | succ n ih => simp [span, ih]; omega

/-- The least value of a function over a list, and an initial one. -/
theorem foldl_min_spec (f : Nat → Nat) (l : List Nat) (k : Nat) :
    let r := l.foldl (fun k m => min k (f m)) k
    r ≤ k ∧ (∀ m ∈ l, r ≤ f m) ∧ (r = k ∨ ∃ m ∈ l, r = f m) := by
  induction l generalizing k with
  | nil => exact ⟨Nat.le_refl _, by simp, .inl rfl⟩
  | cons x l ih =>
    obtain ⟨h1, h2, h3⟩ := ih (min k (f x))
    refine ⟨by simp only [List.foldl_cons]; omega, fun m hm => ?_, ?_⟩
    · rcases List.mem_cons.1 hm with rfl | hm
      · simp only [List.foldl_cons]; omega
      · exact h2 m hm
    · rcases h3 with h3 | ⟨m, hm, h3⟩
      · simp only [List.foldl_cons, h3]
        by_cases h : k ≤ f x
        · exact .inl (Nat.min_eq_left h)
        · exact .inr ⟨x, .head _, Nat.min_eq_right (by omega)⟩
      · exact .inr ⟨m, .tail _ hm, h3⟩

/-- The generation that every member still in the gang has reached, one of them no further. -/
theorem reached_eq {g : Gang} {bar n : Nat} (h1 : ∀ m, m < g.size ∧ m ∉ g.exited → n ≤ mgetD (g.barrier bar).arrived m 0)
    (h2 : ∃ m, (m < g.size ∧ m ∉ g.exited) ∧ mgetD (g.barrier bar).arrived m 0 = n) : g.reached bar = n := by
  have hm : ∀ m, m ∈ (span 0 g.size).filter (fun m => !g.exited.contains m) ↔ m < g.size ∧ m ∉ g.exited := by
    intro m
    simp [mem_span]
  obtain ⟨m, hm2, he⟩ := h2
  have hin := (hm m).2 hm2
  unfold Gang.reached
  dsimp only
  split
  · next e => rw [e] at hin; cases hin
  · next x xs e =>
    rw [e] at hin hm
    obtain ⟨g1, g2, g3⟩ := foldl_min_spec (fun m => mgetD (g.barrier bar).arrived m 0) xs (mgetD (g.barrier bar).arrived x 0)
    have hx := h1 x ((hm x).1 (.head _))
    refine Nat.le_antisymm ?_ ?_
    · rw [← he]
      rcases List.mem_cons.1 hin with rfl | hin
      · exact g1
      · exact g2 m hin
    · rcases g3 with g3 | ⟨y, hy, g3⟩
      · rw [g3]; exact hx
      · rw [g3]; exact h1 y ((hm y).1 (.tail _ hy))

/-- A hart after a barrier's generation n has completed. -/
def barrierFreed (s : State) (gang bar n : Nat) (h : Hart) : Hart :=
  match h.wait with
  | some (.barrier b' k) => if h.gang = gang ∧ b' = bar ∧ k ≤ n then { h with wait := none, readySince := readyAt s.gtime } else h
  | _ => h

theorem barrierFreed_iff (s : State) (gang bar n : Nat) (h : Hart) :
    ((h.gang = gang ∧ ∃ j, j ≤ n ∧ h.wait = some (.barrier bar j)) →
      barrierFreed s gang bar n h = { h with wait := none, readySince := readyAt s.gtime }) ∧
    (¬(h.gang = gang ∧ ∃ j, j ≤ n ∧ h.wait = some (.barrier bar j)) → barrierFreed s gang bar n h = h) := by
  unfold barrierFreed
  constructor
  · rintro ⟨hg, j, hj, hw⟩
    simp [hw, hg, hj]
  · intro hn
    split
    · next b' k hw =>
      refine if_neg ?_
      rintro ⟨hg, rfl, hk⟩
      exact hn ⟨hg, k, hk, hw⟩
    · rfl

theorem barrierComplete_answers {s : State} {gang bar n : Nat} {g : Gang} (hg : mget? s.gangs gang = some g)
    (hr : g.reached bar = n) (hn : (g.barrier bar).completed < n) :
    exec (.barrierComplete gang bar) s = .next (State.mapHarts { s with
      gangs := mset s.gangs gang { g with bars := mset g.bars bar { g.barrier bar with completed := n } } }
        (fun _ => barrierFreed s gang bar n)) := by
  refine eventStep_some ?_
  simp only [hg, hr, if_neg (Nat.not_le.2 hn)]
  rfl

/-! ### WAITADDR (R222) -/

theorem commitTwins_idem (r : Regs) : commitTwins (commitTwins r) = commitTwins r := by
  unfold commitTwins
  simp only [Vector.map_map]
  congr 2
  · funext v
    cases h : v.twin <;> simp [h]
  · funext m
    cases h : m.twin <;> simp [h]

/-- A second commit at the same word changes nothing. -/
theorem committed_again {s e : State} (hh : e.hart = s.committed.hart) (hg : e.gtime = s.gtime) : e.committed = e := by
  have hb : e.hart.regs.storeBuf = [] := by rw [hh]; exact committed_buf s
  have h1 : e.performAll = e := by
    have : ({ e.hart.regs with storeBuf := [] } : Regs) = e.hart.regs := by rw [← hb]
    simp only [State.performAll, State.regs, hb, List.foldl_nil, State.setRegs, this]
  have h2 : e.settle = e := by
    have : commitTwins e.hart.regs = e.hart.regs := by rw [hh, committed_hart]; exact commitTwins_idem _
    simp only [State.settle, h1, State.regs, State.setRegs, this]
  have h3 : ({ e.hart with
      ckpt := snapshot e.hart.regs e.hart.regs.pc, scp := e.hart.regs.pc.setWidth 57, stripOpened := e.gtime, early := false } : Hart)
      = e.hart := by
    rw [hg, hh, committed_hart]
    rfl
  simp only [State.committed, h2, State.openStrip, State.setHart, State.regs, h3]

theorem mayCommit_of_hart {s e : State} (h : MayCommit s) (hh : e.hart = s.committed.hart) : MayCommit e := by
  have hc : commitWait e = none := by
    have hb : e.hart.regs.storeBuf = [] := by rw [hh]; exact committed_buf s
    simp only [commitWait, State.regs, hb, List.findSome?_nil]
  obtain ⟨h1, h2, h3, -⟩ := h.committed
  simp only [AtConvoy, State.regs] at h2 h3
  refine ⟨by rw [hh]; exact h1, ?_, ?_, hc⟩
  · simp only [AtConvoy, State.regs, hh]
    exact h2
  · simp only [State.regs, hh]
    exact h3

theorem execWaitaddr_reads {g u : State} {d a b : BitVec 5} {sc : BitVec 3} {pa : Nat} (hm : MayCommit g)
    (hr : orderedAccess g.committed .read (g.x a) 8 sc = .ok (pa, u)) :
    let v := xword (leNat (memReadN g.committed.mem pa 8))
    execWaitaddr d a b sc g =
      if v = g.x b then stopped u (.wait (.addr d a b sc)) else irreversible (fun s => .ok (s.setX d v)) u := by
  have hf := orderedAccess_frame hr
  have hb : u.regs.storeBuf = [] := by rw [State.regs, hf.hart]; exact committed_buf g
  have hs : seenBytes u pa 8 = memReadN g.committed.mem pa 8 := by
    rw [seenBytes, hb, hf.mem]
    rfl
  have hx : u.x b = g.x b := by rw [← committed_x g b, State.x, State.x, State.regs, State.regs, hf.hart]
  rw [← committed_x g a] at hr
  simp only [execWaitaddr, preCommit_ok hm, hr, hs, hx]

theorem stopped_wait {s : State} (h : AtConvoy s) (w : Wait) : stopped s (.wait w) = .next (s.setHart { s.hart with wait := some w }) := by
  simp only [stopped, convoyStart_eq h]

/-- A read that finds another value completes the instruction (R222). -/
theorem execWaitaddr_changed {g u : State} {d a b : BitVec 5} {sc : BitVec 3} {pa : Nat} (hm : MayCommit g)
    (hr : orderedAccess g.committed .read (g.x a) 8 sc = .ok (pa, u))
    (hv : xword (leNat (memReadN g.committed.mem pa 8)) ≠ g.x b) :
    SetsIn (execWaitaddr d a b sc g) u d (xword (leNat (memReadN g.committed.mem pa 8))) := by
  have hf := orderedAccess_frame hr
  have hg : u.gtime = g.gtime := by rw [hf.2]; exact committed_gtime g
  have hc := committed_again hf.hart hg
  have hcm := mayCommit_of_hart hm hf.hart
  rw [execWaitaddr_reads hm hr, if_neg hv]
  exact irreversible_setsIn hcm (by rw [hc]) hcm.1 (by rw [hf.hart]; exact committed_early g) (by rw [hf.hart]; exact committed_buf g)

/-- A read that finds the old value leaves the hart waiting. -/
theorem execWaitaddr_same {g u : State} {d a b : BitVec 5} {sc : BitVec 3} {pa : Nat} (hm : MayCommit g)
    (hr : orderedAccess g.committed .read (g.x a) 8 sc = .ok (pa, u))
    (hv : xword (leNat (memReadN g.committed.mem pa 8)) = g.x b) :
    execWaitaddr d a b sc g = .next (u.setHart { u.hart with wait := some (.addr d a b sc) }) := by
  have hf := orderedAccess_frame hr
  rw [execWaitaddr_reads hm hr, if_pos hv]
  exact stopped_wait (mayCommit_of_hart hm hf.hart).2.1 _

theorem waitaddrWake_reads {s u : State} {h : Nat} {d a b : BitVec 5} {sc : BitVec 3} (hl : (s.focus h).hart.live = .running)
    (hw : (s.focus h).hart.wait = some (.addr d a b sc))
    (he : execWaitaddr d a b sc ((s.focus h).setHart { (s.focus h).hart with wait := none }) = .next u) :
    exec (.waitaddrWake h) s =
      if u.hart.wait = some (.addr d a b sc) ∧ u.agenda = s.agenda then .fault (.notEnabled "WAITADDR_WAKE") else .next (u.focus s.cur) := by
  change execWaitaddrWake h s = _
  unfold execWaitaddrWake
  dsimp only
  split
  · next hw' =>
    rw [hw] at hw'
    cases hw'
    rw [he, focus_agenda]
    rfl
  · next hn => exact absurd hw (hn _ _ _ _ hl)

/-! ### VOWN (R368) -/

/-- Whether a hart goes on when a context comes to own a core's vector register file. -/
def vownFree (core ctx k : Nat) (h : Hart) : Prop := k / 8 = core ∧ h.ctx = ctx ∧ h.wait = some .vown ∧ h.scrubbed = false

theorem hartAt_releaseVown (s : State) (core ctx k : Nat) :
    (vownFree core ctx k (s.hartAt k) →
      (s.releaseVown core ctx).hartAt k = { s.hartAt k with wait := none, readySince := readyAt s.gtime }) ∧
    (¬vownFree core ctx k (s.hartAt k) → (s.releaseVown core ctx).hartAt k = s.hartAt k) := by
  have hb : ∀ h : Hart, (decide (k / 8 = core) && decide (h.ctx = ctx) && h.wait == some .vown && !h.scrubbed) = true ↔
      vownFree core ctx k h := by
    intro h
    simp [vownFree, and_assoc]
  have he : (s.releaseVown core ctx).hartAt k = _ :=
    hartAt_mapHarts s (fun k h => if decide (k / 8 = core) && decide (h.ctx = ctx) && h.wait == some .vown && !h.scrubbed
      then { h with wait := none, readySince := readyAt s.gtime } else h) k (if_neg (by rw [hb]; exact fun h => nomatch h.2.2.1))
  refine ⟨fun h => ?_, fun h => ?_⟩
  · rw [he, if_pos ((hb _).2 h)]
  · rw [he, if_neg (mt (hb _).1 h)]

theorem vownService_mine {s : State} {k : Nat} (hw : (s.hartAt k).wait = some .vown)
    (hm : (s.coreAt (k / 8)).owned = true ∧ (s.coreAt (k / 8)).owner.toNat = (s.hartAt k).ctx) :
    vownService k s = if (s.hartAt k).scrubbed then notEnabled "VOWN" else .next (s.releaseVown (k / 8) (s.hartAt k).ctx) := by
  simp [vownService, hw, hm.1, hm.2]

theorem vownService_other {s : State} {k : Nat} (hw : (s.hartAt k).wait = some .vown)
    (hm : ¬((s.coreAt (k / 8)).owned = true ∧ (s.coreAt (k / 8)).owner.toNat = (s.hartAt k).ctx)) :
    vownService k s = .next ((s.setCoreAt (k / 8) { s.coreAt (k / 8) with
      owner := BitVec.ofNat 6 (s.hartAt k).ctx, owned := true, clean := false }).releaseVown (k / 8) (s.hartAt k).ctx) := by
  have hm' : ((s.coreAt (k / 8)).owned && (s.coreAt (k / 8)).owner.toNat == (s.hartAt k).ctx) = false := by
    rw [Bool.eq_false_iff]
    simpa using hm
  simp only [vownService, hw, hm']
  rfl

/-! ### The arrival of rows (R220, R221) -/

/-- Rows written one after another into a core's scratchpad. -/
def writeRows (s : State) (core dst : Nat) (rows : List (List Byte × Nat)) : State :=
  rows.foldl (fun s r => s.spWrite core (64 * (dst + r.2)) r.1) s

theorem writeRows_frame (core dst : Nat) (rows : List (List Byte × Nat)) (s : State) :
    writeRows s core dst rows = { s with cores := (writeRows s core dst rows).cores } ∧
    (writeRows s core dst rows).coreAt core = { s.coreAt core with
      scratch := rows.foldl (fun m r => memWriteN m (64 * (dst + r.2)) r.1) (s.coreAt core).scratch } ∧
    ∀ c, c ≠ core → (writeRows s core dst rows).coreAt c = s.coreAt c := by
  induction rows generalizing s with
  | nil => exact ⟨rfl, rfl, fun _ _ => rfl⟩
  | cons r rows ih =>
    obtain ⟨h1, h2, h3⟩ := ih (s.spWrite core (64 * (dst + r.2)) r.1)
    refine ⟨h1, ?_, fun c hc => (h3 c hc).trans (coreAt_setCoreAt_other s _ hc)⟩
    have h4 : (s.spWrite core (64 * (dst + r.2)) r.1).coreAt core =
        { s.coreAt core with scratch := memWriteN (s.coreAt core).scratch (64 * (dst + r.2)) r.1 } := coreAt_setCoreAt_same s _ _
    exact h2.trans (by rw [h4]; rfl)

/-- The records of arrivals once one more has come for a slot time (R221). -/
def arrivalsWith (l : List Arrival) (t : Transfer) : List Arrival :=
  if l.any (fun r => r.slot == t.slot) then
    l.map (fun r => if r.slot = t.slot then { r with count := r.count + 1 } else r)
  else if l.length < 8 then l ++ [{ slot := t.slot, stamp := t.stamp, count := 1 }] else l

theorem recordArrival_eq (h : Hart) (t : Transfer) : recordArrival h t = { h with arrivals := arrivalsWith h.arrivals t } := by
  have h8 : Config.maxArrivals = 8 := rfl
  simp only [recordArrival, arrivalsWith, h8, beq_iff_eq]
  split
  · rfl
  · split <;> rfl

/-- Whether the hart at a transfer's key is still the member it was sent to. -/
def receives (s : State) (t : Transfer) : Prop :=
  (s.hartAt t.hart).gang = t.gang ∧ (s.hartAt t.hart).memberIdx = t.member ∧ (s.hartAt t.hart).live ≠ .free

theorem sendtArrival_received {s : State} {i : Nat} {t : Transfer} (ht : s.transfers[i]? = some t) (hm : receives s t)
    (hk : (s.coreAt t.core).holder = some t.gang) (hl : (s.hartAt t.hart).live = .stopped → (s.coreAt t.core).moving ≠ none) :
    let u := writeRows { s with transfers := s.transfers.eraseIdx i } t.core t.dst t.rows.zipIdx
    exec (.sendtArrival i) s = .next (u.setHartAt t.hart (recordArrival (u.hartAt t.hart) t)) := by
  intro u
  obtain ⟨h1, h2, h3⟩ := hm
  have hb : ((s.hartAt t.hart).live == .stopped && (s.coreAt t.core).moving.isNone) = false := by
    rw [Bool.eq_false_iff]
    intro h
    simp only [Bool.and_eq_true, beq_iff_eq, Option.isNone_iff_eq_none] at h
    exact hl h.1 h.2
  refine eventStep_some ?_
  simp only [ht, h1, h2, bne_iff_ne.2 h3, beq_self_eq_true, Bool.and_true, Bool.true_and, hb, Bool.false_eq_true, if_false]
  exact if_pos (beq_iff_eq.2 hk)

theorem sendtArrival_lost {s : State} {i : Nat} {t : Transfer} (ht : s.transfers[i]? = some t) (hm : ¬receives s t) :
    exec (.sendtArrival i) s = .next { s with transfers := s.transfers.eraseIdx i } := by
  have hb : ((s.hartAt t.hart).gang == t.gang && (s.hartAt t.hart).memberIdx == t.member && (s.hartAt t.hart).live != .free) = false := by
    rw [Bool.eq_false_iff]
    intro h
    simp only [Bool.and_eq_true, beq_iff_eq, bne_iff_ne] at h
    exact hm ⟨h.1.1, h.1.2, h.2⟩
  refine eventStep_some ?_
  simp only [ht, hb]
  rfl

/-! ### Pages (R422) -/

theorem hartAt_releasePages (s : State) (ctx page k : Nat) :
    (s.releasePages ctx (· = page)).hartAt k = if (s.hartAt k).wait = some (.page ctx page)
      then { s.hartAt k with wait := none, readySince := readyAt s.gtime } else s.hartAt k := by
  refine (hartAt_mapHarts s _ k rfl).trans ?_
  dsimp only
  split
  · next c p hw => by_cases hc : c = ctx <;> by_cases hp : p = page <;> simp [hw, hc, hp]
  · next hn => exact (if_neg (hn ctx page)).symm

theorem faultHoldRelease_answers {s : State} {ctx page : Nat} (hl : ∀ l ∈ s.leaders, ¬(l.ctx = ctx ∧ l.page = page))
    (hh : ∃ h ∈ s.allHarts, h.2.wait = some (.page ctx page)) :
    exec (.faultHoldRelease ctx page) s = .next (s.releasePages ctx (· = page)) := by
  have h1 : s.leaders.any (fun l => l.ctx = ctx && l.page = page) = false := by
    rw [List.any_eq_false]
    intro l hm
    simpa using hl l hm
  have h2 : s.allHarts.any (fun h => h.2.wait = some (.page ctx page)) = true := by
    obtain ⟨h, hm, hw⟩ := hh
    exact List.any_eq_true.2 ⟨h, hm, by simpa using hw⟩
  refine eventStep_some ?_
  simp only [h1, h2]
  rfl

end Machine
end Sys2Proof

open Sys2Proof Sys2Proof.Machine

/-- Settles O47, event by event: each by what it answers and by the harts that it lets go on. -/
theorem waitPoints : Obligations.WaitPoints := by
  intro s
  refine ⟨?_, fun h t hw ht => ?_, ?_, ?_, ?_, fun c x k => hartAt_releaseVown s c x k, ?_, fun ctx page hl hh => ?_⟩
  · intro gang bar g n hg hn here h1 h2
    refine ⟨_, barrierComplete_answers hg (reached_eq h1 h2) hn, rfl, fun k => ?_, rfl⟩
    have e := hartAt_mapHarts { s with
      gangs := mset s.gangs gang { g with bars := mset g.bars bar { g.barrier bar with completed := n } } }
        (fun _ => barrierFreed s gang bar n) k rfl
    obtain ⟨h3, h4⟩ := barrierFreed_iff s gang bar n (s.hartAt k)
    exact ⟨fun h => e.trans (h3 h), fun h => e.trans (h4 h)⟩
  · refine eventStep_some ?_
    simp only [hw, if_pos ht]
  · intro h d a b sc v f w hl hw he hv
    exact (waitaddrWake_reads hl hw he).trans (if_neg (fun h => hv h.1))
  · intro h d a b sc pa f g c v hl hw hm ho
    refine ⟨fun hv => ?_, fun hv u hu => ?_⟩
    · obtain ⟨e, he⟩ := ho
      have hf := orderedAccess_frame he
      obtain ⟨u, hu, hrest⟩ := execWaitaddr_changed (d := d) hm he hv
      refine ⟨e, u, ⟨fun a => by rw [hf.mem], hf.1, ?_⟩, hf.hart, ⟨u, rfl, hrest⟩, ?_⟩
      · rw [hf.2]
      · refine (waitaddrWake_reads hl hw hu).trans (if_neg (fun h => ?_))
        rw [hrest.2.1] at h
        exact nomatch h.1
    · have hs := waitaddrWake_reads hl hw (execWaitaddr_same (d := d) hm hu hv)
      exact ⟨fun h => hs.trans (if_pos ⟨rfl, h⟩), fun h => hs.trans (if_neg (fun h' => h h'.2))⟩
  · intro k rest ha r h c mine hw
    have hs : step s = ifEnabled r (vownService k r) := by simp only [step, ha]; rfl
    rw [hs]
    refine ⟨fun hm hb => ?_, fun hm hb => ?_, fun hm => ?_⟩
    · rw [vownService_mine (s := r) hw hm, if_pos (show (r.hartAt k).scrubbed = true from hb)]; rfl
    · rw [vownService_mine (s := r) hw hm, if_neg (by rw [show (r.hartAt k).scrubbed = false from hb]; decide)]; rfl
    · rw [vownService_other (s := r) hw hm]; rfl
  · intro i t ht h mine k u
    refine ⟨fun hm hk hl => ?_, fun hm => sendtArrival_lost ht hm⟩
    intro first records put
    have e := sendtArrival_received ht hm hk hl
    obtain ⟨h1, h2, h3⟩ := writeRows_frame t.core t.dst t.rows.zipIdx u
    generalize writeRows u t.core t.dst t.rows.zipIdx = v at e h1 h2 h3
    have hh : v.hartAt t.hart = h := by rw [h1]; rfl
    dsimp only at e
    rw [hh, recordArrival_eq] at e
    have hc : ∀ c, (v.setHartAt t.hart { h with arrivals := arrivalsWith h.arrivals t }).coreAt c = v.coreAt c := by
      intro c
      unfold State.setHartAt
      split <;> rfl
    refine ⟨_, e, ?_, fun c => ?_, fun c hne => ?_, ?_⟩
    · rw [hc, h2]; rfl
    · rw [hc]
      by_cases hne : c = t.core
      · rw [hne, h2]; rfl
      · rw [h3 c hne]; rfl
    · rw [hc]; exact h3 c hne
    · have hk' : (v.setHartAt t.hart { h with arrivals := arrivalsWith h.arrivals t }).cores = v.cores := by
        unfold State.setHartAt
        split <;> rfl
      rw [hk']
      rw [h1]
      unfold State.setHartAt
      dsimp only
      split <;> rfl
  · exact ⟨_, faultHoldRelease_answers hl hh, hartAt_releasePages s ctx page, rfl⟩
end

section
/-! CERTIFICATES. Launches placed, and members that exit (O46). -/

namespace Sys2Proof
namespace Machine

/-! ### Lists -/

/-- A list without duplicates keeps all its elements. -/
theorem eraseDups_of_nodup {l : List Nat} (h : l.Nodup) : l.eraseDups = l := by
  induction l with
  | nil => rfl
  | cons a l ih =>
    obtain ⟨ha, hl⟩ := List.nodup_cons.1 h
    have : l.filter (fun b => !b == a) = l := by
      rw [List.filter_eq_self]
      intro b hb
      have : b ≠ a := fun e => ha (e ▸ hb)
      simpa using this
    rw [List.eraseDups_cons, this, ih hl]

/-- A list of one value, as often as it may stand there, is that value. -/
theorem eraseDups_of_const {l : List Nat} (h0 : l ≠ []) (h : ∀ a ∈ l, ∀ b ∈ l, a = b) : l.eraseDups.length = 1 := by
  cases l with
  | nil => exact absurd rfl h0
  | cons a l =>
    have : l.filter (fun b => !b == a) = [] := by
      rw [List.filter_eq_nil_iff]
      intro b hb
      simpa using h b (.tail _ hb) a (.head _)
    rw [List.eraseDups_cons, this, List.eraseDups_nil]
    rfl

/-! ### Overdue launches (R363) -/

theorem match_eq_any (p : Nat → Bool) (o : Option Nat) : (match o with | some t => p t | none => false) = o.any p := by
  cases o <;> rfl

theorem launchOverdue_eq (s : State) :
    launchOverdue s = fun l => !l.blocking && l.eligibleAt.any (fun t => decide (t + 2 ^ 20 ≤ s.gtime)) :=
  funext fun l => congrArg (!l.blocking && ·) (match_eq_any (fun t => decide (t + 2 ^ 20 ≤ s.gtime)) l.eligibleAt)

theorem launchWaitExpiry_answers {s : State} {ctx : Nat}
    (h : ∃ l ∈ (s.ctxAt ctx).queues.flatMap (fun q => q.2), launchOverdue s l = true) :
    exec (.launchWaitExpiry ctx) s = .next (s.setCtxAt ctx { s.ctxAt ctx with
      queues := mmap (fun _ q => q.map (fun l => if launchOverdue s l then { l with blocking := true } else l))
        (s.ctxAt ctx).queues }) := by
  refine eventStep_some ?_
  obtain ⟨l, hl, hl'⟩ := h
  rw [if_pos (show (queuedLaunches (s.ctxAt ctx)).any (launchOverdue s) = true from List.any_eq_true.2 ⟨l, hl, hl'⟩)]
  rfl

/-! ### The launch placed next (R363) -/

/-- Whether a launch is placed before another that stands earlier in the queues. -/
abbrev launchBefore (l x : Launch) : Prop :=
  specClass x.spec < specClass l.spec ∨ (specClass x.spec = specClass l.spec ∧ l.order < x.order)

/-- The launch of two that is placed first, as `nextLaunch` compares them. -/
def launchEarlier (b : Option Launch) (l : Launch) : Option Launch :=
  match b with
  | none => some l
  | some x =>
    if specClass x.spec < specClass l.spec ∨ (specClass x.spec = specClass l.spec ∧ l.order < x.order) then some l
    else some x

theorem launchEarlier_eq : launchEarlier = keepFirst launchBefore := by
  funext b w
  cases b <;> rfl

/-- Whether a launch may be placed: its dependences are done, no overdue launch holds it back, and it fits. -/
def launchReady (s : State) (ctx : Nat) (x : Launch) : Prop :=
  (∀ n ∈ x.deps, mget? s.cmds n = none) ∧ fits s ctx x = true ∧
    ∀ b ∈ (s.ctxAt ctx).queues.flatMap (fun q => q.2), b.blocking = true → b.order < x.order → specClass b.spec < specClass x.spec

theorem launchReady_iff (s : State) (ctx : Nat) (x : Launch) :
    (eligible s x && !barred (s.ctxAt ctx) x && fits s ctx x) = true ↔ launchReady s ctx x := by
  have he : eligible s x = true ↔ ∀ n ∈ x.deps, mget? s.cmds n = none := by
    simp only [eligible, List.all_eq_true, Option.isNone_iff_eq_none]
  have hb : (!barred (s.ctxAt ctx) x) = true ↔
      ∀ b ∈ (s.ctxAt ctx).queues.flatMap (fun q => q.2), b.blocking = true → b.order < x.order →
        specClass b.spec < specClass x.spec := by
    rw [Bool.not_eq_true', barred, List.any_eq_false]
    refine forall₂_congr fun b _ => ?_
    simp only [Bool.and_eq_true, decide_eq_true_eq, not_and, Nat.not_le, and_imp]
  rw [Bool.and_eq_true, Bool.and_eq_true, he, hb, launchReady]
  exact ⟨fun h => ⟨h.1.1, h.2, h.1.2⟩, fun h => ⟨⟨h.1, h.2.2⟩, h.2.1⟩⟩

theorem nextLaunch_eq {s : State} {ctx : Nat} {l : Launch} {pre post : List Launch}
    (hw : (s.ctxAt ctx).queues.flatMap (fun q => q.2) = pre ++ l :: post) (hl : launchReady s ctx l)
    (h1 : ∀ x ∈ pre, launchReady s ctx x → launchBefore l x) (h2 : ∀ x ∈ post, launchReady s ctx x → ¬launchBefore x l) :
    nextLaunch s ctx = some l := by
  have hf : (queuedLaunches (s.ctxAt ctx)).filter (fun l => eligible s l && !barred (s.ctxAt ctx) l && fits s ctx l) =
      pre.filter (fun l => eligible s l && !barred (s.ctxAt ctx) l && fits s ctx l) ++
        l :: post.filter (fun l => eligible s l && !barred (s.ctxAt ctx) l && fits s ctx l) := by
    rw [queuedLaunches, hw, List.filter_append, List.filter_cons, if_pos ((launchReady_iff s ctx l).2 hl)]
  change ((queuedLaunches (s.ctxAt ctx)).filter _).foldl launchEarlier none = some l
  rw [hf, launchEarlier_eq]
  refine keepFirst_first (fun x hx => ?_) (fun x hx => ?_)
  · obtain ⟨hx, hr⟩ := List.mem_filter.1 hx
    exact h1 x hx ((launchReady_iff s ctx x).1 hr)
  · obtain ⟨hx, hr⟩ := List.mem_filter.1 hx
    exact h2 x hx ((launchReady_iff s ctx x).1 hr)

/-- Hart keys that are a placement (R359 to R362). -/
theorem placeOk_of {s : State} {ctx : Nat} {l : Launch} {places : List Nat} (h1 : places.length = specHarts l.spec)
    (h2 : places.Nodup) (h3 : ∀ k ∈ places, k < Config.stewardBase ∧ (s.hartAt k).live = .free) (h4 : places ≠ [])
    (h5 : ∀ a ∈ places.map (· / 8), ∀ b ∈ places.map (· / 8),
      a / confineCores (specConfine l.spec) = b / confineCores (specConfine l.spec))
    (h6 : ∀ a ∈ places.map (· / 8), (places.filter (fun k => k / 8 == a)).length ≤ coreRoom s ctx l.spec a) :
    placeOk s ctx l places = true := by
  have hi : (((places.map (· / 8)).eraseDups).map (instanceOf l.spec)).eraseDups.length = 1 := by
    refine eraseDups_of_const ?_ ?_
    · obtain ⟨k, hk⟩ := List.exists_mem_of_ne_nil _ h4
      have : k / 8 ∈ (places.map (· / 8)).eraseDups := List.mem_eraseDups.2 (List.mem_map_of_mem hk)
      exact List.ne_nil_of_mem (List.mem_map_of_mem this)
    · simp only [List.mem_map, List.mem_eraseDups]
      rintro _ ⟨a, ha, rfl⟩ _ ⟨b, hb, rfl⟩
      exact h5 a (List.mem_map.2 ha) b (List.mem_map.2 hb)
  have ha : places.all (fun k => decide (k < Config.stewardBase) && (s.hartAt k).live == .free) = true := by
    rw [List.all_eq_true]
    intro k hk
    simpa using h3 k hk
  have hr : ((places.map (· / 8)).eraseDups).all
      (fun c => decide ((places.filter (fun k => k / 8 == c)).length ≤ coreRoom s ctx l.spec c)) = true := by
    rw [List.all_eq_true]
    intro c hc
    exact decide_eq_true (h6 c (List.mem_eraseDups.1 hc))
  simp only [placeOk, h1, eraseDups_of_nodup h2, hi, ha, hr, beq_self_eq_true, Bool.and_self]

/-! ### A fresh gang identifier (Table 2.6) -/

theorem freshFrom_notMem {used : List Nat} {m start fuel : Nat} (h : ∃ i, i < fuel ∧ (start + i) % m + 1 ∉ used) :
    freshFrom used m start fuel ∉ used := by
  induction fuel generalizing start with
  | zero => obtain ⟨i, hi, -⟩ := h; omega
  | succ fuel ih =>
    unfold freshFrom
    split
    · next hc =>
      obtain ⟨i, hi, hn⟩ := h
      cases i with
      | zero => exact absurd (by simpa using hc) hn
      | succ i => exact ih ⟨i, by omega, by rwa [Nat.add_assoc, Nat.add_comm 1]⟩
    · next hc => simpa using hc

theorem freshFrom_le {used : List Nat} {m start fuel : Nat} (hm : 0 < m) : freshFrom used m start fuel ≤ m := by
  induction fuel generalizing start with
  | zero => exact Nat.mod_lt _ hm
  | succ fuel ih =>
    unfold freshFrom
    split
    · exact ih
    · exact Nat.mod_lt _ hm

/-- Of m values in turn, one more than are in use hold one that is not. -/
theorem exists_unused (used : List Nat) {m : Nat} (start : Nat) (h : used.length < m) :
    ∃ i, i < used.length + 1 ∧ (start + i) % m + 1 ∉ used := by
  by_contra hc
  push Not at hc
  have hinj : Set.InjOn (fun i => (start + i) % m + 1) (Finset.range (used.length + 1) : Set Nat) := by
    intro i hi j hj he
    simp only [Finset.coe_range, Set.mem_Iio] at hi hj
    have : (start + i) % m = (start + j) % m := Nat.succ.inj he
    have h2 : i % m = j % m := Nat.ModEq.add_left_cancel' start this
    rwa [Nat.mod_eq_of_lt (by omega), Nat.mod_eq_of_lt (by omega)] at h2
  have hsub : (Finset.range (used.length + 1)).image (fun i => (start + i) % m + 1) ⊆ used.toFinset := by
    intro x hx
    obtain ⟨i, hi, rfl⟩ := Finset.mem_image.1 hx
    exact List.mem_toFinset.2 (hc i (Finset.mem_range.1 hi))
  have h1 := Finset.card_le_card hsub
  rw [Finset.card_image_of_injOn hinj, Finset.card_range] at h1
  have h2 := List.toFinset_card_le used
  omega

theorem freshGid_fresh {s : State} {ctx : Nat} {x : Nat × Gang} (hx : x ∈ s.gangs) (hc : x.2.ctx = ctx)
    (hl : s.gangs.length < 2 ^ 32 - 1) : x.2.gid ≠ freshGid s ctx := by
  intro he
  let used := (s.gangs.filter (fun g => g.2.ctx == ctx)).map (fun g => g.2.gid.toNat)
  have hu : used.length < 2 ^ 32 - 1 := by
    have : used.length ≤ s.gangs.length := by
      rw [List.length_map]
      exact List.length_filter_le _ _
    omega
  have hn := freshFrom_notMem (exists_unused used (Config.free s.free).toNat hu)
  have hle : freshFrom used (2 ^ 32 - 1) (Config.free s.free).toNat (used.length + 1) ≤ 2 ^ 32 - 1 := freshFrom_le (by decide)
  refine hn ?_
  have ht : x.2.gid.toNat = freshFrom used (2 ^ 32 - 1) (Config.free s.free).toNat (used.length + 1) := by
    rw [he]
    exact Nat.mod_eq_of_lt (Nat.lt_of_le_of_lt hle (by decide))
  rw [← ht]
  exact List.mem_map.2 ⟨x, List.mem_filter.2 ⟨hx, by simpa using hc⟩, rfl⟩

/-! ### A gang placed (R41, R76, R359) -/

/-- Members numbered from j on, each with its hart. -/
def numbered (j : Nat) (places : List Nat) (m : Map Nat) : Map Nat := (places.zipIdx j).foldl (fun m k => mset m k.2 k.1) m

theorem numbered_spec (places : List Nat) (j : Nat) (m : Map Nat) :
    (∀ i k, places[i]? = some k → mget? (numbered j places m) (j + i) = some k) ∧
      ∀ i, i < j → mget? (numbered j places m) i = mget? m i := by
  induction places generalizing j m with
  | nil => exact ⟨fun i k h => by simp at h, fun _ _ => rfl⟩
  | cons a l ih =>
    obtain ⟨h1, h2⟩ := ih (j + 1) (mset m j a)
    refine ⟨fun i k h => ?_, fun i hi => (h2 i (by omega)).trans (by rw [mget?_mset, if_neg (by omega)])⟩
    cases i with
    | zero =>
      cases h
      exact (h2 j (by omega)).trans (by rw [mget?_mset, if_pos rfl])
    | succ i =>
      rw [Nat.add_comm i, ← Nat.add_assoc]
      exact h1 i k h

/-- A core that takes members of gang `n` of a context, of `sp` bytes of scratchpad. -/
def takenCore (ctx n sp : Nat) (k : Core) : Core :=
  if sp = 0 then { k with serves := some ctx } else takeStores { k with serves := some ctx } ctx n sp

theorem takenCore_idem (ctx n sp : Nat) (k : Core) : takenCore ctx n sp (takenCore ctx n sp k) = takenCore ctx n sp k := by
  unfold takenCore
  by_cases h : sp = 0
  · simp only [if_pos h]
  · simp only [if_neg h]
    rfl

/-- Cores taken one after another; one that is listed again is as it was. -/
def takeCores (f : Core → Core) (cores : List Nat) (s : State) : State := cores.foldl (fun s c => s.setCoreAt c (f (s.coreAt c))) s

theorem takeCores_spec {f : Core → Core} (hf : ∀ k, f (f k) = f k) (cores : List Nat) (s : State) :
    takeCores f cores s = { s with cores := (takeCores f cores s).cores } ∧
      ∀ a, (takeCores f cores s).coreAt a = if a ∈ cores then f (s.coreAt a) else s.coreAt a := by
  induction cores generalizing s with
  | nil => exact ⟨rfl, fun a => by simp [takeCores]⟩
  | cons c l ih =>
    obtain ⟨h1, h2⟩ := ih (s.setCoreAt c (f (s.coreAt c)))
    refine ⟨h1, fun a => (h2 a).trans ?_⟩
    rw [coreAt_setCoreAt]
    by_cases hc : a = c
    · subst hc
      simp only [if_true, hf, List.mem_cons, true_or, ite_self]
    · simp only [List.mem_cons, hc, false_or, if_false]

/-- Members started one after another, numbered from j on. -/
def startMembers (ctx n : Nat) (l : Launch) (j : Nat) (places : List Nat) (s : State) : State :=
  (places.zipIdx j).foldl (fun s k => s.setHartAt k.1 (memberHart s ctx n k.2 l)) s

theorem setHartAt_frame (s : State) (k : Nat) (h : Hart) :
    s.setHartAt k h = { s with hart := (s.setHartAt k h).hart, harts := (s.setHartAt k h).harts } := by
  unfold State.setHartAt
  split <;> rfl

theorem memberHart_congr {s t : State} (h1 : t.gtime = s.gtime) (h2 : t.written = s.written) (ctx n i : Nat) (l : Launch) :
    memberHart t ctx n i l = memberHart s ctx n i l := by
  simp only [memberHart, h1, h2]

theorem startMembers_spec (ctx n : Nat) (l : Launch) (places : List Nat) (hp : places.Nodup) (j : Nat) (s : State) :
    let t := startMembers ctx n l j places s
    t = { s with hart := t.hart, harts := t.harts } ∧
      (∀ i k, places[i]? = some k → t.hartAt k = memberHart s ctx n (j + i) l) ∧ ∀ k, k ∉ places → t.hartAt k = s.hartAt k := by
  induction places generalizing j s with
  | nil => exact ⟨rfl, fun i k h => by simp at h, fun _ _ => rfl⟩
  | cons a places ih =>
    obtain ⟨ha, hp⟩ := List.nodup_cons.1 hp
    obtain ⟨h1, h2, h3⟩ := ih hp (j + 1) (s.setHartAt a (memberHart s ctx n j l))
    have hf := setHartAt_frame s a (memberHart s ctx n j l)
    intro t
    change t = _ at h1
    refine ⟨?_, fun i k h => ?_, fun k hk => ?_⟩
    · rw [h1, hf]
    · cases i with
      | zero =>
        cases h
        exact (h3 a ha).trans (by rw [hartAt_setHartAt, if_pos rfl]; rfl)
      | succ i =>
        refine (h2 i k h).trans ?_
        rw [memberHart_congr (s := s) (by rw [hf]) (by rw [hf]), Nat.add_right_comm, Nat.add_assoc]
    · rw [List.mem_cons, not_or] at hk
      exact (h3 k hk.2).trans (by rw [hartAt_setHartAt, if_neg hk.1])

/-- The gang that a placement makes. -/
def placedGang (s : State) (ctx : Nat) (l : Launch) (places : List Nat) : Gang :=
  { gid := freshGid s ctx, ctx := ctx, size := specHarts l.spec, cls := BitVec.ofNat 2 (specClass l.spec)
    timed := specTimed l.spec, lanes := specLanes l.spec, sp := specSp l.spec, record := l.record, origin := s.gtime
    members := numbered 0 places [], exited := [], bars := [], launcher := l.launcher, rootHseq := l.rootHseq }

/-- The machine with the gang counted among the live ones. -/
def withGang (s : State) (g : Gang) : State :=
  { s with gangs := mset s.gangs s.nextGang g, nextGang := s.nextGang + 1, gids := mset s.gids s.nextGang g.gid, free := s.free + 1 }

/-- The queues of a context without a launch. -/
def unqueue (c : Ctx) (l : Launch) : Ctx := { c with queues := mmap (fun _ q => q.filter (fun x => x.order != l.order)) c.queues }

theorem placeGang_eq (s : State) (ctx : Nat) (l : Launch) (places : List Nat) :
    placeGang s ctx l places =
      let u := takeCores (takenCore ctx s.nextGang (specSp l.spec)) ((places.map (· / 8)).eraseDups)
        (withGang s (placedGang s ctx l places))
      let v := startMembers ctx s.nextGang l 0 places u
      v.setCtxAt ctx (unqueue (v.ctxAt ctx) l) := rfl

theorem gangPlacement_answers {s : State} {ctx : Nat} {l : Launch} {places : List Nat} (hn : nextLaunch s ctx = some l)
    (hp : placeOk s ctx l places = true) : exec (.gangPlacement ctx places) s = .next (placeGang s ctx l places) := by
  refine eventStep_some ?_
  rw [hn]
  exact if_pos hp

/-- A placed gang in the machine: its parts, and what stays (R41, R76, R359). -/
theorem placeGang_spec {s : State} {ctx : Nat} {l : Launch} {places : List Nat} (hp : places.Nodup) :
    let t := placeGang s ctx l places
    t.gangs = mset s.gangs s.nextGang (placedGang s ctx l places) ∧ t.gids = mset s.gids s.nextGang (freshGid s ctx) ∧
      (∀ i k, places[i]? = some k → t.hartAt k = memberHart s ctx s.nextGang i l) ∧ (∀ k, k ∉ places → t.hartAt k = s.hartAt k) ∧
      (∀ a, t.coreAt a = if a ∈ places.map (· / 8) then takenCore ctx s.nextGang (specSp l.spec) (s.coreAt a) else s.coreAt a) ∧
      t.ctxAt ctx = unqueue (s.ctxAt ctx) l ∧
      t = { s with
        hart := t.hart, harts := t.harts, gangs := t.gangs, nextGang := s.nextGang + 1, gids := t.gids, free := s.free + 1
        cores := t.cores, ctxs := t.ctxs } := by
  obtain ⟨h1, h2⟩ := takeCores_spec (takenCore_idem ctx s.nextGang (specSp l.spec)) ((places.map (· / 8)).eraseDups)
    (withGang s (placedGang s ctx l places))
  obtain ⟨h3, h4, h5⟩ := startMembers_spec ctx s.nextGang l places hp 0
    (takeCores (takenCore ctx s.nextGang (specSp l.spec)) ((places.map (· / 8)).eraseDups) (withGang s (placedGang s ctx l places)))
  rw [placeGang_eq]
  dsimp only
  generalize takeCores (takenCore ctx s.nextGang (specSp l.spec)) ((places.map (· / 8)).eraseDups)
    (withGang s (placedGang s ctx l places)) = u at *
  generalize startMembers ctx s.nextGang l 0 places u = v at *
  have hc : v.ctxAt ctx = s.ctxAt ctx := by rw [h3, h1]; rfl
  refine ⟨?_, ?_, fun i k h => ?_, fun k hk => ?_, fun a => ?_, ?_, ?_⟩
  · rw [h3, h1]; rfl
  · rw [h3, h1]; rfl
  · refine (h4 i k h).trans ?_
    rw [memberHart_congr (s := s) (by rw [h1]; rfl) (by rw [h1]; rfl), Nat.zero_add]
  · exact (h5 k hk).trans (by rw [h1]; rfl)
  · have : v.coreAt a = u.coreAt a := by rw [h3]; rfl
    refine (this.trans (h2 a)).trans ?_
    simp only [List.mem_eraseDups]
    rfl
  · rw [ctxAt_setCtxAt, if_pos rfl, hc]
  · rw [h3, h1]; rfl

theorem memberHart_regs (s : State) (ctx n i : Nat) (l : Launch) : (memberHart s ctx n i l).regs = { Regs.initial with
    pc := specEntry l.spec, x := ((Vector.replicate 32 (0 : XWord)).set 1 (xword s.gtime)).set 2 l.record } := rfl

/-- A core that takes a gang's members: its lanes stay; with a scratchpad request its local stores read 0 (R76, R276). -/
theorem takenCore_spec (ctx n sp : Nat) (c : Core) :
    let k := takenCore ctx n sp c
    k.serves = some ctx ∧ k.lanes = c.lanes ∧ (sp = 0 → k = { c with serves := some ctx }) ∧
      (sp ≠ 0 → k.holder = some n ∧ k.request = (sp + 4095) / 4096 * 4096 ∧ k.scratch = [] ∧ k.tenant = some ctx ∧ k.tags = [] ∧
        k.acc = [] ∧ k.tflags = [] ∧ k.wbuf = [] ∧ k.keep = 0 ∧ k.dealExpert = 0 ∧ k.dealRound = 0 ∧ k.dealRunning = false ∧
        k.dealSlot = 0) := by
  intro k
  by_cases h : sp = 0
  · have e : k = { c with serves := some ctx } := if_pos h
    rw [e]
    exact ⟨rfl, rfl, fun _ => rfl, fun h' => absurd h h'⟩
  · have e : k = takeStores { c with serves := some ctx } ctx n sp := if_neg h
    rw [e]
    exact ⟨rfl, rfl, fun h' => absurd h' h, fun _ => ⟨rfl, rfl, rfl, rfl, rfl, rfl, rfl, rfl, rfl, rfl, rfl, rfl, rfl⟩⟩

/-- A core that holds a hart of another context takes none (R361). -/
theorem coreRoom_foreign {s : State} {ctx k : Nat} {x : Hart} {spec : BitVec 512} (hx : (k, x) ∈ s.allHarts)
    (hk : k < Config.stewardBase) (hl : x.live ≠ .free) (hc : x.ctx ≠ ctx) : coreRoom s ctx spec (k / 8) = 0 := by
  have ha : (hartsOn s (k / 8)).any (fun h => h.2.ctx != ctx) = true := by
    refine List.any_eq_true.2 ⟨(k, x), List.mem_filter.2 ⟨hx, ?_⟩, by simpa using hc⟩
    simpa using ⟨hl, hk⟩
  simp only [coreRoom, ha, Bool.or_true, Bool.true_or, if_true]

/-! ### A member's exit (R255) -/

/-- What is left of a gang `n` once `g` is what its members have come to: it goes on, or it ends. -/
def gangLeft (w : State) (n : Nat) (g : Gang) : State :=
  if g.exited.length = g.size then endGang w n g
  else { w with
    gangs := mset w.gangs n g
    agenda := ((mkeys g.bars).filter (fun b => decide ((g.barrier b).completed < g.reached b))).map
      (fun b => Turn.own .barrier n b) ++ w.agenda }

/-- The machine once hart h has left its core: its leaderships released, its lanes returned. -/
def hartLeft (s : State) (h : Nat) : State :=
  let r := (releaseAll s h).setHartAt h .initial
  r.setCoreAt (h / 8) (dropLanes (r.coreAt (h / 8)) (h % 8))

/-- A core without a gang's local stores. -/
def storesLeft (v : State) (core : Nat) : State := v.setCoreAt core { v.coreAt core with holder := none, request := 0 }

theorem exitReady_of {m : Hart} (h1 : m.live = .running) (h2 : m.wait = some .exit) (h3 : ∀ t ∈ m.tickets, t.status ≠ none)
    (h4 : m.matrixQ = []) : exitReady m = true := by
  have ht : m.tickets.all (fun t => t.status.isSome) = true := by
    rw [List.all_eq_true]
    exact fun t h => Option.isSome_iff_ne_none.2 (h3 t h)
  simp [exitReady, h1, h2, ht, h4]

theorem memberExit_answers {s : State} {h : Nat} {g : Gang} (hg : mget? s.gangs (s.hartAt h).gang = some g)
    (hr : exitReady (s.hartAt h) = true) :
    let n := (s.hartAt h).gang
    let v := hartLeft s h
    let last := !(hartsOn v (h / 8)).any (fun x => x.2.gang == n)
    exec (.memberExit h) s = .next (gangLeft (if last && (v.coreAt (h / 8)).holder == some n then storesLeft v (h / 8) else v) n
      { g with exited := g.exited ++ [(s.hartAt h).memberIdx] }) := by
  intro n v last
  refine eventStep_some ?_
  simp only [hg, hr, Bool.not_true, Bool.false_eq_true, if_false]
  unfold gangLeft
  exact (apply_ite some _ _ _).symm

theorem lastOf_iff (v : State) (core n : Nat) :
    (!(hartsOn v core).any (fun x => x.2.gang == n)) = true ↔
      ∀ x ∈ v.allHarts, x.1 / 8 = core → x.1 < Config.stewardBase → x.2.live ≠ .free → x.2.gang ≠ n := by
  rw [Bool.not_eq_true', List.any_eq_false]
  simp only [hartsOn, List.mem_filter, Bool.and_eq_true, beq_iff_eq, bne_iff_ne, decide_eq_true_eq, and_imp]
  exact ⟨fun h x hx h1 h2 h3 => h x hx h1 h3 h2, fun h x hx h1 h3 h2 => h x hx h1 h2 h3⟩

end Machine
end Sys2Proof

open Sys2Proof Sys2Proof.Machine

/-- Settles O46: overdue launches, the launch placed next and what its gang comes to, cores that take none, and a member's exit. -/
theorem placements : Obligations.Placements := by
  intro s ctx c waiting overdue
  refine ⟨fun h => ?_, ?_, fun spec k x hx hk hl hc => coreRoom_foreign hx hk hl hc, ?_⟩
  · have ho : launchOverdue s = overdue := launchOverdue_eq s
    rw [← ho] at h ⊢
    exact launchWaitExpiry_answers h
  · intro l places pre post ready before notAfter cores hw hl h1 h2 h3 h4 h5 h6 h7 h8
    have hn : nextLaunch s ctx = some l := nextLaunch_eq hw hl h1 fun x hx hr => by
      have : notAfter x := h2 x hx hr
      simp only [notAfter] at this
      simp only [launchBefore]
      omega
    obtain ⟨e1, e2, e3, e4, e5, e6, e7⟩ := placeGang_spec (s := s) (ctx := ctx) (l := l) h4
    refine ⟨_, placedGang s ctx l places, gangPlacement_answers hn (placeOk_of h3 h4 h5 h6 h7 h8), ?_, rfl, rfl, rfl, rfl, rfl, rfl,
      rfl, rfl, fun x hx hc hlen => freshGid_fresh hx hc hlen, fun i k hk => ?_, e4, fun a ha => ?_, fun a ha => ?_, e2, e6, e7⟩
    · rw [e1, mget?_mset, if_pos rfl]
    · have hm := (numbered_spec places 0 []).1 i k hk
      rw [Nat.zero_add] at hm
      rw [e3 i k hk]
      exact ⟨hm, rfl, rfl, rfl, rfl, rfl, rfl, rfl, rfl, rfl, rfl, rfl, rfl, fun j => Vector.getElem_replicate _,
        memberHart_regs s ctx s.nextGang i l⟩
    · rw [e5, if_pos ha]
      exact takenCore_spec ctx s.nextGang (specSp l.spec) (s.coreAt a)
    · rw [e5, if_neg ha]
  · intro h g m core hg hl hw ht hq r k v alone out ends
    have e := memberExit_answers hg (exitReady_of hl hw ht hq)
    have hv : hartLeft s h = v := rfl
    have hk : (v.coreAt core).holder = k.holder := by
      rw [show v.coreAt core = dropLanes k (h % 8) from coreAt_setCoreAt_same r core _]
      rfl
    have hends : ∀ w, exec (.memberExit h) s = .next (gangLeft w m.gang { g with exited := out }) → ends w := by
      intro w hw
      refine ⟨fun hne => ?_, fun heq => ?_⟩
      · rw [hw, gangLeft, if_neg hne]
      · rw [hw, gangLeft, if_pos heq]
        obtain ⟨gid, gctx, size, cls, timed, lanes, sp, record, origin, members, exited, bars, launcher, root⟩ := g
        cases launcher <;> cases root <;> rfl
    rw [hv] at e
    refine ⟨fun ⟨ha, hh⟩ => hends _ ?_, fun hn => hends _ ?_⟩
    · rw [e, (lastOf_iff v core m.gang).2 ha, show (v.coreAt core).holder == some m.gang from by rw [hk, hh]; exact beq_self_eq_true _]
      rfl
    · have hb : (!(hartsOn v core).any (fun x => x.2.gang == m.gang) && (v.coreAt core).holder == some m.gang) = false := by
        rw [Bool.eq_false_iff, ne_eq, Bool.and_eq_true, lastOf_iff, beq_iff_eq, hk]
        exact hn
      rw [e, hb]
      rfl
end

section
/-! SUPPORT. A core that goes on with a context (R366, R367, R375): which harts go on, which lanes they wait for, and what local
stores come back. -/

namespace Sys2Proof
namespace Machine

/-- A hart of a context that goes on when a core comes to serve the context: it is stopped there, saved under the context's key. -/
def comesBack (s : State) (core ctx j : Nat) (h : Hart) : Prop :=
  onCore core ctx j h = true ∧ h.live = .stopped ∧ h.sealed = some (s.ctxAt ctx).key

/-- A saved image that comes back when a core comes to serve a context: its gang lives in the context, under whose key it is. -/
def imageOf (s : State) (ctx : Nat) (i : LocalImage) : Prop :=
  (mget? s.gangs i.gang).any (fun x => x.ctx == ctx) = true ∧ i.key = (s.ctxAt ctx).key

/-- A context for whose harts a core may go on. -/
def mayRun (s : State) (ctx : Nat) (k : Core) : Prop :=
  (s.ctxAt ctx).state = .run ∧ (s.ctxAt ctx).pending = [] ∧ k.retired = false

/-- What becomes of the core `k` when it comes to serve a context: the harts that go on in their lane wait wait again, and the first
image that is the context's comes back. -/
def ServesAgain (s : State) (core ctx : Nat) (k k' : Core) : Prop :=
  (∀ w, w ∈ k'.laneWait ↔ w ∈ k.laneWait ∨
    ∃ x ∈ s.allHarts, comesBack s core ctx x.1 x.2 ∧ x.2.wait = some .lanesClaim ∧ w = (x.1 % 8, s.gtime)) ∧
  (∀ pre i post, k.saved = pre ++ i :: post → (∀ x ∈ pre, ¬imageOf s ctx x) → imageOf s ctx i →
    k' = { k with
      serves := some ctx, moving := none, laneWait := k'.laneWait, holder := some i.gang, tenant := some ctx, request := i.request
      scratch := i.scratch, tags := i.tags, acc := i.acc, tflags := i.tflags, wbuf := i.wbuf, keep := i.keep
      dealExpert := i.dealExpert, dealRound := i.dealRound, dealRunning := i.dealRunning, dealSlot := i.dealSlot
      saved := k.saved.filter (fun x => x.gang != i.gang) }) ∧
  ((∀ i ∈ k.saved, ¬imageOf s ctx i) → k' = { k with serves := some ctx, moving := none, laneWait := k'.laneWait })

theorem resumable_iff (s : State) (core ctx j : Nat) (h : Hart) :
    resumable core ctx (s.ctxAt ctx).key j h = true ↔ comesBack s core ctx j h := by
  simp only [resumable, Bool.and_eq_true, beq_iff_eq, comesBack, and_assoc]

/-- Harts that join the waiting ones of a core, in their order. -/
theorem foldl_joinLaneWait (now : Nat) (l : List (Nat × Hart)) (k : Core) :
    l.foldl (fun k h => if h.2.wait == some .lanesClaim then joinLaneWait k (h.1 % 8) now else k) k = { k with
      laneWait := k.laneWait ++ (l.filter (fun h => h.2.wait == some .lanesClaim)).map (fun h => (h.1 % 8, now)) } := by
  induction l generalizing k with
  | nil => simp
  | cons x l ih =>
    rw [List.foldl_cons, ih]
    by_cases hx : (x.2.wait == some .lanesClaim) = true
    · simp [hx, joinLaneWait]
    · simp [hx]

/-- The core that comes to serve a context, its harts apart. -/
def backCore (s : State) (ctx : Nat) (k : Core) : Core :=
  let k := { k with serves := some ctx, moving := none }
  let back := k.saved.find? (fun i => i.key == (s.ctxAt ctx).key && (match mget? s.gangs i.gang with | some g => g.ctx == ctx | none => false))
  match back with | some i => putBack k ctx i | none => k

theorem imageOf_iff (s : State) (ctx : Nat) (i : LocalImage) :
    (i.key == (s.ctxAt ctx).key && (match mget? s.gangs i.gang with | some g => g.ctx == ctx | none => false)) = true ↔
      imageOf s ctx i := by
  rw [Bool.and_eq_true, imageOf, beq_iff_eq, and_comm]
  cases mget? s.gangs i.gang <;> rfl

theorem backCore_image {s : State} {ctx : Nat} {k : Core} {pre post : List LocalImage} {i : LocalImage}
    (hk : k.saved = pre ++ i :: post) (hp : ∀ x ∈ pre, ¬imageOf s ctx x) (hi : imageOf s ctx i) :
    backCore s ctx k = putBack { k with serves := some ctx, moving := none } ctx i := by
  have hf : k.saved.find? (fun i => i.key == (s.ctxAt ctx).key &&
      (match mget? s.gangs i.gang with | some g => g.ctx == ctx | none => false)) = some i := by
    rw [hk, List.find?_eq_some_iff_append]
    refine ⟨(imageOf_iff s ctx i).2 hi, pre, post, rfl, fun x hx => ?_⟩
    rw [Bool.not_eq_true', Bool.eq_false_iff]
    exact fun h => hp x hx ((imageOf_iff s ctx x).1 h)
  simp only [backCore, hf]

theorem backCore_none {s : State} {ctx : Nat} {k : Core} (h : ∀ i ∈ k.saved, ¬imageOf s ctx i) :
    backCore s ctx k = { k with serves := some ctx, moving := none } := by
  have hf : k.saved.find? (fun i => i.key == (s.ctxAt ctx).key &&
      (match mget? s.gangs i.gang with | some g => g.ctx == ctx | none => false)) = none := by
    rw [List.find?_eq_none]
    exact fun x hx hb => h x hx ((imageOf_iff s ctx x).1 hb)
  simp only [backCore, hf]

theorem backCore_laneWait (s : State) (ctx : Nat) (k : Core) :
    (backCore s ctx k).laneWait = k.laneWait ∧ (backCore s ctx k).lanes = k.lanes := by
  unfold backCore
  dsimp only
  split <;> exact ⟨rfl, rfl⟩

/-- The harts that go on, as `serveContext` lists them. -/
def backHarts (s : State) (core ctx : Nat) : List (Nat × Hart) :=
  s.allHarts.filter (fun h => resumable core ctx (s.ctxAt ctx).key h.1 h.2)

theorem serveContext_run {s : State} {core ctx : Nat} (h : mayRun s ctx (s.coreAt core)) :
    serveContext s core ctx = State.mapHarts
      (s.setCoreAt core ((backHarts s core ctx).foldl
        (fun k h => if h.2.wait == some .lanesClaim then joinLaneWait k (h.1 % 8) s.gtime else k) (backCore s ctx (s.coreAt core))))
      (fun j h => if resumable core ctx (s.ctxAt ctx).key j h then resumeHart s.gtime h else h) := by
  obtain ⟨h1, h2, h3⟩ := h
  have hb : ((s.ctxAt ctx).state != .run || !(s.ctxAt ctx).pending.isEmpty || (s.coreAt core).retired) = false := by
    rw [h1, h2, h3]
    decide
  unfold serveContext
  dsimp only
  rw [if_neg (by rw [hb]; decide)]
  rfl

theorem serveContext_idle {s : State} {core ctx : Nat} (h : ¬mayRun s ctx (s.coreAt core)) :
    serveContext s core ctx = s.setCoreAt core { s.coreAt core with serves := none, moving := none } := by
  have hb : ((s.ctxAt ctx).state != .run || !(s.ctxAt ctx).pending.isEmpty || (s.coreAt core).retired) = true := by
    by_contra hn
    rw [Bool.not_eq_true, Bool.or_eq_false_iff, Bool.or_eq_false_iff, bne_eq_false_iff_eq, Bool.not_eq_false', List.isEmpty_iff] at hn
    exact h ⟨hn.1.1, hn.1.2, hn.2⟩
  simp only [serveContext, hb, if_true]

/-- A hart that goes on (R366): the cycles for which it was stopped do not count. -/
def goesOn (s : State) (h : Hart) : Hart :=
  { h with live := .running, sealed := none, stripOpened := s.gtime - h.stripOpened, readySince := readyAt s.gtime }

/-- What a core's coming to serve a context does, where it may run. -/
theorem serveContext_spec {s : State} {core ctx : Nat} (h : mayRun s ctx (s.coreAt core)) :
    let t := serveContext s core ctx
    ServesAgain s core ctx (s.coreAt core) (t.coreAt core) ∧ (t.coreAt core).lanes = (s.coreAt core).lanes ∧
      (∀ j, (comesBack s core ctx j (s.hartAt j) → t.hartAt j = goesOn s (s.hartAt j)) ∧
        (¬comesBack s core ctx j (s.hartAt j) → t.hartAt j = s.hartAt j)) ∧
      (∀ c, c ≠ core → t.coreAt c = s.coreAt c) ∧ t = { s with hart := t.hart, harts := t.harts, cores := t.cores } := by
  rw [serveContext_run h, foldl_joinLaneWait]
  dsimp only
  have hc (k : Core) (f : Nat → Hart → Hart) (c : Nat) :
      ((s.setCoreAt core k).mapHarts f).coreAt c = if c = core then k else s.coreAt c := coreAt_setCoreAt s core c k
  obtain ⟨hw, hl⟩ := backCore_laneWait s ctx (s.coreAt core)
  refine ⟨?_, ?_, fun j => ?_, fun c hne => ?_, rfl⟩
  · rw [hc, if_pos rfl]
    refine ⟨fun w => ?_, fun pre i post hk hp hi => ?_, fun hn => ?_⟩
    · simp only [hw, List.mem_append, List.mem_map, List.mem_filter, backHarts, resumable_iff, beq_iff_eq]
      refine or_congr Iff.rfl ⟨?_, ?_⟩
      · rintro ⟨x, ⟨⟨hx, hb⟩, hwt⟩, rfl⟩
        exact ⟨x, hx, hb, hwt, rfl⟩
      · rintro ⟨x, hx, hb, hwt, rfl⟩
        exact ⟨x, ⟨⟨hx, hb⟩, hwt⟩, rfl⟩
    · rw [backCore_image hk hp hi]
      rfl
    · rw [backCore_none hn]
  · rw [hc, if_pos rfl]
    exact hl
  · have hi : (if resumable core ctx (s.ctxAt ctx).key j Hart.initial = true then resumeHart s.gtime .initial else .initial) =
        Hart.initial :=
      if_neg (fun hb => absurd ((resumable_iff s core ctx j _).1 hb).2.1 (by decide))
    have e (k : Core) := hartAt_mapHarts (s.setCoreAt core k)
      (fun j h => if resumable core ctx (s.ctxAt ctx).key j h then resumeHart s.gtime h else h) j hi
    refine ⟨fun hb => (e _).trans (if_pos ((resumable_iff s core ctx j _).2 hb)), fun hb => (e _).trans (if_neg ?_)⟩
    exact fun hr => hb ((resumable_iff s core ctx j _).1 hr)
  · rw [hc, if_neg hne]

end Machine
end Sys2Proof
end

section
/-! SUPPORT. A core's move to another context (R366, R398): the prefixes that its harts latch, the harts stopped, and the lanes
returned. -/

namespace Sys2Proof
namespace Machine

/-! ### Prefixes latched at a stop (R116) -/

theorem latchPrefix_free_le (s : State) : s.free ≤ (latchPrefix s).free := by
  unfold latchPrefix
  dsimp only
  split
  · split
    · exact Nat.le_refl _
    · split <;> exact Nat.le_succ _
  · exact Nat.le_refl _

/-- A hart that latches no prefix stays as it is. -/
theorem latchPrefix_hart (s : State) : (latchPrefix s).hart = s.hart ∨ (latchPrefix s).regs.pfxValid = true := by
  unfold latchPrefix
  dsimp only
  split
  · split
    · exact .inl rfl
    · split
      · exact .inr rfl
      · exact .inl rfl
  · exact .inl rfl

theorem latchPrefix_valid {s : State} (h : s.regs.pfxValid = true) : latchPrefix s = s := latchPrefix_none fun _ _ _ => .inr h

/-- Whether a stop may latch a prefix for a hart: at trap level 1 or 2, where it waits for nothing. -/
def mayLatch (h : Hart) : Prop := h.tl ≠ 0 ∧ h.wait = none

/-- The stop's boundary for hart j, before or after a prefix. -/
def latchAt (s : State) (j : Nat) : State :=
  if (s.hartAt j).tl ≠ 0 ∧ (s.hartAt j).wait = none then
    { s.setHartAt j (latchPrefix (s.asHart j)).hart with free := (latchPrefix (s.asHart j)).free }
  else s

/-- The machine `u` as boundaries of some harts have left it from `s`: free values are used up, and harts changed in their registers
alone. -/
def LatchedFrom (s u : State) : Prop :=
  s.free ≤ u.free ∧ (∀ i, u.hartAt i = { s.hartAt i with regs := (u.hartAt i).regs }) ∧
    u = { s with free := u.free, hart := u.hart, harts := u.harts }

/-- The boundary of hart j has been placed in `u`, in a machine in which the hart still stood as in `s`. -/
def LatchedAt (s : State) (j : Nat) (u : State) : Prop :=
  ∃ v, LatchedFrom s v ∧ v.hartAt j = s.hartAt j ∧ u.hartAt j = (latchPrefix (v.asHart j)).hart

theorem LatchedFrom.refl (s : State) : LatchedFrom s s := ⟨Nat.le_refl _, fun _ => rfl, rfl⟩

theorem LatchedFrom.mayLatch {s u : State} (h : LatchedFrom s u) (j : Nat) : mayLatch (u.hartAt j) ↔ mayLatch (s.hartAt j) := by
  rw [h.2.1 j]
  rfl

theorem latchAt_skips {u : State} {j : Nat} (h : ¬mayLatch (u.hartAt j)) : latchAt u j = u := if_neg h

theorem latchAt_latches {u : State} {j : Nat} (h : mayLatch (u.hartAt j)) :
    latchAt u j = { u.setHartAt j (latchPrefix (u.asHart j)).hart with free := (latchPrefix (u.asHart j)).free } := if_pos h

theorem latchAt_hartAt {u : State} {j : Nat} (h : mayLatch (u.hartAt j)) (i : Nat) :
    (latchAt u j).hartAt i = if i = j then (latchPrefix (u.asHart j)).hart else u.hartAt i := by
  rw [latchAt_latches h]
  exact hartAt_setHartAt u j i _

theorem latchAt_from {s u : State} (h : LatchedFrom s u) (j : Nat) : LatchedFrom s (latchAt u j) := by
  by_cases hm : mayLatch (u.hartAt j)
  · obtain ⟨h1, h2, h3⟩ := h
    have hl := latchAt_hartAt hm
    have hf := latchPrefix_frame (u.asHart j)
    have hh : (latchPrefix (u.asHart j)).hart = { u.hartAt j with regs := (latchPrefix (u.asHart j)).regs } := by
      rw [hf]
      rfl
    refine ⟨?_, fun i => ?_, ?_⟩
    · rw [latchAt_latches hm]
      exact Nat.le_trans h1 (latchPrefix_free_le (u.asHart j))
    · rw [hl]
      by_cases hi : i = j
      · subst hi
        rw [if_pos rfl, hh, h2 i]
      · rw [if_neg hi]
        exact h2 i
    · rw [latchAt_latches hm, setHartAt_frame, h3]
  · rw [latchAt_skips hm]
    exact h

theorem latchAt_at {s u : State} {i j : Nat} (hu : LatchedFrom s u) (hm : mayLatch (s.hartAt j))
    (h : u.hartAt j = s.hartAt j ∧ i = j ∨ LatchedAt s j u) : LatchedAt s j (latchAt u i) := by
  have hold : u.hartAt j = s.hartAt j → i = j → LatchedAt s j (latchAt u i) := by
    rintro he rfl
    exact ⟨u, hu, he, by rw [latchAt_hartAt ((hu.mayLatch i).2 hm), if_pos rfl]⟩
  rcases h with ⟨he, hi⟩ | ⟨v, hv, hvj, he⟩
  · exact hold he hi
  · by_cases hi : i = j
    · rcases latchPrefix_hart (v.asHart j) with hp | hp
      · -- no prefix was latched: the hart stands as in `s`, and its boundary is placed again
        exact hold ((he.trans hp).trans hvj) hi
      · -- a prefix was latched: another boundary comes after it
        subst hi
        refine ⟨v, hv, hvj, ?_⟩
        have hval : (u.asHart i).regs.pfxValid = true := by
          rw [← hp]
          exact congrArg (·.regs.pfxValid) he
        rw [latchAt_hartAt ((hu.mayLatch i).2 hm), if_pos rfl, latchPrefix_valid hval]
        exact he
    · refine ⟨v, hv, hvj, ?_⟩
      by_cases hmi : mayLatch (u.hartAt i)
      · rw [latchAt_hartAt hmi, if_neg (Ne.symm hi)]
        exact he
      · rw [latchAt_skips hmi]
        exact he

/-- What the boundaries of some harts leave: each may have latched its prefix, in a machine in which it still stood as it was. -/
theorem latchAll_spec {s : State} (keys : List Nat) {u : State} (hu : LatchedFrom s u)
    (hj : ∀ j, u.hartAt j = s.hartAt j ∨ mayLatch (s.hartAt j) ∧ LatchedAt s j u) :
    let t := keys.foldl latchAt u
    LatchedFrom s t ∧ (∀ j, j ∈ keys ∨ LatchedAt s j u → mayLatch (s.hartAt j) → LatchedAt s j t) ∧
      ∀ j, j ∉ keys ∨ ¬mayLatch (s.hartAt j) → t.hartAt j = u.hartAt j := by
  induction keys generalizing u with
  | nil => exact ⟨hu, fun j h _ => h.resolve_left (List.not_mem_nil), fun _ _ => rfl⟩
  | cons i keys ih =>
    have hkeep : ∀ j, j ≠ i ∨ ¬mayLatch (s.hartAt j) → (latchAt u i).hartAt j = u.hartAt j := by
      intro j h
      by_cases hm : mayLatch (u.hartAt i)
      · rw [latchAt_hartAt hm]
        refine if_neg ?_
        rintro rfl
        exact h.elim (fun h => h rfl) (fun h => h ((hu.mayLatch _).1 hm))
      · rw [latchAt_skips hm]
    have hat : ∀ j, (j = i ∨ LatchedAt s j u) → mayLatch (s.hartAt j) → LatchedAt s j (latchAt u i) := by
      intro j h hm
      refine latchAt_at hu hm ?_
      rcases hj j with h1 | ⟨-, h1⟩
      · rcases h with h | h
        · exact .inl ⟨h1, h.symm⟩
        · exact .inr h
      · exact .inr h1
    obtain ⟨h1, h2, h3⟩ := ih (latchAt_from hu i) (fun j => by
      by_cases hc : mayLatch (s.hartAt j) ∧ (j = i ∨ LatchedAt s j u)
      · exact .inr ⟨hc.1, hat j hc.2 hc.1⟩
      · have hne : j ≠ i ∨ ¬mayLatch (s.hartAt j) := by
          by_cases hm : mayLatch (s.hartAt j)
          · exact .inl fun e => hc ⟨hm, .inl e⟩
          · exact .inr hm
        rw [hkeep j hne]
        rcases hj j with h | ⟨hm, h⟩
        · exact .inl h
        · exact absurd ⟨hm, .inr h⟩ hc)
    refine ⟨h1, fun j h hm => ?_, fun j h => ?_⟩
    · rcases h with h | h
      · rcases List.mem_cons.1 h with rfl | h
        · exact h2 j (.inr (hat j (.inl rfl) hm)) hm
        · exact h2 j (.inl h) hm
      · exact h2 j (.inr (hat j (.inr h) hm)) hm
    · rcases h with h | h
      · rw [List.mem_cons, not_or] at h
        exact (h3 j (.inl h.2)).trans (hkeep j (.inl h.1))
      · exact (h3 j (.inr h)).trans (hkeep j (.inr h))

/-! ### The harts that stay listed -/

/-- An entry replaced in a keyed list: no other entry changes. -/
theorem mem_mset_other {α : Type} {m : Map α} {a : Nat} {y z : α} (Q : Nat × α → Prop) (h : mget? m a = some y) (hy : Q (a, y))
    (hz : Q (a, z)) {x : Nat × α} (hx : ¬Q x) : x ∈ mset m a z ↔ x ∈ m := by
  induction m with
  | nil => cases h
  | cons c t ih =>
    obtain ⟨k, v⟩ := c
    by_cases hk : a = k
    · subst hk
      have hv : v = y := by simpa [mget?] using h
      subst hv
      have h1 : x ≠ (a, z) := fun e => hx (e ▸ hz)
      have h2 : x ≠ (a, v) := fun e => hx (e ▸ hy)
      simp [mset, h1, h2]
    · by_cases hl : a < k
      · simp [mget?, hk, hl] at h
      · have h' : mget? t a = some y := by simpa [mget?, hk, hl] using h
        simp [mset, hk, hl, ih h']

/-- A hart that is there, changed: the others stay listed. -/
theorem mem_allHarts_setHartAt {s : State} {j : Nat} {h : Hart} (Q : Nat × Hart → Prop) (hi : s.hartAt j ≠ .initial)
    (h1 : Q (j, s.hartAt j)) (h2 : Q (j, h)) {x : Nat × Hart} (hx : ¬Q x) : x ∈ (s.setHartAt j h).allHarts ↔ x ∈ s.allHarts := by
  unfold State.setHartAt State.allHarts
  unfold State.hartAt at hi h1
  by_cases hj : j = s.cur
  · subst hj
    simp only [if_true] at h1 ⊢
    have e1 : x ≠ (s.cur, h) := fun e => hx (e ▸ h2)
    have e2 : x ≠ (s.cur, s.hart) := fun e => hx (e ▸ h1)
    simp only [List.mem_cons, e1, e2, false_or]
  · simp only [if_neg hj] at hi h1 ⊢
    cases hm : mget? s.harts j with
    | none => exact absurd (by rw [mgetD, hm]; rfl) hi
    | some y =>
      have hy : mgetD s.harts j .initial = y := by rw [mgetD, hm]; rfl
      rw [hy] at h1
      simp only [List.mem_cons, mem_mset_other Q hm h1 h2 hx]

theorem mem_allHarts_latchAt {u : State} {j : Nat} (Q : Nat × Hart → Prop) (hi : u.hartAt j ≠ .initial)
    (hq : ∀ r, Q (j, { u.hartAt j with regs := r })) {x : Nat × Hart} (hx : ¬Q x) : x ∈ (latchAt u j).allHarts ↔ x ∈ u.allHarts := by
  by_cases hm : mayLatch (u.hartAt j)
  · have hh : (latchPrefix (u.asHart j)).hart = { u.hartAt j with regs := (latchPrefix (u.asHart j)).regs } := by
      rw [latchPrefix_frame (u.asHart j)]
      rfl
    rw [latchAt_latches hm]
    exact mem_allHarts_setHartAt Q hi (hq (u.hartAt j).regs) (by rw [hh]; exact hq _) hx
  · rw [latchAt_skips hm]

theorem mem_allHarts_latchAll {s : State} (Q : Nat × Hart → Prop) (hQ : ∀ j h r, Q (j, h) → Q (j, { h with regs := r }))
    (keys : List Nat) (hk : ∀ j ∈ keys, Q (j, s.hartAt j) ∧ ∀ r, { s.hartAt j with regs := r } ≠ .initial) {u : State} (hu : LatchedFrom s u)
    {x : Nat × Hart} (hx : ¬Q x) : x ∈ (keys.foldl latchAt u).allHarts ↔ x ∈ u.allHarts := by
  induction keys generalizing u with
  | nil => rfl
  | cons j keys ih =>
    obtain ⟨h1, h2⟩ := hk j (.head _)
    have he := hu.2.1 j
    rw [List.foldl_cons, ih (fun i hi => hk i (.tail _ hi)) (latchAt_from hu j)]
    refine mem_allHarts_latchAt Q (by rw [he]; exact h2 _) (fun r => ?_) hx
    rw [he]
    exact hQ j (s.hartAt j) r h1

/-! ### Lanes returned -/

theorem foldl_dropLanes (slots : List Nat) (k : Core) :
    slots.foldl dropLanes k = { k with
      lanes := k.lanes.map (fun l => if l.any (fun j => slots.contains j) then none else l)
      laneWait := k.laneWait.filter (fun w => !slots.contains w.1) } := by
  induction slots generalizing k with
  | nil =>
    have hl : k.lanes.map (fun l => if l.any (fun j => ([] : List Nat).contains j) then none else l) = k.lanes := by
      apply Vector.ext
      intro i hi
      cases h : k.lanes[i] <;> simp [h]
    have hw : k.laneWait.filter (fun w => !([] : List Nat).contains w.1) = k.laneWait := by simp
    rw [hl, hw]
    rfl
  | cons j slots ih =>
    have hl : (k.lanes.map (fun l => if l = some j then none else l)).map
        (fun l => if l.any (fun i => slots.contains i) then none else l) =
        k.lanes.map (fun l => if l.any (fun i => (j :: slots).contains i) then none else l) := by
      apply Vector.ext
      intro i hi
      cases h : k.lanes[i] with
      | none => simp [h]
      | some x => by_cases hx : x = j <;> simp [h, hx]
    have hw : (k.laneWait.filter (fun w => w.1 ≠ j)).filter (fun w => !slots.contains w.1) =
        k.laneWait.filter (fun w => !(j :: slots).contains w.1) := by
      rw [List.filter_filter]
      congr 1
      funext w
      by_cases hx : w.1 = j <;> simp [hx]
    rw [List.foldl_cons, ih]
    simp only [dropLanes, hl, hw]

/-! ### Harts stopped (R47, R398) -/

/-- The wait that a stopped hart keeps, and whether its stop leaves its strip as it is. -/
def keptWait (h : Hart) : Option Wait := match h.wait with | some w => if waitKept w then some w else none | none => none
def keptStrip (h : Hart) : Bool := match h.wait with | some w => stripKept w | none => false

/-- What a stop leaves of a hart. -/
def StopsAs (s : State) (h h' : Hart) : Prop :=
  h'.live = .stopped ∧ h'.sealed = some (s.ctxAt h.ctx).key ∧ h'.undo = none ∧ h'.wait = keptWait h ∧
    (h.tl = 0 ∧ keptStrip h = false → h'.regs = discardRegs h h.regs ∧ h'.early = false ∧ h'.stripOpened = 0) ∧
    (h.tl ≠ 0 ∨ keptStrip h = true → h'.early = h.early ∧ h'.stripOpened = s.gtime - h.stripOpened ∧
      (∀ d x vl vr, h.wait = some (.lanesSetvl d x vl vr) →
        h'.regs = writeX { h.regs with pc := h.regs.pc - 4, vl := vl, vr := vr } d x) ∧
      ((∀ d x vl vr, h.wait ≠ some (.lanesSetvl d x vl vr)) → h'.regs = h.regs)) ∧
    h' = { h with
      live := .stopped, sealed := h'.sealed, undo := none, stripOpened := h'.stripOpened, wait := h'.wait, regs := h'.regs
      early := h'.early }

theorem beforeSetvl_other {r : Regs} {w : Option Wait} (h : ∀ d x vl vr, w ≠ some (.lanesSetvl d x vl vr)) : beforeSetvl r w = r := by
  unfold beforeSetvl
  split
  · exact absurd rfl (h _ _ _ _)
  · rfl

theorem stopHart_stops (s : State) (h : Hart) : StopsAs s h (stopHart s.gtime (s.ctxAt h.ctx).key h) := by
  by_cases hc : h.tl = 0 ∧ keptStrip h = false
  · have e : stopHart s.gtime (s.ctxAt h.ctx).key h = { h with
        live := .stopped, sealed := some (s.ctxAt h.ctx).key, undo := none, wait := keptWait h, early := false, stripOpened := 0
        regs := discardRegs h h.regs } := if_pos (by
      rw [Bool.and_eq_true, decide_eq_true_eq]
      exact ⟨hc.1, by rw [Bool.not_eq_true']; exact hc.2⟩)
    rw [e]
    refine ⟨rfl, rfl, rfl, rfl, fun _ => ⟨rfl, rfl, rfl⟩, fun hn => ?_, rfl⟩
    rcases hn with hn | hn
    · exact absurd hc.1 hn
    · rw [hc.2] at hn
      exact nomatch hn
  · have e : stopHart s.gtime (s.ctxAt h.ctx).key h = { h with
        live := .stopped, sealed := some (s.ctxAt h.ctx).key, undo := none, wait := keptWait h, stripOpened := s.gtime - h.stripOpened
        regs := beforeSetvl h.regs h.wait } := if_neg (by
      rw [Bool.and_eq_true, decide_eq_true_eq]
      exact fun hn => hc ⟨hn.1, by have := hn.2; rwa [Bool.not_eq_true'] at this⟩)
    rw [e]
    exact ⟨rfl, rfl, rfl, rfl, fun hn => absurd hn hc, fun _ => ⟨rfl, rfl, fun d x vl vr hw => by rw [hw]; rfl, beforeSetvl_other⟩, rfl⟩

end Machine
end Sys2Proof
end

section
/-! SUPPORT. CORE_SWITCH and LOCAL_STORE_SAVE, by the states that they leave (R366, R367). -/

namespace Sys2Proof
namespace Machine

/-! ### CORE_SWITCH -/

/-- Whether a hart is one of those that leave a core: it belongs to the context that the core serves. -/
def leaves (s : State) (core j : Nat) (h : Hart) : Bool :=
  match (s.coreAt core).serves with
  | some p => onCore core p j h
  | none => false

theorem leaves_iff {s : State} {core j : Nat} {h : Hart} :
    leaves s core j h = true ↔ ∃ p, (s.coreAt core).serves = some p ∧ onCore core p j h = true := by
  unfold leaves
  cases (s.coreAt core).serves <;> simp

theorem leaves_regs (s : State) (core j : Nat) (h : Hart) (r : Regs) : leaves s core j { h with regs := r } = leaves s core j h := rfl

theorem onCore_initial (core p j : Nat) (r : Regs) : onCore core p j { Hart.initial with regs := r } = false := by
  simp [onCore, Hart.initial]

theorem leaves_ctx {s : State} {core ctx j : Nat} {h : Hart} (hs : (s.coreAt core).serves ≠ some ctx) (h1 : leaves s core j h = true) :
    h.ctx ≠ ctx := by
  obtain ⟨p, hp, ho⟩ := leaves_iff.1 h1
  simp only [onCore, Bool.and_eq_true, beq_iff_eq] at ho
  rintro rfl
  exact hs (hp.trans (congrArg some ho.1.1.2.symm))

theorem comesBack_ctx {s : State} {core ctx j : Nat} {h : Hart} (hc : comesBack s core ctx j h) : h.ctx = ctx := by
  have := hc.1
  simp only [onCore, Bool.and_eq_true, beq_iff_eq] at this
  exact this.1.1.2

/-- The keys of the harts that leave a core, and their slots. -/
def leavingKeys (s : State) (core : Nat) : List Nat := (mkeys s.allHarts).filter (fun j => leaves s core j (s.hartAt j))

theorem mem_leavingKeys {s : State} {core j : Nat} : j ∈ leavingKeys s core ↔ leaves s core j (s.hartAt j) = true := by
  refine ⟨fun h => (List.mem_filter.1 h).2, fun h => List.mem_filter.2 ⟨?_, h⟩⟩
  rcases hartAt_mem s j with hm | hm
  · exact List.mem_map.2 ⟨_, hm, rfl⟩
  · obtain ⟨p, -, ho⟩ := leaves_iff.1 h
    rw [hm] at ho
    exact absurd ho (by rw [onCore_initial core p j Hart.initial.regs]; decide)

/-- The machine in which the harts that leave a core have latched prefixes. -/
def latched (s : State) (core : Nat) : State := (leavingKeys s core).foldl latchAt s

/-- The harts that leave a core stopped, and its lanes returned. -/
def stoppedHarts (s : State) (core : Nat) : State :=
  let v := latched s core
  let w := v.mapHarts (fun j h => if leaves s core j h then stopHart v.gtime (v.ctxAt h.ctx).key h else h)
  w.setCoreAt core (((leavingKeys s core).map (· % 8)).foldl dropLanes (w.coreAt core))

/-- A core on its move to a context. -/
def switching (s : State) (core ctx : Nat) : State :=
  (stoppedHarts s core).setCoreAt core { (stoppedHarts s core).coreAt core with moving := some ctx }

/-- What makes CORE_SWITCH possible (R361, R366). -/
theorem coreSwitch_answers {s : State} {core ctx : Nat} (h1 : (s.coreAt core).serves ≠ some ctx) (h2 : (s.coreAt core).moving = none)
    (h3 : (s.coreAt core).retired = false) (h4 : core < 768) (h5 : ctx < 64) (h6 : (s.ctxAt ctx).state = .run)
    (h7 : (s.ctxAt ctx).pending = []) (h8 : ∀ g ∈ s.gangs, g.2.timed = true → ∀ m ∈ g.2.members, m.2 / 8 ≠ core)
    (h9 : ∀ x ∈ s.allHarts, leaves s core x.1 x.2 = true → x.2.timed = false ∧ x.2.undo = none) :
    exec (.coreSwitch core ctx) s = .next (moveOn (switching s core ctx) core) := by
  have g1 : timedKept s core = false := by
    rw [timedKept, List.any_eq_false]
    intro g hg hb
    obtain ⟨ht, hm⟩ := Bool.and_eq_true_iff.1 hb
    obtain ⟨m, hm, he⟩ := List.any_eq_true.1 hm
    exact h8 g hg ht m hm (by simpa using he)
  have g2 : s.allHarts.any (fun h => leaves s core h.1 h.2 && (h.2.timed || h.2.undo.isSome)) = false := by
    rw [List.any_eq_false]
    intro x hx hb
    obtain ⟨hl, hu⟩ := Bool.and_eq_true_iff.1 hb
    obtain ⟨e1, e2⟩ := h9 x hx hl
    rw [e1, e2] at hu
    exact absurd hu (by decide)
  have g3 : ((s.coreAt core).serves == some ctx) = false := by simpa using h1
  have g4 : decide (Config.cores ≤ core) = false := decide_eq_false (Nat.not_le.2 h4)
  have g5 : decide (63 < ctx) = false := decide_eq_false (by omega)
  have g6 : ((s.ctxAt ctx).state != .run) = false := by rw [h6]; decide
  refine eventStep_some ?_
  dsimp only
  rw [if_neg]
  · rfl
  · change ¬((((s.coreAt core).serves == some ctx || (s.coreAt core).moving.isSome || (s.coreAt core).retired ||
      decide (Config.cores ≤ core) || decide (63 < ctx) || (s.ctxAt ctx).state != .run || !(s.ctxAt ctx).pending.isEmpty ||
      timedKept s core || s.allHarts.any (fun h => leaves s core h.1 h.2 && (h.2.timed || h.2.undo.isSome))) = true))
    rw [g1, g2, g3, g4, g5, g6, h2, h3, h7]
    decide

theorem latched_spec (s : State) (core : Nat) :
    LatchedFrom s (latched s core) ∧
      (∀ j, leaves s core j (s.hartAt j) = true → mayLatch (s.hartAt j) → LatchedAt s j (latched s core)) ∧
      ∀ j, leaves s core j (s.hartAt j) = false ∨ ¬mayLatch (s.hartAt j) → (latched s core).hartAt j = s.hartAt j := by
  obtain ⟨h1, h2, h3⟩ := latchAll_spec (leavingKeys s core) (LatchedFrom.refl s) (fun j => .inl rfl)
  refine ⟨h1, fun j hj hm => h2 j (.inl (mem_leavingKeys.2 hj)) hm, fun j hj => h3 j (hj.imp_left fun hj hm => ?_)⟩
  rw [mem_leavingKeys.1 hm] at hj
  exact nomatch hj

/-- What is left of each hart when a core's harts have stopped. -/
theorem switching_hartAt (s : State) (core ctx j : Nat) :
    (switching s core ctx).hartAt j = if leaves s core j (s.hartAt j)
      then stopHart s.gtime (s.ctxAt (s.hartAt j).ctx).key ((latched s core).hartAt j) else s.hartAt j := by
  obtain ⟨⟨-, h1, h2⟩, -, h3⟩ := latched_spec s core
  have hi : (if leaves s core j Hart.initial = true
      then stopHart (latched s core).gtime ((latched s core).ctxAt Hart.initial.ctx).key .initial else .initial) = Hart.initial := by
    refine if_neg fun hb => ?_
    obtain ⟨p, -, ho⟩ := leaves_iff.1 hb
    exact absurd ho (by rw [onCore_initial core p j Hart.initial.regs]; decide)
  have e : (switching s core ctx).hartAt j = _ := hartAt_mapHarts (latched s core)
    (fun j h => if leaves s core j h then stopHart (latched s core).gtime ((latched s core).ctxAt h.ctx).key h else h) j hi
  have hl : leaves s core j ((latched s core).hartAt j) = leaves s core j (s.hartAt j) := by rw [h1 j]; exact leaves_regs ..
  have hc : ((latched s core).hartAt j).ctx = (s.hartAt j).ctx := by rw [h1 j]
  have hg : (latched s core).gtime = s.gtime := by rw [h2]
  have hk : ∀ c, (latched s core).ctxAt c = s.ctxAt c := fun c => by rw [h2]; rfl
  rw [e, hl, hc, hg, hk]
  by_cases hb : leaves s core j (s.hartAt j) = true
  · rw [if_pos hb, if_pos hb]
  · rw [if_neg hb, if_neg hb, h3 j (.inl (by simpa using hb))]

theorem switching_frame (s : State) (core ctx : Nat) : switching s core ctx = { s with
    hart := (switching s core ctx).hart, harts := (switching s core ctx).harts, cores := (switching s core ctx).cores
    free := (switching s core ctx).free } := by
  obtain ⟨-, -, h2⟩ := (latched_spec s core).1
  unfold switching stoppedHarts
  generalize latched s core = v at h2 ⊢
  rw [h2]
  rfl

/-- The core on its move: its harts' lanes returned, and none of its harts waiting for lanes. -/
theorem switching_core (s : State) (core ctx : Nat) :
    (switching s core ctx).coreAt core = { s.coreAt core with
      lanes := (s.coreAt core).lanes.map
        (fun l => if l.any (fun j => ((leavingKeys s core).map (· % 8)).contains j) then none else l)
      laneWait := (s.coreAt core).laneWait.filter (fun w => !((leavingKeys s core).map (· % 8)).contains w.1)
      moving := some ctx } := by
  have h2 : (latched s core).coreAt core = s.coreAt core := by
    rw [(latched_spec s core).1.2.2]
    rfl
  have h1 : (stoppedHarts s core).coreAt core = ((leavingKeys s core).map (· % 8)).foldl dropLanes (s.coreAt core) := by
    refine (coreAt_setCoreAt_same _ core _).trans ?_
    exact congrArg (((leavingKeys s core).map (· % 8)).foldl dropLanes) h2
  refine (coreAt_setCoreAt_same _ core _).trans ?_
  rw [h1, foldl_dropLanes]

theorem switching_core_other (s : State) {core ctx c : Nat} (h : c ≠ core) : (switching s core ctx).coreAt c = s.coreAt c := by
  have h2 : (latched s core).coreAt c = s.coreAt c := by
    rw [(latched_spec s core).1.2.2]
    rfl
  exact (coreAt_setCoreAt_other _ _ h).trans ((coreAt_setCoreAt_other _ _ h).trans h2)

theorem stopHart_ctx (now : Nat) (key : BitVec 256) (h : Hart) : (stopHart now key h).ctx = h.ctx := by
  unfold stopHart
  rw [apply_ite Hart.ctx]
  exact ite_self _

theorem allHarts_mapHarts (s : State) (f : Nat → Hart → Hart) :
    (s.mapHarts f).allHarts = s.allHarts.map (fun x => (x.1, f x.1 x.2)) := rfl

/-- The harts of the context that a core moves to stay listed as they are. -/
theorem switching_listed {s : State} {core ctx : Nat} (hs : (s.coreAt core).serves ≠ some ctx) {x : Nat × Hart} (hx : x.2.ctx = ctx) :
    x ∈ (switching s core ctx).allHarts ↔ x ∈ s.allHarts := by
  have hn : ¬leaves s core x.1 x.2 = true := fun h => leaves_ctx hs h hx
  have hv : x ∈ (latched s core).allHarts ↔ x ∈ s.allHarts := by
    refine mem_allHarts_latchAll (fun y => leaves s core y.1 y.2 = true) (fun j h r hq => hq) _ (fun j hj => ?_) (LatchedFrom.refl s) hn
    have hl := mem_leavingKeys.1 hj
    refine ⟨hl, fun r he => ?_⟩
    obtain ⟨p, -, ho⟩ := leaves_iff.1 ((leaves_regs s core j (s.hartAt j) r).trans hl)
    rw [he] at ho
    exact absurd ho (by rw [onCore_initial core p j Hart.initial.regs]; decide)
  rw [← hv]
  change x ∈ ((latched s core).mapHarts (fun j h => if leaves s core j h
    then stopHart (latched s core).gtime ((latched s core).ctxAt h.ctx).key h else h)).allHarts ↔ _
  rw [allHarts_mapHarts, List.mem_map]
  constructor
  · rintro ⟨y, hy, rfl⟩
    by_cases hb : leaves s core y.1 y.2 = true
    · simp only [if_pos hb, stopHart_ctx] at hx
      exact absurd hx (leaves_ctx hs hb)
    · simpa only [if_neg hb] using hy
  · exact fun h => ⟨x, h, by rw [if_neg hn]⟩

/-! ### The move's end -/

theorem moveOn_holding {s : State} {core : Nat} (h : (s.coreAt core).holder ≠ none) : moveOn s core = s := by
  unfold moveOn
  split
  · next hh => exact absurd hh h
  · rfl

theorem moveOn_free {s : State} {core q : Nat} (h1 : (s.coreAt core).moving = some q) (h2 : (s.coreAt core).holder = none) :
    moveOn s core = serveContext s core q := by
  simp only [moveOn, h1, h2]

/-- What comes back to a core depends on what is listed for it alone. -/
theorem ServesAgain.congr {s z : State} {core ctx : Nat} {k k0 k' : Core} (h : ServesAgain z core ctx k k')
    (h1 : ∀ x : Nat × Hart, x.2.ctx = ctx → (x ∈ z.allHarts ↔ x ∈ s.allHarts)) (h2 : z.gtime = s.gtime)
    (h3 : z.ctxAt ctx = s.ctxAt ctx) (h4 : z.gangs = s.gangs) (h5 : k = { k0 with moving := k.moving }) :
    ServesAgain s core ctx k0 k' := by
  have hb : ∀ j x, comesBack z core ctx j x ↔ comesBack s core ctx j x := fun j x => by simp only [comesBack, h3]
  have hi : ∀ i, imageOf z ctx i ↔ imageOf s ctx i := fun i => by simp only [imageOf, h3, h4]
  obtain ⟨g1, g2, g3⟩ := h
  rw [h5] at g1 g2 g3
  refine ⟨fun w => (g1 w).trans (or_congr Iff.rfl ?_), fun pre i post hk hp hm => ?_, fun hn => ?_⟩
  · rw [h2]
    refine exists_congr fun x => ⟨fun ⟨a, b, c⟩ => ?_, fun ⟨a, b, c⟩ => ?_⟩
    · exact ⟨(h1 x (comesBack_ctx b)).1 a, (hb _ _).1 b, c⟩
    · exact ⟨(h1 x (comesBack_ctx b)).2 a, (hb _ _).2 b, c⟩
  · exact g2 pre i post hk (fun x hx => mt (hi x).1 (hp x hx)) ((hi i).2 hm)
  · exact g3 fun i hk => mt (hi i).1 (hn i hk)

/-! ### LOCAL_STORE_SAVE -/

/-- The image of a gang's local stores (R367). -/
def storesImage (s : State) (k : Core) (n : Nat) (g : Gang) : LocalImage :=
  { gang := n, key := (s.ctxAt g.ctx).key, request := k.request, scratch := k.scratch, tags := k.tags, acc := k.acc
    tflags := k.tflags, wbuf := k.wbuf, keep := k.keep, dealExpert := k.dealExpert, dealRound := k.dealRound
    dealRunning := k.dealRunning, dealSlot := k.dealSlot }

theorem localStoreSave_answers {s : State} {core q n : Nat} {g : Gang} (h1 : (s.coreAt core).moving = some q)
    (h2 : (s.coreAt core).holder = some n) (h3 : mget? s.gangs n = some g) (h4 : storesBusy s core = false) :
    exec (.localStoreSave core) s = .next (serveContext (s.setCoreAt core { emptyStores (s.coreAt core) with
      saved := (s.coreAt core).saved ++ [storesImage s (s.coreAt core) n g] }) core q) := by
  refine eventStep_some ?_
  dsimp only
  rw [h1, h2]
  simp only [h3, h4]
  rfl

end Machine
end Sys2Proof
end

section
/-! SUPPORT. One core cycle (R9, R301, R302, R309, R363, R364): the kitties, what is due, and what stays. -/

namespace Sys2Proof
namespace Machine

/-! ### Kitties (R301, R302) -/

/-- A kitty that can serve nothing more. -/
def Kitty.Stuck (k : Kitty) : Prop := ∀ n, Kitty.serve n k = ([], k)

theorem Kitty.stuck_of_next {k : Kitty} (h : ∀ i, k.next? = some i → k.waiting[i]? = none) : k.Stuck := by
  intro n
  cases n with
  | zero => rfl
  | succ n =>
    unfold Kitty.serve
    split
    · rfl
    · next i hi => rw [h i hi]

/-- A kitty that has served as often as operations waited can serve nothing more. -/
theorem Kitty.serve_stuck {n : Nat} {k : Kitty} (h : k.waiting.length ≤ n) : (Kitty.serve n k).2.Stuck := by
  induction n generalizing k with
  | zero =>
    have hw : k.waiting = [] := List.eq_nil_of_length_eq_zero (by omega)
    refine Kitty.stuck_of_next fun i _ => ?_
    change k.waiting[i]? = none
    rw [hw]
    rfl
  | succ n ih =>
    unfold Kitty.serve
    split
    · next hn => exact Kitty.stuck_of_next fun i hi => by rw [hn] at hi; cases hi
    · next i hi =>
      split
      · next hw => exact Kitty.stuck_of_next fun j hj => by rw [hi] at hj; cases hj; exact hw
      · next o hw =>
        have hlt : i < k.waiting.length := (List.getElem?_eq_some_iff.1 hw).1
        refine ih ?_
        simp only [Kitty.spend, List.length_eraseIdx_of_lt hlt]
        omega

/-- What a kitty serves, as far as it can, and what is left of it. -/
def Kitty.served (k : Kitty) : List StackOp × Kitty := Kitty.serve k.waiting.length k

theorem Kitty.served_again (k : Kitty) : k.served.2.served = ([], k.served.2) := Kitty.serve_stuck (Nat.le_refl _) _

theorem Kitty.served_initial : Kitty.initial.served = ([], Kitty.initial) := rfl

theorem refillAt_initial (step : Nat) : refillAt step .initial = .initial := by
  simp [refillAt, Kitty.initial]

/-- Whether what a kitty has served leaves a pseudo-channel's handler paid: it served one of its operations, and none waits. -/
def Kitty.pays (d : List StackOp × Kitty) (p : Nat) : Prop :=
  (∃ o ∈ d.1, o.chan = some p) ∧ ∀ o ∈ d.2.waiting, o.chan ≠ some p

/-- A pseudo-channel whose handler has paid. -/
def Chan.paid (c : Chan) : Chan := { c with run := c.run.map (fun r => { r with paid := true }) }

theorem Chan.paid_paid (c : Chan) : c.paid.paid = c.paid := by
  unfold Chan.paid
  cases c.run <;> rfl

theorem chanAt_markPaid (s : State) (p q : Nat) : (s.markPaid p).chanAt q = if q = p then (s.chanAt p).paid else s.chanAt q :=
  mgetD_mset _ _ _ _ _

theorem foldl_markPaid (b : Nat → Bool) (l : List Nat) (s : State) :
    let t := l.foldl (fun s p => if b p then s else s.markPaid p) s
    t = { s with chans := t.chans } ∧ ∀ p, (p ∈ l ∧ b p = false → t.chanAt p = (s.chanAt p).paid) ∧
      (¬(p ∈ l ∧ b p = false) → t.chanAt p = s.chanAt p) := by
  induction l generalizing s with
  | nil => exact ⟨rfl, fun p => ⟨fun h => absurd h.1 List.not_mem_nil, fun _ => rfl⟩⟩
  | cons q l ih =>
    by_cases hq : b q = true
    · obtain ⟨h1, h2⟩ := ih s
      simp only [List.foldl_cons, hq, if_true]
      refine ⟨h1, fun p => ?_⟩
      have : (p ∈ q :: l ∧ b p = false) ↔ (p ∈ l ∧ b p = false) := by
        refine ⟨fun ⟨h, hb⟩ => ⟨?_, hb⟩, fun ⟨h, hb⟩ => ⟨.tail _ h, hb⟩⟩
        rcases List.mem_cons.1 h with rfl | h
        · rw [hq] at hb; cases hb
        · exact h
      rw [this]
      exact h2 p
    · obtain ⟨h1, h2⟩ := ih (s.markPaid q)
      simp only [List.foldl_cons, if_neg hq]
      refine ⟨h1, fun p => ?_⟩
      obtain ⟨h3, h4⟩ := h2 p
      have hc := chanAt_markPaid s q p
      by_cases hp : p = q
      · subst hp
        rw [if_pos rfl] at hc
        rw [hc] at h3 h4
        refine ⟨fun _ => ?_, fun hn => absurd ⟨.head _, by simpa using hq⟩ hn⟩
        by_cases hl : p ∈ l ∧ b p = false
        · rw [h3 hl, Chan.paid_paid]
        · exact h4 hl
      · rw [if_neg hp] at hc
        rw [hc] at h3 h4
        have : (p ∈ q :: l ∧ b p = false) ↔ (p ∈ l ∧ b p = false) := by simp only [List.mem_cons, hp, false_or]
        rw [this]
        exact ⟨h3, h4⟩

theorem kittyAt_setKitty (s : State) (st p : Nat) (k : Kitty) : (s.setKitty st k).kittyAt p = if p = st then k else s.kittyAt p :=
  mgetD_mset _ _ _ _ _

/-- What a stack's kitty serves: it alone, and the runs of handlers, change. -/
theorem serveStack_spec (s : State) (st : Nat) :
    let t := s.serveStack st
    let d := (s.kittyAt st).served
    t = { s with kitties := t.kitties, chans := t.chans } ∧ (∀ p, t.kittyAt p = if p = st then d.2 else s.kittyAt p) ∧
      ∀ p, (Kitty.pays d p → t.chanAt p = (s.chanAt p).paid) ∧ (¬Kitty.pays d p → t.chanAt p = s.chanAt p) := by
  intro t d
  obtain ⟨h1, h2⟩ := foldl_markPaid (fun p => d.2.waiting.any (fun o => o.chan == some p)) (d.1.filterMap (fun o => o.chan))
    (s.setKitty st d.2)
  change t = _ at h1
  have hp : ∀ p, (p ∈ d.1.filterMap (fun o => o.chan) ∧ d.2.waiting.any (fun o => o.chan == some p) = false) ↔ Kitty.pays d p := by
    intro p
    simp [Kitty.pays, List.any_eq_false]
  refine ⟨?_, fun p => ?_, fun p => ?_⟩
  · rw [h1]; rfl
  · rw [h1]
    exact kittyAt_setKitty s st p d.2
  · rw [← hp p]
    exact h2 p

/-- The machine `u` once the stacks of `P` have served, from `s`. -/
def StacksServed (s : State) (P : Nat → Prop) (u : State) : Prop :=
  u = { s with kitties := u.kitties, chans := u.chans } ∧
    (∀ st, (P st → u.kittyAt st = (s.kittyAt st).served.2) ∧ (¬P st → u.kittyAt st = s.kittyAt st)) ∧
    ∀ p, ((∃ st, P st ∧ Kitty.pays (s.kittyAt st).served p) → u.chanAt p = (s.chanAt p).paid) ∧
      ((¬∃ st, P st ∧ Kitty.pays (s.kittyAt st).served p) → u.chanAt p = s.chanAt p)

theorem not_pays_nothing (k : Kitty) (p : Nat) : ¬Kitty.pays ([], k) p := fun h => by
  obtain ⟨⟨o, ho, -⟩, -⟩ := h
  cases ho

theorem StacksServed.step {s u : State} {P : Nat → Prop} (h : StacksServed s P u) (st : Nat) :
    StacksServed s (fun x => x = st ∨ P x) (u.serveStack st) := by
  obtain ⟨h1, h2, h3⟩ := h
  obtain ⟨g1, g2, g3⟩ := serveStack_spec u st
  by_cases hP : P st
  · -- a stack that has served before serves nothing more
    have hk : (u.kittyAt st).served = ([], (s.kittyAt st).served.2) := by rw [(h2 st).1 hP]; exact Kitty.served_again _
    have hsame : ∀ x, (x = st ∨ P x) ↔ P x := fun x => or_iff_right_of_imp (fun e => e ▸ hP)
    simp only [hsame]
    rw [hk] at g2 g3
    refine ⟨by rw [g1, h1], fun x => ?_, fun p => ?_⟩
    · have hx : (u.serveStack st).kittyAt x = u.kittyAt x := by
        rw [g2 x]
        split
        · next e => rw [e]; exact ((h2 st).1 hP).symm
        · rfl
      rw [hx]
      exact h2 x
    · rw [(g3 p).2 (not_pays_nothing _ p)]
      exact h3 p
  · have hk : u.kittyAt st = s.kittyAt st := (h2 st).2 hP
    rw [hk] at g2 g3
    refine ⟨by rw [g1, h1], fun x => ?_, fun p => ?_⟩
    · by_cases hx : x = st
      · subst hx
        exact ⟨fun _ => by rw [g2, if_pos rfl], fun hn => absurd (.inl rfl) hn⟩
      · rw [g2, if_neg hx]
        simp only [hx, false_or]
        exact h2 x
    · obtain ⟨g4, g5⟩ := g3 p
      obtain ⟨h4, h5⟩ := h3 p
      by_cases hp : Kitty.pays (s.kittyAt st).served p
      · refine ⟨fun _ => ?_, fun hn => absurd ⟨st, .inl rfl, hp⟩ hn⟩
        rw [g4 hp]
        by_cases he : ∃ st, P st ∧ Kitty.pays (s.kittyAt st).served p
        · rw [h4 he, Chan.paid_paid]
        · rw [h5 he]
      · have hiff : (∃ x, (x = st ∨ P x) ∧ Kitty.pays (s.kittyAt x).served p) ↔ ∃ x, P x ∧ Kitty.pays (s.kittyAt x).served p := by
          refine exists_congr fun x => and_congr_left fun hx => or_iff_right_of_imp ?_
          rintro rfl
          exact absurd hx hp
        rw [hiff, g5 hp]
        exact ⟨h4, h5⟩

theorem stacksServed_all {s : State} (l : List Nat) {u : State} {P : Nat → Prop} (h : StacksServed s P u) :
    StacksServed s (fun x => x ∈ l ∨ P x) (l.foldl State.serveStack u) := by
  induction l generalizing u P with
  | nil => simpa using h
  | cons st l ih =>
    have := ih (h.step st)
    simpa only [List.mem_cons, or_assoc, or_left_comm, List.foldl_cons] using this

theorem mget?_none_of_notMem {α : Type} {m : Map α} {a : Nat} (h : a ∉ mkeys m) : mget? m a = none := by
  cases hm : mget? m a with
  | none => rfl
  | some x => exact absurd (List.mem_map.2 ⟨_, mem_of_mget? hm, rfl⟩) h

/-- Every kitty refilled, and served as far as it goes (R301, R302). -/
theorem refillAll_spec (s : State) :
    let t := refillAll s
    let done := fun st => (refillAt s.dev.throttleStep.toNat (s.kittyAt st)).served
    t = { s with kitties := t.kitties, chans := t.chans } ∧ (∀ p, t.kittyAt p = (done p).2) ∧
      ∀ p, ((∃ st, Kitty.pays (done st) p) → t.chanAt p = (s.chanAt p).paid) ∧
        ((¬∃ st, Kitty.pays (done st) p) → t.chanAt p = s.chanAt p) := by
  intro t done
  let u : State := { s with kitties := mmap (fun _ k => refillAt s.dev.throttleStep.toNat k) s.kitties }
  have hu : ∀ st, u.kittyAt st = refillAt s.dev.throttleStep.toNat (s.kittyAt st) := fun st =>
    mgetD_mmap (fun _ k => refillAt s.dev.throttleStep.toNat k) s.kitties st .initial (refillAt_initial _)
  have h0 : StacksServed u (fun _ => False) u := ⟨rfl, fun _ => ⟨fun h => h.elim, fun _ => rfl⟩,
    fun p => ⟨fun ⟨_, h, _⟩ => h.elim, fun _ => rfl⟩⟩
  obtain ⟨h1, h2, h3⟩ := stacksServed_all (mkeys u.kitties) h0
  change t = _ at h1
  simp only [or_false] at h2 h3
  have habs : ∀ st, st ∉ mkeys u.kitties → u.kittyAt st = .initial := fun st hst => by
    rw [State.kittyAt, mgetD, mget?_none_of_notMem hst]
    rfl
  refine ⟨?_, fun p => ?_, fun p => ?_⟩
  · rw [h1]
  · change t.kittyAt p = (refillAt s.dev.throttleStep.toNat (s.kittyAt p)).served.2
    rw [← hu p]
    by_cases hp : p ∈ mkeys u.kitties
    · exact (h2 p).1 hp
    · refine ((h2 p).2 hp).trans ?_
      rw [habs p hp, Kitty.served_initial]
  · have hiff : (∃ st, Kitty.pays (done st) p) ↔ ∃ st, st ∈ mkeys u.kitties ∧ Kitty.pays (u.kittyAt st).served p := by
      refine exists_congr fun st => ?_
      rw [show done st = (u.kittyAt st).served by rw [hu]]
      refine ⟨fun h => ⟨?_, h⟩, fun h => h.2⟩
      by_contra hn
      rw [habs st hn, Kitty.served_initial] at h
      exact not_pays_nothing _ p h
    rw [hiff]
    exact h3 p

/-! ### What is due (R44, R45, R24, R309) -/

theorem waitt_due {s : State} {h w : Nat} {x : Hart} (hx : (h, x) ∈ s.allHarts) (hl : x.live = .running)
    (hw : x.wait = some (.time w)) (ht : w ≤ s.gtime) : Turn.own .waitt h 0 ∈ dueTurns s := by
  have : Turn.own .waitt h 0 ∈ (liveHarts s).filterMap (fun h => match h.2.wait with
      | some (.time t) => if t ≤ s.gtime then some (Turn.own .waitt h.1 0) else none
      | _ => none) :=
    List.mem_filterMap.2 ⟨(h, x), List.mem_filter.2 ⟨hx, by simp [hl]⟩, by simp [hw, ht]⟩
  simp only [dueTurns, List.mem_append]
  exact .inl (.inl (.inl (.inl (.inl (.inl (.inl this))))))

theorem sendt_due {s : State} {i w : Nat} {x : Transfer} (hx : s.transfers[i]? = some x) (hw : x.due = some w)
    (ht : w ≤ s.gtime) : Turn.own .sendt i 0 ∈ dueTurns s := by
  have : Turn.own .sendt i 0 ∈ (s.transfers.zipIdx.filterMap (fun t => match t.1.due with
      | some d => if d ≤ s.gtime then some (Turn.own .sendt t.2 0) else none
      | none => none)).reverse :=
    List.mem_reverse.2 (List.mem_filterMap.2 ⟨(x, i), List.mem_zipIdx_iff_getElem?.2 hx, by simp [hw, ht]⟩)
  simp only [dueTurns, List.mem_append]
  exact .inl (.inl (.inl (.inl (.inl (.inl (.inr this))))))

theorem laneGrant_due {s : State} {c : Nat} (hc : c ∈ mkeys s.cores) (hw : (s.coreAt c).laneWait ≠ []) :
    Turn.own .laneGrant c 0 ∈ dueTurns s := by
  have : Turn.own .laneGrant c 0 ∈ (coreList s).flatMap
      (fun c => List.replicate (s.coreAt c).laneWait.length (Turn.own .laneGrant c 0)) :=
    List.mem_flatMap.2 ⟨c, hc, List.mem_replicate.2 ⟨fun h => hw (List.eq_nil_of_length_eq_zero h), rfl⟩⟩
  simp only [dueTurns, List.mem_append]
  exact .inl (.inl (.inl (.inl (.inr this))))

theorem recalibrate_due {s : State} {c h tile a : Nat} {x : Ctx} {y : Handle} {v : Version} (hx : (c, x) ∈ s.ctxs)
    (hy : (h, y) ∈ x.handles) (hv : y.cur = some v) (ha : v.arrays[tile]? = some a) (hd : calibrationDue s a = true) :
    Turn.own .recalibrate (c + 64 * h) tile ∈ dueTurns s := by
  have : Turn.own .recalibrate (c + 64 * h) tile ∈ s.ctxs.flatMap (fun c => c.2.handles.flatMap (fun h => match h.2.cur with
      | some v => ((span 0 v.arrays.length).filter (fun t => calibrationDue s (v.arrays.getD t 0))).map
          (fun t => Turn.own .recalibrate (c.1 + 64 * h.1) t)
      | none => [])) := by
    refine List.mem_flatMap.2 ⟨(c, x), hx, List.mem_flatMap.2 ⟨(h, y), hy, ?_⟩⟩
    simp only [hv]
    refine List.mem_map.2 ⟨tile, List.mem_filter.2 ⟨mem_span.2 ⟨Nat.zero_le _, ?_⟩, ?_⟩, rfl⟩
    · rw [Nat.zero_add]
      exact (List.getElem?_eq_some_iff.1 ha).1
    · rw [List.getD_eq_getElem?_getD, ha]
      exact hd
  simp only [dueTurns, List.mem_append]
  exact .inl (.inl (.inr this))

/-! ### Arrays calibrated where they stand (R309) -/

/-- Whether an array belongs to a current version. -/
def inVersion (s : State) (a : Nat) : Bool :=
  s.ctxs.any (fun c => c.2.handles.any (fun h => h.2.cur.any (fun v => v.arrays.contains a)))

theorem calibrateIdle_eq (s : State) : calibrateIdle s =
    mmap (fun a w => if calibrationDue s a && !inVersion s a then { w with calibrated := s.gtime } else w) s.warrays := rfl

theorem calibrateIdle_some {s : State} {a : Nat} {w : WArray} (h : mget? (calibrateIdle s) a = some w) :
    ∃ v, mget? s.warrays a = some v ∧ (w = v ∨ w = { v with calibrated := s.gtime } ∧ v.failed = false ∧
      v.calibrated + calibrationCycles ≤ s.gtime) := by
  rw [calibrateIdle_eq, mget?_mmap] at h
  obtain ⟨v, hv, rfl⟩ := Option.map_eq_some_iff.1 h
  refine ⟨v, hv, ?_⟩
  by_cases hb : (calibrationDue s a && !inVersion s a) = true
  · rw [if_pos hb]
    have hd := (Bool.and_eq_true_iff.1 hb).1
    have hm : mgetD s.warrays a .initial = v := by rw [mgetD, hv]; rfl
    simp only [calibrationDue, hm, Bool.and_eq_true, Bool.not_eq_true', decide_eq_true_eq] at hd
    exact .inr ⟨rfl, hd.1, hd.2⟩
  · exact .inl (if_neg hb)

/-- An array of a current version is left to its recalibration. -/
theorem calibrateIdle_current {s : State} {a : Nat} (h : inVersion s a = true) :
    mgetD (calibrateIdle s) a .initial = mgetD s.warrays a .initial := by
  have hb : ∀ w : WArray, (if calibrationDue s a && !inVersion s a then { w with calibrated := s.gtime } else w) = w := fun w =>
    if_neg (by rw [h, Bool.not_true, Bool.and_false]; decide)
  rw [calibrateIdle_eq]
  exact (mgetD_mmap _ s.warrays a .initial (hb _)).trans (hb _)

/-! ### Issue (R364) -/

/-- Issue uses up free values and notes services. -/
theorem issueAll_spec (cs : List Nat) (s : State) :
    let t := (issueAll cs s).1
    t = { s with free := t.free, cores := t.cores } ∧
      ∀ c, t.coreAt c = { s.coreAt c with servedVec := (t.coreAt c).servedVec, servedOther := (t.coreAt c).servedOther } := by
  induction cs generalizing s with
  | nil => exact ⟨rfl, fun _ => rfl⟩
  | cons c cs ih =>
    let r : State := { s with free := s.free + (readyHarts s c).length }
    obtain ⟨v, o, he⟩ : ∃ v o, (issueFrom r c (drainedFrom s.free (readyHarts s c))).1 =
        r.setCoreAt c { r.coreAt c with servedVec := v, servedOther := o } := ⟨_, _, rfl⟩
    obtain ⟨h1, h2⟩ := ih (r.setCoreAt c { r.coreAt c with servedVec := v, servedOther := o })
    have ht : (issueAll (c :: cs) s).1 = (issueAll cs (r.setCoreAt c { r.coreAt c with servedVec := v, servedOther := o })).1 := by
      rw [← he]
      rfl
    intro t
    rw [show t = _ from ht]
    refine ⟨by rw [h1]; rfl, fun d => ?_⟩
    rw [h2 d, coreAt_setCoreAt]
    by_cases hd : d = c
    · rw [if_pos hd, hd]; rfl
    · rw [if_neg hd]; rfl

/-! ### The cycle -/

/-- The machine in which a cycle's turns are decided: time has advanced, kitties have served, launches and arrays are noted. -/
def cycleStart (s : State) : State :=
  let a := refillAll { s with gtime := s.gtime + 1 }
  { a with ctxs := mmap (fun _ c => markEligible a c) a.ctxs, warrays := calibrateIdle a }

/-- The same once the values that choose among agents are used up. -/
def cycleDrawn (s : State) : State := { cycleStart s with free := (cycleStart s).free + (openTurns (cycleStart s)).length }

/-- The machine after issue, and the convoys issued. -/
def cycleIssued (s : State) : State × List Turn := issueAll (coreList (cycleDrawn s)) (cycleDrawn s)

/-- The turns that a cycle adds to the agenda. -/
def cycleTurns (s : State) : List Turn :=
  dueTurns (cycleStart s) ++ ((Config.outside (cycleIssued s).1.gtime).filter outsideEvent).map Turn.event ++
    chosenFrom (cycleStart s).free (openTurns (cycleStart s)) ++ (cycleIssued s).2

theorem coreCycle_answers (s : State) :
    exec .coreCycle s = .next { (cycleIssued s).1 with agenda := (cycleIssued s).1.agenda ++ cycleTurns s } := by
  have h : exec .coreCycle s = .next { (cycleIssued s).1 with
      agenda := (cycleIssued s).1.agenda ++ dueTurns (cycleStart s) ++
        ((Config.outside (cycleIssued s).1.gtime).filter outsideEvent).map Turn.event ++
        chosenFrom (cycleStart s).free (openTurns (cycleStart s)) ++ (cycleIssued s).2 } := rfl
  rw [h, cycleTurns]
  simp only [List.append_assoc]

end Machine
end Sys2Proof
end

section
/-! CERTIFICATES. Core switches and the passing of a cycle (O48). -/

namespace Sys2Proof
namespace Machine

/-! ### A switch's end, on either path -/

/-- Where the core's local stores are held, the switch waits for their save (R367). -/
theorem switched_holding {s : State} {core ctx : Nat} (h : (s.coreAt core).holder ≠ none) :
    moveOn (switching s core ctx) core = switching s core ctx :=
  moveOn_holding (by rw [switching_core]; exact h)

theorem switching_mayRun {s : State} {core ctx : Nat} (h1 : (s.ctxAt ctx).state = .run) (h2 : (s.ctxAt ctx).pending = [])
    (h3 : (s.coreAt core).retired = false) : mayRun (switching s core ctx) ctx ((switching s core ctx).coreAt core) := by
  have hc : (switching s core ctx).ctxAt ctx = s.ctxAt ctx := by rw [switching_frame]; rfl
  rw [mayRun, hc, switching_core]
  exact ⟨h1, h2, h3⟩

theorem switched_free {s : State} {core ctx : Nat} (h : (s.coreAt core).holder = none) :
    moveOn (switching s core ctx) core = serveContext (switching s core ctx) core ctx :=
  moveOn_free (by rw [switching_core]) (by rw [switching_core]; exact h)

theorem comesBack_switching {s : State} {core ctx j : Nat} {h : Hart} :
    comesBack (switching s core ctx) core ctx j h ↔ comesBack s core ctx j h := by
  have hc : (switching s core ctx).ctxAt ctx = s.ctxAt ctx := by rw [switching_frame]; rfl
  simp only [comesBack, hc]

/-- What a switch leaves, whether it waits for the local stores or goes on: the harts of the core that leave it are those of
`switching`; so are the lanes, the other cores, and the rest of the machine. -/
theorem switched_spec {s : State} {core ctx : Nat} (hs : (s.coreAt core).serves ≠ some ctx) (h1 : (s.ctxAt ctx).state = .run)
    (h2 : (s.ctxAt ctx).pending = []) (h3 : (s.coreAt core).retired = false) :
    let t := moveOn (switching s core ctx) core
    (∀ j, leaves s core j (s.hartAt j) = true → t.hartAt j = (switching s core ctx).hartAt j) ∧
      (t.coreAt core).lanes = ((switching s core ctx).coreAt core).lanes ∧ (∀ c, c ≠ core → t.coreAt c = s.coreAt c) ∧
      t = { s with hart := t.hart, harts := t.harts, cores := t.cores, free := t.free } := by
  intro t
  by_cases hh : (s.coreAt core).holder = none
  · obtain ⟨-, g2, g3, g4, g5⟩ := serveContext_spec (switching_mayRun h1 h2 h3)
    rw [← switched_free hh] at g2 g3 g4 g5
    change t = _ at g5
    have hf : t.free = (switching s core ctx).free := by rw [g5]
    refine ⟨fun j hj => (g3 j).2 fun hc => ?_, g2, fun c hc => (g4 c hc).trans (switching_core_other s hc), ?_⟩
    · have hx := comesBack_ctx hc
      rw [switching_hartAt, if_pos hj, stopHart_ctx, (latched_spec s core).1.2.1 j] at hx
      exact leaves_ctx hs hj hx
    · rw [hf]
      exact g5.trans (congrArg (fun w : State => { w with hart := t.hart, harts := t.harts, cores := t.cores })
        (switching_frame s core ctx))
  · have e : t = switching s core ctx := switched_holding hh
    rw [e]
    exact ⟨fun _ _ => rfl, rfl, fun c hc => switching_core_other s hc, switching_frame s core ctx⟩

/-- A hart that leaves a core stops as it stands, or after the prefix that its boundary has latched. -/
theorem switching_stops {s : State} {core ctx j : Nat} (hj : leaves s core j (s.hartAt j) = true) :
    ∃ u, (LatchedFrom s u ∧ u.hartAt j = s.hartAt j) ∧
      StopsAs s (if (s.hartAt j).tl ≠ 0 ∧ (s.hartAt j).wait = none then (latchPrefix (u.asHart j)).hart else s.hartAt j)
        ((switching s core ctx).hartAt j) := by
  obtain ⟨g1, g2, g3⟩ := latched_spec s core
  have hc : ((latched s core).hartAt j).ctx = (s.hartAt j).ctx := by rw [g1.2.1 j]
  have hst := stopHart_stops s ((latched s core).hartAt j)
  rw [hc] at hst
  rw [switching_hartAt, if_pos hj]
  by_cases hm : mayLatch (s.hartAt j)
  · obtain ⟨u, hu, huj, he⟩ := g2 j hj hm
    refine ⟨u, ⟨hu, huj⟩, ?_⟩
    rw [if_pos (show (s.hartAt j).tl ≠ 0 ∧ (s.hartAt j).wait = none from hm), ← he]
    exact hst
  · refine ⟨s, ⟨LatchedFrom.refl s, rfl⟩, ?_⟩
    rw [if_neg (show ¬((s.hartAt j).tl ≠ 0 ∧ (s.hartAt j).wait = none) from hm)]
    rw [g3 j (.inr hm)] at hst ⊢
    exact hst

theorem contains_slots {s : State} {core x : Nat} :
    ((leavingKeys s core).map (· % 8)).contains x = true ↔ ∃ j, leaves s core j (s.hartAt j) = true ∧ x = j % 8 := by
  simp only [List.contains_iff_mem, List.mem_map, mem_leavingKeys]
  exact exists_congr fun j => and_congr Iff.rfl eq_comm

/-- The lane groups of harts that leave are free; the others stand. -/
theorem switching_lanes (s : State) (core ctx : Nat) (l : Fin 4) :
    let lost := ∃ j, leaves s core j (s.hartAt j) = true ∧ (s.coreAt core).lanes[l] = some (j % 8)
    (lost → ((switching s core ctx).coreAt core).lanes[l] = none) ∧
      (¬lost → ((switching s core ctx).coreAt core).lanes[l] = (s.coreAt core).lanes[l]) := by
  intro lost
  have hb : (s.coreAt core).lanes[l].any (fun j => ((leavingKeys s core).map (· % 8)).contains j) = true ↔ lost := by
    rw [Option.any_eq_true_iff_get]
    cases hl : (s.coreAt core).lanes[l] with
    | none => simp [lost, hl]
    | some x => simp only [lost, hl, Option.isSome_some, Option.get_some, contains_slots, Option.some.injEq, exists_true_left]
  rw [switching_core]
  simp only [Fin.getElem_fin, Vector.getElem_map]
  exact ⟨fun h => if_pos (hb.2 h), fun h => if_neg (mt hb.1 h)⟩

/-- The harts that do not leave: where the core waits for the local stores they stand; else those of the context go on. -/
theorem switched_stays {s : State} {core ctx j : Nat} (h1 : (s.ctxAt ctx).state = .run) (h2 : (s.ctxAt ctx).pending = [])
    (h3 : (s.coreAt core).retired = false) (hj : ¬leaves s core j (s.hartAt j) = true) :
    let t := moveOn (switching s core ctx) core
    ((s.coreAt core).holder ≠ none → t.hartAt j = s.hartAt j) ∧
      ((s.coreAt core).holder = none → (comesBack s core ctx j (s.hartAt j) → t.hartAt j = goesOn s (s.hartAt j)) ∧
        (¬comesBack s core ctx j (s.hartAt j) → t.hartAt j = s.hartAt j)) := by
  intro t
  have hh : (switching s core ctx).hartAt j = s.hartAt j := by rw [switching_hartAt, if_neg hj]
  refine ⟨fun h => ?_, fun h => ?_⟩
  · rw [← hh]
    exact congrArg (·.hartAt j) (switched_holding h)
  · obtain ⟨-, -, g, -, -⟩ := serveContext_spec (switching_mayRun h1 h2 h3)
    have hg : (switching s core ctx).gtime = s.gtime := by rw [switching_frame]
    have := g j
    rw [← switched_free h, hh, comesBack_switching, goesOn, hg] at this
    exact this

/-- The core itself: on its move, or serving the context (R366, R367). -/
theorem switched_core {s : State} {core ctx : Nat} (hs : (s.coreAt core).serves ≠ some ctx) (h1 : (s.ctxAt ctx).state = .run)
    (h2 : (s.ctxAt ctx).pending = []) (h3 : (s.coreAt core).retired = false) :
    let t := moveOn (switching s core ctx) core
    let waits := (s.coreAt core).laneWait.filter (fun w => !((leavingKeys s core).map (· % 8)).contains w.1)
    ((s.coreAt core).holder ≠ none →
        t.coreAt core = { s.coreAt core with lanes := (t.coreAt core).lanes, laneWait := waits, moving := some ctx }) ∧
      ((s.coreAt core).holder = none →
        ServesAgain s core ctx { s.coreAt core with lanes := (t.coreAt core).lanes, laneWait := waits } (t.coreAt core)) := by
  intro t waits
  have hl : (t.coreAt core).lanes = ((switching s core ctx).coreAt core).lanes := (switched_spec hs h1 h2 h3).2.1
  have hk : (switching s core ctx).coreAt core =
      { s.coreAt core with lanes := ((switching s core ctx).coreAt core).lanes, laneWait := waits, moving := some ctx } := by
    rw [switching_core]
  rw [hl]
  refine ⟨fun h => ?_, fun h => ?_⟩
  · exact (congrArg (·.coreAt core) (switched_holding h)).trans hk
  · obtain ⟨g, -⟩ := serveContext_spec (switching_mayRun h1 h2 h3)
    rw [← switched_free h] at g
    refine g.congr (fun x hx => switching_listed hs hx) ?_ ?_ ?_ ?_
    · rw [switching_frame]
    · rw [switching_frame]; rfl
    · rw [switching_frame]
    · exact hk.trans (by rw [hk])

/-! ### Local stores saved -/

/-- A core once its stores are saved goes on to the context that it moves to, or serves none. -/
theorem serveSaved_spec (s : State) (core q : Nat) (left : Core) (hr : left.retired = (s.coreAt core).retired) :
    let runs := mayRun s q (s.coreAt core)
    let t := serveContext (s.setCoreAt core left) core q
    (runs → ServesAgain s core q left (t.coreAt core)) ∧
      (¬runs → t.coreAt core = { left with serves := none, moving := none }) ∧
      (∀ j, (runs ∧ comesBack s core q j (s.hartAt j) → t.hartAt j = goesOn s (s.hartAt j)) ∧
        (¬(runs ∧ comesBack s core q j (s.hartAt j)) → t.hartAt j = s.hartAt j)) ∧
      (∀ c, c ≠ core → t.coreAt c = s.coreAt c) ∧ t = { s with hart := t.hart, harts := t.harts, cores := t.cores } := by
  intro runs t
  have hk : (s.setCoreAt core left).coreAt core = left := coreAt_setCoreAt_same s core left
  have hm : mayRun (s.setCoreAt core left) q ((s.setCoreAt core left).coreAt core) ↔ runs := by
    rw [hk, mayRun, hr]
    exact Iff.rfl
  by_cases hruns : runs
  · obtain ⟨g1, -, g3, g4, g5⟩ := serveContext_spec (hm.2 hruns)
    rw [hk] at g1
    refine ⟨fun _ => g1, fun h => absurd hruns h, fun j => ⟨fun h => (g3 j).1 h.2, fun h => (g3 j).2 fun hc => h ⟨hruns, hc⟩⟩,
      fun c hc => (g4 c hc).trans (coreAt_setCoreAt_other s _ hc), g5⟩
  · have e : t = (s.setCoreAt core left).setCoreAt core { left with serves := none, moving := none } := by
      have := serveContext_idle (mt hm.1 hruns)
      rwa [hk] at this
    rw [e]
    refine ⟨fun h => absurd h hruns, fun _ => coreAt_setCoreAt_same _ _ _, fun j => ⟨fun h => absurd h.1 hruns, fun _ => rfl⟩,
      fun c hc => ?_, rfl⟩
    rw [coreAt_setCoreAt_other _ _ hc, coreAt_setCoreAt_other _ _ hc]

/-! ### A cycle -/

/-- The machine once its kitties have served in a cycle. -/
def cycleServed (s : State) : State := refillAll { s with gtime := s.gtime + 1 }

theorem cycleServed_frame (s : State) :
    cycleServed s = { s with gtime := s.gtime + 1, kitties := (cycleServed s).kitties, chans := (cycleServed s).chans } :=
  (refillAll_spec { s with gtime := s.gtime + 1 }).1

theorem cycleStart_frame (s : State) : cycleStart s = { s with
    gtime := s.gtime + 1, chans := (cycleServed s).chans, kitties := (cycleServed s).kitties
    ctxs := mmap (fun _ c => markEligible (cycleServed s) c) s.ctxs, warrays := calibrateIdle (cycleServed s) } := by
  exact congrArg (fun r : State => { r with
    ctxs := mmap (fun _ c => markEligible (cycleServed s) c) r.ctxs, warrays := calibrateIdle (cycleServed s) }) (cycleServed_frame s)

/-- The machine after issue, by the one at a cycle's start. -/
theorem cycleIssued_frame (s : State) :
    (cycleIssued s).1 = { cycleStart s with free := (cycleIssued s).1.free, cores := (cycleIssued s).1.cores } := by
  have e : ∀ f c, ({ cycleDrawn s with free := f, cores := c } : State) = { cycleStart s with free := f, cores := c } := fun _ _ => rfl
  rw [← e]
  unfold cycleIssued
  exact (issueAll_spec (coreList (cycleDrawn s)) (cycleDrawn s)).1

/-- What a cycle's end keeps of the machine at its start. -/
theorem cycle_frame (s : State) :
    (cycleIssued s).1 = { s with
      gtime := s.gtime + 1, free := (cycleIssued s).1.free, chans := (cycleServed s).chans, kitties := (cycleServed s).kitties
      cores := (cycleIssued s).1.cores, ctxs := mmap (fun _ c => markEligible (cycleServed s) c) s.ctxs
      warrays := calibrateIdle (cycleServed s) } := by
  have h := cycleIssued_frame s
  rw [cycleStart_frame] at h
  exact h

theorem cycle_coreAt (s : State) (c : Nat) : (cycleIssued s).1.coreAt c = { s.coreAt c with
    servedVec := ((cycleIssued s).1.coreAt c).servedVec, servedOther := ((cycleIssued s).1.coreAt c).servedOther } := by
  have h := (issueAll_spec (coreList (cycleDrawn s)) (cycleDrawn s)).2 c
  have hc : (cycleDrawn s).coreAt c = s.coreAt c := by
    change (cycleServed s).coreAt c = s.coreAt c
    rw [cycleServed_frame]
    rfl
  rw [hc] at h
  exact h

theorem cycle_ctxAt (s : State) (c : Nat) :
    (cycleIssued s).1.ctxAt c = { s.ctxAt c with queues := ((cycleIssued s).1.ctxAt c).queues } := by
  have h : (cycleIssued s).1.ctxAt c = markEligible (cycleServed s) (s.ctxAt c) := by
    rw [cycle_frame]
    exact mgetD_mmap (fun _ c => markEligible (cycleServed s) c) s.ctxs c .initial rfl
  rw [h]
  rfl

/-- An array of a current version that is due after a cycle was so at its instant. -/
theorem cycle_calibrationDue {s : State} {a : Nat} (hv : inVersion s a = true)
    (h : calibrationDue { s with gtime := s.gtime + 1 } a = true) : calibrationDue (cycleStart s) a = true := by
  have hf := cycleServed_frame s
  have hw : (cycleServed s).warrays = s.warrays := by rw [hf]
  have hg : (cycleServed s).gtime = s.gtime + 1 := by rw [hf]
  have hi : inVersion (cycleServed s) a = true := by rw [inVersion, hf]; exact hv
  have hm := calibrateIdle_current hi
  rw [hw] at hm
  have e1 : mgetD (cycleStart s).warrays a .initial = mgetD s.warrays a .initial := hm
  have e2 : (cycleStart s).gtime = s.gtime + 1 := hg
  rw [calibrationDue, e1, e2]
  exact h

/-- The turns due at a cycle are on its agenda. -/
theorem due_cycleTurns {s : State} {x : Turn} (h : x ∈ dueTurns (cycleStart s)) : x ∈ cycleTurns s := by
  simp only [cycleTurns, List.mem_append]
  exact .inl (.inl (.inl h))

theorem outside_cycleTurns {s : State} {e : Instr} (h : e ∈ Config.outside (s.gtime + 1)) (ho : outsideEvent e = true) :
    Turn.event e ∈ cycleTurns s := by
  have hg : (cycleIssued s).1.gtime = s.gtime + 1 := by rw [cycle_frame]
  simp only [cycleTurns, List.mem_append, hg]
  exact .inl (.inl (.inr (List.mem_map.2 ⟨e, List.mem_filter.2 ⟨h, ho⟩, rfl⟩)))

theorem recalibrate_cycleTurns {s : State} {c h tile a : Nat} {x : Ctx} {y : Handle} {v : Version} (hx : (c, x) ∈ s.ctxs)
    (hy : (h, y) ∈ x.handles) (hv : y.cur = some v) (ha : v.arrays[tile]? = some a)
    (hd : calibrationDue { s with gtime := s.gtime + 1 } a = true) : Turn.own .recalibrate (c + 64 * h) tile ∈ cycleTurns s := by
  have hi : inVersion s a = true := by
    refine List.any_eq_true.2 ⟨(c, x), hx, List.any_eq_true.2 ⟨(h, y), hy, ?_⟩⟩
    rw [hv]
    exact List.contains_iff_mem.2 (List.mem_of_getElem? ha)
  have hm : (c, markEligible (cycleServed s) x) ∈ (cycleStart s).ctxs := by
    rw [cycleStart_frame]
    exact List.mem_map.2 ⟨(c, x), hx, rfl⟩
  exact due_cycleTurns (recalibrate_due hm hy hv ha (cycle_calibrationDue hi hd))

/-- The kitties and the runs of handlers at a cycle's end (R301, R302). -/
theorem cycle_kitties (s : State) :
    let done := fun st => (refillAt s.dev.throttleStep.toNat (s.kittyAt st)).served
    (∀ p, (cycleIssued s).1.kittyAt p = (done p).2) ∧
      ∀ p, ((∃ st, Kitty.pays (done st) p) → (cycleIssued s).1.chanAt p = (s.chanAt p).paid) ∧
        ((¬∃ st, Kitty.pays (done st) p) → (cycleIssued s).1.chanAt p = s.chanAt p) := by
  rw [cycle_frame]
  exact (refillAll_spec { s with gtime := s.gtime + 1 }).2

theorem not_exists_pays {α : Type} (done : α → List StackOp × Kitty) (p : Nat) : (¬∃ st, Kitty.pays (done st) p) ↔
    ∀ st, (∀ o ∈ (done st).1, o.chan ≠ some p) ∨ ∃ o ∈ (done st).2.waiting, o.chan = some p := by
  refine not_exists.trans (forall_congr' fun st => not_and_or.trans (or_congr ?_ ?_))
  · simp only [not_exists, not_and, ne_eq]
  · simp only [not_forall, not_not, exists_prop, ne_eq]

/-- A cycle may note of a pseudo-channel that its handler has paid, and nothing else. -/
theorem cycle_chanAt (s : State) (p : Nat) :
    (cycleIssued s).1.chanAt p = { s.chanAt p with run := ((cycleIssued s).1.chanAt p).run } := by
  obtain ⟨h1, h2⟩ := (cycle_kitties s).2 p
  by_cases he : ∃ st, Kitty.pays (refillAt s.dev.throttleStep.toNat (s.kittyAt st)).served p
  · rw [h1 he]
    rfl
  · rw [h2 he]

/-- What a cycle changes of the machine. -/
theorem cycle_changes (s : State) : (cycleIssued s).1 = { s with
    gtime := (cycleIssued s).1.gtime, free := (cycleIssued s).1.free, chans := (cycleIssued s).1.chans
    kitties := (cycleIssued s).1.kitties, cores := (cycleIssued s).1.cores, ctxs := (cycleIssued s).1.ctxs
    warrays := (cycleIssued s).1.warrays } := by
  have h := cycle_frame s
  generalize (cycleIssued s).1 = t at h ⊢
  rw [h]

/-! ### What a stop keeps -/

theorem keptWait_eq (h : Hart) : keptWait h = if h.wait.any waitKept = true then h.wait else none := by
  unfold keptWait
  cases h.wait <;> rfl

end Machine
end Sys2Proof

open Sys2Proof Sys2Proof.Machine

/-- Settles O48: each event's answer is a state of its own (`switching`, `serveContext`, `cycleIssued`), whose harts, cores and
frame the lemmas above give; a hart's stop is `StopsAs`, and a core's coming to serve a context `ServesAgain`. -/
theorem coreMoves : Obligations.CoreMoves := by
  unfold Obligations.CoreMoves
  intro s core ctx k on saved inside stops turnOf goesOn' ofCtx comes mine served
  have hstops : ∀ h h', StopsAs s h h' → stops h h' := by
    intro h h' hs
    have hw : saved h = h.wait.any waitKept := by
      simp only [saved]
      rcases h.wait with _ | w
      · rfl
      · cases w <;> rfl
    have hi : inside h = keptStrip h := by
      simp only [inside, keptStrip]
      rcases h.wait with _ | w
      · rfl
      · cases w <;> rfl
    simp only [stops, hw, hi, ← keptWait_eq]
    exact hs
  refine ⟨fun c1 c2 c3 c4 c5 c6 c7 c8 c9 => ?_, fun q n g c1 c2 c3 c4 => ?_, ?_⟩
  · -- CORE_SWITCH
    have ha : exec (.coreSwitch core ctx) s = .next (moveOn (switching s core ctx) core) := by
      refine coreSwitch_answers c1 c2 c3 c4 c5 c6 c7 c8 fun x hx hl => ?_
      obtain ⟨p, hp, ho⟩ := leaves_iff.1 hl
      exact c9 p hp x hx ho
    obtain ⟨s1, s2, s3, s4⟩ := switched_spec c1 c6 c7 c3
    obtain ⟨k1, k2⟩ := switched_core c1 c6 c7 c3
    have hslots : (mkeys s.allHarts).filter (fun j => k.serves.any (fun p => on p j (s.hartAt j))) = leavingKeys s core := by
      refine List.filter_congr fun j _ => ?_
      change (s.coreAt core).serves.any (fun p => onCore core p j (s.hartAt j)) = leaves s core j (s.hartAt j)
      unfold leaves
      cases (s.coreAt core).serves <;> rfl
    refine ⟨_, ha, fun j p hp hj => ?_, fun j hj => ?_, s3, ?_, fun l => ?_, s4⟩
    · have hl : leaves s core j (s.hartAt j) = true := leaves_iff.2 ⟨p, hp, hj⟩
      obtain ⟨u, ⟨⟨u1, u2, u3⟩, u4⟩, hst⟩ := switching_stops (ctx := ctx) hl
      rw [s1 j hl]
      exact ⟨u, ⟨u1, u4, u2, u3⟩, hstops _ _ hst⟩
    · have hl : ¬leaves s core j (s.hartAt j) = true := fun h => by
        obtain ⟨p, hp, ho⟩ := leaves_iff.1 h
        exact absurd ho (by rw [show onCore core p j (s.hartAt j) = false from hj p hp]; decide)
      obtain ⟨g1, g2⟩ := switched_stays c6 c7 c3 hl
      refine ⟨g1, fun hn => ?_⟩
      obtain ⟨g3, g4⟩ := g2 (not_not.1 hn)
      by_cases hc : comes ctx j (s.hartAt j)
      · rw [if_pos hc]
        exact g3 hc
      · rw [if_neg hc]
        exact g4 hc
    · rw [hslots]
      exact ⟨k1, fun hn => k2 (not_not.1 hn)⟩
    · have hlost : (∃ p j, k.serves = some p ∧ on p j (s.hartAt j) = true ∧ k.lanes[l] = some (j % 8)) ↔
          ∃ j, leaves s core j (s.hartAt j) = true ∧ (s.coreAt core).lanes[l] = some (j % 8) := by
        simp only [leaves_iff]
        exact ⟨fun ⟨p, j, a, b, c⟩ => ⟨j, ⟨p, a, b⟩, c⟩, fun ⟨j, ⟨p, a, b⟩, c⟩ => ⟨p, j, a, b, c⟩⟩
      have := switching_lanes s core ctx l
      rw [← s2, ← hlost] at this
      exact this
  · -- LOCAL_STORE_SAVE
    obtain ⟨g1, g2, g3, g4, g5⟩ := serveSaved_spec s core q
      { emptyStores (s.coreAt core) with saved := (s.coreAt core).saved ++ [storesImage s (s.coreAt core) n g] } rfl
    refine ⟨_, localStoreSave_answers c1 c2 c3 c4, ⟨g1, g2, fun j => ?_⟩, g4, g5⟩
    obtain ⟨g6, g7⟩ := g3 j
    split
    · next hc => exact g6 hc
    · next hc => exact g7 hc
  · -- CORE_CYCLE
    have hg : (cycleStart s).gtime = s.gtime + 1 := by rw [cycleStart_frame]
    have hfr := cycle_frame s
    obtain ⟨hk, hch⟩ := cycle_kitties s
    refine ⟨_, cycleTurns s, coreCycle_answers s, ?_, ?_, fun h x w hx hl hw ht => ?_, fun i x w hx hw ht => ?_,
      fun e he ho => outside_cycleTurns he ho, fun c hc hm => ?_, fun p => ?_, fun a w hw => ?_,
      fun c x h y v tile a hx hy hv ha hd => recalibrate_cycleTurns hx hy hv ha hd, cycle_coreAt s, cycle_ctxAt s,
      congrArg (fun t : State => { t with agenda := (cycleIssued s).1.agenda ++ cycleTurns s }) (cycle_changes s)⟩
    · change (cycleIssued s).1.gtime = s.gtime + 1
      rw [hfr]
    · change (cycleIssued s).1.agenda ++ _ = s.agenda ++ _
      rw [hfr]
    · refine due_cycleTurns (waitt_due ?_ hl hw (by rw [hg]; exact ht))
      rw [cycleStart_frame]
      exact hx
    · refine due_cycleTurns (sendt_due ?_ hw (by rw [hg]; exact ht))
      rw [cycleStart_frame]
      exact hx
    · refine due_cycleTurns (laneGrant_due ?_ ?_)
      · rw [cycleStart_frame]
        exact hm
      · rw [cycleStart_frame]
        exact hc
    · obtain ⟨h1, h2⟩ := hch p
      refine ⟨hk p, cycle_chanAt s p, fun he => ?_, fun he => ?_⟩
      · exact congrArg Chan.run (h1 he)
      · exact congrArg Chan.run (h2 ((not_exists_pays _ p).2 he))
    · have hw' : mget? (calibrateIdle (cycleServed s)) a = some w := by
        rw [← hw]
        change _ = mget? (cycleIssued s).1.warrays a
        rw [hfr]
      have := calibrateIdle_some hw'
      rw [cycleServed_frame] at this
      exact this
end

section
/-! CERTIFICATES. Reductions of rows (O29): the balanced tree of R69 over the elements of a row, and what a reduction answers. -/

namespace Sys2Proof
namespace Machine

/-! ### The tree of R69 -/

theorem powerBelow_pos (n : Nat) : 0 < powerBelow n := Nat.two_pow_pos _

theorem powerBelow_lt {n : Nat} (h : 2 ≤ n) : powerBelow n < n := by
  have : 2 ^ Nat.log2 (n - 1) ≤ n - 1 := Nat.log2_self_le (by omega)
  unfold powerBelow
  omega

/-- A list of two elements or more is combined from its two parts. -/
theorem tree_split {α σ : Type} (f : σ → α → α → α × σ) (zero : α) (fuel : Nat) (g : σ) {l : List α} (h : 2 ≤ l.length) :
    tree f zero (fuel + 1) g l =
      let x := tree f zero fuel g (l.take (powerBelow l.length))
      let y := tree f zero fuel x.2 (l.drop (powerBelow l.length))
      f y.2 x.1 y.1 := by
  match l, h with
  | _ :: _ :: _, _ => rfl

/-- A list of fewer than two elements is not combined. -/
theorem tree_short {α σ : Type} (f : σ → α → α → α × σ) (zero : α) (fuel : Nat) (g : σ) {l : List α} (h : l.length < 2) :
    tree f zero fuel g l = (l.headD zero, g) := by
  match l, h with
  | [], _ => simp only [tree, List.headD_nil]
  | [x], _ => simp only [tree, List.headD_cons]

/-- A map that respects the combining function and the identity respects the tree. -/
theorem tree_map {α β σ : Type} {f : σ → α → α → α × σ} {f' : σ → β → β → β × σ} (φ : α → β)
    (hf : ∀ g u v, f' g (φ u) (φ v) = (φ (f g u v).1, (f g u v).2)) (zero : α) (fuel : Nat) :
    ∀ (g : σ) (l : List α),
      tree f' (φ zero) fuel g (l.map φ) = (φ (tree f zero fuel g l).1, (tree f zero fuel g l).2) := by
  induction fuel with
  | zero =>
    intro g l
    match l with
    | [] => rfl
    | [_] => rfl
    | _ :: _ :: _ => rfl
  | succ fuel ih =>
    intro g l
    by_cases h : 2 ≤ l.length
    · rw [tree_split _ _ _ _ h, tree_split _ _ _ _ (by simpa using h)]
      simp only [List.length_map, ← List.map_take, ← List.map_drop, ih, hf]
    · have h := Nat.lt_of_not_le h
      rw [tree_short _ _ _ _ h, tree_short _ _ _ _ (by simpa using h), List.headD_map]

theorem treeOver_map {α β σ : Type} {f : σ → α → α → α × σ} {f' : σ → β → β → β × σ} (φ : α → β)
    (hf : ∀ g u v, f' g (φ u) (φ v) = (φ (f g u v).1, (f g u v).2)) (zero : α) (g : σ) (l : List α) :
    treeOver f' (φ zero) g (l.map φ) = (φ (treeOver f zero g l).1, (treeOver f zero g l).2) := by
  rw [treeOver, List.length_map]
  exact tree_map φ hf zero _ g l

/-- A fold from the identity of a nonempty second part, resumed from the fold of the first. -/
theorem foldl_append_assoc {α : Type} {op : α → α → α} {zero : α} [Std.Associative op] (a b : List α)
    (hid : ∀ x ∈ b, op zero x = x) (hb : b ≠ []) :
    (a ++ b).foldl op zero = op (a.foldl op zero) (b.foldl op zero) := by
  match b, hb with
  | y :: ys, _ => rw [List.foldl_append, List.foldl_cons, List.foldl_cons, List.foldl_assoc, hid y (.head _)]

theorem tree_short_eq_foldl {α σ : Type} {op : α → α → α} {zero : α} (fuel : Nat) (g : σ) {l : List α} (h : l.length < 2)
    (hid : ∀ x ∈ l, op zero x = x) : tree (fun g u v => (op u v, g)) zero fuel g l = (l.foldl op zero, g) := by
  rw [tree_short _ _ _ _ h]
  match l, h with
  | [], _ => rfl
  | [x], _ => rw [List.foldl_cons, hid x (.head _)]; rfl

/-- Over an associative operation the tree is the fold from the identity. -/
theorem tree_eq_foldl {α σ : Type} {op : α → α → α} {zero : α} [Std.Associative op] (fuel : Nat) :
    ∀ (g : σ) (l : List α), l.length ≤ fuel + 1 → (∀ x ∈ l, op zero x = x) →
      tree (fun g u v => (op u v, g)) zero fuel g l = (l.foldl op zero, g) := by
  induction fuel with
  | zero => exact fun g l h hid => tree_short_eq_foldl 0 g (by omega) hid
  | succ fuel ih =>
    intro g l hl hid
    by_cases h : 2 ≤ l.length
    · have hk := powerBelow_lt h
      have hp := powerBelow_pos l.length
      have htake : ∀ x ∈ l.take (powerBelow l.length), op zero x = x := fun x hx => hid x (List.mem_of_mem_take hx)
      have hdrop : ∀ x ∈ l.drop (powerBelow l.length), op zero x = x := fun x hx => hid x (List.mem_of_mem_drop hx)
      rw [tree_split _ _ _ _ h, ih g _ (by rw [List.length_take]; omega) htake]
      dsimp only
      rw [ih g _ (by rw [List.length_drop]; omega) hdrop]
      dsimp only
      rw [← foldl_append_assoc _ _ hdrop (by simpa using hk), List.take_append_drop]
    · exact tree_short_eq_foldl _ g (by omega) hid

theorem treeOver_eq_foldl {α σ : Type} {op : α → α → α} {zero : α} [Std.Associative op] (g : σ) (l : List α)
    (hid : ∀ x ∈ l, op zero x = x) : treeOver (fun g u v => (op u v, g)) zero g l = (l.foldl op zero, g) :=
  tree_eq_foldl _ g l (by omega) hid

/-! ### The members of a row -/

/-- The elements of a row with those masked off as the identity (R192). -/
def rowItems {α : Type} (s : State) (zero : α) (get : Nat → α) (r : Nat) : List α :=
  (span (r * rowSize s) s.regs.vl).map (fun j => if predicate s (pfxOf s.regs) j then get j else zero)

theorem rowItems_forall {α : Type} {s : State} {zero : α} {get : Nat → α} {r : Nat} {P : α → Prop} (hzero : P zero)
    (hget : ∀ j, P (get j)) : ∀ x ∈ rowItems s zero get r, P x := by
  intro x hx
  obtain ⟨j, -, rfl⟩ := List.mem_map.1 hx
  split
  · exact hget j
  · exact hzero

theorem rowItems_map {α β : Type} (s : State) (φ : α → β) (zero : α) (get : Nat → α) (r : Nat) :
    (rowItems s zero get r).map φ = rowItems s (φ zero) (fun j => φ (get j)) r := by
  simp only [rowItems, List.map_map, Function.comp_def, apply_ite φ]

/-- What a combining function gives for a row, from the rounding of its first index. -/
def Combine.row (c : Combine) (s : State) (r : Nat) (rnd : Rnd) : Step1 :=
  let t := treeOver c.op c.zero (0, rnd) (rowItems s c.zero c.get r)
  c.out t.2 t.1

/-- A reduction computes the row of each r, in order, at the row's first index. -/
theorem reduction_answers {s : State} {i : Instr} {kind : Red} {d a : BitVec 5} {e q : Bool} {x : Source} {c : Combine}
    {value : Nat → Rnd → Step1} (hx : exec i s = reduction i kind d a e q s) (hu : vecUse (groupFactor s.regs) i = some {
      unit := .reduce, dst := reg true d (groupFactor s.regs), srcs := reg (!q) a (groupFactor s.regs), e := e })
    (hs : source s q a = .ok x) (hc : combineOf s kind d (pfxOf s.regs) x = .ok c)
    (hv : ∀ r rnd, c.row s r rnd = value r rnd) (ha : Allowed s i) (hg : GoesOn s i) (hq : QueuesReady s [(q, a)]) :
    ∃ t, exec i s = .next t ∧ AfterMember s t ∧ Consumed s t [(q, a)] ∧
      InOrder s t i.kbit true e d c.fmt (fun j => !(inShape s j && j % rowSize s == 0)) (span 0 s.regs.vr) (· * rowSize s)
        value := by
  obtain rfl : c.row s = value := funext fun r => funext fun rnd => hv r rnd
  obtain ⟨queues, h1, h2⟩ := consume_setRegs hq
  obtain ⟨t, h3, h4, h5, h6⟩ := member_delivers (w := true) (e := e) (d := d) (fmt := c.fmt)
    (isTail := fun j => !(inShape s j && j % rowSize s == 0))
    (o := overItems s (pfxOf s.regs) (span 0 s.regs.vr) (· * rowSize s) (c.row s))
    (f := fun p s => do
      let src ← source s q a
      let c ← combineOf s kind d p src
      let t ← consume s [(q, a)]
      let rs := rowSize s
      let o := (span 0 s.regs.vr).foldl (fun (o : Outs) r =>
        let n := r * rs
        let (v, fl, g) := c.over s p (span n s.regs.vl) (gen o.gens n)
        o.put p.ek n v fl g) (Outs.start s)
      return deliverTail t p true e d c.fmt (fun n => !(inShape s n && n % rs == 0)) o) ha hg rfl rfl (by
        simp only [hs, hc, h1, bind, Except.bind, pure, Except.pure]
        rfl)
  rw [hx]
  exact ⟨t, h3, h4, h2 t h5, inOrder_of rfl (copyApart_of ha hu (fun _ => rfl) rfl) h6⟩

/-! ### The combining functions of Table 8.6 -/

theorem combineOf_int {s : State} {kind : Red} {d : BitVec 5} {p : Pfx} {x : Source} {dst : Fmt} (h1 : kind ≠ .and)
    (h2 : kind ≠ .or) (hf : x.fmt.isInt = true) (hd : destFormat s true d x.fmt = .ok dst) :
    combineOf s kind d p x = .ok (combineInt kind x.fmt dst p.sat x) := by
  simp [combineOf, h1, h2, hf, hd, bind, Except.bind, pure, Except.pure]

theorem ne_bits_of_isInt {f : Fmt} (h : f.isInt = true) : f ≠ .bits := by
  rintro rfl
  cases h

theorem ne_bits_of_isFloat {f : Fmt} (h : f.isFloat = true) : f ≠ .bits := by
  rintro rfl
  cases h

theorem isInt_of_isFloat {f : Fmt} : f.isFloat = true → f.isInt = false := by
  cases f <;> decide

theorem combineOf_float {s : State} {kind : Red} {d : BitVec 5} {p : Pfx} {x : Source} {dst : Fmt} (h1 : kind ≠ .and)
    (h2 : kind ≠ .or) (hf : x.fmt.isFloat = true) (hd : destFormat s true d x.fmt = .ok dst) :
    combineOf s kind d p x = .ok (combineFloat kind x.fmt dst x) := by
  simp [combineOf, h1, h2, isInt_of_isFloat hf, hf, hd, bind, Except.bind, pure, Except.pure]

/-- A bitwise reduction takes integers and raw bits; raw bits stay raw bits. -/
theorem combineOf_bits {s : State} {kind : Red} {d : BitVec 5} {p : Pfx} {x : Source} {dst : Fmt} (hk : kind = .and ∨ kind = .or)
    (hf : x.fmt.isInt = true ∨ x.fmt = .bits)
    (hd : if x.fmt = .bits then dst = .bits else destFormat s true d x.fmt = .ok dst) :
    combineOf s kind d p x = .ok (combineBits kind x.fmt dst (8 * fmtWidth s x.fmt) p.sat x) := by
  have hb : (decide (kind = .and) || decide (kind = .or)) = true := by simpa using hk
  by_cases h : x.fmt = .bits
  · rw [if_pos h] at hd
    simp [combineOf, hb, h, hd, fmtWidth]
  · rw [if_neg h] at hd
    simp [combineOf, hb, h, hf.resolve_right h, hd, fmtWidth, bind, Except.bind, pure, Except.pure]

/-- An integer reduction is the exact fold of the row, narrowed once. -/
theorem combineInt_row {s : State} {kind : Red} {x : Source} {dst : Fmt} {sat : Bool} {op : Int → Int → Int} {zero : Int}
    [Std.Associative op] (hop : (combineInt kind x.fmt dst sat x).op = fun st u v => (op u v, st))
    (hz : (combineInt kind x.fmt dst sat x).zero = zero) (hzz : op zero zero = zero)
    (hid : ∀ w, op zero (x.fmt.int w) = x.fmt.int w) (r : Nat) (rnd : Rnd) :
    (combineInt kind x.fmt dst sat x).row s r rnd =
      let y := narrowInt x.fmt sat ((rowItems s zero (fun j => x.fmt.int (x.get j)) r).foldl op zero)
      toDest x.fmt dst sat (y.1, y.2, rnd.gen) rnd.mode := by
  have hget : (combineInt kind x.fmt dst sat x).get = fun j => x.fmt.int (x.get j) := by
    funext j
    exact ite_self _
  unfold Combine.row
  rw [hop, hz, hget, treeOver_eq_foldl]
  · simp [combineInt]
  · exact rowItems_forall hzz fun j => hid _

/-- A combining function of numbers, each an encoding or bits, combines them as natural numbers. -/
theorem Combine.row_nat {s : State} {c : Combine} {step : Flags × Rnd → Nat → Nat → Nat × (Flags × Rnd)} {get : Nat → Nat}
    {unit : Nat} (hop : ∀ st (u v : Nat), c.op st u v = (((step st u v).1 : Int), (step st u v).2)) (hz : c.zero = unit)
    (hget : ∀ j, c.get j = get j) (r : Nat) (rnd : Rnd) :
    c.row s r rnd =
      let t := treeOver step unit (0, rnd) (rowItems s unit get r)
      c.out t.2 t.1 := by
  have hitems : rowItems s c.zero c.get r = (rowItems s unit get r).map Nat.cast := by
    rw [rowItems_map, hz, funext hget]
  unfold Combine.row
  rw [hitems, hz, treeOver_map _ hop]

/-- A floating-point reduction is the tree of its encodings. -/
theorem combineFloat_row {s : State} {kind : Red} {x : Source} {dst : Fmt} {step : Flags × Rnd → Nat → Nat → Nat × (Flags × Rnd)}
    {unit : Nat} (hop : ∀ st (u v : Nat), (combineFloat kind x.fmt dst x).op st u v = (((step st u v).1 : Int), (step st u v).2))
    (hz : (combineFloat kind x.fmt dst x).zero = unit) (r : Nat) (rnd : Rnd) :
    (combineFloat kind x.fmt dst x).row s r rnd =
      let t := treeOver step unit (0, rnd)
        (rowItems s unit (fun j => x.fmt.fp.canon ((x.get j).toNat % 2 ^ x.fmt.fp.bits)) r)
      toDest x.fmt dst false (xword t.1, t.2.1, t.2.2.gen) t.2.2.mode :=
  Combine.row_nat hop hz (fun _ => rfl) r rnd

/-- A bitwise reduction is the fold of the bits of the row. -/
theorem combineBits_row {s : State} {kind : Red} {x : Source} {dst : Fmt} {n : Nat} {sat : Bool} {op : Nat → Nat → Nat} {unit : Nat}
    [Std.Associative op] (hop : ∀ st (u v : Nat), (combineBits kind x.fmt dst n sat x).op st u v = ((op u v : Int), st))
    (hz : (combineBits kind x.fmt dst n sat x).zero = unit) (hzz : op unit unit = unit)
    (hid : ∀ w, op unit (w % 2 ^ n) = w % 2 ^ n) (r : Nat) (rnd : Rnd) :
    (combineBits kind x.fmt dst n sat x).row s r rnd =
      toDest x.fmt dst sat (xword ((rowItems s unit (fun j => (x.get j).toNat % 2 ^ n) r).foldl op unit), 0, rnd.gen) rnd.mode := by
  rw [Combine.row_nat (step := fun st u v => (op u v, st)) hop hz (fun _ => rfl), treeOver_eq_foldl]
  · rfl
  · exact rowItems_forall hzz fun j => hid _

/-! ### The bounds of an integer format -/

/-- What the low bits of a slot hold lies within the bounds of their format. -/
theorem intOf_bounds (signed : Bool) {n : Nat} (hn : 0 < n) (w : XWord) :
    intLo signed n ≤ intOf signed n w ∧ intOf signed n w ≤ intHi signed n := by
  obtain ⟨k, rfl⟩ := Nat.exists_eq_succ_of_ne_zero hn.ne'
  have hu : w.toNat % 2 ^ (k + 1) < 2 ^ (k + 1) := Nat.mod_lt _ (Nat.two_pow_pos _)
  simp only [intOf, intLo, intHi, Nat.succ_eq_add_one, Nat.add_sub_cancel]
  generalize w.toNat % 2 ^ (k + 1) = u at *
  have hcast : ((2 ^ (k + 1) : Nat) : Int) = 2 ^ (k + 1) := Nat.cast_pow 2 _
  have htwice : 2 ^ (k + 1) = 2 ^ k * 2 := pow_succ 2 k
  cases signed with
  | false => simp only [Bool.false_and, Bool.false_eq_true, if_false]; omega
  | true =>
    by_cases h : 2 ^ k ≤ u
    · simp only [h, decide_true, Bool.and_self, if_true]; omega
    · simp only [h, decide_false, Bool.and_false, Bool.false_eq_true, if_false, if_true]; omega

theorem bytes_pos_of_isInt {f : Fmt} : f.isInt = true → 0 < f.bytes := by
  cases f <;> decide

theorem intLo_le_int {f : Fmt} (h : f.isInt = true) (w : XWord) : intLo f.signed (8 * f.bytes) ≤ f.int w :=
  (intOf_bounds f.signed (Nat.mul_pos (by decide) (bytes_pos_of_isInt h)) w).1

theorem int_le_intHi {f : Fmt} (h : f.isInt = true) (w : XWord) : f.int w ≤ intHi f.signed (8 * f.bytes) :=
  (intOf_bounds f.signed (Nat.mul_pos (by decide) (bytes_pos_of_isInt h)) w).2

end Machine
end Sys2Proof

open Sys2Proof Sys2Proof.Machine

/-- Settles O29: each instruction by its combining function, whose tree is a fold for the exact and the bitwise ones. -/
theorem reductions : Obligations.Reductions := by
  intro s k d a e q x dst hs hd p rs f row answers
  refine ⟨fun hf => ?_, fun hf => ?_, fun hf => ?_⟩
  · rw [if_neg (ne_bits_of_isInt hf)] at hd
    simp only [List.forall_mem_cons, List.not_mem_nil, false_implies, implies_true, and_true]
    refine ⟨?_, ?_, ?_⟩
    · exact reduction_answers rfl rfl hs (combineOf_int (by decide) (by decide) hf hd)
        (combineInt_row rfl rfl rfl fun w => Int.zero_add _)
    · exact reduction_answers rfl rfl hs (combineOf_int (by decide) (by decide) hf hd)
        (combineInt_row rfl rfl (max_self _) fun w => max_eq_right (intLo_le_int hf w))
    · exact reduction_answers rfl rfl hs (combineOf_int (by decide) (by decide) hf hd)
        (combineInt_row rfl rfl (min_self _) fun w => min_eq_right (int_le_intHi hf w))
  · rw [if_neg (ne_bits_of_isFloat hf)] at hd
    intro step pick
    simp only [List.forall_mem_cons, List.not_mem_nil, false_implies, implies_true, and_true]
    refine ⟨?_, ?_, ?_⟩
    · exact reduction_answers rfl rfl hs (combineOf_float (by decide) (by decide) hf hd)
        (combineFloat_row (fun _ _ _ => rfl) rfl)
    · exact reduction_answers rfl rfl hs (combineOf_float (by decide) (by decide) hf hd)
        (combineFloat_row (fun _ _ _ => rfl) rfl)
    · exact reduction_answers rfl rfl hs (combineOf_float (by decide) (by decide) hf hd)
        (combineFloat_row (fun _ _ _ => rfl) rfl)
  · intro n
    simp only [List.forall_mem_cons, List.not_mem_nil, false_implies, implies_true, and_true]
    refine ⟨?_, ?_⟩
    · exact reduction_answers rfl rfl hs (combineOf_bits (.inl rfl) hf hd)
        (combineBits_row (fun _ _ _ => rfl) rfl (Nat.and_self _) fun w => by
          rw [Nat.and_comm, Nat.and_two_pow_sub_one_eq_mod, Nat.mod_mod])
    · exact reduction_answers rfl rfl hs (combineOf_bits (.inr rfl) hf hd)
        (combineBits_row (fun _ _ _ => rfl) rfl (Nat.or_self _) fun w => Nat.zero_or _)
end

section
/-! CERTIFICATES. The rounding functions (O60), by exact values: a magnitude between two multiples of a power of two. -/

namespace Sys2Proof
namespace Machine

/-! ### Powers of two -/

theorem two_zpow_pos (e : Int) : (0 : ℚ) < 2 ^ e := zpow_pos (by norm_num) e

theorem two_zpow_add (a b : Int) : (2 : ℚ) ^ (a + b) = 2 ^ a * 2 ^ b := zpow_add₀ (by norm_num) a b

theorem two_zpow_nat_add (a : Nat) (b : Int) : (2 : ℚ) ^ ((a : Int) + b) = ((2 ^ a : Nat) : ℚ) * 2 ^ b := by
  rw [two_zpow_add, zpow_natCast, Nat.cast_pow, Nat.cast_ofNat]

theorem two_zpow_lt {a b : Int} : (2 : ℚ) ^ a < 2 ^ b ↔ a < b := zpow_lt_zpow_iff_right₀ (by norm_num)

theorem two_zpow_le {a b : Int} : (2 : ℚ) ^ a ≤ 2 ^ b ↔ a ≤ b := zpow_le_zpow_iff_right₀ (by norm_num)

theorem units_lt {a b : Nat} {q : Int} : (a : ℚ) * 2 ^ q < b * 2 ^ q ↔ a < b := by
  rw [mul_lt_mul_iff_left₀ (two_zpow_pos q), Nat.cast_lt]

theorem units_le {a b : Nat} {q : Int} : (a : ℚ) * 2 ^ q ≤ b * 2 ^ q ↔ a ≤ b := by
  rw [mul_le_mul_iff_left₀ (two_zpow_pos q), Nat.cast_le]

/-- A magnitude lies in the binade of its most significant bit. -/
theorem log2_binade {m : Nat} (hm : 0 < m) (e : Int) :
    (2 : ℚ) ^ ((Nat.log2 m : Int) + e) ≤ m * 2 ^ e ∧ (m : ℚ) * 2 ^ e < 2 ^ ((Nat.log2 m : Int) + e + 1) := by
  constructor
  · rw [two_zpow_nat_add, units_le]
    exact Nat.log2_self_le hm.ne'
  · rw [show (Nat.log2 m : Int) + e + 1 = (Nat.log2 m + 1 : Nat) + e by omega, two_zpow_nat_add, units_lt]
    exact Nat.lt_log2_self

/-- Every magnitude lies between two consecutive multiples of a power of two. -/
theorem exists_multiple (m : Nat) (e q : Int) :
    ∃ c : Nat, (c : ℚ) * 2 ^ q ≤ m * 2 ^ e ∧ (m : ℚ) * 2 ^ e < (c + 1) * 2 ^ q := by
  have hq := two_zpow_pos q
  have h0 : (0 : ℚ) ≤ m * 2 ^ e / 2 ^ q := by positivity
  refine ⟨⌊(m * 2 ^ e / 2 ^ q : ℚ)⌋₊, ?_, ?_⟩
  · rw [← le_div_iff₀ hq]
    exact Nat.floor_le h0
  · rw [← div_lt_iff₀ hq]
    exact Nat.lt_floor_add_one _

/-! ### Rounding to a multiple of a power of two -/

/-- Whether a magnitude that lies `d` above the even or odd one of two candidates that are `w` apart goes to the upper one (Table
3.4, R60). -/
def RoundsUp (r : Rnd) (neg odd : Bool) (d w : ℚ) : Prop :=
  match r.mode with
  | 0 => w < 2 * d ∨ 2 * d = w ∧ odd = true
  | 1 => False
  | 2 => neg = true ∧ d ≠ 0
  | 3 => neg = false ∧ d ≠ 0
  | 4 => w ≤ 2 * d
  | _ => r.gen.toNat * w < d * 2 ^ 32

theorem roundsUp_iff (r : Rnd) (neg odd : Bool) (rem unit : Nat) :
    roundsUp r neg odd rem unit = true ↔ RoundsUp r neg odd rem unit := by
  match r with
  | ⟨0, _⟩ =>
    simp only [roundsUp, RoundsUp, Bool.or_eq_true, decide_eq_true_eq, Bool.and_eq_true, beq_iff_eq]
    norm_cast
    rw [@eq_comm _ unit]
  | ⟨1, _⟩ => simp [roundsUp, RoundsUp]
  | ⟨2, _⟩ => simp [roundsUp, RoundsUp]
  | ⟨3, _⟩ => simp [roundsUp, RoundsUp]
  | ⟨4, _⟩ => simp only [roundsUp, RoundsUp, decide_eq_true_eq]; norm_cast
  | ⟨_ + 5, _⟩ => simp only [roundsUp, RoundsUp, decide_eq_true_eq]; norm_cast

/-- The decision does not depend on the unit in which the distances are measured. -/
theorem roundsUp_scale (r : Rnd) (neg odd : Bool) (d w : ℚ) {t : ℚ} (ht : 0 < t) :
    RoundsUp r neg odd (d * t) (w * t) ↔ RoundsUp r neg odd d w := by
  have hne : d * t ≠ 0 ↔ d ≠ 0 := by simp [ht.ne']
  unfold RoundsUp
  split
  case h_1 => rw [← mul_assoc, mul_lt_mul_iff_left₀ ht, mul_left_inj' ht.ne']
  case h_2 => rfl
  case h_3 => rw [hne]
  case h_4 => rw [hne]
  case h_5 => rw [← mul_assoc, mul_le_mul_iff_left₀ ht]
  case h_6 => rw [← mul_assoc, mul_right_comm d t, mul_lt_mul_iff_left₀ ht]

/-- A candidate stays as it is. -/
theorem not_roundsUp_zero (r : Rnd) (neg odd : Bool) {w : ℚ} (hw : 0 < w) : ¬RoundsUp r neg odd 0 w := by
  unfold RoundsUp
  split
  case h_1 => rintro (h | ⟨h, -⟩) <;> linarith
  case h_2 => exact id
  case h_3 => exact fun h => h.2 rfl
  case h_4 => exact fun h => h.2 rfl
  case h_5 => linarith
  case h_6 =>
    rw [zero_mul, not_lt]
    positivity

/-- A magnitude between two multiples of 2^q is rounded to one of them, and is inexact unless it is the lower one. -/
theorem roundAt_between (r : Rnd) (neg : Bool) {m c : Nat} {e q : Int} (h1 : (c : ℚ) * 2 ^ q ≤ m * 2 ^ e)
    (h2 : (m : ℚ) * 2 ^ e < (c + 1) * 2 ^ q) :
    ∃ b : Bool, (b = true ↔ RoundsUp r neg (c % 2 == 1) (m * 2 ^ e - c * 2 ^ q) (2 ^ q)) ∧
      roundAt r neg m e q = (c + b.toNat, decide ((m * 2 ^ e - c * 2 ^ q : ℚ) ≠ 0)) := by
  rw [← Nat.cast_succ] at h2
  by_cases hqe : q ≤ e
  · obtain ⟨n, hn⟩ := Int.eq_ofNat_of_zero_le (Int.sub_nonneg.2 hqe)
    have hm : (m : ℚ) * 2 ^ e = ((m * 2 ^ n : Nat) : ℚ) * 2 ^ q := by
      rw [show e = n + q by omega, two_zpow_nat_add, Nat.cast_mul, mul_assoc]
    rw [hm, units_le] at h1
    rw [hm, units_lt] at h2
    have hc : m * 2 ^ n = c := by omega
    rw [hm, hc, sub_self]
    refine ⟨false, by simp [not_roundsUp_zero r neg _ (two_zpow_pos q)], ?_⟩
    simp [roundAt, hqe, hn, hc]
  · obtain ⟨n, hn⟩ := Int.eq_ofNat_of_zero_le (Int.sub_nonneg.2 (Int.le_of_not_le hqe))
    have hq : (2 : ℚ) ^ q = ((2 ^ n : Nat) : ℚ) * 2 ^ e := by rw [show q = n + e by omega, two_zpow_nat_add]
    rw [hq, ← mul_assoc, ← Nat.cast_mul] at h1 h2 ⊢
    rw [units_le] at h1
    rw [units_lt] at h2
    have hdiv : m / 2 ^ n = c := Nat.div_eq_of_lt_le h1 h2
    have hrem : (m : ℚ) - (c * 2 ^ n : Nat) = (m % 2 ^ n : Nat) := by
      rw [Nat.mod_eq_sub_div_mul, hdiv, Nat.cast_sub h1]
    rw [← sub_mul, hrem, roundsUp_scale _ _ _ _ _ (two_zpow_pos e), ← roundsUp_iff]
    refine ⟨_, Iff.rfl, ?_⟩
    have hk : (q - e).toNat = n := by omega
    simp only [roundAt, if_neg hqe, hk, Nat.shiftRight_eq_div_pow, hdiv]
    refine Prod.ext ?_ ?_
    · cases roundsUp r neg (c % 2 == 1) (m % 2 ^ n) (2 ^ n) <;> rfl
    · rw [Bool.eq_iff_iff]
      simp [(two_zpow_pos e).ne']

/-! ### The codes of a binary format -/

/-- The magnitude of a code; one that is no finite value's stands for the first binade past the largest (R59). -/
def FpFmt.size (f : FpFmt) (k : Nat) : ℚ :=
  match f.val k with
  | .fin _ m e => m * 2 ^ e
  | _ => 2 ^ (f.bias + 1)

theorem two_pow_eb {f : FpFmt} (h : 1 ≤ f.eb) : ((2 ^ f.eb : Nat) : Int) = 2 * (f.bias + 1) := by
  obtain ⟨n, hn⟩ := Nat.exists_eq_add_of_le' h
  rw [FpFmt.bias, hn]
  push_cast
  rw [pow_succ]
  ring

/-- The magnitude of a code by its fields. -/
theorem size_fields {f : FpFmt} {x fr : Nat} (hfr : fr < 2 ^ f.fb) (hx : x < 2 ^ f.eb) (ht : x = 2 ^ f.eb - 1 → fr = 0) :
    f.size (x * 2 ^ f.fb + fr) =
      if x = 2 ^ f.eb - 1 then (2 : ℚ) ^ (f.bias + 1) else if x = 0 then (fr : ℚ) * 2 ^ f.qmin
      else ((2 ^ f.fb + fr : Nat) : ℚ) * 2 ^ (f.qmin + ((x : Int) - 1)) := by
  have hdiv : (x * 2 ^ f.fb + fr) / 2 ^ f.fb = x := by
    rw [Nat.mul_comm, Nat.mul_add_div (Nat.two_pow_pos _), Nat.div_eq_of_lt hfr, Nat.add_zero]
  have hmod : (x * 2 ^ f.fb + fr) % 2 ^ f.fb = fr := by
    rw [Nat.mul_comm, Nat.mul_add_mod, Nat.mod_eq_of_lt hfr]
  unfold FpFmt.size FpFmt.val
  simp only [hdiv, hmod, Nat.mod_eq_of_lt hx]
  by_cases h1 : x = 2 ^ f.eb - 1
  · simp only [if_pos h1, if_pos (ht h1)]
  · by_cases h2 : x = 0
    · simp only [if_neg h1, if_pos h2]
    · simp only [if_neg h1, if_neg h2]

/-- The code of a normal number, or the one past the largest, as a number of units of its binade. -/
theorem size_normal {f : FpFmt} (hf : 1 ≤ f.eb) {E c : Nat} (hc : 2 ^ f.fb ≤ c) (hc' : c < 2 ^ (f.fb + 1))
    (ht : E * 2 ^ f.fb + c ≤ f.top) : f.size (E * 2 ^ f.fb + c) = c * 2 ^ (f.qmin + E) := by
  obtain ⟨fr, rfl⟩ := Nat.exists_eq_add_of_le hc
  have hfr : fr < 2 ^ f.fb := by rw [pow_succ] at hc'; omega
  have hsplit : E * 2 ^ f.fb + (2 ^ f.fb + fr) = (E + 1) * 2 ^ f.fb + fr := by rw [Nat.succ_mul]; omega
  rw [hsplit] at ht ⊢
  unfold FpFmt.top at ht
  have hx : E + 1 ≤ 2 ^ f.eb - 1 := Nat.le_of_mul_le_mul_right (Nat.le_of_add_right_le ht) (Nat.two_pow_pos _)
  have htop : E + 1 = 2 ^ f.eb - 1 → fr = 0 := fun h => by rw [h] at ht; omega
  rw [size_fields hfr (by omega) htop]
  have hE : f.qmin + (((E + 1 : Nat) : Int) - 1) = f.qmin + E := by omega
  split
  case isTrue h =>
    have hb := two_pow_eb hf
    rw [htop h, Nat.add_zero, ← two_zpow_nat_add]
    congr 1
    unfold FpFmt.qmin
    omega
  case isFalse h => rw [if_neg (Nat.succ_ne_zero E), hE]

/-- A code as a number of units of its binade, or of the binade below. -/
theorem size_eq {f : FpFmt} (hf : 1 ≤ f.eb) {E c : Nat} (hc : E = 0 ∨ 2 ^ f.fb ≤ c) (hc' : c ≤ 2 ^ (f.fb + 1))
    (ht : E * 2 ^ f.fb + c ≤ f.top) : f.size (E * 2 ^ f.fb + c) = c * 2 ^ (f.qmin + E) := by
  by_cases hlt : c < 2 ^ f.fb
  · obtain rfl : E = 0 := hc.resolve_right (by omega)
    have he : 1 < 2 ^ f.eb := Nat.one_lt_two_pow (by omega)
    rw [size_fields hlt (by omega) (by omega), if_neg (by omega), if_pos rfl, Nat.cast_zero, add_zero]
  · by_cases heq : c < 2 ^ (f.fb + 1)
    · exact size_normal hf (by omega) heq ht
    · obtain rfl : c = 2 ^ (f.fb + 1) := by omega
      have hsplit : E * 2 ^ f.fb + 2 ^ (f.fb + 1) = (E + 1) * 2 ^ f.fb + 2 ^ f.fb := by rw [pow_succ, Nat.succ_mul]; omega
      rw [hsplit] at ht ⊢
      rw [size_normal hf le_rfl (Nat.pow_lt_pow_right (by omega) (by omega)) ht, ← two_zpow_nat_add, ← two_zpow_nat_add]
      congr 1
      omega

/-- Every code is a number of units of a binade. -/
theorem exists_units (f : FpFmt) (k : Nat) :
    ∃ E c : Nat, k = E * 2 ^ f.fb + c ∧ (E = 0 ∨ 2 ^ f.fb ≤ c) ∧ c < 2 ^ (f.fb + 1) := by
  have hk := Nat.div_add_mod' k (2 ^ f.fb)
  have hr : k % 2 ^ f.fb < 2 ^ f.fb := Nat.mod_lt _ (Nat.two_pow_pos _)
  rw [pow_succ]
  match hx : k / 2 ^ f.fb with
  | 0 =>
    rw [hx] at hk
    exact ⟨0, k, by omega, .inl rfl, by omega⟩
  | E + 1 =>
    rw [hx, Nat.succ_mul] at hk
    exact ⟨E, 2 ^ f.fb + k % 2 ^ f.fb, by omega, .inr (by omega), by omega⟩

/-! ### Rounding to a binary format -/

/-- The exponent of the unit to which a magnitude is rounded. -/
def FpFmt.unitOf (f : FpFmt) (m : Nat) (e : Int) : Int :=
  if (Nat.log2 m : Int) + e - f.fb < f.qmin then f.qmin else (Nat.log2 m : Int) + e - f.fb

/-- The unit of a magnitude is that of the codes on its two sides. -/
theorem unitOf_eq {f : FpFmt} {E c m : Nat} {e : Int} (hm : 0 < m) (hc : E = 0 ∨ 2 ^ f.fb ≤ c) (hc' : c < 2 ^ (f.fb + 1))
    (h1 : (c : ℚ) * 2 ^ (f.qmin + E) ≤ m * 2 ^ e) (h2 : (m : ℚ) * 2 ^ e < (c + 1) * 2 ^ (f.qmin + E)) :
    f.unitOf m e = f.qmin + E := by
  obtain ⟨l1, l2⟩ := log2_binade hm e
  have hup : (Nat.log2 m : Int) + e < (f.fb + 1 : Nat) + (f.qmin + E) := by
    rw [← two_zpow_lt, two_zpow_nat_add (f.fb + 1)]
    rw [← Nat.cast_succ] at h2
    exact l1.trans_lt (h2.trans_le (units_le.2 hc'))
  have hlo : E = 0 ∨ (f.fb : Int) + (f.qmin + E) < (Nat.log2 m : Int) + e + 1 := by
    refine hc.imp_right fun hc => ?_
    rw [← two_zpow_lt, two_zpow_nat_add]
    exact ((units_le.2 hc).trans h1).trans_lt l2
  unfold FpFmt.unitOf
  split <;> omega

/-- Every magnitude lies between two codes of its binade, the exponents going on past the largest. -/
theorem exists_between (f : FpFmt) {m : Nat} (hm : 0 < m) (e : Int) :
    ∃ E c : Nat, (E = 0 ∨ 2 ^ f.fb ≤ c) ∧ c < 2 ^ (f.fb + 1) ∧ (c : ℚ) * 2 ^ (f.qmin + E) ≤ m * 2 ^ e ∧
      (m : ℚ) * 2 ^ e < (c + 1) * 2 ^ (f.qmin + E) := by
  obtain ⟨l1, l2⟩ := log2_binade hm e
  obtain ⟨c, h1, h2⟩ := exists_multiple m e (f.qmin + ((Nat.log2 m : Int) + e - f.fb - f.qmin).toNat)
  refine ⟨_, c, or_iff_not_imp_left.2 fun hE => ?_, ?_, h1, h2⟩
  · rw [show (Nat.log2 m : Int) + e = f.fb + (f.qmin + ((Nat.log2 m : Int) + e - f.fb - f.qmin).toNat) by omega,
      two_zpow_nat_add] at l1
    rw [← Nat.cast_succ] at h2
    exact Nat.le_of_lt_succ (units_lt.1 (l1.trans_lt h2))
  · rw [← units_lt (q := f.qmin + ((Nat.log2 m : Int) + e - f.fb - f.qmin).toNat), ← two_zpow_nat_add]
    refine (h1.trans_lt l2).trans_le (two_zpow_le.2 ?_)
    omega

/-- Whether a result is tiny: smaller than the least normal number after rounding with an unbounded exponent (R59, R60). -/
def tinyResult (f : FpFmt) (r : Rnd) (neg : Bool) (m : Nat) (e : Int) : Bool :=
  if f.qmin + f.fb ≤ (Nat.log2 m : Int) + e then false
  else if (Nat.log2 m : Int) + e < f.qmin + f.fb - 1 then true
  else (roundAt r neg m e ((Nat.log2 m : Int) + e - f.fb)).1 < 2 ^ (f.fb + 1)

/-- As `tinyResult`, of an exact magnitude. -/
def TinyAfter (f : FpFmt) (r : Rnd) (neg : Bool) (x : ℚ) : Prop :=
  let fine : ℚ := 2 ^ (f.qmin - 1)
  let least : ℚ := 2 ^ (f.qmin + f.fb)
  x < least ∧ ¬(least - fine ≤ x ∧ RoundsUp r neg true (x - (least - fine)) fine)

theorem leastNormal_eq (f : FpFmt) : (2 : ℚ) ^ (f.qmin + f.fb) = (2 ^ (f.fb + 1) : Nat) * 2 ^ (f.qmin - 1) := by
  rw [← two_zpow_nat_add]
  congr 1
  omega

theorem belowLeast_eq (f : FpFmt) :
    (2 : ℚ) ^ (f.qmin + f.fb) - 2 ^ (f.qmin - 1) = (2 ^ (f.fb + 1) - 1 : Nat) * 2 ^ (f.qmin - 1) := by
  rw [leastNormal_eq, Nat.cast_sub Nat.one_le_two_pow, Nat.cast_one, sub_mul, one_mul]

/-- Below the least normal number, half a unit finer, only what goes up from the last candidate comes to it. -/
theorem roundAt_fine_lt_iff (f : FpFmt) (r : Rnd) (neg : Bool) {m : Nat} {e : Int} (h : (m : ℚ) * 2 ^ e < 2 ^ (f.qmin + f.fb)) :
    let last : ℚ := (2 ^ (f.fb + 1) - 1 : Nat) * 2 ^ (f.qmin - 1)
    (roundAt r neg m e (f.qmin - 1)).1 < 2 ^ (f.fb + 1) ↔
      ¬(last ≤ m * 2 ^ e ∧ RoundsUp r neg true (m * 2 ^ e - last) (2 ^ (f.qmin - 1))) := by
  intro last
  obtain ⟨c, h1, h2⟩ := exists_multiple m e (f.qmin - 1)
  obtain ⟨b, hb, hr⟩ := roundAt_between r neg h1 h2
  rw [leastNormal_eq] at h
  rw [← Nat.cast_succ] at h2
  have hc : c < 2 ^ (f.fb + 1) := units_lt.1 (h1.trans_lt h)
  have hbit := Bool.toNat_le b
  rw [hr]
  by_cases hlast : c = 2 ^ (f.fb + 1) - 1
  · have hpow : 2 ^ (f.fb + 1) = 2 * 2 ^ f.fb := Nat.pow_succ'
    have hodd : (c % 2 == 1) = true := by rw [beq_iff_eq]; omega
    have heq : last = c * 2 ^ (f.qmin - 1) := by rw [hlast]
    rw [hodd] at hb
    rw [heq, ← hb, and_iff_right h1]
    cases b <;> simp <;> omega
  · have hbelow : (m : ℚ) * 2 ^ e < last := h2.trans_le (units_le.2 (by omega))
    simp only [not_le.2 hbelow, false_and, not_false_eq_true, iff_true]
    omega

theorem tinyResult_iff (f : FpFmt) (r : Rnd) (neg : Bool) {m : Nat} (hm : 0 < m) (e : Int) :
    tinyResult f r neg m e = true ↔ TinyAfter f r neg (m * 2 ^ e) := by
  obtain ⟨l1, l2⟩ := log2_binade hm e
  unfold tinyResult TinyAfter
  dsimp only
  rw [belowLeast_eq]
  split
  case isTrue h =>
    have hnormal : ¬(m : ℚ) * 2 ^ e < 2 ^ (f.qmin + f.fb) := not_lt.2 ((two_zpow_le.2 h).trans l1)
    simp only [hnormal, false_and, Bool.false_eq_true]
  case isFalse h =>
    have hlt : (m : ℚ) * 2 ^ e < 2 ^ (f.qmin + f.fb) := l2.trans_le (two_zpow_le.2 (by omega))
    rw [and_iff_right hlt]
    split
    case isTrue h' =>
      have hone : 0 < 2 ^ f.fb := Nat.two_pow_pos _
      have hsmall : (m : ℚ) * 2 ^ e < (2 ^ (f.fb + 1) - 1 : Nat) * 2 ^ (f.qmin - 1) := by
        refine l2.trans_le ((two_zpow_le.2 (show _ ≤ (f.fb : Int) + (f.qmin - 1) by omega)).trans ?_)
        rw [two_zpow_nat_add, units_le, pow_succ]
        omega
      simp only [not_le.2 hsmall, false_and, not_false_eq_true]
    case isFalse h' =>
      rw [decide_eq_true_eq, show (Nat.log2 m : Int) + e - f.fb = f.qmin - 1 by omega]
      exact roundAt_fine_lt_iff f r neg hlt

/-- A finite magnitude between two codes is rounded to one of them, or overflows. -/
theorem roundCore_between {f : FpFmt} (r : Rnd) (neg : Bool) {E c m : Nat} {e : Int} (hm : 0 < m)
    (hc : E = 0 ∨ 2 ^ f.fb ≤ c) (hc' : c < 2 ^ (f.fb + 1))
    (h1 : (c : ℚ) * 2 ^ (f.qmin + E) ≤ m * 2 ^ e) (h2 : (m : ℚ) * 2 ^ e < (c + 1) * 2 ^ (f.qmin + E)) :
    let d : ℚ := m * 2 ^ e - c * 2 ^ (f.qmin + E)
    ∃ b n : Bool, (b = true ↔ RoundsUp r neg (c % 2 == 1) d (2 ^ (f.qmin + E))) ∧
      (n = true ↔ RoundsUp Rnd.rne neg (c % 2 == 1) d (2 ^ (f.qmin + E))) ∧
      roundCore f r (.fin neg m e) =
        if f.top ≤ E * 2 ^ f.fb + (c + (if r.mode ≤ 4 then b else n).toNat) then (overflowBits f r neg, Flags.of ||| Flags.nx)
        else (f.sign neg + min (E * 2 ^ f.fb + (c + b.toNat)) (f.top - 1),
          Flags.when (decide (d ≠ 0)) Flags.nx ||| Flags.when (decide (d ≠ 0) && tinyResult f r neg m e) Flags.uf) := by
  intro d
  obtain ⟨b, hb, hrb⟩ := roundAt_between r neg h1 h2
  obtain ⟨n, hn, hrn⟩ := roundAt_between Rnd.rne neg h1 h2
  refine ⟨b, n, hb, hn, ?_⟩
  have hq := unitOf_eq hm hc hc' h1 h2
  unfold FpFmt.unitOf at hq
  have hE : (f.qmin + E - f.qmin).toNat = E := by omega
  have hclamp : ∀ a, (if f.top ≤ a then f.top - 1 else a) = min a (f.top - 1) := fun a => by split <;> omega
  simp only [roundCore, if_neg hm.ne', hq, hrb, hrn, hE, hclamp]
  by_cases hmode : r.mode ≤ 4
  · simp only [if_pos hmode]
    rfl
  · simp only [if_neg hmode]
    rfl

theorem overflowBits_eq (f : FpFmt) (r : Rnd) (neg : Bool) :
    overflowBits f r neg = f.sign neg +
      if r.mode = 1 ∨ r.mode = 2 ∧ neg = false ∨ r.mode = 3 ∧ neg = true then f.top - 1 else f.top := by
  match r with
  | ⟨0, _⟩ => simp [overflowBits]
  | ⟨1, _⟩ => simp [overflowBits]
  | ⟨2, _⟩ => cases neg <;> simp [overflowBits]
  | ⟨3, _⟩ => cases neg <;> simp [overflowBits]
  | ⟨_ + 4, _⟩ => simp [overflowBits]

theorem top_eq (f : FpFmt) (hf : 1 ≤ f.eb) : ((f.top : Nat) : Int) = (2 * f.bias + 1) * (2 ^ f.fb : Nat) := by
  have he := two_pow_eb hf
  have hone : 1 ≤ 2 ^ f.eb := Nat.one_le_two_pow
  rw [FpFmt.top, Nat.cast_mul, Nat.cast_sub hone, he]
  ring

/-- The code of infinity is even. -/
theorem top_even {f : FpFmt} (hfb : 1 ≤ f.fb) : f.top % 2 = 0 := by
  obtain ⟨n, hn⟩ := Nat.exists_eq_add_of_le' hfb
  rw [FpFmt.top, hn, pow_succ, ← Nat.mul_assoc, Nat.mul_mod_left]

/-- A magnitude past the binades of the format overflows (R59). -/
theorem roundCore_past {f : FpFmt} (hf : 2 ≤ f.eb) (r : Rnd) (neg : Bool) {m : Nat} {e : Int} (hm : 0 < m)
    (h : (2 : ℚ) ^ (f.bias + 1) ≤ m * 2 ^ e) :
    roundCore f r (.fin neg m e) = (overflowBits f r neg, Flags.of ||| Flags.nx) := by
  obtain ⟨E, c, hc, hc', h1, h2⟩ := exists_between f hm e
  obtain ⟨b, n, -, -, hr⟩ := roundCore_between r neg hm hc hc' h1 h2
  have hbias : 1 ≤ f.bias := by
    have : (2 : Int) ^ 1 ≤ 2 ^ (f.eb - 1) := pow_le_pow_right₀ (by decide) (by omega)
    unfold FpFmt.bias
    omega
  have hE : f.bias + 1 < (f.fb + 1 : Nat) + (f.qmin + E) := by
    rw [← two_zpow_lt, two_zpow_nat_add (f.fb + 1)]
    rw [← Nat.cast_succ] at h2
    exact h.trans_lt (h2.trans_le (units_le.2 hc'))
  unfold FpFmt.qmin at hE
  have hnormal : 2 ^ f.fb ≤ c := hc.resolve_left (by omega)
  have htop : f.top ≤ E * 2 ^ f.fb + c := by
    have : (2 * f.bias + 1) * ((2 ^ f.fb : Nat) : Int) ≤ (E + 1) * (2 ^ f.fb : Nat) :=
      Int.mul_le_mul_of_nonneg_right (by omega) (Int.natCast_nonneg _)
    rw [← top_eq f (by omega), ← Nat.cast_succ, ← Nat.cast_mul, Nat.cast_le, Nat.succ_mul] at this
    omega
  rw [hr, if_pos (by omega)]

/-- Whether a magnitude between the codes k and k + 1 overflows: k is the largest finite number, and the result is past it (R59);
under RSR as under RNE. -/
def Exceeds (f : FpFmt) (r : Rnd) (neg : Bool) (k : Nat) (d w : ℚ) : Prop :=
  k + 1 = f.top ∧ if r.mode = 5 then w ≤ 2 * d else RoundsUp r neg (k % 2 == 1) d w

theorem roundsUp_rne_odd (neg : Bool) (d w : ℚ) : RoundsUp Rnd.rne neg true d w ↔ w ≤ 2 * d := by
  change w < 2 * d ∨ 2 * d = w ∧ true = true ↔ _
  rw [le_iff_lt_or_eq, and_iff_left rfl, @eq_comm _ w]

theorem top_le_iff_exceeds {f : FpFmt} (hfb : 1 ≤ f.fb) {r : Rnd} (hr : r.mode ≤ 5) {neg : Bool} {k : Nat} {d w : ℚ} {b n : Bool}
    (hk : k < f.top) (hb : b = true ↔ RoundsUp r neg (k % 2 == 1) d w) (hn : n = true ↔ RoundsUp Rnd.rne neg (k % 2 == 1) d w) :
    f.top ≤ k + (if r.mode ≤ 4 then b else n).toNat ↔ Exceeds f r neg k d w := by
  have hlast : ∀ t : Bool, f.top ≤ k + t.toNat ↔ k + 1 = f.top ∧ t = true := by
    intro t
    cases t <;> simp <;> omega
  rw [hlast, Exceeds, and_congr_right_iff]
  intro hlast
  by_cases hmode : r.mode = 5
  · have hodd : (k % 2 == 1) = true := by
      have := top_even hfb
      rw [beq_iff_eq]
      omega
    rw [if_neg (by omega), if_pos hmode, hn, hodd, roundsUp_rne_odd]
  · rw [if_pos (by omega), if_neg hmode, hb]

/-- A magnitude between the codes k and k + 1 is rounded to one of them, or overflows. -/
theorem roundCore_code {f : FpFmt} (hf : 1 ≤ f.eb) (hfb : 1 ≤ f.fb) {r : Rnd} (hr : r.mode ≤ 5) (neg : Bool) {m k : Nat} {e : Int}
    (hm : 0 < m) (hk : k < f.top) (h1 : f.size k ≤ m * 2 ^ e) (h2 : m * 2 ^ e < f.size (k + 1)) :
    let d := m * 2 ^ e - f.size k
    let w := f.size (k + 1) - f.size k
    (Exceeds f r neg k d w → roundCore f r (.fin neg m e) = (overflowBits f r neg, Flags.of ||| Flags.nx)) ∧
    (¬Exceeds f r neg k d w → ∃ b : Bool, (b = true ↔ RoundsUp r neg (k % 2 == 1) d w) ∧
      roundCore f r (.fin neg m e) = (f.sign neg + min (k + b.toNat) (f.top - 1),
        Flags.when (decide (d ≠ 0)) Flags.nx ||| Flags.when (decide (d ≠ 0) && tinyResult f r neg m e) Flags.uf)) := by
  obtain ⟨E, c, hkE, hc, hc'⟩ := exists_units f k
  have hsize : f.size k = c * 2 ^ (f.qmin + E) := by
    rw [hkE]
    exact size_eq hf hc hc'.le (hkE ▸ hk.le)
  have hnext : f.size (k + 1) = (c + 1) * 2 ^ (f.qmin + E) := by
    rw [hkE, ← Nat.cast_succ]
    exact size_eq hf (hc.imp_right Nat.le_succ_of_le) hc' (by rwa [Nat.add_succ, ← hkE])
  have hodd : c % 2 = k % 2 := by
    obtain ⟨n, hn⟩ := Nat.exists_eq_add_of_le' hfb
    rw [hkE, hn, pow_succ, ← Nat.mul_assoc, Nat.mul_comm _ 2, Nat.mul_add_mod]
  have hgap : (2 : ℚ) ^ (f.qmin + E) = f.size (k + 1) - f.size k := by
    rw [hsize, hnext, add_one_mul, add_sub_cancel_left]
  obtain ⟨b, n, hb, hn, hround⟩ := roundCore_between r neg hm hc hc' (hsize ▸ h1) (hnext ▸ h2)
  rw [← hsize, hgap, hodd] at hb hn
  rw [← hsize, ← Nat.add_assoc, ← Nat.add_assoc, ← hkE] at hround
  intro d w
  rw [← top_le_iff_exceeds hfb hr hk hb hn]
  exact ⟨fun h => by rw [hround, if_pos h], fun h => ⟨b, hb, by rw [hround, if_neg h]⟩⟩

/-- The flags of a result that does not overflow (R59). -/
theorem resultFlags_eq (inexact tiny : Bool) :
    Flags.when inexact Flags.nx ||| Flags.when (inexact && tiny) Flags.uf =
      if inexact = false then 0 else if tiny = true then 3 else 1 := by
  cases inexact <;> cases tiny <;> rfl

/-- What a magnitude between the codes k and k + 1 gives when it does not overflow: the code, and what is inexact or tiny. -/
theorem roundCore_within {f : FpFmt} (hf : 1 ≤ f.eb) (hfb : 1 ≤ f.fb) {r : Rnd} (hr : r.mode ≤ 5) (neg : Bool) {m k : Nat} {e : Int}
    (hm : 0 < m) (hk : k < f.top) (h1 : f.size k ≤ m * 2 ^ e) (h2 : m * 2 ^ e < f.size (k + 1)) :
    let d := m * 2 ^ e - f.size k
    let w := f.size (k + 1) - f.size k
    let up := RoundsUp r neg (k % 2 == 1) d w ∧ ¬k + 1 = f.top
    let out := roundCore f r (.fin neg m e)
    ¬Exceeds f r neg k d w → (up → out.1 = f.sign neg + (k + 1)) ∧ (¬up → out.1 = f.sign neg + k) ∧ (d = 0 → out.2 = 0) ∧
      (d ≠ 0 → ¬TinyAfter f r neg (m * 2 ^ e) → out.2 = 1) ∧ (d ≠ 0 → TinyAfter f r neg (m * 2 ^ e) → out.2 = 3) := by
  intro d w up out h
  obtain ⟨b, hb, hround⟩ := (roundCore_code hf hfb hr neg hm hk h1 h2).2 h
  rw [resultFlags_eq] at hround
  simp only [out, hround, ← tinyResult_iff f r neg hm]
  refine ⟨fun ⟨hup, hlast⟩ => ?_, fun hdown => ?_, fun h0 => ?_, fun h0 ht => ?_, fun h0 ht => ?_⟩
  · rw [hb.2 hup, Bool.toNat_true, Nat.min_eq_left (by omega)]
  · cases hbit : b with
    | false => rw [Bool.toNat_false, Nat.min_eq_left (by omega), Nat.add_zero]
    | true =>
      have hlast : k + 1 = f.top := not_not.1 fun hlast => hdown ⟨hb.1 hbit, hlast⟩
      rw [Bool.toNat_true, Nat.min_eq_right (by omega), ← hlast, Nat.add_sub_cancel]
  · exact if_pos (decide_eq_false (not_not.2 h0))
  · rw [if_neg (by simpa using h0), if_neg ht]
  · rw [if_neg (by simpa using h0), if_pos ht]

/-! ### Rounding to an integer -/

/-- An integer brought into a range, with the exception that says so (R65). -/
def clamped (lo hi i : Int) (inexact : Bool) (g : BitVec 32) : Int × Flags × BitVec 32 :=
  if i < lo then (lo, Flags.nv, g) else if hi < i then (hi, Flags.nv, g) else (i, Flags.when inexact Flags.nx, g)

theorem clamped_below {lo hi i : Int} {inexact : Bool} {g : BitVec 32} (h : i < lo) :
    clamped lo hi i inexact g = (lo, Flags.nv, g) := by
  rw [clamped, if_pos h]

theorem clamped_above {lo hi i : Int} {inexact : Bool} {g : BitVec 32} (hlh : lo ≤ hi) (h : hi < i) :
    clamped lo hi i inexact g = (hi, Flags.nv, g) := by
  rw [clamped, if_neg (by omega), if_pos h]

theorem clamped_inside {lo hi i : Int} {g : BitVec 32} (d : ℚ) (h1 : lo ≤ i) (h2 : i ≤ hi) :
    clamped lo hi i (decide (d ≠ 0)) g = (i, if d = 0 then 0 else Flags.nx, g) := by
  rw [clamped, if_neg (by omega), if_neg (by omega)]
  by_cases h : d = 0
  · rw [if_pos h, decide_eq_false (not_not.2 h)]
    rfl
  · rw [if_neg h, decide_eq_true h]
    rfl

/-- An integer by its sign and magnitude. -/
def signedInt (neg : Bool) (k : Nat) : Int := if neg then -(k : Int) else k

/-- Two magnitudes past every range are brought to the same bound. -/
theorem clamped_far {lo hi : Int} (hlh : lo ≤ hi) (hlo : -2 ^ 127 ≤ lo) (hhi : hi < 2 ^ 127) (neg : Bool) {j k : Nat}
    (hj : 2 ^ 128 ≤ j) (hk : 2 ^ 128 ≤ k) (u v : Bool) (g : BitVec 32) :
    clamped lo hi (signedInt neg j) u g = clamped lo hi (signedInt neg k) v g := by
  cases neg with
  | false =>
    have h : ∀ n : Nat, 2 ^ 128 ≤ n → hi < signedInt false n := fun n hn => by
      change hi < (n : Int)
      omega
    rw [clamped_above hlh (h j hj), clamped_above hlh (h k hk)]
  | true =>
    have h : ∀ n : Nat, 2 ^ 128 ≤ n → signedInt true n < lo := fun n hn => by
      change -(n : Int) < lo
      omega
    rw [clamped_below (h j hj), clamped_below (h k hk)]

/-- A magnitude between k and k + 1 is rounded to one of them and brought into the range. -/
theorem roundToInt_between {lo hi : Int} (hlh : lo ≤ hi) (hlo : -2 ^ 127 ≤ lo) (hhi : hi < 2 ^ 127) (r : Rnd) (neg : Bool) {m k : Nat}
    {e : Int} (hm : 0 < m) (h1 : (k : ℚ) ≤ m * 2 ^ e) (h2 : (m : ℚ) * 2 ^ e < k + 1) :
    ∃ b : Bool, (b = true ↔ RoundsUp r.next neg (k % 2 == 1) (m * 2 ^ e - k) 1) ∧
      roundToInt lo hi r (.fin neg m e) =
        clamped lo hi (signedInt neg (k + b.toNat)) (decide ((m * 2 ^ e - k : ℚ) ≠ 0)) r.next.gen := by
  obtain ⟨b, hb, hr⟩ := roundAt_between (q := 0) (c := k) r.next neg (by simpa using h1) (by simpa using h2)
  rw [zpow_zero, mul_one] at hb hr
  refine ⟨b, hb, ?_⟩
  by_cases hbig : (Nat.log2 m : Int) + e > 128
  · have hk : 2 ^ 128 < k + 1 := by
      have h := (two_zpow_le.2 hbig.le).trans_lt ((log2_binade hm e).1.trans_lt h2)
      exact_mod_cast h
    have hround : roundToInt lo hi r (.fin neg m e) = clamped lo hi (signedInt neg (2 ^ 128)) false r.next.gen := by
      simp only [roundToInt, if_neg hm.ne', if_pos hbig]
      rfl
    rw [hround]
    exact clamped_far hlh hlo hhi neg le_rfl (by omega) _ _ _
  · simp only [roundToInt, if_neg hm.ne', if_neg hbig, hr]
    rfl

/-! ### The generator of RSR (R60) -/

theorem rnd_next_eq (r : Rnd) : r.next = ⟨r.mode, if r.mode = 5 then genStep r.gen else r.gen⟩ := by
  unfold Rnd.next
  split <;> rfl

theorem genStep_getLsbD (g : BitVec 32) {i : Nat} (hi : i < 32) : (genStep g).getLsbD i =
    if i = 0 then (g.getLsbD 31 ^^ g.getLsbD 21 ^^ g.getLsbD 1 ^^ g.getLsbD 0) else g.getLsbD (i - 1) := by
  unfold genStep
  generalize (g.getLsbD 31 ^^ g.getLsbD 21 ^^ g.getLsbD 1 ^^ g.getLsbD 0) = b
  rw [BitVec.getLsbD_or, BitVec.getLsbD_shiftLeft, BitVec.getLsbD_setWidth, BitVec.getLsbD_ofBool]
  by_cases h : i = 0 <;> simp [h, hi]

/-- To an integer, where codes are 1 apart, RSR compares the distance itself with the stepped generator. -/
theorem roundsUp_next (r : Rnd) (neg odd : Bool) (d : ℚ) :
    RoundsUp r.next neg odd d 1 ↔ match r.mode with
      | 5 => ((genStep r.gen).toNat : ℚ) < d * 2 ^ 32
      | _ => RoundsUp r neg odd d 1 := by
  match r with
  | ⟨5, g⟩ => simp [RoundsUp, Rnd.next]
  | ⟨0, _⟩ => rfl
  | ⟨1, _⟩ => rfl
  | ⟨2, _⟩ => rfl
  | ⟨3, _⟩ => rfl
  | ⟨4, _⟩ => rfl
  | ⟨_ + 6, _⟩ => simp [RoundsUp, Rnd.next]

end Machine
end Sys2Proof

open Sys2Proof Sys2Proof.Machine

/-- Settles O60: a finite value between two codes, or two integers, by what the multiples of a power of two next to it give. -/
theorem roundingRules : Obligations.RoundingRules := by
  intro f r neg m e hf hr hm x v up limit past fine least tiny
  have hwidths : 2 ≤ f.eb ∧ 1 ≤ f.fb := by
    simp only [List.mem_cons, List.not_mem_nil, or_false] at hf
    rcases hf with rfl | rfl | rfl | rfl <;> decide
  obtain ⟨heb, hfb⟩ := hwidths
  have hpast : roundCore f r v = (overflowBits f r neg, Flags.of ||| Flags.nx) → past := by
    intro h
    change (roundCore f r v).2 = 5 ∧ _
    rw [h]
    exact ⟨rfl, overflowBits_eq f r neg⟩
  refine ⟨fun h => hpast (roundCore_past heb r neg hm h), ?_, ⟨rfl, rfl, rfl⟩, ?_, fun g i => genStep_getLsbD g, ?_⟩
  · intro k hk size d w last exceeds hd hw
    have h1 : f.size k ≤ m * 2 ^ e := sub_nonneg.1 hd
    have h2 : m * 2 ^ e < f.size (k + 1) := (sub_lt_sub_iff_right _).1 hw
    have hf : 1 ≤ f.eb := by omega
    exact ⟨fun h => hpast ((roundCore_code hf hfb hr neg hm hk h1 h2).1 h), roundCore_within hf hfb hr neg hm hk h1 h2⟩
  · intro y
    rw [roundTo, rnd_next_eq]
  · intro lo hi k hlh hlo hhi d up' g gives hd0 hd1
    have hgen : r.next.gen = g := congrArg Rnd.gen (rnd_next_eq r)
    obtain ⟨b, hb, hround⟩ := roundToInt_between hlh hlo hhi r neg hm (sub_nonneg.1 hd0) (sub_lt_iff_lt_add'.1 hd1)
    rw [hgen] at hround
    have hgives : ∀ n, signedInt neg (k + b.toNat) = n → gives n := by
      rintro _ rfl
      exact ⟨fun h => hround.trans (clamped_below h), fun h => hround.trans (clamped_above hlh h),
        fun h h' => hround.trans (clamped_inside d h h')⟩
    have hup : b = true ↔ up' := hb.trans (roundsUp_next r neg _ d)
    refine ⟨fun h => hgives _ ?_, fun h => hgives _ ?_, ?_, ?_⟩
    · rw [hup.2 h, Bool.toNat_true, signedInt, Nat.cast_succ]
    · rw [Bool.eq_false_iff.2 (mt hup.1 h), Bool.toNat_false, Nat.add_zero, signedInt]
    · rw [roundToInt, hgen]
    · rw [roundToInt, hgen]
end

section
/-! CERTIFICATES. Decoding and encoding (O57): each instruction is read back from its word, and each word that decodes is one. -/

namespace Sys2Proof
namespace Laws

/-! ### From instructions to words -/

/-- Each constructor by its own lemma, in the order of Instr. -/
theorem fieldsRead : ∀ i : Instr, FieldsRead.Statement i :=
  Instr.rec FieldsRead.add FieldsRead.sub FieldsRead.and FieldsRead.or FieldsRead.xor FieldsRead.andn FieldsRead.sll
    FieldsRead.srl FieldsRead.sra FieldsRead.slt FieldsRead.sltu FieldsRead.min FieldsRead.max FieldsRead.minu FieldsRead.maxu
    FieldsRead.mul FieldsRead.mulh FieldsRead.mulhu FieldsRead.div FieldsRead.divu FieldsRead.rem FieldsRead.remu FieldsRead.clz
    FieldsRead.popc FieldsRead.addi FieldsRead.andi FieldsRead.ori FieldsRead.xori FieldsRead.slti FieldsRead.slli
    FieldsRead.srli FieldsRead.srai FieldsRead.lui FieldsRead.auipc FieldsRead.ldB FieldsRead.ldH FieldsRead.ldW FieldsRead.ldD
    FieldsRead.ldBu FieldsRead.ldHu FieldsRead.ldWu FieldsRead.stB FieldsRead.stH FieldsRead.stW FieldsRead.stD FieldsRead.beq
    FieldsRead.bne FieldsRead.blt FieldsRead.bge FieldsRead.bltu FieldsRead.bgeu FieldsRead.jal FieldsRead.jalr FieldsRead.fadd
    FieldsRead.fsub FieldsRead.fmul FieldsRead.fdiv FieldsRead.fsqrt FieldsRead.fmin FieldsRead.fmax FieldsRead.fma
    FieldsRead.feq FieldsRead.flt FieldsRead.fle FieldsRead.fclass FieldsRead.fcvtI FieldsRead.fcvtF FieldsRead.fcvt
    FieldsRead.fsgnj FieldsRead.ldAcq FieldsRead.stRel FieldsRead.amoAdd FieldsRead.amoAnd FieldsRead.amoOr FieldsRead.amoXor
    FieldsRead.amoMin FieldsRead.amoMax FieldsRead.amoMinu FieldsRead.amoMaxu FieldsRead.amoSwap FieldsRead.amoCas
    FieldsRead.amoFmax FieldsRead.fence FieldsRead.scommit FieldsRead.bar FieldsRead.bararr FieldsRead.barwait FieldsRead.claim
    FieldsRead.waitt FieldsRead.sendt FieldsRead.recvchk FieldsRead.waitaddr FieldsRead.yield FieldsRead.launch FieldsRead.xinv
    FieldsRead.csrr FieldsRead.csrw FieldsRead.csrs FieldsRead.csrc FieldsRead.trap FieldsRead.tret FieldsRead.vsave
    FieldsRead.vrestore FieldsRead.scrub FieldsRead.ctxkill FieldsRead.setown FieldsRead.vdecl FieldsRead.setvl FieldsRead.vtag
    FieldsRead.vshape FieldsRead.vmv FieldsRead.vbcast FieldsRead.vid FieldsRead.vidr FieldsRead.vxtract FieldsRead.vinsert
    FieldsRead.vadd FieldsRead.vsub FieldsRead.vmul FieldsRead.vmulh FieldsRead.vmin FieldsRead.vmax FieldsRead.vand
    FieldsRead.vor FieldsRead.vxor FieldsRead.vsll FieldsRead.vsrl FieldsRead.vsra FieldsRead.vabs FieldsRead.vwmac
    FieldsRead.vdiv FieldsRead.vrem FieldsRead.vcmpeq FieldsRead.vcmplt FieldsRead.vcmple FieldsRead.vsel FieldsRead.vfadd
    FieldsRead.vfsub FieldsRead.vfmul FieldsRead.vfaddX FieldsRead.vfsubX FieldsRead.vfmulX FieldsRead.vfma FieldsRead.vfdiv
    FieldsRead.vfsqrt FieldsRead.vfrcp FieldsRead.vfexp2 FieldsRead.vflog2 FieldsRead.vfmin FieldsRead.vfmax FieldsRead.vfcmpeq
    FieldsRead.vfcmplt FieldsRead.vfcmple FieldsRead.vfclass FieldsRead.vdwadd FieldsRead.vdwmul FieldsRead.vdwnorm
    FieldsRead.vredsumX FieldsRead.vcvt FieldsRead.vscale FieldsRead.vquant FieldsRead.vdeq FieldsRead.vld FieldsRead.vlds
    FieldsRead.vldx FieldsRead.vldb FieldsRead.vst FieldsRead.vsts FieldsRead.vstx FieldsRead.vstt FieldsRead.vgather
    FieldsRead.vslideup FieldsRead.vslidedn FieldsRead.vcompress FieldsRead.vexpand FieldsRead.vrev FieldsRead.vmand
    FieldsRead.vmor FieldsRead.vmxor FieldsRead.vmnot FieldsRead.vmpop FieldsRead.vmffs FieldsRead.vmset FieldsRead.vmffsr
    FieldsRead.vredsum FieldsRead.vredmax FieldsRead.vredmin FieldsRead.vredand FieldsRead.vredor FieldsRead.vscansum
    FieldsRead.vscanmax FieldsRead.vscanand FieldsRead.vsegsum FieldsRead.vsegmax FieldsRead.tagw FieldsRead.tagr
    FieldsRead.tmatch FieldsRead.toprSet FieldsRead.toprAdd FieldsRead.toprMuls FieldsRead.toprClr FieldsRead.toprRetag
    FieldsRead.mzero FieldsRead.mop FieldsRead.mldw FieldsRead.mkeep FieldsRead.mdrain FieldsRead.mtov FieldsRead.mfromv
    FieldsRead.mwait FieldsRead.dcopy FieldsRead.dcopy2d FieldsRead.dfill FieldsRead.tkwait FieldsRead.tktest FieldsRead.ddeal
    FieldsRead.cmv FieldsRead.cwrite FieldsRead.ccommit FieldsRead.cstat FieldsRead.ccal FieldsRead.binst FieldsRead.bmsg
    FieldsRead.bstat FieldsRead.vscore FieldsRead.vexpm FieldsRead.vaccv FieldsRead.vsoftfin FieldsRead.vtreem
    FieldsRead.vaccept FieldsRead.vcommitm FieldsRead.vmaxi FieldsRead.pdlook FieldsRead.pdins FieldsRead.pdref
    FieldsRead.pdunref FieldsRead.pdstat FieldsRead.pfx FieldsRead.bHalt FieldsRead.bLi FieldsRead.bAdd FieldsRead.bSub
    FieldsRead.bAnd FieldsRead.bShl FieldsRead.bShr FieldsRead.bBnz FieldsRead.bBz FieldsRead.bLdq FieldsRead.bStq
    FieldsRead.bMode FieldsRead.bAct FieldsRead.bPre FieldsRead.bXld FieldsRead.bMac FieldsRead.bAclr FieldsRead.bAclrEntry
    FieldsRead.bArd FieldsRead.bRout FieldsRead.deviceReset FieldsRead.bootStage FieldsRead.coreCycle FieldsRead.laneHoldExpiry
    FieldsRead.laneGrant FieldsRead.budget FieldsRead.launchWaitExpiry FieldsRead.gangPlacement FieldsRead.memberExit
    FieldsRead.barrierComplete FieldsRead.waittInstant FieldsRead.waitaddrWake FieldsRead.sendtArrival FieldsRead.matrixExecute
    FieldsRead.copyComplete FieldsRead.dealPassage FieldsRead.cwriteComplete FieldsRead.versionSwitch FieldsRead.arrayPass
    FieldsRead.cmvComplete FieldsRead.recalibration FieldsRead.rotationSwitch FieldsRead.handlerStart FieldsRead.modeSwitchDone
    FieldsRead.kittyService FieldsRead.patrol FieldsRead.faultHoldRelease FieldsRead.coreSwitch FieldsRead.localStoreSave
    FieldsRead.killScrub FieldsRead.releaseScrub FieldsRead.errorEntryDone FieldsRead.linkDown FieldsRead.linkRetrained
    FieldsRead.peerPortFail FieldsRead.hostLinkFail FieldsRead.hostLinkReset FieldsRead.ideIntegrityFailure
    FieldsRead.tdispViolation FieldsRead.flr FieldsRead.lockInterface FieldsRead.startInterface FieldsRead.stopInterface
    FieldsRead.getDeviceInterfaceReport FieldsRead.getDeviceInterfaceState FieldsRead.getVersion FieldsRead.getCapabilities
    FieldsRead.negotiateAlgorithms FieldsRead.getDigests FieldsRead.getCertificate FieldsRead.challenge
    FieldsRead.getMeasurements FieldsRead.keyExchange FieldsRead.finish FieldsRead.ideKm FieldsRead.d3cold
    FieldsRead.d3hotRequest FieldsRead.start FieldsRead.grant FieldsRead.exportAudit FieldsRead.auditack FieldsRead.powerLimit
    FieldsRead.powerWindow FieldsRead.registerWrite FieldsRead.hostOrPeerWrite FieldsRead.cxlMemRead FieldsRead.snoopInvalidate
    FieldsRead.illegal FieldsRead.handlerInstall FieldsRead.peerRead FieldsRead.unknownOp

/-- An instruction of a hart (R100): it has a word, and it is none of a sequencer's. -/
def isGulcen (i : Instr) : Bool := !i.isEvent && !i.isBrixem

theorem isGulcen_iff {i : Instr} : isGulcen i = true ↔ i.isEvent = false ∧ i.isBrixem = false := by
  rw [isGulcen, Bool.and_eq_true, Bool.not_eq_true', Bool.not_eq_true']

theorem isEvent_and_isBrixem (i : Instr) : (i.isEvent && i.isBrixem) = false := by cases i <;> rfl

theorem isEvent_of_isBrixem {i : Instr} (h : i.isBrixem = true) : i.isEvent = false := by
  simpa only [h, Bool.and_true] using isEvent_and_isBrixem i

theorem rawDecode_encode {i : Instr} (h : isGulcen i = true) : rawDecode (encode i) = some i := by
  obtain ⟨he, hb⟩ := isGulcen_iff.1 h
  simpa only [FieldsRead.Statement, he, hb, Bool.false_eq_true, if_false] using fieldsRead i

theorem rawBrixem_encode {i : Instr} (h : i.isBrixem = true) : rawBrixem (encode i) = some i := by
  simpa only [FieldsRead.Statement, isEvent_of_isBrixem h, h, Bool.false_eq_true, if_false, if_true] using fieldsRead i

/-! ### From words to instructions -/

/-- Every row of the opcode map (Table 5.4) names an instruction of a hart. -/
theorem rawDecode_gulcen (w : Word) : (rawDecode w).all isGulcen = true := by
  unfold rawDecode rawMajor01 rawMajor02 rawMajor05 rawMajor06 rawMajor07 rawMajor0A rawMajor0B rawMajor0C rawMajor0D rawMajor10
    rawMajor11 rawMajor12 rawMajor13 rawMajor14 rawMajor15 rawMajor16 rawMajor17 rawMajor18 rawMajor19 rawMajor1A rawMajor1B
    rawMajor1C rawMajor1D rawMajor1E rawMajor1F
  repeat' split
  all_goals rfl

/-- Every row of Table 15.4 names an instruction of a sequencer. -/
theorem rawBrixem_brixem (w : Word) : (rawBrixem w).all Instr.isBrixem = true := by
  unfold rawBrixem
  repeat' split
  all_goals rfl

/-! ### The two decoders -/

/-- What both decoders make of the instruction that a word names (R106, R108). -/
def checked (raw : Option Instr) (w : Word) : Except Reject Instr :=
  match raw with
  | none => .error .unlisted
  | some i => if encode i ≠ w then .error .reserved else if i.wf then .ok i else .error .operand

theorem decodeWord_eq_checked (w : Word) : decodeWord w = checked (rawDecode w) w := rfl

theorem decodeBrixem_eq_checked (w : Word) : decodeBrixem w = checked (rawBrixem w) w := rfl

theorem checked_eq_ok {raw : Option Instr} {w : Word} {i : Instr} :
    checked raw w = .ok i ↔ raw = some i ∧ encode i = w ∧ i.wf = true := by
  constructor
  · intro h
    unfold checked at h
    split at h
    · cases h
    · split_ifs at h with he hf
      cases h
      exact ⟨rfl, not_not.1 he, hf⟩
  · rintro ⟨rfl, he, hf⟩
    simp only [checked, he, hf, ne_eq, not_true, if_false, if_true]

/-- A word decodes to an instruction of a hart exactly if it names it, is its encoding, and its fields are allowed. -/
theorem decodeWord_eq_ok {w : Word} {i : Instr} : decodeWord w = .ok i ↔ rawDecode w = some i ∧ encode i = w ∧ i.wf = true := by
  rw [decodeWord_eq_checked, checked_eq_ok]

theorem decodeBrixem_eq_ok {w : Word} {i : Instr} : decodeBrixem w = .ok i ↔ rawBrixem w = some i ∧ encode i = w ∧ i.wf = true := by
  rw [decodeBrixem_eq_checked, checked_eq_ok]

end Laws
end Sys2Proof

open Sys2Proof Sys2Proof.Laws

/-- Settles O57: the fields that encoding wrote are read back, and both tables name instructions of their own word set alone. -/
theorem decodeEncode : Obligations.DecodeEncode := by
  refine ⟨fun i he hf hb => ?_, fun i hf hb => ?_, fun w i => ⟨fun h => ?_, fun h => ?_⟩⟩
  · exact decodeWord_eq_ok.2 ⟨rawDecode_encode (isGulcen_iff.2 ⟨he, hb⟩), rfl, hf⟩
  · exact decodeBrixem_eq_ok.2 ⟨rawBrixem_encode hb, rfl, hf⟩
  · obtain ⟨hr, he, hf⟩ := decodeWord_eq_ok.1 h
    have hg := rawDecode_gulcen w
    rw [hr] at hg
    exact ⟨he, hf, isGulcen_iff.1 hg⟩
  · obtain ⟨hr, he, hf⟩ := decodeBrixem_eq_ok.1 h
    have hb := rawBrixem_brixem w
    rw [hr] at hb
    exact ⟨he, hf, hb⟩

/-- Settles O56: each list is finite, and the kernel decodes its words. -/
theorem decodeWords : Obligations.DecodeWords := by
  unfold Obligations.DecodeWords
  simp only [List.forall_mem_cons, List.not_mem_nil, false_implies, implies_true, and_true]
  decide +kernel
end

section
/-! CERTIFICATES. The prefix word (O19): what it leaves for its successor, and the cause of one that meets a latched prefix. -/

namespace Sys2Proof
namespace Machine
open Laws

/-- The fields of Table 5.7, read back from bits 24:0 of the word. -/
theorem ofFields_pfxWord (pm : BitVec 3) (pn : Bool) (em ek : BitVec 3) (dc : BitVec 5) (dce : Bool) (rm : BitVec 3) (sat : Bool)
    (a : XWord) : Pfx.ofFields (pfxWord pm pn em ek dc dce rm sat) a =
      { present := true, pm := pm, pn := pn, em := em, ek := ek, dc := dc, dce := dce, rm := rm, sat := sat, at_ := a } := by
  have hf : ∀ lo n, fld (pfxWord pm pn em ek dc dce rm sat) lo n = @fld (3 + 1 + 3 + 3 + 5 + 1 + 3 + 1 + 5)
    (pm ++ BitVec.ofBool pn ++ em ++ ek ++ dc ++ BitVec.ofBool dce ++ rm ++ BitVec.ofBool sat ++ (0 : BitVec 5)) lo n := fun _ _ => rfl
  simp (disch := decide) only [Pfx.ofFields, bit, hf, fld_hi, fld_lo, fld_all, Nat.reduceSub, ofBool_bit]

theorem pfxOf_pend {r : Regs} {v : BitVec 25} {a : XWord} (h : r.pend = some (v, a)) : pfxOf r = .ofFields v a := by
  rw [pfxOf, h]

/-- A hart of which a prefix with the fields `v` has executed: they wait for the next word of the convoy (R112, R116). -/
def State.prefixed (s : State) (v : BitVec 25) : State :=
  s.setHart { s.hart with
    undo := some (s.hart.undo.getD s.regs)
    regs := { s.regs with
      pend := some (v, s.regs.pc), first := if s.hart.undo.isNone then some v else s.regs.first, pc := s.regs.pc + 4 } }

theorem execPfx_waits {s : State} (pm : BitVec 3) (pn : Bool) (em ek : BitVec 3) (dc : BitVec 5) (dce : Bool) (rm : BitVec 3)
    (sat : Bool) (hp : s.regs.pend = none) (hv : s.regs.pfxValid = false) :
    execPfx pm pn em ek dc dce rm sat s = .next (s.prefixed (pfxWord pm pn em ek dc dce rm sat)) := by
  simp only [execPfx, hp, hv, Bool.false_eq_true, if_false, State.prefixed]

theorem execPfx_illegal {s : State} (pm : BitVec 3) (pn : Bool) (em ek : BitVec 3) (dc : BitVec 5) (dce : Bool) (rm : BitVec 3)
    (sat : Bool) (hp : s.regs.pend = none) (hv : s.regs.pfxValid = true) :
    execPfx pm pn em ek dc dce rm sat s = stopped s (.trap { code := cILLEGAL, tv := s.regs.pc }) := by
  simp only [execPfx, hp, hv, if_true]

end Machine
end Sys2Proof

open Sys2Proof Sys2Proof.Machine

/-- Settles O19: the fields wait with the prefix's own address; a latched prefix makes a precise cause of it. -/
theorem prefixes : Obligations.Prefixes := by
  intro s pm pn em ek dc dce rm sat i
  rw [show exec i s = _ from exec_pfx]
  refine ⟨fun hp hv => ?_, fun ht hm hv => ?_⟩
  · refine ⟨_, execPfx_waits pm pn em ek dc dce rm sat hp hv, rfl, ?_, rfl, rfl, rfl⟩
    exact (pfxOf_pend rfl).trans (ofFields_pfxWord pm pn em ek dc dce rm sat s.regs.pc)
  · have ⟨_, ⟨_, hp, _⟩, _, _⟩ := hm
    rw [execPfx_illegal pm pn em ek dc dce rm sat hp hv]
    exact stopped_precise hm ht rfl rfl (show 0x01 ≠ cXLAT by decide) rfl
end

section
/-! CERTIFICATES. Scalar integer instructions (O1, O2): what each shape of operation writes, and what a zero divisor raises. -/

namespace Sys2Proof
namespace Machine

/-! ### The shapes of an integer operation -/

section
variable {s : State} {d a b : BitVec 5} {w : Bool} {f : XWord → XWord → XWord} {f32 : BitVec 32 → BitVec 32 → BitVec 32} {v : XWord}
  (h : InStrip s)
include h

/-- A two-source operation writes its 64-bit result or, under W32, that of bits 31:0 sign-extended (R124). -/
theorem aluOp_sets :
    Sets (aluOp d a b w f f32 s) s d (if w then sx32 (f32 (lo32 (s.x a)) (lo32 (s.x b))) else f (s.x a) (s.x b)) :=
  ordinary_sets h rfl

theorem aluOp64_sets (hv : f (s.x a) (s.x b) = v) : Sets (aluOp64 d a b f s) s d v := hv ▸ ordinary_sets h rfl

theorem aluImm_sets {y : XWord} (hv : f (s.x a) y = v) : Sets (aluImm d a y f s) s d v := hv ▸ ordinary_sets h rfl

theorem countOp_sets {count : Nat → Nat → Nat} :
    Sets (countOp d a w count s) s d (xword (if w then count (lo32 (s.x a)).toNat 32 else count (s.x a).toNat 64)) := by
  refine ordinary_sets h ?_
  rw [show xbits (s.x a) 0 32 = (lo32 (s.x a)).toNat by simp [xbits, bitsAt, lo32]]

/-- A shift by a register takes its bits 5:0, or bits 4:0 under W32 (R124). -/
theorem shiftOp_sets {sh : XWord → Nat → XWord} {sh32 : BitVec 32 → Nat → BitVec 32} :
    Sets (aluOp d a b w (fun x y => sh x (xbits y 0 6)) (fun x y => sh32 x (bitsAt y.toNat 0 5)) s) s d
      (if w then sx32 (sh32 (lo32 (s.x a)) ((s.x b).toNat % 32)) else sh (s.x a) ((s.x b).toNat % 64)) := by
  have h5 : bitsAt (lo32 (s.x b)).toNat 0 5 = (s.x b).toNat % 32 := by
    simp only [bitsAt, lo32, BitVec.toNat_setWidth]
    omega
  have h6 : xbits (s.x b) 0 6 = (s.x b).toNat % 64 := by simp only [xbits, bitsAt, pow_zero, Nat.div_one, Nat.reducePow]
  rw [← h5, ← h6]
  exact aluOp_sets h

end

theorem ite_slt {α : Type} (x y : XWord) (u v : α) : (if x.slt y then u else v) = if x.toInt < y.toInt then u else v := by
  simp only [BitVec.slt, decide_eq_true_eq]

theorem ite_ult {α : Type} (x y : XWord) (u v : α) : (if x.ult y then u else v) = if x.toNat < y.toNat then u else v := by
  simp only [BitVec.ult, decide_eq_true_eq]

/-! ### Division (R125) -/

section
variable {s : State} {d a b : BitVec 5} {f : XWord → XWord → XWord} {f32 : BitVec 32 → BitVec 32 → BitVec 32}

theorem divOp_sets {v : XWord} (h : InStrip s) (hb : s.x b ≠ 0) (hv : f (s.x a) (s.x b) = v) :
    Sets (divOp d a b false f f32 s) s d v :=
  ordinary_sets h (by simp only [Bool.false_eq_true, if_false, if_neg hb, hv])

theorem divOp32_sets (h : InStrip s) (hb : lo32 (s.x b) ≠ 0) :
    Sets (divOp d a b true f f32 s) s d (sx32 (f32 (lo32 (s.x a)) (lo32 (s.x b)))) :=
  ordinary_sets h (by rw [lo32] at hb; simp only [if_true, if_neg hb]; rfl)

/-- A zero divisor: DIVZ is precise, so the strip before the instruction is committed (R389). -/
theorem divOp_divz (h : MayCommit s) (ht : Traps s) (hb : s.x b = 0) :
    ∃ t, divOp d a b false f f32 s = .next t ∧ EntersTrap s.settle t { code := 0x05, tv := s.x a } false 0 s.regs.pc := by
  rw [show divOp d a b false f f32 s = stopped s (.trap { code := cDIVZ, tv := s.x a }) from
    ordinary_stops (by simp only [Bool.false_eq_true, if_false, if_pos hb])]
  exact stopped_precise h ht rfl rfl (show 0x05 ≠ cXLAT by decide) rfl

theorem divOp32_divz (h : MayCommit s) (ht : Traps s) (hb : lo32 (s.x b) = 0) :
    ∃ t, divOp d a b true f f32 s = .next t ∧
      EntersTrap s.settle t { code := 0x05, tv := sx32 (lo32 (s.x a)) } false 0 s.regs.pc := by
  rw [show divOp d a b true f f32 s = stopped s (.trap { code := cDIVZ, tv := sext 32 (s.x a) }) from
    ordinary_stops (by rw [lo32] at hb; simp only [if_true, if_pos hb])]
  exact stopped_precise h ht rfl rfl (show 0x05 ≠ cXLAT by decide) rfl

end

theorem divS_intMin : divS (BitVec.intMin 64) (BitVec.allOnes 64) = BitVec.intMin 64 := by decide

theorem remS_intMin : remS (BitVec.intMin 64) (BitVec.allOnes 64) = 0 := by decide

end Machine
end Sys2Proof

open Sys2Proof Sys2Proof.Machine

/-- Settles O1: each row is one of the shapes of an operation, and its function gives the row's result. -/
theorem integerResults : Obligations.IntegerResults := by
  refine ⟨fun s d a b w h => ?_, fun s d a i n j h => ?_⟩
  · simp only [exec_add, exec_sub, exec_and, exec_or, exec_xor, exec_andn, exec_sll, exec_srl, exec_sra, exec_slt, exec_sltu, exec_min,
      exec_max, exec_minu, exec_maxu, exec_mul, exec_mulh, exec_mulhu, exec_clz, exec_popc]
    exact ⟨aluOp_sets h, aluOp_sets h, aluOp64_sets h rfl, aluOp64_sets h rfl, aluOp64_sets h rfl, aluOp64_sets h rfl,
      shiftOp_sets h, shiftOp_sets h, shiftOp_sets h, aluOp64_sets h (ite_slt _ _ _ _), aluOp64_sets h (ite_ult _ _ _ _),
      aluOp64_sets h (ite_slt _ _ _ _), aluOp64_sets h (ite_slt _ _ _ _), aluOp64_sets h (ite_ult _ _ _ _),
      aluOp64_sets h (ite_ult _ _ _ _), aluOp_sets h, aluOp64_sets h rfl, aluOp64_sets h rfl, countOp_sets h, countOp_sets h⟩
  · simp only [exec_addi, exec_andi, exec_ori, exec_xori, exec_slti, exec_slli, exec_srli, exec_srai, exec_lui, exec_auipc]
    have hn : (n.setWidth 64).toNat = n.toNat := BitVec.toNat_setWidth_of_le (by decide)
    exact ⟨aluImm_sets h rfl, aluImm_sets h rfl, aluImm_sets h rfl, aluImm_sets h rfl, aluImm_sets h (ite_slt _ _ _ _),
      aluImm_sets h (by rw [hn]), aluImm_sets h (by rw [hn]), aluImm_sets h (by rw [hn]), ordinary_sets h rfl, ordinary_sets h rfl⟩

/-- Settles O2: a nonzero divisor gives the row's quotient or remainder; a zero one stops the instruction before it writes. -/
theorem division : Obligations.Division := by
  refine ⟨fun s d a b h => ⟨fun hy => ?_, fun hy => ?_, fun hx hy => ?_⟩, fun s d a b ht h => ⟨fun hy => ?_, fun hy => ?_⟩⟩
  · simp only [exec_div, exec_divu, exec_rem, exec_remu]
    exact ⟨divOp_sets h hy rfl, divOp_sets h hy rfl, divOp_sets h hy rfl, divOp_sets h hy rfl⟩
  · simp only [exec_div, exec_divu, exec_rem, exec_remu]
    exact ⟨divOp32_sets h hy, divOp32_sets h hy, divOp32_sets h hy, divOp32_sets h hy⟩
  · have hb : s.x b ≠ 0 := by rw [hy]; decide
    simp only [exec_div, exec_rem]
    refine ⟨divOp_sets h hb ?_, divOp_sets h hb ?_⟩
    · rw [hx, hy, divS_intMin]
    · rw [hx, hy, remS_intMin]
  · simp only [List.forall_mem_cons, List.not_mem_nil, false_implies, implies_true, and_true, exec_div, exec_divu, exec_rem, exec_remu]
    exact ⟨divOp_divz h ht hy, divOp_divz h ht hy, divOp_divz h ht hy, divOp_divz h ht hy⟩
  · simp only [List.forall_mem_cons, List.not_mem_nil, false_implies, implies_true, and_true, exec_div, exec_divu, exec_rem, exec_remu]
    exact ⟨divOp32_divz h ht hy, divOp32_divz h ht hy, divOp32_divz h ht hy, divOp32_divz h ht hy⟩
end

section
/-! CERTIFICATES. Scalar floating point (O5): the shapes of an operation, and the integers that a conversion reads and writes. -/

namespace Sys2Proof
namespace Machine

/-! ### The shapes of a floating-point operation -/

section
variable {s : State} {d : BitVec 5} {f : BitVec 2} (h : InStrip s)
include h

/-- An operation that rounds: the exact result is rounded once, and its exceptions join those of the rounding (R137). -/
theorem fpRounds_sets {rm : BitVec 3} {op : State → Bool → Val × Flags} :
    let v := op s (scalarRnd s rm).down
    let o := roundTo (scalarFmt f) (scalarRnd s rm) v.1
    SetsRounded (fpRounds d f rm op s) s d (xword o.bits) (v.2 ||| o.flags) o.gen := fp_sets h rfl

/-- An operation that does not round writes its register alone (R138). -/
theorem fpExact_sets {op : State → XWord} {v : XWord} (hv : op s = v) : Sets (fpExact d op s) s d v := hv ▸ ordinary_sets h rfl

end

/-- FSGNJ's result (Table 6.4), from the bits of its sources as they stand in the registers. -/
theorem signInjected (m : FpFmt) (x y : XWord) :
    fpBits m x % 2 ^ (m.bits - 1) + m.sign ((fpBits m y).testBit (m.bits - 1)) =
      x.toNat % 2 ^ (m.bits - 1) + if y.toNat.testBit (m.bits - 1) then 2 ^ (m.bits - 1) else 0 := by
  have hb : m.bits - 1 = m.eb + m.fb := by rw [FpFmt.bits]; omega
  have hlt : m.bits - 1 < m.bits := by rw [hb, FpFmt.bits]; omega
  have hdvd : 2 ^ (m.bits - 1) ∣ 2 ^ m.bits := Nat.pow_dvd_pow 2 hlt.le
  simp only [fpBits, Nat.mod_mod_of_dvd _ hdvd, Nat.testBit_mod_two_pow, hlt, decide_true, Bool.true_and, FpFmt.sign, ← hb]

/-! ### The integers of a conversion (R140) -/

theorem intLo_eq (sg : Bool) (n : Nat) : intLo sg n = if sg then -2 ^ (n - 1) else 0 := by
  rw [intLo]; push_cast; rfl

theorem intHi_eq (sg : Bool) (n : Nat) : intHi sg n = if sg then 2 ^ (n - 1) - 1 else 2 ^ n - 1 := by
  rw [intHi]; push_cast; rfl

theorem intOf_signed32 (w : XWord) : intOf true 32 w = (lo32 w).toInt := by
  rw [BitVec.toInt_eq_toNat_cond, intOf, lo32, BitVec.toNat_setWidth]
  simp only [Bool.true_and, decide_eq_true_eq]
  split <;> split <;> omega

/-- The source of FCVT.F: bits 31:0 or the whole register, signed or not. -/
theorem intOf_kind (sg : Bool) {n : Nat} (hn : n = 32 ∨ n = 64) (w : XWord) :
    intOf sg n w = if sg then (if n = 32 then (lo32 w).toInt else w.toInt)
      else if n = 32 then ((lo32 w).toNat : Int) else (w.toNat : Int) := by
  obtain rfl | rfl := hn <;> cases sg
  · simp [intOf, lo32]
  · exact intOf_signed32 w
  · simp [intOf, Nat.mod_eq_of_lt w.isLt]
  · exact intOf_signed64 w

theorem xword_toNat (v : XWord) : xword v.toNat = v := by rw [xword, BitVec.ofNat_toNat, BitVec.setWidth_eq]

theorem setWidth_wrapBits32 (i : Int) : (wrapBits 32 i).setWidth 32 = BitVec.ofInt 32 i := by
  apply BitVec.eq_of_toNat_eq
  rw [wrapBits, BitVec.toNat_setWidth, BitVec.toNat_ofNat, BitVec.toNat_ofInt]
  omega

/-- What FCVT.I writes: a signed word sign-extended, any other as its bits stand. -/
theorem wrapped_kind (sg : Bool) {n : Nat} (hn : n = 32 ∨ n = 64) (i : Int) :
    (if sg then sext n (wrapBits n i) else wrapBits n i) =
      if sg && n == 32 then (BitVec.ofInt 32 i).signExtend 64 else xword (wrapBits n i).toNat := by
  rw [xword_toNat]
  obtain rfl | rfl := hn <;> cases sg
  · simp only [Bool.false_and, Bool.false_eq_true, if_false]
  · simp only [Bool.true_and, beq_self_eq_true, if_true, sext, setWidth_wrapBits32]
  · simp only [Bool.false_and, Bool.false_eq_true, if_false]
  · simp only [sext, BitVec.setWidth_eq, BitVec.signExtend_eq, if_true, Bool.true_and, Nat.reduceBEq, Bool.false_eq_true, if_false]

theorem fmtHolds_kind {kind : BitVec 5} (hk : kind.toNat < 4) (f : BitVec 2) :
    fmtHolds (kind.setWidth 2) f = true ↔ kind.setWidth 2 = f ∨ f = 1 ∨ (f = 0 ∧ kind ≠ 1) := by
  have h1 : kind.setWidth 2 = 1 ↔ kind = 1 := by bv_omega
  simp only [fmtHolds, Bool.or_eq_true, Bool.and_eq_true, beq_iff_eq, bne_iff_ne, ne_eq, h1, or_assoc]

section
variable {s : State} {d a kind : BitVec 5} {f : BitVec 2} {rm : BitVec 3} (h : InStrip s)
include h

theorem fcvtI_sets :
    let sg := kind.toNat % 2 == 0
    let n := if kind.toNat < 2 then 32 else 64
    let c := roundToInt (if sg then -2 ^ (n - 1) else 0) (if sg then 2 ^ (n - 1) - 1 else 2 ^ n - 1) (scalarRnd s rm) (fpVal s f a)
    SetsRounded (execFcvtI d a kind f rm s) s d
      (if sg && n == 32 then (BitVec.ofInt 32 c.1).signExtend 64 else xword (wrapBits n c.1).toNat) c.2.1 c.2.2 := by
  intro sg n c
  rw [← wrapped_kind sg (n := n) (by unfold n; split <;> simp)]
  refine fp_sets h ?_
  simp only [intKind, intLo_eq, intHi_eq]
  rfl

theorem fcvtF_sets :
    let sg := kind.toNat % 2 == 0
    let n := if kind.toNat < 2 then 32 else 64
    let o := roundTo (scalarFmt f) (scalarRnd s rm) (Val.ofInt (if sg then (if n = 32 then (lo32 (s.x a)).toInt else (s.x a).toInt)
      else if n = 32 then ((lo32 (s.x a)).toNat : Int) else ((s.x a).toNat : Int)))
    SetsRounded (execFcvtF d a kind f rm s) s d (xword o.bits) o.flags o.gen := by
  intro sg n
  rw [← intOf_kind sg (n := n) (by unfold n; split <;> simp)]
  exact fp_sets h rfl

theorem fcvt_exact (hf : fmtHolds (kind.setWidth 2) f = true) :
    Sets (execFcvt d a kind f rm s) s d (fpEncode f (fpVal s (kind.setWidth 2) a)) :=
  ordinary_sets h (by simp only [hf, if_true])

theorem fcvt_rounds (hf : ¬fmtHolds (kind.setWidth 2) f = true) :
    let o := roundTo (scalarFmt f) (scalarRnd s rm) (fpVal s (kind.setWidth 2) a)
    SetsRounded (execFcvt d a kind f rm s) s d (xword o.bits) o.flags o.gen :=
  fp_sets h (by simp only [if_neg hf])

end

end Machine
end Sys2Proof

open Sys2Proof Sys2Proof.Machine

/-- Settles O5: an operation rounds once or not at all, and a conversion's integers are those of its kind. -/
theorem floatResults : Obligations.FloatResults := by
  refine ⟨fun s d a b f rm h => ?_, fun s d a b f h => ?_, fun s d a kind f rm h => ?_⟩
  · simp only [exec_fadd, exec_fsub, exec_fmul, exec_fdiv, exec_fsqrt, exec_fma]
    exact ⟨fpRounds_sets h, fpRounds_sets h, fpRounds_sets h, fpRounds_sets h, fpRounds_sets h, fpRounds_sets h⟩
  · simp only [exec_fmin, exec_fmax, exec_feq, exec_flt, exec_fle, exec_fclass, exec_fsgnj]
    refine ⟨fpExact_sets h rfl, fpExact_sets h rfl, fpExact_sets h rfl, fpExact_sets h rfl, fpExact_sets h rfl, fpExact_sets h rfl,
      fpExact_sets h ?_⟩
    simp only [signInjected, beq_iff_eq]
    rfl
  · intro r signed n hk
    simp only [exec_fcvtI, exec_fcvtF, exec_fcvt]
    refine ⟨fcvtI_sets h, fcvtF_sets h, ?_⟩
    split
    · exact fcvt_exact h ((fmtHolds_kind hk f).2 ‹_›)
    · exact fcvt_rounds h (fun hf => ‹¬_› ((fmtHolds_kind hk f).1 hf))
end

section
/-! SUPPORT. What a commit does depends on (R27, R238): the buffered stores and the machine beyond the hart, so that a step that
changes only registers commits as the state before it would. -/

namespace Sys2Proof
namespace Machine

/-! ### Waits of a store -/

section
variable (s : State) (h : Hart)

theorem entryFor_setHart (die : Nat) (c : Ctx) (g : Grant) (va lv table : Nat) (w : Walk) :
    entryFor (s.setHart h) false die c g va lv table w = entryFor s false die c g va lv table w := by
  simp only [entryFor, Bool.and_false, Bool.false_eq_true, if_false, List.map_nil, List.filter_nil, List.isEmpty_nil]
  rfl

/-- A walk that is not for the hart's own access does not look at the hart (R98). -/
theorem walkFrom_setHart (die : Nat) (c : Ctx) (g : Grant) (va : Nat) (lvs : List Nat) (table : Nat) (w : Walk) :
    walkFrom (s.setHart h) false die c g va lvs table w = walkFrom s false die c g va lvs table w := by
  induction lvs generalizing table w with
  | nil => rfl
  | cons lv rest ih => simp only [walkFrom, entryFor_setHart, ih, State.setHart_tlb]

theorem walk_setHart (die ctx va : Nat) : walk (s.setHart h) false die ctx va = walk s false die ctx va := by
  simp only [walk, walkFrom_setHart]
  rfl

theorem accessWait_setHart (pa : Nat) : accessWait (s.setHart h) pa = accessWait s pa := by
  have ho : ∀ c : Nat × Cmd, c.2.ownsLine (s.setHart h) (pa / 128) = c.2.ownsLine s (pa / 128) := fun c => by
    simp only [Cmd.ownsLine, walk_setHart]
  simp only [accessWait, ho, State.setHart_cmds]
  rfl

variable {s h}

theorem storeWait_setHart (hq : h.matrixQ = s.hart.matrixQ) : storeWait (s.setHart h) = storeWait s := by
  have hr : queuedReads (s.setHart h) = queuedReads s := by
    funext a n
    rw [queuedReads, State.setHart_hart, hq, queuedReads]
  funext t
  simp only [storeWait, accessWait_setHart, hr]

/-- A commit waits for what the buffered stores wait for. -/
theorem commitWait_setHart (hq : h.matrixQ = s.hart.matrixQ) (hb : h.regs.storeBuf = s.regs.storeBuf) :
    commitWait (s.setHart h) = commitWait s := by
  rw [commitWait, storeWait_setHart hq, commitWait]
  exact congrArg _ hb

end

/-! ### Stores performed -/

section
variable (s : State) (h : Hart)

theorem reportError_setHart (c : Option Nat) (k a g v p x y : Nat) :
    (s.setHart h).reportError c k a g v p x y = (s.reportError c k a g v p x y).setHart h := by
  have hw : ∀ (s : State) pa l, (s.devWrite pa l).setHart h = (s.setHart h).devWrite pa l := fun _ _ _ => rfl
  cases c with
  | none => rfl
  | some c =>
    unfold State.reportError
    dsimp only
    rw [hw, hw]
    rfl

/-- A write at the home does not look at the hart that executes (R408). -/
theorem homeWrite_setHart (a g : Nat) (va : XWord) (pa : Nat) (l : List Byte) :
    (s.setHart h).homeWrite a g va pa l = (s.homeWrite a g va pa l).setHart h := by
  have hd : discards (s.setHart h) pa = discards s pa := rfl
  unfold State.homeWrite
  rw [hd]
  split
  · rfl
  · dsimp only
    rw [show (s.setHart h).put ((s.setHart h).writerOf a) pa l = (s.put (s.writerOf a) pa l).setHart h from rfl,
      List.foldl_hom (fun s : State => s.setHart h) (g₁ := _)]
    · rfl
    · intro s u
      dsimp only [State.setHart_badUnits]
      split
      · rfl
      · split
        · rfl
        · exact reportError_setHart { s with badUnits := mset s.badUnits u 3 } h _ _ _ _ _ _ _ _

variable {s h}

theorem perform_setHart (hg : h.gang = s.hart.gang) (t : StoreRec) : (s.setHart h).perform t = (s.perform t).setHart h := by
  unfold State.perform
  split
  · rfl
  · rw [State.setHart_hart, hg]
    exact homeWrite_setHart _ _ _ _ _ _ _

theorem performs_setHart (hg : h.gang = s.hart.gang) (l : List StoreRec) :
    l.foldl State.perform (s.setHart h) = (l.foldl State.perform s).setHart h := by
  induction l generalizing s with
  | nil => rfl
  | cons t l ih =>
    have ht : (s.perform t).hart = s.hart := by rw [perform_frame s t]
    rw [List.foldl_cons, perform_setHart hg, ih (by rw [ht]; exact hg), List.foldl_cons]

/-- The stores of a strip performed, where a change of the hart kept them. -/
theorem performAll_setHart (hg : h.gang = s.hart.gang) (hb : h.regs.storeBuf = s.regs.storeBuf) :
    (s.setHart h).performAll = s.performAll.setHart { h with regs := { h.regs with storeBuf := [] } } := by
  unfold State.performAll
  rw [show (s.setHart h).regs.storeBuf = s.regs.storeBuf from hb, performs_setHart hg]
  rfl

end

end Machine
end Sys2Proof
end

section
/-! CERTIFICATES. Branches and jumps (O4): where each goes, and the member's exit when one reaches the launch record. -/

namespace Sys2Proof
namespace Machine

/-! ### Transfers to the launch record (R255) -/

/-- In t the hart of s stands at `target`, and only registers have changed: no queue has, nor a buffered store. -/
def MovesTo (s t : State) (target : XWord) : Prop :=
  ∃ r : Regs, t = s.setRegs r ∧ r.pc = target ∧ r.storeBuf = s.regs.storeBuf ∧ r.queues = s.regs.queues

theorem movesTo_setPc (s : State) (target : XWord) : MovesTo s (s.setPc target) target := ⟨_, rfl, rfl, rfl, rfl⟩

theorem movesTo_link (s : State) (d : BitVec 5) (v target : XWord) : MovesTo s ((s.setX d v).setPc target) target :=
  ⟨{ writeX s.regs d v with pc := target }, rfl, rfl, writeX_storeBuf .., writeX_queues ..⟩

theorem queuesEmpty_congr {r q : Regs} (h : q.queues = r.queues) : queuesEmpty q = queuesEmpty r := by rw [queuesEmpty, h, queuesEmpty]

theorem qleftWord_congr {r q : Regs} (h : q.queues = r.queues) (n k : Nat) : qleftWord q n k = qleftWord r n k := by
  rw [qleftWord, h, qleftWord]

/-- A commit leaves no twin (R28). -/
theorem commitTwins_twin (r : Regs) : ∀ v ∈ (commitTwins r).vregs.toList, v.twin = none := by
  simp only [commitTwins, Vector.toList_map, List.forall_mem_map]
  intro v _
  cases hv : v.twin with
  | none => exact hv
  | some t => rfl

/-- What the exit of a member leaves: its strip committed, a new one open, and the wait for its stores and tickets. -/
def State.exiting (t : State) : State :=
  let c := t.settle.openStrip t.settle.regs.pc
  c.setHart { c.hart with
    undo := none, wait := some .exit
    regs := { c.regs with pend := none, cv := none, chain := none, first := none, member := 0 } }

theorem exiting_regs (t : State) : t.exiting.regs =
    { commitTwins { t.hart.regs with storeBuf := [] } with pend := none, cv := none, chain := none, first := none, member := 0 } := by
  simp only [State.exiting, State.setHart_hart, State.regs_eq, State.openStrip_hart, settle_hart]

theorem exitMember_exiting {s t : State} (htl : t.hart.tl = 0) (hq : queuesEmpty t.regs = true) (hw : commitWait t = none) :
    exitMember s t = .next t.exiting := by
  have htl' : t.settle.hart.tl = 0 := by rw [settle_hart]; exact htl
  simp only [exitMember, hq, Bool.not_true, Bool.false_eq_true, if_false, whenSettled, hw, htl', if_true]
  rfl

section
variable {s t : State} {f : State → Eff (Bool × State)} {target : XWord} (hf : f s = .ok (true, t)) (hm : MovesTo s t target)
  (hr : atRecord s target = true)
include hf hm hr

/-- A transfer to the launch record is the exit of the member. -/
theorem transfer_record : transfer f s = exitMember s t := by
  obtain ⟨r, rfl, hpc, -, -⟩ := hm
  have h : atRecord (s.setRegs r) (s.setRegs r).regs.pc = true := (atRecord_congr rfl rfl rfl).trans (hpc ▸ hr)
  simp only [transfer, hf, h, Bool.and_self, if_true]

/-- With no tile in a queue the strip is committed, and the member waits to exit. -/
theorem transfer_exits (htl : s.hart.tl = 0) (hq : queuesEmpty s.regs = true) (hw : commitWait s = none) :
    ∃ u, transfer f s = .next u ∧ u.hart.wait = some .exit ∧ u.regs.storeBuf = [] ∧ u.regs.x = t.regs.x ∧ u.regs.pc = target ∧
      u.mem = t.settle.mem ∧ ∀ v ∈ u.regs.vregs.toList, v.twin = none := by
  rw [transfer_record hf hm hr]
  obtain ⟨r, rfl, rfl, hb, hqs⟩ := hm
  have hq' : queuesEmpty (s.setRegs r).regs = true := (queuesEmpty_congr hqs).trans hq
  have hw' : commitWait (s.setRegs r) = none := (commitWait_setHart (h := { s.hart with regs := r }) rfl hb).trans hw
  refine ⟨_, exitMember_exiting htl hq' hw', rfl, ?_⟩
  rw [exiting_regs]
  exact ⟨rfl, rfl, rfl, rfl, commitTwins_twin _⟩

/-- With a tile in a queue, QLEFT discards the strip (R39). -/
theorem transfer_qleft (ht : Traps s) (hc : AtConvoy s) (hq : queuesEmpty s.regs = false) :
    ∃ u, transfer f s = .next u ∧
      EntersTrap s.discard u { code := 0x0C, tv := qleftWord s.regs 0 0 } true 0 s.hart.ckpt.pc := by
  rw [transfer_record hf hm hr]
  obtain ⟨r, rfl, -, -, hqs⟩ := hm
  have hq' : queuesEmpty (s.setRegs r).regs = false := (queuesEmpty_congr hqs).trans hq
  have he : exitMember s (s.setRegs r) = takeTrap s { code := 0x0C, tv := qleftWord s.regs 0 0 } := by
    simp only [exitMember, hq', Bool.not_false, if_true, stopped_trap, qleftWord_congr (q := (s.setRegs r).regs) hqs]
    rfl
  rw [he]
  exact takeTrap_restart ht hc rfl rfl (heldByLeader_other (show 0x0C ≠ cXLAT by decide)) (.inl rfl)

end

/-! ### The transfers of Table 6.3 and R133 -/

theorem alignedTo_four {v : XWord} : alignedTo v 4 = true ↔ v.toNat % 4 = 0 := by rw [alignedTo, beq_iff_eq]

/-- The branches with their conditions (Table 6.3). -/
def branches (s : State) (a b : BitVec 5) (i : BitVec 12) : List (Instr × Bool) :=
  let x := s.x a
  let y := s.x b
  [(Instr.beq a b i, decide (x = y)), (.bne a b i, decide (x ≠ y)), (.blt a b i, decide (x.toInt < y.toInt)),
    (.bge a b i, decide (y.toInt ≤ x.toInt)), (.bltu a b i, decide (x.toNat < y.toNat)),
    (.bgeu a b i, decide (y.toNat ≤ x.toNat))]

theorem beq_eq_decide (x y : XWord) : (x == y) = decide (x = y) := rfl

theorem bne_eq_decide (x y : XWord) : (x != y) = decide (x ≠ y) := by rw [bne, beq_eq_decide, decide_not]

theorem not_slt_eq_decide (x y : XWord) : (!x.slt y) = decide (y.toInt ≤ x.toInt) := by
  rw [BitVec.slt, ← decide_not]
  simp only [not_lt]

theorem not_ult_eq_decide (x y : XWord) : (!x.ult y) = decide (y.toNat ≤ x.toNat) := by
  rw [BitVec.ult, ← decide_not]
  simp only [not_lt]

/-- Each branch is one operation, under its condition. -/
theorem branches_branchOp (s : State) (a b : BitVec 5) (i : BitVec 12) :
    ∀ c ∈ branches s a b i, ∃ test, exec c.1 s = branchOp a b i test s ∧ test (s.x a) (s.x b) = c.2 := by
  simp only [branches, List.forall_mem_cons, List.not_mem_nil, false_implies, implies_true, and_true]
  exact ⟨⟨_, exec_beq, rfl⟩, ⟨_, exec_bne, bne_eq_decide _ _⟩, ⟨_, exec_blt, rfl⟩, ⟨_, exec_bge, not_slt_eq_decide _ _⟩,
    ⟨_, exec_bltu, rfl⟩, ⟨_, exec_bgeu, not_ult_eq_decide _ _⟩⟩

theorem branchOp_taken {s : State} {a b : BitVec 5} {i : BitVec 12} {test : XWord → XWord → Bool} (h : InStrip s)
    (ht : test (s.x a) (s.x b) = true) (hr : atRecord s (s.regs.pc + i.signExtend 64 <<< 2) = false) :
    Goes (branchOp a b i test s) s 0 0 (s.regs.pc + i.signExtend 64 <<< 2) := by
  simpa only [ht, if_true] using branch_goes (a := a) (b := b) (c := test) h (fun _ => hr)

theorem branchOp_passed {s : State} {a b : BitVec 5} {i : BitVec 12} {test : XWord → XWord → Bool} (h : InStrip s)
    (ht : test (s.x a) (s.x b) = false) : Goes (branchOp a b i test s) s 0 0 (s.regs.pc + 4) := by
  simpa only [ht, Bool.false_eq_true, if_false] using
    branch_goes (a := a) (b := b) (i := i) (c := test) h (fun h1 => absurd h1 (Bool.eq_false_iff.1 ht))

/-- A transfer to `target`, where it is taken, leaves the state t before its convoy ends. -/
def TransfersTo (s : State) (r : Result) (target : XWord) (t : State) : Prop :=
  (∃ f, r = transfer f s ∧ f s = .ok (true, t)) ∧ MovesTo s t target

theorem jumpOp_transfers {s : State} {d : BitVec 5} {target : State → XWord} (h : (target s).toNat % 4 = 0) :
    TransfersTo s (jumpOp d target s) (target s) ((s.setX d (s.regs.pc + 4)).setPc (target s)) :=
  ⟨⟨_, rfl, by simp only [alignedTo_four.2 h, Bool.not_true, Bool.false_eq_true, if_false]⟩, movesTo_link ..⟩

theorem branchOp_transfers {s : State} {a b : BitVec 5} {i : BitVec 12} {test : XWord → XWord → Bool}
    (h : test (s.x a) (s.x b) = true) :
    TransfersTo s (branchOp a b i test s) (s.regs.pc + i.signExtend 64 <<< 2) (s.setPc (s.regs.pc + i.signExtend 64 <<< 2)) :=
  ⟨⟨_, rfl, by simp only [h, if_true]⟩, movesTo_setPc ..⟩

theorem branches_transfer {s : State} {a b : BitVec 5} {i : BitVec 12} :
    ∀ c ∈ branches s a b i, c.2 = true →
      TransfersTo s (exec c.1 s) (s.regs.pc + i.signExtend 64 <<< 2) (s.setPc (s.regs.pc + i.signExtend 64 <<< 2)) := by
  intro c hc ht
  obtain ⟨test, he, hv⟩ := branches_branchOp s a b i c hc
  exact he ▸ branchOp_transfers (hv.trans ht)

/-- A jump to a misaligned address stops before it writes its register (R101). -/
theorem jumpOp_align {s : State} {d : BitVec 5} {target : State → XWord} (ht : Traps s) (hc : AtConvoy s)
    (h : (target s).toNat % 4 ≠ 0) :
    ∃ t, jumpOp d target s = .next t ∧ EntersTrap s.discard t { code := 0x06, tv := target s } true 0 s.hart.ckpt.pc := by
  have ha : alignedTo (target s) 4 = false := Bool.eq_false_iff.2 (mt alignedTo_four.1 h)
  have he : jumpOp d target s = takeTrap s { code := 0x06, tv := target s } := by
    simp only [jumpOp, transfer, ha, Bool.not_false, if_true, stopped_trap]
    rfl
  rw [he]
  exact takeTrap_restart ht hc rfl rfl (heldByLeader_other (show 0x06 ≠ cXLAT by decide)) (.inl rfl)

end Machine
end Sys2Proof

open Sys2Proof Sys2Proof.Machine

/-- Settles O4: every transfer goes to its target, and one to the launch record is an exit or, with a tile left, a cause. -/
theorem controlFlow : Obligations.ControlFlow := by
  refine ⟨fun s a b i h => ?_, fun s d a i j h => ?_, fun s d a i ht hc => ?_, fun s d a b i j k ht hc => ?_⟩
  · intro x y target c hc
    obtain ⟨test, he, hv⟩ := branches_branchOp s a b i c hc
    rw [he, ← hv]
    exact ⟨branchOp_taken h, branchOp_passed h⟩
  · simp only [exec_jal, exec_jalr]
    exact ⟨jump_goes (t := fun s => s.regs.pc + j.signExtend 64 <<< 2) h, jump_goes (t := fun s => s.x a + i.signExtend 64) h⟩
  · simp only [exec_jalr]
    exact jumpOp_align (target := fun s => s.x a + i.signExtend 64) ht hc
  · intro x y there far near link c hm h4 hr htaken
    have hto : TransfersTo s (exec c.1 s) c.2.1 c.2.2.1 := by
      rcases List.mem_cons.1 hm with rfl | hm
      · exact jumpOp_transfers (target := fun s => s.x a + i.signExtend 64) h4
      rcases List.mem_cons.1 hm with rfl | hm
      · exact jumpOp_transfers (target := fun s => s.regs.pc + j.signExtend 64 <<< 2) h4
      obtain ⟨q, hq, rfl⟩ := List.mem_map.1 (show c ∈ (branches s a b k).map fun q => (q.1, near, s.setPc near, q.2) from hm)
      exact branches_transfer q hq htaken
    obtain ⟨⟨f, he, hf⟩, hv⟩ := hto
    rw [he]
    exact ⟨transfer_exits hf hv hr ht.2.1, transfer_qleft hf hv hr ht hc⟩
end

section
/-! CERTIFICATES. Scalar loads and stores (O3): what a load reads, what a store leaves while the buffer has room and when it has
none, and the causes that an address meets. -/

namespace Sys2Proof
namespace Machine

/-! ### Stores into a buffer with room (R29, R130) -/

/-- A buffered store is seen at its bytes and nowhere else (R29). -/
theorem seenByte_append {s t : State} {pa : Nat} {data : List Byte} {va : XWord} (hm : t.mem = s.mem)
    (hb : t.regs.storeBuf = s.regs.storeBuf ++ [⟨false, pa, data, va⟩]) (c : Nat) :
    seenByte t c = if pa ≤ c ∧ c < pa + data.length then data.getD (c - pa) 0 else seenByte s c := by
  rw [seenByte, hb, forwarded_append, hm]
  by_cases hc : pa ≤ c ∧ c < pa + data.length
  · have hi : c - pa < data.length := by omega
    rw [if_pos ⟨rfl, hc⟩, if_pos hc, List.getElem?_eq_getElem hi, List.getD_eq_getElem _ _ hi]
    rfl
  · rw [if_neg (fun h => hc h.2), if_neg hc, seenByte]

/-- The registers of the hart after a store that its buffer holds, at the end of the store's convoy. -/
def storedRegs (s : State) (r : StoreRec) : Regs :=
  { s.regs with
    storeBuf := s.regs.storeBuf ++ [r], pc := s.regs.pc + 4, pend := none, cv := none, chain := none, first := none, member := 0 }

/-- A store that finds room waits in the buffer, and only its translation has left anything else. -/
theorem store_buffered {s : State} {b a : BitVec 5} {i : BitVec 12} {n pa : Nat} (h1 : s.hart.tl = 0) (h2 : s.hart.early = false)
    (hw : Writable s (s.x a + i.signExtend 64) n pa) (hn : storeBytesHeld s.regs + n ≤ Config.storeBufBytes) :
    ∃ t, storeOp b a i n s = .next t ∧ t.regs.pc = s.regs.pc + 4 ∧
      (∀ j, j < n → seenByte t (pa + j) = BitVec.ofNat 8 ((s.x b).toNat / 256 ^ j)) ∧
      (∀ c, c < pa ∨ pa + n ≤ c → seenByte t c = seenByte s c) ∧
      t.regs.storeBuf = s.regs.storeBuf ++ [⟨false, pa, leBytes n (s.x b).toNat, s.x a + i.signExtend 64⟩] ∧
      OnlyX { s.regs with storeBuf := t.regs.storeBuf } t.regs ∧ t.regs.x = s.regs.x ∧ SameButTlb s t := by
  obtain ⟨u, hu⟩ := hw
  have hf := access_frame hu
  refine ⟨_, store_next h1 h2 hu hn, ?_⟩
  obtain ⟨r, hrec⟩ : ∃ r : StoreRec, r = ⟨false, pa, leBytes n (s.x b).toNat, s.x a + i.signExtend 64⟩ := ⟨_, rfl⟩
  rw [← hrec]
  obtain ⟨t, ht⟩ : ∃ t, t = (u.buffer r).advance.retired := ⟨_, rfl⟩
  have hr : t.regs = storedRegs s r := by simp [ht, State.retired, hf.hart, storedRegs]
  have hm : t.mem = s.mem := by rw [ht]; exact hf.mem
  have hb : t.regs.storeBuf = s.regs.storeBuf ++ [r] := by rw [hr]; rfl
  rw [← ht]
  refine ⟨by rw [hr]; rfl, fun j hj => ?_, fun c hc => ?_, hb, ?_, by rw [hr]; rfl, fun c => by rw [hm], ?_, ?_⟩
  · rw [seenByte_append hm (hrec ▸ hb), leBytes_length, if_pos (by omega), Nat.add_sub_cancel_left, List.getD_eq_getElem?_getD,
      leBytes_get _ _ _ hj, Option.getD_some]
  · rw [seenByte_append hm (hrec ▸ hb), leBytes_length, if_neg (by omega)]
  · rw [hr]; rfl
  · rw [ht]; exact hf.1
  · rw [ht, hf.2]; rfl

/-! ### Stores that find no room (R30) -/

/-- What a convoy leaves whose stores outgrow the buffer, where the strip before it is committed: `s` is the state at its end, after
the marks of a convoy are gone, and `r0` the registers at its start. -/
def State.cutBefore (s : State) (r0 : Regs) : State :=
  let before := (s.setRegs { s.regs with storeBuf := r0.storeBuf }).performAll
  before.setHart { before.hart with
    regs := splitTwins r0 s.regs, ckpt := snapshot r0 r0.pc, scp := r0.pc.setWidth 57, stripOpened := before.gtime }

/-- What it leaves where a queue held a tile at its start: every buffered store performed, and the strip open as it was. -/
def State.performedEarly (s : State) : State := s.performAll.setHart { s.performAll.hart with early := true }

/-- The end of a convoy whose stores outgrow the buffer, from its start `r0` (R30); no PFX came before its first member. -/
theorem retire_full {s0 s : State} {r0 : Regs} (h1 : s.hart.tl = 0) (h2 : s.hart.early = false)
    (hb : Config.storeBufBytes < storeBytesHeld s.regs) (hw : commitWait s = none) (hf : s.regs.first = none)
    (hc : storeBytesHeld (s.retired.cutBefore r0).regs ≤ Config.storeBufBytes) :
    retire s0 r0 s = .next (if queuesEmpty r0 then s.retired.cutBefore r0 else s.retired.performedEarly) := by
  have htl : ¬s.retired.hart.tl ≠ 0 := not_not.2 h1
  have hel : ¬s.retired.hart.early = true := by rw [show s.retired.hart.early = false from h2]; decide
  have hbl : ¬storeBytesHeld s.retired.regs ≤ Config.storeBufBytes := not_le.2 hb
  have hwl : commitWait s.retired = none := (commitWait_setHart rfl rfl).trans hw
  unfold retire
  rw [hf]
  change (if s.retired.hart.tl ≠ 0 then _ else if s.retired.hart.early then _ else
    if storeBytesHeld s.retired.regs ≤ Config.storeBufBytes then _ else
      if queuesEmpty r0 then whenSettled s0 s.retired _ else whenSettled s0 s.retired _) = _
  rw [if_neg htl, if_neg hel, if_neg hbl, whenSettled, whenSettled, hwl]
  split
  · exact if_pos hc
  · rfl

/-- The strip before a convoy is committed as it stood at its start: its stores are performed, and its twins leave their copies. -/
theorem cutBefore_setHart {s : State} {h : Hart} {r0 : Regs} (hg : h.gang = s.hart.gang) (hb : r0.storeBuf = s.regs.storeBuf) :
    (s.setHart h).cutBefore r0 = s.performAll.setHart { h with
      regs := splitTwins r0 h.regs, ckpt := snapshot r0 r0.pc, scp := r0.pc.setWidth 57, stripOpened := s.performAll.gtime } := by
  have e := performAll_setHart (s := s) (h := { h with regs := { h.regs with storeBuf := r0.storeBuf } }) hg hb
  unfold State.cutBefore
  rw [show (s.setHart h).setRegs { (s.setHart h).regs with storeBuf := r0.storeBuf } =
    s.setHart { h with regs := { h.regs with storeBuf := r0.storeBuf } } from rfl, e]
  rfl

theorem performedEarly_setHart {s : State} {h : Hart} (hg : h.gang = s.hart.gang) (hb : h.regs.storeBuf = s.regs.storeBuf) :
    (s.setHart h).performedEarly = s.performAll.setHart { h with regs := { h.regs with storeBuf := [] }, early := true } := by
  rw [State.performedEarly, performAll_setHart hg hb]
  rfl

theorem storeBytesHeld_append {r q : Regs} {x : StoreRec} (h : q.storeBuf = r.storeBuf ++ [x]) :
    storeBytesHeld q = storeBytesHeld r + x.data.length := by
  simp only [storeBytesHeld, h, List.map_append, List.sum_append, List.map_cons, List.map_nil, List.sum_cons, List.sum_nil, Nat.add_zero]

/-- The hart after such a store. -/
def storedHart (s : State) (r : StoreRec) : Hart :=
  { s.hart with undo := none, wait := none, readySince := readyAt s.gtime, regs := storedRegs s r }

section
variable {s u : State} {b a : BitVec 5} {i : BitVec 12} {n pa : Nat} (h1 : s.hart.tl = 0) (h2 : s.hart.early = false)
  (hf : s.regs.first = none) (hu : s.hart.undo = none)
  (ha : access s .write (s.x a + i.signExtend 64) n 0 = .ok (pa, u)) (hn : n ≤ Config.storeBufBytes)
  (hb : Config.storeBufBytes < storeBytesHeld s.regs + n)
include h1 h2 hf hu ha hn hb

theorem store_full :
    let r : StoreRec := ⟨false, pa, leBytes n (s.x b).toNat, s.x a + i.signExtend 64⟩
    let t := u.setHart (storedHart s r)
    commitWait (u.buffer r) = none →
      storeOp b a i n s = .next (if queuesEmpty s.regs then t.cutBefore s.regs else t.performedEarly) := by
  intro r t hw
  have hh : u.hart = s.hart := (access_frame ha).hart
  have hg : u.gtime = s.gtime := by rw [(access_frame ha).2]
  have ht : (u.buffer r).advance.retired = t := by
    simp only [t, storedHart, storedRegs, ← hh, ← hg, State.regs_eq]
    rfl
  have hl : r.data.length = n := leBytes_length _ _
  have hst : storeOp b a i n s = retire s s.regs (u.buffer r).advance := by
    simp only [storeOp, ordinary, storeBytes, ha, bind, Except.bind, pure, Except.pure, finishMember, hu, Option.getD_none]
    rfl
  have hbuf : (u.buffer r).advance.regs.storeBuf = s.regs.storeBuf ++ [r] := by rw [State.regs_eq s, ← hh]; rfl
  have hcut : (t.cutBefore s.regs).regs.storeBuf = [r] := List.drop_left
  rw [hst, ← ht]
  refine retire_full ((congrArg Hart.tl hh).trans h1) ((congrArg Hart.early hh).trans h2) ?_
    ((commitWait_setHart rfl rfl).trans hw) ((congrArg (fun h : Hart => h.regs.first) hh).trans hf) ?_
  · rw [storeBytesHeld_append hbuf, hl]; exact hb
  · rw [ht, storeBytesHeld, hcut]
    simpa only [List.map_cons, List.map_nil, List.sum_cons, List.sum_nil, Nat.add_zero, hl] using hn

/-- With every load queue empty, the strip is committed before the store, and a new one opens at it. -/
theorem store_full_cuts :
    let r : StoreRec := ⟨false, pa, leBytes n (s.x b).toNat, s.x a + i.signExtend 64⟩
    commitWait (u.buffer r) = none → queuesEmpty s.regs = true →
      ∃ t, storeOp b a i n s = .next t ∧ t.mem = u.performAll.mem ∧ t.core.scratch = u.performAll.core.scratch ∧
        t.regs.storeBuf = [r] ∧ t.hart.ckpt = snapshot s.regs s.regs.pc ∧ t.hart.early = false ∧
        t.regs.pc = s.regs.pc + 4 ∧ t.regs.x = s.regs.x ∧
        ∀ j : Fin 32, t.regs.vregs[j] = ⟨curTile s.regs.vregs[j], s.regs.vregs[j].twin⟩ := by
  intro r hw hq
  have hh : u.hart = s.hart := (access_frame ha).hart
  refine ⟨_, (store_full h1 h2 hf hu ha hn hb hw).trans (congrArg _ (if_pos hq)), ?_⟩
  have hg : (storedHart s r).gang = u.hart.gang := show s.hart.gang = u.hart.gang by rw [hh]
  rw [cutBefore_setHart (s := u) (h := storedHart s r) (r0 := s.regs) hg (congrArg (fun h : Hart => h.regs.storeBuf) hh.symm)]
  refine ⟨rfl, rfl, List.drop_left, rfl, h2, rfl, rfl, fun j => ?_⟩
  simp only [State.setHart_hart, State.regs_eq, splitTwins, storedHart, storedRegs, Fin.getElem_fin, Vector.getElem_ofFn, curTile]

/-- While a queue holds a tile, every store is performed, and the strip stays open. -/
theorem store_full_early :
    let r : StoreRec := ⟨false, pa, leBytes n (s.x b).toNat, s.x a + i.signExtend 64⟩
    commitWait (u.buffer r) = none → queuesEmpty s.regs = false →
      ∃ t, storeOp b a i n s = .next t ∧ t.mem = (u.buffer r).performAll.mem ∧
        t.core.scratch = (u.buffer r).performAll.core.scratch ∧ t.regs.storeBuf = [] ∧ t.hart.ckpt = s.hart.ckpt ∧
        t.hart.early = true ∧ t.regs.pc = s.regs.pc + 4 ∧ t.regs.x = s.regs.x ∧ t.regs.vregs = s.regs.vregs := by
  intro r hw hq
  have hh : u.hart = s.hart := (access_frame ha).hart
  refine ⟨_, (store_full h1 h2 hf hu ha hn hb hw).trans (congrArg _ (if_neg (Bool.eq_false_iff.1 hq))), ?_⟩
  have hbuf : (u.buffer r).regs.storeBuf = s.regs.storeBuf ++ [r] := by rw [State.regs_eq s, ← hh]; rfl
  have hg : (storedHart s r).gang = (u.buffer r).hart.gang := show s.hart.gang = u.hart.gang by rw [hh]
  rw [show u.setHart (storedHart s r) = (u.buffer r).setHart (storedHart s r) from rfl,
    performedEarly_setHart (s := u.buffer r) (h := storedHart s r) hg hbuf.symm]
  exact ⟨rfl, rfl, rfl, rfl, rfl, rfl, rfl, rfl⟩

end

/-! ### The causes that an address meets (R129, R92, R95) -/

/-- A cause that restarts the strip, after what the checks before it have found and drawn (R389, R406). -/
theorem takeTrap_restart_noting {s : State} {tr : Trap} (h : Traps s) (hc : AtConvoy s)
    (hl : heldByLeader (s.noting tr) tr = false) (hr : causeRestarts tr = true) :
    ∃ t, takeTrap s tr = .next t ∧ EntersTrap (s.noting tr).discard t tr true 0 s.hart.ckpt.pc := by
  have hh : (s.noting tr).hart = s.hart := by
    have hf := foundBad_frame s 0 s.hart.gang (tr.found.filter (fun u => !s.finds.contains u))
    rw [State.noting, hf]
  have ht : Traps (s.noting tr) := by unfold Traps; rw [hh]; exact h
  have htl : ¬(s.hart.tl ≠ 0) := not_not.2 h.2.1
  refine ⟨_, ?_, enterTrap_enters ht.discard⟩
  simp only [takeTrap, h.1, convoyStart_eq hc, hl, Bool.false_eq_true, if_false, if_neg htl, hr, Bool.true_or, if_true, hc.2.2, hh]

/-- A walk that fails, or whose leaf does not permit the access, meets its cause (R95, R97). -/
theorem located_fails {s : State} {acc : Access} {va : XWord} {n ix code : Nat} {l : Except Nat Leaf} {k : Walk}
    (hs : s.hart.steward = false) (hc : canonical va = true) (ha : alignedTo va n = true)
    (hw : walk s true s.dieId s.hart.ctx (va.toNat % 2 ^ 57) = (l, k)) (hb : ∀ p ∈ k.read, bankWait s p = none)
    (hl : l = .error code ∨ ∃ x, l = .ok x ∧ x.allows acc = false ∧ code = cPROT) :
    located s acc va n ix = .error (.trap
      { code := code, tv := va, write := acc = .write || acc = .update, fetch := acc = .fetch, index := ix, drawn := k.free
        found := s.finds ++ walkFound s k va }) := by
  have hn : k.read.findSome? (bankWait s) = none := List.findSome?_eq_none_iff.2 hb
  simp only [located, locatedBy, hs, hc, ha, Bool.not_true, Bool.and_false, Bool.false_eq_true, if_false, beq_self_eq_true, hw, hn]
  rcases hl with rfl | ⟨x, rfl, hx, rfl⟩
  · rfl
  · simp only [hx, Bool.not_false, if_true]

section
variable {s : State} {res : Result} {acc : Access} {w : Bool} {va : XWord} {n : Nat} (hacc : acc = if w then .write else .read)
  (ht : Traps s) (hc : AtConvoy s) (hs : ∀ e, located s acc va n 0 = .error e → res = stopped s e)
include hacc ht hc hs

/-- A cause before any walk finds and draws nothing. -/
theorem stops_before_walk {code : Nat} (hl : heldByLeader s { code := code, tv := va, write := w } = false)
    (hr : causeRestarts { code := code, tv := va, write := w } = true)
    (he : located s acc va n 0 = .error (.trap
      { code := code, tv := va, write := acc = .write || acc = .update, fetch := acc = .fetch, index := 0, found := s.finds
        drawn := s.free })) :
    ∃ t, res = .next t ∧ EntersTrap s.discard t { code := code, tv := va, write := w } true 0 s.hart.ckpt.pc := by
  have hfd := (takeTrap_found s { code := code, tv := va, write := w, drawn := max s.free 0 } []).trans
    (takeTrap_drawn s { code := code, tv := va, write := w } 0)
  rw [List.append_nil, Nat.max_zero] at hfd
  have hw : (decide (acc = .write) || decide (acc = .update)) = w ∧ decide (acc = .fetch) = false := by
    subst hacc; cases w <;> exact ⟨rfl, rfl⟩
  rw [hs _ he, stopped_trap, hw.1, hw.2, hfd]
  exact takeTrap_restart ht hc rfl rfl hl (.inl hr)

theorem access_xlat (h : va.toInt < -2 ^ 56 ∨ 2 ^ 56 ≤ va.toInt) :
    ∃ t, res = .next t ∧ EntersTrap s.discard t { code := 0x07, tv := va, write := w } true 0 s.hart.ckpt.pc := by
  have hn : canonical va = false := Bool.eq_false_iff.2 (fun hc => by have := (canonical_iff va).1 hc; omega)
  refine stops_before_walk hacc ht hc hs ?_ rfl (located_xlat ht.1 hn)
  simp only [heldByLeader, pageFault, hn, Bool.and_false, Bool.false_and]

theorem access_align (h : -2 ^ 56 ≤ va.toInt ∧ va.toInt < 2 ^ 56) (ha : va.toNat % n ≠ 0) :
    ∃ t, res = .next t ∧ EntersTrap s.discard t { code := 0x06, tv := va, write := w } true 0 s.hart.ckpt.pc :=
  stops_before_walk hacc ht hc hs (heldByLeader_other (show 0x06 ≠ cXLAT by decide)) rfl
    (located_align (.inr ((canonical_iff va).2 h)) (beq_eq_false_iff_ne.2 ha))

/-- A walk that fails raises its cause, and a leaf that does not permit the access PROT. -/
theorem access_walk (h : -2 ^ 56 ≤ va.toInt ∧ va.toInt < 2 ^ 56) (ha : va.toNat % n = 0) :
    let r := walk s true s.dieId s.hart.ctx (va.toNat % 2 ^ 57)
    (∀ p ∈ r.2.read, bankWait s p = none) →
      ∀ code, r.1 = .error code ∨ (∃ l, r.1 = .ok l ∧ (if w then l.w else l.r) = false ∧ code = 0x08) →
        (code = 0x07 ∨ code = 0x08) →
        let full : Trap := { code := code, tv := va, write := w, drawn := r.2.free, found := walkFound s r.2 va }
        heldByLeader (s.noting full) full = false →
          ∃ t, res = .next t ∧ EntersTrap (s.noting full).discard t full true 0 s.hart.ckpt.pc := by
  intro r hb code hr hcode full hl
  have he : located s acc va n 0 = .error (.trap { full with found := s.finds ++ full.found }) := by
    have hl : r.1 = .error code ∨ ∃ x, r.1 = .ok x ∧ x.allows acc = false ∧ code = cPROT := by
      subst hacc; cases w <;> exact hr
    rw [located_fails (l := r.1) (k := r.2) ht.1 ((canonical_iff va).2 h) (beq_iff_eq.2 ha) rfl hb hl]
    subst hacc; cases w <;> rfl
  rw [hs _ he, stopped_trap, takeTrap_found]
  exact takeTrap_restart_noting ht hc hl (by rcases hcode with rfl | rfl <;> rfl)

end

/-- The scalar loads and stores, each with its bytes and whether it writes. -/
def loadsAndStores (r a : BitVec 5) (i : BitVec 12) : List (Instr × Nat × Bool) :=
  [(Instr.ldB r a i, 1, false), (.ldH r a i, 2, false), (.ldW r a i, 4, false), (.ldD r a i, 8, false), (.ldBu r a i, 1, false),
    (.ldHu r a i, 2, false), (.ldWu r a i, 4, false), (.stB r a i, 1, true), (.stH r a i, 2, true), (.stW r a i, 4, true),
    (.stD r a i, 8, true)]

/-- Each ends in the cause or the wait that its address meets. -/
theorem loadsAndStores_stop (s : State) (r a : BitVec 5) (i : BitVec 12) :
    ∀ x ∈ loadsAndStores r a i, ∀ e,
      located s (if x.2.2 then .write else .read) (s.x a + i.signExtend 64) x.2.1 0 = .error e → exec x.1 s = stopped s e := by
  simp only [loadsAndStores, List.forall_mem_cons, List.not_mem_nil, false_implies, implies_true, and_true, exec_ldB, exec_ldH, exec_ldW,
    exec_ldD, exec_ldBu, exec_ldHu, exec_ldWu, exec_stB, exec_stH, exec_stW, exec_stD]
  exact ⟨fun _ => load_stops, fun _ => load_stops, fun _ => load_stops, fun _ => load_stops, fun _ => load_stops, fun _ => load_stops,
    fun _ => load_stops, fun _ => store_stops, fun _ => store_stops, fun _ => store_stops, fun _ => store_stops⟩

/-- The scalar stores, each with its bytes. -/
def scalarStores (b a : BitVec 5) (i : BitVec 12) : List (Instr × Nat) :=
  [(Instr.stB b a i, 1), (.stH b a i, 2), (.stW b a i, 4), (.stD b a i, 8)]

theorem scalarStores_storeOp (s : State) (b a : BitVec 5) (i : BitVec 12) :
    ∀ x ∈ scalarStores b a i, exec x.1 s = storeOp b a i x.2 s ∧ x.2 ≤ Config.storeBufBytes := by
  simp only [scalarStores, List.forall_mem_cons, List.not_mem_nil, false_implies, implies_true, and_true]
  exact ⟨⟨exec_stB, by decide⟩, ⟨exec_stH, by decide⟩, ⟨exec_stW, by decide⟩, ⟨exec_stD, by decide⟩⟩

/-- A load's value with its sign extended, from the bytes it names. -/
theorem sext_xword {n : Nat} (hn : n ≤ 64) (v : Nat) : sext n (xword v) = (BitVec.ofNat n v).signExtend 64 := by
  rw [sext, xword, BitVec.setWidth_ofNat_of_le hn]

end Machine
end Sys2Proof

open Sys2Proof Sys2Proof.Machine

/-- Settles O3: loads by what they read, stores by the room that they find, and the causes by the check that fails first. -/
theorem scalarAccesses : Obligations.ScalarAccesses := by
  refine ⟨fun s d a i pa h => ?_, fun s b a i pa h1 h2 => ?_, fun s r a i ht hc => ?_, fun s u b a i pa h1 h2 hf hu => ?_⟩
  · simp only [exec_ldB, exec_ldBu, exec_ldH, exec_ldHu, exec_ldW, exec_ldWu, exec_ldD]
    refine ⟨fun hr => ⟨load_sets h hr ?_, load_sets h hr rfl⟩, fun hr => ⟨load_sets h hr ?_, load_sets h hr rfl⟩,
      fun hr => ⟨load_sets h hr ?_, load_sets h hr rfl⟩, fun hr => load_sets h hr rfl⟩
    · exact (sext_xword (by decide) _).symm
    · exact (sext_xword (by decide) _).symm
    · exact (sext_xword (by decide) _).symm
  · intro va x hx hw hn
    obtain ⟨he, -⟩ := scalarStores_storeOp s b a i x hx
    rw [he]
    exact store_buffered h1 h2 hw hn
  · intro va tr x hx
    have hs := loadsAndStores_stop s r a i x hx
    exact ⟨access_xlat rfl ht hc hs, access_align rfl ht hc hs, access_walk rfl ht hc hs⟩
  · intro va x hx ha hb r c hw
    obtain ⟨he, hn⟩ := scalarStores_storeOp s b a i x hx
    rw [he]
    exact ⟨store_full_cuts h1 h2 hf hu ha hn hb hw, store_full_early h1 h2 hf hu ha hn hb hw⟩
end

section
/-! CERTIFICATES. Element-wise integer, bitwise and floating-point operations (O21, O23): the operation format of sources of one class
(R146), and each shape of instruction by what it computes for an element. -/

namespace Sys2Proof
namespace Machine

/-! ### Operation formats (R146) -/

/-- Sources whose operation format is an integer format are all integers. -/
theorem isInt_of_opFormat {fs : List Fmt} {f : Fmt} (h : opFormat fs = some f) (hf : f.isInt = true) : fs.all Fmt.isInt = true := by
  unfold opFormat at h
  split at h
  · assumption
  split at h
  · rename_i hall
    match fs, h with
    | g :: rest, h =>
      have hg : g.isFloat = true := List.all_eq_true.1 hall g (.head _)
      dsimp only at h
      split at h <;> cases h
      · rw [isInt_of_isFloat hg] at hf
        cases hf
      · cases hf
  · cases h

/-- The operation format of one source is its own. -/
theorem opFormat_single_int {f : Fmt} : f.isInt = true → opFormat [f] = some f := by
  cases f <;> decide

theorem opFormat_single_float {f : Fmt} : f.isFloat = true → opFormat [f] = some f := by
  cases f <;> decide

theorem intFormat_of_opFormat {g : Fmt} {fs : List Fmt} {f : Fmt} (h : opFormat (g :: fs) = some f) (hf : f.isInt = true) :
    intFormat false (g :: fs) = some f := by
  simp [intFormat, h, hf]

/-- A bitwise operation takes the operation format of those of its sources that have one (R160). -/
theorem intFormat_typed {fs : List Fmt} {f : Fmt} (h : opFormat (fs.filter (· ≠ .bits)) = some f) (hf : f.isInt = true)
    (hne : fs.filter (· ≠ .bits) ≠ []) : intFormat true fs = some f := by
  have he : (fs.filter (· ≠ .bits)).isEmpty = false := by simpa using hne
  simp only [intFormat, if_true, he, Bool.false_eq_true, if_false, h, hf]

theorem floatFormat_of_opFormat {fs : List Fmt} {f : Fmt} (h : opFormat fs = some f) (hf : f.isFloat = true) :
    floatFormat fs = some f := by
  simp [floatFormat, h, hf]

/-- A check that does not fail. -/
theorem illegalWhen_then {α : Type} {s : State} {c : Bool} {f : Unit → Eff α} {r : Eff α} (h : c = false) (hr : f () = r) :
    (illegalWhen s c >>= f) = r := by
  rw [h]
  exact hr

theorem asInt_of_isInt {f : Fmt} {x : Source} (h : x.fmt.isInt = true) (j : Nat) : asInt f x j = x.fmt.int (x.get j) :=
  if_neg (ne_bits_of_isInt h)

theorem wrapBits_eq (n : Nat) (z : Int) : wrapBits n z = BitVec.ofNat 64 (z % 2 ^ n).toNat := by
  rw [wrapBits, Nat.cast_pow, Nat.cast_ofNat]

/-! ### The shapes of element-wise members -/

/-- The destination that an instruction names at decode is one group at d, or none where W is 0; a copy takes all of it. -/
def NamesGroup (s : State) (i : Instr) (w : Bool) (d : BitVec 5) : Prop :=
  ∃ u, vecUse (groupFactor s.regs) i = some u ∧ u.dst = reg w d (groupFactor s.regs) ∧ u.headCopy = false

theorem NamesGroup.copyApart {s : State} {i : Instr} {w : Bool} {d : BitVec 5} (h : NamesGroup s i w d) (ha : Allowed s i) :
    CopyApart s w d := by
  obtain ⟨u, hu, hd, hh⟩ := h
  exact copyApart_of ha hu (fun hw => by rw [hd, hw]; rfl) hh

theorem Elementwise.congr {r : Result} {s : State} {i : Instr} {w e : Bool} {d : BitVec 5} {ops : List (Bool × BitVec 5)} {fmt : Fmt}
    {g h : Nat → Rnd → Step1} (hr : Elementwise r s i w e d ops fmt g) (he : ∀ j rnd, g j rnd = h j rnd) :
    Elementwise r s i w e d ops fmt h := by
  obtain rfl : g = h := funext fun j => funext (he j)
  exact hr

section
variable {s : State} {i : Instr} {d : BitVec 5} {w e : Bool} {ops : List (Bool × BitVec 5)} {srcs : List Source} {f dst : Fmt}
  (hn : NamesGroup s i w d) (hs : ops.mapM (fun o => source s o.1 o.2) = .ok srcs)

include hn hs

theorem elementwise_answers {plan : State → Pfx → List Source → Eff Plan} {each : Nat → Rnd → Step1}
    (hp : plan s (pfxOf s.regs) srcs = .ok ⟨dst, each⟩) (ha : Allowed s i) (hg : GoesOn s i) (hq : QueuesReady s ops) :
    Elementwise (elementwise i d w e ops plan s) s i w e d ops dst each :=
  elementwise_ok ha hg hq (hn.copyApart ha) hs hp

/-- An integer operation narrows its exact result to F and converts that to the destination's format (R147, R161). -/
theorem intOp_answers {acts : Bool} {op : Nat → Int → Int → Int} {z : Nat → Int} (hf : intFormat false (srcs.map (·.fmt)) = some f)
    (hdst : destFormat s w d f = .ok dst)
    (hz : ∀ j, op (8 * f.bytes) (asInt f (src1 srcs) j) (asInt f (src2 srcs) j) = z j)
    (ha : Allowed s i) (hg : GoesOn s i) (hq : QueuesReady s ops) :
    Elementwise (intOp i d w e ops acts op s) s i w e d ops dst (fun j r => intResult f dst acts (pfxOf s.regs).sat (z j) r) := by
  obtain rfl : (fun j => op (8 * f.bytes) (asInt f (src1 srcs) j) (asInt f (src2 srcs) j)) = z := funext hz
  exact elementwise_answers hn hs (by simp only [hf, hdst, bind, Except.bind, pure, Except.pure]) ha hg hq

/-- A quotient or remainder, by zero with DZ (R49). -/
theorem intDiv_answers {quot : Bool} {u v : Nat → Int} (hf : intFormat false (srcs.map (·.fmt)) = some f)
    (hdst : destFormat s w d f = .ok dst) (hu : ∀ j, asInt f (src1 srcs) j = u j) (hv : ∀ j, asInt f (src2 srcs) j = v j)
    (ha : Allowed s i) (hg : GoesOn s i) (hq : QueuesReady s ops) :
    Elementwise (intDiv i d w e ops quot s) s i w e d ops dst (fun j r =>
      if v j = 0 then
        (if quot then (lowBits dst.bytes (BitVec.allOnes 64), Flags.dz, r.gen)
         else
          let c := intResult f dst false (pfxOf s.regs).sat (u j) r
          (c.1, c.2.1 ||| Flags.dz, c.2.2))
      else intResult f dst quot (pfxOf s.regs).sat (if quot then (u j).tdiv (v j) else (u j).tmod (v j)) r) := by
  obtain rfl : asInt f (src1 srcs) = u := funext hu
  obtain rfl : asInt f (src2 srcs) = v := funext hv
  exact elementwise_answers hn hs (by simp only [hf, hdst, bind, Except.bind, pure, Except.pure]) ha hg hq

/-- A bitwise operation on two sources of tag 0 acts on their raw bytes (R160). -/
theorem bitOp_answers_raw {op : XWord → XWord → XWord} (hf : intFormat true (srcs.map (·.fmt)) = some .bits)
    (ha : Allowed s i) (hg : GoesOn s i) (hq : QueuesReady s ops) :
    Elementwise (bitOp i d w e ops op s) s i w e d ops .bits
      (fun j r => (op (elem s (src1 srcs) j) (elem s (src2 srcs) j), 0, r.gen)) :=
  elementwise_answers hn hs (by simp only [hf]; rfl) ha hg hq

/-- A bitwise operation acts on the bits of both sources in the operation format (R160). -/
theorem bitOp_answers {op : XWord → XWord → XWord} (hf : intFormat true (srcs.map (·.fmt)) = some f) (hi : f.isInt = true)
    (hdst : destFormat s w d f = .ok dst) (ha : Allowed s i) (hg : GoesOn s i) (hq : QueuesReady s ops) :
    Elementwise (bitOp i d w e ops op s) s i w e d ops dst (fun j r =>
      let bits := fun z : Int => BitVec.ofNat 64 (z % 2 ^ (8 * f.bytes)).toNat
      toDest f dst (pfxOf s.regs).sat (op (bits (asInt f (src1 srcs) j)) (bits (asInt f (src2 srcs) j)), 0, r.gen) r.mode) := by
  simp only [← wrapBits_eq]
  refine elementwise_answers hn hs ?_ ha hg hq
  have hb : f ≠ .bits := ne_bits_of_isInt hi
  simp only [hf, hdst, bind, Except.bind, pure, Except.pure]

/-- A floating-point operation rounds its exact result to F once and converts that to the destination's format (R165). -/
theorem floatOp_answers {op : Bool → Val → Val → Val × Flags} (hf : floatFormat (srcs.map (·.fmt)) = some f)
    (hdst : destFormat s w d f = .ok dst) (ha : Allowed s i) (hg : GoesOn s i) (hq : QueuesReady s ops) :
    Elementwise (floatOp i d w e ops op s) s i w e d ops dst (fun j r =>
      let z := op r.down (asVal (src1 srcs) j) (asVal (src2 srcs) j)
      toDest f dst false (roundF f z.1 z.2 r) r.mode) :=
  elementwise_answers hn hs (by simp only [hf, hdst, bind, Except.bind, pure, Except.pure]) ha hg hq

/-- A minimum or maximum is one of its sources, exact in F, without a flag (R165). -/
theorem floatPick_answers {op : Val → Val → Val} (hf : floatFormat (srcs.map (·.fmt)) = some f)
    (hdst : destFormat s w d f = .ok dst) (ha : Allowed s i) (hg : GoesOn s i) (hq : QueuesReady s ops) :
    Elementwise (floatPick i d w e ops op s) s i w e d ops dst (fun j r =>
      toDest f dst false (xword (roundCore f.fp Rnd.rne (op (asVal (src1 srcs) j) (asVal (src2 srcs) j))).1, 0, r.gen) r.mode) :=
  elementwise_answers hn hs (by simp only [hf, hdst, bind, Except.bind, pure, Except.pure]) ha hg hq

end

/-- A bitwise operation on two sources: on raw bytes where both have tag 0, else in the operation format of those that have one (R160). -/
theorem bitOp_two {s : State} {i : Instr} {d a b : BitVec 5} {w e qa qb : Bool} {x y : Source} {op : XWord → XWord → XWord}
    (hn : NamesGroup s i w d) (hx : source s qa a = .ok x) (hy : source s qb b = .ok y) (ha : Allowed s i) (hg : GoesOn s i)
    (hq : QueuesReady s [(qa, a), (qb, b)]) :
    let answers := Elementwise (bitOp i d w e [(qa, a), (qb, b)] op s) s i w e d [(qa, a), (qb, b)]
    (x.fmt = .bits → y.fmt = .bits → answers .bits (fun j r => (op (elem s x j) (elem s y j), 0, r.gen))) ∧
    (∀ f dst, f.isInt = true → destFormat s w d f = .ok dst → opFormat ([x.fmt, y.fmt].filter (· ≠ .bits)) = some f →
      ¬(x.fmt = .bits ∧ y.fmt = .bits) →
        let bits := fun z : Int => BitVec.ofNat 64 (z % 2 ^ (8 * f.bytes)).toNat
        answers dst (fun j r => toDest f dst (pfxOf s.regs).sat (op (bits (asInt f x j)) (bits (asInt f y j)), 0, r.gen) r.mode)) := by
  refine ⟨fun h1 h2 => ?_, fun f dst hf hdst hop hne => ?_⟩
  · have hfmt : intFormat true ([x, y].map (·.fmt)) = some .bits := by simp [intFormat, h1, h2]
    exact bitOp_answers_raw hn (mapM_two hx hy) hfmt ha hg hq
  · have hfmt : intFormat true ([x, y].map (·.fmt)) = some f := intFormat_typed hop hf fun h => hne (by simpa using h)
    exact bitOp_answers hn (mapM_two hx hy) hfmt hf hdst ha hg hq

end Machine
end Sys2Proof

open Sys2Proof Sys2Proof.Machine

/-- Settles O21: each operation by its shape, on the integers that its sources hold in their own formats. -/
theorem vectorIntegers : Obligations.VectorIntegers := by
  refine ⟨?_, ?_⟩
  · intro s k d a b w e qa qb x y f dst hx hy hdst hf sat n u v by_ out two
    refine ⟨fun hop => ?_, fun hxf i hi => ?_⟩
    · have hs : two.mapM (fun o : Bool × BitVec 5 => source s o.1 o.2) = .ok [x, y] := mapM_two hx hy
      have hfmt : intFormat false [x.fmt, y.fmt] = some f := intFormat_of_opFormat hop hf
      have hall := List.all_eq_true.1 (isInt_of_opFormat hop hf)
      have hu : ∀ j, asInt f (src1 [x, y]) j = u j := asInt_of_isInt (hall x.fmt (by simp))
      have hv : ∀ j, asInt f (src2 [x, y]) j = v j := asInt_of_isInt (hall y.fmt (by simp))
      have hby : ∀ z, ((2 ^ shiftBy n z : Nat) : Int) = by_ z := fun z => Nat.cast_pow 2 _
      have htwo : ((2 ^ n : Nat) : Int) = 2 ^ n := Nat.cast_pow 2 n
      refine ⟨?_, ?_, ?_⟩
      · simp only [List.forall_mem_cons, List.not_mem_nil, false_implies, implies_true, and_true, exec_vadd, exec_vsub, exec_vmul,
          exec_vmulh, exec_vmin, exec_vmax, exec_vsll, exec_vsrl, exec_vsra]
        refine ⟨?_, ?_, ?_, ?_, ?_, ?_, ?_, ?_, ?_⟩
        · exact intOp_answers ⟨_, rfl, rfl, rfl⟩ hs hfmt hdst fun j => by rw [hu, hv]
        · exact intOp_answers ⟨_, rfl, rfl, rfl⟩ hs hfmt hdst fun j => by rw [hu, hv]
        · exact intOp_answers ⟨_, rfl, rfl, rfl⟩ hs hfmt hdst fun j => by rw [hu, hv]
        · exact intOp_answers ⟨_, rfl, rfl, rfl⟩ hs hfmt hdst fun j => by rw [hu, hv, htwo]
        · exact intOp_answers ⟨_, rfl, rfl, rfl⟩ hs hfmt hdst fun j => by rw [hu, hv, min_def]
        · exact intOp_answers ⟨_, rfl, rfl, rfl⟩ hs hfmt hdst fun j => by rw [hu, hv, max_def]
        · exact intOp_answers ⟨_, rfl, rfl, rfl⟩ hs hfmt hdst fun j => by rw [hu, hv, hby]
        · exact intOp_answers ⟨_, rfl, rfl, rfl⟩ hs hfmt hdst fun j => by rw [hu, hv, hby, htwo]
        · exact intOp_answers ⟨_, rfl, rfl, rfl⟩ hs hfmt hdst fun j => by rw [hu, hv, hby]
      · rintro i rfl
        exact intDiv_answers ⟨_, rfl, rfl, rfl⟩ hs hfmt hdst hu hv
      · rintro i rfl ha hg hq
        refine (intDiv_answers ⟨_, rfl, rfl, rfl⟩ hs hfmt hdst hu hv ha hg hq).congr fun j r => ?_
        by_cases h : v j = 0
        · simp only [if_pos h]
          rfl
        · simp only [if_neg h]
          rfl
    · subst hi hxf
      rw [exec_vabs]
      exact intOp_answers ⟨_, rfl, rfl, rfl⟩ (mapM_one hx) (intFormat_of_opFormat (opFormat_single_int hf) hf) hdst fun j => by
        rw [Int.natCast_natAbs]
        exact congrArg _ (asInt_of_isInt hf j)
  · intro s k d a b w e qa qb x y hx hy sat two
    simp only [List.forall_mem_cons, List.not_mem_nil, false_implies, implies_true, and_true, exec_vand, exec_vor, exec_vxor]
    exact ⟨bitOp_two ⟨_, rfl, rfl, rfl⟩ hx hy, bitOp_two ⟨_, rfl, rfl, rfl⟩ hx hy, bitOp_two ⟨_, rfl, rfl, rfl⟩ hx hy⟩

/-- Settles O23: each operation by its shape; VFMA and VFCLASS by what they plan. -/
theorem vectorFloats : Obligations.VectorFloats := by
  intro s k d a b w e qa qb x y f hx hy hf u v out two
  have hs : two.mapM (fun o : Bool × BitVec 5 => source s o.1 o.2) = .ok [x, y] := mapM_two hx hy
  refine ⟨fun dst hdst hop => ⟨?_, ?_⟩, fun dst hdst hxf => ?_, fun dst hdst c hc hop i hi ha hg hq => ?_, fun hxf i hi ha hg hq => ?_⟩
  · simp only [List.forall_mem_cons, List.not_mem_nil, false_implies, implies_true, and_true, exec_vfadd, exec_vfsub, exec_vfmul,
      exec_vfdiv]
    have hfmt : floatFormat ([x, y].map (·.fmt)) = some f := floatFormat_of_opFormat hop hf
    refine ⟨?_, ?_, ?_, ?_⟩ <;> exact floatOp_answers ⟨_, rfl, rfl, rfl⟩ hs hfmt hdst
  · simp only [List.forall_mem_cons, List.not_mem_nil, false_implies, implies_true, and_true, exec_vfmin, exec_vfmax]
    have hfmt : floatFormat ([x, y].map (·.fmt)) = some f := floatFormat_of_opFormat hop hf
    refine ⟨?_, ?_⟩ <;> exact floatPick_answers ⟨_, rfl, rfl, rfl⟩ hs hfmt hdst
  · simp only [List.forall_mem_cons, List.not_mem_nil, false_implies, implies_true, and_true, exec_vfsqrt, exec_vfrcp, exec_vfexp2,
      exec_vflog2]
    have hfmt : floatFormat ([x].map (·.fmt)) = some f := by
      rw [← hxf] at hf ⊢
      exact floatFormat_of_opFormat (opFormat_single_float hf) hf
    refine ⟨?_, ?_, ?_, ?_⟩ <;> exact floatOp_answers ⟨_, rfl, rfl, rfl⟩ (mapM_one hx) hfmt hdst
  · subst hi
    rw [exec_vfma]
    refine elementwise_answers ⟨_, rfl, rfl, rfl⟩ hs ?_ ha hg hq
    have hfmt : floatFormat ([x, y].map (·.fmt) ++ [c.fmt]) = some f := floatFormat_of_opFormat hop hf
    simp only [hc, hfmt, hdst, bind, Except.bind, pure, Except.pure]
    rfl
  · subst hi hxf
    intro tag htag
    rw [exec_vfclass]
    refine elementwise_answers ⟨_, rfl, rfl, rfl⟩ (mapM_one hx) ?_ ha hg hq
    have hok : (!x.fmt.isFloat || !(tag == .bits || (tag.isInt && decide (2 ≤ tag.bytes)))) = false := by
      simpa [hf, or_iff_not_imp_left] using htag
    exact illegalWhen_then hok rfl
end

section
/-! CERTIFICATES. Compares and mask instructions (O22): those that set a mask register, those that write a scalar register from one, and
VMFFS. -/

namespace Sys2Proof
namespace Machine

/-! ### Members that consume nothing -/

theorem queuesReady_nil (s : State) : QueuesReady s [] := fun _ _ h => nomatch h

theorem consume_nil (s : State) : consume s [] = .ok s := by
  unfold consume
  split
  · rfl
  · have hq : (Vector.ofFn fun i : Fin 4 => s.regs.queues[i]) = s.regs.queues := by
      ext j hj
      simp
    exact congrArg (fun q => Except.ok (s.setRegs { s.regs with queues := q })) hq

theorem consumed_nil {s t : State} (h : t.regs.queues = s.regs.queues) : Consumed s t [] := fun q => by
  rw [h, if_neg (fun h => nomatch h.2)]

/-! ### Members that set a mask register -/

/-- An instruction that raises nothing leaves FFLAGS and the generators as they are; under E its exception mask is empty (R64). -/
theorem account_start (s c : State) (p : Pfx) (e : Bool) (h : c.regs.gens = s.regs.gens) :
    c.account p e (Outs.start s) = if e then c.writeMask p.em.toNat 0 else c := by
  have hc : c.setRegs { c.regs with fflags := accrue c.regs.fflags 0, gens := s.regs.gens } = c := by
    rw [accrue, show c.regs.fflags ||| 0 = c.regs.fflags from BitVec.or_zero, ← h]
    rfl
  unfold State.account
  rw [show (Outs.start s).flags = 0 from rfl, show (Outs.start s).gens = s.regs.gens from rfl, hc]
  rfl

section
variable {s : State} {i : Instr} {d : BitVec 5} {b : Nat → Prop}

/-- A compare that sets the bits for which `g` holds; it raises nothing, so under E the exception mask is emptied (R162). -/
theorem compareOp_answers {e : Bool} {ops : List (Bool × BitVec 5)} {srcs : List Source} {g : Nat → Bool}
    {plan : State → List Source → Eff (Nat → Bool)} (hs : ops.mapM (fun o => source s o.1 o.2) = .ok srcs)
    (hp : plan s srcs = .ok g) (hb : ∀ j, g j = true ↔ b j) (ha : Allowed s i) (hg : GoesOn s i) (hq : QueuesReady s ops) :
    SetsMask (compareOp i d e ops plan s) s e d ops b := by
  refine setsMask_ok ha hg hq (l := (activeIndices s (pfxOf s.regs)).filter g) (fun j => by rw [List.mem_filter, hb]) ?_
  intro c hc
  simp only [hs, hp, hc, bind, Except.bind, pure, Except.pure]
  split
  · rfl
  · exact congrArg Except.ok (account_start _ _ _ _ rfl)

theorem intCompare_answers {e : Bool} {ops : List (Bool × BitVec 5)} {srcs : List Source} {f : Fmt} {g : Int → Int → Bool}
    (hs : ops.mapM (fun o => source s o.1 o.2) = .ok srcs) (hf : intFormat false (srcs.map (·.fmt)) = some f)
    (hb : ∀ j, g (asInt f (src1 srcs) j) (asInt f (src2 srcs) j) = true ↔ b j) :
    Allowed s i → GoesOn s i → QueuesReady s ops → SetsMask (intCompare i d e ops g s) s e d ops b :=
  compareOp_answers hs (by simp only [hf]) hb

theorem floatCompare_answers {e : Bool} {ops : List (Bool × BitVec 5)} {srcs : List Source} {f : Fmt} {g : Val → Val → Bool}
    (hs : ops.mapM (fun o => source s o.1 o.2) = .ok srcs) (hf : floatFormat (srcs.map (·.fmt)) = some f) :
    Allowed s i → GoesOn s i → QueuesReady s ops →
      SetsMask (floatCompare i d e ops g s) s e d ops (fun j => g (asVal (src1 srcs) j) (asVal (src2 srcs) j) = true) :=
  compareOp_answers hs (by simp only [hf]) fun _ => Iff.rfl

/-- A mask instruction that sets the bits for which `g` holds (R190). -/
theorem maskOp_answers {g : State → Nat → Bool} (hb : ∀ j, g s j = true ↔ b j) (ha : Allowed s i) (hg : GoesOn s i) :
    SetsMask (maskOp i d g s) s false d [] b := by
  refine setsMask_ok ha hg (queuesReady_nil s) (l := (activeIndices s (pfxOf s.regs)).filter (g s))
    (fun j => by rw [List.mem_filter, hb]) ?_
  intro c hc
  obtain rfl : s = c := Except.ok.inj ((consume_nil s).symm.trans hc)
  split
  · rfl
  · rfl

end

/-! ### Members that write a scalar register from a mask register -/

/-- A write to a scalar register depends on the scalar registers alone. -/
theorem writeX_x {r q : Regs} {d : BitVec 5} {v : XWord} (h : q.x = r.x) : (writeX q d v).x = (writeX r d v).x := by
  unfold writeX
  split
  · exact h
  · exact congrArg (fun x : Vector XWord 32 => x.set d.toNat v) h

/-- A member that consumes nothing and writes a scalar register, unless VL is 0 (R21). -/
theorem scalarMember_answers {s : State} {i : Instr} {run : Pfx → State → Eff State} {d : BitVec 5} {v : XWord} (ha : Allowed s i)
    (hg : GoesOn s i) (hr : run (pfxOf s.regs) s =
      if s.regs.vl = 0 then .ok s.spendPfx.noTile else .ok (s.spendPfx.noTile.setX d v)) :
    ∃ t, member i run s = .next t ∧ t.regs.queues = s.regs.queues ∧
      AfterScalarMember s t d (if s.regs.vl = 0 then none else some v) := by
  by_cases hv : s.regs.vl = 0
  · rw [if_pos hv] at hr ⊢
    obtain ⟨t, h1, h2, -, h3⟩ := member_next ha hr (hg.imp id (fun h => h.of rfl rfl rfl))
    refine ⟨t, h1, by rw [h2]; rfl, by rw [h2]; rfl, ?_, ?_⟩
    · rw [h2]; rfl
    · rw [h3]; rfl
  · have hu : s.spendPfx.noTile.setX d v = { s.setRegs { s.regs with
        pfxValid := false, cv := none, x := (writeX s.regs d v).x } with free := s.free + capacity s } := by
      rw [State.setX, writeX_eq, writeX_x (q := s.spendPfx.noTile.regs) (r := s.regs) rfl]
      rfl
    rw [if_neg hv, hu] at hr
    rw [if_neg hv]
    obtain ⟨t, h1, h2, -, h3⟩ := member_next ha hr (hg.imp id (fun h => h.of rfl rfl rfl))
    have hx : ∀ r, t.x r = readX (writeX s.regs d v) r := fun r => by rw [State.x, h2, writeX_eq]; rfl
    refine ⟨t, h1, ?_, ⟨⟨?_, fun r hr => ?_⟩, ?_, ?_⟩⟩
    · rw [h2]; rfl
    · rw [hx]; rfl
    · rw [hx, readX_writeX, if_neg hr]; rfl
    · rw [h2]; rfl
    · rw [h3]; rfl

theorem maskScalar_answers {s : State} {i : Instr} {d a : BitVec 5} {g : List Nat → XWord} (ha : Allowed s i) (hg : GoesOn s i) :
    ∃ t, maskScalar i d a g s = .next t ∧ t.regs.queues = s.regs.queues ∧ AfterScalarMember s t d
      (if s.regs.vl = 0 then none else some (g ((activeIndices s (pfxOf s.regs)).filter (inSet (maskOf s a))))) :=
  scalarMember_answers ha hg rfl

/-! ### VMFFS -/

theorem setGen_gen (gs : Vector (BitVec 32) 64) (n : Nat) : setGen gs n (gen gs n) = gs := by
  have hn : n % 64 < 64 := Nat.mod_lt _ (by decide)
  simp [setGen, gen, hn]

/-- An item that raises nothing and rounds nothing enters its result alone. -/
theorem put_quiet (o : Outs) (ek : BitVec 3) (n : Nat) (v : XWord) :
    o.put ek n v 0 (gen o.gens n) = { o with new := o.new.setIfInBounds n (some v) } := by
  simp [Outs.put, excepts, setGen_gen]

/-- Items that raise nothing and round nothing enter their results alone. -/
theorem overItems_quiet {α : Type} (s : State) (p : Pfx) (is : List α) (place : α → Nat) (v : α → XWord) :
    overItems s p is place (fun x r => (v x, 0, r.gen)) =
      is.foldl (fun o x => { o with new := o.new.setIfInBounds (place x) (some (v x)) }) (Outs.start s) := by
  simp only [overItems, put_quiet]

/-- A member that consumes nothing and delivers the outcome of a list of items. -/
theorem inOrder_answers {α : Type} {s : State} {i : Instr} {run : Pfx → State → Eff State} {w e : Bool} {d : BitVec 5} {fmt : Fmt}
    {isTail : Nat → Bool} {is : List α} {place : α → Nat} {f : α → Rnd → Step1} (hn : NamesGroup s i w d) (ha : Allowed s i)
    (hg : GoesOn s i) (hr : run (pfxOf s.regs) s =
      .ok (deliverTail s (pfxOf s.regs) w e d fmt isTail (overItems s (pfxOf s.regs) is place f))) :
    ∃ t, member i run s = .next t ∧ AfterMember s t ∧ Consumed s t [] ∧ InOrder s t i.kbit w e d fmt isTail is place f := by
  obtain ⟨t, h1, h2, h3, h4⟩ := member_delivers (c := s) (q := s.regs.queues) ha hg rfl rfl hr
  exact ⟨t, h1, h2, consumed_nil h3, inOrder_of rfl (hn.copyApart ha) h4⟩

end Machine
end Sys2Proof

open Sys2Proof Sys2Proof.Machine

/-- Settles O22: compares and mask instructions by the bits that they set, VMPOP and VMFFSR by the list of set active indices, and VMFFS
row by row. -/
theorem vectorMasks : Obligations.VectorMasks := by
  refine ⟨?_, ?_⟩
  · intro s k d a b e qa qb x y f hx hy hop two u v c z
    have hs : two.mapM (fun o : Bool × BitVec 5 => source s o.1 o.2) = .ok [x, y] := mapM_two hx hy
    refine ⟨fun hf => ?_, fun hf => ?_⟩
    · have hall := List.all_eq_true.1 (isInt_of_opFormat hop hf)
      have hu : ∀ j, asInt f (src1 [x, y]) j = u j := asInt_of_isInt (hall x.fmt (by simp))
      have hv : ∀ j, asInt f (src2 [x, y]) j = v j := asInt_of_isInt (hall y.fmt (by simp))
      have hfmt : intFormat false ([x, y].map (·.fmt)) = some f := intFormat_of_opFormat hop hf
      simp only [List.forall_mem_cons, List.not_mem_nil, false_implies, implies_true, and_true, exec_vcmpeq, exec_vcmplt, exec_vcmple]
      refine ⟨?_, ?_, ?_⟩
      · exact intCompare_answers hs hfmt fun j => by rw [hu, hv, decide_eq_true_iff]
      · exact intCompare_answers hs hfmt fun j => by rw [hu, hv, decide_eq_true_iff]
      · exact intCompare_answers hs hfmt fun j => by rw [hu, hv, decide_eq_true_iff]
    · have hfmt : floatFormat ([x, y].map (·.fmt)) = some f := floatFormat_of_opFormat hop hf
      simp only [List.forall_mem_cons, List.not_mem_nil, false_implies, implies_true, and_true, exec_vfcmpeq, exec_vfcmplt,
        exec_vfcmple]
      refine ⟨?_, ?_, ?_⟩ <;> exact floatCompare_answers hs hfmt
  · intro s k d a b p on set rs tag
    refine ⟨?_, ?_, fun htag i hi ha hg => ?_⟩
    · simp only [List.forall_mem_cons, List.not_mem_nil, false_implies, implies_true, and_true, exec_vmand, exec_vmor, exec_vmxor,
        exec_vmnot, exec_vmset]
      refine ⟨?_, ?_, ?_, ?_, ?_⟩
      · exact maskOp_answers fun j => Bool.and_eq_true_iff
      · exact maskOp_answers fun j => Bool.or_eq_true_iff
      · exact maskOp_answers fun j => bne_iff_ne.trans (not_congr Bool.eq_iff_iff)
      · exact maskOp_answers fun j => by simp [on]
      · exact maskOp_answers fun j => decide_eq_true_iff
    · simp only [List.forall_mem_cons, List.not_mem_nil, false_implies, implies_true, and_true, exec_vmpop, exec_vmffsr]
      exact ⟨maskScalar_answers, maskScalar_answers⟩
    · subst hi
      rw [exec_vmffs]
      have hok : (!(tag == .bits || (tag.isInt && decide (2 ≤ tag.bytes)))) = false := by
        simpa [or_iff_not_imp_left] using htag
      intro f first
      exact inOrder_answers ⟨_, rfl, rfl, rfl⟩ ha hg (illegalWhen_then hok (by rw [overItems_quiet]; rfl))
end

section
/-! CERTIFICATES. Exact pairs, double words and VWMAC (O24): two results for each index of a list, delivered in a group of 2·G
registers. -/

namespace Sys2Proof
namespace Machine

/-! ### Two results for each index -/

/-- The results of a list of indices, each written at its own. -/
def filled (s : State) (v : Nat → XWord) (is : List Nat) : Array (Option XWord) :=
  is.foldl (fun a i => a.setIfInBounds i (some (v i))) (blank s)

theorem filled_append (s : State) (v : Nat → XWord) (is : List Nat) (i : Nat) :
    filled s v (is ++ [i]) = (filled s v is).setIfInBounds i (some (v i)) := by
  rw [filled, List.foldl_append]
  rfl

theorem filled_size (s : State) (v : Nat → XWord) (is : List Nat) : (filled s v is).size = capacity s := by
  induction is using List.reverseRecOn with
  | nil => exact Array.size_replicate
  | append_singleton is i ih => rw [filled_append, Array.size_setIfInBounds, ih]

theorem filled_getD (s : State) (v : Nat → XWord) (is : List Nat) {i : Nat} (hi : i < capacity s) :
    (filled s v is).getD i none = if i ∈ is then some (v i) else none := by
  induction is using List.reverseRecOn with
  | nil => simp [filled, blank, Array.getD_eq_getD_getElem?, hi]
  | append_singleton is j ih =>
    have hsize := filled_size s v is
    rw [filled_append, Array.getD_eq_getD_getElem?, Array.getElem?_setIfInBounds]
    by_cases h : j = i
    · subst h
      simp [hsize, hi]
    · rw [if_neg h, ← Array.getD_eq_getD_getElem?, ih]
      simp [Ne.symm h]

/-- The flags that the indices of a list raise together. -/
def raised (f : Nat → Flags) (is : List Nat) : Flags := is.foldl (fun fl i => fl ||| f i) 0

theorem raised_getLsbD (f : Nat → Flags) (is : List Nat) (b : Nat) :
    (raised f is).getLsbD b = true ↔ ∃ i ∈ is, (f i).getLsbD b = true := by
  induction is using List.reverseRecOn with
  | nil => simp [raised]
  | append_singleton is i ih =>
    rw [raised, List.foldl_append, ← raised, List.foldl_cons, List.foldl_nil, BitVec.getLsbD_or, Bool.or_eq_true, ih]
    simp [or_and_right, exists_or]

theorem eachTwo_eq (s : State) (p : Pfx) (is : List Nat) (f : Nat → XWord × XWord × Flags) :
    eachTwo s p is f = {
      fst := filled s (fun i => (f i).1) is, snd := filled s (fun i => (f i).2.1) is, flags := raised (fun i => (f i).2.2) is
      exc := setOf (is.filter (fun i => excepts p.ek (f i).2.2)) } := by
  induction is using List.reverseRecOn with
  | nil => rfl
  | append_singleton is i ih =>
    rw [eachTwo, List.foldl_append, ← eachTwo, ih]
    simp only [List.foldl_cons, List.foldl_nil, filled_append, raised, setOf, List.filter_append, List.foldl_append, List.filter_cons,
      List.filter_nil]
    split <;> rfl

/-! ### A group of 2·G registers -/

/-- No decode-time cause meets the instruction, so no field of its prefix is forbidden (R111). -/
theorem pfxBad_of_allowed {s : State} {i : Instr} {u : VecUse} (ha : Allowed s i) (hu : vecUse (groupFactor s.regs) i = some u) :
    pfxBad u (pfxOf s.regs) = false := by
  unfold Allowed at ha
  simp only [memberCauses, hu, List.append_eq_nil_iff] at ha
  obtain ⟨⟨⟨h, -⟩, -⟩, -⟩ := ha
  by_contra hn
  rw [if_pos (by simpa using hn)] at h
  cases h

/-- The copy that a prefix names stands apart from both halves of the destination: of the first half, or under `wide` of both. -/
def CopyApartTwo (s : State) (wide : Bool) (d : BitVec 5) : Prop :=
  let p := pfxOf s.regs
  let n := groupFactor s.regs
  p.dce = true → p.dc.toNat + (if wide then 2 * n else n) ≤ d.toNat ∨ d.toNat + 2 * n ≤ p.dc.toNat

theorem copyApartTwo_of {s : State} {i : Instr} {wide : Bool} {d : BitVec 5} {u : VecUse} (ha : Allowed s i)
    (hu : vecUse (groupFactor s.regs) i = some u) (hd : u.dst = reg true d (2 * groupFactor s.regs)) (hh : u.headCopy = !wide) :
    CopyApartTwo s wide d := by
  intro hdce
  have hb := pfxBad_of_allowed ha hu
  simp only [pfxBad, pfxOf_present hdce, Bool.true_and, Bool.or_eq_false_iff, copyGroup, hd, reg, if_true, hdce, hh,
    List.any_cons, List.any_nil, Bool.or_false, overlaps, Bool.and_eq_false_iff, decide_eq_false_iff_not, Bool.not_eq_true'] at hb
  obtain ⟨-, -, ho⟩ := hb
  cases wide with
  | false =>
    simp only [if_true, Bool.false_eq_true, if_false] at ho ⊢
    omega
  | true =>
    simp only [if_true, Bool.true_eq_false, if_false] at ho ⊢
    omega

/-- A register after a write of a group, where it and the declaration were still those of `s`. -/
theorem writeGroup_written {s c : State} {j : Fin 32} (h : c.regs.vregs[j] = s.regs.vregs[j]) (h2 : c.hart.vlmax = s.hart.vlmax)
    (h3 : c.hart.wcode = s.hart.wcode) (first n : Nat) (fmt : Fmt) (new : Array (Option XWord)) :
    (c.writeGroup first n fmt new).regs.vregs[j] =
      if first ≤ j.val ∧ j.val < first + n then written s first fmt new j else s.regs.vregs[j] := by
  rw [writeGroup_vreg, ← written_eq h h2 h3, ← h]
  rfl

/-- Two groups of n registers, one after the other. -/
def State.writePair (c : State) (first n : Nat) (f1 f2 : Fmt) (a b : Array (Option XWord)) : State :=
  (c.writeGroup first n f1 a).writeGroup (first + n) n f2 b

theorem State.writePair_vlmax (c : State) (first n : Nat) (f1 f2 : Fmt) (a b : Array (Option XWord)) :
    (c.writePair first n f1 f2 a b).hart.vlmax = c.hart.vlmax := by
  simp only [State.writePair, State.writeGroup_vlmax]

theorem State.writePair_wcode (c : State) (first n : Nat) (f1 f2 : Fmt) (a b : Array (Option XWord)) :
    (c.writePair first n f1 f2 a b).hart.wcode = c.hart.wcode := by
  simp only [State.writePair, State.writeGroup_wcode]

theorem writePair_written {s c : State} {j : Fin 32} (h : c.regs.vregs[j] = s.regs.vregs[j]) (h2 : c.hart.vlmax = s.hart.vlmax)
    (h3 : c.hart.wcode = s.hart.wcode) (first n : Nat) (f1 f2 : Fmt) (a b : Array (Option XWord)) :
    (c.writePair first n f1 f2 a b).regs.vregs[j] =
      if first ≤ j.val ∧ j.val < first + n then written s first f1 a j
      else if first + n ≤ j.val ∧ j.val < first + n + n then written s (first + n) f2 b j
      else s.regs.vregs[j] := by
  have hfirst := writeGroup_written h h2 h3 first n f1 a
  by_cases hin : first ≤ j.val ∧ j.val < first + n
  · rw [if_pos hin] at hfirst
    rw [State.writePair, writeGroup_vreg, if_neg (by omega), hfirst, if_pos hin]
  · rw [if_neg hin] at hfirst
    rw [State.writePair, if_neg hin]
    exact writeGroup_written hfirst (by rw [State.writeGroup_vlmax, h2]) (by rw [State.writeGroup_wcode, h3]) _ _ _ _

/-- The two groups and their copy (R115): of the first, or under `wide` of both. -/
def State.deliverPair (c : State) (p : Pfx) (wide : Bool) (first n : Nat) (f1 f2 : Fmt) (a b : Array (Option XWord)) : State :=
  let c := c.writePair first n f1 f2 a b
  if p.dce then (if wide then c.writePair p.dc.toNat n f1 f2 a b else c.writeGroup p.dc.toNat n f1 a) else c

/-- A register of the destination, of its copy, or neither. -/
def pairReg (s : State) (p : Pfx) (wide : Bool) (first n : Nat) (f1 f2 : Fmt) (a b : Array (Option XWord)) (j : Fin 32) : VReg :=
  if first ≤ j.val ∧ j.val < first + n then written s first f1 a j
  else if first + n ≤ j.val ∧ j.val < first + n + n then written s (first + n) f2 b j
  else if p.dce = true ∧ p.dc.toNat ≤ j.val ∧ j.val < p.dc.toNat + n then written s p.dc.toNat f1 a j
  else if p.dce = true ∧ wide = true ∧ p.dc.toNat + n ≤ j.val ∧ j.val < p.dc.toNat + n + n then
    written s (p.dc.toNat + n) f2 b j
  else s.regs.vregs[j]

theorem deliverPair_vreg {s : State} {wide : Bool} {d : BitVec 5} (hap : CopyApartTwo s wide d) (f1 f2 : Fmt)
    (a b : Array (Option XWord)) (j : Fin 32) {c : State} (h : SameFile s c) :
    (c.deliverPair (pfxOf s.regs) wide d.toNat (groupFactor s.regs) f1 f2 a b).regs.vregs[j] =
      pairReg s (pfxOf s.regs) wide d.toNat (groupFactor s.regs) f1 f2 a b j := by
  have h1 : c.regs.vregs[j] = s.regs.vregs[j] := by rw [h.1]
  have hpair := writePair_written h1 h.2.1 h.2.2 d.toNat (groupFactor s.regs) f1 f2 a b
  unfold State.deliverPair pairReg
  dsimp only
  generalize hB : c.writePair d.toNat (groupFactor s.regs) f1 f2 a b = B at hpair
  have hB2 : B.hart.vlmax = s.hart.vlmax := by rw [← hB, State.writePair_vlmax, h.2.1]
  have hB3 : B.hart.wcode = s.hart.wcode := by rw [← hB, State.writePair_wcode, h.2.2]
  cases hdce : (pfxOf s.regs).dce with
  | false => simpa only [Bool.false_eq_true, if_false, false_and] using hpair
  | true =>
    have hap := hap hdce
    simp only [if_true, true_and]
    by_cases hin : d.toNat ≤ j.val ∧ j.val < d.toNat + groupFactor s.regs + groupFactor s.regs
    · have hkeep : (if wide then B.writePair (pfxOf s.regs).dc.toNat (groupFactor s.regs) f1 f2 a b
          else B.writeGroup (pfxOf s.regs).dc.toNat (groupFactor s.regs) f1 a).regs.vregs[j] = B.regs.vregs[j] := by
        cases wide with
        | false =>
          simp only [Bool.false_eq_true, if_false] at hap ⊢
          rw [writeGroup_written (s := B) rfl rfl rfl, if_neg (by omega)]
        | true =>
          simp only [if_true] at hap ⊢
          rw [writePair_written (s := B) rfl rfl rfl, if_neg (by omega), if_neg (by omega)]
      rw [hkeep, hpair]
      by_cases hfirst : d.toNat ≤ j.val ∧ j.val < d.toNat + groupFactor s.regs
      · rw [if_pos hfirst, if_pos hfirst]
      · rw [if_neg hfirst, if_neg hfirst, if_pos (by omega), if_pos (by omega)]
    · have hfirst : ¬(d.toNat ≤ j.val ∧ j.val < d.toNat + groupFactor s.regs) := by omega
      have hsecond : ¬(d.toNat + groupFactor s.regs ≤ j.val ∧ j.val < d.toNat + groupFactor s.regs + groupFactor s.regs) := by omega
      rw [if_neg hfirst, if_neg hsecond] at hpair
      simp only [if_neg hfirst, if_neg hsecond]
      cases wide with
      | false => simpa only [Bool.false_eq_true, if_false, false_and] using writeGroup_written hpair hB2 hB3 _ _ _ _
      | true => simpa only [if_true, true_and] using writePair_written hpair hB2 hB3 _ _ _ _ _ _

theorem writePair_shape (s : State) (first n : Nat) (f1 f2 : Fmt) (a b : Array (Option XWord)) :
    ∃ v, s.writePair first n f1 f2 a b = s.setRegs { s.regs with vregs := v } := by
  obtain ⟨v1, h1⟩ := writeGroup_shape s first n f1 a
  obtain ⟨v2, h2⟩ := writeGroup_shape (s.setRegs { s.regs with vregs := v1 }) (first + n) n f2 b
  exact ⟨v2, by rw [State.writePair, h1, h2]; rfl⟩

theorem deliverPair_shape (s : State) (p : Pfx) (wide : Bool) (first n : Nat) (f1 f2 : Fmt) (a b : Array (Option XWord)) :
    ∃ v, s.deliverPair p wide first n f1 f2 a b = s.setRegs { s.regs with vregs := v } := by
  obtain ⟨v, h⟩ := writePair_shape s first n f1 f2 a b
  unfold State.deliverPair
  dsimp only
  rw [h]
  split
  · split
    · obtain ⟨v2, h2⟩ := writePair_shape (s.setRegs { s.regs with vregs := v }) p.dc.toNat n f1 f2 a b
      exact ⟨v2, h2⟩
    · obtain ⟨v2, h2⟩ := writeGroup_shape (s.setRegs { s.regs with vregs := v }) p.dc.toNat n f1 a
      exact ⟨v2, h2⟩
  · exact ⟨v, rfl⟩

/-! ### The end of a member with two results for each index -/

/-- FFLAGS and, under E, the exception mask of a member with two results; it steps no generator. -/
def State.accountTwo (s : State) (p : Pfx) (e : Bool) (o : Outs2) : State :=
  s.account p e { new := #[], flags := o.flags, exc := o.exc, gens := s.regs.gens }

/-- VL = 0 writes nothing (R21). -/
theorem deliverTwo_zero {s c : State} {p : Pfx} {wide e : Bool} {d : BitVec 5} {f1 f2 : Fmt} {isTail : Nat → Bool} {o : Outs2}
    {q : Vector (List Tile) 4} (hc : c = s.setRegs { s.regs with queues := q }) (hv : s.regs.vl = 0) :
    deliverTwo c p wide e d f1 f2 isTail o =
      { s.setRegs { s.regs with queues := q, pfxValid := false, cv := none } with free := s.free + capacity s } := by
  subst hc
  unfold deliverTwo
  dsimp only
  rw [if_pos (show (s.setRegs { s.regs with queues := q }).spendPfx.noTile.regs.vl = 0 from hv)]
  rfl

theorem deliverTwo_pos {s : State} {p : Pfx} {wide e : Bool} {d : BitVec 5} {f1 f2 : Fmt} {isTail : Nat → Bool} {o : Outs2}
    (hv : s.regs.vl ≠ 0) :
    deliverTwo s p wide e d f1 f2 isTail o =
      (s.spendPfx.noTile.accountTwo p e o).deliverPair p wide d.toNat (groupFactor s.regs) f1 f2
        (withTail s isTail o.fst) (withTail s isTail o.snd) := by
  unfold deliverTwo
  dsimp only
  rw [if_neg (show ¬s.spendPfx.noTile.regs.vl = 0 from hv)]
  cases hd : p.dce with
  | false =>
    simp only [State.deliverPair, hd, Bool.not_false, if_true, Bool.false_eq_true, if_false]
    rfl
  | true =>
    simp only [State.deliverPair, hd, Bool.not_true, if_true, Bool.false_eq_true, if_false]
    cases wide with
    | false => rfl
    | true => rfl

/-- The state at the end of a member with two results, and what its registers hold. -/
theorem deliverTwo_effect {s c : State} {wide e : Bool} {d : BitVec 5} {f1 f2 : Fmt} {isTail : Nat → Bool} {o : Outs2}
    {q : Vector (List Tile) 4} (hc : c = s.setRegs { s.regs with queues := q }) (hap : CopyApartTwo s wide d) (hv : s.regs.vl ≠ 0) :
    ∃ v m, deliverTwo c (pfxOf s.regs) wide e d f1 f2 isTail o = { s.setRegs { s.regs with
        queues := q, pfxValid := false, cv := none, vregs := v, masks := m, fflags := accrue s.regs.fflags o.flags } with
        free := s.free + capacity s } ∧
      (∀ j : Fin 32, v[j] = pairReg s (pfxOf s.regs) wide d.toNat (groupFactor s.regs) f1 f2
        (withTail s isTail o.fst) (withTail s isTail o.snd) j) ∧
      ∀ j : Fin 8, m[j] = if e = true ∧ j.val = (pfxOf s.regs).em.toNat then ⟨s.regs.masks[j].com, some o.exc⟩ else s.regs.masks[j] := by
  have hcv : c.regs.vl ≠ 0 := by rw [hc]; exact hv
  have htail : ∀ a, withTail c isTail a = withTail s isTail a := fun a => by rw [hc]; rfl
  have hgroup : groupFactor c.regs = groupFactor s.regs := by rw [hc]; rfl
  rw [deliverTwo_pos hcv, htail, htail, hgroup]
  generalize hx : c.spendPfx.noTile = x
  rw [hc] at hx
  obtain ⟨m, hm⟩ := account_shape x (pfxOf s.regs) e { new := #[], flags := o.flags, exc := o.exc, gens := x.regs.gens }
  obtain ⟨v, hv⟩ := deliverPair_shape (x.accountTwo (pfxOf s.regs) e o) (pfxOf s.regs) wide d.toNat (groupFactor s.regs) f1 f2
    (withTail s isTail o.fst) (withTail s isTail o.snd)
  have hsame : SameFile s (x.accountTwo (pfxOf s.regs) e o) := by
    have hx' : SameFile s x := by
      rw [← hx]
      exact ⟨rfl, rfl, rfl⟩
    obtain ⟨h1, h2, h3⟩ := account_file x (pfxOf s.regs) e { new := #[], flags := o.flags, exc := o.exc, gens := x.regs.gens }
    exact ⟨h1.trans hx'.1, h2.trans hx'.2.1, h3.trans hx'.2.2⟩
  have hvreg := fun j => deliverPair_vreg hap f1 f2 (withTail s isTail o.fst) (withTail s isTail o.snd) j hsame
  have hmask := fun j => account_mask x (pfxOf s.regs) e { new := #[], flags := o.flags, exc := o.exc, gens := x.regs.gens } j
  refine ⟨v, m, ?_, fun j => ?_, fun j => ?_⟩
  · refine hv.trans ?_
    rw [State.accountTwo, hm, ← hx]
    simp only [State.noTile, State.spendPfx, State.regs_eq, State.setRegs_hart]
    generalize accrue s.hart.regs.fflags o.flags = ff
    rfl
  · rw [← hvreg, hv]
    generalize x.accountTwo (pfxOf s.regs) e o = y
    rfl
  · rw [hm, ← hx] at hmask
    exact hmask j

theorem withTail_filled (s : State) (isTail : Nat → Bool) (v : Nat → XWord) (is : List Nat) (i : Nat) :
    (withTail s isTail (filled s v is)).getD i none = tailed s isTail (fun i => if i ∈ is then some (v i) else none) i := by
  rw [withTail_getD s isTail _ (filled_size s v is)]
  unfold tailed
  by_cases hi : i < capacity s
  · simp only [if_pos hi, filled_getD s v is hi]
  · simp only [if_neg hi]

/-- The registers of the destination and of its copy take the results that the two arrays hold. -/
theorem pairReg_takes {s t : State} {wide : Bool} {first n : Nat} {f1 f2 : Fmt} {a b : Array (Option XWord)} {x y : Nat → Option XWord}
    {p : Pfx} {j : Fin 32} (ha : ∀ i, a.getD i none = x i) (hb : ∀ i, b.getD i none = y i)
    (ht : t.regs.vregs[j] = pairReg s p wide first n f1 f2 a b j) :
    let inside := fun first => first ≤ j.val ∧ j.val < first + n
    if inside first then RegTakes s t j first f1 x
    else if inside (first + n) then RegTakes s t j (first + n) f2 y
    else if p.dce = true ∧ inside p.dc.toNat then RegTakes s t j p.dc.toNat f1 x
    else if p.dce = true ∧ wide = true ∧ inside (p.dc.toNat + n) then RegTakes s t j (p.dc.toNat + n) f2 y
    else t.regs.vregs[j] = s.regs.vregs[j] := by
  intro inside
  unfold pairReg at ht
  split
  · rename_i h
    rw [if_pos h] at ht
    exact regTakes_of ha ht
  rename_i h
  rw [if_neg h] at ht
  split
  · rename_i h
    rw [if_pos h] at ht
    exact regTakes_of hb ht
  rename_i h
  rw [if_neg h] at ht
  split
  · rename_i h
    rw [if_pos h] at ht
    exact regTakes_of ha ht
  rename_i h
  rw [if_neg h] at ht
  split
  · rename_i h
    rw [if_pos h] at ht
    exact regTakes_of hb ht
  · rename_i h
    rwa [if_neg h] at ht

/-- What a member with two results for each index of a list answers. -/
theorem eachTwo_answers {s : State} {i : Instr} {run : Pfx → State → Eff State} {wide e : Bool} {d : BitVec 5}
    {ops : List (Bool × BitVec 5)} {f1 f2 : Fmt} {isTail : Nat → Bool} {is : List Nat} {f : Nat → XWord × XWord × Flags}
    (hap : CopyApartTwo s wide d) (ha : Allowed s i) (hg : GoesOn s i) (hq : QueuesReady s ops)
    (hr : ∀ c, consume s ops = .ok c → run (pfxOf s.regs) s =
      .ok (deliverTwo c (pfxOf s.regs) wide e d f1 f2 isTail (eachTwo s (pfxOf s.regs) is f))) :
    EachTwo (member i run s) s wide e d ops f1 f2 isTail is f := by
  obtain ⟨q, hq, hconsumed⟩ := consume_setRegs hq
  have hr := hr _ hq
  by_cases hv : s.regs.vl = 0
  · rw [deliverTwo_zero rfl hv] at hr
    obtain ⟨t, h1, h2, -, h3⟩ := member_next ha hr (hg.imp id (fun h => h.of rfl rfl rfl))
    refine ⟨t, h1, ⟨?_, ?_⟩, hconsumed t ?_, ?_, fun _ => ⟨?_, ?_, ?_⟩, fun h => absurd hv h⟩
    · rw [h2]; rfl
    · rw [h3]; rfl
    all_goals rw [h2]; rfl
  · obtain ⟨v, m, hu, hvreg, hmask⟩ := deliverTwo_effect (c := s.setRegs { s.regs with queues := q }) (e := e) (f1 := f1) (f2 := f2)
      (isTail := isTail) (o := eachTwo s (pfxOf s.regs) is f) rfl hap hv
    rw [hu] at hr
    obtain ⟨t, h1, h2, -, h3⟩ := member_next ha hr (hg.imp id (fun h => h.of rfl rfl rfl))
    have hfst : ∀ i, (withTail s isTail (eachTwo s (pfxOf s.regs) is f).fst).getD i none =
        tailed s isTail (fun i => if i ∈ is then some (f i).1 else none) i := fun i => by
      rw [eachTwo_eq]
      exact withTail_filled s isTail _ is i
    have hsnd : ∀ i, (withTail s isTail (eachTwo s (pfxOf s.regs) is f).snd).getD i none =
        tailed s isTail (fun i => if i ∈ is then some (f i).2.1 else none) i := fun i => by
      rw [eachTwo_eq]
      exact withTail_filled s isTail _ is i
    refine ⟨t, h1, ⟨?_, ?_⟩, hconsumed t ?_, ?_, fun h => absurd h hv, fun _ => ⟨fun j => ?_, fun b _ => ?_, fun j => ?_⟩⟩
    · rw [h2]; rfl
    · rw [h3]; rfl
    · rw [h2]; rfl
    · rw [h2]; rfl
    · have hj : t.regs.vregs[j] = pairReg s (pfxOf s.regs) wide d.toNat (groupFactor s.regs) f1 f2
          (withTail s isTail (eachTwo s (pfxOf s.regs) is f).fst) (withTail s isTail (eachTwo s (pfxOf s.regs) is f).snd) j := by
        rw [← hvreg j, h2]; rfl
      exact pairReg_takes hfst hsnd hj
    · have hf : t.regs.fflags = s.regs.fflags ||| raised (fun i => (f i).2.2) is := by
        rw [h2, eachTwo_eq]; rfl
      rw [hf, BitVec.getLsbD_or, Bool.or_eq_true, raised_getLsbD]
    · have hj : t.regs.masks[j] = m[j] := by rw [h2]; rfl
      rw [hj, hmask j, eachTwo_eq]
      split
      · exact ⟨_, rfl, fun i => by rw [inSet_setOf, List.mem_filter]⟩
      · rfl

/-! ### The shapes of members with two results -/

/-- The destination that an instruction names at decode is a group of 2·G registers at d, of which a copy takes the first half, or under
`wide` all. -/
def NamesPair (s : State) (i : Instr) (wide : Bool) (d : BitVec 5) : Prop :=
  ∃ u, vecUse (groupFactor s.regs) i = some u ∧ u.dst = reg true d (2 * groupFactor s.regs) ∧ u.headCopy = !wide

theorem NamesPair.copyApart {s : State} {i : Instr} {wide : Bool} {d : BitVec 5} (h : NamesPair s i wide d) (ha : Allowed s i) :
    CopyApartTwo s wide d := by
  obtain ⟨u, hu, hd, hh⟩ := h
  exact copyApartTwo_of ha hu hd hh

/-- Both halves of the destination have one tag: that of the pair's format, or 0 (R170). -/
def PairTags (s : State) (d : BitVec 5) (f : Fmt) : Prop :=
  (destTag s d = .bits ∨ destTag s d = f) ∧ (curTile (vreg s.regs (d.toNat + groupFactor s.regs))).tag = destTag s d

theorem pairFormat_ok {s : State} {d : BitVec 5} {f : Fmt} (hf : f.isFloat = true) (h : PairTags s d f) :
    pairFormat s d f = .ok () := by
  obtain ⟨hhead, herror⟩ := h
  have hok : (!(f.isFloat && (destTag s d == .bits || destTag s d == f) &&
      (curTile (vreg s.regs (d.toNat + groupFactor s.regs))).tag == destTag s d)) = false := by
    rw [herror, hf, beq_self_eq_true]
    simpa [or_iff_not_imp_left] using hhead
  rw [pairFormat, hok]
  rfl

theorem mapM_singleton {α β : Type} {g : α → Eff β} {a : α} {x : β} (hx : g a = .ok x) : [a].mapM g = .ok [x] := by
  simp only [List.mapM_cons, List.mapM_nil, hx, bind, Except.bind, pure, Except.pure]

theorem mapM_pair {α β : Type} {g : α → Eff β} {a b : α} {x y : β} (hx : g a = .ok x) (hy : g b = .ok y) :
    [a, b].mapM g = .ok [x, y] := by
  simp only [List.mapM_cons, List.mapM_nil, hx, hy, bind, Except.bind, pure, Except.pure]

section
variable {s : State} {i : Instr} {d : BitVec 5} {e : Bool} {f : Fmt} (hn : NamesPair s i false d) (hf : f.isFloat = true)
  (hp : PairTags s d f)

include hn hf hp

/-- An exact pair of each element's encodings in F (R171). -/
theorem exactOp_answers {a b : BitVec 5} {qa qb : Bool} {x y : Source} {op : FpFmt → Nat → Nat → Pair}
    (hx : source s qa a = .ok x) (hy : source s qb b = .ok y) (hop : opFormat [x.fmt, y.fmt] = some f)
    (ha : Allowed s i) (hg : GoesOn s i) (hq : QueuesReady s [(qa, a), (qb, b)]) :
    EachTwo (exactOp i d e qa qb a b op s) s false e d [(qa, a), (qb, b)] f f (fun n => !inShape s n)
      (activeIndices s (pfxOf s.regs)) (fun n => pairOut (op f.fp (inF f x n) (inF f y n))) := by
  refine eachTwo_answers (hn.copyApart ha) ha hg hq fun c hc => ?_
  simp only [hx, hy, floatFormat_of_opFormat hop hf, pairFormat_ok hf hp, hc, bind, Except.bind, pure, Except.pure]

/-- A double-word operation on pair groups of one format (R172). -/
theorem doubleOp_answers {groups : List (BitVec 5)} {srcs : List Source} {op : FpFmt → Nat × Nat → Nat × Nat → Pair}
    (hs : groups.mapM (fun g => groupSource s g.toNat (2 * groupFactor s.regs)) = .ok srcs) (hfmt : ∀ x ∈ srcs, x.fmt = f)
    (hsrc : (src1 srcs).fmt = f) (ha : Allowed s i) (hg : GoesOn s i) :
    EachTwo (doubleOp i d e groups op s) s false e d [] f f (fun n => !inShape s n) (activeIndices s (pfxOf s.regs))
      (fun n => pairOut (op f.fp (pairAt s f (src1 srcs) n) (pairAt s f (src2 srcs) n))) := by
  refine eachTwo_answers (hn.copyApart ha) ha hg (queuesReady_nil s) fun c hc => ?_
  obtain rfl : s = c := Except.ok.inj ((consume_nil s).symm.trans hc)
  have hok : srcs.any (fun x => x.fmt != f) = false := by
    simpa using hfmt
  simp only [hs, hsrc, hok, illegalWhen, pairFormat_ok hf hp, bind, Except.bind, pure, Except.pure, Bool.false_eq_true, if_false]

/-- The compensated sum of each row (R173). -/
theorem vredsumX_answers {k : Bool} {a : BitVec 5} {x : Source} (hx : groupSource s a.toNat (2 * groupFactor s.regs) = .ok x)
    (hxf : x.fmt = f) (hi : i = .vredsumX k d a e) (ha : Allowed s i) (hg : GoesOn s i) :
    EachTwo (execVredsumX k d a e s) s false e d [] f f (fun n => !(inShape s n && n % rowSize s == 0))
      ((span 0 s.regs.vr).map (· * rowSize s)) (fun n =>
        let add := fun (fl : Flags) (u v : Nat × Nat) =>
          let q := dwAdd f.fp u.1 u.2 v.1 v.2
          ((q.h, q.l), fl ||| q.flags)
        let items := (span n s.regs.vl).map (fun j =>
          if predicate s (pfxOf s.regs) j then (f.fp.canon (pairAt s f x j).1, f.fp.canon (pairAt s f x j).2) else (0, 0))
        let q := treeOver add (0, 0) 0 items
        (xword q.1.1, xword q.1.2, q.2)) := by
  subst hi hxf
  refine eachTwo_answers (hn.copyApart ha) ha hg (queuesReady_nil s) fun c hc => ?_
  obtain rfl : s = c := Except.ok.inj ((consume_nil s).symm.trans hc)
  simp only [hx, pairFormat_ok hf hp, bind, Except.bind, pure, Except.pure]

end

/-! ### The widening accumulator (R164) -/

theorem lowBits_xword (b m : Nat) : lowBits b (xword m) = xword (m % 2 ^ (8 * b)) := by
  apply BitVec.eq_of_getLsbD_eq
  intro i hi
  rw [lowBits_getLsbD, xword, xword, BitVec.getLsbD_ofNat, BitVec.getLsbD_ofNat, Nat.testBit_mod_two_pow]
  simp [hi, Bool.and_comm]

/-- The upper half of a number of 16·b bits. -/
theorem lowBits_xword_shift {b m : Nat} (hb : 2 * (8 * b) ≤ 64) (hm : m < 2 ^ (2 * (8 * b))) :
    lowBits b (xword m >>> (8 * b)) = xword (m / 2 ^ (8 * b)) := by
  apply BitVec.eq_of_getLsbD_eq
  intro i hi
  rw [lowBits_getLsbD, BitVec.getLsbD_ushiftRight, xword, xword, BitVec.getLsbD_ofNat, BitVec.getLsbD_ofNat, Nat.testBit_div_two_pow]
  by_cases h : i < 8 * b
  · have hlt : i + 8 * b < 64 := by omega
    simp [hi, h, hlt, Nat.add_comm]
  · have hbit : m.testBit (i + 8 * b) = false :=
      Nat.testBit_lt_two_pow (lt_of_lt_of_le hm (Nat.pow_le_pow_right (by decide) (by omega)))
    simp [h, hbit]

/-- Clamping between two bounds. -/
theorem clamp_eq {l h : Int} (hlh : l ≤ h) (z : Int) : (if z < l then l else if h < z then h else z) = max l (min h z) := by
  split
  · omega
  · split <;> omega

theorem wmacStep_eq {f : Fmt} (hw : f.bytes ≤ 4) (sat : Bool) (lo hi : XWord) (a b : Int) :
    wmacStep f sat lo hi a b =
      let n := 8 * f.bytes
      let bot := if f.signed then -2 ^ (2 * n - 1) else 0
      let top := if f.signed then 2 ^ (2 * n - 1) - 1 else 2 ^ (2 * n) - 1
      let raw := (lowBits f.bytes hi).toNat * 2 ^ n + (lowBits f.bytes lo).toNat
      let acc : Int := if f.signed = true ∧ 2 ^ (2 * n - 1) ≤ raw then (raw : Int) - 2 ^ (2 * n) else raw
      let z := acc + a * b
      let c := if sat then max bot (min top z) else z
      let m := (c % 2 ^ (2 * n)).toNat
      (xword (m % 2 ^ n), xword (m / 2 ^ n), if c = z then 0 else Flags.sa) := by
  extract_lets n bot top raw acc z c m
  have hbot : intLo f.signed (2 * n) = bot := by
    simp [intLo, bot]
  have htop : intHi f.signed (2 * n) = top := by
    simp [intHi, top]
  have hle : bot ≤ top := by
    have h1 : (0 : Int) < 2 ^ (2 * n - 1) := by positivity
    have h2 : (0 : Int) < 2 ^ (2 * n) := by positivity
    simp only [bot, top]
    split <;> omega
  have hacc : (if f.signed && decide (2 ^ (2 * n - 1) ≤ raw) then (raw : Int) - 2 ^ (2 * n) else raw) = acc := by
    simp only [acc, Bool.and_eq_true, decide_eq_true_eq]
  have hm : m < 2 ^ (2 * n) := by
    have h2 : (0 : Int) < 2 ^ (2 * n) := by positivity
    have := Int.emod_lt_of_pos c h2
    have := Int.emod_nonneg c h2.ne'
    have h3 : ((2 ^ (2 * n) : Nat) : Int) = 2 ^ (2 * n) := Nat.cast_pow 2 _
    omega
  have hc : (if sat then (if z < bot then bot else if top < z then top else z) else z) = c := by
    rw [clamp_eq hle]
  unfold wmacStep
  dsimp only
  rw [hbot, htop, hacc, hc, wrapBits_eq]
  have hflag : Flags.when (sat && c != z) Flags.sa = if c = z then 0 else Flags.sa := by
    cases sat with
    | false => simp [Flags.when, c]
    | true => simp [Flags.when, bne_iff_ne]
  rw [hflag]
  exact congrArg₂ Prod.mk (lowBits_xword _ _) (congrArg (·, _) (lowBits_xword_shift (by omega) hm))

/-- VWMAC adds to the accumulator that the two halves of the destination hold (R164). -/
theorem vwmac_answers {s : State} {k : Bool} {d a b : BitVec 5} {e qa qb : Bool} {x y : Source} {f : Fmt}
    (hx : source s qa a = .ok x) (hy : source s qb b = .ok y) (hfmt : intFormat false [x.fmt, y.fmt] = some f) (hw : f.bytes ≠ 8)
    (ha : Allowed s (.vwmac k d a b e qa qb)) (hg : GoesOn s (.vwmac k d a b e qa qb)) (hq : QueuesReady s [(qa, a), (qb, b)]) :
    EachTwo (execVwmac k d a b e qa qb s) s true e d [(qa, a), (qb, b)] (intFmt false f.bytes) (intFmt f.signed f.bytes)
      (fun j => !inShape s j) (activeIndices s (pfxOf s.regs)) (fun j =>
        wmacStep f (pfxOf s.regs).sat (rawGroup s d.toNat j) (rawGroup s (d.toNat + groupFactor s.regs) j) (asInt f x j) (asInt f y j)) := by
  have names : NamesPair s (.vwmac k d a b e qa qb) true d := ⟨_, rfl, rfl, rfl⟩
  refine eachTwo_answers (names.copyApart ha) ha hg hq fun c hc => ?_
  have hok : (f.bytes == 8) = false := by simpa using hw
  simp only [hx, hy, hfmt, hc, hok, illegalWhen, bind, Except.bind, pure, Except.pure, Bool.false_eq_true, if_false]

end Machine
end Sys2Proof

open Sys2Proof Sys2Proof.Machine

/-- Settles O24: each instruction by its shape, and VWMAC by what one element of the accumulator comes to. -/
theorem vectorPairs : Obligations.VectorPairs := by
  intro s k d a b e qa qb f p g two out tail pairs both
  refine ⟨fun x y hx hy hop hf hp => ?_, fun x hx hxf hf hp => ⟨fun y hy hyf => ?_, fun i hi => ?_, fun i hi ha hg => ?_⟩,
    fun x y hx hy hop hf hw i hi ha hg hq => ?_⟩
  · intro enc
    simp only [List.forall_mem_cons, List.not_mem_nil, false_implies, implies_true, and_true, exec_vfaddX, exec_vfsubX, exec_vfmulX]
    refine ⟨?_, ?_, ?_⟩ <;> exact exactOp_answers ⟨_, rfl, rfl, rfl⟩ hf hp hx hy hop
  · simp only [List.forall_mem_cons, List.not_mem_nil, false_implies, implies_true, and_true, exec_vdwadd, exec_vdwmul]
    have hs : [a, b].mapM (fun g => groupSource s g.toNat (2 * groupFactor s.regs)) = .ok [x, y] := mapM_pair hx hy
    have hfmt : ∀ z ∈ [x, y], z.fmt = f := by simp [hxf, hyf]
    refine ⟨?_, ?_⟩ <;> exact doubleOp_answers (srcs := [x, y]) ⟨_, rfl, rfl, rfl⟩ hf hp hs hfmt hxf
  · subst hi
    rw [exec_vdwnorm]
    have hs : [a].mapM (fun g => groupSource s g.toNat (2 * groupFactor s.regs)) = .ok [x] := mapM_singleton hx
    exact doubleOp_answers (srcs := [x]) ⟨_, rfl, rfl, rfl⟩ hf hp hs (by simp [hxf]) hxf
  · subst hi
    rw [exec_vredsumX]
    exact vredsumX_answers ⟨_, rfl, rfl, rfl⟩ hf hp hx hxf rfl ha hg
  · subst hi
    rw [exec_vwmac]
    intro n half lo hi
    have hall := List.all_eq_true.1 (isInt_of_opFormat hop hf)
    have hu : ∀ j, asInt f x j = x.fmt.int (x.get j) := asInt_of_isInt (hall x.fmt (by simp))
    have hv : ∀ j, asInt f y j = y.fmt.int (y.get j) := asInt_of_isInt (hall y.fmt (by simp))
    have hw4 : f.bytes ≤ 4 := by
      revert hf hw
      cases f <;> decide
    have h := vwmac_answers hx hy (intFormat_of_opFormat hop hf) hw ha hg hq
    simp only [wmacStep_eq hw4, hu, hv] at h
    exact h
end

section
/-! CERTIFICATES. Moves of vector elements (O20): refuted by VINSERT into a group of tag T6, whose elements have six bits (R54), where the
statement has all eight bits of the scalar's low byte written. -/

namespace Sys2Proof
namespace Machine

/-- A hart with VL = 1, tag T6 in v3, and 0xFF in x1. -/
def sixBits : State :=
  let h := loadedHart false
  { State.reset with hart := { h with regs := { h.regs with
      vl := 1, x := h.regs.x.set 1 0xFF, vregs := h.regs.vregs.set 3 ⟨⟨.t6, Array.replicate 64 0⟩, none⟩ } } }

/-- Element 0 of v3 after an answer. -/
def firstOfV3 (r : Result) : Option XWord :=
  match r with
  | .next t => some ((curTile t.regs.vregs[(3 : Fin 32)]).elems.getD 0 0)
  | _ => none

/-- VINSERT v3, x1, x0 writes the six bits of an element. -/
theorem sixBits_written : firstOfV3 (exec (.vinsert false 3 1 0) sixBits) = some (slotWrite 8 1 0 0x3F) := rfl

theorem sixBits_allowed : Allowed sixBits (.vinsert false 3 1 0) := by
  unfold Allowed
  decide

theorem sixBits_goes : GoesOn sixBits (.vinsert false 3 1 0) := .inr ⟨rfl, rfl, by decide⟩

end Machine
end Sys2Proof

open Sys2Proof Sys2Proof.Machine

/-- Refutes O20: VINSERT of 0xFF into an element of tag T6 leaves 0x3F in the element's byte, not 0xFF. -/
theorem not_vectorMoves : ¬ Obligations.VectorMoves := by
  intro h
  obtain ⟨-, -, -, -, -, h⟩ := h sixBits false 3 1 0 true true false false _ _ rfl rfl
  obtain ⟨t, ht, -, -, -, -, -, h⟩ := h _ rfl sixBits_allowed sixBits_goes
  have htakes : RegTakes sixBits t 3 3 .t6 (fun i => if i = 0 then some 0xFF else none) := by
    have h3 := h 3
    dsimp only at h3
    rw [if_pos (by decide)] at h3
    exact h3
  obtain ⟨new, hnew, -, hlow⟩ := htakes
  have hlow : lowBits 1 (new.getD 0 0) = lowBits 1 0xFF := hlow 0 (by decide)
  have hwritten := sixBits_written
  rw [ht, firstOfV3, hnew] at hwritten
  have hslot : new.getD 0 0 = slotWrite 8 1 0 0x3F := Option.some.inj hwritten
  rw [hslot] at hlow
  exact absurd ((slotWrite_low 8 1 0 0x3F).symm.trans hlow) (by decide)
end

section
/-! CERTIFICATES. Conversions and block scales (O25): refuted by VSCALE where VL exceeds the elements of a row, so that a row has more
blocks than elements. SETVL and VSHAPE leave no such state, but no hypothesis excludes one. -/

namespace Sys2Proof
namespace Machine

/-- A hart with VR = 64 rows of one element each and VL = 33, so that the second block of row 0 is element 32 alone. In v1, of tag FP32,
element 32 is 2^-126 and every other element is 1; the predicate in m1 holds of elements 31 to 33, so every other block in which element
32 is active has an active 1. -/
def narrowRows : State :=
  let h := loadedHart false
  { State.reset with hart := { h with regs := { h.regs with
      vl := 33, vr := 64, pfxValid := true, pfxFields := pfxWord 1 false 0 0 0 false 0 false
      masks := h.regs.masks.set 1 ⟨0x380000000, none⟩
      vregs := h.regs.vregs.set 1 ⟨⟨.f32, (Array.replicate 64 0x3F800000).set! 32 0x00800000⟩, none⟩ } } }

/-- Whether an answer leaves UF raised. -/
def raisesUf (r : Result) : Bool :=
  match r with
  | .next t => t.regs.fflags.getLsbD 1
  | _ => false

/-- The scale of element 32 alone lies below the least scale code for INT8. -/
theorem narrowRows_raises : raisesUf (exec (.vscale false 2 1 1 false false) narrowRows) = true := by decide +kernel

theorem narrowRows_allowed : Allowed narrowRows (.vscale false 2 1 1 false false) := by
  unfold Allowed
  decide

theorem narrowRows_goes : GoesOn narrowRows (.vscale false 2 1 1 false false) := .inr ⟨rfl, rfl, by decide⟩

end Machine
end Sys2Proof

open Sys2Proof Sys2Proof.Machine

/-- Refutes O25: of 64 rows of one element, row 0 has a second block, which raises UF though no block that the statement names does. -/
theorem not_vectorConversions : ¬ Obligations.VectorConversions := by
  intro h
  obtain ⟨-, h, -⟩ := h narrowRows false 2 1 0 1 false false false _ rfl
  obtain ⟨t, ht, -, -, h⟩ := h (1, 6) (by decide) rfl rfl (.inl rfl) _ rfl narrowRows_allowed narrowRows_goes
    (fun _ _ hq hreg => by rw [List.mem_singleton.1 hq] at hreg; cases hreg)
  obtain ⟨-, h, -⟩ := h
  obtain ⟨-, h, -⟩ := h (by decide)
  have hraised := narrowRows_raises
  rw [ht] at hraised
  obtain h | ⟨i, ⟨hi, -⟩, h⟩ := (h 1 (by decide)).1 hraised
  · exact absurd h (by decide)
  · have hrow : rowSize narrowRows = 1 := by decide
    have hlt : i < 64 := by
      have hi : i / rowSize narrowRows < 64 := of_decide_eq_true (Bool.and_eq_true_iff.1 hi).1
      rwa [hrow, Nat.div_one] at hi
    refine absurd h ?_
    clear h hi
    revert i
    decide +kernel
end

section
/-! CERTIFICATES. Scans and segmented reductions (O30): the combining functions that their formats give, and the outcomes delivered. -/

namespace Sys2Proof
namespace Machine

/-! ### The combining function that the formats give -/

theorem eq_combineInt_of_combineOf {s : State} {kind : Red} {d : BitVec 5} {p : Pfx} {x : Source} {c : Combine} (h1 : kind ≠ .and)
    (h2 : kind ≠ .or) (hf : x.fmt.isInt = true) (hc : combineOf s kind d p x = .ok c) :
    c = combineInt kind x.fmt c.fmt p.sat x := by
  cases hd : destFormat s true d x.fmt with
  | error err => simp [combineOf, h1, h2, hf, hd, bind, Except.bind] at hc
  | ok dst =>
    obtain rfl := Except.ok.inj ((combineOf_int h1 h2 hf hd).symm.trans hc)
    rfl

theorem eq_combineFloat_of_combineOf {s : State} {kind : Red} {d : BitVec 5} {p : Pfx} {x : Source} {c : Combine} (h1 : kind ≠ .and)
    (h2 : kind ≠ .or) (hf : x.fmt.isFloat = true) (hc : combineOf s kind d p x = .ok c) :
    c = combineFloat kind x.fmt c.fmt x := by
  cases hd : destFormat s true d x.fmt with
  | error err => simp [combineOf, h1, h2, isInt_of_isFloat hf, hf, hd, bind, Except.bind] at hc
  | ok dst =>
    obtain rfl := Except.ok.inj ((combineOf_float h1 h2 hf hd).symm.trans hc)
    rfl

theorem eq_combineBits_of_combineOf {s : State} {kind : Red} {d : BitVec 5} {p : Pfx} {x : Source} {c : Combine}
    (hk : kind = .and ∨ kind = .or) (hf : x.fmt.isInt = true ∨ x.fmt = .bits) (hc : combineOf s kind d p x = .ok c) :
    c = combineBits kind x.fmt c.fmt (8 * fmtWidth s x.fmt) p.sat x := by
  by_cases hb : x.fmt = .bits
  · obtain rfl := Except.ok.inj ((combineOf_bits hk hf (dst := .bits) (by rw [if_pos hb])).symm.trans hc)
    rfl
  · cases hd : destFormat s true d x.fmt with
    | error err =>
      have hbit : (decide (kind = .and) || decide (kind = .or)) = true := by simpa using hk
      simp [combineOf, hbit, hb, hf.resolve_right hb, hd, bind, Except.bind] at hc
    | ok dst =>
      obtain rfl := Except.ok.inj ((combineOf_bits hk hf (by rw [if_neg hb]; exact hd)).symm.trans hc)
      rfl

/-! ### Members that deliver an outcome -/

/-- The answer of a member with one destination group that delivers an outcome. -/
def DeliversOuts (r : Result) (s : State) (k w e : Bool) (d : BitVec 5) (fmt : Fmt) (isTail : Nat → Bool) (ops : List (Bool × BitVec 5))
    (o : Outs) : Prop :=
  ∃ t, r = .next t ∧ AfterMember s t ∧ Consumed s t ops ∧
    Delivered s t k w e d fmt isTail (fun j => o.new.getD j none) (fun b => o.flags.getLsbD b = true)
      (fun j => inSet o.exc j = true) (fun l => gen o.gens l)

/-- A member that consumes its queues and delivers an outcome of one slot for each element of the group. -/
theorem member_delivers_outs {s : State} {i : Instr} {f : Pfx → State → Eff State} {w e : Bool} {d : BitVec 5} {fmt : Fmt}
    {isTail : Nat → Bool} {o : Outs} {ops : List (Bool × BitVec 5)} (ha : Allowed s i) (hg : GoesOn s i) (hq : QueuesReady s ops)
    (hap : CopyApart s w d) (hsize : o.new.size = capacity s)
    (hf : ∀ q, let c := s.setRegs { s.regs with queues := q }
      consume s ops = .ok c → f (pfxOf s.regs) s = .ok (deliverTail c (pfxOf s.regs) w e d fmt isTail o)) :
    DeliversOuts (member i f s) s i.kbit w e d fmt isTail ops o := by
  obtain ⟨q, h1, h2⟩ := consume_setRegs hq
  obtain ⟨t, h3, h4, h5, h6⟩ := member_delivers ha hg rfl rfl (hf q h1)
  exact ⟨t, h3, h4, h2 t h5, deliverTail_delivered rfl hap (fun _ _ => rfl) hsize (fun _ _ => .rfl) (fun _ => .rfl) (fun _ _ => rfl) h6⟩

/-- An outcome keeps its slots along a fold whose steps do. -/
theorem foldl_size {α β : Type} (out : β → Outs) {step : β → α → β} (hs : ∀ b x, (out (step b x)).new.size = (out b).new.size)
    (l : List α) (b : β) : (out (l.foldl step b)).new.size = (out b).new.size := by
  induction l generalizing b with
  | nil => rfl
  | cons x l ih => rw [List.foldl_cons, ih, hs]

theorem put_size (o : Outs) (ek : BitVec 3) (j : Nat) (v : XWord) (f : Flags) (g : BitVec 32) :
    (o.put ek j v f g).new.size = o.new.size := Array.size_setIfInBounds

theorem start_size (s : State) : (Outs.start s).new.size = capacity s := Array.size_replicate

/-! ### Scans (R194) -/

/-- One active element of a scan: what is combined so far takes the element, under the generator of its index. -/
def scanElem (c : Combine) (s : State) (acc : Outs × Int) (j : Nat) : Outs × Int :=
  let v := c.op (0, ⟨modeOf s (pfxOf s.regs), gen acc.1.gens j⟩) acc.2 (c.get j)
  let y := c.out v.2 v.1
  (acc.1.put (pfxOf s.regs).ek j y.1 y.2.1 y.2.2, v.1)

/-- A scan of each row, which starts from its carry. -/
def scanOuts (c : Combine) (s : State) (first : Int) : Outs :=
  (span 0 s.regs.vr).foldl (fun o r =>
    (((span (r * rowSize s) s.regs.vl).filter (predicate s (pfxOf s.regs))).foldl (scanElem c s) (o, first)).1) (Outs.start s)

theorem scanOuts_size (c : Combine) (s : State) (first : Int) : (scanOuts c s first).new.size = capacity s :=
  (foldl_size id (fun o _ => foldl_size Prod.fst (fun _ _ => put_size _ _ _ _ _ _) _ (o, first)) _ _).trans (start_size s)

/-! ### Segmented reductions (R195) -/

/-- One segment: its active elements take the tree over it, which steps the generator of its first index. -/
def segmentOuts (c : Combine) (s : State) (o : Outs) (js : List Nat) : Outs :=
  let p := pfxOf s.regs
  let act := js.filter (predicate s p)
  let y := c.over s p js (gen o.gens (js.headD 0))
  let u := act.foldl (fun (u : Outs) j => u.put p.ek j y.1 y.2.1 (gen u.gens j)) o
  if act = [] then o else { u with gens := setGen u.gens (js.headD 0) y.2.2 }

/-- The segments of a list in order. -/
def segmentsOuts (c : Combine) (s : State) (segs : List (List Nat)) : Outs := segs.foldl (segmentOuts c s) (Outs.start s)

theorem segmentOuts_size (c : Combine) (s : State) (o : Outs) (js : List Nat) : (segmentOuts c s o js).new.size = o.new.size := by
  unfold segmentOuts
  dsimp only
  split
  · rfl
  · exact foldl_size id (fun _ _ => put_size _ _ _ _ _ _) _ _

theorem segmentsOuts_size (c : Combine) (s : State) (segs : List (List Nat)) : (segmentsOuts c s segs).new.size = capacity s :=
  (foldl_size id (fun _ _ => segmentOuts_size _ _ _ _) _ _).trans (start_size s)

/-! ### What they answer -/

section
variable {s : State} {i : Instr} {kind : Red} {d a b : BitVec 5} {e q : Bool} {x : Source} {c : Combine}
  (hu : vecUse (groupFactor s.regs) i = some {
    unit := .reduce, dst := reg true d (groupFactor s.regs), srcs := reg (!q) a (groupFactor s.regs), e := e })
  (hs : source s q a = .ok x) (hc : combineOf s kind d (pfxOf s.regs) x = .ok c)
  (ha : Allowed s i) (hg : GoesOn s i) (hq : QueuesReady s [(q, a)])
include hu hs hc ha hg hq

theorem scan_answers :
    let o := scanOuts c s (if b = 0 then c.zero else c.read (s.x b))
    DeliversOuts (scan i kind d a b e q s) s i.kbit true e d c.fmt (fun j => !inShape s j) [(q, a)] o :=
  member_delivers_outs ha hg hq (copyApart_of ha hu (fun _ => rfl) rfl) (scanOuts_size ..) fun _ hcons => by
    simp only [hs, hc, hcons, bind, Except.bind, pure, Except.pure]
    rfl

theorem segmented_answers :
    let o := segmentsOuts c s ((span 0 s.regs.vr).flatMap (fun r => segments (maskOf s b) (span (r * rowSize s) s.regs.vl)))
    DeliversOuts (segmented i kind d a b e q s) s i.kbit true e d c.fmt (fun j => !inShape s j) [(q, a)] o :=
  member_delivers_outs ha hg hq (copyApart_of ha hu (fun _ => rfl) rfl) (segmentsOuts_size ..) fun _ hcons => by
    simp only [hs, hc, hcons, bind, Except.bind, pure, Except.pure, List.isEmpty_iff]
    rfl

end

end Machine
end Sys2Proof

open Sys2Proof Sys2Proof.Machine

/-- Settles O30: the combining function by the class of its format, and each instruction by the outcome that it delivers. -/
theorem scans : Obligations.Scans := by
  intro s k d a b e q x kind c p rs ans f n hs hc
  refine ⟨fun hk hf => ?_, fun hk hf => ?_, fun hk hf => ?_, fun is g => rfl, ?_, ?_⟩
  · have hand : kind ≠ .and ∧ kind ≠ .or := by rcases hk with rfl | rfl <;> decide
    rw [eq_combineInt_of_combineOf hand.1 hand.2 hf hc]
    refine ⟨?_, fun _ => ite_self _, fun _ => rfl, fun st u v => ?_, fun _ _ => rfl⟩
    · rcases hk with rfl | rfl <;> rfl
    · rcases hk with rfl | rfl <;> rfl
  · have hand : kind ≠ .and ∧ kind ≠ .or := by rcases hk with rfl | rfl <;> decide
    rw [eq_combineFloat_of_combineOf hand.1 hand.2 hf hc]
    refine ⟨?_, fun _ => rfl, fun _ => rfl, fun st u v => ?_, fun _ _ => rfl⟩
    · rcases hk with rfl | rfl <;> rfl
    · rcases hk with rfl | rfl <;> rfl
  · subst hk
    rw [eq_combineBits_of_combineOf (.inl rfl) hf hc]
    exact ⟨rfl, fun _ => rfl, fun _ => rfl, fun _ _ _ => rfl, fun _ _ => rfl⟩
  · intro first one o
    simp only [List.forall_mem_cons, List.not_mem_nil, false_implies, implies_true, and_true]
    refine ⟨?_, ?_, ?_⟩ <;> rintro rfl <;> exact scan_answers rfl hs hc
  · intro segs one
    simp only [List.forall_mem_cons, List.not_mem_nil, false_implies, implies_true, and_true]
    refine ⟨?_, ?_⟩ <;> rintro rfl <;> exact segmented_answers rfl hs hc
end

section
/-! CERTIFICATES. Permutes (O28): refuted by VCOMPRESS where VL exceeds the elements of a row, so that an element of the last row's shape
belongs to a row at or above VR, of which the model compresses none. SETVL and VSHAPE leave no such state, but no hypothesis
excludes one. -/

namespace Sys2Proof
namespace Machine

/-- A hart with VR = 40 rows of one element each and VL = 2, so that element 40 stands in the shape of row 39. Every element of v1, of tag
FP32, is 1, and m1 selects element 40 alone, which is column 0 of row 40. -/
def spilledRow : State :=
  let h := loadedHart false
  { State.reset with hart := { h with regs := { h.regs with
      vl := 2, vr := 40, masks := h.regs.masks.set 1 ⟨2 ^ 40, none⟩
      vregs := h.regs.vregs.set 1 ⟨⟨.f32, Array.replicate 64 0x3F800000⟩, none⟩ } } }

/-- Element n of the tile that an answer leaves for the next member of the convoy. -/
def cvElem (n : Nat) (r : Result) : Option XWord :=
  match r with
  | .next t => t.regs.cv.map (fun z => z.elems.getD n 0)
  | _ => none

/-- VCOMPRESS v2, v1, m1 writes nothing at element 40. -/
theorem spilledRow_compressed : cvElem 40 (exec (.vcompress true 2 1 1 false false) spilledRow) = some 0 := by decide +kernel

theorem spilledRow_allowed : Allowed spilledRow (.vcompress true 2 1 1 false false) := by
  unfold Allowed
  decide

end Machine
end Sys2Proof

open Sys2Proof Sys2Proof.Machine

/-- Refutes O28: the statement has VCOMPRESS write element 40, the one selected of row 40, where VR is 40. -/
theorem not_permutes : ¬ Obligations.Permutes := by
  intro h
  obtain ⟨-, h, -⟩ := h spilledRow true 2 1 1 true false false _
  obtain ⟨t, ht, -, -, -, -, h⟩ := h rfl _ (.tail _ (.tail _ (.tail _ (.head _)))) spilledRow_allowed (.inl rfl)
    (fun _ _ hq hreg => by rw [List.mem_singleton.1 hq] at hreg; cases hreg)
  obtain ⟨z, hz, -, h⟩ := h rfl
  have h40 : z.elems.getD 40 0 = 0x3F800000 := h 40 (by decide)
  have hc := spilledRow_compressed
  rw [ht, cvElem, hz, Option.map_some, h40] at hc
  exact absurd hc (by decide)
end

section
/-! SUPPORT. Accesses of vector elements (R178 to R185): what an element's checks come to, what reads and stores made one after the
other leave, and the places of the active elements. -/

namespace Sys2Proof
namespace Machine

/-! ### Frames of accesses -/

theorem OnlyFound.trans {s t u : State} (h : OnlyFound s t) (g : OnlyFound t u) : OnlyFound s u := by
  obtain ⟨l, hl, hx⟩ := h
  obtain ⟨m, hm, hy⟩ := g
  refine ⟨m ++ l, by rw [hm, hl, List.append_assoc], fun x h => ?_⟩
  rcases List.mem_append.1 h with h | h
  · exact hy x h
  · exact hx x h

theorem TlbFrame.refl (s : State) : TlbFrame s s := ⟨.rfl, Eq.refl _⟩

/-- Nothing changed but what translations leave and the records `out` that joined the strip store buffer. -/
def BufferFrame (out : List StoreRec) (s u : State) : Prop :=
  OnlyFound s u ∧ u = { s with
    tlb := u.tlb, free := u.free, agenda := u.agenda
    hart := { s.hart with regs := { s.hart.regs with storeBuf := s.hart.regs.storeBuf ++ out } } }

theorem BufferFrame.refl (s : State) : BufferFrame [] s s :=
  ⟨.rfl, by rw [List.append_nil]⟩

theorem BufferFrame.trans {s t u : State} {l m : List StoreRec} (h : BufferFrame l s t) (g : BufferFrame m t u) :
    BufferFrame (l ++ m) s u := by
  refine ⟨h.1.trans g.1, g.2.trans ?_⟩
  rw [h.2, ← List.append_assoc]

theorem TlbFrame.buffered {s u : State} (h : TlbFrame s u) : BufferFrame [] s u :=
  ⟨h.1, h.2.trans (by rw [List.append_nil])⟩

theorem BufferFrame.tlb {s u : State} (h : BufferFrame [] s u) : TlbFrame s u :=
  ⟨h.1, h.2.trans (by rw [List.append_nil])⟩

theorem TlbFrame.trans {s t u : State} (h : TlbFrame s t) (g : TlbFrame t u) : TlbFrame s u :=
  (h.buffered.trans g.buffered).tlb

theorem buffer_frame (s : State) (r : StoreRec) : BufferFrame [r] s (s.buffer r) := ⟨.rfl, Eq.refl _⟩

/-! ### The checks of one element (R83, R181, R182) -/

theorem xbits_high {a : XWord} (h : a.toNat < 2 ^ 21) : xbits a 21 43 = 0 := by
  rw [xbits, bitsAt, Nat.div_eq_of_lt h, Nat.zero_mod]

theorem spCheck_ok {s : State} {e : Place} {w : Nat} (h : InSpace s e w) (wr : Bool) (k : Nat) :
    spCheck s wr e.word w w k = .ok e.word.toNat := by
  obtain ⟨h21, hal, -, hh, hr⟩ := h
  have hal' : alignedTo e.word w = true := beq_iff_eq.2 hal
  simp [spCheck, xbits_high h21, hal', hh, hr]

theorem columnCheck_ok {s : State} {e : Place} {w : Nat} (h : InSpace s e w) (wr : Bool) : columnCheck s wr e w = .ok () := by
  unfold columnCheck
  split
  · rfl
  · rename_i c hc
    obtain ⟨hlo, hhi, hal, hrow, hrow'⟩ := h.2.2.1 c hc
    rw [if_neg (not_not.2 (xbits_high h.1)), if_neg (not_not.2 hal), if_neg (by omega),
      if_neg (by rw [show Config.spRows = 32768 from rfl]; omega), spCheck_ok h]
    rfl

/-! ### Elements read one after the other -/

section
variable {sp : Bool} {w : Nat} {bytes : Place → List Byte}

/-- The first of some reads is the read of one element, and the others follow. -/
theorem ReadInTurn.head {s u : State} {e : Place} {es : List Place} (h : ReadInTurn sp w bytes s (e :: es) u) :
    ∃ c, loadElem s sp e w = .ok (bytes e, c) ∧ TlbFrame s c ∧ ReadInTurn sp w bytes c es u := by
  cases sp with
  | true =>
    obtain ⟨hin, hb, hes⟩ : InSpace s e w ∧ bytes e = (span e.word.toNat w).map (seenRow s) ∧ ReadInTurn true w bytes s es u := h
    refine ⟨s, ?_, .refl s, hes⟩
    simp only [loadElem, if_true, columnCheck_ok hin, spLoad, spCheck_ok hin, bind, Except.bind, pure, Except.pure, hb]
    rfl
  | false =>
    obtain ⟨pa, c, ha, hp, hb, hes⟩ : ∃ pa c, access s .read e.word w e.k = .ok (pa, c) ∧
      poisonCheck c .read e.word pa w e.k = .ok () ∧ bytes e = (span pa w).map (seenByte s) ∧
        ReadInTurn false w bytes c es u := h
    have hf := access_frame ha
    refine ⟨c, ?_, hf, hes⟩
    simp only [loadElem, loadBytes, Bool.false_eq_true, if_false, ha, hp, bind, Except.bind, pure, Except.pure, hb,
      hf.seenBytes, seenBytes_eq]

theorem ReadInTurn.frame {s u : State} {es : List Place} (h : ReadInTurn sp w bytes s es u) : TlbFrame s u := by
  induction es generalizing s with
  | nil => rw [show u = s from h]; exact .refl s
  | cons e es ih =>
    obtain ⟨c, -, hc, hes⟩ := h.head
    exact hc.trans (ih hes)

theorem ReadInTurn.split {s u : State} {es fs : List Place} (h : ReadInTurn sp w bytes s (es ++ fs) u) :
    ∃ c, ReadInTurn sp w bytes s es c ∧ ReadInTurn sp w bytes c fs u := by
  induction es generalizing s with
  | nil => exact ⟨s, rfl, h⟩
  | cons e es ih =>
    cases sp with
    | true =>
      obtain ⟨hin, hb, hes⟩ : InSpace s e w ∧ bytes e = _ ∧ ReadInTurn true w bytes s (es ++ fs) u := h
      obtain ⟨c, h1, h2⟩ := ih hes
      exact ⟨c, ⟨hin, hb, h1⟩, h2⟩
    | false =>
      obtain ⟨pa, v, ha, hp, hb, hes⟩ : ∃ pa v, access s .read e.word w e.k = .ok (pa, v) ∧
        poisonCheck v .read e.word pa w e.k = .ok () ∧ bytes e = (span pa w).map (seenByte s) ∧
          ReadInTurn false w bytes v (es ++ fs) u := h
      obtain ⟨c, h1, h2⟩ := ih hes
      exact ⟨c, ⟨pa, v, ha, hp, hb, h1⟩, h2⟩

/-- The bytes of some places read one after the other. -/
theorem ReadInTurn.foldlM {α : Type} {s u : State} (place : α → Place) (js : List α) (bs : List Byte)
    (h : ReadInTurn sp w bytes s (js.map place) u) :
    js.foldlM (fun acc j => do
      let (b, t) ← loadElem acc.2 sp (place j) w
      return (acc.1 ++ b, t)) (bs, s) = Except.ok (ε := Stop) (bs ++ (js.map place).flatMap bytes, u) := by
  induction js generalizing s bs with
  | nil => rw [show u = s from h, List.map_nil, List.flatMap_nil, List.append_nil]; rfl
  | cons j js ih =>
    obtain ⟨c, hc, -, hes⟩ := h.head
    rw [List.foldlM_cons]
    simp only [hc, bind, Except.bind, pure, Except.pure, List.map_cons, List.flatMap_cons, ← List.append_assoc]
    exact ih _ hes

end

/-! ### Elements stored one after the other -/

/-- The first of some stores is the store of one element, and the others follow. -/
theorem StoredInTurn.head {sp : Bool} {s u : State} {e : Place × List Byte} {es : List (Place × List Byte)} {out : List StoreRec}
    (h : StoredInTurn sp s (e :: es) out u) :
    ∃ c r rest, storeElem s sp e.1 e.2 = .ok c ∧ BufferFrame [r] s c ∧ out = r :: rest ∧ StoredInTurn sp c es rest u := by
  cases sp with
  | true =>
    obtain ⟨hin, rest, ho, hes⟩ : InSpace s e.1 e.2.length ∧ ∃ rest, out = ⟨true, e.1.word.toNat, e.2, e.1.word⟩ :: rest ∧
      StoredInTurn true (s.buffer ⟨true, e.1.word.toNat, e.2, e.1.word⟩) es rest u := h
    refine ⟨_, _, rest, ?_, buffer_frame _ _, ho, hes⟩
    simp only [storeElem, if_true, columnCheck_ok hin, spStore, spCheck_ok hin, bind, Except.bind, pure, Except.pure]
  | false =>
    obtain ⟨pa, c, ha, rest, ho, hes⟩ : ∃ pa c, access s .write e.1.word e.2.length e.1.k = .ok (pa, c) ∧
      ∃ rest, out = ⟨false, pa, e.2, e.1.word⟩ :: rest ∧ StoredInTurn false (c.buffer ⟨false, pa, e.2, e.1.word⟩) es rest u := h
    refine ⟨_, _, rest, ?_, (access_frame ha).buffered.trans (buffer_frame _ _), ho, hes⟩
    simp only [storeElem, storeBytes, Bool.false_eq_true, if_false, ha, bind, Except.bind, pure, Except.pure]

theorem StoredInTurn.frame {sp : Bool} {s u : State} {es : List (Place × List Byte)} {out : List StoreRec}
    (h : StoredInTurn sp s es out u) : BufferFrame out s u := by
  induction es generalizing s out with
  | nil =>
    obtain ⟨rfl, rfl⟩ : out = [] ∧ u = s := h
    exact .refl _
  | cons e es ih =>
    obtain ⟨c, r, rest, -, hc, rfl, hes⟩ := h.head
    exact hc.trans (ih hes)

/-- The stores of some elements are a fold of the store of one. -/
theorem StoredInTurn.foldlM {sp : Bool} {s u : State} {es : List (Place × List Byte)} {out : List StoreRec}
    (h : StoredInTurn sp s es out u) : es.foldlM (fun t e => storeElem t sp e.1 e.2) s = .ok u := by
  induction es generalizing s out with
  | nil => rw [show u = s from h.2]; rfl
  | cons e es ih =>
    obtain ⟨c, r, rest, hc, -, -, hes⟩ := h.head
    rw [List.foldlM_cons, hc]
    exact ih hes

/-! ### The end of a member that reads or stores memory -/

/-- Only what a member that reads or stores memory may change has changed: its effect before the convoy goes on. -/
def AccessFrame (s v : State) : Prop :=
  OnlyFound s v ∧ v = { s with
    tlb := v.tlb, free := v.free, agenda := v.agenda
    hart := { s.hart with regs := { s.hart.regs with
      pfxValid := false, vregs := v.hart.regs.vregs, queues := v.hart.regs.queues, storeBuf := v.hart.regs.storeBuf
      cv := v.hart.regs.cv } } }

theorem AccessFrame.inStrip {s v : State} (h : AccessFrame s v) (hb : v.regs.storeBuf = s.regs.storeBuf) (hs : InStrip s) :
    InStrip v :=
  hs.of (by rw [h.2]) (by rw [h.2]) hb

theorem member_accesses {s v : State} {i : Instr} {f : Pfx → State → Eff State} (ha : Allowed s i)
    (hf : f (pfxOf s.regs) s = .ok v) (hv : AccessFrame s v) (hg : i.kbit = true ∨ InStrip v) :
    ∃ t, member i f s = .next t ∧ AfterAccess s t ∧ t.regs.storeBuf = v.regs.storeBuf ∧ t.regs.vregs = v.regs.vregs ∧
      t.regs.queues = v.regs.queues ∧ (i.kbit = true → t.regs.cv = v.regs.cv) := by
  obtain ⟨t, h1, h2, h3, h4⟩ := member_next ha hf hg
  have hregs : t.regs = { s.regs with
      pc := s.regs.pc + 4, pfxValid := false, pend := none, vregs := t.regs.vregs, queues := t.regs.queues
      storeBuf := t.regs.storeBuf, cv := t.regs.cv, chain := t.regs.chain, first := t.regs.first, member := t.regs.member } := by
    rw [h2, hv.2]
    rfl
  refine ⟨t, h1, ⟨hregs, fun a => ?_, ?_, ?_⟩, by rw [h2], by rw [h2], by rw [h2], fun h => (h3 h).1⟩
  · rw [h4, hv.2]
  · rw [OnlyFound, h4]; exact hv.1
  · rw [h4, hv.2]

/-- No prefix names a copy of what a load writes (R115): a member of the memory majors allows its predicate alone. -/
theorem noCopy_of_memory {s : State} {i : Instr} {u : VecUse} (ha : Allowed s i) (hu : vecUse (groupFactor s.regs) i = some u)
    (hm : u.memory = true) : (pfxOf s.regs).dce = false := by
  by_contra hd
  have hd : (pfxOf s.regs).dce = true := by simpa using hd
  have hb := pfxBad_of_allowed ha hu
  simp [pfxBad, pfxOf_present hd, hm, hd, -State.regs_eq] at hb

/-! ### The places of the active elements (R180) -/

theorem placeOf_i (s : State) (form : VForm) (col packed : Bool) (a p : Int) (w : Nat) (ix : Int) (i : Nat) :
    (placeOf s form col packed a p w ix i).i = i := by
  unfold placeOf
  cases packed
  · cases col <;> rfl
  · rfl

/-- Only the indexed form reads an index. -/
theorem placeOf_ix {form : VForm} (h : form ≠ .indexed) (s : State) (col packed : Bool) (a p : Int) (w : Nat) (ix ix' : Int) (i : Nat) :
    placeOf s form col packed a p w ix i = placeOf s form col packed a p w ix' i := by
  cases form with
  | indexed => exact absurd rfl h
  | unit => rfl
  | strided => rfl
  | block => rfl

/-- The unit form has no stride. -/
theorem placeOf_unit (s : State) (col packed : Bool) (a p p' : Int) (w : Nat) (ix : Int) (i : Nat) :
    placeOf s .unit col packed a p w ix i = placeOf s .unit col packed a p' w ix i := rfl

/-- The position of the element at linear index j under the registers of an instruction. -/
def placeAt (s : State) (form : VForm) (f : Fmt) (o : Bool) (a b : BitVec 5) (ix : Nat → Int) (j : Nat) : Place :=
  placeOf s form o (f == .t6) (s.x a).toNat (s.x b).toInt (fmtWidth s f) (ix j) j

theorem placeAt_i (s : State) (form : VForm) (f : Fmt) (o : Bool) (a b : BitVec 5) (ix : Nat → Int) (j : Nat) :
    (placeAt s form f o a b ix j).i = j := placeOf_i ..

/-- The indices of an indexed access are the elements of a group of one of the tags that R180 allows. -/
def IndexedBy (s : State) (form : VForm) (b : BitVec 5) (ix : Nat → Int) : Prop :=
  form = .indexed → ∃ x, groupSource s b.toNat (groupFactor s.regs) = .ok x ∧ x.fmt ∈ [Fmt.i16, .u16, .i32, .u32, .i64] ∧
    ix = fun j => x.fmt.int (x.get j)

theorem indexTag_iff (f : Fmt) : indexTag f = true ↔ f ∈ [Fmt.i16, .u16, .i32, .u32, .i64] := by cases f <;> decide

theorem placesOf_ok {s : State} {p : Pfx} {form : VForm} {f : Fmt} {o : Bool} {a b : BitVec 5} {ix : Nat → Int}
    (h : IndexedBy s form b ix) : placesOf s p form f o a b = .ok ((activeIndices s p).map (placeAt s form f o a b ix)) := by
  by_cases hform : form = .indexed
  · obtain ⟨x, hx, hf, rfl⟩ := h hform
    simp only [placesOf, hform, if_true, hx, (indexTag_iff _).2 hf, illegalWhen, Bool.not_true, Bool.false_eq_true, if_false, bind,
      Except.bind, pure, Except.pure]
    rfl
  · simp only [placesOf, hform, if_false, bind, Except.bind, pure, Except.pure]
    exact congrArg Except.ok (List.map_congr_left fun j _ => placeOf_ix hform ..)

theorem placesOf_unit (s : State) (p : Pfx) (f : Fmt) (o : Bool) (a b b' : BitVec 5) :
    placesOf s p .unit f o a b = placesOf s p .unit f o a b' :=
  congrArg Except.ok (List.map_congr_left fun _ _ => placeOf_unit ..)

/-- The uses of a tag that R182 allows. -/
theorem tagRefused_eq {f : Fmt} {form : VForm} {o : Bool}
    (h : form = .strided ∨ form = .indexed → f ≠ .t6 ∧ (o = true → f ≠ .t8 ∧ f ≠ .e8)) (h6 : o = true → f ≠ .t6) :
    tagRefused f form o = false := by
  have hcol : ¬(f = .t6 ∧ o = true) := fun hf => h6 hf.2 hf.1
  by_cases hform : form = .strided ∨ form = .indexed
  · obtain ⟨h1, h2⟩ := h hform
    cases o with
    | false => simp [tagRefused, h1]
    | true => simp [tagRefused, narrowTag, h1, h2 rfl]
  · obtain ⟨hs, hi⟩ := not_or.1 hform
    simpa [tagRefused, hs, hi] using hcol

end Machine
end Sys2Proof
end

section
/-! CERTIFICATES. Vector loads (O26): the values read, and what a group or a queue takes of them. -/

namespace Sys2Proof
namespace Machine

/-! ### What is read (R181, R183) -/

/-- The tag under which a load reads: the queue's, or the destination group's (R178). -/
def loadTag (s : State) (q : Bool) (d : BitVec 5) : Fmt := if q then s.regs.qtags.toList.getD d.toNat .bits else destTag s d

/-- The reads of one element: of its bytes at once, or of the bytes of its packed unit one by one (R183). -/
def readsOf (tag : Fmt) (e : Place) : List Place :=
  if tag = .t6 then (span 0 3).map (fun j => { e with addr := e.addr + (j : Nat) }) else [e]

/-- The element that these bytes hold. -/
def readValue (tag : Fmt) (bytes : Place → List Byte) (e : Place) : XWord :=
  if tag = .t6 then xword (bitsAt (leNat ((readsOf tag e).flatMap bytes)) (6 * e.slot) 6) else xword (leNat (bytes e))

/-- One element read into its slot, as `vectorLoad` has it. -/
def loadStep (tag : Fmt) (sp : Bool) (w : Nat) (acc : Array (Option XWord) × State) (e : Place) :
    Eff (Array (Option XWord) × State) := do
  if tag = .t6 then
    let (bs, t) ← loadUnit acc.2 sp e
    return (acc.1.setIfInBounds e.i (some (xword (bitsAt (leNat bs) (6 * e.slot) 6))), t)
  else
    let (bs, t) ← loadElem acc.2 sp e w
    return (acc.1.setIfInBounds e.i (some (xword (leNat bs))), t)

theorem loadUnit_ok {sp : Bool} {bytes : Place → List Byte} {s u : State} {e : Place}
    (h : ReadInTurn sp 1 bytes s (readsOf .t6 e) u) : loadUnit s sp e = .ok ((readsOf .t6 e).flatMap bytes, u) :=
  ReadInTurn.foldlM (fun j => { e with addr := e.addr + (j : Nat) }) (span 0 3) [] h

theorem loadStep_ok {tag : Fmt} {sp : Bool} {w : Nat} {bytes : Place → List Byte} {acc : Array (Option XWord) × State} {e : Place}
    {c : State} (h : ReadInTurn sp (if tag = .t6 then 1 else w) bytes acc.2 (readsOf tag e) c) :
    loadStep tag sp w acc e = .ok (acc.1.setIfInBounds e.i (some (readValue tag bytes e)), c) := by
  by_cases h6 : tag = .t6
  · subst h6
    simp only [loadStep, readValue, if_true, loadUnit_ok h, bind, Except.bind, pure, Except.pure]
  · rw [if_neg h6, readsOf, if_neg h6] at h
    obtain ⟨v, hv, -, rfl⟩ := h.head
    simp only [loadStep, readValue, h6, if_false, hv, bind, Except.bind, pure, Except.pure]

/-- The slots of a group once the elements at some places are read, each in the slot of its index. -/
def slotsRead (tag : Fmt) (bytes : Place → List Byte) (es : List Place) (new : Array (Option XWord)) : Array (Option XWord) :=
  es.foldl (fun a e => a.setIfInBounds e.i (some (readValue tag bytes e))) new

theorem loadSteps_ok {tag : Fmt} {sp : Bool} {w : Nat} {bytes : Place → List Byte} {s u : State} (es : List Place)
    (new : Array (Option XWord)) (h : ReadInTurn sp (if tag = .t6 then 1 else w) bytes s (es.flatMap (readsOf tag)) u) :
    es.foldlM (loadStep tag sp w) (new, s) = .ok (slotsRead tag bytes es new, u) := by
  induction es generalizing s new with
  | nil => rw [show u = s from h]; rfl
  | cons e es ih =>
    obtain ⟨c, h1, h2⟩ := ReadInTurn.split h
    rw [List.foldlM_cons, loadStep_ok h1]
    exact ih _ h2

theorem slotsRead_size (tag : Fmt) (bytes : Place → List Byte) (es : List Place) (new : Array (Option XWord)) :
    (slotsRead tag bytes es new).size = new.size := by
  induction es generalizing new with
  | nil => rfl
  | cons e es ih => exact (ih _).trans Array.size_setIfInBounds

/-- A slot holds the element of its index where that was read, and what it held elsewhere. -/
theorem slotsRead_getD {place : Nat → Place} (hi : ∀ j, (place j).i = j) (tag : Fmt) (bytes : Place → List Byte) (js : List Nat)
    (new : Array (Option XWord)) {m : Nat} (hm : m < new.size) :
    (slotsRead tag bytes (js.map place) new).getD m none =
      if m ∈ js then some (readValue tag bytes (place m)) else new.getD m none := by
  induction js generalizing new with
  | nil => rfl
  | cons j js ih =>
    refine (ih (new.setIfInBounds (place j).i (some (readValue tag bytes (place j)))) (by rwa [Array.size_setIfInBounds])).trans ?_
    rw [hi]
    by_cases hjs : m ∈ js
    · rw [if_pos hjs, if_pos (.tail _ hjs)]
    · rw [if_neg hjs]
      by_cases hj : j = m
      · subst hj
        simp [Array.getD_eq_getD_getElem?, hm]
      · simp [Array.getD_eq_getD_getElem?, hjs, hj, Ne.symm hj]

theorem blank_size (s : State) : (blank s).size = capacity s := Array.size_replicate

theorem blank_getD {s : State} {m : Nat} (hm : m < capacity s) : (blank s).getD m none = none := by
  simp [blank, Array.getD_eq_getD_getElem?, hm]

/-! ### What a load delivers (R178) -/

/-- A register's new twin under the tag that the register had (R178). -/
def retag (old new : VReg) : VReg := { new with twin := new.twin.map (fun z => { z with tag := (curTile old).tag }) }

/-- A register keeps its tag where nothing of it is written. -/
theorem retag_self (v : VReg) : retag v v = v := by
  obtain ⟨com, twin⟩ := v
  cases twin <;> rfl

/-- A load's results delivered, from the state `u` that its reads leave: as `vectorLoad` has it. -/
def deliverLoad (s u : State) (p : Pfx) (q : Bool) (d : BitVec 5) (tag : Fmt) (new : Array (Option XWord)) : State :=
  let x := deliverElems u p (!q) false d tag { new := new, flags := 0, exc := 0, gens := s.regs.gens }
  if s.regs.vl = 0 then x
  else if q then
    let tile : Tile := { tag := tag, elems := new.map (fun v => v.getD 0) }
    x.setRegs { x.regs with
      queues := Vector.ofFn (fun j : Fin 4 => if j.val = d.toNat then x.regs.queues[j] ++ [tile] else x.regs.queues[j]) }
  else
    x.setRegs { x.regs with
      vregs := Vector.ofFn (fun j : Fin 32 => retag s.regs.vregs[j] x.regs.vregs[j]) }

/-- What a load leaves in the queues, the vector registers and `cv` of t: `val` has its elements. -/
def TakesLoad (s t : State) (k q : Bool) (d : BitVec 5) (tag : Fmt) (val : Nat → Option XWord) : Prop :=
  (∀ j : Fin 4, if q = true ∧ s.regs.vl ≠ 0 ∧ j.val = d.toNat then
    ∃ z, t.regs.queues[j] = s.regs.queues[j] ++ [z] ∧ z.tag = tag ∧ ∀ m, m < capacity s → z.elems.getD m 0 = (val m).getD 0
    else t.regs.queues[j] = s.regs.queues[j]) ∧
  (∀ j : Fin 32, if q = false ∧ s.regs.vl ≠ 0 ∧ d.toNat ≤ j.val ∧ j.val < d.toNat + groupFactor s.regs then
    ∃ c, RegTakes s c j d.toNat tag (tailed s (fun m => !inShape s m) val) ∧
      t.regs.vregs[j] = ⟨c.regs.vregs[j].com, c.regs.vregs[j].twin.map (fun z => ⟨(curTile s.regs.vregs[j]).tag, z.elems⟩)⟩
    else t.regs.vregs[j] = s.regs.vregs[j]) ∧
  (k = true → ∃ z, t.regs.cv = some z ∧ z.tag = tag ∧
    ∀ m, m < capacity s → z.elems.getD m 0 = if s.regs.vl = 0 then 0 else (val m).getD 0)

theorem TakesLoad.congr {s v t : State} {k q : Bool} {d : BitVec 5} {tag : Fmt} {val : Nat → Option XWord}
    (h : TakesLoad s v true q d tag val) (hq : t.regs.queues = v.regs.queues) (hv : t.regs.vregs = v.regs.vregs)
    (hc : k = true → t.regs.cv = v.regs.cv) : TakesLoad s t k q d tag val := by
  obtain ⟨h1, h2, h3⟩ := h
  refine ⟨?_, ?_, fun hk => ?_⟩
  · rw [hq]; exact h1
  · rw [hv]; exact h2
  · rw [hc hk]; exact h3 rfl

/-- What a load leaves before the convoy goes on: the store buffer is as it was. -/
def LoadEffect (s v : State) (q : Bool) (d : BitVec 5) (tag : Fmt) (val : Nat → Option XWord) : Prop :=
  AccessFrame s v ∧ v.regs.storeBuf = s.regs.storeBuf ∧ TakesLoad s v true q d tag val

/-- An outcome that raises nothing and steps no generator leaves nothing to account for. -/
theorem account_none (s : State) (p : Pfx) (new : Array (Option XWord)) (exc : Nat) :
    s.account p false { new := new, flags := 0, exc := exc, gens := s.regs.gens } = s := by
  have hf : accrue s.regs.fflags 0 = s.regs.fflags := BitVec.or_zero
  simp only [State.account, hf, Bool.false_eq_true, if_false]
  rfl

section
variable {s u : State} {q : Bool} {d : BitVec 5} {tag : Fmt} {new : Array (Option XWord)}
  (hu : TlbFrame s u)
include hu

theorem deliverLoad_zero (hv : s.regs.vl = 0) :
    deliverLoad s u (pfxOf s.regs) q d tag new = u.setRegs { s.regs with
      pfxValid := false, cv := some { tag := tag, elems := new.map (fun _ => 0) } } := by
  have hh : u.regs = s.regs := congrArg Hart.regs hu.hart
  rw [deliverLoad, if_pos hv, deliverElems, deliverTail_zero (by rw [hh]; exact hv), ← hh]
  rfl

/-- The registers of the destination group before they take their tags back. -/
theorem deliverElems_load (hn : (pfxOf s.regs).dce = false) (hv : s.regs.vl ≠ 0) :
    ∃ v, deliverElems u (pfxOf s.regs) (!q) false d tag { new := new, flags := 0, exc := 0, gens := s.regs.gens } =
        u.setRegs { s.regs with pfxValid := false, vregs := v, cv := some { tag := tag, elems := new.map (fun v => v.getD 0) } } ∧
      ∀ j : Fin 32, v[j] = if q = false ∧ d.toNat ≤ j.val ∧ j.val < d.toNat + groupFactor s.regs then
          written s d.toNat tag (withTail s (fun m => !inShape s m) new) j
        else s.regs.vregs[j] := by
  have hh : u.regs = s.regs := congrArg Hart.regs hu.hart
  have htail : (fun i => !inShape u i) = fun m => !inShape s m := by rw [hu.2]; rfl
  have hwith : withTail u.spendPfx = withTail s := by rw [hu.2]; rfl
  obtain ⟨v, c, hshape⟩ := deliver_shape u.spendPfx (pfxOf s.regs) (!q) d.toNat (groupFactor s.regs) tag
    (withTail s (fun m => !inShape s m) new)
  refine ⟨v, ?_, fun j => ?_⟩
  · rw [deliverElems, deliverTail_pos (by rw [hh]; exact hv), htail, hh, show s.regs.gens = u.spendPfx.regs.gens by rw [← hh]; rfl]
    dsimp only
    rw [account_none, hwith, hshape, ← hh]
    rfl
  · have hj := deliver_vreg (s := s) (c := u.spendPfx) (p := pfxOf s.regs) (w := !q) (d := d.toNat) (n := groupFactor s.regs)
      (fmt := tag) (new := withTail s (fun m => !inShape s m) new)
      (by rw [hu.2]; exact ⟨rfl, rfl, rfl⟩) (fun _ h => by rw [hn] at h; cases h) j
    rw [hshape, hn] at hj
    by_cases hin : q = false ∧ d.toNat ≤ j.val ∧ j.val < d.toNat + groupFactor s.regs
    · rw [if_pos ⟨by rw [hin.1]; rfl, hin.2⟩] at hj
      rw [if_pos hin]
      exact hj
    · rw [if_neg (fun h => hin ⟨by simpa using h.1, h.2⟩), if_neg (fun h => Bool.false_ne_true h.2.1)] at hj
      rw [if_neg hin]
      exact hj

end

theorem tailed_congr {s : State} {isTail : Nat → Bool} {f g : Nat → Option XWord} (h : ∀ m, m < capacity s → f m = g m) (m : Nat) :
    tailed s isTail f m = tailed s isTail g m := by
  unfold tailed
  by_cases hm : m < capacity s
  · simp only [if_pos hm, h m hm]
  · simp only [if_neg hm]

section
variable {s u : State} {d : BitVec 5} {tag : Fmt} {new : Array (Option XWord)} {val : Nat → Option XWord}
  (hu : TlbFrame s u) (hsize : new.size = capacity s) (hval : ∀ m, m < capacity s → new.getD m none = val m)
include hu hsize

/-- With VL = 0 a load changes no queue and no register, and its tile holds zeros (R21). -/
theorem deliverLoad_zero_takes (q : Bool) (hv : s.regs.vl = 0) :
    LoadEffect s (deliverLoad s u (pfxOf s.regs) q d tag new) q d tag val := by
  rw [deliverLoad_zero hu hv]
  refine ⟨⟨hu.1, by rw [hu.2]; rfl⟩, rfl, fun j => ?_, fun j => ?_, fun _ => ⟨_, rfl, rfl, fun m hm => ?_⟩⟩
  · rw [if_neg (fun h => h.2.1 hv)]; rfl
  · rw [if_neg (fun h => h.2.1 hv)]; rfl
  · rw [if_pos hv]
    simp [Array.getD_eq_getD_getElem?, hsize, hm]

include hval

omit hu in
theorem tile_getD {m : Nat} (hm : m < capacity s) : (new.map (fun v => v.getD 0)).getD m 0 = (val m).getD 0 := by
  rw [← hval m hm]
  simp [Array.getD_eq_getD_getElem?, hsize, hm]

variable (hn : (pfxOf s.regs).dce = false) (hv : s.regs.vl ≠ 0)
include hn hv

/-- A load into a queue puts its tile at the queue's end. -/
theorem deliverLoad_queue_takes :
    LoadEffect s (deliverLoad s u (pfxOf s.regs) true d tag new) true d tag val := by
  obtain ⟨v, hx, hj⟩ := deliverElems_load hu hn hv (q := true) (d := d) (tag := tag) (new := new)
  rw [deliverLoad, if_neg hv, hx]
  refine ⟨⟨hu.1, by rw [hu.2]; rfl⟩, rfl, fun j => ?_, fun j => ?_, fun _ => ⟨_, rfl, rfl, fun m hm => ?_⟩⟩
  · have hqueue : (Vector.ofFn fun i : Fin 4 => if i.val = d.toNat then s.regs.queues[i] ++
        [({ tag := tag, elems := new.map (fun v => v.getD 0) } : Tile)] else s.regs.queues[i])[j] = _ := Vector.getElem_ofFn _
    by_cases hd : j.val = d.toNat
    · rw [if_pos ⟨rfl, hv, hd⟩]
      exact ⟨_, hqueue.trans (if_pos hd), rfl, fun _ => tile_getD hsize hval⟩
    · rw [if_neg (fun h => hd h.2.2)]
      exact hqueue.trans (if_neg hd)
  · rw [if_neg (fun h => Bool.noConfusion h.1)]
    exact (hj j).trans (if_neg (fun h => Bool.noConfusion h.1))
  · rw [if_neg hv]
    exact tile_getD hsize hval hm

/-- A load into a group writes its elements, and every register keeps its tag. -/
theorem deliverLoad_group_takes :
    LoadEffect s (deliverLoad s u (pfxOf s.regs) false d tag new) false d tag val := by
  obtain ⟨v, hx, hj⟩ := deliverElems_load hu hn hv (q := false) (d := d) (tag := tag) (new := new)
  rw [deliverLoad, if_neg hv, hx]
  refine ⟨⟨hu.1, by rw [hu.2]; rfl⟩, rfl, fun j => ?_, fun j => ?_, fun _ => ⟨_, rfl, rfl, fun m hm => ?_⟩⟩
  · rw [if_neg (fun h => Bool.noConfusion h.1)]
    rfl
  · have hreg : (Vector.ofFn fun i : Fin 32 => retag s.regs.vregs[i] v[i])[j] = retag s.regs.vregs[j] v[j] := Vector.getElem_ofFn _
    by_cases hin : d.toNat ≤ j.val ∧ j.val < d.toNat + groupFactor s.regs
    · rw [if_pos ⟨rfl, hv, hin⟩]
      have htailed : ∀ m, (withTail s (fun m => !inShape s m) new).getD m none = tailed s (fun m => !inShape s m) val m := fun m =>
        (withTail_getD s _ new hsize m).trans (tailed_congr hval m)
      exact ⟨u.setRegs { s.regs with vregs := v }, regTakes_of htailed ((hj j).trans (if_pos ⟨rfl, hin⟩)), hreg⟩
    · have hvj : v[j] = s.regs.vregs[j] := (hj j).trans (if_neg (fun h => hin h.2))
      rw [if_neg (fun h => hin h.2.2)]
      exact hreg.trans ((congrArg _ hvj).trans (retag_self _))
  · rw [if_neg hv]
    exact tile_getD hsize hval hm

end

theorem deliverLoad_takes {s u : State} {q : Bool} {d : BitVec 5} {tag : Fmt} {new : Array (Option XWord)} {val : Nat → Option XWord}
    (hu : TlbFrame s u) (hsize : new.size = capacity s) (hval : ∀ m, m < capacity s → new.getD m none = val m)
    (hn : (pfxOf s.regs).dce = false) :
    LoadEffect s (deliverLoad s u (pfxOf s.regs) q d tag new) q d tag val := by
  by_cases hv : s.regs.vl = 0
  · exact deliverLoad_zero_takes hu hsize q hv
  · cases q with
    | true => exact deliverLoad_queue_takes hu hsize hval hn hv
    | false => exact deliverLoad_group_takes hu hsize hval hn hv

/-- The effect of a load, as `vectorLoad` has it. -/
def loadBody (form : VForm) (d a b : BitVec 5) (sp o q : Bool) (p : Pfx) (s : State) : Eff State := do
  let tag := loadTag s q d
  illegalWhen s (tagRefused tag form o)
  let places ← placesOf s p form tag o a b
  if q && s.regs.vl != 0 && decide (Config.queueDepth ≤ (s.regs.queues.toList.getD d.toNat []).length) then
    qleft s 1 d.toNat
  let (new, t) ← places.foldlM (loadStep tag sp (fmtWidth s tag)) (blank s, s)
  return deliverLoad s t p q d tag new

theorem vectorLoad_eq (i : Instr) (form : VForm) (d a b : BitVec 5) (sp o q : Bool) (s : State) :
    vectorLoad i form d a b sp o q s = member i (loadBody form d a b sp o q) s := by
  unfold vectorLoad loadBody deliverLoad
  simp only [apply_ite (pure (f := Eff))]
  rfl

section
variable {s u : State} {form : VForm} {d a b : BitVec 5} {sp o q : Bool} {ix : Nat → Int} {bytes : Place → List Byte}
  (hi : IndexedBy s form b ix) (ht : tagRefused (loadTag s q d) form o = false)
  (hq : q = true → (s.regs.queues.toList.getD d.toNat []).length < 4)
  (hr : let tag := loadTag s q d
    ReadInTurn sp (if tag = .t6 then 1 else fmtWidth s tag) bytes s
      (((activeIndices s (pfxOf s.regs)).map (placeAt s form tag o a b ix)).flatMap (readsOf tag)) u)
include hi ht hq hr

/-- The body of a load whose checks pass and whose reads are made. -/
theorem loadBody_ok :
    let tag := loadTag s q d
    loadBody form d a b sp o q (pfxOf s.regs) s = .ok (deliverLoad s u (pfxOf s.regs) q d tag
      (slotsRead tag bytes ((activeIndices s (pfxOf s.regs)).map (placeAt s form tag o a b ix)) (blank s))) := by
  intro tag
  have hroom : (q && s.regs.vl != 0 && decide (Config.queueDepth ≤ (s.regs.queues.toList.getD d.toNat []).length)) = false := by
    cases q with
    | false => rfl
    | true =>
      have hlen : ¬Config.queueDepth ≤ _ := Nat.not_le.2 (hq rfl)
      rw [decide_eq_false hlen, Bool.and_false]
  simp only [loadBody, illegalWhen, tag, ht, placesOf_ok hi, hroom, loadSteps_ok _ _ hr, Bool.false_eq_true, if_false, bind,
    Except.bind, pure, Except.pure]

theorem vectorLoad_answers {i : Instr} {use : VecUse} (hu : vecUse (groupFactor s.regs) i = some use) (hm : use.memory = true)
    (ha : Allowed s i) (hg : GoesOn s i) :
    let tag := loadTag s q d
    ∃ t, vectorLoad i form d a b sp o q s = .next t ∧ AfterAccess s t ∧ t.regs.storeBuf = s.regs.storeBuf ∧
      TakesLoad s t i.kbit q d tag (fun j => if j ∈ activeIndices s (pfxOf s.regs) then
        some (readValue tag bytes (placeAt s form tag o a b ix j)) else none) := by
  intro tag
  have hval : ∀ m, m < capacity s →
      (slotsRead tag bytes ((activeIndices s (pfxOf s.regs)).map (placeAt s form tag o a b ix)) (blank s)).getD m none =
        if m ∈ activeIndices s (pfxOf s.regs) then some (readValue tag bytes (placeAt s form tag o a b ix m)) else none := fun m hm => by
    rw [slotsRead_getD (placeAt_i s form tag o a b ix) _ _ _ _ (by rwa [blank_size]), blank_getD hm]
  obtain ⟨hv, hb, htakes⟩ := deliverLoad_takes (q := q) (d := d) (tag := tag) hr.frame ((slotsRead_size ..).trans (blank_size s)) hval
    (noCopy_of_memory ha hu hm)
  obtain ⟨t, h1, h2, h3, h4, h5, h6⟩ := member_accesses ha (loadBody_ok hi ht hq hr) hv (hg.imp id (hv.inStrip hb))
  exact ⟨t, (vectorLoad_eq ..).trans h1, h2, h3.trans hb, htakes.congr h5 h4 h6⟩

end

/-- A load of the unit form has no stride. -/
theorem vectorLoad_unit (i : Instr) (d a b b' : BitVec 5) (sp o q : Bool) (s : State) :
    vectorLoad i .unit d a b sp o q s = vectorLoad i .unit d a b' sp o q s := by
  have h : loadBody .unit d a b sp o q = loadBody .unit d a b' sp o q := by
    funext p s
    simp only [loadBody]
    rw [placesOf_unit s p _ o a b b']
  rw [vectorLoad_eq, vectorLoad_eq, h]

end Machine
end Sys2Proof

open Sys2Proof Sys2Proof.Machine

/-- Settles O26: the reads of `ReadInTurn` are the loads of the elements, and what they give is delivered as one tile. -/
theorem vectorLoads : Obligations.VectorLoads := by
  intro s u k d a b sp o q ix bytes p n tag w six pieces value
  refine List.forall_mem_cons.2 ⟨?unit, List.forall_mem_cons.2 ⟨?strided, List.forall_mem_cons.2 ⟨?indexed,
    List.forall_mem_singleton.2 ?block⟩⟩⟩
  all_goals intro place val hix htag hcol hq ha hg hr
  case unit =>
    rw [exec_vld, execVld, vectorLoad_unit _ _ _ 0 b]
    exact vectorLoad_answers hix (tagRefused_eq htag hcol) (fun h => (hq h).2) hr rfl rfl ha hg
  all_goals exact vectorLoad_answers hix (tagRefused_eq htag hcol) (fun h => (hq h).2) hr rfl rfl ha hg
end

section
/-! CERTIFICATES. Vector stores and VCOMMITM (O27): the elements put into the strip store buffer. -/

namespace Sys2Proof
namespace Machine

/-! ### Members that only store (R184) -/

/-- What a member without a destination leaves, from the state `c` that has consumed its queues. -/
theorem accessFrame_spent {s c u : State} {q : Vector (List Tile) 4} {out : List StoreRec}
    (hc : c = s.setRegs { s.regs with queues := q }) (hu : BufferFrame out c u) :
    AccessFrame s u.spendPfx.noTile ∧ u.spendPfx.noTile.regs.storeBuf = s.regs.storeBuf ++ out ∧
      u.spendPfx.noTile.regs.vregs = s.regs.vregs ∧ u.spendPfx.noTile.regs.queues = q := by
  -- how many free values are set aside for the tile that is not stated plays no part
  obtain ⟨n, hn⟩ : ∃ n, u.spendPfx.noTile = { u with
      free := n, hart := { u.hart with regs := { u.hart.regs with pfxValid := false, cv := none } } } := ⟨_, rfl⟩
  rw [hc] at hu
  obtain ⟨hfound, hu⟩ := hu
  have hregs := congrArg (fun v : State => v.hart.regs) hu
  rw [hn]
  refine ⟨⟨hfound, ?_⟩, (congrArg Regs.storeBuf hregs :), (congrArg Regs.vregs hregs :), (congrArg Regs.queues hregs :)⟩
  rw [hu]
  rfl

/-- The stores of a member wait in the buffer, and its convoy goes on or ends. -/
theorem member_stores {s c u : State} {i : Instr} {f : Pfx → State → Eff State} {q : Vector (List Tile) 4} {out : List StoreRec}
    (ha : Allowed s i) (hf : f (pfxOf s.regs) s = .ok u.spendPfx.noTile) (hc : c = s.setRegs { s.regs with queues := q })
    (hu : BufferFrame out c u) (hg : i.kbit = true ∨ InStrip u) :
    ∃ t, member i f s = .next t ∧ AfterAccess s t ∧ t.regs.storeBuf = s.regs.storeBuf ++ out ∧ t.regs.vregs = s.regs.vregs ∧
      t.regs.queues = q := by
  obtain ⟨hv, hb, hr, hq⟩ := accessFrame_spent hc hu
  obtain ⟨t, h1, h2, h3, h4, h5, -⟩ := member_accesses ha hf hv (hg.imp id (fun h => h.of rfl rfl rfl))
  exact ⟨t, h1, h2, h3.trans hb, h4.trans hr, h5.trans hq⟩

/-! ### Vector stores (R178 to R184) -/

/-- The bytes of a packed unit, each with its place (R183). -/
def unitStores (c : Place × Nat) : List (Place × List Byte) :=
  (span 0 3).map (fun j => ({ c.1 with addr := c.1.addr + (j : Nat) }, [BitVec.ofNat 8 (c.2 / 256 ^ j)]))

/-- What the elements at some places store: each its bytes, or each packed unit its three bytes. -/
def storesOf (s : State) (x : Source) (places : List Place) : List (Place × List Byte) :=
  if x.fmt = .t6 then (packUnits x.get places).flatMap unitStores
  else places.map (fun e => (e, leBytes (fmtWidth s x.fmt) (x.get e.i).toNat))

/-- The effect of a store, as `vectorStore` has it. -/
def storeBody (form : VForm) (d a b : BitVec 5) (sp o : Bool) (p : Pfx) (s : State) : Eff State := do
  let src ← groupSource s d.toNat (groupFactor s.regs)
  illegalWhen s (tagRefused src.fmt form o)
  let places ← placesOf s p form src.fmt o a b
  let t ← (storesOf s src places).foldlM (fun t e => storeElem t sp e.1 e.2) s
  return t.spendPfx.noTile

theorem foldlM_flatMap {α β γ : Type} (f : γ → β → Eff γ) (g : α → List β) (l : List α) (c : γ) :
    (l.flatMap g).foldlM f c = l.foldlM (fun c x => (g x).foldlM f c) c := by
  induction l generalizing c with
  | nil => rfl
  | cons x l ih =>
    rw [List.flatMap_cons, List.foldlM_append, List.foldlM_cons]
    exact congrArg _ (funext ih)

/-- Elements stored one after the other, as `vectorStore` stores them. -/
theorem storesOf_foldlM (s t : State) (x : Source) (sp : Bool) (places : List Place) :
    (storesOf s x places).foldlM (fun t e => storeElem t sp e.1 e.2) t =
      if x.fmt = .t6 then
        (packUnits x.get places).foldlM (fun t u =>
          (span 0 3).foldlM (fun t j =>
            storeElem t sp { u.1 with addr := u.1.addr + (j : Nat) } [BitVec.ofNat 8 (u.2 / 256 ^ j)]) t) t
      else places.foldlM (fun t e => storeElem t sp e (leBytes (fmtWidth s x.fmt) (x.get e.i).toNat)) t := by
  unfold storesOf
  split
  · rw [foldlM_flatMap]
    simp only [unitStores, List.foldlM_map]
  · rw [List.foldlM_map]

theorem vectorStore_eq (i : Instr) (form : VForm) (d a b : BitVec 5) (sp o : Bool) (s : State) :
    vectorStore i form d a b sp o s = member i (storeBody form d a b sp o) s := by
  unfold vectorStore storeBody
  simp only [storesOf_foldlM]

/-- A store of the unit form has no stride. -/
theorem vectorStore_unit (i : Instr) (d a b b' : BitVec 5) (sp o : Bool) (s : State) :
    vectorStore i .unit d a b sp o s = vectorStore i .unit d a b' sp o s := by
  have h : storeBody .unit d a b sp o = storeBody .unit d a b' sp o := by
    funext p s
    simp only [storeBody, placesOf_unit _ _ _ o a b b']
  rw [vectorStore_eq, vectorStore_eq, h]

theorem vectorStore_answers {s u : State} {i : Instr} {form : VForm} {d a b : BitVec 5} {sp o : Bool} {ix : Nat → Int} {x : Source}
    {out : List StoreRec} (hx : groupSource s d.toNat (groupFactor s.regs) = .ok x) (hi : IndexedBy s form b ix)
    (ht : tagRefused x.fmt form o = false)
    (hs : StoredInTurn sp s (storesOf s x ((activeIndices s (pfxOf s.regs)).map (placeAt s form x.fmt o a b ix))) out u)
    (ha : Allowed s i) (hg : i.kbit = true ∨ InStrip u) :
    ∃ t, vectorStore i form d a b sp o s = .next t ∧ AfterAccess s t ∧ t.regs.storeBuf = s.regs.storeBuf ++ out ∧
      t.regs.vregs = s.regs.vregs ∧ t.regs.queues = s.regs.queues := by
  rw [vectorStore_eq]
  refine member_stores ha ?_ rfl hs.frame hg
  simp only [storeBody, hx, illegalWhen, ht, placesOf_ok hi, hs.foldlM, Bool.false_eq_true, if_false, bind, Except.bind, pure,
    Except.pure]

/-! ### Tokens appended to a buffer (R338) -/

theorem leNat_leBytes (n v : Nat) : leNat (leBytes n v) = v % 256 ^ n := by
  induction n generalizing v with
  | zero => rw [Nat.pow_zero, Nat.mod_one]; rfl
  | succ n ih =>
    rw [leBytes, leNat, ih, BitVec.toNat_ofNat, pow_succ' 256 n, Nat.mod_mul]

/-- The word that its eight bytes hold. -/
theorem xword_leBytes (v : XWord) : xword (leNat (leBytes 8 v.toNat)) = v := by
  rw [leNat_leBytes, show 256 ^ 8 = 2 ^ 64 from rfl, Nat.mod_eq_of_lt v.isLt, xword, BitVec.ofNat_toNat, BitVec.setWidth_eq]

/-- A place of memory that VCOMMITM reads or stores, in the order of the row's sequence indices. -/
def tokenPlace (s : State) (r n va : Nat) : Place := { i := 0, k := r * s.regs.vl + n, addr := va, col := none, slot := 0 }

theorem tokenPlace_k (s : State) (r n va : Nat) : (tokenPlace s r n va).k = r * s.regs.vl + n := rfl

theorem tokenPlace_word (s : State) (r n : Nat) (v : XWord) : (tokenPlace s r n v.toNat).word = v := by
  rw [tokenPlace, Place.word, BitVec.ofInt_natCast, BitVec.ofNat_toNat, BitVec.setWidth_eq]

/-- The accesses of one row from the state `c` to the state `v`: the buffer's address and length read, `n` tokens and the new length
stored. -/
def CommitsRow (s : State) (e : XWord) (w : Nat) (tok : Nat → XWord) (n : Nat) (c v : State) (r : Nat) (out : List StoreRec) : Prop :=
  ∃ (buf len : XWord) (c1 c2 : State),
    ReadInTurn false 8 (fun _ => leBytes 8 buf.toNat) c [tokenPlace s r 0 e.toNat] c1 ∧
    ReadInTurn false 8 (fun _ => leBytes 8 len.toNat) c1 [tokenPlace s r 0 (e + 8).toNat] c2 ∧
    StoredInTurn false c2 ((span 0 n).map (fun j =>
      (tokenPlace s r j (buf + (len + xword j) * xword w).toNat, leBytes w (tok j).toNat)) ++
        [(tokenPlace s r 0 (e + 8).toNat, leBytes 8 (len + xword n).toNat)]) out v

/-- A word read at the address of an entry. -/
theorem loadWord_ok {s c c1 : State} {r : Nat} {e v : XWord}
    (h : ReadInTurn false 8 (fun _ => leBytes 8 v.toNat) c [tokenPlace s r 0 e.toNat] c1) :
    loadBytes c .read e 8 8 (r * s.regs.vl) = .ok (leBytes 8 v.toNat, c1) := by
  obtain ⟨u, hu, -, rfl⟩ := h.head
  rw [← hu, loadElem, if_neg Bool.false_ne_true, tokenPlace_word]
  rfl

/-- A row's accesses are those of `commitRow`. -/
theorem commitRow_ok {s c v : State} {e : XWord} {w n r : Nat} {tok : Nat → XWord} {out : List StoreRec}
    (h : CommitsRow s e w tok n c v r out) : commitRow c e w (r * s.regs.vl) n tok = .ok v ∧ BufferFrame out c v := by
  obtain ⟨buf, len, c1, c2, h1, h2, h3⟩ := h
  refine ⟨?_, (h1.frame.trans h2.frame).buffered.trans h3.frame⟩
  have hs := h3.foldlM
  rw [List.foldlM_append, List.foldlM_map] at hs
  simp only [storeElem, Bool.false_eq_true, if_false, List.foldlM_cons, List.foldlM_nil, bind_pure, tokenPlace_word, tokenPlace_k,
    leBytes_length, Nat.add_zero] at hs
  simp only [commitRow, loadWord_ok h1, loadWord_ok h2, xword_leBytes, bind, Except.bind]
  exact hs

/-- The rows of a list one after the other, from the state `c` to the state `u`, each as `one` says: `out` are the records of all. -/
def InRows (one : State → State → Nat → List StoreRec → Prop) (rows : List Nat) (c u : State) (out : List StoreRec) : Prop :=
  ∃ (states : List State) (outs : List (List StoreRec)), states.length = rows.length + 1 ∧ outs.length = rows.length ∧
    states.head? = some c ∧ states.getLast? = some u ∧ out = outs.flatten ∧
    ∀ n, n < rows.length → ∃ v v', states[n]? = some v ∧ states[n + 1]? = some v' ∧ one v v' (rows.getD n 0) (outs.getD n [])

/-- Rows each of which is one step are a fold of the steps. -/
theorem InRows.foldlM {one : State → State → Nat → List StoreRec → Prop} {step : State → Nat → Eff State} {rows : List Nat}
    {c u : State} {out : List StoreRec} (h : InRows one rows c u out)
    (hone : ∀ c v r out, one c v r out → step c r = .ok v ∧ BufferFrame out c v) :
    rows.foldlM step c = .ok u ∧ BufferFrame out c u := by
  induction rows generalizing c out with
  | nil =>
    obtain ⟨states, outs, hl, ho, hh, ht, rfl, -⟩ := h
    obtain ⟨x, rfl⟩ := List.length_eq_one_iff.1 hl
    obtain rfl := List.length_eq_zero_iff.1 ho
    obtain rfl : x = c := Option.some.inj hh
    obtain rfl : x = u := Option.some.inj ht
    exact ⟨rfl, .refl _⟩
  | cons r rows ih =>
    obtain ⟨states, outs, hl, ho, hh, ht, rfl, hr⟩ := h
    match states, outs, hl, ho with
    | x :: y :: states, out :: outs, hl, ho =>
      obtain rfl : x = c := Option.some.inj hh
      obtain ⟨v, v', hv, hv', hrow⟩ := hr 0 (Nat.zero_lt_succ _)
      obtain rfl : x = v := Option.some.inj hv
      obtain rfl : y = v' := Option.some.inj hv'
      obtain ⟨hstep, hframe⟩ : step x r = .ok y ∧ BufferFrame out x y := hone _ _ _ _ hrow
      obtain ⟨hsteps, hframes⟩ := ih ⟨y :: states, outs, Nat.succ.inj hl, Nat.succ.inj ho, rfl, List.getLast?_cons_cons ▸ ht, rfl,
        fun n hn => hr (n + 1) (Nat.succ_lt_succ hn)⟩
      rw [List.foldlM_cons, hstep]
      exact ⟨hsteps, hframe.trans hframes⟩

/-- The number of tokens of a row (R338): its length, no more than VL. -/
def tokenCount (s : State) (y : Source) (r : Nat) : Nat := min (y.fmt.int (y.get (r * rowSize s))).toNat s.regs.vl

/-- The active rows with tokens (R338); VL = 0 has none. -/
def tokenRows (s : State) (y : Source) : List Nat :=
  if s.regs.vl = 0 then [] else
    (span 0 s.regs.vr).filter (fun r => predicate s (pfxOf s.regs) (r * rowSize s) && decide (0 < tokenCount s y r))

/-- One row's tokens appended, from the state `t` that the rows before it leave. -/
def commitStep (s : State) (x y : Source) (d : BitVec 5) (t : State) (r : Nat) : Eff State :=
  commitRow t (s.x d + xword (16 * r)) x.fmt.bytes (r * s.regs.vl) (tokenCount s y r) (fun n => x.get (r * rowSize s + n))

/-- VCOMMITM's loop, as `execVcommitm` has it. -/
def commitLoop (x y : Source) (d : BitVec 5) (p : Pfx) (s : State) : Eff State :=
  let rs := rowSize s
  let rows := if s.regs.vl = 0 then [] else (span 0 s.regs.vr).filter (fun r => predicate s p (r * rs))
  rows.foldlM (fun t r =>
    let n := min (max (y.fmt.int (y.get (r * rs))) 0).toNat s.regs.vl
    if n = 0 then .ok t
    else commitRow t (s.x d + xword (16 * r)) x.fmt.bytes (r * s.regs.vl) n (fun c => x.get (r * rs + c))) s

/-- A row of no tokens is passed over. -/
theorem commitLoop_eq (s : State) (x y : Source) (d : BitVec 5) :
    commitLoop x y d (pfxOf s.regs) s = (tokenRows s y).foldlM (commitStep s x y d) s := by
  unfold commitLoop tokenRows
  by_cases hv : s.regs.vl = 0
  · simp only [if_pos hv]
    rfl
  · have hcount : ∀ r, min (max (y.fmt.int (y.get (r * rowSize s))) 0).toNat s.regs.vl = tokenCount s y r := fun r => by
      rw [tokenCount]
      omega
    simp only [if_neg hv, hcount, Bool.and_comm (predicate s (pfxOf s.regs) _), ← List.filter_filter, List.foldlM_filter]
    refine congrArg (fun f => List.foldlM f s _) (funext fun t => funext fun r => ?_)
    by_cases hn : tokenCount s y r = 0
    · simp [hn, pure, Except.pure]
    · simp only [hn, if_false, Nat.pos_of_ne_zero hn, decide_true, if_true]
      rfl

/-- The effect of VCOMMITM, as `execVcommitm` has it. -/
def commitBody (q : Bool) (d a b : BitVec 5) (p : Pfx) (s : State) : Eff State := do
  let tok ← source s q a
  let len ← groupSource s b.toNat (groupFactor s.regs)
  illegalWhen s (!(tok.fmt == .i16 || tok.fmt == .u16 || tok.fmt == .i32 || tok.fmt == .u32) || !len.fmt.isInt)
  let s ← consume s [(q, a)]
  let t ← commitLoop tok len d p s
  return t.spendPfx.noTile

theorem exec_vcommitm_member (s : State) (k : Bool) (d a b : BitVec 5) (q : Bool) :
    exec (.vcommitm k d a b q) s = member (.vcommitm k d a b q) (commitBody q d a b) s := rfl

theorem vcommitm_answers {s c u : State} {k q : Bool} {d a b : BitVec 5} {x y : Source} {out : List StoreRec}
    (hx : source s q a = .ok x) (hy : groupSource s b.toNat (groupFactor s.regs) = .ok y)
    (hfx : x.fmt ∈ [Fmt.i16, .u16, .i32, .u32]) (hfy : y.fmt.isInt = true) (hq : QueuesReady s [(q, a)])
    (hc : consume s [(q, a)] = .ok c)
    (hr : InRows (fun v v' r => CommitsRow s (s.x d + xword (16 * r)) x.fmt.bytes (fun n => x.get (r * rowSize s + n))
      (tokenCount s y r) v v' r) (tokenRows s y) c u out)
    (ha : Allowed s (.vcommitm k d a b q)) (hg : k = true ∨ InStrip u) :
    ∃ t, exec (.vcommitm k d a b q) s = .next t ∧ AfterAccess s t ∧ Consumed s t [(q, a)] ∧
      t.regs.storeBuf = s.regs.storeBuf ++ out ∧ t.regs.vregs = s.regs.vregs := by
  obtain ⟨queues, hcq, hconsumed⟩ := consume_setRegs hq
  obtain rfl := Except.ok.inj (hcq.symm.trans hc)
  obtain ⟨hrows, hframe⟩ := hr.foldlM (step := commitStep s x y d) (fun _ _ _ _ h => commitRow_ok h)
  have hloop : commitLoop x y d (pfxOf s.regs) (s.setRegs { s.regs with queues := queues }) = .ok u :=
    (commitLoop_eq (s.setRegs { s.regs with queues := queues }) x y d).trans hrows
  have htok : (x.fmt == .i16 || x.fmt == .u16 || x.fmt == .i32 || x.fmt == .u32) = true := by simpa [or_assoc] using hfx
  have hbody : commitBody q d a b (pfxOf s.regs) s = .ok u.spendPfx.noTile := by
    simp only [commitBody, hx, hy, htok, hfy, hcq, hloop, illegalWhen, Bool.not_true, Bool.or_self, Bool.false_eq_true, if_false,
      bind, Except.bind, pure, Except.pure]
  obtain ⟨t, h1, h2, h3, h4, h5⟩ := member_stores ha hbody rfl hframe hg
  exact ⟨t, (exec_vcommitm_member ..).trans h1, h2, hconsumed t h5, h3, h4⟩

end Machine
end Sys2Proof

open Sys2Proof Sys2Proof.Machine

/-- Settles O27: the stores of `StoredInTurn` are those of the elements, and VCOMMITM's rows are a fold of such accesses. -/
theorem vectorStores : Obligations.VectorStores := by
  refine ⟨fun s u k d a b sp o ix x out hx => ?_, fun s u k d a b q x y c out hx hy hfx hfy hq hc => ?_⟩
  · intro w six
    refine List.forall_mem_cons.2 ⟨?unit, List.forall_mem_cons.2 ⟨?strided, List.forall_mem_singleton.2 ?indexed⟩⟩
    all_goals intro places items hix htag hcol hs ha hg
    case unit =>
      rw [exec_vst, execVst, vectorStore_unit _ _ _ 0 b]
      exact vectorStore_answers hx hix (tagRefused_eq (by rintro (h | h) <;> cases h) hcol) hs ha hg
    case strided => exact vectorStore_answers hx hix (tagRefused_eq (fun _ => htag nofun) hcol) hs ha hg
    case indexed => exact vectorStore_answers hx hix (tagRefused_eq (fun _ => htag nofun) hcol) hs ha hg
  · intro rs w count rows place one hchain i hi ha hg
    subst hi
    exact vcommitm_answers hx hy hfx hfy hq hc hchain ha hg
end

section
/-! CERTIFICATES. Tag-selected operations and the tagging store (O33). -/

namespace Sys2Proof
namespace Machine

/-! ### What a commit leaves of what tag operations read -/

theorem committed_rowLimit (s : State) : s.committed.rowLimit = s.rowLimit := by
  rw [State.rowLimit, committed_own_request]
  rfl

theorem committed_queuedReads (s : State) : queuedReads s.committed = queuedReads s := by
  funext a n
  rw [queuedReads, committed_hart]
  rfl

theorem committed_pfxOf (s : State) : pfxOf s.committed.regs = pfxOf s.regs := by
  rw [State.regs, committed_hart]
  rfl

theorem committed_rowSize (s : State) : rowSize s.committed = rowSize s := by
  simp only [rowSize, capacity, State.regs, committed_hart]
  rfl

theorem committed_vl (s : State) : s.committed.regs.vl = s.regs.vl := by
  rw [State.regs, committed_hart]
  rfl

theorem committed_vr (s : State) : s.committed.regs.vr = s.regs.vr := by
  rw [State.regs, committed_hart]
  rfl

theorem committed_fmtWidth (s : State) (f : Fmt) : fmtWidth s.committed f = fmtWidth s f := by
  simp only [fmtWidth, declWidth, committed_hart]

/-- A commit keeps what mask registers read (R28). -/
theorem curMask_commitTwins (r : Regs) (n : Nat) :
    curMask ((commitTwins r).masks.toList.getD n { com := 0, twin := none }) =
      curMask (r.masks.toList.getD n { com := 0, twin := none }) := by
  simp only [commitTwins, Vector.toList_map, List.getD_eq_getElem?_getD, List.getElem?_map]
  cases h : r.masks.toList[n]? with
  | none => rfl
  | some m =>
    obtain ⟨com, twin⟩ := m
    cases twin <;> rfl

theorem committed_predicate (s : State) (p : Pfx) : predicate s.committed p = predicate s p := by
  funext i
  simp only [predicate, State.regs, committed_hart]
  rw [curMask_commitTwins]

/-! ### Selectors (R84, R198) -/

theorem Selector.of_base (v : XWord) : (Selector.of v).base = v.toNat % 2 ^ 15 := by
  simp [Selector.of, xbits, bitsAt]

theorem Selector.of_n (v : XWord) :
    (Selector.of v).n = if v.toNat / 2 ^ 16 % 2 ^ 15 = 0 then 2 ^ 15 else v.toNat / 2 ^ 16 % 2 ^ 15 := rfl

theorem Selector.of_bad {v : XWord} (h15 : v.toNat / 2 ^ 15 % 2 = 0) (h31 : v.toNat / 2 ^ 31 % 2 = 0) :
    (Selector.of v).bad = false := by
  simp only [Selector.of, BitVec.getLsbD, Nat.testBit_eq_decide_div_mod_eq, h15, h31]
  rfl

/-- Sixteen bits of a word, whether the word is cut to them before or not. -/
theorem ofNat_xbits (v : XWord) (lo : Nat) : BitVec.ofNat 16 (xbits v lo 16) = BitVec.ofNat 16 (v.toNat / 2 ^ lo) := by
  apply BitVec.eq_of_toNat_eq
  simp [xbits, bitsAt]

theorem Selector.of_hits (v : XWord) (k : Core) (r : Nat) :
    (Selector.of v).hits k r =
      ((k.tag r ^^^ BitVec.ofNat 16 (v.toNat / 2 ^ 32)) &&& BitVec.ofNat 16 (v.toNat / 2 ^ 48) == 0) := by
  simp only [Selector.hits, Selector.of, ofNat_xbits]

theorem matchSet_of (s : State) (v : XWord) :
    matchSet s (Selector.of v) =
      (span (v.toNat % 2 ^ 15) (if v.toNat / 2 ^ 16 % 2 ^ 15 = 0 then 2 ^ 15 else v.toNat / 2 ^ 16 % 2 ^ 15)).filter
        (fun r => (s.core.tag r ^^^ BitVec.ofNat 16 (v.toNat / 2 ^ 32)) &&& BitVec.ofNat 16 (v.toNat / 2 ^ 48) == 0) := by
  rw [matchSet, Selector.of_base, Selector.of_n]
  exact List.filter_congr fun r _ => Selector.of_hits v s.core r

theorem retagged_eq (op : XWord) (old : BitVec 16) :
    retagged op old = (old &&& ~~~BitVec.ofNat 16 (op.toNat / 2 ^ 16)) |||
      (BitVec.ofNat 16 op.toNat &&& BitVec.ofNat 16 (op.toNat / 2 ^ 16)) := by
  have hm : (op >>> 16).setWidth 16 = BitVec.ofNat 16 (op.toNat / 2 ^ 16) := by
    apply BitVec.eq_of_toNat_eq
    simp [Nat.shiftRight_eq_div_pow]
  rw [retagged, hm]
  rfl

/-! ### The checks and the wait of a tag operation (R200, R266) -/

/-- The hart's span fits a row and is made of elements of w bytes (R85). -/
def SpanFits (s : State) (w : Nat) : Prop :=
  s.hart.tspanOff.toNat + s.hart.tspanLen.toNat ≤ 64 ∧ s.hart.tspanOff.toNat % w = 0 ∧ s.hart.tspanLen.toNat % w = 0

/-- R200 passes on the committed machine where it does on the machine before. -/
theorem tagChecks_committed {s : State} {sel : Selector} {w : Option Nat} (write : Bool) (hb : sel.bad = false)
    (hw : ∀ k, w = some k → SpanFits s k) (hh : s.holds = true) (hl : sel.base + sel.n ≤ min (2 ^ 15) (s.core.request / 64)) :
    tagChecks s.committed sel write w = .ok () := by
  have hl' : ¬s.committed.rowLimit < sel.base + sel.n := by
    rw [committed_rowLimit]
    exact Nat.not_lt.2 hl
  have hh' : s.committed.holds = true := (committed_holds s).trans hh
  cases w with
  | none =>
    simp only [tagChecks, illegalWhen, hb, hh', Bool.not_true, Bool.false_eq_true, if_false, if_neg hl', bind, Except.bind, pure,
      Except.pure]
  | some k =>
    obtain ⟨hfit, hoff, hlen⟩ := hw k rfl
    have hspan : (decide (64 < s.hart.tspanOff.toNat + s.hart.tspanLen.toNat) || s.hart.tspanOff.toNat % k != 0
        || s.hart.tspanLen.toNat % k != 0) = false := by
      simp [hoff, hlen, hfit]
    simp only [tagChecks, illegalWhen, hb, committed_hart, hspan, hh', Bool.not_true, Bool.false_eq_true, if_false, if_neg hl', bind,
      Except.bind, pure, Except.pure]

/-- No queued matrix instruction of the hart has still to read the span of one of the rows (R266). -/
def SpanUnread (s : State) (rows : List Nat) : Prop :=
  ∀ r ∈ rows, queuedReads s (64 * r + s.hart.tspanOff.toNat) s.hart.tspanLen.toNat = false

theorem spanFree_committed (s : State) (rows : List Nat) :
    (SpanUnread s rows → spanFree s.committed rows = .ok ()) ∧
    (¬SpanUnread s rows → spanFree s.committed rows = .error (.wait .matrix)) := by
  have h : (rows.any (fun r => queuedReads s.committed (64 * r + s.committed.hart.tspanOff.toNat) s.committed.hart.tspanLen.toNat)) = true
      ↔ ¬SpanUnread s rows := by
    simp [SpanUnread, committed_queuedReads, committed_hart]
  exact ⟨fun hu => if_neg (fun he => h.1 he hu), fun hu => if_pos (h.2 hu)⟩

/-! ### What a tag operation answers -/

/-- A tag operation after whose effect nothing of the hart has changed but d and FFLAGS. -/
theorem tagOp_sets {s c : State} {f : State → Eff State} {d : BitVec 5} {v : XWord} (h : MayCommit s)
    (hf : f s.committed = .ok (c.setX d v))
    (hc : c.hart = { s.committed.hart with regs := { s.committed.hart.regs with fflags := c.hart.regs.fflags } }) :
    SetsIn (tagOp f s) c.order d v := by
  refine irreversible_setsIn h (c := c.order) (by rw [hf]; rfl) ?_ ?_ ?_ <;> (rw [State.order_hart, hc]; dsimp only)
  · exact committed_tl h
  · exact committed_early s
  · exact committed_buf s

theorem tagOp_waits {s : State} {f : State → Eff State} {w : Wait} (h : MayCommit s) (hf : f s.committed = .error (.wait w)) :
    Waits (tagOp f s) s.committed w := irreversible_waits (c := s) h (by rw [hf]; rfl)

/-- The effect of a form that uses no span: `g` gives what becomes of the state under the selector, and `n` what x[d] takes. -/
def plainEffect (d a : BitVec 5) (write : Bool) (sel : XWord → Selector) (g : State → Selector → State)
    (n : State → Selector → XWord) (s : State) : Eff State := do
  let sel := sel (s.x a)
  tagChecks s sel write none
  return (g s sel).setX d (n s sel)

/-- What a form that uses no span answers once its checks have passed. -/
theorem plainEffect_sets {s : State} {d a : BitVec 5} {write : Bool} {sel : XWord → Selector} {g : State → Selector → State}
    {n : State → Selector → XWord} (h : MayCommit s) (hk : tagChecks s.committed (sel (s.x a)) write none = .ok ())
    (hg : ∀ c l, (g c l).hart = c.hart) :
    SetsIn (tagOp (plainEffect d a write sel g n) s) (g s.committed (sel (s.x a))).order d (n s.committed (sel (s.x a))) := by
  refine tagOp_sets h ?_ (by rw [hg])
  simp only [plainEffect, committed_x, hk, bind, Except.bind]
  rfl

section
variable {s : State} {d a b : BitVec 5}

theorem tagw_sets (h : MayCommit s) (hk : tagChecks s.committed (Selector.of (s.x a)) true none = .ok ()) :
    SetsIn (exec (.tagw d a b) s)
      (s.committed.retag (s.x b) (span (Selector.of (s.x a)).base (Selector.of (s.x a)).n)).order d (xword (Selector.of (s.x a)).n) := by
  rw [← committed_x s b]
  exact plainEffect_sets (g := fun s sel => s.retag (s.x b) (span sel.base sel.n)) (n := fun _ sel => xword sel.n) h hk (fun _ _ => rfl)

theorem tagr_sets (h : MayCommit s) (hk : tagChecks s.committed { Selector.of (s.x a) with n := 1 } false none = .ok ()) :
    SetsIn (exec (.tagr d a) s) s.committed.order d ((s.committed.core.tag (Selector.of (s.x a)).base).setWidth 64) :=
  plainEffect_sets (sel := fun v => { Selector.of v with n := 1 }) (g := fun s _ => s)
    (n := fun s sel => (s.core.tag sel.base).setWidth 64) h hk (fun _ _ => rfl)

theorem tmatch_sets (h : MayCommit s) (hk : tagChecks s.committed (Selector.of (s.x a)) false none = .ok ()) :
    SetsIn (exec (.tmatch d a) s) s.committed.order d (xword (matchSet s.committed (Selector.of (s.x a))).length) :=
  plainEffect_sets (g := fun s _ => s) (n := fun s sel => xword (matchSet s sel).length) h hk (fun _ _ => rfl)

theorem toprRetag_sets (h : MayCommit s) (hk : tagChecks s.committed (Selector.of (s.x a)) true none = .ok ()) :
    SetsIn (exec (.toprRetag d a b) s) (s.committed.retag (s.x b) (matchSet s.committed (Selector.of (s.x a)))).order d
      (xword (matchSet s.committed (Selector.of (s.x a))).length) := by
  rw [← committed_x s b]
  exact plainEffect_sets (g := fun s sel => s.retag (s.x b) (matchSet s sel)) (n := fun s sel => xword (matchSet s sel).length) h hk
    (fun _ _ => rfl)

end

/-- The effect of a form that uses the span: `g` gives what becomes of the state once the rows that match are known. -/
def spanEffect (d a : BitVec 5) (w : Nat) (g : State → List Nat → State) (s : State) : Eff State := do
  let sel := Selector.of (s.x a)
  tagChecks s sel true (some w)
  let rows := matchSet s sel
  spanFree s rows
  return (g s rows).setX d (xword rows.length)

/-- What a form that uses the span answers once its checks have passed. -/
theorem spanEffect_answers {s : State} {d a : BitVec 5} {w : Nat} {g : State → List Nat → State} (h : MayCommit s)
    (hk : tagChecks s.committed (Selector.of (s.x a)) true (some w) = .ok ())
    (hg : ∀ c l, (g c l).hart = { c.hart with regs := { c.hart.regs with fflags := (g c l).hart.regs.fflags } }) :
    let c := s.committed
    let rows := matchSet c (Selector.of (s.x a))
    (¬SpanUnread s rows → Waits (tagOp (spanEffect d a w g) s) c .matrix) ∧
    (SpanUnread s rows → SetsIn (tagOp (spanEffect d a w g) s) (g c rows).order d (xword rows.length)) := by
  intro c rows
  obtain ⟨hfree, hwait⟩ := spanFree_committed s rows
  constructor
  · intro hu
    refine tagOp_waits h ?_
    simp only [spanEffect, committed_x, hk, bind, Except.bind, show spanFree s.committed (matchSet s.committed _) = _ from hwait hu]
  · intro hu
    refine tagOp_sets h ?_ (hg c rows)
    simp only [spanEffect, committed_x, hk, bind, Except.bind, show spanFree s.committed (matchSet s.committed _) = _ from hfree hu]
    rfl

/-! ### Changes of a span (R201, Table 9.6) -/

/-- TOPR.CLR's change of some rows. -/
def State.clearSpans (s : State) (rows : List Nat) : State :=
  s.setCore { s.core with
    scratch := rows.foldl (fun q r => memZero q (64 * r + s.hart.tspanOff.toNat) s.hart.tspanLen.toNat) s.core.scratch }

theorem toprClr_answers {s : State} {d a : BitVec 5} (h : MayCommit s)
    (hk : tagChecks s.committed (Selector.of (s.x a)) true (some 1) = .ok ()) :
    let c := s.committed
    let rows := matchSet c (Selector.of (s.x a))
    (¬SpanUnread s rows → Waits (exec (.toprClr d a) s) c .matrix) ∧
    (SpanUnread s rows → SetsIn (exec (.toprClr d a) s) (c.clearSpans rows).order d (xword rows.length)) :=
  spanEffect_answers (g := State.clearSpans) h hk (fun _ _ => rfl)

/-- The element of w bytes at an address of a scratchpad changed by `f`, with the flags raised. -/
def changeElem (w : Nat) (f : XWord → XWord × Flags) (q : List Host.Cell × Flags) (at_ : Nat) : List Host.Cell × Flags :=
  let z := f (xword (leNat (memReadN q.1 at_ w)))
  (memWriteN q.1 at_ (leBytes w z.1.toNat), q.2 ||| z.2)

/-- The addresses of the elements of w bytes of the spans of some rows, in the order in which they change. -/
def spanPlaces (off len w : Nat) (rows : List Nat) : List Nat :=
  rows.flatMap (fun r => (span 0 (len / w)).map (fun j => 64 * r + off + j * w))

theorem foldl_spanRow (off len w : Nat) (f : XWord → XWord × Flags) (rows : List Nat) (q : List Host.Cell × Flags) :
    rows.foldl (fun q r => spanRow off w f r (len / w) q) q = (spanPlaces off len w rows).foldl (changeElem w f) q := by
  simp only [spanPlaces, List.foldl_flatMap, List.foldl_map]
  rfl

/-- The change that TOPR.SET, TOPR.ADD and TOPR.MULS make of some rows. -/
def State.changeSpans (w : Nat) (f : State → XWord → XWord × Flags) (s : State) (rows : List Nat) : State :=
  let out := (spanPlaces s.hart.tspanOff.toNat s.hart.tspanLen.toNat w rows).foldl (changeElem w (f s)) (s.core.scratch, 0)
  (s.setCore { s.core with scratch := out.1 }).raise out.2

theorem spanOp_eq (d a b : BitVec 5) (fmt : Fmt) (f : State → XWord → XWord → XWord × Flags) :
    spanOp d a b fmt f = tagOp (spanEffect d a fmt.bytes (State.changeSpans fmt.bytes (fun s => f s (s.x b)))) := by
  unfold spanOp
  simp only [foldl_spanRow]
  rfl

/-- TOPR.SET, TOPR.ADD or TOPR.MULS, whose function of an element is `y` on the machine before the commit. -/
theorem spanOp_answers {s : State} {d a b : BitVec 5} {fmt : Fmt} {f : State → XWord → XWord → XWord × Flags}
    {y : XWord → XWord × Flags} (h : MayCommit s) (hk : tagChecks s.committed (Selector.of (s.x a)) true (some fmt.bytes) = .ok ())
    (hy : f s.committed (s.x b) = y) :
    let c := s.committed
    let rows := matchSet c (Selector.of (s.x a))
    let out := (spanPlaces s.hart.tspanOff.toNat s.hart.tspanLen.toNat fmt.bytes rows).foldl (changeElem fmt.bytes y) (c.core.scratch, 0)
    (¬SpanUnread s rows → Waits (spanOp d a b fmt f s) c .matrix) ∧
    (SpanUnread s rows →
      SetsIn (spanOp d a b fmt f s) ((c.setCore { c.core with scratch := out.1 }).raise out.2).order d (xword rows.length)) := by
  intro c rows out
  have hc : State.changeSpans fmt.bytes (fun s => f s (s.x b)) c rows = (c.setCore { c.core with scratch := out.1 }).raise out.2 := by
    simp only [State.changeSpans, c, committed_x, hy, committed_hart]
    rfl
  have ha := spanEffect_answers (d := d) (g := State.changeSpans fmt.bytes (fun s => f s (s.x b))) h hk (fun _ _ => rfl)
  rw [spanOp_eq, ← hc]
  exact ha

/-- Tag arithmetic on the committed machine (Table 9.6). -/
theorem tagArith_committed (s : State) (fmt : Fmt) (fi : Int → Int → Int) (ff : Bool → Val → Val → Val × Flags) (op : XWord) :
    let r : Rnd := ⟨if s.regs.frm = 5 then 0 else s.regs.frm.toNat, 0⟩
    tagArith fmt fi ff s.committed op = fun e =>
      if fmt.isInt then narrowInt fmt true (fi (fmt.int e) (lo32 op).toInt)
      else
        let z := ff r.down (fmt.val e) (fp32.val (op.toNat % 2 ^ 32))
        (xword (roundTo fmt.fp r z.1).bits, z.2 ||| (roundTo fmt.fp r z.1).flags) := by
  intro r
  have hr : s.committed.regs.frm = s.regs.frm := by
    rw [State.regs, committed_hart]
    rfl
  funext e
  simp only [tagArith, intOf_signed32, hr]
  rfl

/-- The element types of Table 9.3, each with its code. -/
theorem tagType_of {y : BitVec 3} {n : Nat} {f : Fmt}
    (hp : (n, f) ∈ [(0, Fmt.i8), (1, .u8), (2, .i16), (3, .u16), (4, .i32), (5, .u32), (6, .f16), (7, .f32)]) (hy : y.toNat = n) :
    f = tagType y := by
  simp only [List.mem_cons, Prod.mk.injEq, List.not_mem_nil, or_false] at hp
  rw [tagType, hy]
  rcases hp with ⟨rfl, rfl⟩ | ⟨rfl, rfl⟩ | ⟨rfl, rfl⟩ | ⟨rfl, rfl⟩ | ⟨rfl, rfl⟩ | ⟨rfl, rfl⟩ | ⟨rfl, rfl⟩ | ⟨rfl, rfl⟩ <;> rfl

/-! ### VSTT (R205, R206) -/

/-- An irreversible instruction that meets no cause at decode. -/
theorem irreversibleChecked_allowed {s : State} {i : Instr} {f : State → Eff State} (h : Allowed s i) :
    irreversibleChecked i f s = irreversible f s := by
  have hc : checkMember s i = .ok () := by
    unfold checkMember
    rw [h]
  simp only [irreversibleChecked, hc]

/-- Writes to S-space leave the executing hart and its key as they are. -/
def SameHart (s u : State) : Prop := u.hart = s.hart ∧ u.cur = s.cur

theorem SameHart.coreId {s u : State} (h : SameHart s u) : u.coreId = s.coreId := by rw [State.coreId, h.2]; rfl

theorem SameHart.rowSize {s u : State} (h : SameHart s u) : rowSize u = rowSize s := by
  simp only [Machine.rowSize, capacity, State.regs, h.1]

theorem SameHart.predicate {s u : State} (h : SameHart s u) (p : Pfx) : predicate u p = predicate s p := by
  funext i
  simp only [Machine.predicate, State.regs, h.1]

/-- A loop over items whose turns leave the hart alone and do what `g` does is the loop of `g`. -/
theorem foldl_sameHart {α : Type} {s u : State} {f g : State → α → State} (h : SameHart s u)
    (hfg : ∀ v i, SameHart s v → f v i = g v i ∧ SameHart s (g v i)) (l : List α) :
    l.foldl f u = l.foldl g u ∧ SameHart s (l.foldl g u) :=
  List.foldl_rel (r := fun v v' => v = v' ∧ SameHart s v') ⟨rfl, h⟩ fun i _ v v' hv => by
    obtain ⟨rfl, hs⟩ := hv
    exact hfg v i hs

/-- Row r of a tile and its tag, as the machine `s` gives the tile's shape and its active elements, filled into the scratchpad of `u`. -/
def fillFrom (s : State) (p : Pfx) (x : Source) (w row : Nat) (t : BitVec 16) (u : State) (r : Nat) : State :=
  let v := ((span (r * rowSize s) s.regs.vl).filter (predicate s p)).foldl
    (fun u j => u.spWrite s.coreId (64 * (row + r) + j % rowSize s * w) (leBytes w (x.get j).toNat)) u
  v.setCore (v.core.setTag (row + r) t)

theorem fillRow_eq_fillFrom {s u : State} (h : SameHart s u) (p : Pfx) (x : Source) (w row r : Nat) (t : BitVec 16) :
    u.fillRow p x w (row + r) r t = fillFrom s p x w row t u r ∧ SameHart s (fillFrom s p x w row t u r) := by
  obtain ⟨hw, hs⟩ := foldl_sameHart
    (f := fun u j => u.spWrite u.coreId (64 * (row + r) + j % rowSize u * w) (leBytes w (x.get j).toNat))
    (g := fun u j => u.spWrite s.coreId (64 * (row + r) + j % rowSize s * w) (leBytes w (x.get j).toNat)) h
    (fun v j hv => ⟨by rw [hv.coreId, hv.rowSize], hv⟩) ((span (r * rowSize s) s.regs.vl).filter (predicate s p))
  have hvl : u.regs.vl = s.regs.vl := by rw [State.regs, h.1]; rfl
  refine ⟨?_, hs⟩
  simp only [State.fillRow, fillFrom, h.rowSize, hvl, h.predicate, hw]

theorem foldl_fillRow (s : State) (p : Pfx) (x : Source) (w row : Nat) (t : BitVec 16) (l : List Nat) :
    l.foldl (fun u r => u.fillRow p x w (row + r) r t) s = l.foldl (fillFrom s p x w row t) s ∧
      SameHart s (l.foldl (fillFrom s p x w row t) s) :=
  foldl_sameHart ⟨rfl, rfl⟩ (fun _ r hv => fillRow_eq_fillFrom hv p x w row r t) l

/-- The latch has no part in what a row is filled with. -/
theorem fillFrom_spendPfx (s : State) (p : Pfx) (x : Source) (w row : Nat) (t : BitVec 16) :
    fillFrom s.spendPfx p x w row t = fillFrom s p x w row t := rfl

/-- Nor has a commit. -/
theorem fillFrom_committed (s : State) (p : Pfx) (x : Source) (w row : Nat) (t : BitVec 16) :
    fillFrom s.committed.spendPfx p x w row t = fillFrom s p x w row t := by
  rw [fillFrom_spendPfx]
  funext u r
  simp only [fillFrom, committed_coreId, committed_rowSize, committed_predicate, committed_vl]

/-- The effect of VSTT, on the committed machine, once its source tile is known. -/
def vsttEffect (x : Source) (a b : BitVec 5) (s : State) : Eff State := do
  illegalWhen s (x.fmt == .t6 || decide (64 < s.regs.vl * fmtWidth s x.fmt))
  if s.regs.vl = 0 then return s.spendPfx
  else
    let base := s.x a
    if xbits base 21 43 ≠ 0 then protFault base true true
    else if !alignedTo base 64 then .error (.trap { code := cALIGN, tv := base, sspace := true, write := true })
    else
      let row := base.toNat / 64
      match (span 0 s.regs.vr).find? (fun r => !s.holds || decide (s.rowLimit ≤ row + r)) with
      | some r => protFault (xword (64 * (row + r))) true true (r * s.regs.vl)
      | none =>
        if queuedReads s base.toNat (64 * s.regs.vr) then .error (.wait .matrix)
        else return ((span 0 s.regs.vr).foldl
          (fun u r => u.fillRow (pfxOf s.regs) x (fmtWidth s x.fmt) (row + r) r ((s.x b).setWidth 16)) s.spendPfx)

/-- An irreversible instruction does what its effect does on the committed machine. -/
theorem irreversible_congr {s : State} {f g : State → Eff State} (h : MayCommit s) (hfg : f s.committed = g s.committed) :
    irreversible f s = irreversible g s := by
  simp only [irreversible, irreversibleThen, preCommit_ok h, hfg]

section
variable {s : State} {d a b : BitVec 5} {x : Source}

theorem exec_vstt_effect (h : MayCommit s) (ha : Allowed s (.vstt d a b))
    (hx : groupSource s.committed d.toNat (groupFactor s.regs) = .ok x) :
    exec (.vstt d a b) s = irreversible (vsttEffect x a b) s := by
  have hx' : groupSource s.committed d.toNat (groupFactor s.committed.regs) = .ok x := by
    rw [← hx, State.regs, committed_hart]
    rfl
  rw [exec_vstt, execVstt, irreversibleChecked_allowed ha]
  refine irreversible_congr h ?_
  simp only [hx', bind, Except.bind]
  rfl

theorem vsttEffect_refused (hw : x.fmt = .t6 ∨ 64 < s.regs.vl * fmtWidth s x.fmt) :
    vsttEffect x a b s.committed = illegal s.committed := by
  have hb : (x.fmt == .t6 || decide (64 < s.committed.regs.vl * fmtWidth s.committed x.fmt)) = true := by
    rw [committed_vl, committed_fmtWidth, Bool.or_eq_true, beq_iff_eq, decide_eq_true_iff]
    exact hw
  simp only [vsttEffect, hb]
  rfl

variable (ht : x.fmt ≠ .t6) (hw : s.regs.vl * fmtWidth s x.fmt ≤ 64)
include ht hw

theorem vstt_width_ok : (x.fmt == .t6 || decide (64 < s.committed.regs.vl * fmtWidth s.committed x.fmt)) = false := by
  rw [committed_vl, committed_fmtWidth, Bool.or_eq_false_iff, beq_eq_false_iff_ne, decide_eq_false_iff_not]
  exact ⟨ht, Nat.not_lt.2 hw⟩

theorem vsttEffect_empty (hv : s.regs.vl = 0) : vsttEffect x a b s.committed = .ok s.committed.spendPfx :=
  illegalWhen_then (vstt_width_ok ht hw) (if_pos ((committed_vl s).trans hv))

theorem vsttEffect_rows (hv : s.regs.vl ≠ 0) (h21 : (s.x a).toNat < 2 ^ 21) (hal : (s.x a).toNat % 64 = 0) (hh : s.holds = true)
    (hl : (s.x a).toNat / 64 + s.regs.vr ≤ s.rowLimit) :
    vsttEffect x a b s.committed = if queuedReads s (s.x a).toNat (64 * s.regs.vr) then .error (.wait .matrix)
      else .ok ((span 0 s.regs.vr).foldl
        (fillFrom s (pfxOf s.regs) x (fmtWidth s x.fmt) ((s.x a).toNat / 64) ((s.x b).setWidth 16)) s.committed.spendPfx) := by
  have hfind : (span 0 s.regs.vr).find? (fun r => !s.holds || decide (s.rowLimit ≤ (s.x a).toNat / 64 + r)) = none := by
    refine List.find?_eq_none.2 fun r hr => ?_
    have := (mem_span.1 hr).2
    simp only [hh, Bool.not_true, Bool.false_or, decide_eq_true_eq]
    omega
  have hal' : alignedTo (s.x a) 64 = true := beq_iff_eq.2 hal
  refine illegalWhen_then (vstt_width_ok ht hw) ?_
  simp only [committed_x, committed_vl, committed_vr, committed_holds, committed_rowLimit, committed_queuedReads, committed_pfxOf,
    committed_fmtWidth, if_neg hv, xbits_high h21, hal', hfind, (foldl_fillRow _ _ _ _ _ _ _).1, fillFrom_committed]
  rfl

end

/-- Filling rows leaves the hart as the commit left it, with the latch spent. -/
theorem foldl_fillFrom_hart (s : State) (p : Pfx) (x : Source) (w row : Nat) (t : BitVec 16) (l : List Nat) :
    (l.foldl (fillFrom s p x w row t) s.committed.spendPfx).hart = s.committed.spendPfx.hart := by
  rw [← fillFrom_committed]
  exact (foldl_fillRow _ _ _ _ _ _ _).2.1

/-- VSTT, where its effect leaves of the hart what the commit left with the latch spent. -/
theorem vstt_sets {s c : State} {a b : BitVec 5} {x : Source} (h : MayCommit s) (hf : vsttEffect x a b s.committed = .ok c)
    (hc : c.hart = s.committed.spendPfx.hart) : SetsIn (irreversible (vsttEffect x a b) s) c 0 0 := by
  refine irreversible_setsIn h (hf.trans (congrArg Except.ok (setX_zero c 0).symm)) ?_ ?_ ?_ <;>
    (rw [hc, State.spendPfx, State.setRegs_hart]; dsimp only)
  · exact committed_tl h
  · exact committed_early s
  · exact committed_buf s

end Machine
end Sys2Proof

open Sys2Proof Sys2Proof.Machine

/-- Settles O33: each tag operation by its checks and its effect on the committed machine, VSTT row by row. -/
theorem tagOperations : Obligations.TagOperations := by
  refine ⟨fun s d a b y h hh => ?_, fun s d a b x h ha hx => ?_⟩
  · intro c v base n hit rows limit op m retag off len free h15 h31
    have hbad : (Selector.of (s.x a)).bad = false := Selector.of_bad h15 h31
    have hrows : rows = matchSet c (Selector.of (s.x a)) := (matchSet_of c (s.x a)).symm
    have hbase : base = (Selector.of (s.x a)).base := (Selector.of_base (s.x a)).symm
    have hn : n = (Selector.of (s.x a)).n := (Selector.of_n (s.x a)).symm
    have hretag : retag = c.retag (s.x b) := funext fun l => by
      simp only [retag, State.retag, retagged_eq, op, m]
    clear_value rows base n retag
    subst hrows hbase hn hretag
    refine ⟨fun hl => ?_, fun hl => ?_⟩
    · exact tagr_sets h (tagChecks_committed (sel := { Selector.of (s.x a) with n := 1 }) false hbad nofun hh hl)
    have hk (write : Bool) {w : Option Nat} (hw : ∀ k, w = some k → SpanFits s k) :
        tagChecks c (Selector.of (s.x a)) write w = .ok () := tagChecks_committed write hbad hw hh hl
    have hclr (hfit : off + len ≤ 64) := toprClr_answers (d := d) h (hk true fun k e => by
      cases e
      exact ⟨hfit, Nat.mod_one _, Nat.mod_one _⟩)
    refine ⟨tagw_sets h (hk _ nofun), tmatch_sets h (hk _ nofun), toprRetag_sets h (hk _ nofun), fun hfit => (hclr hfit).1,
      fun hfit hu => ?_, fun hfit => ?_⟩
    · simpa only [State.clearSpans, committed_hart] using (hclr hfit).2 hu
    · rintro ⟨k, f⟩ hp hy hoff hlen f' r x once
      obtain rfl : f = tagType y := tagType_of hp hy
      have hk' : tagChecks c (Selector.of (s.x a)) true (some (tagType y).bytes) = .ok () :=
        hk true fun k e => by cases e; exact ⟨hfit, hoff, hlen⟩
      refine List.forall_mem_cons.2 ⟨?set, List.forall_mem_cons.2 ⟨?add, List.forall_mem_singleton.2 ?muls⟩⟩
      case set =>
        rw [exec_toprSet, execToprSet]
        exact spanOp_answers h hk' rfl
      case add =>
        rw [exec_toprAdd, execToprAdd]
        exact spanOp_answers h hk' (tagArith_committed ..)
      case muls =>
        rw [exec_toprMuls, execToprMuls]
        exact spanOp_answers h hk' (tagArith_committed ..)
  · intro c w rs base one
    have hone : one = fillFrom s (pfxOf s.regs) x w (base / 64) ((s.x b).setWidth 16) := by
      funext u r
      simp only [one, fillFrom, BitVec.ofNat_toNat]
      rfl
    rw [exec_vstt_effect h ha hx, hone]
    refine ⟨fun ht hw => ⟨fun hv => ?_, fun hv h21 hal hh hl => ⟨fun hq => ?_, fun hq => ?_⟩⟩, fun htr hw => ?_⟩
    · exact vstt_sets h (vsttEffect_empty ht hw hv) rfl
    · exact irreversible_waits (c := s) h ((vsttEffect_rows ht hw hv h21 hal hh hl).trans (if_pos hq))
    · have hf := (vsttEffect_rows (b := b) ht hw hv h21 hal hh hl).trans (if_neg (Bool.eq_false_iff.1 hq))
      exact vstt_sets h hf (foldl_fillFrom_hart ..)
    · have hf := vsttEffect_refused (a := a) (b := b) hw
      rw [illegal, State.regs, committed_pc] at hf
      exact irreversible_precise h htr hf rfl rfl (heldByLeader_other (show 0x01 ≠ cXLAT by decide)) rfl
end

section
/-! CERTIFICATES. Barriers (O8). -/

namespace Sys2Proof
namespace Machine

/-- The generation of barrier b that a member's next arrival belongs to (R215). -/
def nextArrival (g : Gang) (b m : Nat) : Nat := mgetD (g.barrier b).arrived m 0 + 1

/-- A gang once a member has arrived at barrier b. -/
def Gang.arrivedAt (g : Gang) (b m : Nat) : Gang :=
  { g with bars := mset g.bars b { g.barrier b with arrived := mset (g.barrier b).arrived m (nextArrival g b m) } }

/-- The machine once the executing hart's gang has taken its arrival at barrier b: a completion that is due comes next. -/
def State.arrivedAt (s : State) (g : Gang) (b : Nat) : State :=
  let g' := g.arrivedAt b s.hart.memberIdx
  { s with
    gangs := mset s.gangs s.hart.gang g'
    agenda := if (g.barrier b).completed < g'.reached b then .own .barrier s.hart.gang b :: s.agenda else s.agenda }

theorem barrierOf_ok {s : State} {a : BitVec 5} (h : (s.x a).toNat < 16) : barrierOf s a = .ok (s.x a).toNat := by
  have hx : xbits (s.x a) 4 60 = 0 := by
    unfold xbits bitsAt
    omega
  rw [barrierOf, if_neg (not_not.2 hx)]

/-- An arrival at most two generations ahead of the completed count is made (R215). -/
theorem arrive_ok {s : State} {g : Gang} {b : Nat} (hg : s.gang? = some g)
    (hk : nextArrival g b s.hart.memberIdx ≤ (g.barrier b).completed + 2) :
    arrive s b = .ok (nextArrival g b s.hart.memberIdx, s.arrivedAt g b) := by
  simp only [arrive, hg]
  refine (if_neg (Nat.not_lt.2 hk)).trans ?_
  have he : (if (g.barrier b).completed < (g.arrivedAt b s.hart.memberIdx).reached b
      then (s.setGang s.hart.gang (g.arrivedAt b s.hart.memberIdx)).soon (.own .barrier s.hart.gang b)
      else s.setGang s.hart.gang (g.arrivedAt b s.hart.memberIdx)) = s.arrivedAt g b := by
    unfold State.arrivedAt
    dsimp only
    split <;> rfl
  rw [← he]
  rfl

end Machine
end Sys2Proof

open Sys2Proof Sys2Proof.Machine

/-- Settles O8: the arrivals by the generation that they belong to, BARWAIT by the completed count. -/
theorem barriers : Obligations.Barriers := by
  intro s d a b sc g h hg ha n bar k g' c c'
  have hga : s.committed.gang? = some g := (committed_gang? s).trans hg
  have hb : barrierOf s.committed a = .ok n := by
    have hx := committed_x s a
    rw [barrierOf_ok (by rw [hx]; exact ha), hx]
  have hidx : c.hart.memberIdx = s.hart.memberIdx := by rw [committed_hart]
  have hgang : c.hart.gang = s.hart.gang := by rw [committed_hart]
  refine ⟨fun hk => ?arrives, fun hle => ?_, fun hlt => ?_⟩
  case arrives =>
    have he : arrive s.committed n = .ok (k, c') := by
      have hk' : nextArrival g n c.hart.memberIdx ≤ (g.barrier n).completed + 2 := by rw [hidx]; exact hk
      rw [arrive_ok hga hk', hidx, State.arrivedAt, hidx, hgang]
      rfl
    rw [exec_bararr, exec_bar]
    refine ⟨irreversible_setsIn (c := c') h ?_ (committed_tl h) (committed_early s) (committed_buf s),
      irreversibleThen_sets (c := c') h ?_ (committed_tl h) (committed_early s) (committed_buf s) (fun _ _ => rfl)⟩
    · simp only [hb, he, bind, Except.bind, pure, Except.pure]
    · simp only [hb, he, bind, Except.bind, pure, Except.pure]
  all_goals
    have hx : s.committed.x b = s.x b := committed_x s b
    rw [exec_barwait, execBarwait]
  · refine irreversible_sets h ?_
    simp only [hb, hga, hx, bind, Except.bind, pure, Except.pure]
    exact if_pos hle
  · refine irreversible_waits (c := s) h ?_
    simp only [hb, hga, hx, bind, Except.bind, pure, Except.pure]
    exact if_neg (Nat.not_le.2 hlt)
end

section
/-! CERTIFICATES. WAITT and WAITADDR (O11). -/

namespace Sys2Proof
namespace Machine

/-- When the next convoy may issue after WAITT of the time t (R44, R218). -/
def waittDue (s : State) (t : Nat) : Nat := if s.hart.timed then max t s.gtime + 3 else t

/-- What WAITT leaves of a hart that has retired it: the wait for the time, and a timed hart's issue. -/
def waittLeaves (s : State) (t : Nat) (h : Hart) : Hart :=
  { h with
    wait := if s.gtime < waittDue s t then some (.time (waittDue s t)) else none
    issueAt := if h.timed then some (waittDue s t) else none }

/-- An irreversible instruction with an effect on register d alone of the state `c`, before what it leaves of the hart. -/
theorem irreversibleThen_leaves {s c : State} {f : State → Eff (State × (Hart → Hart))} {g : Hart → Hart} {d : BitVec 5} {v : XWord}
    (h : MayCommit s) (hf : f s.committed = .ok (c.setX d v, g)) (h1 : c.hart.tl = 0) (h2 : c.hart.early = false)
    (h3 : c.hart.regs.storeBuf = []) :
    ∃ u, irreversibleThen f s = .next (u.setHart (g u.hart)) ∧ SetsIn (.next u) c d v := by
  have ht : InStrip (c.setX d v) := .of_empty h1 h2 (by simpa using h3)
  refine ⟨_, irreversibleThen_next h hf ht, _, rfl, ⟨?_, ?_, ?_, ?_, ?_⟩, rfl, ⟨rfl, fun r hr => ?_⟩, ?_, ?_, ?_⟩
  · simp [State.reopened, State.retired]
  · simp [State.reopened, State.retired]
  · simp [State.reopened, State.retired]
  · simp [State.reopened]
  · simp [State.reopened, State.retired]
  · have := readX_writeX c.regs d r v
    rw [if_neg hr] at this
    exact this
  · simp [OnlyX, State.reopened, State.retired]
  · simp [StripOnly, State.reopened, State.retired]
  · rfl

/-- What WAITT answers, before what it leaves of the hart. -/
theorem exec_waitt_leaves {s : State} {d a : BitVec 5} (h : MayCommit s) :
    let t := (s.x a).toNat
    ∃ u, exec (.waitt d a) s = .next (u.setHart (waittLeaves s t u.hart)) ∧ SetsIn (.next u) s.committed d (xword (s.gtime - t)) := by
  intro t
  have hdue : (if s.hart.timed then (if s.gtime ≤ t then t + 3 else s.gtime + 3) else t) = waittDue s t := by
    unfold waittDue
    split
    · split <;> omega
    · rfl
  rw [exec_waitt, execWaitt]
  refine irreversibleThen_leaves (g := waittLeaves s t) h ?_ (committed_tl h) (committed_early s) (committed_buf s)
  have hd : s.committed.hart.timed = s.hart.timed := by rw [committed_hart]
  simp only [committed_x, committed_gtime, hd, show (s.x a).toNat = t from rfl, hdue]
  rfl

end Machine
end Sys2Proof

open Sys2Proof Sys2Proof.Machine

/-- Settles O11: WAITT by its effect on the committed machine, WAITADDR by what its read finds. -/
theorem timeAndAddressWaits : Obligations.TimeAndAddressWaits := by
  refine ⟨fun s d a h => ?_, fun s d a b sc pa h ho => ?_⟩
  · intro t due
    have htimed : s.committed.hart.timed = s.hart.timed := by rw [committed_hart]
    obtain ⟨u, he, v, hv, h1, -, h2, h3, h4, h5⟩ := exec_waitt_leaves (d := d) (a := a) h
    obtain rfl := Host.Outcome.next.inj hv
    refine ⟨_, he, h1, h2, rfl, ?_, h3, ?_, ?_⟩
    · have : u.hart.timed = s.hart.timed := by rw [h4]; exact htimed
      simp only [State.setHart_hart, waittLeaves, this]
      rfl
    · rw [StripOnly] at h4 ⊢
      rw [State.setHart_hart, waittLeaves, h4]
    · rw [h5]
      rfl
  · intro v
    obtain ⟨u, hu⟩ := ho
    have hf := orderedAccess_frame hu
    have hs : SameButTlb s.committed u := ⟨fun a => by rw [hf.mem], hf.1, by rw [hf.2]⟩
    rw [exec_waitaddr]
    exact ⟨fun hv => ⟨u, hs, hf.hart, execWaitaddr_changed h hu hv⟩, fun hv => ⟨u, hs, hf.hart, execWaitaddr_same h hu hv⟩⟩
end

section
/-! SUPPORT. What the scrub of a context leaves (Table 22.8, R434): the stages before its audit record, and what they leave alone. -/

namespace Sys2Proof
namespace Machine

/-- What every step of a walk over a list leaves, the walk leaves. -/
theorem foldl_keeps {α β : Type} (get : State → β) {f : State → α → State} (hf : ∀ s x, get (f s x) = get s) (l : List α) (s : State) :
    get (l.foldl f s) = get s := by
  induction l generalizing s with
  | nil => rfl
  | cons x l ih => exact (ih _).trans (hf s x)

theorem foldl_keeps_steward {α : Type} {f : State → α → State} (hf : ∀ s x, s.hart.steward = true → (f s x).hart = s.hart) (l : List α)
    (s : State) (hs : s.hart.steward = true) : (l.foldl f s).hart = s.hart := by
  induction l generalizing s with
  | nil => rfl
  | cons x l ih =>
    have hx := hf s x hs
    exact (ih _ (by rw [hx]; exact hs)).trans hx

/-- Memory, residues and channels once the scrub of a context has erased them. -/
def scrubErased (s : State) (ctx : Nat) : State :=
  let s := (framesOf s ctx).foldl scrubFrame s
  let s := (slotsOf s ctx).foldl scrubSlot s
  eraseImages s ctx

theorem eraseImages_hart (s : State) (ctx : Nat) : (eraseImages s ctx).hart = s.hart :=
  foldl_keeps (f := fun (s : State) (r : Nat × Nat) => s.zeroRange r.1 r.2) State.hart (fun _ _ => rfl) _ _

theorem scrubErased_hart (s : State) (ctx : Nat) : (scrubErased s ctx).hart = s.hart :=
  (eraseImages_hart _ ctx).trans <|
    (foldl_keeps (f := scrubSlot) State.hart (fun _ _ => rfl) _ _).trans (foldl_keeps (f := scrubFrame) State.hart (fun _ _ => rfl) _ _)

/-- A hart that the scrub of a context zeroes. -/
def scrubsHart (ctx : Nat) (h : Hart) : Bool := h.ctx = ctx && h.live ≠ .free && !h.steward

/-- The machine once the scrub has dropped what it keeps of the context in tables and caches, as `scrubContext` has it. -/
def scrubDropped (s : State) (ctx : Nat) : State :=
  let gangs := mkeys (s.gangs.filter (fun g => g.2.ctx = ctx))
  let asid := (s.ctxAt ctx).asid
  let s := scrubErased s ctx
  { s with
    hart := if scrubsHart ctx s.hart then .initial else s.hart
    harts := s.harts.filter (fun h => !scrubsHart ctx h.2)
    gangs := s.gangs.filter (fun g => g.2.ctx ≠ ctx)
    transfers := s.transfers.filter (fun t => !gangs.contains t.gang)
    tlb := s.tlb.filter (fun e => e.asid ≠ asid)
    leaders := s.leaders.filter (fun l => l.ctx ≠ ctx)
    cmds := s.cmds.filter (fun c => c.2.ctx ≠ ctx)
    warrays := mmap (fun k a =>
      { a with calibrated := if holdsArray s ctx k a then s.gtime else a.calibrated, held := a.held.filter (· ≠ ctx) }) s.warrays }

theorem scrubDropped_steward {s : State} (ctx : Nat) (hs : s.hart.steward = true) : (scrubDropped s ctx).hart = s.hart := by
  have hn : ¬scrubsHart ctx (scrubErased s ctx).hart = true := by
    rw [scrubErased_hart]
    simp [scrubsHart, hs]
  exact (if_neg hn).trans (scrubErased_hart s ctx)

theorem retireOne_hart (s : State) (r : Resource) : (s.retireOne r).hart = s.hart := by cases r <;> rfl
theorem retireOne_mem (s : State) (r : Resource) : (s.retireOne r).mem = s.mem := by cases r <;> rfl

theorem serveContext_frame (s : State) (core ctx : Nat) :
    serveContext s core ctx = { s with
      hart := (serveContext s core ctx).hart, harts := (serveContext s core ctx).harts, cores := (serveContext s core ctx).cores } := by
  by_cases h : mayRun s ctx (s.coreAt core)
  · exact (serveContext_spec h).2.2.2.2
  · rw [serveContext_idle h]
    rfl

/-- A steward hart is none of those that go on with a context. -/
theorem serveContext_steward {s : State} (core ctx : Nat) (hs : s.hart.steward = true) : (serveContext s core ctx).hart = s.hart := by
  by_cases h : mayRun s ctx (s.coreAt core)
  · have hn : ¬resumable core ctx (s.ctxAt ctx).key s.cur s.hart = true := by
      simp [resumable, onCore, hs]
    rw [serveContext_run h]
    exact if_neg hn
  · rw [serveContext_idle h]
    rfl

theorem moveOn_mem (s : State) (c : Nat) : (moveOn s c).mem = s.mem := by
  unfold moveOn
  split
  · rw [serveContext_frame]
  · rfl

theorem moveOn_steward {s : State} (c : Nat) (hs : s.hart.steward = true) : (moveOn s c).hart = s.hart := by
  unfold moveOn
  split
  · exact serveContext_steward _ _ hs
  · rfl

/-- The cores of a context scrubbed one after the other, each going on with the context that it moves to. -/
def scrubCores (ctx : Nat) (cores : List Nat) (s : State) : State :=
  cores.foldl (fun s c => moveOn (s.setCoreAt c (scrubCore s ctx c)) c) s

theorem scrubCores_mem (ctx : Nat) (cores : List Nat) (s : State) : (scrubCores ctx cores s).mem = s.mem :=
  foldl_keeps State.mem (fun s c => moveOn_mem (s.setCoreAt c (scrubCore s ctx c)) c) cores s

theorem scrubCores_steward (ctx : Nat) (cores : List Nat) {s : State} (hs : s.hart.steward = true) :
    (scrubCores ctx cores s).hart = s.hart :=
  foldl_keeps_steward (fun s c hs => moveOn_steward (s := s.setCoreAt c (scrubCore s ctx c)) c hs) cores s hs

/-- The resources that a scrub retires. -/
def retiredBy (s : State) (ctx : Nat) (bad : List Nat) : List Resource :=
  (bad.eraseDups.map Resource.of).filter (fun r => scrubCovers s ctx r && !isRetired s r)

/-- The machine once the scrub of a context is done, its audit record and the context's own tables apart. -/
def scrubWork (s : State) (ctx : Nat) (bad : List Nat) : State :=
  scrubCores ctx (coresOf s ctx) ((retiredBy s ctx bad).foldl State.retireOne (scrubDropped s ctx))

theorem scrubContext_eq (s : State) (ctx : Nat) (bad : List Nat) :
    let w := scrubWork s ctx bad
    let c := w.ctxAt ctx
    scrubContext s ctx bad = (w.setCtxAt ctx { c with
      queues := [], handles := [], images := [], dove := { entries := [], next := 1, quota := c.dove.quota }, rootLive := false }).audit
        auditScrub ctx (retiredBy s ctx bad).length := rfl

/-- Memory after the scrub is as it was erased. -/
theorem scrubWork_mem (s : State) (ctx : Nat) (bad : List Nat) : (scrubWork s ctx bad).mem = (scrubErased s ctx).mem :=
  (scrubCores_mem _ _ _).trans (foldl_keeps State.mem retireOne_mem _ _)

/-- A steward hart that scrubs a context is as it was. -/
theorem scrubContext_steward {s : State} (ctx : Nat) (bad : List Nat) (hs : s.hart.steward = true) :
    (scrubContext s ctx bad).hart = s.hart := by
  have hd : ((retiredBy s ctx bad).foldl State.retireOne (scrubDropped s ctx)).hart = s.hart :=
    (foldl_keeps State.hart retireOne_hart _ _).trans (scrubDropped_steward ctx hs)
  rw [scrubContext_eq]
  exact (scrubCores_steward _ _ (by rw [hd]; exact hs)).trans hd

end Machine
end Sys2Proof
end

section
/-! CERTIFICATES. The end of a kill (O49): refuted by a note of an image that reaches further past device memory than the erasure's
cut does. -/

namespace Sys2Proof
namespace Machine

/-! ### Audit records and memory (R380) -/

theorem auditBytes_length (r : AuditRec) : (auditBytes r).length = 128 := by
  simp only [auditBytes, auditHead, List.length_append, leBytes_length]

theorem audit_wf {s : State} (type ctx data : Nat) (h : Memory.wf s.mem = true) : Memory.wf (s.audit type ctx data).mem = true :=
  devWrite_wf _ _ _ h

/-- An audit record changes no byte outside the audit region. -/
theorem audit_memRead {s : State} (type ctx data : Nat) {a : Nat} (h : Memory.wf s.mem = true) (ha : ¬InAudit a) :
    memRead (s.audit type ctx data).mem a = memRead s.mem a := by
  have hslot : s.dev.next.toNat % Config.auditSlots < Config.auditSlots := Nat.mod_lt _ (by decide)
  simp only [InAudit, Config.auditBase, Config.auditBytes] at ha
  simp only [Config.auditSlots] at hslot
  unfold State.audit
  dsimp only
  rw [State.devWrite_mem, memRead_memWriteN _ _ _ h, auditBytes_length, if_neg]
  simp only [auditAt, Config.auditBase, Config.auditSlots]
  omega

theorem enterError_memRead {s : State} (ctx : Nat) {a : Nat} (h : Memory.wf s.mem = true) (ha : ¬InAudit a) :
    memRead (enterError s ctx).mem a = memRead s.mem a := by
  unfold enterError State.setCtxState
  dsimp only
  rw [State.setCtxAt_mem]
  split
  · rw [State.setCtxAt_mem, audit_memRead _ _ _ h ha]
  · rfl

theorem finishKill_mem (s : State) (ctx : Nat) (bad : List Nat) (data : Nat) :
    (finishKill s ctx bad data).mem = (enterError ((scrubContext s ctx bad).audit auditKill ctx data) ctx).mem := rfl

/-! ### The counterexample -/

/-- The first address that lies 2^64 bytes past the end of device memory. -/
def farByte : Nat := Config.deviceBytes + 2 ^ 64

/-- A machine whose context 0 awaits the end of a kill, with a note of an image of 2^65 bytes: more than a VSAVE ever writes, and more
than the 2^64 bytes after device memory that `eraseImages` leaves out.  The byte at `farByte` is not 0. -/
def farImage : State :=
  { State.reset with
    mem := [(farByte, 1)]
    ctxs := [(0, { Ctx.initial with pending := [.kill 0 2 0 0 0 0], images := [(0, 2 ^ 65)] })] }

/-- A scrub ends with its record, and its record apart it changes memory as its erasure does. -/
theorem scrubContext_mem (s : State) (ctx : Nat) (bad : List Nat) :
    ∃ (u : State) (n : Nat), scrubContext s ctx bad = u.audit auditScrub ctx n ∧ u.mem = (scrubErased s ctx).mem :=
  ⟨_, _, scrubContext_eq s ctx bad, scrubWork_mem s ctx bad⟩

/-- The erasure of the context zeroes the byte with the image that holds it. -/
theorem scrubErased_farImage : (scrubErased farImage 0).mem = [] := by decide

/-- The event of a kill that waits at the head of its context's work, once no started work is left. -/
theorem exec_killScrub_head (s : State) {ctx c r pc vn g m : Nat} {rest : List Pending} (bad : List Nat)
    (hp : (s.ctxAt ctx).pending = .kill c r pc vn g m :: rest) (hw : workLeft s ctx = false) :
    exec (.killScrub ctx bad) s = .next (finishKill s ctx bad (killData c r pc vn g m)) := by
  rw [exec_killScrub, execKillScrub]
  refine eventStep_some ?_
  simp only [hp, hw, Bool.false_eq_true, if_false]

theorem farByte_past : Config.deviceBytes ≤ farByte := Nat.le_add_right _ _

/-- The byte is one of the noted image, and of no image in steward memory. -/
theorem farByte_notImaged : ¬Imaged farImage 0 farByte := fun ⟨_, h, _⟩ => absurd farByte_past (Nat.not_le.2 h)

theorem farByte_notAudit : ¬InAudit farByte := by
  rintro ⟨-, h⟩
  have := farByte_past
  simp only [Config.deviceBytes, Config.auditBase, Config.auditBytes] at this h
  omega

/-- The end of the kill leaves 0 in the byte. -/
theorem finishKill_farImage (data : Nat) : memRead (finishKill farImage 0 [] data).mem farByte = 0 := by
  obtain ⟨u, n, he, hu⟩ := scrubContext_mem farImage 0 []
  rw [scrubErased_farImage] at hu
  have hw : Memory.wf u.mem = true := by rw [hu]; rfl
  have ha := farByte_notAudit
  rw [finishKill_mem, he, enterError_memRead _ (audit_wf _ _ _ (audit_wf _ _ _ hw)) ha, audit_memRead _ _ _ (audit_wf _ _ _ hw) ha,
    audit_memRead _ _ _ hw ha, hu]
  rfl

end Machine
end Sys2Proof

open Sys2Proof Sys2Proof.Machine

/-- Refutes O49: the scrub zeroes `farByte`, which belongs to the noted image but to no frame of the context, to no image in steward
memory and not to the audit region, and which `Scrubbed` says is as it was. -/
theorem not_contextEnds : ¬ Obligations.ContextEnds := by
  intro h
  obtain ⟨hends, -⟩ := h farImage 0 [] (by decide)
  obtain ⟨hkill, -, -⟩ := hends (List.forall_mem_nil _)
  obtain ⟨t, ht, ⟨-, -, hkept, -⟩, -⟩ := hkill 0 2 0 0 0 0 [] rfl
  obtain rfl : finishKill farImage 0 [] (killData 0 2 0 0 0 0) = t := by
    rw [exec_killScrub_head farImage [] rfl rfl] at ht
    exact Host.Outcome.next.inj ht
  have hsame := hkept rfl farByte List.not_mem_nil farByte_notImaged farByte_notAudit id
  rw [finishKill_farImage] at hsame
  exact absurd hsame (by decide)
end

section
/-! CERTIFICATES. Traps taken and returned from (O15): PRIV, TRAP, TRET and words that decode to nothing. -/

namespace Sys2Proof
namespace Machine

/-! ### PRIV (R227, R230) -/

/-- The accesses that only a steward hart may execute: those to VOWN, and the STW operations. -/
def stewardInstrs (d a : BitVec 5) : List Instr :=
  [.csrr d 0x050, .csrw d a 0x050, .csrs d a 0x050, .csrc d a 0x050, .vsave d a, .vrestore d a, .scrub d a, .ctxkill d a, .setown d a]

/-- An instruction that is a steward's alone meets PRIV before any other cause. -/
theorem checkMember_priv {s : State} {i : Instr} (hs : s.hart.steward = false) (h1 : vecUse (groupFactor s.regs) i = none)
    (h2 : stewardOnly i = true) : checkMember s i = .error (.trap { code := cPRIV, tv := s.regs.pc }) := by
  unfold checkMember memberCauses
  rw [h1]
  simp only [soloCauses, h2, hs, Bool.not_false, Bool.and_self, if_true]
  rfl

theorem ordinaryChecked_stops {s : State} {i : Instr} {f : State → Eff State} {e : Stop} (h : checkMember s i = .error e) :
    ordinaryChecked i f s = stopped s e :=
  ordinary_stops (by simp only [h, bind, Except.bind])

theorem irreversibleChecked_stops {s : State} {i : Instr} {f : State → Eff State} {e : Stop} (h : checkMember s i = .error e) :
    irreversibleChecked i f s = stopped s e := by
  simp only [irreversibleChecked, h]

theorem stwOp_stops {s : State} {i : Instr} {d a : BitVec 5} {op : StwDesc → State → Eff (State × XWord × (Hart → Hart))} {e : Stop}
    (h : checkMember s i = .error e) : stwOp i d a op s = stopped s e := by
  simp only [stwOp, h]

/-- Each meets its decode-time cause before it commits. -/
theorem stewardInstrs_stop (s : State) (d a : BitVec 5) :
    ∀ i ∈ stewardInstrs d a, stewardOnly i = true ∧ vecUse (groupFactor s.regs) i = none ∧
      ∀ e, checkMember s i = .error e → exec i s = stopped s e := by
  simp only [stewardInstrs, List.forall_mem_cons, List.not_mem_nil, false_implies, implies_true, and_true, exec_csrr, exec_csrw, exec_csrs,
    exec_csrc, exec_vsave, exec_vrestore, exec_scrub, exec_ctxkill, exec_setown]
  exact ⟨⟨rfl, rfl, fun _ => ordinaryChecked_stops⟩, ⟨rfl, rfl, fun _ => irreversibleChecked_stops⟩,
    ⟨rfl, rfl, fun _ => irreversibleChecked_stops⟩, ⟨rfl, rfl, fun _ => irreversibleChecked_stops⟩, ⟨rfl, rfl, fun _ => stwOp_stops⟩,
    ⟨rfl, rfl, fun _ => stwOp_stops⟩, ⟨rfl, rfl, fun _ => stwOp_stops⟩, ⟨rfl, rfl, fun _ => stwOp_stops⟩,
    ⟨rfl, rfl, fun _ => stwOp_stops⟩⟩

/-! ### Faults released (R422) -/

/-- The harts held for the faults of some leaders let go on. -/
def State.releaseAll (s : State) (ls : List Leader) : State := ls.foldl (fun s l => s.releasePages l.ctx (· = l.page)) s

/-- A hart's wait is for a fault of one of some leaders. -/
def heldFor (ls : List Leader) (h : Hart) : Prop := ∃ l ∈ ls, h.wait = some (.page l.ctx l.page)

theorem releaseAll_frame (ls : List Leader) (s : State) :
    s.releaseAll ls = { s with hart := (s.releaseAll ls).hart, harts := (s.releaseAll ls).harts } := by
  induction ls generalizing s with
  | nil => rfl
  | cons l ls ih => exact (ih (s.releasePages l.ctx (· = l.page))).trans rfl

/-- The harts held for one of the faults go on, and no other hart changes. -/
theorem hartAt_releaseAll (ls : List Leader) (s : State) (k : Nat) :
    (heldFor ls (s.hartAt k) → (s.releaseAll ls).hartAt k = { s.hartAt k with wait := none, readySince := readyAt s.gtime }) ∧
    (¬heldFor ls (s.hartAt k) → (s.releaseAll ls).hartAt k = s.hartAt k) := by
  induction ls generalizing s with
  | nil => exact ⟨fun ⟨_, hm, _⟩ => absurd hm List.not_mem_nil, fun _ => rfl⟩
  | cons l ls ih =>
    obtain ⟨ih1, ih2⟩ := ih (s.releasePages l.ctx (· = l.page))
    have he := hartAt_releasePages s l.ctx l.page k
    by_cases hw : (s.hartAt k).wait = some (.page l.ctx l.page)
    · rw [if_pos hw] at he
      have hn : ¬heldFor ls ((s.releasePages l.ctx (· = l.page)).hartAt k) := by
        rw [he]
        rintro ⟨_, _, h⟩
        exact nomatch h
      exact ⟨fun _ => (ih2 hn).trans he, fun h => absurd ⟨l, .head _, hw⟩ h⟩
    · rw [if_neg hw] at he
      rw [he] at ih1 ih2
      refine ⟨fun ⟨m, hm, h⟩ => ?_, fun h => ih2 fun ⟨m, hm, h'⟩ => h ⟨m, .tail _ hm, h'⟩⟩
      rcases List.mem_cons.1 hm with rfl | hm
      · exact absurd h hw
      · exact ih1 ⟨m, hm, h⟩

/-- The faults of which a hart is leader at a level. -/
def leads (k : Nat) (lvl : BitVec 2) (l : Leader) : Bool := l.hart = k && l.level = lvl

theorem leads_iff {k : Nat} {lvl : BitVec 2} {l : Leader} : leads k lvl l = true ↔ l.hart = k ∧ l.level = lvl := by
  simp [leads]

/-! ### TRET (R229) -/

theorem alignedTo_signExtend (v : BitVec 57) : alignedTo (v.signExtend 64) 4 = decide (v.toNat % 4 = 0) := by
  have h : (v.signExtend 64).toNat % 4 = v.toNat % 4 := by
    rw [BitVec.toNat_signExtend]
    split
    · rw [BitVec.toNat_setWidth_of_le (by decide)]
      omega
    · rw [BitVec.toNat_setWidth_of_le (by decide)]
      omega
  rw [alignedTo, h]
  rfl

/-- The trap registers of the level that a hart is at. -/
def Hart.atLevel (h : Hart) : TrapRegs := if h.tl = 2 then h.t2 else h.t1

theorem exec_tret_level0 {s : State} (h : s.hart.tl = 0) : exec .tret s = stopped s (.trap { code := cILLEGAL, tv := s.regs.pc }) := by
  rw [exec_tret, execTret]
  exact if_pos h

theorem exec_tret_misaligned {s : State} (h : s.hart.tl ≠ 0) (ha : s.hart.atLevel.tp.toNat % 4 ≠ 0) :
    exec .tret s = takeTrap s { code := cALIGN, tv := s.hart.atLevel.tp.signExtend 64 } := by
  have hal : alignedTo (s.hart.atLevel.tp.signExtend 64) 4 = false := by rw [alignedTo_signExtend]; exact decide_eq_false ha
  rw [exec_tret, execTret]
  refine (if_neg h).trans (if_pos ?_)
  exact (congrArg not hal).trans rfl

/-- A cause at trap level 1 or 2 is precise at its own instruction, and commits nothing (R388). -/
theorem takeTrap_nested {s : State} {tr : Trap} (hs : s.hart.steward = false) (hc : AtConvoy s) (h : s.hart.tl ≠ 0)
    (hf : tr.found = []) (hd : tr.drawn = 0) (hl : heldByLeader s tr = false) :
    takeTrap s tr = .next (enterTrap s tr false 0 s.regs.pc) := by
  simp only [takeTrap, hs, convoyStart_eq hc, noting_none hf hd, hl, Bool.false_eq_true, if_false, if_pos h, hc.2.2]

/-- What a return at level 1 to a misaligned address leaves: the cause taken at level 2. -/
theorem enterTrap_misaligned {s : State} {v ret : XWord} (h1 : s.hart.tl = 1) (hthb : s.hart.thb ≠ 0) :
    enterTrap s { code := cALIGN, tv := v } false 0 ret =
      s.setHart { s.hart with
        tl := 2, readySince := readyAt s.gtime
        regs := { s.regs with pfxValid := false, pc := sext 57 (xword (s.hart.thb.toNat * 1024 + 64 * 2)) }
        t2 := {
          cause := 0x06, restart := false, fetch := false, write := false, sspace := false, member := 0, index := 0
          tp := ret.setWidth 57, tv := v, pfx := s.regs.pfxFields, pfxv := s.regs.pfxValid, ptl := 1 } } := by
  have h3 : ¬(s.hart.tl = 2 ∨ s.hart.thb = 0) := not_or.2 ⟨by rw [h1]; decide, hthb⟩
  rw [enterTrap]
  refine (if_neg h3).trans ?_
  rw [h1]
  rfl

/-- A hart that has retired its TRET: the faults of its level are released. -/
def State.returning (s : State) : State :=
  (s.setHart { s.hart with undo := none, wait := none, readySince := readyAt s.gtime }).releaseLeader s.cur s.hart.tl

/-- The executing hart waits for no page, and stays as it is. -/
theorem returning_hart (s : State) :
    s.returning.hart = { s.hart with undo := none, wait := none, readySince := readyAt s.gtime } := by
  let v : State := { s.setHart { s.hart with undo := none, wait := none, readySince := readyAt s.gtime } with
    leaders := s.leaders.filter (fun l => !leads s.cur s.hart.tl l) }
  have hn : ¬heldFor (s.leaders.filter (leads s.cur s.hart.tl)) (v.hartAt s.cur) := by
    rintro ⟨l, _, h⟩
    rw [show v.hartAt s.cur = v.hart from if_pos rfl] at h
    exact nomatch h
  have he : s.returning = v.releaseAll (s.leaders.filter (leads s.cur s.hart.tl)) := rfl
  have hcur : s.returning.cur = s.cur := by
    rw [he, releaseAll_frame]
    rfl
  have h := (hartAt_releaseAll _ v s.cur).2 hn
  rw [← he] at h
  have h1 : s.returning.hartAt s.cur = s.returning.hart := if_pos hcur.symm
  rw [h1, show v.hartAt s.cur = v.hart from if_pos rfl] at h
  exact h

theorem returning_frame (s : State) :
    s.returning = { s with
      hart := s.returning.hart, harts := s.returning.harts, leaders := s.leaders.filter (fun l => !leads s.cur s.hart.tl l) } :=
  (releaseAll_frame _ _).trans rfl

/-- The other harts: those held for a fault that the returning hart led go on. -/
theorem returning_hartAt (s : State) {k : Nat} (hk : k ≠ s.cur) :
    (heldFor (s.leaders.filter (leads s.cur s.hart.tl)) (s.hartAt k) →
      s.returning.hartAt k = { s.hartAt k with wait := none, readySince := readyAt s.gtime }) ∧
    (¬heldFor (s.leaders.filter (leads s.cur s.hart.tl)) (s.hartAt k) → s.returning.hartAt k = s.hartAt k) := by
  let v : State := { s.setHart { s.hart with undo := none, wait := none, readySince := readyAt s.gtime } with
    leaders := s.leaders.filter (fun l => !leads s.cur s.hart.tl l) }
  have hv : v.hartAt k = s.hartAt k := by
    simp only [State.hartAt, show v.cur = s.cur from rfl, if_neg hk]
    rfl
  have h := hartAt_releaseAll (s.leaders.filter (leads s.cur s.hart.tl)) v k
  rw [hv] at h
  exact h

/-- What TRET leaves: the PC, PFXS and the level restored, and at level 0 a new strip open. -/
def State.returned (s : State) : State :=
  let pc := s.hart.atLevel.tp.signExtend 64
  let t := s.returning.setHart { s.returning.hart with
    tl := s.hart.tl - 1
    regs := { s.returning.hart.regs with pc := pc, pfxFields := s.hart.atLevel.pfx, pfxValid := s.hart.atLevel.pfxv } }
  if s.hart.tl = 1 then t.openStrip pc else t

theorem returned_regs (s : State) :
    s.returned.regs =
      { s.regs with
        pc := s.hart.atLevel.tp.signExtend 64, pfxFields := s.hart.atLevel.pfx, pfxValid := s.hart.atLevel.pfxv } := by
  have hr : s.returning.hart.regs = s.regs := (congrArg Hart.regs (returning_hart s)).trans rfl
  rw [State.returned, hr]
  split <;> rfl

theorem returned_tl (s : State) : s.returned.hart.tl = s.hart.tl - 1 := by
  rw [State.returned]
  split <;> rfl

/-- The low bits of a sign-extended address are the address. -/
theorem setWidth_signExtend (v : BitVec 57) : (v.signExtend 64).setWidth 57 = v := by
  ext i hi
  rw [BitVec.getElem_setWidth, BitVec.getLsbD_signExtend, if_pos hi, BitVec.getLsbD_eq_getElem hi]
  simp only [Nat.lt_trans hi (by decide : 57 < 64), decide_true, Bool.true_and]

/-- The return to level 0 opens a strip. -/
theorem returned_strip {s : State} (h : s.hart.tl = 1) :
    s.returned.hart.ckpt = snapshot s.returned.regs (s.hart.atLevel.tp.signExtend 64) ∧ s.returned.hart.scp = s.hart.atLevel.tp := by
  rw [State.returned, if_pos h]
  exact ⟨rfl, setWidth_signExtend _⟩

theorem returned_hart (s : State) :
    s.returned.hart = { s.hart with
      tl := s.returned.hart.tl, regs := s.returned.hart.regs, undo := none, wait := none, readySince := readyAt s.gtime
      ckpt := s.returned.hart.ckpt, scp := s.returned.hart.scp, stripOpened := s.returned.hart.stripOpened
      early := s.returned.hart.early } := by
  rw [State.returned, returning_hart]
  split <;> rfl

theorem returned_frame (s : State) :
    s.returned = { s with
      hart := s.returned.hart, harts := s.returning.harts, leaders := s.leaders.filter (fun l => !leads s.cur s.hart.tl l) } := by
  rw [State.returned]
  split <;> (rw [returning_frame]; rfl)

theorem returned_hartAt (s : State) {k : Nat} (hk : k ≠ s.cur) : s.returned.hartAt k = s.returning.hartAt k := by
  have h1 : s.returned.cur = s.cur := (congrArg State.cur (returned_frame s)).trans rfl
  have h2 : s.returning.cur = s.cur := (congrArg State.cur (returning_frame s)).trans rfl
  have h3 : s.returned.harts = s.returning.harts := (congrArg State.harts (returned_frame s)).trans rfl
  simp only [State.hartAt, h1, h2, h3, if_neg hk]

theorem exec_tret_returns {s : State} (h : s.hart.tl ≠ 0) (ha : s.hart.atLevel.tp.toNat % 4 = 0)
    (hr : atRecord s (s.hart.atLevel.tp.signExtend 64) = false) : exec .tret s = .next s.returned := by
  have hal : alignedTo (s.hart.atLevel.tp.signExtend 64) 4 = true := by rw [alignedTo_signExtend]; exact decide_eq_true ha
  have ht : returnTrap (s.setHart { s.hart with undo := none, wait := none, readySince := readyAt s.gtime }) = s.returned := rfl
  have hat : atRecord s.returned s.returned.regs.pc = false := by
    rw [congrArg Regs.pc (returned_regs s)]
    refine (atRecord_congr ?_ ?_ ?_).trans hr
    · exact (congrArg Hart.steward (returned_hart s)).trans rfl
    · exact (congrArg Hart.gang (returned_hart s)).trans rfl
    · exact (congrArg State.gangs (returned_frame s)).trans rfl
  rw [exec_tret, execTret]
  refine (if_neg h).trans ((if_neg ?_).trans ?_)
  · rw [show (trapRegsOf s.hart s.hart.tl).tp = s.hart.atLevel.tp from rfl, hal]
    decide
  · dsimp only
    rw [ht, hat]
    rfl

/-- The other harts keep all but a wait for a fault that the returning hart led. -/
theorem returned_others (s : State) {k : Nat} (hk : k ≠ s.cur) :
    (s.returned.hartAt k =
        { s.hartAt k with wait := (s.returned.hartAt k).wait, readySince := (s.returned.hartAt k).readySince } ∧
      ((s.returned.hartAt k).wait ≠ (s.hartAt k).wait → (s.returned.hartAt k).readySince = readyAt s.gtime)) ∧
    ∀ l ∈ s.leaders, l.hart = s.cur → l.level = s.hart.tl → (s.returned.hartAt k).wait ≠ some (.page l.ctx l.page) := by
  obtain ⟨hheld, hfree⟩ := returning_hartAt s hk
  rw [returned_hartAt s hk]
  by_cases hw : heldFor (s.leaders.filter (leads s.cur s.hart.tl)) (s.hartAt k)
  · rw [hheld hw]
    exact ⟨⟨rfl, fun _ => rfl⟩, fun _ _ _ _ => nofun⟩
  · rw [hfree hw]
    exact ⟨⟨rfl, fun h => absurd rfl h⟩, fun l hl h1 h2 he => hw ⟨l, List.mem_filter.2 ⟨hl, leads_iff.2 ⟨h1, h2⟩⟩, he⟩⟩

end Machine
end Sys2Proof

open Sys2Proof Sys2Proof.Machine

/-- Settles O15: the causes by the check or the level that meets them, TRET by the state that it returns to. -/
theorem trapsTaken : Obligations.TrapsTaken := by
  refine ⟨fun s d a ht h i hi => ?_, fun s a i ht h => ?_, fun s => ⟨?_, ?_, ?_⟩, fun s w e ht h hw => ?_⟩
  · obtain ⟨h1, h2, h3⟩ := stewardInstrs_stop s d a i hi
    rw [h3 _ (checkMember_priv ht.1 h2 h1)]
    exact stopped_precise h ht rfl rfl (show 0x04 ≠ cXLAT by decide) rfl
  · have hx : s.committed.x a = s.x a := committed_x s a
    rw [exec_trap]
    refine irreversible_precise h ht ?_ rfl rfl (heldByLeader_other (show 0x0E ≠ cXLAT by decide)) rfl
    rw [hx]
    rfl
  · intro h0 ha hs hc hthb
    have hl : heldByLeader s { code := cALIGN, tv := s.hart.atLevel.tp.signExtend 64 } = false :=
      heldByLeader_other (show cALIGN ≠ cXLAT by decide)
    have he := (exec_tret_misaligned h0 ha).trans (takeTrap_nested hs hc h0 rfl rfl hl)
    refine ⟨fun h1 => ⟨_, he, ?_⟩, fun h2 => he.trans ?_⟩
    · rw [enterTrap_misaligned h1 hthb]
      exact ⟨rfl, rfl, rfl, rfl⟩
    · rw [enterTrap, if_pos (Or.inl h2), if_pos h2]
      rfl
  · intro h12 ha hr
    have h0 : s.hart.tl ≠ 0 := by rcases h12 with h | h <;> rw [h] <;> decide
    refine ⟨_, exec_tret_returns h0 ha hr, returned_tl s, returned_regs s, returned_strip, fun l => ?_, fun k hk => (returned_others s hk).1,
      fun k l hk => (returned_others s hk).2 l, returned_hart s, ?_⟩
    · rw [congrArg State.leaders (returned_frame s)]
      simp only [List.mem_filter, Bool.not_eq_true', ← leads_iff, Bool.not_eq_true]
    · rw [returned_frame s]
  · intro ht h
    rw [exec_tret_level0 ht.2.1]
    exact stopped_precise h ht rfl rfl (show 0x01 ≠ cXLAT by decide) rfl
  · rw [exec_illegal, execIllegal, hw]
    exact stopped_precise h ht rfl rfl (show 0x01 ≠ cXLAT by decide) rfl
end

section
/-! CERTIFICATES. LAUNCH, and the freshness of tickets (O13). -/

namespace Sys2Proof
namespace Machine

/-- A ticket is one of 1 to 65,535. -/
theorem freshFrom_pos (used : List Nat) (m start fuel : Nat) : 0 < freshFrom used m start fuel := by
  induction fuel generalizing start with
  | zero => exact Nat.succ_pos _
  | succ fuel ih =>
    unfold freshFrom
    split
    · exact ih _
    · exact Nat.succ_pos _

theorem freshTicket_toNat (s : State) :
    (freshTicket s).toNat = freshFrom (s.hart.tickets.map (fun t => t.value.toNat)) 65535 (Config.free s.free).toNat 65 :=
  Nat.mod_eq_of_lt (Nat.lt_of_le_of_lt (freshFrom_le (by decide)) (by decide))

theorem freshTicket_ne_zero (s : State) : freshTicket s ≠ 0 := by
  intro h
  have hp := freshFrom_pos (s.hart.tickets.map (fun t => t.value.toNat)) 65535 (Config.free s.free).toNat 65
  rw [← freshTicket_toNat, h] at hp
  exact absurd hp (by decide)

/-- With at most 64 tickets outstanding, one of the 65 values that are tried is none of theirs (R261). -/
theorem freshTicket_fresh {s : State} (hl : s.hart.tickets.length ≤ 64) {t : Ticket} (ht : t ∈ s.hart.tickets) :
    t.value ≠ freshTicket s := by
  intro he
  let used := s.hart.tickets.map (fun t => t.value.toNat)
  have hu : used.length ≤ 64 := by rw [List.length_map]; exact hl
  obtain ⟨i, hi, hn⟩ := exists_unused used (m := 65535) (Config.free s.free).toNat (by omega)
  have hf := freshFrom_notMem (fuel := 65) ⟨i, by omega, hn⟩
  rw [← freshTicket_toNat, ← he] at hf
  exact hf (List.mem_map.2 ⟨t, ht, rfl⟩)

/-- The specification at a physical address. -/
def specAt (s : State) (pa : Nat) : BitVec 512 := BitVec.ofNat 512 (leNat (memReadN s.mem pa 64))

/-- The launch that the executing hart asks for with a specification at a virtual address (R224). -/
def launchOf (s : State) (va : XWord) (spec : BitVec 512) : Launch :=
  { spec := spec, record := va, launcher := some (s.cur, s.nextCmd), rootHseq := none
    deps := ((specDeps spec).filter (· ≠ 0)).filterMap (fun t => (ticketOf s.hart t).map (·.cmd)), acceptedAt := s.gtime
    order := s.nextCmd, blocking := false, eligibleAt := none }

/-- Whether LAUNCH finds no room: in the queue of the class, or among the hart's tickets (R224, R357). -/
def launchRefused (s : State) (spec : BitVec 512) : Bool :=
  launchFull s.ctx (specClass spec) || decide (Config.maxTickets ≤ s.hart.tickets.length)

theorem launchRefused_iff (s : State) (spec : BitVec 512) :
    launchRefused s spec = true ↔
      32 ≤ (mgetD s.ctx.queues (launchQueue s.ctx (specClass spec)) []).length ∨ 64 ≤ s.hart.tickets.length := by
  rw [launchRefused, launchFull, Bool.or_eq_true, decide_eq_true_iff, decide_eq_true_iff]
  rfl

/-- The machine once a launch is queued, its ticket not yet in a register. -/
def State.launched (s : State) (va : XWord) (spec : BitVec 512) : State :=
  (s.issued 11 7 .launch [] []).enqueue s.hart.ctx (launchOf s va spec)

/-- With its buffer empty a hart's loads see memory. -/
theorem seenBytes_empty {s : State} (h : s.regs.storeBuf = []) (pa n : Nat) : seenBytes s pa n = memReadN s.mem pa n := by
  rw [seenBytes, h]
  rfl

/-- What LAUNCH of a good specification does, once the specification is read. -/
theorem exec_launch_reads {s u : State} {d a : BitVec 5} {pa : Nat} (h : MayCommit s)
    (hl : loadBytes s.committed .read (s.x a) 64 64 0 = .ok (memReadN s.committed.mem pa 64, u)) (hu : u.hart = s.committed.hart)
    (hb : specBad (specAt s.committed pa) = false)
    (hk : ((specDeps (specAt s.committed pa)).filter (· ≠ 0)).any (fun t => (ticketOf u.hart t).isNone) = false) :
    (launchRefused u (specAt s.committed pa) = true → SetsIn (exec (.launch d a) s) u d 0) ∧
      (launchRefused u (specAt s.committed pa) = false →
        SetsIn (exec (.launch d a) s) (u.launched (s.x a) (specAt s.committed pa)) d ((freshTicket u).setWidth 64)) := by
  have hx : s.committed.x a = s.x a := committed_x s a
  have h1 : u.hart.tl = 0 := (congrArg Hart.tl hu).trans (committed_tl h)
  have h2 : u.hart.early = false := (congrArg Hart.early hu).trans (committed_early s)
  have h3 : u.hart.regs.storeBuf = [] := (congrArg (·.regs.storeBuf) hu).trans (committed_buf s)
  rw [exec_launch]
  refine ⟨fun hf => irreversible_setsIn h ?_ h1 h2 h3, fun hf => irreversible_setsIn h ?_ h1 h2 h3⟩
  all_goals
    unfold launchRefused at hf
    unfold specAt at hb hk hf
    simp only [hx, hl, bind, Except.bind, pure, Except.pure, hb, hk, hf, illegalWhen, Bool.false_eq_true, if_false, if_true, keepFinds]
  rfl

end Machine
end Sys2Proof

open Sys2Proof Sys2Proof.Machine

/-- Settles O13: the read of the specification, then the launch that it finds room for or not; of 65 ticket values in turn one is free. -/
theorem launches : Obligations.Launches := by
  refine ⟨fun s d a pa h _ hr _ => ?_, fun s hl => ⟨freshTicket_ne_zero s, fun t ht => freshTicket_fresh hl ht⟩⟩
  intro c spec named known cls q full hb hk
  obtain ⟨u, hload, hf⟩ := loadBytes_ok hr
  rw [seenBytes_empty (committed_buf s)] at hload
  have hhart : u.hart = s.committed.hart := hf.hart
  have htickets : u.hart.tickets = s.hart.tickets := (congrArg Hart.tickets hhart).trans (by rw [committed_hart])
  have hctx : u.ctx = s.committed.ctx := by rw [hf.2]; rfl
  have hcur : u.cur = s.cur := (congrArg State.cur hf.2).trans (committed_cur s)
  have hgtime : u.gtime = s.gtime := (congrArg State.gtime hf.2).trans (committed_gtime s)
  have hnext : u.nextCmd = s.committed.nextCmd := (congrArg State.nextCmd hf.2).trans rfl
  have hctxId : u.hart.ctx = s.hart.ctx := (congrArg Hart.ctx hhart).trans (by rw [committed_hart])
  have hgang : u.hart.gang = s.hart.gang := (congrArg Hart.gang hhart).trans (by rw [committed_hart])
  have hknown : named.any (fun t => (ticketOf u.hart t).isNone) = false := by
    rw [List.any_eq_false]
    intro v hv
    have hs := hk v hv
    rw [ticketOf, htickets, Bool.not_eq_true, Option.isNone_eq_false_iff]
    exact hs
  obtain ⟨hfull, hroom⟩ := exec_launch_reads (d := d) h hload hhart hb hknown
  have hiff : launchRefused u spec = true ↔ full := by
    rw [launchRefused_iff, hctx, htickets]
    exact Iff.rfl
  refine ⟨u, ?_, hhart, fun hq => hfull (hiff.2 hq), fun hq => ?_⟩
  · have ⟨hfound, heq⟩ := hf
    exact ⟨fun a => by rw [hf.mem], hfound, by rw [heq]⟩
  · have hs := hroom (Bool.eq_false_iff.2 (fun e => hq (hiff.1 e)))
    intro v l k w
    have hl : launchOf u (s.x a) (specAt s.committed pa) = l := by
      simp only [launchOf, ticketOf, htickets, hcur, hgtime, hnext]
      rfl
    have hcmd : { k with hart := u.cur, core := u.coreId, ctx := u.hart.ctx, gang := u.hart.gang } = k := by
      simp only [State.coreId, hcur, hctxId, hgang]
      rfl
    have hw : u.issued 11 7 .launch [] [] = w := by
      rw [State.issued, hcmd]
    rw [State.launched, hl, hw, hctxId, State.enqueue] at hs
    have hwc : w.ctxAt s.hart.ctx = u.ctx := by rw [State.ctx, hctxId]; rfl
    have hq : launchQueue u.ctx (specClass l.spec) = q := by rw [hctx]; rfl
    rw [hwc, hq] at hs
    exact hs
end

section
/-! CERTIFICATES. Ordered accesses and atomics (O6). -/

namespace Sys2Proof
namespace Machine

/-! ### Bytes of a value, and of its low bits -/

theorem ofNat_div_mod {n j v : Nat} (h : j < n) : BitVec.ofNat 8 (v % 2 ^ (8 * n) / 256 ^ j) = BitVec.ofNat 8 (v / 256 ^ j) := by
  obtain ⟨k, rfl⟩ : ∃ k, n = j + 1 + k := ⟨n - (j + 1), by omega⟩
  have hp : 2 ^ (8 * (j + 1 + k)) = 256 ^ j * (2 ^ 8 * 256 ^ k) := by
    rw [Nat.pow_mul, Nat.pow_add, Nat.pow_succ, Nat.mul_assoc]
  refine BitVec.eq_of_toNat_eq ?_
  rw [BitVec.toNat_ofNat, BitVec.toNat_ofNat, hp, Nat.mod_mul_right_div_self, Nat.mod_mul_right_mod]

/-- Little-endian bytes depend on no higher bit of the value. -/
theorem leBytes_mod (n v : Nat) : leBytes n (v % 2 ^ (8 * n)) = leBytes n v := by
  refine List.ext_getElem? fun j => ?_
  by_cases hj : j < n
  · rw [leBytes_get _ _ _ hj, leBytes_get _ _ _ hj, ofNat_div_mod hj]
  · rw [List.getElem?_eq_none (by rw [leBytes_length]; omega), List.getElem?_eq_none (by rw [leBytes_length]; omega)]

theorem byteAfter_mod (m : List Host.Cell) (pa n v a : Nat) : byteAfter m pa n (some (v % 2 ^ (8 * n))) a = byteAfter m pa n (some v) a := by
  unfold byteAfter
  dsimp only
  split
  · next h => exact ofNat_div_mod (by omega)
  · rfl

theorem WritesHome.mod {r : Result} {s : State} {acq : Bool} {d : BitVec 5} {v : XWord} {pa n w : Nat}
    (h : WritesHome r s acq d v pa n (some w)) : WritesHome r s acq d v pa n (some (w % 2 ^ (8 * n))) := by
  unfold WritesHome at h ⊢
  simp only [byteAfter_mod, leBytes_mod]
  exact h

/-! ### The operations of Table 10.1 -/

theorem memReadN_lt (m : List Host.Cell) (pa n : Nat) : leNat (memReadN m pa n) < 2 ^ (8 * n) := by
  have h := leNat_lt (memReadN m pa n)
  rw [memReadN_length, show 256 = 2 ^ 8 from rfl, ← Nat.pow_mul] at h
  exact h

/-- The signed reading of a value of the width. -/
theorem amoInt_eq {w : Bool} {v : Nat} (hv : v < 2 ^ (8 * widthOf w)) :
    amoInt w v = if v < 2 ^ (8 * widthOf w) / 2 then (v : Int) else v - (2 ^ (8 * widthOf w) : Nat) := by
  have h64 : v < 2 ^ 64 := by cases w <;> simp only [widthOf, if_true, Bool.false_eq_true, if_false] at hv <;> omega
  have hx : (xword v).toNat = v := Nat.mod_eq_of_lt h64
  cases w
  all_goals
    simp only [widthOf, if_true, Bool.false_eq_true, if_false] at hv ⊢
    simp only [amoInt, widthOf, intOf, hx, Bool.true_and, decide_eq_true_eq, if_true, Bool.false_eq_true, if_false]
    rw [Nat.mod_eq_of_lt hv]
    split <;> split <;> omega

theorem FpFmt.top_add (f : FpFmt) : f.top + 2 ^ f.fb = 2 ^ (f.eb + f.fb) := by
  have h : 1 ≤ 2 ^ f.eb := Nat.one_le_two_pow
  rw [FpFmt.top, ← Nat.succ_mul, Nat.succ_eq_add_one, Nat.sub_add_cancel h, Nat.pow_add]

/-- A sign over a magnitude up to infinity's is one of the format's encodings. -/
theorem FpFmt.sign_add_lt (f : FpFmt) (neg : Bool) {mag : Nat} (h : mag ≤ f.top) : f.sign neg + mag < 2 ^ f.bits := by
  have ht := f.top_add
  have hp : 0 < 2 ^ f.fb := Nat.two_pow_pos _
  have hb : 2 ^ f.bits = 2 * 2 ^ (f.eb + f.fb) := by rw [FpFmt.bits, Nat.add_assoc, Nat.pow_add]
  have hs : f.sign neg ≤ 2 ^ (f.eb + f.fb) := by unfold FpFmt.sign; split <;> omega
  omega

theorem capped_le (top mag : Nat) : (if top ≤ mag then top - 1 else mag) ≤ top := by
  split <;> omega

theorem fst_ite_lt {α : Type} {c : Prop} [Decidable c] {p q : Nat × α} {n : Nat} (hp : p.1 < n) (hq : q.1 < n) :
    (if c then p else q).1 < n := by
  split <;> assumption

/-- A rounding of a value that is no NaN is an encoding of the format. -/
theorem roundCore_lt (f : FpFmt) (r : Rnd) {v : Val} (hv : v ≠ .nan) : (roundCore f r v).1 < 2 ^ f.bits := by
  match v with
  | .nan => exact absurd rfl hv
  | .inf neg => exact f.sign_add_lt neg (Nat.le_refl _)
  | .fin neg m e =>
    have ht : f.top - 1 ≤ f.top := Nat.sub_le _ _
    rw [roundCore]
    refine fst_ite_lt (f.sign_add_lt neg (Nat.zero_le _)) (fst_ite_lt ?_ (f.sign_add_lt neg (capped_le _ _)))
    rw [overflowBits_eq]
    refine f.sign_add_lt neg ?_
    split
    · exact ht
    · exact Nat.le_refl _

theorem maxNum_ne_nan {a b : Val} (ha : a ≠ .nan) (hb : b ≠ .nan) : a.maxNum b ≠ .nan := by
  unfold Val.maxNum
  split
  · exact hb
  · exact ha
  · split
    · exact hb
    · split
      · exact ha
      · split
        · split
          · exact hb
          · exact ha
        · exact ha

/-- AMO.FMAX writes the canonical NaN, or the greater value's encoding. -/
theorem fmaxBits_eq (x y : Nat) :
    fmaxBits x y = if fp32.val x = .nan ∨ fp32.val y = .nan then 0x7FC00000
      else (roundCore fp32 Rnd.rne ((fp32.val x).maxNum (fp32.val y))).1 := by
  unfold fmaxBits
  simp only [Bool.or_eq_true, beq_iff_eq]
  rfl

theorem fmaxBits_lt (x y : Nat) : fmaxBits x y < 2 ^ 32 := by
  rw [fmaxBits_eq]
  split
  · decide
  · next h =>
    obtain ⟨hx, hy⟩ := not_or.1 h
    exact roundCore_lt fp32 _ (maxNum_ne_nan hx hy)

theorem extW_eq (w : Bool) : extW w = fun v => if w then xword v else (BitVec.ofNat 32 v).signExtend 64 := by
  funext v
  rw [extW, sext_xword (by decide)]

/-! ### LD.ACQ (R208, R211) -/

theorem ldAcq_sets {s : State} {d a : BitVec 5} {sc : BitVec 3} {w : Bool} {pa : Nat} (h : InStrip s)
    (ho : OrderedAt s .read (s.x a) (widthOf w) sc pa) :
    SetsByAccess (exec (.ldAcq d a sc w) s) s d (extW w (leNat (seenBytes s pa (widthOf w)))) := by
  obtain ⟨u, hu⟩ := ho
  have hf := orderedAccess_frame hu
  have ht : InStrip (u.setX d (extW w (leNat (seenBytes s pa (widthOf w))))) := h.of (by simp [hf.hart]) (by simp [hf.hart]) (by simp [hf.hart])
  rw [exec_ldAcq]
  refine ⟨_, ordinary_next ht ?_, ⟨rfl, fun r hr => ?_⟩, ?_, ?_, ?_, ?_⟩
  · simp only [hu, bind, Except.bind, pure, Except.pure, hf.seenBytes]
  · have := readX_writeX s.regs d r (extW w (leNat (seenBytes s pa (widthOf w))))
    rw [if_neg hr] at this
    have hx : (u.setX d (extW w (leNat (seenBytes s pa (widthOf w))))).advance.retired.x r =
        readX (writeX u.regs d (extW w (leNat (seenBytes s pa (widthOf w))))) r := rfl
    rw [hx, State.regs, hf.hart]
    exact this
  · simp [State.retired, hf.hart]
  · simp [OnlyX, State.retired, hf.hart]
  · intro a; simp [State.retired, hf.mem]
  · refine ⟨hf.1, ?_⟩
    rw [hf.2]; rfl

/-! ### WAITADDR at a peer window (R15, R222) -/

theorem orderedAccess_peer {s u : State} {va : XWord} {n pa : Nat} {sc : BitVec 3} (h : access s .read va n 0 = .ok (pa, u))
    (hp : Config.peerBase ≤ pa) (hsc : sc ≠ 4) :
    orderedAccess s .read va n sc =
      .error (.trap { code := cPROT, tv := va, found := u.finds, drawn := u.free }) := by
  have hu : u.setHart s.hart = u := by rw [← (access_frame h).hart]; rfl
  have hcond : Config.peerBase ≤ pa ∧ sc ≠ 4 := ⟨hp, hsc⟩
  simp only [orderedAccess, if_true, h, bind, Except.bind, hu, if_pos hcond, protFault, keepFinds, List.append_nil, Nat.max_zero]
  rfl

theorem exec_waitaddr_peer {s u : State} {d a b : BitVec 5} {sc : BitVec 3} {pa : Nat} (h : MayCommit s) (ht : Traps s)
    (hu : access s.committed .read (s.x a) 8 0 = .ok (pa, u)) (hp : Config.peerBase ≤ pa) (hsc : sc ≠ 4) :
    let tr : Trap := { code := cPROT, tv := s.x a, found := u.finds, drawn := u.free }
    ∃ t, exec (.waitaddr d a b sc) s = .next t ∧ EntersTrap (s.committed.noting tr).discard t tr true 0 s.regs.pc := by
  intro tr
  have hx : s.committed.x a = s.x a := committed_x s a
  have hstop : exec (.waitaddr d a b sc) s = takeTrap s.committed tr := by
    rw [exec_waitaddr, execWaitaddr, preCommit_ok h]
    dsimp only
    rw [hx, orderedAccess_peer hu hp hsc]
    rfl
  have hpc : s.committed.hart.ckpt.pc = s.regs.pc := by rw [committed_hart]; rfl
  rw [hstop, ← hpc]
  exact takeTrap_restart_noting ht.committed h.committed.2.1 (heldByLeader_other (show cPROT ≠ cXLAT by decide)) rfl

/-- ST.REL writes the low bits of x[rb]. -/
theorem stRel_writes {s : State} {a b : BitVec 5} {sc : BitVec 3} {w : Bool} {pa : Nat} (h : MayCommit s) (hw : Memory.wf s.mem = true)
    (hp : PortUp s pa) (h1 : pa % widthOf w = 0) (ho : OrderedAt s.committed .write (s.x a) (widthOf w) sc pa) :
    WritesHome (exec (.stRel a b sc w) s) s false 0 0 pa (widthOf w) (some ((s.x b).toNat % 2 ^ (8 * widthOf w))) := by
  rw [exec_stRel]
  exact (stRel_home h hw hp h1 ho).mod

/-- The operations of Table 10.1 that always write, each with what it writes of the old value and x[rb]'s low bits. -/
def amoTable (d a b : BitVec 5) (sc : BitVec 3) (w : Bool) (old y : Nat) : List (Instr × Nat) :=
  let m := 2 ^ (8 * widthOf w)
  let neg := fun (v : Nat) => if v < m / 2 then (v : Int) else v - m
  [(.amoAdd d a b sc w, (old + y) % m), (.amoAnd d a b sc w, old &&& y), (.amoOr d a b sc w, old ||| y),
    (.amoXor d a b sc w, old ^^^ y), (.amoMin d a b sc w, if neg old ≤ neg y then old else y),
    (.amoMax d a b sc w, if neg old ≤ neg y then y else old), (.amoMinu d a b sc w, min old y),
    (.amoMaxu d a b sc w, max old y), (.amoSwap d a b sc w, y)]

/-- An instruction is `amoOp` of an operation on the width's bits, which gives v of the old value and of x[rb]'s. -/
def IsAmo (d a b : BitVec 5) (sc : BitVec 3) (w : Bool) (old y : Nat) (r : Instr × Nat) : Prop :=
  ∃ f : Nat → Nat → Nat, (∀ s, exec r.1 s = amoOp d a b sc w (amoBits w f) (extW w) s) ∧ f old y % 2 ^ (8 * widthOf w) = r.2

theorem IsAmo.of_lt {d a b : BitVec 5} {sc : BitVec 3} {w : Bool} {old y v : Nat} {i : Instr} (f : Nat → Nat → Nat)
    (he : ∀ s, exec i s = amoOp d a b sc w (amoBits w f) (extW w) s) (hf : f old y = v) (hv : v < 2 ^ (8 * widthOf w)) :
    IsAmo d a b sc w old y (i, v) :=
  ⟨f, he, by rw [hf]; exact Nat.mod_eq_of_lt hv⟩

theorem isAmo_table (d a b : BitVec 5) (sc : BitVec 3) (w : Bool) {old y : Nat} (ho : old < 2 ^ (8 * widthOf w))
    (hy : y < 2 ^ (8 * widthOf w)) : ∀ r ∈ amoTable d a b sc w old y, IsAmo d a b sc w old y r := by
  have hite : ∀ (c : Prop) [Decidable c] (x z : Nat), x < 2 ^ (8 * widthOf w) → z < 2 ^ (8 * widthOf w) →
      (if c then x else z) < 2 ^ (8 * widthOf w) := fun c _ x z hx hz => by split <;> assumption
  simp only [amoTable, List.forall_mem_cons, List.not_mem_nil, false_implies, implies_true, and_true]
  refine ⟨⟨(· + ·), fun s => exec_amoAdd, rfl⟩, .of_lt (· &&& ·) (fun s => exec_amoAnd) rfl ?_, .of_lt (· ||| ·) (fun s => exec_amoOr) rfl ?_,
    .of_lt (· ^^^ ·) (fun s => exec_amoXor) rfl ?_, .of_lt _ (fun s => exec_amoMin) ?_ (hite _ _ _ ho hy),
    .of_lt _ (fun s => exec_amoMax) ?_ (hite _ _ _ hy ho), .of_lt _ (fun s => exec_amoMinu) rfl ?_,
    .of_lt _ (fun s => exec_amoMaxu) rfl ?_, .of_lt _ (fun s => exec_amoSwap) rfl hy⟩
  · exact Nat.and_lt_two_pow _ hy
  · exact Nat.or_lt_two_pow ho hy
  · exact Nat.xor_lt_two_pow ho hy
  · rw [amoInt_eq ho, amoInt_eq hy]
  · rw [amoInt_eq ho, amoInt_eq hy]
  · exact Nat.lt_of_le_of_lt (Nat.min_le_left _ _) ho
  · exact Nat.max_lt.2 ⟨ho, hy⟩

theorem amo_writes {s : State} {d a b : BitVec 5} {sc : BitVec 3} {w : Bool} {pa : Nat} (h : MayCommit s) (hw : Memory.wf s.mem = true)
    (hp : PortUp s pa) (h1 : pa % widthOf w = 0) (ho : OrderedAt s.committed .update (s.x a) (widthOf w) sc pa) :
    let old := leNat (memReadN s.committed.mem pa (widthOf w))
    ∀ r ∈ amoTable d a b sc w old ((s.x b).toNat % 2 ^ (8 * widthOf w)),
      WritesHome (exec r.1 s) s true d (extW w old) pa (widthOf w) (some r.2) := by
  intro old r hr
  obtain ⟨f, he, hv⟩ := isAmo_table d a b sc w (memReadN_lt _ _ _) (Nat.mod_lt _ (Nat.two_pow_pos _)) r hr
  rw [he, ← hv]
  exact amo_home (op := amoBits w f) h hw hp h1 ho (fun _ _ => rfl)

theorem amoCas_writes {s : State} {d a b : BitVec 5} {sc : BitVec 3} {w : Bool} {pa : Nat} (h : MayCommit s)
    (hw : Memory.wf s.mem = true) (hp : PortUp s pa) (h1 : pa % widthOf w = 0)
    (ho : OrderedAt s.committed .update (s.x a) (widthOf w) sc pa) :
    let old := leNat (memReadN s.committed.mem pa (widthOf w))
    let m := 2 ^ (8 * widthOf w)
    WritesHome (exec (.amoCas d a b sc w) s) s true d (extW w old) pa (widthOf w)
      (if old = (s.x d).toNat % m then some ((s.x b).toNat % m) else none) := by
  intro old m
  rw [← committed_x s d, exec_amoCas]
  exact amo_home (op := fun s x y => if x = (s.x d).toNat % 2 ^ (8 * widthOf w) then some y else none) h hw hp h1 ho
    (fun u hu => by simp only [State.x, State.regs, hu]; rfl)

theorem amoFmax_writes {s : State} {d a b : BitVec 5} {sc : BitVec 3} {pa : Nat} (h : MayCommit s) (hw : Memory.wf s.mem = true)
    (hp : PortUp s pa) (h1 : pa % 4 = 0) (ho : OrderedAt s.committed .update (s.x a) 4 sc pa) :
    let old := leNat (memReadN s.committed.mem pa 4)
    WritesHome (exec (.amoFmax d a b sc) s) s true d (xword old) pa 4 (some (fmaxBits old ((s.x b).toNat % 2 ^ 32))) := by
  intro old
  have hm := amo_home (w := false) (d := d) (b := b) (op := amoBits false fmaxBits) (ext := xword) h hw hp h1 ho (fun _ _ => rfl)
  rw [exec_amoFmax, ← Nat.mod_eq_of_lt (fmaxBits_lt old _)]
  exact hm

end Machine
end Sys2Proof

open Sys2Proof Sys2Proof.Machine

/-- Settles O6: LD.ACQ by its access, the writes by what `amoOp` does with an operation, the PROT by the access that finds a peer. -/
theorem atomics : Obligations.Atomics := by
  refine ⟨fun s d a sc pa h => ⟨fun ho => ?_, fun ho => ldAcq_sets (w := true) h ho⟩, fun s d a b sc w pa h hw hp => ?_,
    fun s d a b sc pa h ht u hu hpa hsc => exec_waitaddr_peer h ht hu hpa hsc⟩
  · have hs := ldAcq_sets (d := d) (w := false) h ho
    rw [extW_eq] at hs
    exact hs
  · intro n m old y ext neg h1
    have he : extW w = ext := extW_eq w
    rw [← he]
    refine ⟨fun ho => stRel_writes h hw hp h1 ho, fun ho => ⟨amo_writes h hw hp h1 ho, amoCas_writes h hw hp h1 ho⟩, ?_⟩
    rintro rfl ho
    rw [← fmaxBits_eq]
    exact amoFmax_writes h hw hp h1 ho
end

section
/-! CERTIFICATES. Control registers (O14): the table that CSRR reads, and what a write leaves of it. -/

namespace Sys2Proof
namespace Machine

/-! ### Fields of a word -/

/-- A field at its place in a word, bit `lo` on, and every other bit 0. -/
def place {n : Nat} (f : BitVec n) (lo : Nat) : XWord := f.setWidth 64 <<< lo

theorem getLsbD_place {n : Nat} (f : BitVec n) (lo j : Nat) :
    (place f lo).getLsbD j = (decide (j < 64) && decide (lo ≤ j) && f.getLsbD (j - lo)) := by
  rw [place, BitVec.getLsbD_shiftLeft, BitVec.getLsbD_setWidth]
  by_cases h : lo ≤ j
  · by_cases h64 : j < 64
    · simp [h, h64, show ¬j < lo by omega, show j - lo < 64 by omega]
    · simp [h64]
  · simp [h, show j < lo by omega]

/-- The bits of the field of n bits at `lo`. -/
def fieldMask (n lo : Nat) : XWord := place (BitVec.allOnes n) lo

theorem getLsbD_fieldMask (n lo j : Nat) :
    (fieldMask n lo).getLsbD j = (decide (j < 64) && decide (lo ≤ j) && decide (j - lo < n)) := by
  rw [fieldMask, getLsbD_place, BitVec.getLsbD_allOnes]

/-- A field as a number, at its place. -/
theorem xword_mul_field {n : Nat} (lo : Nat) (f : BitVec n) : xword (2 ^ lo * f.toNat) = place f lo := by
  refine BitVec.eq_of_toNat_eq ?_
  rw [place, BitVec.toNat_shiftLeft, BitVec.toNat_setWidth, Nat.shiftLeft_eq, Nat.mod_mul_mod, Nat.mul_comm]
  rfl

theorem xword_field {n : Nat} (f : BitVec n) : xword f.toNat = place f 0 := by
  rw [← xword_mul_field, Nat.pow_zero, Nat.one_mul]

theorem xword_boolBit (b : Bool) (i : Nat) : xword (boolBit b i) = place (BitVec.ofBool b) i := by
  rw [← xword_mul_field]
  cases b
  · rfl
  · exact congrArg xword (Nat.mul_one _).symm

/-- Two words with no bit in common. -/
theorem xword_add {a b : Nat} (h : xword a &&& xword b = 0#64) : xword (a + b) = xword a ||| xword b := by
  rw [← BitVec.add_eq_or_of_and_eq_zero _ _ h]
  exact BitVec.ofNat_add a b

/-- A field's bits are those of its mask. -/
theorem place_and_mask {n : Nat} (f : BitVec n) (lo : Nat) : place f lo &&& fieldMask n lo = place f lo := by
  refine BitVec.eq_of_getLsbD_eq fun j _ => ?_
  rw [BitVec.getLsbD_and, getLsbD_place, getLsbD_fieldMask]
  by_cases h : j - lo < n
  · cases f.getLsbD (j - lo) <;> simp [h]
  · simp [h, BitVec.getLsbD_of_ge f (j - lo) (by omega)]

theorem place_and_of_le {n : Nat} (f : BitVec n) {lo : Nat} {m : XWord} (h : fieldMask n lo &&& m = fieldMask n lo) :
    place f lo &&& m = place f lo := by
  rw [← place_and_mask, BitVec.and_assoc, h]

/-- A field has no bit in common with what lies outside its mask. -/
theorem place_and_eq_zero {n : Nat} (f : BitVec n) {lo : Nat} {m : XWord} (h : fieldMask n lo &&& m = 0#64) : place f lo &&& m = 0#64 := by
  rw [← place_and_mask, BitVec.and_assoc, h, BitVec.and_zero]

theorem place_and_place {n k : Nat} (f : BitVec n) (g : BitVec k) {lo hi : Nat} (h : fieldMask n lo &&& fieldMask k hi = 0#64) :
    place f lo &&& place g hi = 0#64 := by
  refine place_and_eq_zero f ?_
  rw [BitVec.and_comm]
  exact place_and_eq_zero g (by rw [BitVec.and_comm]; exact h)

/-- A field taken from a word, back at its place. -/
theorem place_field (n lo : Nat) (v : XWord) : place (BitVec.ofNat n (xbits v lo n)) lo = v &&& fieldMask n lo := by
  refine BitVec.eq_of_getLsbD_eq fun j hj => ?_
  rw [BitVec.getLsbD_and, getLsbD_place, getLsbD_fieldMask, BitVec.getLsbD_ofNat, xbits, bitsAt, Nat.testBit_mod_two_pow,
    Nat.testBit_div_two_pow]
  by_cases h : lo ≤ j
  · rw [show j - lo + lo = j by omega, ← BitVec.getLsbD]
    simp [h, hj, Bool.and_comm]
  · simp [h]

theorem place_setWidth (n : Nat) (v : XWord) : place (v.setWidth n) 0 = v &&& fieldMask n 0 := by
  rw [← place_field]
  congr 1
  refine BitVec.eq_of_toNat_eq ?_
  simp [xbits, bitsAt]

theorem place_bit (i : Nat) (v : XWord) : place (BitVec.ofBool (v.getLsbD i)) i = v &&& fieldMask 1 i := by
  rw [← place_field]
  congr 1
  refine BitVec.eq_of_toNat_eq ?_
  rw [BitVec.toNat_ofBool, xbits, bitsAt, BitVec.toNat_ofNat, BitVec.getLsbD, Nat.mod_mod, Nat.pow_one, Nat.toNat_testBit]

/-- A word of written fields `p`, under the mask m, and fields `q` that are kept, after a write of v. -/
theorem written_fields {p q m v : XWord} (hp : p &&& m = p) (hq : q &&& m = 0#64) :
    (v &&& m) ||| q = ((p ||| q) &&& ~~~m) ||| (v &&& m) := by
  have h1 : p &&& ~~~m = 0#64 := by rw [← hp, BitVec.and_assoc, BitVec.and_not_self]; exact BitVec.and_zero
  have h2 : q &&& ~~~m = q := by
    refine BitVec.eq_of_getLsbD_eq fun j hj => ?_
    have hj' := congrArg (BitVec.getLsbD · j) hq
    simp only [BitVec.getLsbD_and, BitVec.getLsbD_not, hj, decide_true, Bool.true_and] at hj' ⊢
    cases hqj : q.getLsbD j <;> simp_all
  rw [BitVec.and_or_distrib_right, h1, h2, BitVec.zero_or, BitVec.or_comm]

/-- A register of one field. -/
theorem written_field {n lo : Nat} (f g : BitVec n) {m v : XWord} (hm : fieldMask n lo = m) (hg : place g lo = v &&& m) :
    place g lo = (place f lo &&& ~~~m) ||| (v &&& m) := by
  have h := written_fields (q := 0#64) (v := v) (hm ▸ place_and_mask f lo) BitVec.zero_and
  rw [BitVec.or_zero, BitVec.or_zero] at h
  exact hg.trans h

/-! ### The table of control registers (Table 10.4) -/

/-- What CSRR reads, by register number. -/
def csrTable (s : State) : List (Nat × Nat) :=
  let h := s.hart
  let r := h.regs
  [(0x000, r.vl), (0x001, r.vr), (0x002, h.vlmax), (0x003, r.gcode.toNat + boolBit r.tailZero 2), (0x008, h.scp.toNat),
    (0x009, r.pfxFields.toNat + boolBit r.pfxValid 32), (0x00A, r.frm.toNat), (0x00B, r.fflags.toNat), (0x00C, r.seed.toNat),
    (0x010, s.gtime), (0x012, h.stampx.toNat), (0x013, h.cyb.toNat), (0x014, h.lat.toNat),
    (0x015, h.tspanOff.toNat + 2 ^ 6 * h.tspanLen.toNat), (0x020, Config.mtile), (0x021, 2 ^ 7 * h.mwb.toNat),
    (0x030, h.tl.toNat + boolBit h.eft 2), (0x031, 2 ^ 10 * h.thb.toNat), (0x032, tcWord h.t1), (0x033, h.t1.tp.toNat),
    (0x034, h.t1.tv.toNat), (0x035, tsWord h.t1), (0x036, tcWord h.t2), (0x037, h.t2.tp.toNat), (0x038, h.t2.tv.toNat),
    (0x039, tsWord h.t2), (0x040, h.ctx + 2 ^ 16 * s.ctx.asid.toNat), (0x041, s.slotId), (0x042, (s.gidOf h.gang).toNat),
    (0x043, match s.gang? with | some g => g.size | none => 0), (0x044, h.memberIdx), (0x050, vownWord s.core)]

theorem csrRead_eq_lookup (s : State) (c : BitVec 12) : csrRead s c = xword (((csrTable s).lookup c.toNat).getD 0) := by
  unfold csrRead
  dsimp only
  split
  case h_33 =>
    rw [List.lookup_eq_none_iff.2 fun p hp => ?_]
    · rfl
    · revert p
      simp only [csrTable, List.forall_mem_cons, List.not_mem_nil, false_implies, implies_true, and_true, bne_iff_ne, ne_eq]
      and_intros <;> assumption
  all_goals
    rename_i heq
    rw [heq]
    rfl

/-- The rows of a table but one. -/
def rowsBut (k : Nat) (l : List (Nat × Nat)) : List (Nat × Nat) := l.filter (fun p => p.1 != k)

theorem lookup_rowsBut {k j : Nat} (h : j ≠ k) (l : List (Nat × Nat)) : (rowsBut k l).lookup j = l.lookup j := by
  induction l with
  | nil => rfl
  | cons p l ih =>
    obtain ⟨i, v⟩ := p
    by_cases hi : i = k
    · rw [rowsBut, List.filter_cons_of_neg (by simp [hi]), List.lookup_cons, show (j == i) = false by simp [hi, h]]
      exact ih
    · rw [rowsBut, List.filter_cons_of_pos (by simp [hi]), List.lookup_cons, List.lookup_cons]
      split
      · rfl
      · exact ih

/-- Only SCP of the control registers changes where only the marks of a convoy, the strip and x do. -/
theorem csrRead_reopened (s : State) (d : BitVec 5) (v : XWord) {e : BitVec 12} (he : e ≠ 0x008) :
    csrRead (s.setX d v).advance.reopened e = csrRead s e := by
  have hn : e.toNat ≠ 8 := fun h => he (BitVec.eq_of_toNat_eq h)
  have ht : rowsBut 8 (csrTable (s.setX d v).advance.reopened) = rowsBut 8 (csrTable s) := by
    rw [State.setX, writeX_eq]
    rfl
  rw [csrRead_eq_lookup, csrRead_eq_lookup, ← lookup_rowsBut hn, ht, lookup_rowsBut hn]

theorem csrRead_retired (s : State) (d : BitVec 5) (v : XWord) (e : BitVec 12) : csrRead (s.setX d v).advance.retired e = csrRead s e := by
  have ht : csrTable (s.setX d v).advance.retired = csrTable s := by
    rw [State.setX, writeX_eq]
    rfl
  rw [csrRead_eq_lookup, csrRead_eq_lookup, ht]

/-! ### Writes -/

/-- A write leaves every other register as it was. -/
theorem rowsBut_csrWrite (s : State) (c : BitVec 12) (v : XWord) :
    rowsBut c.toNat (csrTable (csrWrite s c v)) = rowsBut c.toNat (csrTable s) := by
  unfold csrWrite
  split
  case h_2 heq =>
    rw [heq]
    split <;> rfl
  case h_18 => rfl
  all_goals
    rename_i heq
    rw [heq]
    rfl

theorem csrRead_csrWrite_other (s : State) {c e : BitVec 12} (v : XWord) (he : e ≠ c) : csrRead (csrWrite s c v) e = csrRead s e := by
  have hn : e.toNat ≠ c.toNat := fun h => he (BitVec.eq_of_toNat_eq h)
  rw [csrRead_eq_lookup, csrRead_eq_lookup, ← lookup_rowsBut hn, rowsBut_csrWrite, lookup_rowsBut hn]

/-- What a write can change. -/
theorem csrWrite_frame (s : State) (c : BitVec 12) (v : XWord) :
    csrWrite s c v = s.setHart { s.hart with
      regs := { s.regs with
        frm := (csrWrite s c v).regs.frm, fflags := (csrWrite s c v).regs.fflags, seed := (csrWrite s c v).regs.seed
        gens := (csrWrite s c v).regs.gens, pfxFields := (csrWrite s c v).regs.pfxFields, pfxValid := (csrWrite s c v).regs.pfxValid }
      stampx := (csrWrite s c v).hart.stampx, cyb := (csrWrite s c v).hart.cyb, lat := (csrWrite s c v).hart.lat
      tspanOff := (csrWrite s c v).hart.tspanOff, tspanLen := (csrWrite s c v).hart.tspanLen, mwb := (csrWrite s c v).hart.mwb
      eft := (csrWrite s c v).hart.eft, thb := (csrWrite s c v).hart.thb, t1 := (csrWrite s c v).hart.t1
      t2 := (csrWrite s c v).hart.t2 } := by
  unfold csrWrite
  split
  case h_2 => split <;> rfl
  all_goals rfl

/-- The generators change with SEED alone (R60). -/
theorem csrWrite_gens (s : State) (c : BitVec 12) (v : XWord) :
    (csrWrite s c v).regs.gens = if c = 0x00C then seedGens (v.setWidth 32) else s.regs.gens := by
  by_cases hc : c = 0x00C
  · subst hc
    rfl
  · have hn : c.toNat ≠ 12 := fun h => hc (BitVec.eq_of_toNat_eq h)
    rw [if_neg hc]
    unfold csrWrite
    split
    case h_2 => split <;> rfl
    case h_4 heq => exact absurd heq hn
    all_goals rfl

theorem gen_seedGens (seed : BitVec 32) {l : Nat} (hl : l < 64) :
    gen (seedGens seed) l =
      let g := seed ^^^ BitVec.ofNat 32 (l * 0x9E3779B9)
      if g = 0 then 1 else g := by
  rw [gen, seedGens, Nat.mod_eq_of_lt hl]
  simp [hl]

/-- The bits of a register that a write of v changes: a rounding mode and a TSPAN length out of range are not written. -/
def csrMask (c : BitVec 12) (v : XWord) : XWord :=
  if c = 0x00A ∧ 6 ≤ v.toNat % 8 then 0
  else if c = 0x015 ∧ 64 < v.toNat / 2 ^ 6 % 2 ^ 7 then 0x3F else csrWritable c.toNat

/-- A register is written under its mask. -/
def Merges (s : State) (c : BitVec 12) (v : XWord) : Prop :=
  csrRead (csrWrite s c v) c = (csrRead s c &&& ~~~csrMask c v) ||| (v &&& csrMask c v)

theorem merges_readOnly {s : State} {c : BitVec 12} {v : XWord} (hw : csrWrite s c v = s) (hm : csrMask c v = 0#64) : Merges s c v := by
  rw [Merges, hw, hm, BitVec.not_zero, BitVec.and_allOnes, BitVec.and_zero, BitVec.or_zero]

theorem merges_field {s : State} {c : BitVec 12} {v : XWord} {n lo : Nat} {f g : BitVec n} (hr : csrRead s c = place f lo)
    (hw : csrRead (csrWrite s c v) c = place g lo) (hg : place g lo = v &&& fieldMask n lo) (hm : csrMask c v = fieldMask n lo) :
    Merges s c v := by
  rw [Merges, hr, hw, hm]
  exact written_field f g rfl hg

/-- A register of a written part and a part that is kept. -/
theorem merges_fields {s : State} {c : BitVec 12} {v p q : XWord} (hr : csrRead s c = p ||| q)
    (hw : csrRead (csrWrite s c v) c = (v &&& csrMask c v) ||| q) (hp : p &&& csrMask c v = p) (hq : q &&& csrMask c v = 0#64) :
    Merges s c v := by
  rw [Merges, hr, hw]
  exact written_fields hp hq

/-- A register of two fields as numbers. -/
theorem xword_fields {n k : Nat} (f : BitVec n) (g : BitVec k) {hi : Nat} (h : fieldMask n 0 &&& fieldMask k hi = 0#64) :
    xword (f.toNat + 2 ^ hi * g.toNat) = place f 0 ||| place g hi := by
  rw [xword_add (by rw [xword_field, xword_mul_field]; exact place_and_place f g h), xword_field, xword_mul_field]

theorem xword_field_bit {n : Nat} (f : BitVec n) (b : Bool) {i : Nat} (h : fieldMask n 0 &&& fieldMask 1 i = 0#64) :
    xword (f.toNat + boolBit b i) = place f 0 ||| place (BitVec.ofBool b) i := by
  rw [xword_add (by rw [xword_field, xword_boolBit]; exact place_and_place f _ h), xword_field, xword_boolBit]

theorem merges_pfxs (s : State) (v : XWord) : Merges s 0x009 v := by
  have hm : csrMask 0x009 v = fieldMask 25 0 ||| fieldMask 1 32 := rfl
  have hd : fieldMask 25 0 &&& fieldMask 1 32 = 0#64 := rfl
  have hr : csrRead s 0x009 = (place s.regs.pfxFields 0 ||| place (BitVec.ofBool s.regs.pfxValid) 32) ||| 0#64 :=
    (xword_field_bit _ _ hd).trans BitVec.or_zero.symm
  refine merges_fields hr ?_ ?_ BitVec.zero_and
  · rw [hm, BitVec.or_zero, BitVec.and_or_distrib_left, ← place_setWidth, ← place_bit]
    exact xword_field_bit _ _ hd
  · rw [hm, BitVec.and_or_distrib_right, place_and_of_le _ rfl, place_and_of_le _ rfl]

theorem merges_frm (s : State) (v : XWord) : Merges s 0x00A v := by
  by_cases h : 6 ≤ v.toNat % 8
  · have hw : ¬xbits v 0 3 < 6 := by simpa [xbits, bitsAt] using h
    exact merges_readOnly (if_neg hw) (if_pos ⟨rfl, h⟩)
  · have hw : xbits v 0 3 < 6 := by simpa [xbits, bitsAt] using h
    have he : csrWrite s 0x00A v = s.setRegs { s.regs with frm := v.setWidth 3 } := if_pos hw
    refine merges_field (xword_field s.regs.frm) ?_ (place_setWidth 3 v) ?_
    · rw [he]
      exact xword_field _
    · exact if_neg (fun hc => h hc.2)

theorem merges_tspan (s : State) (v : XWord) : Merges s 0x015 v := by
  have hd : fieldMask 6 0 &&& fieldMask 7 6 = 0#64 := rfl
  have hr : csrRead s 0x015 = place s.hart.tspanOff 0 ||| place s.hart.tspanLen 6 := xword_fields _ _ hd
  have hx : xbits v 6 7 = v.toNat / 2 ^ 6 % 2 ^ 7 := rfl
  by_cases h : 64 < v.toNat / 2 ^ 6 % 2 ^ 7
  · have hm : csrMask 0x015 v = fieldMask 6 0 := (if_neg (fun hc => absurd hc.1 (by decide))).trans (if_pos ⟨rfl, h⟩)
    have he : csrWrite s 0x015 v = s.setHart { s.hart with tspanOff := v.setWidth 6 } := by
      refine congrArg s.setHart (congrArg (fun l => ({ s.hart with tspanOff := v.setWidth 6, tspanLen := l } : Hart)) (if_neg ?_))
      rw [hx]
      exact Nat.not_le.2 h
    refine merges_fields hr ?_ ?_ ?_
    · rw [he, hm, ← place_setWidth]
      exact xword_fields _ _ hd
    · rw [hm, place_and_mask]
    · rw [hm]
      exact place_and_eq_zero _ rfl
  · have hm : csrMask 0x015 v = fieldMask 6 0 ||| fieldMask 7 6 :=
      (if_neg (fun hc => absurd hc.1 (by decide))).trans (if_neg (fun hc => h hc.2))
    have he : csrWrite s 0x015 v = s.setHart { s.hart with tspanOff := v.setWidth 6, tspanLen := BitVec.ofNat 7 (xbits v 6 7) } := by
      refine congrArg s.setHart (congrArg (fun l => ({ s.hart with tspanOff := v.setWidth 6, tspanLen := l } : Hart)) (if_pos ?_))
      rw [hx]
      exact Nat.not_lt.1 h
    refine merges_fields (hr.trans BitVec.or_zero.symm) ?_ ?_ BitVec.zero_and
    · rw [he, hm, BitVec.or_zero, BitVec.and_or_distrib_left, ← place_setWidth, ← place_field]
      exact xword_fields _ _ hd
    · rw [hm, BitVec.and_or_distrib_right, place_and_of_le _ rfl, place_and_of_le _ rfl]

theorem merges_tl (s : State) (v : XWord) : Merges s 0x030 v := by
  have hm : csrMask 0x030 v = fieldMask 1 2 := rfl
  have hd : fieldMask 2 0 &&& fieldMask 1 2 = 0#64 := rfl
  have hr : csrRead s 0x030 = place (BitVec.ofBool s.hart.eft) 2 ||| place s.hart.tl 0 :=
    (xword_field_bit _ _ hd).trans (BitVec.or_comm _ _)
  refine merges_fields hr ?_ (place_and_mask _ _) (place_and_eq_zero _ hd)
  rw [hm, ← place_bit]
  exact (xword_field_bit _ _ hd).trans (BitVec.or_comm _ _)

/-- TS as its fields. -/
theorem xword_tsWord (t : TrapRegs) :
    xword (tsWord t) = (place t.pfx 0 ||| place (BitVec.ofBool t.pfxv) 25) ||| place t.ptl 26 := by
  have hb := xword_field_bit (i := 25) t.pfx t.pfxv rfl
  rw [tsWord, xword_add, hb, xword_mul_field]
  rw [hb, xword_mul_field, BitVec.and_or_distrib_right, place_and_place _ _ rfl, place_and_place _ _ rfl, BitVec.or_zero]

theorem merges_ts {s : State} {c : BitVec 12} {v : XWord} {t : TrapRegs} (hr : csrRead s c = xword (tsWord t))
    (hw : csrRead (csrWrite s c v) c = xword (tsWord (trapRegWrite t 3 v))) (hm : csrMask c v = fieldMask 25 0 ||| fieldMask 1 25) :
    Merges s c v := by
  rw [xword_tsWord] at hr hw
  refine merges_fields hr ?_ ?_ ?_
  · rw [hw, hm, BitVec.and_or_distrib_left, ← place_setWidth, ← place_bit]
    rfl
  · rw [hm, BitVec.and_or_distrib_right, place_and_of_le _ rfl, place_and_of_le _ rfl]
  · rw [hm]
    exact place_and_eq_zero _ rfl

/-- The registers that a context may access. -/
def contextCsrs : List Nat :=
  [0x000, 0x001, 0x002, 0x003, 0x008, 0x009, 0x00A, 0x00B, 0x00C, 0x010, 0x012, 0x013, 0x014, 0x015, 0x020, 0x021, 0x030,
    0x031, 0x032, 0x033, 0x034, 0x035, 0x036, 0x037, 0x038, 0x039, 0x040, 0x041, 0x042, 0x043, 0x044]

/-- Each of them takes a write under its mask. -/
theorem csr_merges (s : State) (v : XWord) : ∀ k ∈ contextCsrs, Merges s (BitVec.ofNat 12 k) v := by
  simp only [contextCsrs, List.forall_mem_cons, List.not_mem_nil, false_implies, implies_true, and_true]
  refine ⟨merges_readOnly rfl rfl, merges_readOnly rfl rfl, merges_readOnly rfl rfl, merges_readOnly rfl rfl, merges_readOnly rfl rfl,
    merges_pfxs s v, merges_frm s v, merges_field (xword_field _) (xword_field _) (place_setWidth 7 v) rfl,
    merges_field (xword_field _) (xword_field _) (place_setWidth 32 v) rfl, merges_readOnly rfl rfl,
    merges_field (xword_field _) (xword_field _) (place_setWidth 16 v) rfl,
    merges_field (xword_field _) (xword_field _) (place_setWidth 32 v) rfl,
    merges_field (xword_field _) (xword_field _) (place_setWidth 40 v) rfl, merges_tspan s v, merges_readOnly rfl rfl,
    merges_field (xword_mul_field 7 _) (xword_mul_field 7 _) (place_field 12 7 v) rfl, merges_tl s v,
    merges_field (xword_mul_field 10 _) (xword_mul_field 10 _) (place_field 47 10 v) rfl, merges_readOnly rfl rfl,
    merges_field (xword_field _) (xword_field _) (place_setWidth 57 v) rfl,
    merges_field (xword_field _) (xword_field _) ?_ rfl, merges_ts rfl rfl rfl, merges_readOnly rfl rfl,
    merges_field (xword_field _) (xword_field _) (place_setWidth 57 v) rfl,
    merges_field (xword_field _) (xword_field _) ?_ rfl, merges_ts rfl rfl rfl, merges_readOnly rfl rfl, merges_readOnly rfl rfl,
    merges_readOnly rfl rfl, merges_readOnly rfl rfl, merges_readOnly rfl rfl⟩
  all_goals
    rw [← place_setWidth 64, BitVec.setWidth_eq]
    rfl

/-! ### The instructions -/

theorem checkMember_solo {s : State} {i : Instr} (h1 : vecUse (groupFactor s.regs) i = none) (h2 : soloUse (groupFactor s.regs) i = none)
    (h3 : stewardOnly i = true → s.hart.steward = true) : checkMember s i = .ok () := by
  have hp : (stewardOnly i && !s.hart.steward) = false := by
    cases hi : stewardOnly i
    · rfl
    · rw [h3 hi]
      rfl
  unfold checkMember memberCauses
  rw [h1]
  simp only [soloCauses, h2, hp]
  rfl

/-- The machine `b` once a register is written with v and its old value is in register d. -/
def State.csrSet (b : State) (c : BitVec 12) (v : XWord) (d : BitVec 5) : State := (csrWrite b c v).setX d (csrRead b c)

theorem csrSet_hart (b : State) (c : BitVec 12) (v : XWord) (d : BitVec 5) :
    (b.csrSet c v d).hart = { (csrWrite b c v).hart with regs := writeX (csrWrite b c v).hart.regs d (csrRead b c) } := rfl

/-- How the write of a register ends in t: the registers and the hart that the end of a convoy leaves, in whatever strip. -/
def CsrEnds (u t : State) : Prop :=
  t.hart.regs = { u.hart.regs with
    pc := u.hart.regs.pc + 4, pend := none, cv := none, chain := none, first := none, member := 0 } ∧
  t.hart = { u.hart with
    regs := t.hart.regs, undo := none, wait := none, readySince := readyAt u.gtime, ckpt := t.hart.ckpt, scp := t.hart.scp
    stripOpened := t.hart.stripOpened, early := false } ∧
  t = { u with hart := t.hart }

theorem csrEnds_retired {u : State} (h : u.hart.early = false) : CsrEnds u u.advance.retired := by
  refine ⟨rfl, ?_, rfl⟩
  rw [← h]
  rfl

theorem csrEnds_reopened (u : State) : CsrEnds u u.advance.reopened := ⟨rfl, rfl, rfl⟩

/-- Register d takes the old value, and no other scalar register changes. -/
theorem CsrEnds.writesX {b t : State} {c : BitVec 12} {v : XWord} {d : BitVec 5} (h : CsrEnds (b.csrSet c v d) t) :
    WritesX b t d (csrRead b c) := by
  obtain ⟨hregs, -, -⟩ := h
  have hx : ∀ r, t.x r = readX (writeX (csrWrite b c v).hart.regs d (csrRead b c)) r := fun r => by
    rw [State.x, State.regs, hregs]
    rfl
  have hb : ∀ r, readX (csrWrite b c v).hart.regs r = b.x r := fun r => by
    rw [csrWrite_frame]
    rfl
  refine ⟨rfl, fun r hr => ?_⟩
  rw [hx, readX_writeX, if_neg hr, hb]

theorem CsrEnds.regs {b t : State} {c : BitVec 12} {v : XWord} {d : BitVec 5} (h : CsrEnds (b.csrSet c v d) t) :
    t.regs = { b.regs with
      x := t.regs.x, pc := t.regs.pc, pend := none, cv := none, chain := none, first := none, member := 0
      frm := t.regs.frm, fflags := t.regs.fflags, seed := t.regs.seed, gens := t.regs.gens
      pfxFields := t.regs.pfxFields, pfxValid := t.regs.pfxValid } := by
  obtain ⟨hregs, -, -⟩ := h
  rw [State.regs, hregs, csrSet_hart, writeX_eq, csrWrite_frame]
  rfl

theorem CsrEnds.pc {b t : State} {c : BitVec 12} {v : XWord} {d : BitVec 5} (h : CsrEnds (b.csrSet c v d) t) :
    t.regs.pc = b.regs.pc + 4 := by
  obtain ⟨hregs, -, -⟩ := h
  rw [State.regs, hregs, csrSet_hart, writeX_eq, csrWrite_frame]
  rfl

theorem CsrEnds.gens {b t : State} {c : BitVec 12} {v : XWord} {d : BitVec 5} (h : CsrEnds (b.csrSet c v d) t) :
    t.regs.gens = (csrWrite b c v).regs.gens := by
  obtain ⟨hregs, -, -⟩ := h
  rw [State.regs, hregs, csrSet_hart, writeX_eq]
  rfl

theorem CsrEnds.hart {b t : State} {c : BitVec 12} {v : XWord} {d : BitVec 5} (h : CsrEnds (b.csrSet c v d) t) :
    t.hart = { b.hart with
      regs := t.hart.regs, undo := none, wait := none, readySince := readyAt b.gtime, ckpt := t.hart.ckpt, scp := t.hart.scp
      stripOpened := t.hart.stripOpened, early := false, stampx := t.hart.stampx, cyb := t.hart.cyb, lat := t.hart.lat
      tspanOff := t.hart.tspanOff, tspanLen := t.hart.tspanLen, mwb := t.hart.mwb, eft := t.hart.eft, thb := t.hart.thb
      t1 := t.hart.t1, t2 := t.hart.t2 } := by
  obtain ⟨-, hhart, -⟩ := h
  rw [hhart, csrSet_hart, csrWrite_frame, State.csrSet, csrWrite_frame]
  rfl

theorem CsrEnds.frame {b t : State} {c : BitVec 12} {v : XWord} {d : BitVec 5} (h : CsrEnds (b.csrSet c v d) t) :
    t = { b with hart := t.hart } := by
  obtain ⟨-, -, hst⟩ := h
  rw [hst, State.csrSet, csrWrite_frame]
  rfl

/-- CSRR and the registers that it may read. -/
theorem csrr_sets {s : State} {d : BitVec 5} {c : BitVec 12} (h : InStrip s) (hv : c = 0x050 → s.hart.steward = true) :
    Sets (exec (.csrr d c) s) s d (csrRead s c) := by
  have hc : checkMember s (.csrr d c) = .ok () := checkMember_solo rfl rfl (fun h => hv (by simpa [stewardOnly] using h))
  rw [exec_csrr, execCsrr, ordinaryChecked]
  refine ordinary_sets h ?_
  simp only [hc, bind, Except.bind]

/-- The table, row by row. -/
theorem csrRead_table (s : State) : ∀ p ∈ csrTable s, csrRead s (BitVec.ofNat 12 p.1) = xword p.2 := by
  simp only [csrTable, List.forall_mem_cons, List.not_mem_nil, false_implies, implies_true, and_true]
  and_intros <;> rfl

theorem csrTable_lt (s : State) : ∀ p ∈ csrTable s, p.1 < 2 ^ 12 := by
  simp only [csrTable, List.forall_mem_cons, List.not_mem_nil, false_implies, implies_true, and_true]
  decide

/-- The registers whose writes belong to the open strip (R226). -/
def stripCsr (c : BitVec 12) : Prop := c = 0x00A ∨ c = 0x00B ∨ c = 0x00C

theorem csrSet_inStrip {b : State} {c : BitVec 12} {v : XWord} {d : BitVec 5} (h : InStrip b) : InStrip (b.csrSet c v d) := by
  have hf := csrWrite_frame b c v
  refine h.of ?_ ?_ ?_
  · rw [State.csrSet, hf]
    rfl
  · rw [State.csrSet, hf]
    rfl
  · rw [State.csrSet, hf, State.setX, writeX_eq]
    rfl

theorem csrOp_strip {s : State} {i : Instr} {d a : BitVec 5} {c : BitVec 12} {g : XWord → XWord → XWord} (hm : checkMember s i = .ok ())
    (hc : stripCsr c) (h : InStrip s) :
    csrOp i d a c g s = .next (s.csrSet c (g (csrRead s c) (s.x a)) d).advance.retired := by
  rw [csrOp]
  refine (if_pos hc).trans ?_
  rw [ordinaryChecked]
  refine ordinary_next (csrSet_inStrip h) ?_
  simp only [hm, bind, Except.bind]
  rfl

theorem csrOp_commits {s : State} {i : Instr} {d a : BitVec 5} {c : BitVec 12} {g : XWord → XWord → XWord}
    (hm : checkMember s i = .ok ()) (hc : ¬stripCsr c) (h : MayCommit s) :
    csrOp i d a c g s = .next (s.committed.csrSet c (g (csrRead s.committed c) (s.x a)) d).advance.reopened := by
  rw [csrOp]
  refine (if_neg hc).trans ?_
  rw [irreversibleChecked, hm]
  refine irreversible_next h ?_ (csrSet_inStrip (.of_empty (committed_tl h) (committed_early s) (committed_buf s)))
  rw [committed_x]
  rfl

/-- What each of CSRW, CSRS and CSRC leaves, with the value that it writes. -/
def CsrAnswers (s : State) (i : Instr) (d : BitVec 5) (c : BitVec 12) (b : State) (v : XWord) : Prop :=
  ∃ t, exec i s = .next t ∧ CsrEnds (b.csrSet c v d) t ∧ (∀ e, e ≠ 0x008 → csrRead t e = csrRead (csrWrite b c v) e) ∧
    (stripCsr c → t.hart.scp = s.hart.scp ∧ t.hart.ckpt = s.hart.ckpt) ∧ (¬stripCsr c → NextStrip b t)

theorem csrOp_answers {s : State} {i : Instr} {d a : BitVec 5} {c : BitVec 12} (g : XWord → XWord → XWord)
    (he : exec i s = csrOp i d a c g s) (hm : checkMember s i = .ok ()) {b : State}
    (hstrip : stripCsr c → InStrip s ∧ b = s) (hcommit : ¬stripCsr c → MayCommit s ∧ b = s.committed) :
    CsrAnswers s i d c b (g (csrRead b c) (s.x a)) := by
  by_cases hc : stripCsr c
  · obtain ⟨h, rfl⟩ := hstrip hc
    have hearly := (csrSet_inStrip (c := c) (v := g (csrRead b c) (b.x a)) (d := d) h).2.1
    refine ⟨_, he.trans (csrOp_strip hm hc h), csrEnds_retired hearly, fun e _ => csrRead_retired _ _ _ _, fun _ => ?_,
      fun hn => absurd hc hn⟩
    rw [State.csrSet, csrWrite_frame]
    exact ⟨rfl, rfl⟩
  · obtain ⟨h, rfl⟩ := hcommit hc
    have hends := csrEnds_reopened (s.committed.csrSet c (g (csrRead s.committed c) (s.x a)) d)
    exact ⟨_, he.trans (csrOp_commits hm hc h), hends, fun e he => csrRead_reopened _ _ _ he, fun hs => absurd hs hc,
      fun _ => ⟨hends.pc, rfl, rfl, rfl, rfl⟩⟩

end Machine
end Sys2Proof

open Sys2Proof Sys2Proof.Machine

/-- Settles O14: CSRR by the table, the writes by what `csrWrite` leaves of the table, field by field. -/
theorem controlRegisters : Obligations.ControlRegisters := by
  refine ⟨fun s d h => ?_, fun s d a c hc => ?_⟩
  · intro hh r bit tc ts k p hp hv
    have hp' : p ∈ csrTable s := by
      simp only [csrTable, tcWord, tsWord, Nat.mul_comm (2 ^ 6), Nat.mul_comm (2 ^ 7), Nat.mul_comm (2 ^ 10), Nat.mul_comm (2 ^ 12),
        Nat.mul_comm (2 ^ 16), Nat.mul_comm (2 ^ 26), Nat.mul_comm (2 ^ 32)]
      exact hp
    rw [← csrRead_table s p hp']
    refine csrr_sets h (fun h50 => hv ?_)
    have hn := congrArg BitVec.toNat h50
    rw [BitVec.toNat_ofNat, Nat.mod_eq_of_lt (csrTable_lt s p hp')] at hn
    exact hn
  · intro strip b old x hstrip hcommit p hp m
    have h50 : (c == 0x050) = true → s.hart.steward = true := by
      intro h
      rw [beq_iff_eq.1 h] at hc
      exact absurd hc (by decide)
    have hbs : stripCsr c → b = s := fun h => if_pos h
    have hbc : ¬stripCsr c → b = s.committed := fun h => if_neg h
    have hsame : b.regs.pc = s.regs.pc ∧ b.gtime = s.gtime := by
      by_cases h : stripCsr c
      · rw [hbs h]
        exact ⟨rfl, rfl⟩
      · rw [hbc h]
        exact ⟨committed_pc s, committed_gtime s⟩
    have hs1 : stripCsr c → InStrip s ∧ b = s := fun h => ⟨hstrip h, hbs h⟩
    have hs2 : ¬stripCsr c → MayCommit s ∧ b = s.committed := fun h => ⟨hcommit h, hbc h⟩
    have ha : CsrAnswers s p.1 d c b p.2 := by
      revert p
      simp only [List.forall_mem_cons, List.not_mem_nil, false_implies, implies_true, and_true]
      exact ⟨csrOp_answers (fun _ v => v) exec_csrw (checkMember_solo rfl rfl h50) hs1 hs2,
        csrOp_answers (fun old v => old ||| v) exec_csrs (checkMember_solo rfl rfl h50) hs1 hs2,
        csrOp_answers (fun old v => old &&& ~~~v) exec_csrc (checkMember_solo rfl rfl h50) hs1 hs2⟩
    obtain ⟨t, he, hends, hread, hs, hn⟩ := ha
    have hmerge : Merges b c p.2 := by
      have h := csr_merges b p.2 c.toNat hc
      rwa [BitVec.ofNat_toNat, BitVec.setWidth_eq] at h
    refine ⟨t, he, hends.writesX, hends.pc.trans (by rw [hsame.1]), fun h8 => (hread c h8).trans hmerge,
      fun e hec h8 => (hread e h8).trans (csrRead_csrWrite_other b _ hec), fun l hl => ?_, ?_, hends.regs, ?_, hends.frame⟩
    · rw [hends.gens, csrWrite_gens]
      split
      · exact gen_seedGens _ hl
      · rfl
    · split
      · next h => exact hs h
      · next h => exact hn h
    · rw [← hsame.2]
      exact hends.hart
end

section
/-! CERTIFICATES. The steward's operations (O16): the descriptor read, then each operation on the committed machine. -/

namespace Sys2Proof
namespace Machine

/-! ### Reads of a steward -/

/-- A steward's address is physical, so its accesses cache nothing (R371). -/
theorem located_steward {s t : State} {acc : Access} {va : XWord} {al ix pa : Nat} (hs : s.hart.steward = true)
    (h : located s acc va al ix = .ok (pa, t)) : t = s := by
  unfold located locatedBy at h
  simp only [hs, Bool.not_true, Bool.false_and, Bool.false_eq_true, if_false, if_true] at h
  split at h
  · cases h
  · cases h
    rfl

theorem access_steward {s t : State} {acc : Access} {va : XWord} {al ix pa : Nat} (hs : s.hart.steward = true)
    (h : access s acc va al ix = .ok (pa, t)) : t = s := by
  unfold access at h
  split at h
  · cases h
  · next hl =>
    split at h
    · cases h
    · cases h
      exact located_steward hs hl

theorem loadBytes_steward {s : State} {va : XWord} {n pa : Nat} (hs : s.hart.steward = true) (h : Readable s va n pa) :
    loadBytes s .read va n n 0 = .ok (seenBytes s pa n, s) := by
  obtain ⟨u, hu, hp⟩ := h
  obtain rfl := access_steward hs hu
  simp only [loadBytes, hu, bind, Except.bind, hp, pure, Except.pure]

/-! ### The descriptor (Table 10.6) -/

/-- The fields of a descriptor. -/
def descOf (v : Nat) : StwDesc :=
  { core := v % 2 ^ 10, slot := v / 2 ^ 10 % 8, ctx := v / 2 ^ 16 % 2 ^ 6, kind := v.testBit 24, addr := v / 2 ^ 64 % 2 ^ 52 }

/-- No reserved bit of a descriptor is set, and its core exists. -/
def DescOk (v : Nat) : Prop :=
  v / 2 ^ 13 % 8 = 0 ∧ v / 2 ^ 22 % 4 = 0 ∧ v / 2 ^ 25 % 2 ^ 39 = 0 ∧ v / 2 ^ 116 % 2 ^ 12 = 0 ∧ v % 2 ^ 10 < 768

theorem stwDesc_cases (v : Nat) :
    StwDesc.of v = if v / 2 ^ 13 % 8 ≠ 0 ∨ v / 2 ^ 22 % 4 ≠ 0 ∨ v / 2 ^ 25 % 2 ^ 39 ≠ 0 ∨ v / 2 ^ 116 % 2 ^ 12 ≠ 0 ∨ 768 ≤ v % 2 ^ 10
      then none else some (descOf v) := by
  have h0 : bitsAt v 0 10 = v % 2 ^ 10 := by rw [bitsAt, Nat.pow_zero, Nat.div_one]
  rw [StwDesc.of, h0]
  rfl

theorem stwDesc_ok {v : Nat} (h : DescOk v) : StwDesc.of v = some (descOf v) := by
  obtain ⟨h1, h2, h3, h4, h5⟩ := h
  rw [stwDesc_cases]
  exact if_neg (by omega)

theorem stwDesc_bad {v : Nat} (h : ¬DescOk v) : StwDesc.of v = none := by
  rw [stwDesc_cases]
  unfold DescOk at h
  exact if_pos (by omega)

theorem stwDesc_fields (v : Nat) :
    ∃ t, (DescOk v → StwDesc.of v = some t) ∧ t.core = v % 2 ^ 10 ∧ t.slot = v / 2 ^ 10 % 8 ∧ t.ctx = v / 2 ^ 16 % 2 ^ 6 ∧
      t.addr = v / 2 ^ 64 % 2 ^ 52 ∧ t.kind = decide (v / 2 ^ 24 % 2 = 1) :=
  ⟨descOf v, stwDesc_ok, rfl, rfl, rfl, rfl, Nat.testBit_eq_decide_div_mod_eq⟩

/-! ### What an STW answers -/

theorem SetsInWaits.trans_wait {r : Result} {c : State} {d : BitVec 5} {v : XWord} {w w' : Option Wait} (h : SetsInWaits r c d v w)
    (he : w = w') : SetsInWaits r c d v w' := he ▸ h

/-- A hart at level 0 whose strip has just opened. -/
def FreshStrip (h : Hart) : Prop := h.tl = 0 ∧ h.early = false ∧ h.regs.storeBuf = []

theorem committed_freshStrip {s : State} (h : MayCommit s) : FreshStrip s.committed.hart :=
  ⟨committed_tl h, committed_early s, committed_buf s⟩

/-- The operations of Table 10.7. -/
def stwInstrs (d a : BitVec 5) : List Instr := [.vsave d a, .vrestore d a, .scrub d a, .ctxkill d a, .setown d a]

section
variable {s : State} {d a : BitVec 5} {pa : Nat} {i : Instr} {op : StwDesc → State → Eff (State × XWord × (Hart → Hart))}
variable (hs : s.hart.steward = true) (hal : (s.x a).toNat % 16 = 0) (hr : Readable s.committed (s.x a) 16 pa)
variable (hi : i ∈ stwInstrs d a)
include hs hal hr hi

/-- An STW is what its operation does with the descriptor on the committed machine. -/
theorem stwOp_reads (v : Nat) (hv : v = leNat (memReadN s.committed.mem pa 16)) :
    ∃ f, stwOp i d a op s = irreversibleThen f s ∧
      f s.committed = match StwDesc.of v with
        | none => .ok (s.committed.setX d allOnes, id)
        | some t => (match op t s.committed with
          | .error e => .error e
          | .ok (u, x, g) => .ok (u.setX d x, g)) := by
  have hm : checkMember s i = .ok () := by
    revert i
    simp only [stwInstrs, List.forall_mem_cons, List.not_mem_nil, false_implies, implies_true, and_true]
    and_intros <;> exact checkMember_solo rfl rfl (fun _ => hs)
  have hc : s.committed.hart.steward = true := by rw [committed_hart]; exact hs
  have hb : seenBytes s.committed pa 16 = memReadN s.committed.mem pa 16 := seenBytes_empty (committed_buf s) pa 16
  have hx : s.committed.x a = s.x a := committed_x s a
  have ha : alignedTo (s.x a) 16 = true := beq_iff_eq.2 hal
  refine ⟨_, by rw [stwOp, hm], ?_⟩
  simp only [hx, ha, Bool.not_true, Bool.false_eq_true, if_false, loadBytes_steward hc hr, hb, bind, Except.bind, pure, Except.pure, ← hv]
  cases StwDesc.of v with
  | none => rfl
  | some t =>
    dsimp only
    cases op t s.committed with
    | error e => rfl
    | ok p => rfl

variable (h : MayCommit s)
include h

theorem stw_bad (hv : ¬DescOk (leNat (memReadN s.committed.mem pa 16))) : SetsIn (stwOp i d a op s) s.committed d (BitVec.allOnes 64) := by
  obtain ⟨f, he, hf⟩ := stwOp_reads (op := op) hs hal hr hi _ rfl
  rw [stwDesc_bad hv] at hf
  obtain ⟨h1, h2, h3⟩ := committed_freshStrip h
  rw [he]
  exact irreversibleThen_sets (g := id) h hf h1 h2 h3 (fun k hk => by rw [← hk]; rfl)

theorem stw_setsWait {u : State} {x : XWord} {g : Hart → Hart} {w : Option Wait} {t : StwDesc}
    (hv : StwDesc.of (leNat (memReadN s.committed.mem pa 16)) = some t)
    (ho : op t s.committed = .ok (u, x, g)) (hu : FreshStrip u.hart)
    (hg : ∀ k, k.wait = none → g k = { k with wait := w }) : SetsInWaits (stwOp i d a op s) u d x w := by
  obtain ⟨f, he, hf⟩ := stwOp_reads (op := op) hs hal hr hi _ rfl
  rw [hv] at hf
  dsimp only at hf
  rw [ho] at hf
  obtain ⟨h1, h2, h3⟩ := hu
  rw [he]
  exact irreversibleThen_sets h hf h1 h2 h3 hg

theorem stw_sets {u : State} {x : XWord} {t : StwDesc}
    (hv : StwDesc.of (leNat (memReadN s.committed.mem pa 16)) = some t)
    (ho : op t s.committed = .ok (u, x, id)) (hu : FreshStrip u.hart) :
    SetsIn (stwOp i d a op s) u d x :=
  stw_setsWait hs hal hr hi h hv ho hu (fun k hk => by rw [← hk]; rfl)

theorem stw_waits {w : Wait} {t : StwDesc}
    (hv : StwDesc.of (leNat (memReadN s.committed.mem pa 16)) = some t)
    (ho : op t s.committed = .error (.wait w)) :
    Waits (stwOp i d a op s) s.committed w := by
  obtain ⟨f, he, hf⟩ := stwOp_reads (op := op) hs hal hr hi _ rfl
  rw [hv] at hf
  dsimp only at hf
  rw [ho] at hf
  have hc : s.committed.convoyStart = s.committed := convoyStart_eq h.committed.2.1
  rw [he]
  simp only [irreversibleThen, preCommit_ok h, hf, stopped, hc, Waits]

end

/-! ### Waits for lines (R290, R316, R322) -/

/-- No line of a range is held. -/
theorem rangeWait_ok {s : State} {pa n : Nat} (hn : 0 < n) (h : ∀ p, pa ≤ p → p < pa + n → accessWait s (p / 128 * 128) = none) :
    rangeWait s pa n = .ok () := by
  have hs : (span (pa / 128) ((pa + n + 127) / 128 - pa / 128)).findSome? (fun l => accessWait s (128 * l)) = none := by
    refine List.findSome?_eq_none_iff.2 fun l hl => ?_
    obtain ⟨h1, h2⟩ := mem_span.1 hl
    have hp := h (max pa (128 * l)) (by omega) (by omega)
    rwa [show max pa (128 * l) / 128 * 128 = 128 * l by omega] at hp
  rw [rangeWait, hs]

theorem span_append (a m n : Nat) : span a (m + n) = span a m ++ span (a + m) n := by
  induction m generalizing a with
  | zero => rw [Nat.zero_add]; rfl
  | succ m ih => rw [Nat.succ_add, span, ih, span, List.cons_append, Nat.succ_add_eq_add_succ]

/-- The wait is that of the first line of the range that is held. -/
theorem rangeWait_first {s : State} {pa n p : Nat} {w : Wait} (h1 : pa ≤ p) (h2 : p < pa + n) (hw : accessWait s (p / 128 * 128) = some w)
    (hf : ∀ q, pa ≤ q → q / 128 < p / 128 → accessWait s (q / 128 * 128) = none) : rangeWait s pa n = .error (.wait w) := by
  have hs : (span (pa / 128) ((pa + n + 127) / 128 - pa / 128)).findSome? (fun l => accessWait s (128 * l)) = some w := by
    refine List.findSome?_eq_some_iff.2 ⟨span (pa / 128) (p / 128 - pa / 128), p / 128,
      span (p / 128 + 1) ((pa + n + 127) / 128 - p / 128 - 1), ?_, by rw [Nat.mul_comm]; exact hw, fun l hl => ?_⟩
    · have hlen : (pa + n + 127) / 128 - pa / 128 = (p / 128 - pa / 128) + ((pa + n + 127) / 128 - p / 128 - 1 + 1) := by omega
      rw [hlen, span_append, show pa / 128 + (p / 128 - pa / 128) = p / 128 by omega]
      rfl
    · obtain ⟨h3, h4⟩ := mem_span.1 hl
      have hq := hf (max pa (128 * l)) (by omega) (by omega)
      rwa [show max pa (128 * l) / 128 * 128 = 128 * l by omega] at hq
  rw [rangeWait, hs]

/-! ### VSAVE (R231, R380) -/

theorem length_leBytes_flatMap {α : Type} (l : List α) (n : Nat) (f : α → Nat) :
    (l.flatMap (fun a => leBytes n (f a))).length = l.length * n := by
  rw [List.length_flatMap]
  simp only [leBytes_length, List.map_const', List.sum_replicate, smul_eq_mul]

theorem savePlain_length {h : Hart} (hn : h.vn ≤ 32) :
    (savePlain h).length = 64 + h.vn * h.vlmax * 2 ^ h.wcode.toNat + 8 * h.vlmax := by
  have hregs : (h.regs.vregs.toList.take h.vn).length = h.vn := by rw [List.length_take, Vector.length_toList]; omega
  simp only [savePlain, List.length_append, leBytes_length, List.length_map, Vector.length_toList, List.length_replicate,
    length_leBytes_flatMap]
  rw [List.length_flatMap]
  simp only [length_leBytes_flatMap, span_length, List.map_const', List.sum_replicate, smul_eq_mul, hregs, Nat.mul_assoc]

theorem rangeWrite_hart (s : State) (a g : Nat) (va : XWord) (pa : Nat) (l : List Byte) : (s.rangeWrite a g va pa l).hart = s.hart := by
  have hw : ∀ (s : State) (va : XWord) (pa : Nat) (l : List Byte), (s.homeWrite a g va pa l).hart = s.hart := fun s va pa l => by
    rw [homeWrite_frame s a g va pa l]
  rw [State.rangeWrite]
  exact (hw _ _ _ _).trans (hw _ _ _ _)

theorem noteImage_hart (s : State) (ctx pa n : Nat) : (s.noteImage ctx pa n).hart = s.hart := rfl

/-! ### CTXKILL (R231, R379) -/

theorem ctxAt_stopContext (s : State) (ctx c : Nat) :
    (s.stopContext ctx).ctxAt c = if c = ctx then { s.ctxAt ctx with queues := [], rootLive := false, hostVisible := false } else s.ctxAt c := by
  rw [State.stopContext]
  exact ctxAt_setCtxAt _ _ _ _

/-- The other kinds of command have started. -/
theorem startedKind (k : CmdKind) :
    (match k with | .mload => true | .mdrain => true | .launch => true | _ => false) = false ↔
      k ≠ .mload ∧ k ≠ .mdrain ∧ k ≠ .launch := by
  cases k <;> simp

theorem hartAt_stopContext (s : State) (ctx k : Nat) :
    (HartOf ctx (s.hartAt k) → (s.stopContext ctx).hartAt k = { s.hartAt k with
      live := .stopped, regs := if (s.hartAt k).tl = 0 then discardRegs (s.hartAt k) (s.hartAt k).regs else (s.hartAt k).regs
      undo := none, matrixQ := [], wait := none, issueAt := none }) ∧
    (¬HartOf ctx (s.hartAt k) → (s.stopContext ctx).hartAt k = s.hartAt k) := by
  have hb : ∀ h : Hart, (decide (h.ctx = ctx) && !h.steward && decide (h.live ≠ .free)) = true ↔ HartOf ctx h := fun h => by
    simp only [HartOf, Bool.and_eq_true, decide_eq_true_eq, Bool.not_eq_true']
    tauto
  have he : (s.stopContext ctx).hartAt k = _ := hartAt_mapHarts s (fun _ h =>
    if h.ctx = ctx && !h.steward && h.live ≠ .free then
      { h with
        live := .stopped, regs := if h.tl = 0 then discardRegs h h.regs else h.regs, undo := none, matrixQ := []
        wait := none, issueAt := none }
    else h) k (if_neg (fun hc => ((hb _).1 hc).2.1 rfl))
  exact ⟨fun h => he.trans (if_pos ((hb _).2 h)), fun h => he.trans (if_neg (fun hc => h ((hb _).1 hc)))⟩

/-- The end of a context's work, whatever its kill then notes in the context. -/
theorem contextStops_of {s t : State} {ctx : Nat} (ht : t = { s.stopContext ctx with ctxs := t.ctxs })
    (hx : t.ctxAt ctx = { s.ctxAt ctx with
      queues := [], rootLive := false, hostVisible := false, pending := (t.ctxAt ctx).pending, killed := (t.ctxAt ctx).killed })
    (ho : ∀ c, c ≠ ctx → t.ctxAt c = s.ctxAt c) : ContextStops s t ctx := by
  have hhart : ∀ k, t.hartAt k = (s.stopContext ctx).hartAt k := fun k => by rw [ht]; rfl
  have hgangs : t.gangs = s.gangs.filter (fun g => g.2.ctx ≠ ctx) := by rw [ht]; rfl
  have hleaders : t.leaders = s.leaders.filter (fun l => l.ctx ≠ ctx) := by rw [ht]; rfl
  have hcmds : t.cmds = s.cmds.filter (fun c =>
      !(c.2.ctx = ctx && (match c.2.kind with | .mload => true | .mdrain => true | .launch => true | _ => false))) := by
    rw [ht]; rfl
  refine ⟨fun k => ?_, fun g => ?_, fun l => ?_, fun c => ?_, hx, ho, ?_⟩
  · simp only [hhart]
    exact hartAt_stopContext s ctx k
  · rw [hgangs, List.mem_filter, decide_eq_true_iff]
  · rw [hleaders, List.mem_filter, decide_eq_true_iff]
  · rw [hcmds, List.mem_filter, Bool.not_eq_true', Bool.and_eq_false_iff, decide_eq_false_iff_not, startedKind]
    exact and_congr_right fun _ => ⟨fun h hc => h.resolve_left (not_not.2 hc), fun h => (em _).elim (fun hc => .inr (h hc)) .inl⟩
  · rw [ht]
    rfl

/-- A kill stops the context, and notes itself unless one was noted or the context is Free (R433). -/
theorem killContext_stops (s : State) (ctx cause reason : Nat) (pc value : XWord) (gid member : Nat) :
    let k := s.killContext ctx cause reason pc value gid member
    ContextStops s k ctx ∧
      ((s.ctxAt ctx).killed = false → (s.ctxAt ctx).state ≠ .free →
        (k.ctxAt ctx).pending = (s.ctxAt ctx).pending ++ [.kill cause reason pc.toNat value.toNat gid member] ∧ (k.ctxAt ctx).killed = true) ∧
      ((s.ctxAt ctx).killed = true ∨ (s.ctxAt ctx).state = .free →
        (k.ctxAt ctx).pending = (s.ctxAt ctx).pending ∧ (k.ctxAt ctx).killed = (s.ctxAt ctx).killed) := by
  have hself : (s.stopContext ctx).ctxAt ctx = { s.ctxAt ctx with queues := [], rootLive := false, hostVisible := false } :=
    (ctxAt_stopContext s ctx ctx).trans (if_pos rfl)
  have hother : ∀ c, c ≠ ctx → (s.stopContext ctx).ctxAt c = s.ctxAt c := fun c hc => (ctxAt_stopContext s ctx c).trans (if_neg hc)
  have hk : ((s.stopContext ctx).ctxAt ctx).killed = (s.ctxAt ctx).killed := by rw [hself]
  have hst : ((s.stopContext ctx).ctxAt ctx).state = (s.ctxAt ctx).state := by rw [hself]
  intro k
  by_cases h : (s.ctxAt ctx).killed = true ∨ (s.ctxAt ctx).state = .free
  · have he : k = s.stopContext ctx := if_pos (by simpa [hk, hst] using h)
    rw [he]
    refine ⟨contextStops_of rfl (by rw [hself]) hother, fun h1 h2 => ?_, fun _ => by rw [hself]; exact ⟨rfl, rfl⟩⟩
    rcases h with h | h
    · exact absurd (h1.symm.trans h) (by decide)
    · exact absurd h h2
  · have he : k = (s.stopContext ctx).setCtxAt ctx { (s.stopContext ctx).ctxAt ctx with
        killed := true
        pending := ((s.stopContext ctx).ctxAt ctx).pending ++ [.kill cause reason pc.toNat value.toNat gid member] } :=
      if_neg (by simpa [hk, hst] using h)
    have hx := ctxAt_setCtxAt (s.stopContext ctx) ctx ctx { (s.stopContext ctx).ctxAt ctx with
        killed := true
        pending := ((s.stopContext ctx).ctxAt ctx).pending ++ [.kill cause reason pc.toNat value.toNat gid member] }
    rw [if_pos rfl, ← he] at hx
    refine ⟨contextStops_of ?_ ?_ fun c hc => ?_, fun _ _ => ?_, fun h' => absurd h' h⟩
    · rw [he]; rfl
    · rw [hx, hself]
    · rw [he, ctxAt_setCtxAt, if_neg hc, hother c hc]
    · rw [hx, hself]
      exact ⟨rfl, rfl⟩

/-- A steward's hart belongs to no context, and stays. -/
theorem killContext_steward {s : State} (hs : s.hart.steward = true) (ctx cause reason : Nat) (pc value : XWord) (gid member : Nat) :
    (s.killContext ctx cause reason pc value gid member).hart = s.hart := by
  have hh : (s.stopContext ctx).hart = s.hart := by
    refine if_neg ?_
    rw [hs]
    simp
  rw [State.killContext]
  split
  · exact hh
  · exact hh

/-! ### SCRUB of a hart (R368) -/

/-- The machine once a hart is scrubbed. -/
def State.scrubbedHart (s : State) (core key : Nat) : State :=
  let t := s.setHartAt key (scrubHart (s.hartAt key))
  t.setCoreAt core { t.coreAt core with clean := (t.coreAt core).clean || noDeclaration t core }

theorem setHartAt_other {s : State} {key : Nat} (hk : key ≠ s.cur) (h : Hart) :
    s.setHartAt key h = { s with harts := mset s.harts key h } := if_neg hk

theorem scrubbedHart_frame {s : State} {core key : Nat} (hk : key ≠ s.cur) :
    s.scrubbedHart core key = { s with
      harts := mset s.harts key (scrubHart (s.hartAt key)), cores := (s.scrubbedHart core key).cores } := by
  rw [State.scrubbedHart, setHartAt_other hk]
  rfl

theorem hartAt_scrubbedHart (s : State) (core key k : Nat) :
    (s.scrubbedHart core key).hartAt k = if k = key then scrubHart (s.hartAt key) else s.hartAt k :=
  hartAt_setHartAt s key k _

theorem coreAt_setHartAt (s : State) (key c : Nat) (h : Hart) : (s.setHartAt key h).coreAt c = s.coreAt c := by
  rw [State.setHartAt]
  split <;> rfl

/-- Of the cores, only whether the hart's core is clean changes. -/
theorem coreAt_scrubbedHart (s : State) (core key c : Nat) :
    (s.scrubbedHart core key).coreAt c =
      if c = core then { s.coreAt core with clean := ((s.scrubbedHart core key).coreAt core).clean } else s.coreAt c := by
  have h := coreAt_setHartAt s key
  simp only [State.scrubbedHart, coreAt_setCoreAt, if_true, h]

/-- With no declaration of its owner left a core is clean. -/
theorem scrubbedHart_clean {s : State} {core key : Nat}
    (hn : ∀ p ∈ (s.scrubbedHart core key).allHarts,
      p.1 / 8 = core → p.2.ctx = (s.coreAt core).owner.toNat → p.2.live ≠ .free → p.2.vn * p.2.vlmax = 0) :
    ((s.scrubbedHart core key).coreAt core).clean = true := by
  have hd : noDeclaration (s.setHartAt key (scrubHart (s.hartAt key))) core = true := by
    rw [noDeclaration, coreAt_setHartAt, Bool.not_eq_true', List.any_eq_false]
    intro p hp
    have h := hn p hp
    simp only [Bool.and_eq_true, decide_eq_true_eq, not_and, not_not]
    exact fun ⟨⟨h1, h2⟩, h3⟩ => h h1 h2 h3
  simp only [State.scrubbedHart, coreAt_setCoreAt, if_true, hd, Bool.or_true]

/-! ### The operations -/

theorem imageLength_ge (key : BitVec 256) (head : List Byte) : 92 ≤ imageLength key head := by
  rw [imageLength]
  omega

/-- The first 28 bytes of an image at a page's start lie in its first line. -/
theorem rangeWait_head {s : State} {addr p : Nat} {w : Wait} (ha : addr % 4096 = 0) (h1 : addr ≤ p)
    (hw : accessWait s (p / 128 * 128) = some w)
    (hf : ∀ q, addr ≤ q → q / 128 < p / 128 → accessWait s (q / 128 * 128) = none) :
    rangeWait s addr 28 = .error (.wait w) ∨ rangeWait s addr 28 = .ok () := by
  by_cases hp : p / 128 = addr / 128
  · refine .inl (rangeWait_first (p := addr) (Nat.le_refl _) (by omega) (by rw [← hp]; exact hw) fun q hq hlt => ?_)
    exact hf q hq (by omega)
  · refine .inr (rangeWait_ok (by decide) fun q hq hlt => hf q hq ?_)
    omega

theorem freshStrip_releaseVown {s : State} {core ctx : Nat} (h : FreshStrip s.hart) : FreshStrip (s.releaseVown core ctx).hart := by
  have he : (s.releaseVown core ctx).hart =
      if decide (s.cur / 8 = core) && decide (s.hart.ctx = ctx) && s.hart.wait == some .vown && !s.hart.scrubbed then
        { s.hart with wait := none, readySince := readyAt s.gtime } else s.hart := rfl
  rw [he]
  split <;> exact h

/-- The length of the image that a VRESTORE finds. -/
def foundLength (s : State) (t : StwDesc) : Nat := imageLength (s.ctxAt t.ctx).key (memReadN s.mem t.addr 28)

/-- The image's lines are not held, and no unit of it is bad. -/
theorem image_readable {s : State} {t : StwDesc}
    (hw : ∀ p, t.addr ≤ p → p < t.addr + foundLength s t → accessWait s (p / 128 * 128) = none)
    (hb : ∀ p, t.addr ≤ p → p < t.addr + foundLength s t → mget? s.badUnits (p / 2) = none) :
    rangeWait s t.addr 28 = .ok () ∧ rangeWait s t.addr (foundLength s t) = .ok () ∧
      (span t.addr (foundLength s t)).any (badByte s) = false := by
  have hge : 92 ≤ foundLength s t := imageLength_ge _ _
  refine ⟨rangeWait_ok (by decide) (fun p h1 h2 => hw p h1 (by omega)), rangeWait_ok (by omega) hw, ?_⟩
  rw [List.any_eq_false]
  intro p hp
  obtain ⟨h1, h2⟩ := mem_span.1 hp
  rw [badByte, hb p h1 h2]
  decide

section
variable {s : State} {d a : BitVec 5} {pa : Nat}
variable (h : MayCommit s) (hs : s.hart.steward = true) (hal : (s.x a).toNat % 16 = 0) (hr : Readable s.committed (s.x a) 16 pa)
include h hs hal hr

theorem stewardOps_bad (hv : ¬DescOk (leNat (memReadN s.committed.mem pa 16))) :
    ∀ i ∈ stwInstrs d a, SetsIn (exec i s) s.committed d (BitVec.allOnes 64) := by
  have hb : ∀ i ∈ stwInstrs d a, ∀ op, SetsIn (stwOp i d a op s) s.committed d (BitVec.allOnes 64) :=
    fun i hi op => stw_bad hs hal hr hi h hv
  revert hb
  simp only [stwInstrs, List.forall_mem_cons, List.not_mem_nil, false_implies, implies_true, and_true, exec_vsave, exec_vrestore, exec_scrub,
    exec_ctxkill, exec_setown]
  exact fun ⟨h1, h2, h3, h4, h5⟩ => ⟨h1 _, h2 _, h3 _, h4 _, h5 _⟩

variable {t : StwDesc} (hv : StwDesc.of (leNat (memReadN s.committed.mem pa 16)) = some t)
include hv

theorem image_unaligned (ha : t.addr % 4096 ≠ 0) :
    ∀ i ∈ [Instr.vsave d a, .vrestore d a], SetsIn (exec i s) s.committed d (BitVec.allOnes 64) := by
  simp only [List.forall_mem_cons, List.not_mem_nil, false_implies, implies_true, and_true, exec_vsave, exec_vrestore]
  exact ⟨stw_sets hs hal hr (.head _) h hv (if_pos ha) (committed_freshStrip h),
    stw_sets hs hal hr (.tail _ (.head _)) h hv (if_pos ha) (committed_freshStrip h)⟩

/-- VSAVE of a hart none of whose image's lines is held. -/
theorem vsave_seals (ha : t.addr % 4096 = 0) {g : Hart} (hg : g = s.committed.hartAt (8 * t.core + t.slot))
    (hw : rangeWait s.committed t.addr ((savePlain g).length + 28) = .ok ()) :
    ∃ iv, iv.length = 12 ∧
      SetsIn (exec (.vsave d a) s)
        ((s.committed.draw.draw.rangeWrite 0 s.hart.gang (xword t.addr) t.addr
          (gcmSeal (s.committed.ctxAt t.ctx).key iv (savePlain g))).noteImage t.ctx t.addr ((savePlain g).length + 28))
        d (xword ((savePlain g).length + 28)) := by
  subst hg
  have hgang : s.committed.hart.gang = s.hart.gang := by rw [committed_hart]
  rw [exec_vsave, ← hgang]
  refine ⟨leBytes 8 (Config.free s.committed.free).toNat ++ leBytes 4 (Config.free (s.committed.free + 1)).toNat, ?_, ?_⟩
  · rw [List.length_append, leBytes_length, leBytes_length]
  · refine stw_sets hs hal hr (.head _) h hv ?_ ?_
    · refine (if_neg (not_not.2 ha)).trans ?_
      simp only [hw, bind, Except.bind]
      rfl
    · rw [noteImage_hart, rangeWrite_hart]
      exact committed_freshStrip h

theorem vsave_waits {w : Wait} (ha : t.addr % 4096 = 0)
    (hw : rangeWait s.committed t.addr
      ((savePlain (s.committed.hartAt (8 * t.core + t.slot))).length + 28) = .error (.wait w)) :
    Waits (exec (.vsave d a) s) s.committed w := by
  rw [exec_vsave]
  refine stw_waits hs hal hr (.head _) h hv ((if_neg (not_not.2 ha)).trans ?_)
  simp only [hw, bind, Except.bind]

theorem vrestore_waits {w : Wait} {p : Nat} (ha : t.addr % 4096 = 0) (h1 : t.addr ≤ p) (h2 : p < t.addr + foundLength s.committed t)
    (hw : accessWait s.committed (p / 128 * 128) = some w)
    (hf : ∀ q, t.addr ≤ q → q / 128 < p / 128 → accessWait s.committed (q / 128 * 128) = none) :
    Waits (exec (.vrestore d a) s) s.committed w := by
  have hn : rangeWait s.committed t.addr (foundLength s.committed t) = .error (.wait w) := rangeWait_first h1 h2 hw hf
  rw [foundLength] at hn
  rw [exec_vrestore]
  refine stw_waits hs hal hr (.tail _ (.head _)) h hv ((if_neg (not_not.2 ha)).trans ?_)
  rcases rangeWait_head ha h1 hw hf with he | he
  · simp only [he, bind, Except.bind]
  · simp only [he, hn, bind, Except.bind]

section
variable (ha : t.addr % 4096 = 0)
variable (hw : ∀ p, t.addr ≤ p → p < t.addr + foundLength s.committed t → accessWait s.committed (p / 128 * 128) = none)
variable (hb : ∀ p, t.addr ≤ p → p < t.addr + foundLength s.committed t → mget? s.committed.badUnits (p / 2) = none)
include ha hw hb

/-- An image that authenticates and is a vector state goes to the hart, and the harts of the file's owner that wait for it go on. -/
theorem vrestore_restores {g : Hart}
    (hp : (gcmOpen (s.committed.ctxAt t.ctx).key (memReadN s.committed.mem t.addr (foundLength s.committed t))).bind
      (restorePlain (s.committed.hartAt (8 * t.core + t.slot))) = some g)
    (hcur : 8 * t.core + t.slot ≠ s.committed.cur) :
    let e := s.committed.setHartAt (8 * t.core + t.slot) g
    SetsIn (exec (.vrestore d a) s)
      (if (s.committed.coreAt t.core).owned = true ∧ (s.committed.coreAt t.core).owner.toNat = g.ctx then e.releaseVown t.core g.ctx else e)
      d 0 := by
  intro e
  obtain ⟨hhead, hall, hgood⟩ := image_readable hw hb
  obtain ⟨pt, hpt, hg⟩ := Option.bind_eq_some_iff.1 hp
  have hfresh : FreshStrip e.hart := by
    rw [show e = _ from setHartAt_other hcur g]
    exact committed_freshStrip h
  have hcore : e.coreAt t.core = s.committed.coreAt t.core := coreAt_setHartAt _ _ _ _
  rw [foundLength] at hall hgood hpt
  rw [exec_vrestore]
  refine stw_sets hs hal hr (.tail _ (.head _)) h hv ((if_neg (not_not.2 ha)).trans ?_) ?_
  · simp only [hhead, hall, hgood, hpt, hg, bind, Except.bind, pure, Except.pure, Bool.false_eq_true, if_false]
    rw [hcore]
    simp only [Bool.and_eq_true, beq_iff_eq]
    rfl
  · split
    · exact freshStrip_releaseVown hfresh
    · exact hfresh

theorem vrestore_fails
    (hp : (gcmOpen (s.committed.ctxAt t.ctx).key (memReadN s.committed.mem t.addr (foundLength s.committed t))).bind
      (restorePlain (s.committed.hartAt (8 * t.core + t.slot))) = none) :
    SetsIn (exec (.vrestore d a) s) s.committed d (BitVec.allOnes 64) := by
  obtain ⟨hhead, hall, hgood⟩ := image_readable hw hb
  rw [foundLength] at hall hgood hp
  rw [exec_vrestore]
  refine stw_sets hs hal hr (.tail _ (.head _)) h hv ((if_neg (not_not.2 ha)).trans ?_) (committed_freshStrip h)
  simp only [hhead, hall, hgood, bind, Except.bind, Bool.false_eq_true, if_false]
  cases hpt : gcmOpen (s.committed.ctxAt t.ctx).key
      (memReadN s.committed.mem t.addr (imageLength (s.committed.ctxAt t.ctx).key (memReadN s.committed.mem t.addr 28))) with
  | none => rfl
  | some pt =>
    rw [hpt] at hp
    simp only [show restorePlain (s.committed.hartAt (8 * t.core + t.slot)) pt = none from hp]
    rfl

end

theorem scrub_hart (hk : t.kind = false) (hcur : 8 * t.core + t.slot ≠ s.committed.cur) :
    SetsIn (exec (.scrub d a) s) (s.committed.scrubbedHart t.core (8 * t.core + t.slot)) d 0 := by
  rw [exec_scrub]
  refine stw_sets hs hal hr (.tail _ (.tail _ (.head _))) h hv ((if_neg (by rw [hk]; decide)).trans rfl) ?_
  rw [scrubbedHart_frame hcur]
  exact committed_freshStrip h

theorem scrub_context (hk : t.kind = true) :
    SetsIn (exec (.scrub d a) s) (scrubContext s.committed.draw t.ctx (Config.failing s.committed.free)) d 0 := by
  have hst : s.committed.draw.hart.steward = true := by
    rw [show s.committed.draw.hart = s.committed.hart from rfl, committed_hart]
    exact hs
  rw [exec_scrub]
  refine stw_sets hs hal hr (.tail _ (.tail _ (.head _))) h hv (if_pos hk) ?_
  rw [scrubContext_steward _ _ hst]
  exact committed_freshStrip h

theorem ctxkill_kills :
    let k := s.committed.killContext t.ctx 0 2 0 0 0 0
    SetsInWaits (exec (.ctxkill d a) s) k d 0 (if (k.ctxAt t.ctx).pending.any Pending.isKill then some (.kill t.ctx) else none) := by
  intro k
  have hst : s.committed.hart.steward = true := by rw [committed_hart]; exact hs
  rw [exec_ctxkill]
  refine stw_setsWait (g := fun h => { h with
    wait := if (k.ctxAt t.ctx).pending.any Pending.isKill then some (.kill t.ctx) else none }) hs hal hr
    (.tail _ (.tail _ (.tail _ (.head _)))) h hv rfl ?_ (fun _ _ => rfl)
  rw [killContext_steward hst]
  exact committed_freshStrip h

theorem setown_clean (hc : (s.committed.coreAt t.core).clean = true) :
    SetsIn (exec (.setown d a) s) (s.committed.setCoreAt t.core { s.committed.coreAt t.core with
      owner := BitVec.ofNat 6 t.ctx, owned := true, clean := false }) d 0 := by
  rw [exec_setown]
  exact stw_sets hs hal hr (.tail _ (.tail _ (.tail _ (.tail _ (.head _))))) h hv (if_pos hc) (committed_freshStrip h)

theorem setown_unclean (hc : (s.committed.coreAt t.core).clean = false) : SetsIn (exec (.setown d a) s) s.committed d (BitVec.allOnes 64) := by
  rw [exec_setown]
  exact stw_sets hs hal hr (.tail _ (.tail _ (.tail _ (.tail _ (.head _))))) h hv (if_neg (by rw [hc]; decide)) (committed_freshStrip h)

end

end Machine
end Sys2Proof
open Sys2Proof Sys2Proof.Machine

/-- Settles O16: the descriptor that each STW reads, then its operation on the committed machine. -/
theorem stewardOperations : Obligations.StewardOperations := by
  intro s d a pa h hs hal hr c v
  have hv0 : leNat (memReadN s.committed.mem pa 16) = v := rfl
  clear_value v
  intro core key ctx addr ok hart ones reached size
  obtain ⟨t, ht, hcore, hkey, hctx, haddr, hkind⟩ := stwDesc_fields v
  have hbad : ¬ok → ¬DescOk (leNat (memReadN s.committed.mem pa 16)) := fun hn => by rw [hv0]; exact hn
  have hdesc : ok → StwDesc.of (leNat (memReadN s.committed.mem pa 16)) = some t := fun hok => by rw [hv0]; exact ht hok
  replace hkey : 8 * t.core + t.slot = key := by rw [hcore, hkey]
  change t.core = core at hcore
  change t.ctx = ctx at hctx
  change t.addr = addr at haddr
  clear_value core key ctx addr
  subst hcore hkey hctx haddr
  refine ⟨fun hok => ?_, fun hok ha => ?_, fun hok => ?_⟩
  · exact stewardOps_bad h hs hal hr (hbad hok)
  · exact image_unaligned h hs hal hr (hdesc hok) ha
  have hv := hdesc hok
  have hcur : 8 * t.core + t.slot ≠ s.cur → 8 * t.core + t.slot ≠ s.committed.cur := fun hk => by rw [committed_cur]; exact hk
  refine ⟨fun hn ha => ?_, ⟨?_, ?_⟩, fun hk hc => ?_, fun hk => ?_, ⟨?_, ?_⟩, ?_, ?_⟩
  · have hlen : (savePlain (s.committed.hartAt (8 * t.core + t.slot))).length + 28 = size :=
      congrArg (· + 28) (savePlain_length hn)
    refine ⟨fun hw => ?_, fun p w h1 h2 hw hf => ?_⟩
    · obtain ⟨iv, hiv, hset⟩ := vsave_seals (d := d) h hs hal hr hv ha rfl (by rw [hlen]; exact rangeWait_ok (by omega) hw)
      rw [hlen] at hset
      exact ⟨iv, hiv, hset⟩
    · refine vsave_waits h hs hal hr hv ha ?_
      rw [hlen]
      exact rangeWait_first h1 h2 hw hf
  · exact fun ha p w h1 h2 hw hf => vrestore_waits h hs hal hr hv ha h1 h2 hw hf
  · exact fun ha hw hb => ⟨fun g hp hk => vrestore_restores h hs hal hr hv ha hw hb hp (hcur hk),
      fun hp => vrestore_fails h hs hal hr hv ha hw hb hp⟩
  · have hk' : t.kind = false := by rw [hkind, decide_eq_false_iff_not]; omega
    have hframe := scrubbedHart_frame (core := t.core) (hcur hc)
    refine ⟨s.committed.scrubbedHart t.core (8 * t.core + t.slot), scrub_hart h hs hal hr hv hk' (hcur hc), ?_, fun k hne => ?_,
      fun k hne => ?_, ?_, fun hno => ?_, ?_, ?_⟩
    · rw [hframe]
    · exact (hartAt_scrubbedHart _ _ _ _).trans (if_neg hne)
    · exact (coreAt_scrubbedHart _ _ _ _).trans (if_neg hne)
    · exact (hartAt_scrubbedHart _ _ _ _).trans (if_pos rfl)
    · exact scrubbedHart_clean hno
    · exact (coreAt_scrubbedHart _ _ _ _).trans (if_pos rfl)
    · rw [hframe]
  · exact scrub_context h hs hal hr hv (by rw [hkind, decide_eq_true_iff]; exact hk)
  · intro hkilled hfree
    obtain ⟨hstop, hkill, -⟩ := killContext_stops s.committed t.ctx 0 2 0 0 0 0
    obtain ⟨hp, hk⟩ := hkill hkilled hfree
    refine ⟨_, hstop, hp, hk, ?_⟩
    have hset := ctxkill_kills (d := d) h hs hal hr hv
    have hany : ((s.committed.killContext t.ctx 0 2 0 0 0 0).ctxAt t.ctx).pending.any Pending.isKill = true := by
      rw [hp, List.any_append]
      exact Bool.or_true _
    exact hset.trans_wait (if_pos hany)
  · intro hno
    obtain ⟨hstop, -, hkeep⟩ := killContext_stops s.committed t.ctx 0 2 0 0 0 0
    obtain ⟨hp, hk⟩ := hkeep hno
    refine ⟨_, hstop, hp, hk, ?_⟩
    have hset := ctxkill_kills (d := d) h hs hal hr hv
    exact hset.trans_wait (by rw [← hp])
  · exact fun hc => setown_clean h hs hal hr hv hc
  · exact fun hc => setown_unclean h hs hal hr hv hc
end

section
/-! SUPPORT. Writes at the home by the host and by peers (R380, R408): the residues that a write leaves, and a range that may reach into
the audit region. -/

namespace Sys2Proof
namespace Machine

/-! ### Keys of the bad units -/

theorem mem_mkeys_mset {α : Type} {m : Map α} {a v : Nat} {x : α} (h : v ∈ mkeys (mset m a x)) : v = a ∨ v ∈ mkeys m := by
  induction m with
  | nil => exact .inl (List.mem_singleton.1 h)
  | cons c t ih =>
    obtain ⟨k, y⟩ := c
    rw [mset] at h
    split at h
    · rcases List.mem_cons.1 h with hv | hv
      · exact .inl hv
      · exact .inr (.tail _ hv)
    · split at h
      · rcases List.mem_cons.1 h with hv | hv
        · exact .inl hv
        · exact .inr hv
      · rcases List.mem_cons.1 h with hv | hv
        · exact .inr (hv ▸ .head _)
        · exact (ih hv).imp_right (.tail _)

/-- The units that stay are those that the written range does not cover whole. -/
theorem mem_mkeys_clearUnits {bad : Map (BitVec 2)} {pa n u : Nat} :
    u ∈ mkeys (clearUnits bad pa n) ↔ u ∈ mkeys bad ∧ ¬(pa ≤ 2 * u ∧ 2 * u + 2 ≤ pa + n) := by
  simp only [mkeys, clearUnits, List.mem_map, List.mem_filter, Bool.not_eq_true', Bool.and_eq_false_iff, decide_eq_false_iff_not,
    ← not_and_or]
  constructor
  · rintro ⟨c, ⟨hc, hn⟩, rfl⟩
    exact ⟨⟨c, hc, rfl⟩, hn⟩
  · rintro ⟨⟨c, hc, rfl⟩, hn⟩
    exact ⟨c, ⟨hc, hn⟩, rfl⟩

/-- Units cleared below one do not hide it or uncover it, whatever the order of the keys. -/
theorem mget?_clearUnits_above {bad : Map (BitVec 2)} {pa n u : Nat} (h : pa + n ≤ 2 * u + 1) :
    mget? (clearUnits bad pa n) u = mget? bad u := by
  induction bad with
  | nil => rfl
  | cons c t ih =>
    obtain ⟨k, x⟩ := c
    by_cases hk : pa ≤ 2 * k ∧ 2 * k + 2 ≤ pa + n
    · have h1 : ¬u = k := by omega
      have h2 : ¬u < k := by omega
      rw [show clearUnits ((k, x) :: t) pa n = clearUnits t pa n from List.filter_cons_of_neg (by simp [hk.1, hk.2]), ih]
      simp only [mget?, h1, h2, if_false]
    · rw [show clearUnits ((k, x) :: t) pa n = (k, x) :: clearUnits t pa n from
        List.filter_cons_of_pos (by simp only [Bool.not_eq_true', Bool.and_eq_false_iff, decide_eq_false_iff_not]; exact not_and_or.1 hk)]
      simp only [mget?, ih]

/-- A record adds no bad unit. -/
theorem reportError_units {s : State} {c : Option Nat} {k a g v p x y u : Nat}
    (h : u ∈ mkeys (s.reportError c k a g v p x y).badUnits) : u ∈ mkeys s.badUnits := by
  cases c with
  | none => exact h
  | some c => exact (mem_mkeys_clearUnits.1 (mem_mkeys_clearUnits.1 h).1).1

/-! ### One write at the home (R408) -/

/-- A unit that a range covers in part holds a byte of it. -/
theorem mem_partUnits {pa n u : Nat} (h : u ∈ partUnits pa n) : ∃ b, pa ≤ b ∧ b < pa + n ∧ u = b / 2 := by
  rcases List.mem_append.1 h with h | h
  · split at h
    · cases h
    · split at h
      · exact ⟨pa, Nat.le_refl _, by omega, List.mem_singleton.1 h⟩
      · cases h
  · split at h
    · exact ⟨pa + n - 1, by omega, by omega, by rw [List.mem_singleton.1 h]; omega⟩
    · cases h

/-- What a write of some bytes at an address does with a unit that it covers in part: a bad one takes or keeps poison. -/
def poisonPart (agent gang : Nat) (va : XWord) (pa : Nat) (s : State) (u : Nat) : State :=
  match mget? s.badUnits u with
  | none => s
  | some c =>
    if c = 3 then s
    else
      let b := if 2 * u < pa then pa else 2 * u
      let s := { s with badUnits := mset s.badUnits u 3 }
      s.reportError (ownerOf s (2 * u)) 2 agent gang (if 4 ≤ agent then 0 else va.toNat + (b - pa)) (2 * u) 0 0

theorem poisonPart_none {s : State} {a g pa u : Nat} {va : XWord} (h : mget? s.badUnits u = none) : poisonPart a g va pa s u = s := by
  rw [poisonPart, h]

/-- A write that is not discarded: the bytes, then the units covered in part, then those covered whole. -/
theorem homeWrite_eq {s : State} {a g pa : Nat} {va : XWord} {l : List Byte} (h : discards s pa = false) :
    let t := (partUnits pa l.length).foldl (poisonPart a g va pa) (s.put (s.writerOf a) pa l)
    s.homeWrite a g va pa l = { t with badUnits := clearUnits t.badUnits pa l.length } := by
  rw [State.homeWrite, h]
  rfl

theorem homeWrite_discarded {s : State} {a g pa : Nat} {va : XWord} {l : List Byte} (h : discards s pa = true) :
    s.homeWrite a g va pa l = s := by
  rw [State.homeWrite, h]
  rfl

/-- Below the peer windows, only the audit region is closed to writes. -/
theorem discards_eq_false {s : State} {pa : Nat} (h1 : pa < Config.peerBase) (h2 : ¬InAudit pa) : discards s pa = false :=
  PortUp.discards ⟨fun h => absurd h.1 (Nat.not_le.2 h1), h2⟩

theorem poisonPart_units {s : State} {a g pa v u : Nat} {va : XWord} (hv : u ≠ v) (h : u ∉ mkeys s.badUnits) :
    u ∉ mkeys (poisonPart a g va pa s v).badUnits := by
  unfold poisonPart
  split
  · exact h
  · split
    · exact h
    · exact fun hu => (mem_mkeys_mset (reportError_units hu)).elim hv h

theorem poisonParts_units {s : State} {a g pa u : Nat} {va : XWord} {us : List Nat} (hu : u ∉ us) (h : u ∉ mkeys s.badUnits) :
    u ∉ mkeys (us.foldl (poisonPart a g va pa) s).badUnits := by
  induction us generalizing s with
  | nil => exact h
  | cons v us ih => exact ih (fun hx => hu (.tail _ hx)) (poisonPart_units (fun hx => hu (hx ▸ .head _)) h)

theorem poisonParts_none {s : State} {a g pa : Nat} {va : XWord} {us : List Nat} (h : ∀ u ∈ us, mget? s.badUnits u = none) :
    us.foldl (poisonPart a g va pa) s = s := by
  induction us with
  | nil => rfl
  | cons u us ih => rw [List.foldl_cons, poisonPart_none (h u (.head _)), ih fun v hv => h v (.tail _ hv)]

/-- A unit that is good and that a write does not cover in part stays good. -/
theorem homeWrite_unit_good {s : State} {a g pa u : Nat} {va : XWord} {l : List Byte} (hp : u ∉ partUnits pa l.length)
    (h : u ∉ mkeys s.badUnits) : u ∉ mkeys (s.homeWrite a g va pa l).badUnits := by
  by_cases hd : discards s pa = true
  · rwa [homeWrite_discarded hd]
  · rw [homeWrite_eq (Bool.eq_false_iff.2 hd)]
    exact fun hu => poisonParts_units (s := s.put (s.writerOf a) pa l) hp h (mem_mkeys_clearUnits.1 hu).1

/-- A unit that a write covers whole is good after it. -/
theorem homeWrite_unit_whole {s : State} {a g pa u : Nat} {va : XWord} {l : List Byte} (hd : discards s pa = false) (h1 : pa ≤ 2 * u)
    (h2 : 2 * u + 2 ≤ pa + l.length) : u ∉ mkeys (s.homeWrite a g va pa l).badUnits := by
  rw [homeWrite_eq hd]
  exact fun hu => (mem_mkeys_clearUnits.1 hu).2 ⟨h1, h2⟩

/-- No byte of a range lies in a unit that a lookup finds bad. -/
def CleanRange (s : State) (pa n : Nat) : Prop := ∀ a, pa ≤ a → a < pa + n → mget? s.badUnits (a / 2) = none

/-- A write to units that are all good changes its bytes alone; one that the home would discard is of no bytes here. -/
theorem homeWrite_clean {s : State} {a g pa : Nat} {va : XWord} {l : List Byte} (hd : discards s pa = true → l = [])
    (hc : CleanRange s pa l.length) :
    (s.homeWrite a g va pa l).mem = memWriteN s.mem pa l ∧
      (s.homeWrite a g va pa l).badUnits = clearUnits s.badUnits pa l.length := by
  by_cases hx : discards s pa = true
  · rw [homeWrite_discarded hx, hd hx]
    refine ⟨rfl, (List.filter_eq_self.2 fun c _ => ?_).symm⟩
    simp only [List.length_nil, Bool.not_eq_true', Bool.and_eq_false_iff, decide_eq_false_iff_not]
    omega
  · rw [homeWrite_eq (Bool.eq_false_iff.2 hx), poisonParts_none]
    · exact ⟨rfl, rfl⟩
    · intro u hu
      obtain ⟨b, h1, h2, rfl⟩ := mem_partUnits hu
      exact hc b h1 h2

/-- Of the host's side, a write at the home changes the error records alone. -/
theorem homeWrite_dev (s : State) (a g : Nat) (va : XWord) (pa : Nat) (l : List Byte) :
    { (s.homeWrite a g va pa l).dev with errors := [] } = { s.dev with errors := [] } := by
  by_cases hd : discards s pa = true
  · rw [homeWrite_discarded hd]
  · rw [homeWrite_eq (Bool.eq_false_iff.2 hd)]
    refine foldl_keeps (fun s => { s.dev with errors := [] }) (fun s u => ?_) _ (s.put (s.writerOf a) pa l)
    unfold poisonPart
    split
    · rfl
    · split
      · rfl
      · dsimp only
        cases ownerOf { s with badUnits := mset s.badUnits u 3 } (2 * u) <;> rfl

/-! ### A range written from outside (R249, R252, R380) -/

/-- What a write of the host or of a peer leaves: its bytes beside the audit region at the home, its whole units good, and the rest of
the machine as it was, but for the records of R408. -/
def RangeWritten (s : State) (pa : Nat) (data : List Byte) (t : State) : Prop :=
  (Memory.wf s.mem = true → (∀ i, i < data.length → mget? s.badUnits ((pa + i) / 2) = none) →
    ∀ a, memRead t.mem a = if pa ≤ a ∧ a < pa + data.length ∧ ¬InAudit a then data.getD (a - pa) 0 else memRead s.mem a) ∧
  (∀ i, i < data.length / 2 → pa % 2 = 0 → ¬InAudit (pa + 2 * i) → mget? t.badUnits (pa / 2 + i) = none) ∧
  t = { s with
    mem := t.mem, written := t.written, badUnits := t.badUnits, ctxs := t.ctxs, dev := { s.dev with errors := t.dev.errors } }

theorem CleanRange.of_offsets {s : State} {pa n : Nat} (h : ∀ i, i < n → mget? s.badUnits ((pa + i) / 2) = none) :
    CleanRange s pa n := fun a h1 h2 => by
  have := h (a - pa) (by omega)
  rwa [Nat.add_sub_cancel' h1] at this

/-- The frame of a write, from what it keeps of the machine and of the host's side. -/
theorem recordFrame {s t : State} (h : HomeFrame s t) (hd : { t.dev with errors := [] } = { s.dev with errors := [] }) :
    t = { s with
      mem := t.mem, written := t.written, badUnits := t.badUnits, ctxs := t.ctxs, dev := { s.dev with errors := t.dev.errors } } := by
  have he : t.dev = { s.dev with errors := t.dev.errors } := congrArg (fun d : Device => { d with errors := t.dev.errors }) hd
  rw [← he]
  exact h

/-- A host's write to its own memory. -/
theorem homeWrite_written {s : State} {a g pa : Nat} {va : XWord} {data : List Byte} (h1 : Config.hostBase ≤ pa)
    (h2 : pa < Config.peerBase) : RangeWritten s pa data (s.homeWrite a g va pa data) := by
  have hout : ∀ b, pa ≤ b → ¬InAudit b := fun b hb hi => by
    simp only [InAudit, Config.hostBase, Config.auditBase, Config.auditBytes] at h1 hi
    omega
  have hd : discards s pa = false := discards_eq_false h2 (hout pa (Nat.le_refl _))
  refine ⟨fun hw hc b => ?_, fun i hi he _ => ?_, recordFrame (homeWrite_frame _ _ _ _ _ _) (homeWrite_dev _ _ _ _ _ _)⟩
  · rw [(homeWrite_clean (fun h => by rw [hd] at h; cases h) (.of_offsets hc)).1, memRead_memWriteN _ _ _ hw]
    refine if_congr ?_ rfl rfl
    exact ⟨fun ⟨h3, h4⟩ => ⟨h3, h4, hout b h3⟩, fun ⟨h3, h4, _⟩ => ⟨h3, h4⟩⟩
  · exact mget?_none_of_notMem (homeWrite_unit_whole hd (by omega) (by omega))

section
variable {s : State} {a g pa : Nat} {va : XWord} {data : List Byte}

/-- The first address past the audit region. -/
def auditEnd : Nat := Config.auditBase + Config.auditBytes

/-- A range cut at the audit region, as its writer cuts it: what lies before it, then what lies past it. -/
theorem rangeWrite_eq : s.rangeWrite a g va pa data =
    (s.homeWrite a g va pa (data.take (Config.auditBase - pa))).homeWrite a g (va + xword (max pa auditEnd - pa)) (max pa auditEnd)
      (data.drop (auditEnd - pa)) := rfl

theorem take_of_discards (h : pa < Config.peerBase) (hd : discards s pa = true) : data.take (Config.auditBase - pa) = [] := by
  have hi : InAudit pa := by
    by_contra hn
    rw [discards_eq_false h hn] at hd
    cases hd
  rw [Nat.sub_eq_zero_of_le hi.1, List.take_zero]

theorem discards_pastAudit (h : pa ≤ Config.deviceBytes) : discards s (max pa auditEnd) = false := by
  refine discards_eq_false ?_ fun hi => ?_
  · simp only [auditEnd, Config.deviceBytes, Config.peerBase, Config.auditBase, Config.auditBytes] at h ⊢
    omega
  · exact absurd hi.2 (Nat.not_lt.2 (Nat.le_max_right _ _))

theorem not_inAudit_iff {b : Nat} : ¬InAudit b ↔ b < Config.auditBase ∨ auditEnd ≤ b := by
  rw [not_and_or, Nat.not_le, Nat.not_lt]
  rfl

theorem auditBase_le_auditEnd : Config.auditBase ≤ auditEnd := Nat.le_add_right _ _

/-- The bytes of a range of good units, written but for those in the audit region. -/
theorem rangeWrite_memRead (h : pa + data.length ≤ Config.deviceBytes) (hw : Memory.wf s.mem = true)
    (hc : CleanRange s pa data.length) (b : Nat) : memRead (s.rangeWrite a g va pa data).mem b =
      if pa ≤ b ∧ b < pa + data.length ∧ ¬InAudit b then data.getD (b - pa) 0 else memRead s.mem b := by
  have hpa : pa < Config.peerBase := by
    simp only [Config.deviceBytes, Config.peerBase] at h ⊢
    omega
  have hae := auditBase_le_auditEnd
  have hend := discards_pastAudit (s := s.homeWrite a g va pa (data.take (Config.auditBase - pa))) (pa := pa) (by omega)
  obtain ⟨hm1, hu1⟩ := homeWrite_clean (a := a) (g := g) (va := va) (take_of_discards (data := data) hpa)
    fun c h1 h2 => hc c h1 (by rw [List.length_take] at h2; omega)
  have hc2 : CleanRange (s.homeWrite a g va pa (data.take (Config.auditBase - pa))) (max pa auditEnd)
      (data.drop (auditEnd - pa)).length := by
    intro c h1 h2
    rw [List.length_drop] at h2
    rw [hu1, mget?_clearUnits_above (by rw [List.length_take]; omega)]
    exact hc c (by omega) (by omega)
  rw [rangeWrite_eq, (homeWrite_clean (fun hd => by rw [hend] at hd; cases hd) hc2).1, hm1,
    memRead_memWriteN _ _ _ (memWriteN_wf _ _ hw), memRead_memWriteN _ _ _ hw, List.length_take, List.length_drop]
  simp only [not_inAudit_iff]
  by_cases hpast : max pa auditEnd ≤ b ∧ b < max pa auditEnd + (data.length - (auditEnd - pa))
  · rw [if_pos hpast, if_pos (by omega)]
    simp only [List.getD_eq_getElem?_getD, List.getElem?_drop]
    rw [show auditEnd - pa + (b - max pa auditEnd) = b - pa by omega]
  · rw [if_neg hpast]
    by_cases hbefore : pa ≤ b ∧ b < pa + min (Config.auditBase - pa) data.length
    · rw [if_pos hbefore, if_pos (by omega)]
      simp only [List.getD_eq_getElem?_getD]
      rw [List.getElem?_take_of_lt (by omega)]
    · rw [if_neg hbefore, if_neg (by omega)]

/-- The whole units of a range, good after it but for those in the audit region. -/
theorem rangeWrite_units (h : pa + data.length ≤ Config.deviceBytes) {u : Nat} (h1 : pa ≤ 2 * u) (h2 : 2 * u + 2 ≤ pa + data.length)
    (hi : ¬InAudit (2 * u)) : u ∉ mkeys (s.rangeWrite a g va pa data).badUnits := by
  have heven : Config.auditBase % 2 = 0 ∧ auditEnd % 2 = 0 := by decide
  have hae := auditBase_le_auditEnd
  rw [rangeWrite_eq]
  rcases not_inAudit_iff.1 hi with hb | hb
  · refine homeWrite_unit_good (fun hp => ?_) (homeWrite_unit_whole (discards_eq_false ?_ ?_) h1 ?_)
    · obtain ⟨b, hb1, -, rfl⟩ := mem_partUnits hp
      omega
    · simp only [Config.deviceBytes, Config.peerBase] at h ⊢
      omega
    · exact not_inAudit_iff.2 (.inl (by omega))
    · rw [List.length_take]
      omega
  · refine homeWrite_unit_whole (discards_pastAudit (by omega)) (by omega) ?_
    rw [List.length_drop]
    omega

/-- A range written in device memory. -/
theorem rangeWrite_written (h : pa + data.length ≤ Config.deviceBytes) : RangeWritten s pa data (s.rangeWrite a g va pa data) := by
  refine ⟨fun hw hc => rangeWrite_memRead h hw (.of_offsets hc), fun i hi he hn => mget?_none_of_notMem ?_, recordFrame ?_ ?_⟩
  · rw [show pa + 2 * i = 2 * (pa / 2 + i) by omega] at hn
    exact rangeWrite_units h (by omega) (by omega) hn
  · exact (homeWrite_frame _ _ _ _ _ _).trans (homeWrite_frame _ _ _ _ _ _)
  · exact (homeWrite_dev _ _ _ _ _ _).trans (homeWrite_dev _ _ _ _ _ _)

end

end Machine
end Sys2Proof
end

section
/-! CERTIFICATES. Accesses of the host and of peers (O54): which wait, what each does, and the one that waits first. -/

namespace Sys2Proof
namespace Machine

/-! ### Which accesses wait (R250, R290, R316, R322, R424) -/

/-- A range is held for the host or for a peer: the host's by its link, any by one of its lines. -/
def RangeHeld (s : State) (host : Bool) (pa n : Nat) : Prop :=
  host = true ∧ mget? s.dev.linksDown 0 ≠ none ∨ ∃ l, pa / 128 ≤ l ∧ l ≤ (pa + n - 1) / 128 ∧ accessWait s (128 * l) ≠ none

theorem spanHeld_iff {s : State} {pa n : Nat} (hn : 0 < n) :
    spanHeld s pa n = true ↔ ∃ l, pa / 128 ≤ l ∧ l ≤ (pa + n - 1) / 128 ∧ accessWait s (128 * l) ≠ none := by
  simp only [spanHeld, Bool.and_eq_true, bne_iff_ne, ne_eq, List.any_eq_true, mem_span, ← Option.isSome_iff_ne_none]
  constructor
  · rintro ⟨-, l, ⟨h1, h2⟩, hw⟩
    exact ⟨l, h1, by omega, hw⟩
  · rintro ⟨l, h1, h2, hw⟩
    exact ⟨by omega, l, ⟨h1, by omega⟩, hw⟩

section
variable {s : State} {o : Outside} {host : Bool} {pa n : Nat} (ho : o.ofHost = host) (hs : o.spans s = [(pa, n)]) (hn : 0 < n)
include ho hs hn

theorem Outside.held_iff : o.held s = true ↔ RangeHeld s host pa n := by
  simp only [Outside.held, hs, ho, List.any_cons, List.any_nil, Bool.or_false, Bool.or_eq_true, Bool.and_eq_true, spanHeld_iff hn,
    Option.isSome_iff_ne_none, RangeHeld]

theorem Outside.waits_iff : o.waits s = true ↔ s.waiting ≠ [] ∨ RangeHeld s host pa n := by
  rw [Outside.waits, Bool.or_eq_true, Outside.held_iff ho hs hn, Bool.not_eq_true', List.isEmpty_eq_false_iff]

variable {name : String} {lo hi : Nat} {f : State → State} (hlo : lo ≤ pa) (hhi : pa + n ≤ hi)
include hlo hhi

/-- An access that finds others waiting, or is held, joins those that wait; any other is performed. -/
theorem outsideAccess_spec {i : Instr} (hx : exec i s = outsideAccess name o s lo hi pa n f) :
    (s.waiting ≠ [] ∨ RangeHeld s host pa n → exec i s = .next { s with waiting := s.waiting ++ [(s.gtime, o)] }) ∧
      (s.waiting = [] ∧ ¬RangeHeld s host pa n → exec i s = .next (f s)) := by
  have hin : ¬(pa < lo ∨ hi < pa + n) := by omega
  have hw := Outside.waits_iff ho hs hn
  rw [hx, outsideAccess, if_neg hin]
  refine ⟨fun h => if_pos (hw.2 h), fun ⟨hq, hh⟩ => if_neg fun h => ?_⟩
  exact (hw.1 h).elim (fun hne => hne hq) hh

end

/-! ### What the host sees (R372), and what a read answers (R406, R407) -/

/-- Every byte of a range lies in a host-visible frame of one context that runs. -/
def HostSees (s : State) (pa n : Nat) : Prop :=
  ∃ c g, c ∈ s.ctxs ∧ c.2.state = .run ∧ c.2.hostVisible = true ∧ c.2.grant = some g ∧
    ∀ i, i < n → (pa + i) / 2 ^ 21 ∈ g.table.take g.nhvis

/-- The frames of a range are those of its bytes. -/
theorem frames_all_iff {pa n : Nat} (hn : 0 < n) (l : List Nat) :
    (span (pa / Config.frameBytes) ((pa + n - 1) / Config.frameBytes + 1 - pa / Config.frameBytes)).all (fun f => l.contains f) = true ↔
      ∀ i, i < n → (pa + i) / 2 ^ 21 ∈ l := by
  simp only [List.all_eq_true, mem_span, List.contains_iff_mem, Config.frameBytes]
  constructor
  · exact fun h i hi => h _ ⟨by omega, by omega⟩
  · intro h f ⟨h1, h2⟩
    have hf := h (max pa (2097152 * f) - pa) (by omega)
    rwa [show (pa + (max pa (2097152 * f) - pa)) / 2 ^ 21 = f by omega] at hf

theorem hostVisible_iff {s : State} {pa n : Nat} (hn : 0 < n) : hostVisible s pa n = true ↔ HostSees s pa n := by
  simp only [hostVisible, List.any_eq_true, Bool.and_eq_true, beq_iff_eq]
  constructor
  · rintro ⟨c, hc, ⟨hr, hv⟩, hg⟩
    split at hg
    · next g hgrant => exact ⟨c, g, hc, hr, hv, hgrant, (frames_all_iff hn _).1 hg⟩
    · cases hg
  · rintro ⟨c, g, hc, hr, hv, hgrant, hf⟩
    refine ⟨c, hc, ⟨hr, hv⟩, ?_⟩
    rw [hgrant]
    exact (frames_all_iff hn _).2 hf

theorem badBytes_eq_nil_iff {s : State} {pa n : Nat} :
    (span pa n).filter (badByte s) = [] ↔ ∀ i, i < n → mget? s.badUnits ((pa + i) / 2) = none := by
  simp only [List.filter_eq_nil_iff, mem_span, badByte, Bool.not_eq_true, Option.isSome_eq_false_iff, Option.isNone_iff_eq_none]
  constructor
  · exact fun h i hi => h _ ⟨by omega, by omega⟩
  · intro h a ⟨h1, h2⟩
    have ha := h (a - pa) (by omega)
    rwa [Nat.add_sub_cancel' h1] at ha

theorem outsideRead_clean {s : State} {agent pa n : Nat} (h : ∀ i, i < n → mget? s.badUnits ((pa + i) / 2) = none) :
    outsideRead agent s pa n = s.respond (.bytes (memReadN s.mem pa n)) := by
  rw [outsideRead, badBytes_eq_nil_iff.2 h]
  rfl

theorem outsideRead_bad {s : State} {agent pa n : Nat} (h : ¬∀ i, i < n → mget? s.badUnits ((pa + i) / 2) = none) :
    outsideRead agent s pa n =
      (s.foundBad agent 0 (((span pa n).filter (badByte s)).map (fun a => (a / 2, 0)))).respond .poisoned := by
  rw [outsideRead]
  exact if_neg fun he => h (badBytes_eq_nil_iff.1 (List.isEmpty_iff.1 he))

/-! ### The access that waits first (R250, R290) -/

/-- A hart or an engine has waited for a pseudo-channel since before a time. -/
def WaitedLonger (s : State) (since slot : Nat) : Prop :=
  (∃ h ∈ s.allHarts, h.2.live = .running ∧ ∃ t, h.2.wait = some (.bankMode slot t) ∧ t < since) ∨
    ∃ c ∈ s.cmds, ∃ t, c.2.since = some (slot, t) ∧ t < since

theorem olderHart_iff {s : State} {slot since : Nat} : olderHart s none slot since = true ↔
    ∃ h ∈ s.allHarts, h.2.live = .running ∧ ∃ t, h.2.wait = some (.bankMode slot t) ∧ t < since := by
  simp only [olderHart, List.any_eq_true, Bool.and_eq_true, bne_iff_ne, ne_eq, reduceCtorEq, not_false_eq_true, true_and, beq_iff_eq]
  refine exists_congr fun h => and_congr_right fun _ => and_congr_right fun _ => ?_
  split
  · next p t hw => simp [hw]
  · next hw => exact ⟨fun h => absurd h (by decide), fun ⟨t, ht, _⟩ => absurd ht (hw slot t)⟩

theorem olderEngine_iff {s : State} {slot since : Nat} : olderEngine s none slot since = true ↔
    ∃ c ∈ s.cmds, ∃ t, c.2.since = some (slot, t) ∧ t < since := by
  simp only [olderEngine, List.any_eq_true, Bool.and_eq_true, bne_iff_ne, ne_eq, reduceCtorEq, not_false_eq_true, true_and]
  refine exists_congr fun c => and_congr_right fun _ => ?_
  cases c.2.since with
  | none => simp
  | some q => simp [Prod.ext_iff]

theorem inSlot_iff {p pa n : Nat} : inSlot p pa n = true ↔ 0 < n ∧ pa < (p + 1) * 2 ^ 29 ∧ p * 2 ^ 29 < pa + n := by
  have h29 : 2 ^ 29 = Config.slotBytes := rfl
  simp only [inSlot, Bool.and_eq_true, bne_iff_ne, decide_eq_true_eq, Nat.pos_iff_ne_zero, and_assoc, h29]

theorem Outside.yields_iff {s : State} {since : Nat} {o : Outside} : o.yields s since = true ↔
    ∃ slot ∈ mkeys s.chans, (∃ r ∈ o.spans s, inSlot slot r.1 r.2 = true) ∧ WaitedLonger s since slot := by
  simp only [Outside.yields, List.any_eq_true, Bool.and_eq_true, Bool.or_eq_true, olderHart_iff, olderEngine_iff, WaitedLonger]

theorem step_outside {s : State} {rest : List Turn} (h : s.agenda = .own .outside 0 0 :: rest) :
    step s = ifEnabled { s with agenda := rest } (serveOutside { s with agenda := rest }) := by
  rw [step, h]
  rfl

section
variable {s : State} {o : Outside} {since : Nat} {more : List (Nat × Outside)} (hw : s.waiting = (since, o) :: more)
include hw

/-- One that is held, or that gives way, goes on waiting. -/
theorem serveOutside_stays (h : o.held s = true ∨ o.yields s since = true) : ifEnabled s (serveOutside s) = .next s := by
  rw [serveOutside, hw]
  exact congrArg _ (if_pos (Bool.or_eq_true_iff.2 h))

/-- Any other is performed as one that finds none waiting, and the others go on waiting. -/
theorem serveOutside_performs {u : State} (h1 : o.held s = false) (h2 : o.yields s since = false)
    (hp : performOutside o { s with waiting := [] } = .next u) : ifEnabled s (serveOutside s) = .next { u with waiting := more } := by
  rw [serveOutside, hw]
  dsimp only
  rw [h1, h2, hp]
  rfl

end

end Machine
end Sys2Proof

open Sys2Proof Sys2Proof.Machine

/-- Settles O54: an access waits or acts by `outsideAccess_spec`, its write leaves what `RangeWritten` says, and the one that waits first
stays or is performed by `serveOutside`. -/
theorem outsideAccesses : Obligations.OutsideAccesses := by
  intro s pa data n held now joins inside seen clean responds wrote
  refine ⟨fun hd hin => ?_, fun hd hlo hhi => ?_, fun hn hin => ?_, fun rest since more x y z ha p hp hw => ?_⟩
  · have hlen : 0 < data.length := List.length_pos_iff.2 hd
    obtain ⟨hpeer, hpeer'⟩ :=
      outsideAccess_spec (s := s) (o := .write true pa data) rfl rfl hlen (Nat.zero_le pa) hin exec_hostOrPeerWrite
    obtain ⟨hhost, hhost'⟩ :=
      outsideAccess_spec (s := s) (o := .write false pa data) rfl rfl hlen (Nat.zero_le pa) hin exec_hostOrPeerWrite
    refine ⟨hpeer, hhost, fun hnow => ⟨_, hpeer' hnow, rangeWrite_written hin⟩, fun hnow hsee => ?_, fun hnow hsee => ?_⟩
    · exact ⟨_, (hhost' hnow).trans (congrArg _ (if_pos ((hostVisible_iff hlen).2 hsee))), rangeWrite_written hin⟩
    · exact (hhost' hnow).trans (congrArg _ (if_neg fun h => hsee ((hostVisible_iff hlen).1 h)))
  · have hlen : 0 < data.length := List.length_pos_iff.2 hd
    obtain ⟨hsnoop, hsnoop'⟩ := outsideAccess_spec (s := s) (o := .snoop pa data) rfl rfl hlen hlo hhi exec_snoopInvalidate
    exact ⟨hsnoop, fun hnow => ⟨_, hsnoop' hnow, homeWrite_written hlo (by omega)⟩⟩
  · intro bytes found poisoned
    obtain ⟨hpeer, hpeer'⟩ := outsideAccess_spec (s := s) (o := .peerRead pa n) rfl rfl hn (Nat.zero_le pa) hin exec_peerRead
    obtain ⟨hhost, hhost'⟩ := outsideAccess_spec (s := s) (o := .cxlRead pa n) rfl rfl hn (Nat.zero_le pa) hin exec_cxlMemRead
    refine ⟨hpeer, hhost, fun hnow => ⟨fun hc => ?_, fun hc => ?_⟩,
      fun hnow => ⟨fun hc hsee => ?_, fun hsee => ?_, fun hc hsee => ?_⟩⟩
    · exact (hpeer' hnow).trans (congrArg _ (outsideRead_clean hc))
    · exact (hpeer' hnow).trans (congrArg _ (outsideRead_bad hc))
    · exact (hhost' hnow).trans (congrArg _ ((if_pos ((hostVisible_iff hn).2 hsee)).trans (outsideRead_clean hc)))
    · exact (hhost' hnow).trans (congrArg _ (if_neg fun h => hsee ((hostVisible_iff hn).1 h)))
    · exact (hhost' hnow).trans (congrArg _ ((if_pos ((hostVisible_iff hn).2 hsee)).trans (outsideRead_bad hc)))
  · intro r longer
    have hperf : ∀ u, performOutside p.1 u = exec p.2 u := fun u => by
      simp only [List.mem_cons, List.not_mem_nil, or_false] at hp
      rcases hp with rfl | rfl | rfl | rfl | rfl | rfl | rfl | rfl <;> rfl
    rw [step_outside ha]
    refine ⟨fun hh => serveOutside_stays (s := r) hw (.inl hh), fun at_ m hm hpos hslot => ?_, fun hh hl u hu => ?_⟩
    · obtain ⟨slot, hk, h1, h2, hlong⟩ := hslot
      exact serveOutside_stays (s := r) hw (.inr (Outside.yields_iff.2 ⟨slot, hk, ⟨_, hm, inSlot_iff.2 ⟨hpos, h1, h2⟩⟩, hlong⟩))
    · refine serveOutside_performs (s := r) hw hh (Bool.eq_false_iff.2 fun hy => ?_) ((hperf _).trans hu)
      obtain ⟨slot, -, -, hlong⟩ := Outside.yields_iff.1 hy
      exact hl slot hlong
end

section
/-! CERTIFICATES. Ticket waits (O37): a complete ticket collected, one under way, and a value that names none. -/

namespace Sys2Proof
namespace Machine

/-! ### A hart whose strip has just opened, with other tickets -/

/-- The state differs from a committed machine's in its executing hart's tickets, and perhaps beyond that hart. -/
def FreshBut (s e : State) : Prop := e.hart = { s.committed.hart with tickets := e.hart.tickets } ∧ e.gtime = s.gtime

/-- A second commit at the same word changes nothing, whatever the tickets. -/
theorem FreshBut.committed {s e : State} (h : FreshBut s e) : e.committed = e := by
  obtain ⟨hh, hg⟩ := h
  have hbuf : e.hart.regs.storeBuf = [] := by rw [hh]; exact committed_buf s
  have hperf : e.performAll = e := by
    have : ({ e.hart.regs with storeBuf := [] } : Regs) = e.hart.regs := by rw [← hbuf]
    simp only [State.performAll, State.regs, hbuf, List.foldl_nil, State.setRegs, this]
  have hsettle : e.settle = e := by
    have : commitTwins e.hart.regs = e.hart.regs := by rw [hh, committed_hart]; exact commitTwins_idem _
    simp only [State.settle, hperf, State.regs, State.setRegs, this]
  have hopen : ({ e.hart with
      ckpt := snapshot e.hart.regs e.hart.regs.pc, scp := e.hart.regs.pc.setWidth 57, stripOpened := e.gtime, early := false } : Hart)
      = e.hart := by
    rw [hg, hh, committed_hart]
    rfl
  simp only [State.committed, hsettle, State.openStrip, State.setHart, State.regs, hopen]

theorem FreshBut.mayCommit {s e : State} (h : FreshBut s e) (hm : MayCommit s) : MayCommit e := by
  obtain ⟨hh, -⟩ := h
  obtain ⟨h1, h2, h3, -⟩ := hm.committed
  have hbuf : e.hart.regs.storeBuf = [] := by rw [hh]; exact committed_buf s
  refine ⟨by rw [hh]; exact h1, ?_, ?_, by simp only [commitWait, State.regs, hbuf, List.findSome?_nil]⟩
  · simp only [AtConvoy, State.regs] at h2 ⊢
    rw [hh]
    exact h2
  · rw [State.regs, hh]
    exact h3

/-! ### A complete ticket (R262, R396) -/

/-- The machine once a ticket of the executing hart is free. -/
def State.freed (s : State) (t : Ticket) : State :=
  s.setHart { s.hart with tickets := s.hart.tickets.filter (fun u => u.value != t.value) }

theorem freed_freshBut {s : State} (t : Ticket) : FreshBut s (s.committed.freed t) := ⟨rfl, committed_gtime s⟩

section
variable {s : State} {d : BitVec 5} {t : Ticket} {w : XWord}

/-- Without EFT, or with a code that is no failure, the status word goes to the register. -/
theorem collect_sets (h : MayCommit s) (hw : s.hart.eft = false ∨ w.toNat % 2 ^ 8 < 0x10) :
    SetsIn (collect d t w s) (s.committed.freed t) d w := by
  have hf := freed_freshBut (s := s) t
  have hno : (s.committed.hart.eft && decide (0x10 ≤ xbits w 0 8)) = false := by
    rw [committed_hart]
    simp only [xbits, bitsAt, Nat.pow_zero, Nat.div_one, Bool.and_eq_false_iff, decide_eq_false_iff_not, Nat.not_le]
    exact hw
  have hm := hf.mayCommit h
  simp only [collect, preCommit_ok h, hno, Bool.false_eq_true, if_false]
  exact irreversible_setsIn hm (by rw [State.freed] at hf ⊢; rw [hf.committed]) hm.1 (committed_early s) (committed_buf s)

/-- Under EFT a failure raises ENGINE with the word. -/
theorem collect_traps (h : MayCommit s) (ht : Traps s) (he : s.hart.eft = true) (hw : 0x10 ≤ w.toNat % 2 ^ 8) :
    ∃ u, collect d t w s = .next u ∧ EntersTrap (s.committed.freed t).settle u { code := 0x0F, tv := w } false 0 s.regs.pc := by
  have hf := freed_freshBut (s := s) t
  have hyes : (s.committed.hart.eft && decide (0x10 ≤ xbits w 0 8)) = true := by
    rw [committed_hart]
    simp only [xbits, bitsAt, Nat.pow_zero, Nat.div_one, he, hw, decide_true, Bool.and_self]
  obtain ⟨u, hu, henters⟩ := takeTrap_precise (s := s.committed.freed t) (tr := { code := 0x0F, tv := w }) ht.committed
    (hf.mayCommit h) rfl rfl (heldByLeader_other (by simp [cXLAT])) rfl
  have hpc : (s.committed.freed t).hart.regs.pc = s.regs.pc := committed_pc s
  rw [hpc] at henters
  refine ⟨u, ?_, henters⟩
  simp only [collect, preCommit_ok h, hyes, if_true]
  exact hu

end

/-! ### TKWAIT and TKTEST -/

theorem committed_cmds (s : State) : s.committed.cmds = s.cmds := by rw [committed_frame]

/-- TKWAIT and TKTEST are one operation, which differ in what they do while the command is under way. -/
theorem ticketInstrs_ticketOp {s : State} {d a : BitVec 5} {sc : BitVec 3} {i : Instr} (hi : i ∈ [Instr.tkwait d a sc, .tktest d a sc]) :
    ∃ f, exec i s = ticketOp d a f s := by
  simp only [List.mem_cons, List.not_mem_nil, or_false] at hi
  obtain rfl | rfl := hi
  · exact ⟨_, exec_tkwait⟩
  · exact ⟨_, exec_tktest⟩

section
variable {s : State} {d a : BitVec 5} {f : Cmd → State → Eff State}

theorem ticketOp_complete {t : Ticket} {w : XWord} (hf : ticketOf s.hart (s.x a).toNat = some t) (hw : t.status = some w) :
    ticketOp d a f s = collect d t w s := by
  simp only [ticketOp, hf, hw]

theorem ticketOp_pending {t : Ticket} {k : Cmd} (hf : ticketOf s.hart (s.x a).toNat = some t) (hw : t.status = none)
    (hk : mget? s.cmds t.cmd = some k) :
    ∃ g, ticketOp d a f s = irreversible g s ∧ g s.committed = f k s.committed := by
  refine ⟨_, by simp only [ticketOp, hf, hw]; rfl, by rw [committed_cmds, hk]⟩

theorem ticketOp_unknown (hf : ticketOf s.hart (s.x a).toNat = none) :
    ticketOp d a f s = irreversible (fun u => do
      illegalWhen u (decide (2 ^ 16 ≤ (s.x a).toNat))
      return u.setX d (statusWord 2 0 0 0 0)) s := by
  simp only [ticketOp, hf]

end

/-- An instruction that ends in ILLEGAL at its own word after its commit. -/
theorem irreversible_illegal {s : State} {f : State → Eff State} (h : MayCommit s) (ht : Traps s)
    (hf : f s.committed = illegal s.committed) :
    ∃ u, irreversible f s = .next u ∧ EntersTrap s.committed.settle u { code := 0x01, tv := s.regs.pc } false 0 s.regs.pc := by
  obtain ⟨u, hu, he⟩ := irreversible_precise h ht hf rfl rfl (heldByLeader_other (by simp [cXLAT, cILLEGAL])) rfl
  rw [State.regs, committed_pc] at he
  exact ⟨u, hu, he⟩

end Machine
end Sys2Proof

open Sys2Proof Sys2Proof.Machine

/-- Settles O37: `ticketOp` by what it finds of the ticket, and `finishCmd` as it is defined. -/
theorem ticketWaits : Obligations.TicketWaits := by
  intro s d a sc h c found
  refine ⟨fun t w hf hw => ?_, fun t k hf hn hk => ⟨?_, ?_⟩, fun hf hv i hi => ?_, fun ht hf hv i hi => ?_,
    fun u n k code tflags detail hk => ?_⟩
  · intro freed
    have hfreed : freed = s.committed.freed t := by simp only [freed, c, State.freed, committed_hart]
    refine ⟨fun hok i hi => ?_, fun ht he hc i hi => ?_⟩
    all_goals
      obtain ⟨f, hx⟩ := ticketInstrs_ticketOp (s := s) hi
      rw [hx, ticketOp_complete hf hw, hfreed]
    · exact collect_sets h hok
    · exact collect_traps h ht he hc
  · obtain ⟨g, hg, he⟩ := ticketOp_pending (d := d) (f := fun _ _ => .error (.wait .ticket)) hf hn hk
    rw [exec_tkwait, execTkwait, hg]
    exact irreversible_waits (c := s) h he
  · obtain ⟨g, hg, he⟩ := ticketOp_pending (d := d) (f := fun c s => .ok (s.setX d (statusWord 1 c.op c.maj 0 0))) hf hn hk
    rw [exec_tktest, execTktest, hg]
    exact irreversible_setsIn h he (committed_tl h) (committed_early s) (committed_buf s)
  · obtain ⟨f, hx⟩ := ticketInstrs_ticketOp (s := s) hi
    rw [hx, ticketOp_unknown hf, decide_eq_false (Nat.not_le.2 hv)]
    exact irreversible_setsIn h rfl (committed_tl h) (committed_early s) (committed_buf s)
  · obtain ⟨f, hx⟩ := ticketInstrs_ticketOp (s := s) hi
    rw [hx, ticketOp_unknown hf, decide_eq_true hv]
    exact irreversible_illegal h ht rfl
  · intro h
    rw [State.finishCmd, hk]
    rfl
end

section
/-! SUPPORT. Engine commands at issue (R261, R263): what the checks of a command come to where they pass, and what an instruction
answers whose effect is a ticketed command. -/

namespace Sys2Proof
namespace Machine

/-! ### Checks that pass (R263) -/

/-- A part of an effect that completes hands what it leaves to the rest. -/
theorem Eff.then {α β : Type} {x : Eff α} {f : α → Eff β} {a : α} {r : Eff β} (hx : x = .ok a) (hr : f a = r) : (x >>= f) = r := by
  rw [hx]
  exact hr

/-- An effect that completes is made of parts that do. -/
theorem Eff.of_bind {α β : Type} {x : Eff α} {f : α → Eff β} {r : β} (h : (x >>= f) = .ok r) : ∃ a, x = .ok a ∧ f a = .ok r := by
  cases x with
  | error e => cases h
  | ok a => exact ⟨a, rfl, h⟩

/-- A check that is made in one case only, and passes there. -/
theorem Eff.thenWhen {α : Type} {c : Bool} {x : Eff Unit} {e r : Eff α} (hx : c = true → x = .ok ()) (hr : e = r) :
    (if c = true then x >>= fun _ => e else e) = r := by
  cases c with
  | true => exact Eff.then (hx rfl) hr
  | false => exact hr

theorem illegalWhen_ok {s : State} {c : Bool} (h : c = false) : illegalWhen s c = .ok () := by rw [h]; rfl

theorem keepFinds_ok {α : Type} (s : State) (a : α) : keepFinds s (.ok a) = .ok a := rfl

theorem keepFinds_illegalWhen {s t : State} {c : Bool} (h : c = false) : keepFinds s (illegalWhen t c) = .ok () := by
  rw [illegalWhen_ok h]
  rfl

theorem SpaceRange.ok {s : State} {a : XWord} {n al : Nat} (h : SpaceRange s a n al) (w : Bool) : spRange s w a n al = .ok () := by
  obtain ⟨h21, hal, hh, hr⟩ := h
  have hal' : alignedTo a al = true := beq_iff_eq.2 hal
  simp [spRange, xbits_high h21, hal', hh, Nat.not_lt.2 hr]

theorem SpaceRange.congr {s u : State} {a : XWord} {n al : Nat} (h : SpaceRange s a n al) (hh : u.holds = s.holds)
    (hr : u.core.request = s.core.request) : SpaceRange u a n al := by
  obtain ⟨h21, hal, hs, hn⟩ := h
  exact ⟨h21, hal, hh.trans hs, hr ▸ hn⟩

theorem SpaceRange.committed {s : State} {a : XWord} {n al : Nat} (h : SpaceRange s a n al) : SpaceRange s.committed a n al :=
  h.congr (committed_holds s) (committed_own_request s)

theorem TlbFrame.core {s t : State} (h : TlbFrame s t) : t.core = s.core := by rw [h.2]; rfl
theorem TlbFrame.x {s t : State} (h : TlbFrame s t) (r : BitVec 5) : t.x r = s.x r := by rw [h.2]; rfl
theorem TlbFrame.holds {s t : State} (h : TlbFrame s t) : t.holds = s.holds := by rw [h.2]; rfl

theorem MemoryRange.ok {s u : State} {acc : Access} {va : XWord} {n al : Nat} (h : MemoryRange s acc va n al u) :
    memRange s acc va n al = .ok u := by
  obtain ⟨pa, c, pb, hfirst, hlast⟩ := h
  simp only [memRange, hfirst, hlast, bind, Except.bind, pure, Except.pure]

theorem memRange_frame {s u : State} {acc : Access} {va : XWord} {n al : Nat} (h : memRange s acc va n al = .ok u) : TlbFrame s u := by
  obtain ⟨⟨pa, c⟩, hfirst, h⟩ := Eff.of_bind h
  obtain ⟨⟨pb, e⟩, hlast, h⟩ := Eff.of_bind h
  cases h
  exact (located_frame hfirst).trans (located_frame hlast)

theorem MemoryRange.frame {s u : State} {acc : Access} {va : XWord} {n al : Nat} (h : MemoryRange s acc va n al u) : TlbFrame s u :=
  memRange_frame h.ok

theorem ReadsDescriptor.frame {s u : State} {va : XWord} {n al v : Nat} (h : ReadsDescriptor s va n al v u) : TlbFrame s u := by
  obtain ⟨-, pa, ha, -, -⟩ := h
  exact access_frame ha

theorem ReadsDescriptor.ok {s u : State} {va : XWord} {n al v : Nat} (h : ReadsDescriptor s va n al v u) :
    readDesc s va n al = .ok (v, u) := by
  have hf := h.frame
  obtain ⟨-, pa, ha, hp, rfl⟩ := h
  simp only [readDesc, loadBytes, ha, hp, hf.seenBytes, bind, Except.bind, pure, Except.pure]
  rfl

/-- A step that is made or skipped: what it leaves is known in each case. -/
theorem ite_step {c : Bool} {s u : State} {f : Eff State} {p : Prop} (h : if c = true then u = s else p) (hp : p → f = .ok u) :
    (if c = true then pure s else f) = .ok u := by
  cases c with
  | true => rw [if_pos rfl] at h ⊢; rw [h]; rfl
  | false =>
    rw [if_neg Bool.false_ne_true] at h ⊢
    exact hp h

/-! ### A ticketed command (R261) -/

/-- What happens after a command has its ticket neither reads nor touches the register that the ticket goes to, nor the strip. -/
def AfterTicket (g : State → State) : Prop :=
  ∀ t d v, g (t.setX d v) = (g t).setX d v ∧ (FreshStrip t.hart → FreshStrip (g t).hart)

theorem afterTicket_id : AfterTicket id := fun _ _ _ => ⟨rfl, id⟩

theorem setX_setHartAt (s : State) (k : Nat) (d : BitVec 5) (v : XWord) (f : Hart → Hart)
    (hf : ∀ h, f { h with regs := writeX h.regs d v } = { f h with regs := writeX (f h).regs d v }) :
    (s.setX d v).setHartAt k (f ((s.setX d v).hartAt k)) = (s.setHartAt k (f (s.hartAt k))).setX d v := by
  by_cases hk : k = s.cur
  · subst hk
    simp only [State.setHartAt, State.hartAt, State.setX_cur, if_true]
    exact congrArg (fun x => { s with hart := x }) (hf s.hart)
  · have hk' : ¬k = (s.setX d v).cur := hk
    simp only [State.setHartAt, State.hartAt, if_neg hk, if_neg hk']
    rfl

theorem finishCmd_setX (s : State) (n code tflags detail : Nat) (d : BitVec 5) (v : XWord) :
    (s.setX d v).finishCmd n code tflags detail = (s.finishCmd n code tflags detail).setX d v := by
  simp only [State.finishCmd, State.setX_cmds]
  split
  · rfl
  · next c _ =>
    exact setX_setHartAt { s with cmds := mdel s.cmds n } c.hart d v (fun h => { h with
      tickets := h.tickets.map (fun t =>
        if t.cmd = n then { t with status := some (statusWord code c.op c.maj tflags detail) } else t) }) (fun _ => rfl)

/-- A command that ends changes nothing of the executing hart but its tickets. -/
theorem finishCmd_hart (s : State) (n code tflags detail : Nat) :
    (s.finishCmd n code tflags detail).hart = { s.hart with tickets := (s.finishCmd n code tflags detail).hart.tickets } := by
  simp only [State.finishCmd]
  split
  · rfl
  · next c _ =>
    by_cases hk : c.hart = s.cur
    · simp only [State.setHartAt, State.hartAt, hk, if_true]
    · simp only [State.setHartAt, State.hartAt, if_neg hk]

theorem afterTicket_finishCmd (n code tflags detail : Nat) : AfterTicket (fun t => t.finishCmd n code tflags detail) :=
  fun t d v => ⟨finishCmd_setX t n code tflags detail d v, fun h => by rw [finishCmd_hart]; exact h⟩

theorem afterTicket_enqueueMatrix (o : MatrixOp) : AfterTicket (fun t => t.enqueueMatrix o) := fun _ _ _ => ⟨rfl, id⟩

section
variable {s u : State} {d : BitVec 5} {op maj : Nat} {kind : CmdKind} {lines : List Nat × List XWord} {after : State → Nat → State}

theorem ticketed_full (h : 64 ≤ u.hart.tickets.length) : ticketed u d op maj kind lines after = u.setX d 0 := if_pos h

theorem ticketed_room (h : u.hart.tickets.length < 64) :
    ticketed u d op maj kind lines after =
      after ((u.issued op maj kind lines.1 lines.2).setX d ((freshTicket u).setWidth 64)) u.nextCmd := if_neg (Nat.not_le.2 h)

/-- An instruction whose effect on the committed machine is a ticketed command. -/
theorem irreversible_issues {f : State → Eff State} (h : MayCommit s) (hu : u.hart = s.committed.hart)
    (hf : f s.committed = .ok (ticketed u d op maj kind lines after)) (ha : AfterTicket (fun t => after t u.nextCmd)) :
    Issues (irreversible f s) u d op maj kind lines (fun t => after t u.nextCmd) := by
  have hs : FreshStrip u.hart := hu ▸ committed_freshStrip h
  refine ⟨fun hfull => ?_, fun hroom => ?_⟩
  · rw [ticketed_full hfull] at hf
    obtain ⟨h1, h2, h3⟩ := hs
    exact irreversible_setsIn h hf h1 h2 h3
  · rw [ticketed_room hroom] at hf
    obtain ⟨hset, hkeep⟩ := ha (u.issued op maj kind lines.1 lines.2) d ((freshTicket u).setWidth 64)
    dsimp only at hset
    rw [hset] at hf
    obtain ⟨h1, h2, h3⟩ := hkeep hs
    exact irreversible_setsIn h hf h1 h2 h3

end

end Machine
end Sys2Proof
end

section
/-! CERTIFICATES. Weight-array commands at issue (O39). -/

namespace Sys2Proof
namespace Machine

theorem handleOf_ok {s : State} {a : BitVec 5} (h0 : 0 < (s.x a).toNat) (h : (s.x a).toNat < 4096) :
    handleOf s.committed a = .ok (s.x a).toNat := by
  rw [handleOf, committed_x]
  exact if_neg (by omega)

/-- With its buffer empty a hart sees its scratchpad. -/
theorem spBytes_committed (s : State) (a n : Nat) : spBytes s.committed a n = (span a n).map (memRead s.committed.core.scratch) := by
  rw [spBytes, State.regs, committed_buf]
  rfl

/-- What CSTAT gives of a handle (R283). -/
def statOf (x : Option Handle) : Nat :=
  match x with
  | none => 0
  | some x => (match x.cur with | some v => v.num + 2 ^ 48 * v.arrays.length | none => 0) +
    (if x.pending.isSome then 2 ^ 32 else 0) + if x.rotating.isSome then 2 ^ 33 else 0

/-- K and N of a handle, 0 where there is none. -/
def kinOf (x : Option Handle) : Nat := match x with | some x => x.kin | none => 0
def nOf (x : Option Handle) : Nat := match x with | some x => x.n | none => 0

/-- The job of a CMV that issues on the state `c` (R282, R308). -/
def cmvJob (c : State) (h kin : Nat) (input ctl : XWord) (v : Version) : CmvJob :=
  { handle := h, version := v.num, input := (span input.toNat kin).map (memRead c.core.scratch), out := ctl.toNat % 2 ^ 21
    stat := ctl.toNat / 2 ^ 21 % 2 ^ 21, split := ctl.toNat.testBit 62, fp := ctl.toNat.testBit 63, done := [], retries := 0, sat := 0
    satBits := 0, discards := [] }

section
variable {s : State} {d a b r : BitVec 5} (h : MayCommit s) (h0 : 0 < (s.x a).toNat) (h4 : (s.x a).toNat < 4096)
include h h0 h4

theorem cwrite_issues {v : Nat} {u u1 u2 : State} (hd : ReadsDescriptor s.committed (s.x b) 32 32 v u)
    (hb : cwBad (BitVec.ofNat 256 v) = false)
    (hw : MemoryRange u .read (cwAddr (BitVec.ofNat 256 v))
      ((cwKin (BitVec.ofNat 256 v) - 1) * cwPitch (BitVec.ofNat 256 v) + cwN (BitVec.ofNat 256 v)) 1 u1)
    (hq : if cwScales (BitVec.ofNat 256 v) = 0 then u2 = u1
      else MemoryRange u1 .read (cwScales (BitVec.ofNat 256 v)) (4 * cwN (BitVec.ofNat 256 v)) 4 u2) :
    Issues (exec (.cwrite d a b) s) u2 d 1 2 (.cwrite (s.x a).toNat (BitVec.ofNat 256 v)) ([], []) id := by
  have hscales : ∃ e, (if cwScales (BitVec.ofNat 256 v) = 0 then pure u1
      else memRange u1 .read (cwScales (BitVec.ofNat 256 v)) (4 * cwN (BitVec.ofNat 256 v)) 4) = e ∧ e = Except.ok u2 ∧ u2.hart = u1.hart := by
    refine ⟨_, rfl, ?_⟩
    split at hq
    · next hz => rw [if_pos hz, hq]; exact ⟨rfl, rfl⟩
    · next hz => rw [if_neg hz]; exact ⟨hq.ok, hq.frame.hart⟩
  obtain ⟨e, he, hok, hhart⟩ := hscales
  have hu : u2.hart = s.committed.hart := by rw [hhart, hw.frame.hart, hd.frame.hart]
  rw [exec_cwrite]
  refine irreversible_issues h hu (after := fun t _ => t) ?_ afterTicket_id
  simp only [committed_x]
  exact Eff.then (handleOf_ok h0 h4) (Eff.then hd.ok (Eff.then (keepFinds_illegalWhen hb) (Eff.then hw.ok (Eff.then (he.trans hok) rfl))))

theorem ccommit_issues : Issues (exec (.ccommit d a) s) s.committed d 2 2 (.ccommit (s.x a).toNat) ([], []) id := by
  rw [exec_ccommit]
  refine irreversible_issues h rfl (after := fun t _ => t) ?_ afterTicket_id
  simp only [handleOf_ok h0 h4, bind, Except.bind, pure, Except.pure]

theorem cstat_sets :
    SetsIn (exec (.cstat d a) s) s.committed d (xword (statOf (s.committed.handleAt s.hart.ctx (s.x a).toNat))) := by
  have hctx : s.committed.hart.ctx = s.hart.ctx := by rw [committed_hart]
  rw [exec_cstat]
  refine irreversible_setsIn h ?_ (committed_tl h) (committed_early s) (committed_buf s)
  simp only [handleOf_ok h0 h4, hctx, bind, Except.bind, pure, Except.pure]
  rfl

/-- CCAL of a handle with no current version, with one that is degraded, and with a good one. -/
theorem ccal_issues :
    let cur := (s.committed.handleAt s.hart.ctx (s.x a).toNat).bind (·.cur)
    let hd := (s.x a).toNat
    (cur = none → Issues (exec (.ccal d a) s) s.committed d 4 2 (.ccal hd []) ([], [])
      (fun t => t.finishCmd s.committed.nextCmd 3 0 0)) ∧
    (∀ v, cur = some v → v.degraded = false →
      Issues (exec (.ccal d a) s) s.committed d 4 2 (.ccal hd (span 0 v.arrays.length)) ([], []) id) ∧
    (∀ v, cur = some v → v.degraded = true →
      Issues (exec (.ccal d a) s) s.committed d 4 2 (.ccal hd []) ([], []) (fun t => t.finishCmd s.committed.nextCmd 0x21 0
        ((v.arrays.findIdx? (fun j => (mgetD s.committed.warrays j .initial).failed)).getD 0))) := by
  have hctx : s.committed.hart.ctx = s.hart.ctx := by rw [committed_hart]
  intro cur hd
  rw [exec_ccal]
  refine ⟨fun hc => ?_, fun v hc hg => ?_, fun v hc hg => ?_⟩
  · refine irreversible_issues h rfl (after := fun t k => t.finishCmd k 3 0 0) ?_ (afterTicket_finishCmd _ _ _ _)
    simp only [handleOf_ok h0 h4, hctx, show Option.bind _ _ = none from hc, bind, Except.bind, pure, Except.pure]
    rfl
  · refine irreversible_issues h rfl (after := fun t _ => t) ?_ afterTicket_id
    simp only [handleOf_ok h0 h4, hctx, show Option.bind _ _ = some v from hc, hg, bind, Except.bind, pure, Except.pure]
    rfl
  · refine irreversible_issues h rfl (after := fun t k => t.finishCmd k 0x21 0 _) ?_ (afterTicket_finishCmd _ _ _ _)
    simp only [handleOf_ok h0 h4, hctx, show Option.bind _ _ = some v from hc, hg, bind, Except.bind, pure, Except.pure]
    rfl

/-- CMV of a handle with no current version, and with one. -/
theorem cmv_issues :
    let x := s.committed.handleAt s.hart.ctx (s.x a).toNat
    let ctl := s.x r
    ctl.toNat / 2 ^ 42 % 2 ^ 20 = 0 → SpaceRange s (s.x b) (kinOf x) 64 → SpaceRange s (xword (ctl.toNat % 2 ^ 21)) (4 * nOf x) 64 →
    SpaceRange s (xword (ctl.toNat / 2 ^ 21 % 2 ^ 21)) (8 + (nOf x + 7) / 8) 64 →
    (x.bind (·.cur) = none → Issues (exec (.cmv d a b r) s) s.committed d 0 2 (.ccommit (s.x a).toNat) ([], [])
      (fun t => t.finishCmd s.committed.nextCmd 3 0 0)) ∧
    (∀ v, x.bind (·.cur) = some v → Issues (exec (.cmv d a b r) s) s.committed d 0 2
      (.cmv (cmvJob s.committed (s.x a).toNat (kinOf x) (s.x b) ctl v)) ([], []) id) := by
  have hctx : s.committed.hart.ctx = s.hart.ctx := by rw [committed_hart]
  intro x ctl hres hin hout hstat
  have hout0 : cmvOut ctl = ctl.toNat % 2 ^ 21 := by simp [cmvOut, xbits, bitsAt]
  have hres' : (xbits ctl 42 20 != 0) = false := bne_eq_false_iff_eq.2 hres
  have ho := hout.committed.ok true
  rw [← hout0] at ho
  rw [exec_cmv]
  have hchecks : ∀ {α : Type} (g : Eff α) (e : α), g = .ok e → (do
      illegalWhen s.committed (xbits ctl 42 20 != 0)
      spRange s.committed false (s.x b) (kinOf x) 64
      spRange s.committed true (xword (cmvOut ctl)) (4 * nOf x) 64
      spRange s.committed true (xword (cmvStat ctl)) (8 + (nOf x + 7) / 8) 64
      g) = .ok e := fun g e hg =>
    Eff.then (illegalWhen_ok hres') (Eff.then (hin.committed.ok false) (Eff.then ho (Eff.then (hstat.committed.ok true) hg)))
  refine ⟨fun hc => ?_, fun v hc => ?_⟩
  · refine irreversible_issues h rfl (after := fun t k => t.finishCmd k 3 0 0) ?_ (afterTicket_finishCmd _ _ _ _)
    simp only [committed_x, hctx]
    refine Eff.then (handleOf_ok h0 h4) (hchecks _ _ ?_)
    rw [show (s.committed.handleAt s.hart.ctx (s.x a).toNat).bind (·.cur) = none from hc]
    rfl
  · refine irreversible_issues h rfl (after := fun t _ => t) ?_ afterTicket_id
    simp only [committed_x, hctx]
    refine Eff.then (handleOf_ok h0 h4) (hchecks _ _ ?_)
    rw [show (s.committed.handleAt s.hart.ctx (s.x a).toNat).bind (·.cur) = some v from hc, spBytes_committed,
      show cmvOut (s.x r) = (s.x r).toNat % 2 ^ 21 from hout0]
    rfl

end

end Machine
end Sys2Proof

open Sys2Proof Sys2Proof.Machine

/-- Settles O39: each instruction's checks pass, and its effect is then a ticketed command (`irreversible_issues`) or a register. -/
theorem arrayIssue : Obligations.ArrayIssue := by
  intro s d a b r h h0 h4
  obtain ⟨hnone, hgood, hdegraded⟩ := ccal_issues (d := d) h h0 h4
  exact ⟨fun v u u1 u2 hd hb hw hq => cwrite_issues h h0 h4 hd hb hw hq, ccommit_issues h h0 h4,
    fun hres hin hout hstat => cmv_issues h h0 h4 hres hin hout hstat, cstat_sets h h0 h4, hnone, hgood, hdegraded⟩
end

section
/-! CERTIFICATES. Copy commands at issue (O36). -/

namespace Sys2Proof
namespace Machine

/-! ### DCOPY and DFILL (R277) -/

theorem copyCount_eq (ctl : XWord) : copyCount ctl = ctl.toNat % 2 ^ 40 := by simp [copyCount, xbits, bitsAt]

/-- No reserved bit of a control register is set, and DFILL's has no source bit. -/
theorem copyBad_ok {fill : Bool} {ctl : XWord} (h40 : ctl.toNat / 2 ^ 40 % 2 ^ 20 = 0) (h62 : ctl.toNat / 2 ^ 62 = 0)
    (hs : fill = true → copySsp ctl = false) : copyBad fill ctl = false := by
  have h1 : xbits ctl 40 20 = 0 := h40
  have h2 : xbits ctl 62 2 = 0 := by rw [xbits, bitsAt, h62]; rfl
  rw [copyBad, h1, h2]
  cases fill with
  | false => rfl
  | true => rw [hs rfl]; rfl

section
variable {s : State} {d a b r : BitVec 5} (h : MayCommit s)
include h

/-- DCOPY and DFILL of no bytes complete at once. -/
theorem dcopy_empty (hb : copyBad false (s.x r) = false) (hn : copyCount (s.x r) = 0) :
    Issues (exec (.dcopy d a b r) s) s.committed d 0 1 (.copy (s.x a) (s.x b) 0 (copyDsp (s.x r)) (copySsp (s.x r))) ([], [])
      (fun t => t.finishCmd s.committed.nextCmd 0 0 0) := by
  rw [exec_dcopy]
  refine irreversible_issues h rfl (after := fun t k => t.finishCmd k 0 0 0) ?_ (afterTicket_finishCmd _ _ _ _)
  simp only [committed_x, hn, if_true]
  exact Eff.then (illegalWhen_ok hb) rfl

theorem dfill_empty (hb : copyBad true (s.x r) = false) (hn : copyCount (s.x r) = 0) :
    Issues (exec (.dfill d a b r) s) s.committed d 2 1 (.fill (s.x a) (s.x b) 0 (copyDsp (s.x r))) ([], [])
      (fun t => t.finishCmd s.committed.nextCmd 0 0 0) := by
  rw [exec_dfill]
  refine irreversible_issues h rfl (after := fun t k => t.finishCmd k 0 0 0) ?_ (afterTicket_finishCmd _ _ _ _)
  simp only [committed_x, hn, if_true]
  exact Eff.then (illegalWhen_ok hb) rfl

/-- A range of memory, unless the side is in S-space, where nothing is translated. -/
def SideRange (sp : Bool) (s : State) (acc : Access) (va : XWord) (n : Nat) (u : State) : Prop :=
  if sp = true then u = s else MemoryRange s acc va n 1 u

omit h in
theorem SideRange.ok {sp : Bool} {s u : State} {acc : Access} {va : XWord} {n : Nat} (hr : SideRange sp s acc va n u) :
    (if sp = true then pure s else memRange s acc va n 1) = Except.ok u := ite_step hr MemoryRange.ok

omit h in
theorem SideRange.frame {sp : Bool} {s u : State} {acc : Access} {va : XWord} {n : Nat} (hr : SideRange sp s acc va n u) : TlbFrame s u := by
  unfold SideRange at hr
  split at hr
  · rw [hr]; exact .refl s
  · exact hr.frame

/-- The lines that a destination owns: those of memory alone. -/
def destLines (dsp : Bool) (s : State) (dst : XWord) (n : Nat) : List Nat × List XWord := if dsp then ([], []) else linesOf s dst n

theorem dcopy_issues {u0 u1 : State} (hb : copyBad false (s.x r) = false) (hn : copyCount (s.x r) ≠ 0)
    (hs : copySsp (s.x r) = true → SpaceRange s (s.x b) (copyCount (s.x r)) 1)
    (hd : copyDsp (s.x r) = true → SpaceRange s (s.x a) (copyCount (s.x r)) 1)
    (hsrc : SideRange (copySsp (s.x r)) s.committed .read (s.x b) (copyCount (s.x r)) u0)
    (hdst : SideRange (copyDsp (s.x r)) u0 .write (s.x a) (copyCount (s.x r)) u1) :
    Issues (exec (.dcopy d a b r) s) u1 d 0 1 (.copy (s.x a) (s.x b) (copyCount (s.x r)) (copyDsp (s.x r)) (copySsp (s.x r)))
      (destLines (copyDsp (s.x r)) u1 (s.x a) (copyCount (s.x r))) id := by
  have hu : u1.hart = s.committed.hart := by rw [hdst.frame.hart, hsrc.frame.hart]
  rw [exec_dcopy]
  refine irreversible_issues h hu (after := fun t _ => t) ?_ afterTicket_id
  simp only [committed_x, if_neg hn]
  refine Eff.then (illegalWhen_ok hb) ?_
  exact Eff.thenWhen (fun e => (hs e).committed.ok false) (Eff.thenWhen (fun e => (hd e).committed.ok true)
    (Eff.then hsrc.ok (Eff.then hdst.ok rfl)))

theorem dfill_issues {u : State} (hb : copyBad true (s.x r) = false) (hn : copyCount (s.x r) ≠ 0)
    (hd : copyDsp (s.x r) = true → SpaceRange s (s.x a) (copyCount (s.x r)) 1)
    (hdst : SideRange (copyDsp (s.x r)) s.committed .write (s.x a) (copyCount (s.x r)) u) :
    Issues (exec (.dfill d a b r) s) u d 2 1 (.fill (s.x a) (s.x b) (copyCount (s.x r)) (copyDsp (s.x r)))
      (destLines (copyDsp (s.x r)) u (s.x a) (copyCount (s.x r))) id := by
  rw [exec_dfill]
  refine irreversible_issues h hdst.frame.hart (after := fun t _ => t) ?_ afterTicket_id
  simp only [committed_x, if_neg hn]
  exact Eff.then (illegalWhen_ok hb) (Eff.thenWhen (fun e => (hd e).committed.ok true) (Eff.then hdst.ok rfl))

end

/-! ### DCOPY2D (R278) -/

/-- The checks of one side of a DCOPY2D change translation caches alone. -/
theorem c2Side_frame {s u : State} {q : BitVec 512} {dest : Bool} (h : c2Side s q dest = .ok u) : TlbFrame s u := by
  unfold c2Side at h
  dsimp only at h
  by_cases hsp : (if dest = true then c2Dsp q else c2Ssp q) = true
  · rw [if_pos hsp] at h
    obtain ⟨-, -, h⟩ := Eff.of_bind h
    cases h
    exact .refl s
  · rw [if_neg hsp] at h
    obtain ⟨-, -, h⟩ := Eff.of_bind h
    exact memRange_frame h

/-- A side of a DCOPY2D checked, or skipped. -/
theorem c2Side_when {c : Bool} {s u : State} {q : BitVec 512} {dest : Bool} (h : if c = true then c2Side s q dest = .ok u else u = s) :
    (if c = true then c2Side s q dest else pure s) = .ok u ∧ TlbFrame s u := by
  cases c with
  | true => exact ⟨h, c2Side_frame h⟩
  | false =>
    obtain rfl : u = s := h
    exact ⟨rfl, .refl u⟩

theorem c2Side_unless {c : Bool} {s u : State} {q : BitVec 512} {dest : Bool} (h : if c = true then u = s else c2Side s q dest = .ok u) :
    (if c = true then pure s else c2Side s q dest) = .ok u ∧ TlbFrame s u := by
  cases c with
  | false => exact ⟨h, c2Side_frame h⟩
  | true =>
    obtain rfl : u = s := h
    exact ⟨rfl, .refl u⟩

/-- The lines that a DCOPY2D owns: those of each row of a destination in memory. -/
def c2Lines (q : BitVec 512) (u : State) : List (List Nat × List XWord) :=
  if c2Dsp q then [] else (span 0 (c2Rows q)).map (fun j => linesOf u (c2Dst q + xword (j * c2Dpitch q)) (c2Cols q * c2Width q))

theorem dcopy2d_issues {s u u1 u2 u3 u4 : State} {d a : BitVec 5} {v : Nat} (h : MayCommit s)
    (hr : ReadsDescriptor s.committed (s.x a) 64 64 v u) (hb : c2Bad (BitVec.ofNat 512 v) = false)
    (h1 : if c2Ssp (BitVec.ofNat 512 v) = true then c2Side u (BitVec.ofNat 512 v) false = .ok u1 else u1 = u)
    (h2 : if c2Dsp (BitVec.ofNat 512 v) = true then c2Side u1 (BitVec.ofNat 512 v) true = .ok u2 else u2 = u1)
    (h3 : if c2Ssp (BitVec.ofNat 512 v) = true then u3 = u2 else c2Side u2 (BitVec.ofNat 512 v) false = .ok u3)
    (h4 : if c2Dsp (BitVec.ofNat 512 v) = true then u4 = u3 else c2Side u3 (BitVec.ofNat 512 v) true = .ok u4) :
    Issues (exec (.dcopy2d d a) s) u4 d 1 1 (.copy2d (BitVec.ofNat 512 v))
      ((c2Lines (BitVec.ofNat 512 v) u4).flatMap (·.1), (c2Lines (BitVec.ofNat 512 v) u4).flatMap (·.2)) id := by
  obtain ⟨e1, f1⟩ := c2Side_when h1
  obtain ⟨e2, f2⟩ := c2Side_when h2
  obtain ⟨e3, f3⟩ := c2Side_unless h3
  obtain ⟨e4, f4⟩ := c2Side_unless h4
  rw [exec_dcopy2d]
  refine irreversible_issues h ((((hr.frame.trans f1).trans f2).trans f3).trans f4).hart (after := fun t _ => t) ?_ afterTicket_id
  simp only [committed_x]
  exact Eff.then hr.ok (Eff.then (keepFinds_illegalWhen hb) (Eff.then e1 (Eff.then e2 (Eff.then e3 (Eff.then e4 rfl)))))

/-! ### DDEAL (R279) -/

/-- A deal's position given to some cores touches no hart. -/
theorem afterTicket_dealIssued (cores : List Nat) : AfterTicket (fun t => t.dealIssued cores) := by
  have hcore : ∀ (t : State) (d : BitVec 5) (v : XWord),
      (t.setX d v).dealIssued cores = (t.dealIssued cores).setX d v ∧ (t.dealIssued cores).hart = t.hart := by
    unfold State.dealIssued
    induction cores with
    | nil => exact fun _ _ _ => ⟨rfl, rfl⟩
    | cons k l ih =>
      intro t d v
      have ht : (t.setX d v).coreAt k = t.coreAt k := rfl
      simp only [List.foldl_cons, ht]
      split
      · exact ih t d v
      · exact ih (t.setCoreAt k (dealStart (t.coreAt k) 0 0)) d v
  exact fun t d v => ⟨(hcore t d v).1, fun h => by rw [(hcore t d v).2]; exact h⟩

theorem ddeal_issues {s u w : State} {d a : BitVec 5} {v : Nat} (h : MayCommit s)
    (hr : ReadsDescriptor s.committed (s.x a) 32 64 v u) (hb : dealBad (BitVec.ofNat 256 v) = false)
    (hw : dealBase (BitVec.ofNat 256 v) + dealSlots (BitVec.ofNat 256 v) * dealSize (BitVec.ofNat 256 v) ≤ 4096)
    (hm : MemoryRange u .read (dealSrc (BitVec.ofNat 256 v))
      (dealExperts (BitVec.ofNat 256 v) * dealSize (BitVec.ofNat 256 v) * 128) 128 w) :
    let cores := (w.cores.filter (fun k => !s.hart.steward && k.2.holder == some s.hart.gang)).map (·.1)
    Issues (exec (.ddeal d a) s) w d 5 1 (.deal (BitVec.ofNat 256 v) 0 cores) ([], []) (fun t => t.dealIssued cores) := by
  intro cores
  have hhart : w.hart = s.committed.hart := by rw [hm.frame.hart, hr.frame.hart]
  have hcores : (w.cores.filter (fun k => !w.hart.steward && k.2.holder == some w.hart.gang)).map (·.1) = cores := by
    rw [hhart, committed_hart]
  rw [exec_ddeal]
  refine irreversible_issues h hhart (after := fun t _ => t.dealIssued cores) ?_ (afterTicket_dealIssued cores)
  simp only [committed_x]
  refine Eff.then hr.ok (Eff.then (keepFinds_illegalWhen hb) ?_)
  rw [if_neg (Nat.not_lt.2 hw)]
  refine Eff.then hm.ok ?_
  rw [← hcores]
  rfl

end Machine
end Sys2Proof

open Sys2Proof Sys2Proof.Machine

/-- Settles O36: each command's checks pass, and its effect is then a ticketed command (`irreversible_issues`). -/
theorem copyIssue : Obligations.CopyIssue := by
  intro s d a b r h c dst src ctl n dsp ssp
  have hn : copyCount (s.x r) = n := copyCount_eq (s.x r)
  refine ⟨fun h40 h62 => ⟨fun h0 => ?_, fun h0 u0 u1 hs hd hdst => ?_⟩, fun v u u1 u2 u3 u4 hr => ?_, fun v u w hr => ?_⟩
  · exact ⟨dcopy_empty h (copyBad_ok h40 h62 (by simp)) (hn.trans h0),
      fun hs => dfill_empty h (copyBad_ok h40 h62 fun _ => hs) (hn.trans h0)⟩
  · intro lines
    rw [← hn] at hs hd hdst h0
    refine ⟨fun hsrc => ?_, fun hssp hu => ?_⟩
    · have := dcopy_issues (d := d) h (copyBad_ok h40 h62 (by simp)) h0 hs hd (hn ▸ hsrc) hdst
      rw [hn] at this
      exact this
    · have := dfill_issues (d := d) (b := b) h (copyBad_ok h40 h62 fun _ => hssp) h0 hd (hu ▸ hdst)
      rw [hn] at this
      exact this
  · exact fun hb h1 h2 h3 h4 => dcopy2d_issues h hr hb h1 h2 h3 h4
  · exact fun hb hw hm => ddeal_issues h hr hb hw hm
end

section
/-! SUPPORT. What the accesses of an engine leave alone (R315 to R319). -/

namespace Sys2Proof
namespace Machine

/-- Nothing changed but memory, its note of writes, residues, error queues, function 0's records, translation caches, the number of the
next free value and what walks found. -/
def EngFrame (s t : State) : Prop :=
  t = { s with
    mem := t.mem, written := t.written, badUnits := t.badUnits, ctxs := t.ctxs, dev := t.dev, tlb := t.tlb, free := t.free
    agenda := t.agenda }

theorem EngFrame.refl (s : State) : EngFrame s s := Eq.refl s

theorem EngFrame.trans {s t u : State} (h : EngFrame s t) (g : EngFrame t u) : EngFrame s u := by
  unfold EngFrame at *
  rw [g, h]

theorem HomeFrame.eng {s t : State} (h : HomeFrame s t) : EngFrame s t := by
  unfold HomeFrame at h
  unfold EngFrame
  rw [h]

theorem TlbFrame.eng {s t : State} (h : TlbFrame s t) : EngFrame s t := by
  unfold EngFrame
  rw [h.2]

theorem EngFrame.hart {s t : State} (h : EngFrame s t) : t.hart = s.hart := by rw [h]
theorem EngFrame.cur {s t : State} (h : EngFrame s t) : t.cur = s.cur := by rw [h]
theorem EngFrame.coreId {s t : State} (h : EngFrame s t) : t.coreId = s.coreId := by rw [h]; rfl

/-- What an engine's access comes to: an address, or what its walk has found and drawn (R406, R412). -/
theorem engAddr_frame {s t : State} {cmd pa : Nat} {acc : Access} {va : XWord} (h : engAddr s cmd acc va = .ok (pa, t)) :
    TlbFrame s t := by
  unfold engAddr at h
  dsimp only at h
  split at h
  · cases h
  · split at h
    · cases h
    · cases h
    · next hl =>
      split at h
      · cases h
      · split at h
        · cases h
        · split at h
          · cases h
          · cases h
            exact locatedBy_frame hl

theorem engAddr_failed {s t : State} {cmd code : Nat} {acc : Access} {va : XWord} (h : engAddr s cmd acc va = .error (.fail code t)) :
    EngFrame s t := by
  unfold engAddr at h
  dsimp only at h
  split at h
  · cases h
  · split at h
    · cases h
      exact (foundBad_frame _ _ _ _).eng.trans (Eq.refl _)
    · cases h
    · next hl =>
      split at h
      · cases h
        exact (locatedBy_frame hl).eng
      · split at h
        · cases h
        · split at h
          · cases h
          · cases h

theorem Eng.of_bind {α β : Type} {x : Eng α} {f : α → Eng β} {r : β} (h : (x >>= f) = .ok r) : ∃ a, x = .ok a ∧ f a = .ok r := by
  cases x with
  | error e => cases h
  | ok a => exact ⟨a, rfl, h⟩

/-- A part of an engine's work fails, or what follows it does. -/
theorem Eng.of_bind_error {α β : Type} {x : Eng α} {f : α → Eng β} {e : EngStop} (h : (x >>= f) = .error e) :
    x = .error e ∨ ∃ a, x = .ok a ∧ f a = .error e := by
  cases x with
  | error e' => exact .inl (by cases h; rfl)
  | ok a => exact .inr ⟨a, rfl, h⟩

theorem engRead_frame {s t : State} {cmd n : Nat} {va : XWord} {bs : List Byte} {bad : List Nat}
    (h : engRead s cmd va n = .ok (bs, bad, t)) : EngFrame s t := by
  obtain ⟨⟨pa, u⟩, ha, h⟩ := Eng.of_bind h
  cases h
  exact (engAddr_frame ha).eng.trans (foundBad_frame _ _ _ _).eng

theorem engReadGood_frame {s t : State} {cmd n : Nat} {va : XWord} {bs : List Byte} (h : engReadGood s cmd va n = .ok (bs, t)) :
    EngFrame s t := by
  obtain ⟨⟨b, bad, u⟩, hr, h⟩ := Eng.of_bind h
  dsimp only at h
  split at h
  · cases h
    exact engRead_frame hr
  · cases h

theorem engReadGood_failed {s t : State} {cmd n code : Nat} {va : XWord} (h : engReadGood s cmd va n = .error (.fail code t)) :
    EngFrame s t := by
  obtain h | ⟨⟨b, bad, u⟩, hr, h⟩ := Eng.of_bind_error h
  · obtain h | ⟨⟨pa, u⟩, -, h⟩ := Eng.of_bind_error h
    · exact engAddr_failed h
    · cases h
  · dsimp only at h
    split at h
    · cases h
    · cases h
      exact engRead_frame hr

theorem readWords_frame {s t : State} {cmd : Nat} {va : XWord} {l : List Nat} {ws : List Word}
    (h : readWords s cmd va l = .ok (ws, t)) : EngFrame s t := by
  induction l generalizing s ws with
  | nil => cases h; exact .refl _
  | cons i l ih =>
    obtain ⟨⟨bs, u⟩, hr, h⟩ := Eng.of_bind h
    obtain ⟨⟨rest, w⟩, hw, h⟩ := Eng.of_bind h
    cases h
    exact (engReadGood_frame hr).trans (ih hw)

theorem readWords_failed {s t : State} {cmd code : Nat} {va : XWord} {l : List Nat}
    (h : readWords s cmd va l = .error (.fail code t)) : EngFrame s t := by
  induction l generalizing s with
  | nil => cases h
  | cons i l ih =>
    obtain h | ⟨⟨bs, u⟩, hr, h⟩ := Eng.of_bind_error h
    · exact engReadGood_failed h
    · obtain h | ⟨⟨rest, w⟩, -, h⟩ := Eng.of_bind_error h
      · exact (engReadGood_frame hr).trans (ih h)
      · cases h

end Machine
end Sys2Proof
end

section
/-! CERTIFICATES. Bank commands at issue, and BSTAT (O40). -/

namespace Sys2Proof
namespace Machine

/-- What becomes of a bank command once it has its ticket `n`: it joins the queue of its target's pseudo-channel, or ends with
INTERLEAVED (R284, R289). -/
def State.joinBank (t : State) (pa n : Nat) : State :=
  if dedicatedAt t pa then
    t.setChanAt (pa / Config.slotBytes) { t.chanAt (pa / Config.slotBytes) with
      queue := (t.chanAt (pa / Config.slotBytes)).queue ++ [n] }
  else t.finishCmd n 0x30 0 0

theorem afterTicket_joinBank (pa n : Nat) : AfterTicket (fun t => t.joinBank pa n) := by
  intro t d v
  have hd : dedicatedAt (t.setX d v) pa = dedicatedAt t pa := rfl
  by_cases hp : dedicatedAt t pa = true
  · simp only [State.joinBank, hd, hp, if_true]
    exact ⟨rfl, id⟩
  · simp only [State.joinBank, hd, hp]
    exact afterTicket_finishCmd n 0x30 0 0 t d v

/-- An instruction whose effect on the committed machine is a bank command. -/
theorem bankCommand_issues {s u : State} {f : State → Eff State} {d : BitVec 5} {op pa : Nat} {kind : CmdKind} (h : MayCommit s)
    (hu : u.hart = s.committed.hart) (hf : f s.committed = .ok (bankCommand u d op pa kind)) :
    Issues (irreversible f s) u d op 3 kind ([], []) (fun t => t.joinBank pa u.nextCmd) :=
  irreversible_issues h hu (after := fun t n => t.joinBank pa n) hf (afterTicket_joinBank pa u.nextCmd)

/-! ### BINST (R284, R293) -/

/-- What BINST does with its image, once its header line and its target are checked. -/
def binstRead (d : BitVec 5) (va : XWord) (pa slot : Nat) (s : State) : Eff State :=
  let issue := fun (s : State) (r : ImageRead) => bankCommand s d 0 pa (.binst r pa slot)
  if !dedicatedAt s pa || decide (Config.maxTickets ≤ s.hart.tickets.length) then .ok (issue s (.bad 0 0))
  else match readImage s s.nextCmd va with
    | .error (.hold w) => .error (.wait w)
    | .error (.fail code t) => .ok (issue t (.bad code 0))
    | .ok (.error none, t) => .ok (issue t (.bad 0x31 0xFFFFFFFFFF))
    | .ok (.error (some i), t) => .ok (issue t (.bad 0x31 i))
    | .ok (.ok h, t) => .ok (issue t (.good h))

section
variable {s w t : State} {d : BitVec 5} {va : XWord} {pa slot : Nat}

theorem binstRead_unread (h : dedicatedAt w pa = false ∨ 64 ≤ w.hart.tickets.length) :
    binstRead d va pa slot w = .ok (bankCommand w d 0 pa (.binst (.bad 0 0) pa slot)) := by
  refine if_pos ?_
  rw [Bool.or_eq_true, decide_eq_true_iff]
  exact h.imp (fun h => by rw [h]; rfl) id

/-- The image read: the target is dedicated, and there is a ticket to give. -/
def Reads (w : State) (pa : Nat) : Prop := dedicatedAt w pa = true ∧ w.hart.tickets.length < 64

theorem Reads.go (h : Reads w pa) : (!dedicatedAt w pa || decide (Config.maxTickets ≤ w.hart.tickets.length)) = false := by
  have hroom : ¬Config.maxTickets ≤ w.hart.tickets.length := Nat.not_le.2 h.2
  rw [h.1, decide_eq_false hroom]
  rfl

theorem binstRead_hold (h : Reads w pa) {x : Wait} (hr : readImage w w.nextCmd va = .error (.hold x)) :
    binstRead d va pa slot w = .error (.wait x) := by
  simp only [binstRead, h.go, hr, Bool.false_eq_true, if_false]

theorem binstRead_fail (h : Reads w pa) {code : Nat} (hr : readImage w w.nextCmd va = .error (.fail code t)) :
    binstRead d va pa slot w = .ok (bankCommand t d 0 pa (.binst (.bad code 0) pa slot)) := by
  simp only [binstRead, h.go, hr, Bool.false_eq_true, if_false]

theorem binstRead_noHeader (h : Reads w pa) (hr : readImage w w.nextCmd va = .ok (.error none, t)) :
    binstRead d va pa slot w = .ok (bankCommand t d 0 pa (.binst (.bad 0x31 0xFFFFFFFFFF) pa slot)) := by
  simp only [binstRead, h.go, hr, Bool.false_eq_true, if_false]

theorem binstRead_badWord (h : Reads w pa) {i : Nat} (hr : readImage w w.nextCmd va = .ok (.error (some i), t)) :
    binstRead d va pa slot w = .ok (bankCommand t d 0 pa (.binst (.bad 0x31 i) pa slot)) := by
  simp only [binstRead, h.go, hr, Bool.false_eq_true, if_false]

theorem binstRead_good (h : Reads w pa) {x : Handler} (hr : readImage w w.nextCmd va = .ok (.ok x, t)) :
    binstRead d va pa slot w = .ok (bankCommand t d 0 pa (.binst (.good x) pa slot)) := by
  simp only [binstRead, h.go, hr, Bool.false_eq_true, if_false]

end

/-! ### Images (Table 15.2, R293) -/

/-- The words of an image all pass. -/
theorem find_bad_none {ws : List Word} {count : Nat} (h : ∀ i, i < ws.length → brixemWordOk (ws.getD i 0) i count = true) :
    (ws.zipIdx).find? (fun wi => !brixemWordOk wi.1 wi.2 count) = none := by
  refine List.find?_eq_none.2 fun ⟨w, i⟩ hm => ?_
  obtain ⟨hi, he⟩ := List.mem_zipIdx' hm
  have hok := h i hi
  rw [List.getD_eq_getElem _ _ hi, ← he] at hok
  simp [hok]

/-- The first word of an image that does not pass. -/
theorem find_bad_first {ws : List Word} {count i : Nat} (hi : i < ws.length) (hb : brixemWordOk (ws.getD i 0) i count = false)
    (hf : ∀ j, j < i → brixemWordOk (ws.getD j 0) j count = true) :
    (ws.zipIdx).find? (fun wi => !brixemWordOk wi.1 wi.2 count) = some (ws[i], i) := by
  refine List.find?_eq_some_iff_getElem.2 ⟨?_, i, by simpa using hi, by simp, fun j hj => ?_⟩
  · rw [List.getD_eq_getElem _ _ hi] at hb
    simp [hb]
  · have hok := hf j hj
    rw [List.getD_eq_getElem _ _ (by omega)] at hok
    simp [hok]

section
variable {s t u : State} {cmd : Nat} {va : XWord} {hd : List Byte} {count bound sp : Nat} {ws : List Word}

theorem readImage_stops {e : EngStop} (h : engReadGood s cmd va 64 = .error e) : readImage s cmd va = .error e := by
  rw [readImage, h]
  rfl

variable (hh : engReadGood s cmd va 64 = .ok (hd, t))
include hh

theorem readImage_noHeader (hi : imageHeader (leNat hd) = none) : readImage s cmd va = .ok (.error none, t) := by
  simp only [readImage, hh, hi, bind, Except.bind, pure, Except.pure]

variable (hi : imageHeader (leNat hd) = some (count, bound, sp))
include hi

theorem readImage_words_stop {e : EngStop} (hw : readWords t cmd (va + 64) (span 0 count) = .error e) :
    readImage s cmd va = .error e := by
  simp only [readImage, hh, hi, hw, bind, Except.bind]

variable (hw : readWords t cmd (va + 64) (span 0 count) = .ok (ws, u))
include hw

theorem readImage_good (hok : ∀ i, i < ws.length → brixemWordOk (ws.getD i 0) i count = true) :
    readImage s cmd va = .ok (.ok { bound := bound, span := sp, words := ws.toArray }, u) := by
  simp only [readImage, hh, hi, hw, find_bad_none hok, bind, Except.bind, pure, Except.pure]

theorem readImage_badWord {i : Nat} (hl : i < ws.length) (hb : brixemWordOk (ws.getD i 0) i count = false)
    (hf : ∀ j, j < i → brixemWordOk (ws.getD j 0) j count = true) : readImage s cmd va = .ok (.error (some i), u) := by
  simp only [readImage, hh, hi, hw, find_bad_first hl hb hf, bind, Except.bind, pure, Except.pure]

end

/-! ### BINST, BMSG and BSTAT -/

/-- Bytes of a range that was read are those of the part of the range. -/
theorem memReadN_slice {m : List Host.Cell} {a n i k : Nat} (h : i + k ≤ n) : ((memReadN m a n).drop i).take k = memReadN m (a + i) k := by
  obtain ⟨r, rfl⟩ := Nat.exists_eq_add_of_le h
  rw [memReadN, Nat.add_assoc, span_append, span_append, List.map_append, List.drop_left' (by rw [List.length_map, span_length]),
    List.map_append, List.take_left' (by rw [List.length_map, span_length])]
  rfl

section
variable {s u w : State} {d a b r : BitVec 5} {v pa : Nat}

/-- BINST, once its header line and its target are checked, is what `binstRead` does. -/
theorem exec_binst_reads (hslot : (s.x r).toNat ≤ 15) (hd : ReadsDescriptor s.committed (s.x a) 64 64 v u)
    (ht : located u .write (s.x b) 1 0 = .ok (pa, w)) :
    ∃ f, exec (.binst d a b r) s = irreversible f s ∧ f s.committed = binstRead d (s.x a) pa (s.x r).toNat w := by
  have hl : ∃ bs, loadBytes s.committed .read (s.x a) 64 64 0 = .ok (bs, u) := by
    obtain ⟨⟨bs, u'⟩, hl, he⟩ := Eff.of_bind hd.ok
    cases he
    exact ⟨bs, hl⟩
  obtain ⟨bs, hl⟩ := hl
  have hub : u.x b = s.x b := (hd.frame.x b).trans (committed_x s b)
  have hwa : w.x a = s.x a := ((hd.frame.trans (located_frame ht)).x a).trans (committed_x s a)
  refine ⟨_, exec_binst, ?_⟩
  simp only [committed_x]
  refine Eff.then (illegalWhen_ok (decide_eq_false (Nat.not_lt.2 hslot))) (Eff.then hl (Eff.then (hub ▸ ht) ?_))
  simp only [hwa]
  rfl

variable (h : MayCommit s)
include h

theorem bmsg_issues (hn : 1 ≤ (s.x r).toNat / 2 ^ 21) (hn' : (s.x r).toNat / 2 ^ 21 < 64) (hrow : SpaceRange s (s.x b) 64 64)
    (hslot : leNat ((memReadN s.committed.core.scratch (s.x b).toNat 64).take 1) ≤ 15)
    (hres : leNat (((memReadN s.committed.core.scratch (s.x b).toNat 64).drop 1).take 7) = 0)
    (hreply : SpaceRange s (xword ((s.x r).toNat % 2 ^ 21)) (64 * ((s.x r).toNat / 2 ^ 21)) 64)
    (ht : located s.committed .write (s.x a) 1 0 = .ok (pa, w)) :
    Issues (exec (.bmsg d a b r) s) w d 1 3
      (.bmsg pa (s.x a) (leNat ((memReadN s.committed.core.scratch (s.x b).toNat 64).take 1))
        ((span 0 7).map (fun j => xword (leNat (memReadN s.committed.core.scratch ((s.x b).toNat + 8 + 8 * j) 8))))
        ((s.x r).toNat % 2 ^ 21) ((s.x r).toNat / 2 ^ 21)) ([], []) (fun t => t.joinBank pa w.nextCmd) := by
  have hreply0 : xbits (s.x r) 0 21 = (s.x r).toNat % 2 ^ 21 := by simp [xbits, bitsAt]
  have hcount : xbits (s.x r) 21 6 = (s.x r).toNat / 2 ^ 21 := by simp only [xbits, bitsAt]; omega
  have hbad : (xbits (s.x r) 27 37 != 0 || xbits (s.x r) 21 6 == 0) = false := by
    have h27 : xbits (s.x r) 27 37 = 0 := by simp only [xbits, bitsAt]; omega
    rw [hcount, h27, beq_false_of_ne (by omega : (s.x r).toNat / 2 ^ 21 ≠ 0)]
    rfl
  have hbytes : spBytes s.committed (s.x b).toNat 64 = memReadN s.committed.core.scratch (s.x b).toNat 64 := spBytes_committed s _ _
  have hbad' : (decide (15 < leNat ((memReadN s.committed.core.scratch (s.x b).toNat 64).take 1)) ||
      leNat (((memReadN s.committed.core.scratch (s.x b).toNat 64).drop 1).take 7) != 0) = false := by
    rw [decide_eq_false (Nat.not_lt.2 hslot), hres]
    rfl
  have hargs : (span 0 7).map (fun i => xword (leNat (((memReadN s.committed.core.scratch (s.x b).toNat 64).drop (8 + 8 * i)).take 8))) =
      (span 0 7).map (fun j => xword (leNat (memReadN s.committed.core.scratch ((s.x b).toNat + 8 + 8 * j) 8))) := by
    refine List.map_congr_left fun i hi => ?_
    have hlt := (mem_span.1 hi).2
    rw [memReadN_slice (by omega), Nat.add_assoc]
  have hwa : w.x a = s.x a := ((located_frame ht).x a).trans (committed_x s a)
  rw [exec_bmsg]
  refine bankCommand_issues h (located_frame ht).hart ?_
  simp only [committed_x, hbytes, hreply0, hcount]
  rw [hcount] at hbad
  refine Eff.then (illegalWhen_ok hbad) (Eff.then (hrow.committed.ok false) (Eff.then (illegalWhen_ok hbad')
    (Eff.then (hreply.committed.ok true) (Eff.then ht ?_))))
  simp only [hwa]
  exact congrArg (fun l => Except.ok (bankCommand w d 1 pa (.bmsg pa (s.x a) _ l _ _))) hargs

theorem bstat_sets (ht : located s.committed .write (s.x a) 1 0 = .ok (pa, w)) :
    let p := pa / Config.slotBytes
    let k := s.committed.chanAt p
    SetsIn (exec (.bstat d a) s) w d (if dedicatedAt s.committed pa then
      xword (setOf (mkeys k.handlers) + (if k.allBank then 2 ^ 16 else 0) +
        2 ^ 32 * (mgetD s.committed.kitties (p / 128) .initial).level) else 0) := by
  intro p k
  have hf := located_frame ht
  have hd : dedicatedAt w pa = dedicatedAt s.committed pa := by rw [hf.2]; rfl
  have hk : w.chanAt p = k := by rw [hf.2]; rfl
  have hkit : w.kitties = s.committed.kitties := by rw [hf.2]
  obtain ⟨h1, h2, h3⟩ := hf.hart ▸ committed_freshStrip h
  rw [exec_bstat]
  refine irreversible_setsIn h ?_ h1 h2 h3
  simp only [committed_x]
  refine Eff.then ht ?_
  dsimp only
  rw [hd]
  cases hc : dedicatedAt s.committed pa with
  | false => rfl
  | true =>
    simp only [State.kittyAt, hkit, show w.chanAt (pa / Config.slotBytes) = k from hk]
    rfl

end

end Machine
end Sys2Proof

open Sys2Proof Sys2Proof.Machine

/-- Settles O40: BINST by what `readImage` comes to, BMSG by the checks of its message row, BSTAT by its target. -/
theorem bankIssue : Obligations.BankIssue := by
  intro s d a b r h c joins
  refine ⟨fun v u pa w hslot hd ht => ?_, fun pa w => ?_, fun pa w ht => bstat_sets h ht⟩
  · intro found
    obtain ⟨f, hf, hread⟩ := exec_binst_reads (d := d) hslot hd ht
    have hw : w.hart = s.committed.hart := ((hd.frame.trans (located_frame ht)).hart)
    have hfound : ∀ t image, EngFrame w t →
        binstRead d (s.x a) pa (s.x r).toNat w = .ok (bankCommand t d 0 pa (.binst image pa (s.x r).toNat)) → found t image := by
      intro t image he hb
      have := bankCommand_issues h (he.hart.trans hw) (hread.trans hb)
      rw [← hf] at this
      exact this
    refine ⟨fun hno => hfound w _ (.refl w) (binstRead_unread hno), fun hded hroom => ?_⟩
    have hr : Reads w pa := ⟨hded, hroom⟩
    refine ⟨fun code t hc => ?_, fun x hc => ?_, fun hd t hh => ⟨fun hi => ?_, fun count bound sp hi ws t1 hws => ⟨fun hok => ?_, fun i hl hb hp => ?_⟩⟩⟩
    · obtain hc | ⟨hd, t0, count, bound, sp, hh, hi, hws⟩ := hc
      · exact hfound t _ (engReadGood_failed hc) (binstRead_fail hr (readImage_stops hc))
      · exact hfound t _ ((engReadGood_frame hh).trans (readWords_failed hws)) (binstRead_fail hr (readImage_words_stop hh hi hws))
    · rw [hf]
      refine irreversible_waits (c := s) h (hread.trans (binstRead_hold hr ?_))
      obtain hc | ⟨hd, t0, count, bound, sp, hh, hi, hws⟩ := hc
      · exact readImage_stops hc
      · exact readImage_words_stop hh hi hws
    · exact hfound t _ (engReadGood_frame hh) (binstRead_noHeader hr (readImage_noHeader hh hi))
    · exact hfound t1 _ ((engReadGood_frame hh).trans (readWords_frame hws)) (binstRead_good hr (readImage_good hh hi hws hok))
    · exact hfound t1 _ ((engReadGood_frame hh).trans (readWords_frame hws)) (binstRead_badWord hr (readImage_badWord hh hi hws hl hb hp))
  · exact fun hn hn' hrow hslot hres hreply ht => bmsg_issues h hn hn' hrow hslot hres hreply ht
end

section
/-! CERTIFICATES. Matrix instructions at issue (O34). -/

namespace Sys2Proof
namespace Machine

/-! ### The checks that matrix instructions share (R77, R88, R264) -/

theorem needsStores_ok {s : State} (h : s.holds = true) (w : Bool) : needsStores s w = .ok () := if_pos h

theorem matrixRoom_ok {s : State} (h : s.hart.matrixQ.length < 16) : matrixRoom s = .ok () := if_neg (Nat.not_le.2 h)

theorem matrixRoom_full {s : State} (h : ¬s.hart.matrixQ.length < 16) : matrixRoom s = .error (.wait .matrix) :=
  if_pos (Nat.not_lt.1 h)

theorem matrixDrained_ok {s : State} (h : s.hart.matrixQ = []) : matrixDrained s = .ok () := by rw [matrixDrained, h]; rfl

theorem matrixDrained_waits {s : State} (h : s.hart.matrixQ ≠ []) : matrixDrained s = .error (.wait .matrix) :=
  if_neg (by simpa using h)

theorem wbufRange_ok {w : Bool} {off n : Nat} (h : off + n ≤ Config.wbufBytes) : wbufRange w off n = .ok () := if_neg (Nat.not_lt.2 h)

/-- A part of an effect that stops ends it. -/
theorem Eff.stops {α β : Type} {x : Eff α} {f : α → Eff β} {e : Stop} (hx : x = .error e) : (x >>= f) = .error e := by
  rw [hx]
  rfl

theorem committed_matrixQ (s : State) : s.committed.hart.matrixQ = s.hart.matrixQ := by rw [committed_hart]

/-- The stores of a hart whose gang holds them, once the strip is committed. -/
theorem needsStores_committed {s : State} (h : s.holds = true) (w : Bool) : needsStores s.committed w = .ok () :=
  needsStores_ok ((committed_holds s).trans h) w

/-- An irreversible instruction whose effect changes no register, on a state that differs from the committed one beyond its strip. -/
theorem irreversible_leaves {s c : State} {f : State → Eff State} (h : MayCommit s) (hf : f s.committed = .ok c)
    (hc : FreshStrip c.hart) : SetsIn (irreversible f s) c 0 0 := by
  obtain ⟨h1, h2, h3⟩ := hc
  exact irreversible_setsIn h (hf.trans (congrArg Except.ok (setX_zero c 0).symm)) h1 h2 h3

/-- An instruction whose last check is that the queue has room waits while it has none (R264). -/
theorem room_last {s u t : State} {f : State → Eff State} (h : MayCommit s) (hq : u.hart.matrixQ = s.hart.matrixQ)
    (hf : f s.committed = matrixRoom u >>= fun _ => .ok t) :
    (¬s.hart.matrixQ.length < 16 → Waits (irreversible f s) s.committed .matrix) ∧
    (s.hart.matrixQ.length < 16 → f s.committed = .ok t) := by
  rw [← hq]
  exact ⟨fun hr => irreversible_waits (c := s) h (hf.trans (Eff.stops (matrixRoom_full hr))),
    fun hr => hf.trans (Eff.then (matrixRoom_ok hr) rfl)⟩

/-! ### MDRAIN's destination and amax word (R263, R274) -/

/-- The checks of MDRAIN's destination pass: a range of S-space, or of memory that is translated. -/
def DrainDest (s : State) (q : BitVec 256) (u0 u1 : State) : Prop :=
  let w := (drainFormat q).bytes
  let dest := drainDest q
  let extent := 63 * drainPitch q + 64 * w
  (drainSp q = true → u1 = u0 ∧ (if drainColumns q
    then SpaceRange s (dest &&& ~~~63) (64 * (drainPitch q * (63 * w / 64) + 64)) 64
    else SpaceRange s dest extent 64 ∧ dest.toNat + drainPitch q < 2 ^ 21 ∧ drainPitch q % w = 0)) ∧
  (drainSp q = false → memForm u0 true dest w = .ok () ∧ (dest + xword (drainPitch q)).toNat % w = 0 ∧
    MemoryRange u0 .write dest extent w u1)

/-- A pitched range of S-space whose rows all lie in it. -/
theorem spPitched_ok {s : State} {a : XWord} {pitch w n : Nat} (h : SpaceRange s a n 64) (hp : a.toNat + pitch < 2 ^ 21)
    (hw : pitch % w = 0) (h64 : w ∣ 64) (wr : Bool) : spPitched s wr a 64 (a + xword pitch) w n = .ok () := by
  obtain ⟨h21, hal, hh, hn⟩ := h
  have hsum : (a + xword pitch).toNat = a.toNat + pitch := by
    have hx : (xword pitch).toNat = pitch := Nat.mod_eq_of_lt (by omega)
    rw [BitVec.toNat_add, hx, Nat.mod_eq_of_lt (by omega)]
  have hal' : alignedTo a 64 = true := beq_iff_eq.2 hal
  have hal2 : alignedTo (a + xword pitch) w = true := by
    have hd : w ∣ a.toNat + pitch := Nat.dvd_add (h64.trans (Nat.dvd_of_mod_eq_zero hal)) (Nat.dvd_of_mod_eq_zero hw)
    exact beq_iff_eq.2 (by rw [hsum]; exact Nat.mod_eq_zero_of_dvd hd)
  have hone : SpaceRange s a n 1 := ⟨h21, Nat.mod_one _, hh, hn⟩
  simp only [spPitched, xbits_high h21, hal', hal2, hone.ok wr, ne_eq, not_true_eq_false, Bool.not_true, Bool.false_eq_true, if_false]

theorem drainFormat_bytes (q : BitVec 256) : (drainFormat q).bytes ∣ 64 := by
  unfold drainFormat
  split <;> decide

/-- What MDRAIN checks of its destination, and of its amax word. -/
def drainDestCheck (s : State) (q : BitVec 256) : Eff State :=
  let w := (drainFormat q).bytes
  let dest := drainDest q
  let pitch := drainPitch q
  let extent := 63 * pitch + 64 * w
  if drainSp q then do
    if drainColumns q then
      keepFinds s (spRange s true (dest &&& ~~~(63 : XWord)) (64 * (pitch * (63 * w / 64) + 64)) 64)
    else do
      keepFinds s (spPitched s true dest 64 (dest + xword pitch) w extent)
    return s
  else do
    keepFinds s (needsStores s false)
    keepFinds s (memPitched s true dest w (dest + xword pitch))
    memRange s .write dest extent w

def drainAmaxCheck (s : State) (q : BitVec 256) : Eff State :=
  if drainAmax q then do
    let (_, s) ← located s .update (drainWord q) 4 0
    return s
  else return s

theorem drainDestCheck_ok {s : State} {q : BitVec 256} {u0 u1 : State} (h0 : u0.holds = true)
    (hc : u0.core.request = s.core.request) (hs : u0.holds = s.holds) (hd : DrainDest s q u0 u1) :
    drainDestCheck u0 q = .ok u1 ∧ TlbFrame u0 u1 := by
  obtain ⟨hsp, hmem⟩ := hd
  unfold drainDestCheck
  cases hk : drainSp q with
  | true =>
    obtain ⟨rfl, hr⟩ := hsp hk
    refine ⟨?_, .refl u1⟩
    cases hcol : drainColumns q with
    | true =>
      rw [if_pos hcol] at hr
      simp only [if_true, (hr.congr hs hc).ok true]
      rfl
    | false =>
      rw [hcol, if_neg Bool.false_ne_true] at hr
      obtain ⟨hr, hp, hw⟩ := hr
      simp only [if_true, Bool.false_eq_true, if_false, spPitched_ok (hr.congr hs hc) hp hw (drainFormat_bytes q) true]
      rfl
  | false =>
    obtain ⟨hform, hal, hr⟩ := hmem hk
    have hal' : alignedTo (drainDest q + xword (drainPitch q)) (drainFormat q).bytes = true := beq_iff_eq.2 hal
    refine ⟨?_, hr.frame⟩
    simp only [Bool.false_eq_true, if_false, needsStores_ok h0, memPitched, hform, hal', bind, Except.bind, keepFinds_ok, hr.ok,
      Bool.not_true]

theorem drainAmaxCheck_ok {q : BitVec 256} {u1 u2 : State}
    (ha : if drainAmax q then ∃ pa, located u1 .update (drainWord q) 4 0 = .ok (pa, u2) else u2 = u1) :
    drainAmaxCheck u1 q = .ok u2 ∧ TlbFrame u1 u2 := by
  unfold drainAmaxCheck
  split at ha
  · next hq =>
    obtain ⟨pa, ha⟩ := ha
    exact ⟨(if_pos hq).trans (Eff.then ha rfl), located_frame ha⟩
  · next hq =>
    rw [ha]
    exact ⟨if_neg hq, .refl u1⟩

section
variable {s : State} {d a b : BitVec 5} (h : MayCommit s) (hh : s.holds = true)
include h hh

/-! ### MZERO, MKEEP and MWAIT (R265, R268, R276) -/

theorem mzero_answers :
    (s.hart.matrixQ.length < 16 → SetsIn (exec (.mzero d) s) (s.committed.enqueueMatrix (.zero d.toNat)) 0 0) ∧
    (¬s.hart.matrixQ.length < 16 → Waits (exec (.mzero d) s) s.committed .matrix) := by
  rw [exec_mzero]
  obtain ⟨f, hx, hf⟩ : ∃ f, execMzero d s = irreversible f s ∧ f s.committed = matrixRoom s.committed >>= fun _ =>
      .ok (s.committed.enqueueMatrix (.zero d.toNat)) :=
    ⟨_, rfl, Eff.then (needsStores_committed hh true) rfl⟩
  obtain ⟨hfull, hroom⟩ := room_last h (committed_matrixQ s) hf
  rw [hx]
  exact ⟨fun hr => irreversible_leaves h (hroom hr) (committed_freshStrip h), hfull⟩

theorem mwait_answers :
    (s.hart.matrixQ = [] → SetsIn (exec .mwait s) s.committed 0 0) ∧
    (¬s.hart.matrixQ = [] → Waits (exec .mwait s) s.committed .matrix) := by
  rw [exec_mwait, ← committed_matrixQ s]
  refine ⟨fun hr => irreversible_leaves h ?_ (committed_freshStrip h), fun hr => irreversible_waits (c := s) h ?_⟩
  · exact Eff.then (needsStores_committed hh false) (Eff.then (matrixDrained_ok hr) rfl)
  · exact Eff.then (needsStores_committed hh false) (Eff.stops (matrixDrained_waits hr))

/-- The core of a hart that executes MKEEP, and the deal position that it reads. -/
def keptCore (q : Core) (k : Nat) (v : XWord) : Core :=
  { q with
    keep := (q.keep &&& ~~~BitVec.ofNat 1024 ((2 ^ 64 - 1) * 2 ^ (64 * k))) ||| BitVec.ofNat 1024 (v.toNat * 2 ^ (64 * k)) }

def dealPosition (q : Core) : XWord :=
  xword (q.dealExpert % 2 ^ 16 + 2 ^ 16 * (q.dealRound % 2 ^ 32) + if q.dealRunning then 2 ^ 63 else 0)

theorem mkeep_sets (hk : (s.x a).toNat < 16) :
    SetsIn (exec (.mkeep d a b) s) (s.committed.setCore (keptCore s.committed.core (s.x a).toNat (s.x b))) d
      (dealPosition s.committed.core) := by
  rw [exec_mkeep]
  refine irreversible_setsIn h ?_ (committed_tl h) (committed_early s) (committed_buf s)
  simp only [committed_x]
  exact Eff.then (illegalWhen_ok (decide_eq_false (by omega))) (Eff.then (needsStores_committed hh true) rfl)

/-! ### MLDW (R273) -/

/-- The first line and the count of lines that the word of MLDW names. -/
def mldwLine (p : XWord) : Nat := p.toNat % 2 ^ 12
def mldwCount (p : XWord) : Nat := if p.toNat / 2 ^ 12 = 0 then 4096 else p.toNat / 2 ^ 12

theorem mldw_answers {u : State} (hp : (s.x b).toNat < 2 ^ 24)
    (hw : 128 * (mldwLine (s.x b) + mldwCount (s.x b)) ≤ Config.wbufBytes)
    (hm : MemoryRange s.committed .read (s.x a) (128 * mldwCount (s.x b)) 128 u) :
    (¬s.hart.matrixQ.length < 16 → Waits (exec (.mldw d a b) s) s.committed .matrix) ∧
    (s.hart.matrixQ.length < 16 → Issues (exec (.mldw d a b) s) u d 2 0 .mload ([], [])
      (fun t => t.enqueueMatrix (.load u.nextCmd (s.x a) (mldwLine (s.x b)) (mldwCount (s.x b))))) := by
  have hline : xbits (s.x b) 0 12 = mldwLine (s.x b) := by simp [xbits, bitsAt, mldwLine]
  have hcount : xbits (s.x b) 12 12 = (s.x b).toNat / 2 ^ 12 := by simp only [xbits, bitsAt]; omega
  have hres : (xbits (s.x b) 24 40 != 0) = false := by
    have : xbits (s.x b) 24 40 = 0 := by simp only [xbits, bitsAt]; omega
    rw [this]
    rfl
  have hq : u.hart.matrixQ = s.hart.matrixQ := by rw [hm.frame.hart, committed_matrixQ]
  have hua : u.x a = s.x a := (hm.frame.x a).trans (committed_x s a)
  rw [Nat.mul_add] at hw
  rw [exec_mldw]
  obtain ⟨f, hx, hf⟩ : ∃ f, execMldw d a b s = irreversible f s ∧ f s.committed = matrixRoom u >>= fun _ =>
      .ok (ticketed u d 2 0 .mload ([], []) (fun t n => t.enqueueMatrix (.load n (s.x a) (mldwLine (s.x b)) (mldwCount (s.x b))))) := by
    refine ⟨_, rfl, ?_⟩
    simp only [committed_x, hline, hcount]
    refine Eff.then (illegalWhen_ok hres) (Eff.then (needsStores_committed hh true) (Eff.then (wbufRange_ok hw) (Eff.then hm.ok ?_)))
    rw [← hua]
    rfl
  obtain ⟨hfull, hroom⟩ := room_last h hq hf
  rw [hx]
  exact ⟨hfull, fun hr => irreversible_issues h hm.frame.hart
    (after := fun t n => t.enqueueMatrix (.load n (s.x a) (mldwLine (s.x b)) (mldwCount (s.x b)))) (hroom hr)
    (afterTicket_enqueueMatrix _)⟩

/-! ### MDRAIN (R274) -/

theorem mdrain_answers {v : Nat} {u0 u1 u2 : State} (hr : ReadsDescriptor s.committed (s.x b) 32 32 v u0)
    (hb : drainBad (BitVec.ofNat 256 v) = false) (hd : DrainDest s (BitVec.ofNat 256 v) u0 u1)
    (ha : if drainAmax (BitVec.ofNat 256 v) then ∃ pa, located u1 .update (drainWord (BitVec.ofNat 256 v)) 4 0 = .ok (pa, u2)
      else u2 = u1) :
    (¬s.hart.matrixQ.length < 16 → Waits (exec (.mdrain d a b) s) s.committed .matrix) ∧
    (s.hart.matrixQ.length < 16 → Issues (exec (.mdrain d a b) s) u2 d 4 0 .mdrain ([], [])
      (fun t => t.enqueueMatrix (.drain u2.nextCmd a.toNat (BitVec.ofNat 256 v)))) := by
  have h0 : u0.holds = s.committed.holds := hr.frame.holds
  obtain ⟨hdest, hf1⟩ := drainDestCheck_ok (h0.trans ((committed_holds s).trans hh)) (by rw [hr.frame.core, committed_own_request])
    (h0.trans (committed_holds s)) hd
  have hamax := drainAmaxCheck_ok ha
  have hf2 : TlbFrame s.committed u2 := (hr.frame.trans hf1).trans hamax.2
  have h2 : u2.holds = true := hf2.holds.trans ((committed_holds s).trans hh)
  rw [exec_mdrain]
  obtain ⟨f, hx, hf⟩ : ∃ f, execMdrain d a b s = irreversible f s ∧ f s.committed = matrixRoom u2 >>= fun _ =>
      .ok (ticketed u2 d 4 0 .mdrain ([], []) (fun t n => t.enqueueMatrix (.drain n a.toNat (BitVec.ofNat 256 v)))) := by
    refine ⟨_, rfl, ?_⟩
    simp only [committed_x]
    exact Eff.then hr.ok (Eff.then (keepFinds_illegalWhen hb) (Eff.then hdest (Eff.then hamax.1 (Eff.then (a := ())
      (by rw [needsStores_ok h2]; rfl) rfl))))
  obtain ⟨hfull, hroom⟩ := room_last h (by rw [hf2.hart, committed_matrixQ]) hf
  rw [hx]
  exact ⟨hfull, fun hq => irreversible_issues h hf2.hart
    (after := fun t n => t.enqueueMatrix (.drain n a.toNat (BitVec.ofNat 256 v))) (hroom hq) (afterTicket_enqueueMatrix _)⟩

/-! ### MOP (R266, R269 to R272) -/

omit h hh in
theorem committed_elem (s : State) (g : Source) (i : Nat) : elem s.committed g i = elem s g i := by
  simp only [elem, elemBits, committed_fmtWidth]

/-- A's operand as MOP reads it: in S-space, or a register group as it stands. -/
def OperandRead (s : State) (x : XWord) (oa : MopOperand) (fa : Fmt) : Prop :=
  let k := s.regs.vl
  let rs := rowSize s
  oa.desc = x ∧
  (x.getLsbD 26 = true → oa.group = none ∧ mopFormat x = some fa ∧
    (k ≠ 0 → SpaceRange s (xword (xbits x 0 21)) (mopExtent x fa.bytes k) 64)) ∧
  (x.getLsbD 26 = false → s.regs.vr = 64 ∧ (xbits x 0 21) % groupFactor s.regs = 0 ∧
    xbits x 0 21 + groupFactor s.regs ≤ s.hart.vn ∧ fa ∈ [Fmt.f16, .bf16, .i8, .t8, .t6] ∧
    ∃ g, groupSource s.committed (xbits x 0 21) (groupFactor s.regs) = .ok g ∧ g.fmt = fa ∧ oa.group = some (fa,
      ((span 0 (64 * k)).map (fun n => elem s g (n / k * rs + n % k))).toArray))

omit h hh in
theorem mopAllows_of_mem {f : Fmt} (h : f ∈ [Fmt.f16, .bf16, .i8, .t8, .t6]) : mopAllows f = true := by
  simp only [List.mem_cons, List.not_mem_nil, or_false] at h
  rcases h with rfl | rfl | rfl | rfl | rfl <;> rfl

omit h hh in
theorem mopGroup_ok {x : XWord} {oa : MopOperand} {fa : Fmt} (ho : OperandRead s x oa fa) : mopGroup s.committed x = .ok oa := by
  obtain ⟨rfl, hsp, hreg⟩ := ho
  obtain ⟨x, g⟩ := oa
  dsimp only at hsp hreg
  cases hc : x.getLsbD 26 with
  | true =>
    obtain ⟨rfl, -, -⟩ := hsp hc
    exact if_pos hc
  | false =>
    obtain ⟨hvr, hal, hvn, hfa, src, hsrc, hfmt, rfl⟩ := hreg hc
    have hgf : groupFactor s.committed.regs = groupFactor s.regs := by rw [State.regs, committed_hart]; rfl
    have hbad : (s.committed.regs.vr != 64 || mopBase x % groupFactor s.committed.regs != 0) = false := by
      rw [committed_vr, hgf, hvr, show mopBase x % groupFactor s.regs = 0 from hal]
      rfl
    have hvn' : ¬s.committed.hart.vn < mopBase x + groupFactor s.committed.regs := by
      rw [hgf, committed_hart]
      exact Nat.not_lt.2 hvn
    have hallows : mopAllows src.fmt = true := by rw [hfmt]; exact mopAllows_of_mem hfa
    rw [mopGroup, if_neg (by rw [mopSource, hc]; exact Bool.false_ne_true)]
    refine Eff.then (illegalWhen_ok hbad) ?_
    simp only [if_neg hvn']
    refine Eff.then (hgf ▸ hsrc) (Eff.then (illegalWhen_ok (by rw [hallows]; rfl)) ?_)
    simp only [committed_elem, committed_vl, committed_rowSize, hfmt]
    rfl

omit h hh in
theorem OperandRead.group {x : XWord} {oa : MopOperand} {fa : Fmt} (ho : OperandRead s x oa fa) :
    (x.getLsbD 26 = true ∧ oa.group = none ∧ mopFormat x = some fa) ∨ (x.getLsbD 26 = false ∧ ∃ g, oa.group = some (fa, g)) := by
  obtain ⟨-, hsp, hreg⟩ := ho
  cases hc : x.getLsbD 26 with
  | true =>
    obtain ⟨hg, hf, -⟩ := hsp hc
    exact .inl ⟨rfl, hg, hf⟩
  | false =>
    obtain ⟨-, -, -, -, src, -, -, hg⟩ := hreg hc
    exact .inr ⟨rfl, _, hg⟩

omit h hh in
theorem mopFormat_of_not_bad {y : XWord} {k : Nat} (hy : mopDescBad false y k = false) : ∃ f, mopFormat y = some f := by
  cases hf : mopFormat y with
  | some f => exact ⟨f, rfl⟩
  | none => simp [mopDescBad, hf] at hy

omit h hh in
theorem mopAligned_ok {x : XWord} {isReg : Bool} (hx : isReg = false → x.getLsbD 26 = true → xbits x 0 21 % 64 = 0) :
    mopAligned s x isReg = .ok () := by
  refine if_neg fun hbad => ?_
  simp only [Bool.and_eq_true, Bool.not_eq_true', mopSource] at hbad
  obtain ⟨⟨hr, hs⟩, hal⟩ := hbad
  have hlt : xbits x 0 21 < 2 ^ 64 := (Nat.mod_lt _ (by decide)).trans (by decide : 2 ^ 21 < 2 ^ 64)
  have hn : (xword (mopBase x)).toNat = xbits x 0 21 := Nat.mod_eq_of_lt hlt
  rw [alignedTo, hn, hx hr hs] at hal
  exact absurd hal (by decide)

omit h in
theorem mopRanges_ok {x : XWord} {f : Fmt} {isReg : Bool} {k : Nat}
    (hsrc : isReg = false → x.getLsbD 26 = true → SpaceRange s (xword (xbits x 0 21)) (mopExtent x f.bytes k) 64)
    (hbuf : isReg = false → x.getLsbD 26 = false → 128 * s.hart.mwb.toNat + mopBufferBytes x f k ≤ Config.wbufBytes)
    (hscale : x.getLsbD 24 = true → SpaceRange s (xword (64 * mopScaleRow x)) (64 * ((k + 31) / 32)) 64) :
    mopRanges s.committed x f isReg k = .ok () := by
  have hrows : (if mopScaled x then spRange s.committed false (xword (64 * mopScaleRow x)) (64 * ((k + 31) / 32)) 64 else pure ()) =
      .ok () := by
    cases hc : mopScaled x with
    | true => exact ((hscale hc).committed).ok false
    | false => rfl
  cases hr : isReg with
  | true => exact hrows
  | false =>
    cases hc : x.getLsbD 26 with
    | true =>
      have hm : mopSource x = true := hc
      simp only [mopRanges, Bool.false_eq_true, if_false, hm, if_true]
      exact Eff.then (((hsrc hr hc).committed).ok false) hrows
    | false =>
      have hm : mopSource x = false := hc
      have hmwb : s.committed.hart.mwb = s.hart.mwb := by rw [committed_hart]
      simp only [mopRanges, Bool.false_eq_true, if_false, hm]
      exact Eff.then (needsStores_committed hh false) (Eff.then (hmwb ▸ wbufRange_ok (hbuf hr hc)) hrows)

/-- The ranges that MOP asks for in K > 0 steps (R272). -/
def MopStorage (s : State) (x y : XWord) : Prop :=
  let k := s.regs.vl
  (x.getLsbD 24 = true → SpaceRange s (xword (64 * mopScaleRow x)) (64 * ((k + 31) / 32)) 64) ∧
  (y.getLsbD 24 = true → SpaceRange s (xword (64 * mopScaleRow y)) (64 * ((k + 31) / 32)) 64) ∧
  (∀ f, mopFormat y = some f → if y.getLsbD 26 then SpaceRange s (xword (xbits y 0 21)) (mopExtent y f.bytes k) 64
    else 128 * s.hart.mwb.toNat + mopBufferBytes y f k ≤ Config.wbufBytes)

/-- The part of MOP that follows the checks of its descriptors. -/
def mopJoins (c : State) (d : BitVec 5) (x y : XWord) (oa : MopOperand) (fa : Fmt) : Eff State :=
  if c.regs.vl = 0 then do
    mopAligned c x oa.group.isSome
    mopAligned c y false
    needsStores c false
    return c
  else do
    mopRanges c x fa oa.group.isSome c.regs.vl
    mopRanges c y ((mopFormat y).getD .f16) false c.regs.vl
    needsStores c true
    matrixRoom c
    return c.enqueueMatrix (.mop d.toNat c.regs.vl oa { desc := y, group := none } c.hart.mwb.toNat)

section
variable {oa : MopOperand} {fa : Fmt} (hal : Allowed s (.mop d a b)) (hx : mopDescBad true (s.x a) s.regs.vl = false)
  (hy : mopDescBad false (s.x b) s.regs.vl = false) (ho : OperandRead s (s.x a) oa fa) (hi8 : fa = .i8 ↔ mopFormat (s.x b) = some .i8)
include hal hx hy ho hi8

omit h hh in
/-- MOP once its descriptors pass: its storage is checked, and it joins the queue or, of no steps, nothing. -/
theorem mop_effect {r : Eff State} (hr : mopJoins s.committed d (s.x a) (s.x b) oa fa = r) :
    ∃ f, exec (.mop d a b) s = irreversible f s ∧ f s.committed = r := by
  obtain ⟨fb, hfb⟩ := mopFormat_of_not_bad hy
  have hclass : ((fa == .i8) != (fb == .i8)) = false := by
    rw [hfb, Option.some.injEq] at hi8
    rw [bne_eq_false_iff_eq, Bool.eq_iff_iff, beq_iff_eq, beq_iff_eq, hi8]
  rw [exec_mop, execMop, irreversibleChecked_allowed hal]
  refine ⟨_, rfl, ?_⟩
  simp only [committed_x, committed_vl]
  refine Eff.then (illegalWhen_ok (by rw [hx, hy]; rfl)) (Eff.then (mopGroup_ok ho) ?_)
  rw [← hr, mopJoins, committed_vl, hfb]
  obtain ⟨-, hg, hf⟩ | ⟨-, g, hg⟩ := ho.group
  · rw [hg, hf]
    exact Eff.then (illegalWhen_ok hclass) rfl
  · rw [hg]
    exact Eff.then (illegalWhen_ok hclass) rfl

theorem mop_empty (hk : s.regs.vl = 0) (hxa : (s.x a).getLsbD 26 = true → xbits (s.x a) 0 21 % 64 = 0)
    (hya : (s.x b).getLsbD 26 = true → xbits (s.x b) 0 21 % 64 = 0) : SetsIn (exec (.mop d a b) s) s.committed 0 0 := by
  obtain ⟨f, hex, hf⟩ := mop_effect hal hx hy ho hi8 (r := .ok s.committed) (by
    rw [mopJoins, committed_vl, if_pos hk]
    exact Eff.then (mopAligned_ok fun _ => hxa) (Eff.then (mopAligned_ok fun _ => hya) (Eff.then (needsStores_committed hh false) rfl)))
  rw [hex]
  exact irreversible_leaves h hf (committed_freshStrip h)

theorem mop_answers (hk : s.regs.vl ≠ 0) (hst : MopStorage s (s.x a) (s.x b)) :
    (¬s.hart.matrixQ.length < 16 → Waits (exec (.mop d a b) s) s.committed .matrix) ∧
    (s.hart.matrixQ.length < 16 → SetsIn (exec (.mop d a b) s) (s.committed.enqueueMatrix
      (.mop d.toNat s.regs.vl oa { desc := s.x b, group := none } s.hart.mwb.toNat)) 0 0) := by
  obtain ⟨hsx, hsy, hby⟩ := hst
  obtain ⟨fb, hfb⟩ := mopFormat_of_not_bad hy
  have hb := hby fb hfb
  have hmwb : s.committed.hart.mwb = s.hart.mwb := by rw [committed_hart]
  obtain ⟨f, hex, hf⟩ := mop_effect hal hx hy ho hi8 (r := matrixRoom s.committed >>= fun _ => .ok (s.committed.enqueueMatrix
      (.mop d.toNat s.regs.vl oa { desc := s.x b, group := none } s.hart.mwb.toNat))) (by
    rw [mopJoins, committed_vl, if_neg hk, hfb, Option.getD_some, hmwb]
    refine Eff.then (mopRanges_ok hh (fun hg hc => ?_) (fun hg hc => ?_) hsx)
      (Eff.then (mopRanges_ok hh (fun _ hc => ?_) (fun _ hc => ?_) hsy) (Eff.then (needsStores_committed hh true) rfl))
    · exact (ho.2.1 hc).2.2 hk
    · obtain ⟨hc', -⟩ | ⟨-, g, hs⟩ := ho.group
      · rw [hc] at hc'
        cases hc'
      · rw [hs] at hg
        cases hg
    · rwa [if_pos hc] at hb
    · rwa [hc, if_neg Bool.false_ne_true] at hb)
  obtain ⟨hfull, hroom⟩ := room_last h (committed_matrixQ s) hf
  rw [hex]
  exact ⟨hfull, fun hr => irreversible_leaves h (hroom hr) (committed_freshStrip h)⟩

end

/-! ### MTOV and MFROMV (R275) -/

omit h hh in
theorem committed_shapeIndices (s : State) : shapeIndices s.committed = shapeIndices s := by
  simp only [shapeIndices, committed_rowSize, committed_vr, committed_vl]

omit h hh in
theorem committed_inShape (s : State) : inShape s.committed = inShape s := by
  funext i
  simp only [inShape, committed_rowSize, committed_vr, committed_vl]

omit h hh in
theorem committed_groupFactor (s : State) : groupFactor s.committed.regs = groupFactor s.regs := by
  rw [State.regs, committed_hart]
  rfl

omit h hh in
/-- A committed machine has no twin left to commit (R28). -/
theorem committed_commitTwins (s : State) : commitTwins s.committed.regs = s.committed.regs := by
  rw [State.regs, committed_hart]
  exact commitTwins_idem _

omit h hh in
theorem tileRows_ok {v : XWord} (hv : s.x b = v) (hr : v.toNat + s.regs.vr ≤ 64) (hk : s.regs.vl ≤ 64) :
    tileRows s.committed b = .ok v.toNat := by
  rw [tileRows, committed_x, committed_vr, committed_vl, hv]
  exact Eff.then (illegalWhen_ok (by simp only [Bool.or_eq_false_iff, decide_eq_false_iff_not]; omega)) rfl

/-- Element j of the rows of a tile from row r0 on: its accumulator. -/
def rowPlace (s : State) (r0 j : Nat) : Nat := 64 * (r0 + j / rowSize s) + j % rowSize s

/-- MTOV's results, and the machine after it wrote them and before its write commits. -/
def mtovNew (s : State) (acc : Array (BitVec 32)) (r0 : Nat) : Array (Option XWord) :=
  filled s (fun j => (acc.getD (rowPlace s r0 j) 0).setWidth 64) (shapeIndices s)

def mtovWritten (s : State) (d : Nat) (acc : Array (BitVec 32)) (r0 : Nat) : State :=
  s.writeGroup d (groupFactor s.regs) .f32 (withTail s (fun i => !inShape s i) (mtovNew s acc r0))

/-- A register's twin committed (R28). -/
def VReg.committed (v : VReg) : VReg := ⟨curTile v, none⟩

omit h hh in
/-- A commit of a machine that has no twins but those of its registers. -/
theorem commitTwins_vregs {r : Regs} (hr : commitTwins r = r) (vs : Vector VReg 32) (f : Flags) :
    commitTwins { r with vregs := vs, fflags := f } = { r with vregs := vs.map VReg.committed, fflags := f } := by
  have hm : (commitTwins r).masks = r.masks := by rw [hr]
  have hv : (commitTwins { r with vregs := vs }).vregs = vs.map VReg.committed := by
    simp only [commitTwins]
    congr 1
    funext ⟨com, twin⟩
    cases twin <;> rfl
  calc commitTwins { r with vregs := vs, fflags := f }
      = { r with vregs := (commitTwins { r with vregs := vs }).vregs, masks := (commitTwins r).masks, fflags := f } := rfl
    _ = { r with vregs := vs.map VReg.committed, fflags := f } := by rw [hm, hv]

omit h hh in
theorem committed_vreg_twin (s : State) (j : Fin 32) : VReg.committed s.committed.regs.vregs[j] = s.committed.regs.vregs[j] := by
  have ht : s.committed.regs.vregs[j].twin = none := by
    rw [← committed_commitTwins s]
    exact commitTwins_twin s.committed.regs _ (Array.getElem_mem_toList _)
  generalize s.committed.regs.vregs[j] = v at ht ⊢
  obtain ⟨com, twin⟩ := v
  subst ht
  rfl

/-- The machine after MTOV's write has committed, with its flags raised. -/
def mtovDone (s : State) (d : Nat) (acc : Array (BitVec 32)) (r0 : Nat) (f : Flags) : State :=
  s.setRegs { s.regs with
    vregs := (mtovWritten s d acc r0).regs.vregs.map VReg.committed
    fflags := s.regs.fflags ||| f }

omit h hh in
theorem mtov_commits {c : State} (hc : commitTwins c.regs = c.regs) (d : Nat) (acc : Array (BitVec 32)) (r0 : Nat) (f : Flags) :
    ((mtovWritten c d acc r0).raise f).setRegs (commitTwins ((mtovWritten c d acc r0).raise f).regs) = mtovDone c d acc r0 f := by
  have he : mtovWritten c d acc r0 = c.setRegs { c.regs with vregs := (mtovWritten c d acc r0).regs.vregs } := writeGroup_eq ..
  unfold mtovDone
  generalize mtovWritten c d acc r0 = w at he ⊢
  generalize w.regs.vregs = vs at he ⊢
  subst he
  exact congrArg c.setRegs (commitTwins_vregs hc vs _)

omit h hh in
theorem setWidth_lowBits_four (v : XWord) : (lowBits 4 v).setWidth 32 = v.setWidth 32 := by
  apply BitVec.eq_of_getLsbD_eq
  intro i hi
  simp [lowBits_getLsbD, hi]

omit h hh in
/-- Each register after MTOV: of its group, the rows of the tile, committed; every other as it was. -/
theorem mtovWritten_takes (acc : Array (BitVec 32)) (r0 : Nat) (j : Fin 32) :
    if d.toNat ≤ j.val ∧ j.val < d.toNat + groupFactor s.regs then
      RegTakes s.committed (mtovWritten s.committed d.toNat acc r0) j d.toNat .f32
        (tailed s.committed (fun j => !inShape s j)
          (fun j => if j ∈ shapeIndices s then some ((acc.getD (rowPlace s r0 j) 0).setWidth 64) else none))
    else (mtovWritten s.committed d.toNat acc r0).regs.vregs[j] = s.committed.regs.vregs[j] := by
  have hreg := writeGroup_vreg s.committed d.toNat (groupFactor s.committed.regs) .f32
    (withTail s.committed (fun i => !inShape s.committed i) (mtovNew s.committed acc r0)) j
  rw [committed_groupFactor] at hreg
  split
  · next hj =>
    rw [if_pos hj] at hreg
    refine regTakes_of (fun i => ?_) (hreg.trans rfl)
    rw [mtovNew, withTail_filled, committed_inShape, committed_shapeIndices]
    simp only [rowPlace, committed_rowSize]
  · next hj =>
    rw [if_neg hj] at hreg
    exact hreg

section
variable (hr : (s.x b).toNat + s.regs.vr ≤ 64) (hk : s.regs.vl ≤ 64) (hq : s.hart.matrixQ = [])
include hr hk hq

theorem mtov_effect (hal : Allowed s (.mtov d a b)) (htag : destTag s.committed d = .bits ∨ destTag s.committed d = .f32) :
    SetsIn (exec (.mtov d a b) s) (if s.regs.vl = 0 then s.committed
      else mtovDone s.committed d.toNat (s.committed.core.tile a.toNat) (s.x b).toNat (s.committed.core.tileFlags a.toNat)) 0 0 := by
  have htag' : (!(destTag s.committed d == .bits || destTag s.committed d == .f32)) = false := by
    obtain ht | ht := htag <;> rw [ht] <;> rfl
  rw [exec_mtov, execMtov, irreversibleChecked_allowed hal]
  refine irreversible_leaves h (Eff.then (tileRows_ok rfl hr hk) (Eff.then (illegalWhen_ok htag')
    (Eff.then (needsStores_committed hh false) (Eff.then (matrixDrained_ok ((committed_matrixQ s).trans hq)) ?_)))) ?_
  · rw [committed_vl]
    split
    · rfl
    · exact congrArg Except.ok (mtov_commits (committed_commitTwins s) _ _ _ _)
  · split
    · exact committed_freshStrip h
    · exact committed_freshStrip h

theorem mtov_empty (hal : Allowed s (.mtov d a b)) (htag : destTag s.committed d = .bits ∨ destTag s.committed d = .f32)
    (h0 : s.regs.vl = 0) : SetsIn (exec (.mtov d a b) s) s.committed 0 0 := by
  have hm := mtov_effect h hh hr hk hq hal htag
  rwa [if_pos h0] at hm

theorem mfromv_fills {g : Source} (hal : Allowed s (.mfromv d a b))
    (hg : groupSource s.committed a.toNat (groupFactor s.regs) = .ok g) (hf : g.fmt = .f32) :
    SetsIn (exec (.mfromv d a b) s) (s.committed.setCore (s.committed.core.setTile d.toNat
      ((shapeIndices s).foldl (fun (t : Array (BitVec 32)) j => t.setIfInBounds (rowPlace s (s.x b).toNat j) ((g.get j).setWidth 32))
        (s.committed.core.tile d.toNat)))) 0 0 := by
  have helem (i : Nat) : (elem s.committed g i).setWidth 32 = (g.get i).setWidth 32 := by
    rw [elem, hf]
    exact setWidth_lowBits_four (g.get i)
  have hg' : groupSource s.committed a.toNat (groupFactor s.committed.regs) = .ok g := by rw [committed_groupFactor, hg]
  rw [exec_mfromv, execMfromv, irreversibleChecked_allowed hal]
  refine irreversible_leaves h (Eff.then (tileRows_ok rfl hr hk) (Eff.then hg' (Eff.then (illegalWhen_ok (by rw [hf]; rfl))
    (Eff.then (needsStores_committed hh true) (Eff.then (matrixDrained_ok ((committed_matrixQ s).trans hq)) ?_))))) ?_
  · simp only [helem, committed_shapeIndices, committed_rowSize]
    rfl
  · exact committed_freshStrip h

end
end

end Machine
end Sys2Proof

open Sys2Proof Sys2Proof.Machine

/-- Settles O34: each instruction's checks pass on the committed machine, and what is left of it is the check of the queue's room. -/
theorem matrixIssue : Obligations.MatrixIssue := by
  unfold Obligations.MatrixIssue
  intro s d a b h hh
  obtain ⟨hzero, hzeroFull⟩ := mzero_answers (d := d) h hh
  obtain ⟨hwait, hwaitFull⟩ := mwait_answers h hh
  refine ⟨hzero, hzeroFull, ?_, ?_, mkeep_sets h hh, ?_, ?_, hwait, hwaitFull⟩
  · intro oa fa hal hx hy hdesc hsp hreg hi8 hst
    have ho : OperandRead s (s.x a) oa fa := ⟨hdesc, hsp, hreg⟩
    exact ⟨mop_empty h hh hal hx hy ho hi8, fun hk => (mop_answers h hh hal hx hy ho hi8 hk (hst hk)).1,
      fun hk => (mop_answers h hh hal hx hy ho hi8 hk (hst hk)).2⟩
  · exact fun u hy hw hm => mldw_answers h hh hy hw hm
  · exact fun v u0 u1 u2 hv hb hsp hmem ha => mdrain_answers h hh hv hb ⟨hsp, hmem⟩ ha
  · intro hr hk
    refine ⟨fun hal htag hq h0 => ?_, fun hal htag hq h0 => mtov_empty h hh hr hk hq hal htag h0,
      fun g hal hg hf hq => mfromv_fills h hh hr hk hq hal hg hf⟩
    have hm := mtov_effect h hh hr hk hq hal htag
    rw [if_neg h0] at hm
    refine ⟨_, mtovWritten s.committed d.toNat (s.committed.core.tile a.toNat) (s.x b).toNat, hm, fun j => ?_, rfl⟩
    have hj := mtovWritten_takes (s := s) (d := d) (s.committed.core.tile a.toNat) (s.x b).toNat j
    have hv : (mtovDone s.committed d.toNat (s.committed.core.tile a.toNat) (s.x b).toNat
        (s.committed.core.tileFlags a.toNat)).regs.vregs[j] =
        VReg.committed (mtovWritten s.committed d.toNat (s.committed.core.tile a.toNat) (s.x b).toNat).regs.vregs[j] :=
      Vector.getElem_map ..
    split at hj
    · next hin =>
      rw [if_pos hin]
      exact ⟨hj, hv⟩
    · next hout =>
      rw [if_neg hout, hv, hj, committed_vreg_twin]

end

section
/-! CERTIFICATES. Copies, fills and deals (O38). -/

namespace Sys2Proof
namespace Machine

/-- A copy within S-space finds its elements without a step of the machine. -/
theorem engineCopies_inside {s : State} {cmd gang w : Nat} {src dst pa : Nat → Nat} {bytes : Nat → List Byte} {l : List Nat}
    (h : ∀ k ∈ l, bytes k = memReadN (scratchOf s.core gang) (src k) w) : EngineCopies cmd gang true true w src dst bytes pa s l s := by
  induction l with
  | nil => rfl
  | cons k l ih =>
    rw [List.forall_mem_cons] at h
    obtain ⟨hk, hl⟩ := h
    exact ⟨s, s, (if_pos rfl).mpr ⟨rfl, hk⟩, (if_pos rfl).mpr rfl, ih hl⟩

/-- Byte of element k of a DCOPY2D's source and of its destination, as an unbounded number. -/
def c2From (q : BitVec 512) (k : Nat) : Nat :=
  c2Place (c2Src q).toNat (c2Spitch q) (c2Width q) (c2So q) (k / c2Cols q) (k % c2Cols q)

def c2To (q : BitVec 512) (k : Nat) : Nat :=
  c2Place (c2Dst q).toNat (c2Dpitch q) (c2Width q) (c2Do q) (k / c2Cols q) (k % c2Cols q)

/-- What the statement says of a DCOPY2D within S-space. -/
theorem copyPoints_inside (h : Obligations.CopyPoints) {s : State} {n : Nat} {c : Cmd} {q : BitVec 512} {bytes : Nat → List Byte}
    (hc : mget? s.cmds n = some c) (ho : ownedEarlier (s.focus c.hart) n c.lines = false) (hq : c.kind = .copy2d q)
    (hs : c2Ssp q = true) (hd : c2Dsp q = true)
    (hb : ∀ k ∈ span 0 (c2Rows q * c2Cols q),
      bytes k = memReadN (scratchOf (s.focus c.hart).core c.gang) (c2From q k) (c2Width q)) :
    exec (.copyComplete n) s = .next ((((span 0 (c2Rows q * c2Cols q)).foldl
      (fun t k => t.spWrite (s.focus c.hart).coreId (c2To q k) (bytes k)) (s.focus c.hart)).finishCmd n 0 0 0).focus s.cur) := by
  obtain ⟨hcopies, -⟩ := h s n c hc
  obtain ⟨-, -, h2d⟩ := hcopies ho
  have hstep := h2d q bytes (fun _ => 0) (s.focus c.hart) hq (by
    rw [hs, hd]
    exact engineCopies_inside hb)
  simp only [hd, if_true] at hstep
  exact hstep

/-- A DCOPY2D between two places of the scratchpad: one row of two elements of one byte from byte 2^64 - 1 on, to byte 0 on. -/
def wrapCopy : BitVec 512 := BitVec.ofNat 512 ((2 ^ 64 - 1) * 2 ^ 64 + 2 ^ 128 + 2 * 2 ^ 144 + 2 ^ 226 + 2 ^ 227)

/-- That command, of the boot hart. -/
def wrapCmd : Cmd := ⟨0, 0, 0, 0, 1, 1, .copy2d wrapCopy, [], [], none⟩

/-- The machine that has that command under way as its command 0; byte 0 of core 0's scratchpad is 5. -/
def wrapping : State :=
  { State.reset with
    cmds := [(0, wrapCmd)]
    cores := [(0, { State.reset.coreAt 0 with scratch := [(0, 5)] })] }

/-- A byte of core 0's scratchpad after a step. -/
def scratchByte (r : Result) (a : Nat) : Option Byte := match r with
  | .next t => some (memRead (t.coreAt 0).scratch a)
  | _ => none

/-- The second element comes from byte 2^64, which the machine takes to be byte 0. -/
theorem wrapping_copies : scratchByte (exec (.copyComplete 0) wrapping) 1 = some 5 := by decide +kernel

end Machine
end Sys2Proof

open Sys2Proof Sys2Proof.Machine

/-- Refutes O38: its clause on DCOPY2D reads element k of a source in S-space at an address that is not taken modulo 2^64, as the
machine takes it. Where SRC is 2^64 - 1 the second element is byte 0 of the scratchpad, and the clause has it be 0, the byte that
no address of S-space names. -/
theorem not_copyPoints : ¬ Obligations.CopyPoints := by
  intro h
  have hstep := copyPoints_inside h (s := wrapping) (n := 0) (c := wrapCmd) (q := wrapCopy) (bytes := fun _ => [0]) rfl
    (by decide +kernel) rfl (by decide +kernel) (by decide +kernel) (by decide +kernel)
  have hbyte := congrArg (scratchByte · 1) hstep
  rw [wrapping_copies] at hbyte
  revert hbyte
  decide +kernel

end

section
/-! CERTIFICATES. A pseudo-channel's sequencer and a stack's kitty (O42). -/

namespace Sys2Proof
namespace Machine

/-! ### Maps and lists -/

theorem mset_mset {α : Type} (m : Map α) (a : Nat) (x y : α) : mset (mset m a x) a y = mset m a y := by
  induction m with
  | nil => simp [mset]
  | cons kv m ih =>
    obtain ⟨k, v⟩ := kv
    by_cases h1 : a = k
    · simp [mset, h1]
    · by_cases h2 : a < k
      · simp [mset, h1, h2]
      · simp [mset, h1, h2, ih]

/-- The first element that meets a condition, where a list is given around it. -/
theorem findIdx?_around {α : Type} {p : α → Bool} {pre post : List α} {o : α} (hpre : ∀ w ∈ pre, p w = false) (ho : p o = true) :
    (pre ++ o :: post).findIdx? p = some pre.length := by
  have hnone : pre.findIdx? p = none := List.findIdx?_eq_none_iff.2 hpre
  rw [List.findIdx?_append, hnone, List.findIdx?_cons, ho]
  simp

/-! ### The sequencer (R284, R285, R291 to R295, R322, R417) -/

section
variable {s : State} {p n : Nat} {cmd : Cmd} {rest : List Nat} (hrun : (s.chanAt p).run = none) (hq : (s.chanAt p).queue = n :: rest)
  (hc : mget? s.cmds n = some cmd)
include hrun hq hc

theorem handlerInstall_good {h : Handler} {pa slot : Nat} (hk : cmd.kind = .binst (.good h) pa slot) :
    exec (.handlerInstall p) s =
      .next (((s.popBank p).setChanAt p
        { (s.popBank p).chanAt p with handlers := mset ((s.popBank p).chanAt p).handlers slot h }).finishCmd n 0 0 0) := by
  rw [exec_handlerInstall]
  simp only [execHandlerInstall, hrun, hq, hc, hk]
  rfl

theorem handlerInstall_bad {code detail pa slot : Nat} (hk : cmd.kind = .binst (.bad code detail) pa slot) :
    exec (.handlerInstall p) s = .next ((s.popBank p).finishCmd n code 0 detail) := by
  rw [exec_handlerInstall]
  simp only [execHandlerInstall, hrun, hq, hc, hk]
  rfl

variable {pa slot reply count : Nat} {va : XWord} {args : List XWord} (hk : cmd.kind = .bmsg pa va slot args reply count)
include hk

/-- The machine whose sequencer p runs the handler of its queue's head, of so many pages. -/
def State.begun (s : State) (p n : Nat) (cmd : Cmd) (pa slot : Nat) (args : List XWord) (reply count pages : Nat) : State :=
  (s.popBank p).setChanAt p { (s.popBank p).chanAt p with run := some (runOf n cmd pa slot args reply count pages) }

theorem handlerStart_empty (hs : mget? (s.chanAt p).handlers slot = none) :
    exec (.handlerStart p) s = .next (endHandler (s.begun p n cmd pa slot args reply count 0) p 1) := by
  rw [exec_handlerStart]
  simp only [execHandlerStart, hrun, hq, hc, hk, hs]
  rfl

omit hrun hq hc hk in
/-- A footprint that no line of a command lies in, nor may come to. -/
theorem footprintOwned_false {r : Run} (h : ∀ c ∈ s.cmds, c.2.late = [] ∧ ∀ l ∈ c.2.lines,
    l < (p * 2 ^ 29 + r.lo) / 128 ∨ (p * 2 ^ 29 + r.hi) / 128 ≤ l) : footprintOwned s p r = false := by
  refine List.any_eq_false.2 fun c hc => ?_
  obtain ⟨hlate, hlines⟩ := h c hc
  have hin : (c.2.lines.any fun l => decide ((p * Config.slotBytes + r.lo) / 128 ≤ l) &&
      decide (l < (p * Config.slotBytes + r.hi) / 128)) = false := by
    refine List.any_eq_false.2 fun l hl => ?_
    have hout := hlines l hl
    simp only [Bool.and_eq_true, decide_eq_true_iff, show Config.slotBytes = 2 ^ 29 from rfl]
    omega
  rw [hin, hlate]
  simp

theorem handlerStart_runs {h : Handler} (hs : mget? (s.chanAt p).handlers slot = some h)
    (hf : footprintOwned s p (runOf n cmd pa slot args reply count h.span) = false) :
    exec (.handlerStart p) s = .next (s.begun p n cmd pa slot args reply count h.span) := by
  rw [exec_handlerStart]
  simp only [execHandlerStart, hrun, hq, hc, hk, hs, hf]
  rfl

end

theorem modeSwitchDone_sets {s : State} {p : Nat} {m : Bool} (h : (s.chanAt p).switching = some m) :
    exec (.modeSwitchDone p) s = .next (s.setChanAt p { s.chanAt p with
      allBank := m, switching := none, run := (s.chanAt p).run.map (fun r => { r with openRow := none }) }) := by
  rw [exec_modeSwitchDone]
  simp only [execModeSwitchDone, h]
  rfl

/-- A handler that ends with entries of bad residue ends with code 6 (R417). -/
def endCode (r : Run) (code : Nat) : Nat := if code = 0 ∧ r.arith ≠ [] then 6 else code

theorem endCode_endCode (r : Run) (code : Nat) : endCode r (endCode r code) = endCode r code := by
  unfold endCode
  split <;> simp_all

theorem endHandler_eq {s : State} {p code : Nat} {r : Run} {cmd : Cmd} {pa slot reply count : Nat} {va : XWord} {args : List XWord}
    (hr : (s.chanAt p).run = some r) (hc : mget? s.cmds r.cmd = some cmd) (hk : cmd.kind = .bmsg pa va slot args reply count) :
    endHandler s p code =
      let t := r.arith.foldl (fun (t : State) e => t.reportError (some cmd.ctx) 3 2 cmd.gang va.toNat pa e.2 e.1) s
      let u := (t.spWrite cmd.core r.replyAt (replyBytes r (endCode r code))).dropOps p
      (u.setChanAt p { u.chanAt p with run := none, allBank := false, switching := none }).finishCmd r.cmd
        (if endCode r code = 0 then 0 else 0x32) 0 (endCode r code) := by
  have he : (if code = 0 ∧ (!r.arith.isEmpty) = true then 6 else code) = endCode r code := by
    unfold endCode
    simp
  simp only [endHandler, hr, hc, hk, he]

/-! ### The kitty (R301, R302) -/

section
variable {q : Kitty} {pre post : List StackOp} {o : StackOp} (hw : q.waiting = pre ++ o :: post)
include hw

/-- A bank operation within the credit is next. -/
theorem Kitty.next_bank (ho : o.bankOp = true ∧ o.cost ≤ q.credit ∧ o.cost ≤ q.level)
    (hpre : ∀ w ∈ pre, ¬(w.bankOp = true ∧ w.cost ≤ q.credit ∧ w.cost ≤ q.level)) : q.next? = some pre.length := by
  unfold Kitty.next?
  rw [hw, findIdx?_around (fun w hm => ?_) (by simpa [and_assoc] using ho)]
  have hn := hpre w hm
  rwa [← Bool.not_eq_true, Bool.and_eq_true, Bool.and_eq_true, decide_eq_true_iff, decide_eq_true_iff, and_assoc]

omit hw in
/-- No bank operation is within the credit. -/
theorem Kitty.no_bank (h : ∀ w ∈ q.waiting, ¬(w.bankOp = true ∧ w.cost ≤ q.credit ∧ w.cost ≤ q.level)) :
    q.waiting.findIdx? (fun o => o.bankOp && decide (o.cost ≤ q.credit) && decide (o.cost ≤ q.level)) = none := by
  refine List.findIdx?_eq_none_iff.2 fun w hm => ?_
  have hn := h w hm
  rwa [← Bool.not_eq_true, Bool.and_eq_true, Bool.and_eq_true, decide_eq_true_iff, decide_eq_true_iff, and_assoc]

/-- A normal operation is next where no bank operation is within the credit. -/
theorem Kitty.next_normal (hbank : ∀ w ∈ q.waiting, ¬(w.bankOp = true ∧ w.cost ≤ q.credit ∧ w.cost ≤ q.level))
    (ho : o.bankOp = false ∧ o.cost ≤ q.level) (hpre : ∀ w ∈ pre, ¬(w.bankOp = false ∧ w.cost ≤ q.level)) :
    q.next? = some pre.length := by
  unfold Kitty.next?
  rw [Kitty.no_bank hbank, hw, findIdx?_around (fun w hm => ?_) (by simpa using ho)]
  have hn := hpre w hm
  rwa [← Bool.not_eq_true, Bool.and_eq_true, Bool.not_eq_true', decide_eq_true_iff]

/-- A bank operation that leaves 4,096 is next where nothing else may be served and no normal operation waits. -/
theorem Kitty.next_beyond
    (hall : ∀ w ∈ q.waiting, ¬(w.bankOp = true ∧ w.cost ≤ q.credit ∧ w.cost ≤ q.level) ∧ w.bankOp = true)
    (ho : o.cost + 4096 ≤ q.level) (hpre : ∀ w ∈ pre, ¬w.cost + 4096 ≤ q.level) : q.next? = some pre.length := by
  have hnormal : q.waiting.findIdx? (fun o => !o.bankOp && decide (o.cost ≤ q.level)) = none :=
    List.findIdx?_eq_none_iff.2 fun w hm => by rw [(hall w hm).2]; rfl
  have hbanks : q.waiting.all (fun o => o.bankOp) = true := List.all_eq_true.2 fun w hm => (hall w hm).2
  unfold Kitty.next?
  rw [Kitty.no_bank fun w hm => (hall w hm).1, hnormal, hbanks, hw]
  exact findIdx?_around (fun w hm => decide_eq_false (hpre w hm)) (decide_eq_true ho)

theorem Kitty.serve_next (hn : q.next? = some pre.length) (n : Nat) :
    let k := Kitty.serve n ({ q with waiting := pre ++ post }.spend o)
    q.serve (n + 1) = (o :: k.1, k.2) := by
  have hat : (pre ++ o :: post)[pre.length]? = some o := by simp
  have herase : (pre ++ o :: post).eraseIdx pre.length = pre ++ post := by
    rw [List.eraseIdx_append_of_length_le (Nat.le_refl _), Nat.sub_self]
    rfl
  simp only [Kitty.serve, hn, hw, hat, herase]

end

/-- Normal operations that the level pays for are all served, in their order. -/
theorem Kitty.serve_normal (ops : List StackOp) (q : Kitty) (hn : ∀ o ∈ ops, o.bankOp = false) (hc : (ops.map (·.cost)).sum ≤ q.level) :
    Kitty.serve ops.length { q with waiting := ops } =
      (ops, { q with waiting := [], level := q.level - (ops.map (·.cost)).sum }) := by
  induction ops generalizing q with
  | nil => rfl
  | cons o ops ih =>
    rw [List.forall_mem_cons] at hn
    obtain ⟨ho, hops⟩ := hn
    simp only [List.map_cons, List.sum_cons] at hc ⊢
    have hnext : Kitty.next? { q with waiting := o :: ops } = some 0 :=
      Kitty.next_normal (pre := []) rfl (fun w hm hb => by
        have hw : w.bankOp = false := by
          rcases List.mem_cons.1 hm with rfl | hm
          · exact ho
          · exact hops w hm
        rw [hw] at hb
        exact Bool.false_ne_true hb.1) ⟨ho, by show o.cost ≤ q.level; omega⟩ (fun w hm => absurd hm List.not_mem_nil)
    have hserve := Kitty.serve_next (q := { q with waiting := o :: ops }) (pre := []) (post := ops) rfl hnext ops.length
    have hspend : Kitty.spend { q with waiting := ops } o = { { q with level := q.level - o.cost } with waiting := ops } := by
      simp only [Kitty.spend, ho]
      rfl
    have hrest := ih { q with level := q.level - o.cost } hops (by show _ ≤ q.level - o.cost; omega)
    dsimp only [List.nil_append] at hserve
    rw [List.length_cons, hserve, hspend, hrest, Nat.sub_sub]

theorem setKitty_setKitty (s : State) (st : Nat) (k l : Kitty) : (s.setKitty st k).setKitty st l = s.setKitty st l := by
  simp only [State.setKitty, mset_mset]

theorem setKitty_kittyAt (s : State) (st : Nat) (k : Kitty) : (s.setKitty st k).kittyAt st = k := by
  rw [kittyAt_setKitty, if_pos rfl]

/-- The operations of a normal access that touches so many columns, and their cost. -/
theorem normalOps_cost (columns : Nat) (activate : Bool) :
    ((normalOps none activate columns).map (·.cost)).sum = (if activate then 2 else 0) + 3 * columns := by
  cases activate <;> simp [normalOps, Nat.mul_comm]

theorem normalOps_normal {columns : Nat} {activate : Bool} : ∀ o ∈ normalOps none activate columns, o.bankOp = false ∧ o.chan = none := by
  intro o ho
  rcases List.mem_append.1 ho with ho | ho
  · cases activate with
    | true => rw [List.mem_singleton.1 ho]; exact ⟨rfl, rfl⟩
    | false => exact absurd ho List.not_mem_nil
  · rw [List.eq_of_mem_replicate ho]
    exact ⟨rfl, rfl⟩

section
variable {s : State} {p columns : Nat} {activate : Bool}

theorem kittyService_joins (hp : p < 12) (h1 : 1 ≤ columns) (h4 : columns ≤ 4) :
    exec (.kittyService p ((if activate then 2 else 0) + 3 * columns)) s = .next (s.stackOps p (normalOps none activate columns)) := by
  have hdiv : ((if activate then 2 else 0) + 3 * columns) / 3 = columns := by split <;> omega
  have hmod : ((if activate then 2 else 0) + 3 * columns) % 3 = if activate then 2 else 0 := by split <;> omega
  have hact : ((if activate then 2 else 0) == 2) = activate := by cases activate <;> rfl
  have hok : ¬(12 ≤ p ∨ columns = 0 ∨ 4 < columns ∨ (if activate then 2 else 0) = 1) := by cases activate <;> simp <;> omega
  rw [exec_kittyService]
  simp only [execKittyService, hdiv, hmod, hact, if_neg hok]
  rfl

/-- A stack at which nothing waits and whose level pays for some normal operations serves them at once. -/
theorem stackOps_paid {ops : List StackOp} (hn : ∀ o ∈ ops, o.bankOp = false ∧ o.chan = none) (hw : (s.kittyAt p).waiting = [])
    (hc : (ops.map (·.cost)).sum ≤ (s.kittyAt p).level) :
    s.stackOps p ops = s.setKitty p { s.kittyAt p with level := (s.kittyAt p).level - (ops.map (·.cost)).sum } := by
  have hchans : ops.filterMap (fun o => o.chan) = [] := List.filterMap_eq_nil_iff.2 fun o ho => (hn o ho).2
  simp only [State.stackOps, State.serveStack, setKitty_kittyAt, hw, List.nil_append,
    Kitty.serve_normal ops (s.kittyAt p) (fun o ho => (hn o ho).1) hc, hchans, List.foldl_nil, setKitty_setKitty]

/-- A stack that can serve nothing of what waits keeps it. -/
theorem stackOps_waits {ops : List StackOp}
    (h : Kitty.next? { s.kittyAt p with waiting := (s.kittyAt p).waiting ++ ops } = none) :
    s.stackOps p ops = s.setKitty p { s.kittyAt p with waiting := (s.kittyAt p).waiting ++ ops } := by
  have hstuck := Kitty.stuck_of_next (k := { s.kittyAt p with waiting := (s.kittyAt p).waiting ++ ops }) fun i hi => by
    rw [h] at hi
    cases hi
  simp only [State.stackOps, State.serveStack, setKitty_kittyAt, hstuck _, List.filterMap_nil, List.foldl_nil, setKitty_setKitty]

end

end Machine
end Sys2Proof

open Sys2Proof Sys2Proof.Machine

/-- Settles O42: each event's answer is that of its one enabled branch; the kitty's choice is the first operation of its class. -/
theorem bankPoints : Obligations.BankPoints := by
  unfold Obligations.BankPoints
  intro s p n cmd rest
  refine ⟨fun hrun hq hc => ⟨fun h pa slot hk => ?_, fun code detail pa slot hk => ?_, fun pa va slot args reply count hk =>
    ⟨fun hs => ?_, fun h hs hfree => ?_⟩⟩, ?_, fun m hm => modeSwitchDone_sets hm, fun columns activate hp h1 h4 => ⟨?_, ?_, ?_⟩,
    fun q pre o post hw => ⟨Kitty.next_bank hw, Kitty.next_normal hw, Kitty.next_beyond hw, fun n hn => Kitty.serve_next hw hn n⟩⟩
  · exact handlerInstall_good hrun hq hc hk
  · exact handlerInstall_bad hrun hq hc hk
  · exact handlerStart_empty hrun hq hc hk hs
  · exact handlerStart_runs hrun hq hc hk hs (footprintOwned_false hfree)
  · intro r code pa va slot args reply count hr hc hk
    have hend := endHandler_eq (code := endCode r code) hr hc hk
    rw [endCode_endCode] at hend
    exact hend
  · exact kittyService_joins hp h1 h4
  · intro hw hc
    rw [kittyService_joins hp h1 h4, ← normalOps_cost columns activate, stackOps_paid normalOps_normal hw (by rwa [normalOps_cost])]
  · intro hn
    rw [kittyService_joins hp h1 h4, stackOps_waits (ops := normalOps none activate columns) hn]
    rfl

end

section
/-! CERTIFICATES. The ends of the weight arrays' commands (O41). -/

namespace Sys2Proof
namespace Machine

/-! ### The arrays of a new version (R280, R304, R419) -/

theorem chooseArrays_length {n k : Nat} {l : List Nat} (h : n ≤ l.length) : (chooseArrays n k l).length = n := by
  induction n generalizing k l with
  | zero => rfl
  | succ n ih =>
    have hlt : (Config.free k).toNat % l.length < l.length := Nat.mod_lt _ (by omega)
    have hmem := List.getElem_mem hlt
    simp only [chooseArrays, List.getElem?_eq_getElem hlt, List.length_cons]
    rw [ih (by rw [List.length_erase_of_mem hmem]; omega)]

theorem chooseArrays_subset {n k : Nat} {l : List Nat} : ∀ a ∈ chooseArrays n k l, a ∈ l := by
  induction n generalizing k l with
  | zero => exact fun a ha => absurd ha List.not_mem_nil
  | succ n ih =>
    intro a ha
    unfold chooseArrays at ha
    split at ha
    · exact absurd ha List.not_mem_nil
    · next b hb =>
      rcases List.mem_cons.1 ha with rfl | ha
      · exact List.mem_of_getElem? hb
      · exact List.mem_of_mem_erase (ih a ha)

theorem chooseArrays_nodup {n k : Nat} {l : List Nat} (h : l.Nodup) : (chooseArrays n k l).Nodup := by
  induction n generalizing k l with
  | zero => exact List.nodup_nil
  | succ n ih =>
    unfold chooseArrays
    split
    · exact List.nodup_nil
    · next b hb =>
      exact List.nodup_cons.2 ⟨fun hm => h.not_mem_erase (chooseArrays_subset _ hm), ih (h.erase b)⟩

/-- An array after a version's tile is written into it: it is calibrated, and of the context. -/
def writtenArray (ctx : Nat) (t : State) (a : Nat) : State :=
  t.setArray a { mgetD t.warrays a .initial with
    calibrated := t.gtime, held := ctx :: (mgetD t.warrays a .initial).held.erase ctx }

/-- Some arrays written one after the other, each a free choice that did not fail. -/
def allWritten (ctx : Nat) (t : State) (l : List Nat) : State := l.foldl (fun t a => writtenArray ctx t.draw a) t

theorem allWritten_free (ctx : Nat) (t : State) (l : List Nat) : (allWritten ctx t l).free = t.free + l.length := by
  induction l generalizing t with
  | nil => rfl
  | cons a l ih =>
    have hfree : (writtenArray ctx t.draw a).free = t.free + 1 := rfl
    rw [allWritten, List.foldl_cons, ← allWritten, ih, hfree, List.length_cons]
    omega

/-- A replacement makes no free choice. -/
theorem replaceArray_free (s : State) (ctx a : Nat) : (replaceArray s ctx a).2.free = s.free := by
  unfold replaceArray
  dsimp only
  split
  · rfl
  · split <;> rfl

section
variable {ctx tile a b : Nat} {s t : State} {as : List Nat}

theorem writeArrays_good (h : Config.happens s.free = false) :
    writeArrays ctx s tile (a :: as) =
      let r := writeArrays ctx (writtenArray ctx s.draw a) (tile + 1) as
      (r.1, r.2.map (a :: ·)) := by
  simp only [writeArrays, h, Bool.false_eq_true, if_false]
  change (match writeArrays ctx (writtenArray ctx s.draw a) (tile + 1) as with | (s, .ok l) => _ | (s, .error e) => _) = _
  generalize writeArrays ctx (writtenArray ctx s.draw a) (tile + 1) as = r
  obtain ⟨u, e | l⟩ := r <;> rfl

theorem writeArrays_lost (h : Config.happens s.free = true) (hr : replaceArray s.draw ctx a = (none, t)) :
    writeArrays ctx s tile (a :: as) = (t, .error tile) := by
  simp only [writeArrays, h, if_true, hr]

theorem writeArrays_replaced (h : Config.happens s.free = true) (hr : replaceArray s.draw ctx a = (some b, t)) :
    writeArrays ctx s tile (a :: as) =
      let r := writeArrays ctx (writtenArray ctx t b) (tile + 1) as
      (r.1, r.2.map (b :: ·)) := by
  simp only [writeArrays, h, if_true, hr]
  change (match writeArrays ctx (writtenArray ctx t b) (tile + 1) as with | (s, .ok l) => _ | (s, .error e) => _) = _
  generalize writeArrays ctx (writtenArray ctx t b) (tile + 1) as = r
  obtain ⟨u, e | l⟩ := r <;> rfl

/-- The arrays before the first that fails are written. -/
theorem writeArrays_append {pre : List Nat} (h : ∀ j, j < pre.length → Config.happens (s.free + j) = false) :
    writeArrays ctx s tile (pre ++ as) =
      let r := writeArrays ctx (allWritten ctx s pre) (tile + pre.length) as
      (r.1, r.2.map (pre ++ ·)) := by
  induction pre generalizing s tile with
  | nil =>
    change writeArrays ctx s tile as = ((writeArrays ctx s tile as).1, (writeArrays ctx s tile as).2.map (fun l => l))
    generalize writeArrays ctx s tile as = r
    obtain ⟨u, e | l⟩ := r <;> rfl
  | cons a pre ih =>
    have hrest : ∀ j, j < pre.length → Config.happens ((writtenArray ctx s.draw a).free + j) = false := fun j hj => by
      have hs : (writtenArray ctx s.draw a).free + j = s.free + (j + 1) := by
        show s.free + 1 + j = _
        omega
      rw [hs]
      exact h (j + 1) (Nat.succ_lt_succ hj)
    rw [List.cons_append, writeArrays_good (h 0 (Nat.succ_pos _)), ih hrest, List.length_cons, Nat.add_right_comm tile 1]
    show (_, Except.map _ (Except.map _ _)) = _
    generalize hr : writeArrays ctx (allWritten ctx (writtenArray ctx s.draw a) pre) (tile + pre.length + 1) as = r
    have hr' : writeArrays ctx (allWritten ctx s (a :: pre)) (tile + (pre.length + 1)) as = r := hr
    rw [hr']
    obtain ⟨u, e | l⟩ := r <;> rfl

end

/-- No array of a list fails: all are written. -/
theorem writeArrays_all {ctx tile : Nat} {s : State} {l : List Nat} (h : ∀ j, j < l.length → Config.happens (s.free + j) = false) :
    writeArrays ctx s tile l = (allWritten ctx s l, .ok l) := by
  have ha := writeArrays_append (ctx := ctx) (tile := tile) (as := []) h
  rw [List.append_nil] at ha
  rw [ha]
  simp [writeArrays, Except.map]

section
variable {ctx tile k : Nat} {s t : State} {l : List Nat} (hk : k < l.length) (hbefore : ∀ j, j < k → Config.happens (s.free + j) = false)
  (hfail : Config.happens (s.free + k) = true)
include hk hbefore hfail

omit hfail in
/-- The array at place k is the first that fails: what is written before it, and what its replacement leads to. -/
theorem writeArrays_first {r : State × Except Nat (List Nat)}
    (hr : writeArrays ctx (allWritten ctx s (l.take k)) (tile + k) (l.getD k 0 :: l.drop (k + 1)) = r) :
    writeArrays ctx s tile l = (r.1, r.2.map (l.take k ++ ·)) := by
  have hlen : (l.take k).length = k := List.length_take_of_le hk.le
  have hl : l.take k ++ l.getD k 0 :: l.drop (k + 1) = l := by
    rw [List.getD_eq_getElem _ _ hk, List.getElem_cons_drop, List.take_append_drop]
  have ha := writeArrays_append (ctx := ctx) (s := s) (tile := tile) (as := l.getD k 0 :: l.drop (k + 1)) (pre := l.take k)
    (by rwa [hlen])
  rw [hl, hlen] at ha
  rw [ha, hr]

omit hbefore in
theorem happens_first : Config.happens (allWritten ctx s (l.take k)).free = true := by
  rw [allWritten_free, List.length_take_of_le hk.le]
  exact hfail

theorem writeArrays_first_lost (hr : replaceArray (allWritten ctx s (l.take k)).draw ctx (l.getD k 0) = (none, t)) :
    writeArrays ctx s tile l = (t, .error (tile + k)) :=
  writeArrays_first hk hbefore (writeArrays_lost (happens_first hk hfail) hr)

theorem writeArrays_first_replaced {b : Nat} (hr : replaceArray (allWritten ctx s (l.take k)).draw ctx (l.getD k 0) = (some b, t))
    (hafter : ∀ j, k < j → j < l.length → Config.happens (s.free + j) = false) :
    writeArrays ctx s tile l = (allWritten ctx (writtenArray ctx t b) (l.drop (k + 1)), .ok (l.set k b)) := by
  have hfree : (writtenArray ctx t b).free = s.free + (k + 1) := by
    have ht := replaceArray_free (allWritten ctx s (l.take k)).draw ctx (l.getD k 0)
    rw [hr] at ht
    have hd : (allWritten ctx s (l.take k)).draw.free = s.free + k + 1 := by
      show (allWritten ctx s (l.take k)).free + 1 = _
      rw [allWritten_free, List.length_take_of_le hk.le]
    exact ht.trans hd
  have hrest := writeArrays_all (ctx := ctx) (tile := tile + k + 1) (s := writtenArray ctx t b) (l := l.drop (k + 1)) fun j hj => by
    rw [List.length_drop] at hj
    rw [hfree, Nat.add_assoc]
    exact hafter (k + 1 + j) (by omega) (by omega)
  have hstep := writeArrays_replaced (tile := tile + k) (as := l.drop (k + 1)) (happens_first hk hfail) hr
  rw [hrest] at hstep
  rw [writeArrays_first hk hbefore hstep, List.set_eq_take_append_cons_drop, if_pos hk]
  rfl

end

/-! ### CWRITE (R280) -/

/-- A handle that no CWRITE has given its dimensions yet. -/
def freshHandle (q : BitVec 256) : Handle :=
  { kin := cwKin q, n := cwN q, cur := none, pending := none, old := [], commits := 0, rotating := none }

/-- The handle that a CWRITE writes a version of. -/
def cwriteHandle (s : State) (ctx h : Nat) (q : BitVec 256) : Handle := (s.handleAt ctx h).getD (freshHandle q)

/-- The version that a CWRITE writes, pending. -/
def State.pend (t : State) (ctx h : Nat) (x : Handle) (w : List Byte) (z : Option (List (BitVec 32))) (arrays : List Nat) : State :=
  t.setHandle ctx h { x with pending := some {
    num := 0, weights := w.toArray, scales := z.map List.toArray, arrays := arrays, degraded := false } }

/-- Arrays that a matrix takes (R303). -/
def cwTiles (q : BitVec 256) : Nat := (cwKin q + 1023) / 1024 * ((cwN q + 1023) / 1024)

section
variable {s t u : State} {n ctx h : Nat} {q : BitVec 256}

theorem cwritePoint_sizes (hx : (cwriteHandle s ctx h q).kin ≠ cwKin q ∨ (cwriteHandle s ctx h q).n ≠ cwN q) :
    cwritePoint s n ctx h q = .ok (s.finishCmd n 4 0 0) := if_pos hx

variable (hkin : (cwriteHandle s ctx h q).kin = cwKin q) (hn : (cwriteHandle s ctx h q).n = cwN q)
include hkin hn

theorem cwriteHandle_tiles : (cwriteHandle s ctx h q).tiles = cwTiles q := by
  rw [Handle.tiles, hkin, hn]
  rfl

theorem cwritePoint_full (hf : (freeArrays s ctx).length < cwTiles q) :
    cwritePoint s n ctx h q = .ok (s.finishCmd n 0x20 0 (cwTiles q - (freeArrays s ctx).length)) := by
  rw [← cwriteHandle_tiles hkin hn] at hf ⊢
  exact (if_neg (fun hx => hx.elim (· hkin) (· hn))).trans (if_pos hf)

variable (hf : cwTiles q ≤ (freeArrays s ctx).length)
include hf

/-- A CWRITE that fits: what is read, and where it is written. -/
theorem cwritePoint_reads : cwritePoint s n ctx h q =
    (readMatrix s n q).point (fun (w, z, u) =>
      match writeArrays ctx { u with free := u.free + cwTiles q } 0 (chooseArrays (cwTiles q) u.free (freeArrays s ctx)) with
      | (t, .error tile) => .ok (t.finishCmd n 0x21 0 tile)
      | (t, .ok arrays) => .ok ((t.pend ctx h (cwriteHandle s ctx h q) w z arrays).finishCmd n 0 0 0))
      (fun code t => .ok (t.finishCmd n code 0 0)) := by
  have ht := cwriteHandle_tiles hkin hn
  rw [← ht] at hf ⊢
  exact (if_neg (fun hx => hx.elim (· hkin) (· hn))).trans (if_neg (Nat.not_lt.2 hf))

theorem cwritePoint_unread {code : Nat} (hr : readMatrix s n q = .error (.fail code t)) :
    cwritePoint s n ctx h q = .ok (t.finishCmd n code 0 0) := by
  rw [cwritePoint_reads hkin hn hf, hr]
  rfl

variable {w : List Byte} {z : Option (List (BitVec 32))} (hr : readMatrix s n q = .ok (w, z, u))
include hr

theorem cwritePoint_writes {arrays : List Nat}
    (hw : writeArrays ctx { u with free := u.free + cwTiles q } 0 (chooseArrays (cwTiles q) u.free (freeArrays s ctx)) = (t, .ok arrays)) :
    cwritePoint s n ctx h q = .ok ((t.pend ctx h (cwriteHandle s ctx h q) w z arrays).finishCmd n 0 0 0) := by
  rw [cwritePoint_reads hkin hn hf, hr]
  simp only [Eng.point, hw]

theorem cwritePoint_lost {tile : Nat}
    (hw : writeArrays ctx { u with free := u.free + cwTiles q } 0 (chooseArrays (cwTiles q) u.free (freeArrays s ctx)) = (t, .error tile)) :
    cwritePoint s n ctx h q = .ok (t.finishCmd n 0x21 0 tile) := by
  rw [cwritePoint_reads hkin hn hf, hr]
  simp only [Eng.point, hw]

end

theorem cwriteHandle_sizes {s : State} {ctx h : Nat} {q : BitVec 256}
    (hx : ∀ x, s.handleAt ctx h = some x → x.kin = cwKin q ∧ x.n = cwN q) :
    (cwriteHandle s ctx h q).kin = cwKin q ∧ (cwriteHandle s ctx h q).n = cwN q := by
  unfold cwriteHandle
  cases ho : s.handleAt ctx h with
  | none => exact ⟨rfl, rfl⟩
  | some x => exact hx x ho

theorem olderCwrite_false {s : State} {n ctx h : Nat}
    (ho : ∀ o ∈ s.cmds, o.1 < n → o.2.ctx = ctx → ∀ p, o.2.kind ≠ .cwrite h p) : olderCwrite s n ctx h = false := by
  refine List.any_eq_false.2 fun o hm => ?_
  rw [Bool.and_eq_true, Bool.and_eq_true, decide_eq_true_iff, beq_iff_eq]
  rintro ⟨⟨hlt, hctx⟩, hkind⟩
  split at hkind
  · next g p hg =>
    rw [beq_iff_eq] at hkind
    exact ho o hm hlt hctx p (hkind ▸ hg)
  · cases hkind

/-- CWRITE_COMPLETE of the oldest CWRITE of its handle. -/
theorem cwriteComplete_ends {s t : State} {n h : Nat} {q : BitVec 256} {c : Cmd} (hc : mget? s.cmds n = some c)
    (hk : c.kind = .cwrite h q) (ho : ∀ o ∈ s.cmds, o.1 < n → o.2.ctx = c.ctx → ∀ p, o.2.kind ≠ .cwrite h p)
    (hp : cwritePoint (s.focus c.hart) n c.ctx h q = .ok t) : exec (.cwriteComplete n) s = .next (t.focus s.cur) := by
  rw [exec_cwriteComplete]
  simp only [execCwriteComplete, hc, hk, olderCwrite_false ho, Bool.false_eq_true, if_false, hp]
  rfl

theorem replaceArray_spare {t : State} {ctx a b : Nat}
    (h : spareOf ((t.setArray a { mgetD t.warrays a .initial with owner := none }).retireOne (.array a)) (a / Config.arraysPerDie) =
      some b) :
    let w := mgetD t.warrays a .initial
    let u := (t.setArray a { w with owner := none }).retireOne (.array a)
    replaceArray t ctx a = (some b, u.setArray b {
      owner := w.owner, failed := false, calibrated := t.gtime, held := ctx :: (mgetD u.warrays b .initial).held.erase ctx }) := by
  simp only [replaceArray, dieOfArray, h]
  rfl

/-! ### CCOMMIT (R281, R311, R312) -/

theorem versionSwitch_ends {s : State} {n h : Nat} {c : Cmd} (hc : mget? s.cmds n = some c) (hk : c.kind = .ccommit h) :
    exec (.versionSwitch n) s = .next (switchPoint s n c.ctx h) := by
  rw [exec_versionSwitch]
  simp only [execVersionSwitch, hc, hk]
  rfl

theorem switchPoint_none {s : State} {n ctx h : Nat} (hp : ∀ x, s.handleAt ctx h = some x → x.pending = none) :
    switchPoint s n ctx h = s.finishCmd n 3 0 0 := by
  unfold switchPoint
  split
  · rfl
  · next x hx =>
    rw [hp x hx]

theorem switchPoint_pending {s : State} {n ctx h : Nat} {x : Handle} {p : Version} (hx : s.handleAt ctx h = some x)
    (hp : x.pending = some p) :
    switchPoint s n ctx h = (((s.setHandle ctx h { x with
      cur := some { p with num := x.commits + 1 }, pending := none, old := x.cur.toList ++ x.old
      commits := x.commits + 1, rotating := none }).finishCmd n 0 0 0).finishCals ctx h 0 0).dropOld ctx h := by
  simp only [switchPoint, hx, hp]

/-! ### CMV (R282, R303 to R308, R418) -/

/-- Column k of a tile, its free choices numbered from `base` on. -/
def tileColumn (v : Version) (kin n : Nat) (job : CmvJob) (tile base k : Nat) : Int × Bool × Nat :=
  columnSum (fun i => (v.weights.getD ((1024 * (tile / tilesAlong n) + i) * n + 1024 * (tile % tilesAlong n) + k) 0).toInt)
    (fun i => job.input.toArray.getD (1024 * (tile / tilesAlong n) + i) 0) (min 1024 (kin - 1024 * (tile / tilesAlong n))) job.split
    (base + 96 * k)

/-- The columns of a tile, one after another. -/
def tileSums (v : Version) (kin n : Nat) (job : CmvJob) (tile base : Nat) : List (Int × Bool × Nat) :=
  (span 0 (min 1024 (n - 1024 * (tile % tilesAlong n)))).map (tileColumn v kin n job tile base)

theorem span_eq_range' (a n : Nat) : span a n = List.range' a n := by
  induction n generalizing a with
  | zero => rfl
  | succ n ih => rw [span, ih, List.range'_succ]

theorem map_span_getD {α : Type} (f : Nat → α) (d : α) {n k : Nat} (hk : k < n) : ((span 0 n).map f).getD k d = f k := by
  rw [span_eq_range']
  simp [List.getD_eq_getElem?_getD, hk]

/-- A pass over some columns gives their sums, the saturated ones and all retries. -/
theorem foldl_columns (f : Nat → Int × Bool × Nat) (col : Nat → Nat) (l : List Nat) (acc : Array Int × List Nat × Nat) :
    l.foldl (fun (acc : Array Int × List Nat × Nat) j =>
      (acc.1.push (f j).1, if (f j).2.1 then acc.2.1 ++ [col j] else acc.2.1, acc.2.2 + (f j).2.2)) acc =
    (acc.1 ++ (l.map (fun j => (f j).1)).toArray, acc.2.1 ++ (l.filter (fun j => (f j).2.1)).map col,
      acc.2.2 + (l.map (fun j => (f j).2.2)).sum) := by
  induction l generalizing acc with
  | nil => simp
  | cons j l ih =>
    rw [List.foldl_cons, ih]
    cases h : (f j).2.1 <;> simp [h, Nat.add_assoc]

theorem tilePass_columns (v : Version) (kin n : Nat) (job : CmvJob) (tile base : Nat) :
    tilePass v kin n job tile base =
      (span 0 (min 1024 (n - 1024 * (tile % tilesAlong n)))).foldl (fun (acc : Array Int × List Nat × Nat) j =>
        let r := tileColumn v kin n job tile base j
        (acc.1.push r.1, if r.2.1 then acc.2.1 ++ [1024 * (tile % tilesAlong n) + j] else acc.2.1, acc.2.2 + r.2.2)) (#[], [], 0) := by
  simp only [tilePass, tileColumn, signed8, Nat.add_assoc]
  rfl

/-- A kept pass by its columns. -/
theorem tilePass_eq (v : Version) (kin n : Nat) (job : CmvJob) (tile base : Nat) :
    let sums := tileSums v kin n job tile base
    let col := 1024 * (tile % tilesAlong n)
    tilePass v kin n job tile base = ((sums.map (·.1)).toArray,
      ((span 0 (min 1024 (n - col))).filter (fun k => (sums.getD k (0, false, 0)).2.1)).map (col + ·), (sums.map (·.2.2)).sum) := by
  intro sums col
  have hsat : (span 0 (min 1024 (n - col))).filter (fun k => (sums.getD k (0, false, 0)).2.1) =
      (span 0 (min 1024 (n - col))).filter (fun k => (tileColumn v kin n job tile base k).2.1) :=
    List.filter_congr fun k hk => by
      obtain ⟨-, hlt⟩ := mem_span.1 hk
      have hget : sums.getD k (0, false, 0) = tileColumn v kin n job tile base k :=
        map_span_getD (tileColumn v kin n job tile base) (0, false, 0) (by rwa [Nat.zero_add] at hlt)
      rw [hget]
  have hfold := foldl_columns (tileColumn v kin n job tile base) (col + ·) (span 0 (min 1024 (n - col))) (#[], [], 0)
  rw [Array.empty_append, List.nil_append, Nat.zero_add] at hfold
  rw [hsat, tilePass_columns, hfold]
  simp only [sums, tileSums, List.map_map]
  rfl

section
variable {s : State} {n : Nat} {c : Cmd} {j : CmvJob} {h : Handle} {v : Version} (hc : mget? s.cmds n = some c) (hk : c.kind = .cmv j)
  (hh : s.handleAt c.ctx j.handle = some h) (hv : h.version j.version = some v)
include hc hk hh hv

/-- The machine whose command n, a CMV, goes on with another job. -/
def putJob (t : State) (n : Nat) (c : Cmd) (k : CmvJob) : State := { t with cmds := mset t.cmds n { c with kind := .cmv k } }

section
variable {tile : Nat} (hd : v.degraded = false) (ht : tile < tilesAlong h.kin * tilesAlong h.n) (hdone : mget? j.done tile = none)
include hd ht hdone

theorem arrayPass_keeps : exec (.arrayPass n tile true) s =
    .next (putJob { s with free := s.free + 96 * 1024 } n c (j.keep tile (tilePass v h.kin h.n j tile s.free))) := by
  have ht' : decide (h.tiles ≤ tile) = false := decide_eq_false (Nat.not_le.2 ht)
  rw [exec_arrayPass]
  simp only [execArrayPass, hc, hk, passPoint, hh, hv, hd, ht', hdone]
  rfl

theorem arrayPass_discards : exec (.arrayPass n tile false) s =
    .next (if mgetD j.discards tile 0 + 1 < 3 then
        putJob (s.setArray (v.arrays.getD tile 0) { mgetD s.warrays (v.arrays.getD tile 0) .initial with calibrated := s.gtime }) n c
          { j with discards := mset j.discards tile (mgetD j.discards tile 0 + 1) }
      else failArray (putJob s n c { j with discards := mdel j.discards tile }) c j.handle j.version tile (v.arrays.getD tile 0)) := by
  have ht' : decide (h.tiles ≤ tile) = false := decide_eq_false (Nat.not_le.2 ht)
  rw [exec_arrayPass]
  by_cases h3 : mgetD j.discards tile 0 + 1 < 3
  · simp only [execArrayPass, hc, hk, passPoint, hh, hv, hd, ht', hdone, if_pos h3]
    rfl
  · simp only [execArrayPass, hc, hk, passPoint, hh, hv, hd, ht', hdone, if_neg h3]
    rfl

end

theorem cmvComplete_writes (hd : v.degraded = false) (hall : tilesAlong h.kin * tilesAlong h.n ≤ j.done.length) :
    exec (.cmvComplete n) s = .next (((((s.spWrite c.core j.out ((span 0 h.n).flatMap (fun i => leBytes 4 (cmvResult h v j i)))).spWrite
      c.core j.stat (cmvStatus j.retries (countBits j.satBits h.n) j.version ++ leBytes ((h.n + 7) / 8) j.satBits)).finishCmd n 0 0 0).dropOld
        c.ctx j.handle)) := by
  rw [exec_cmvComplete]
  simp only [execCmvComplete, hc, hk, cmvPoint, hh, hv, hd, show ¬j.done.length < h.tiles from Nat.not_lt.2 hall]
  rfl

theorem cmvComplete_degraded (hd : v.degraded = true) :
    exec (.cmvComplete n) s = .next (((s.spWrite c.core j.stat (cmvStatus 0 0 j.version ++ leBytes ((h.n + 7) / 8) 0)).finishCmd n 0x21 0
      ((v.arrays.findIdx? (fun a => (mgetD s.warrays a .initial).failed)).getD 0)).dropOld c.ctx j.handle) := by
  rw [exec_cmvComplete]
  simp only [execCmvComplete, hc, hk, cmvPoint, hh, hv, hd]
  rfl

end

/-- A sum taken modulo 2^32 (R306). -/
theorem wrapBits_toNat (y : Int) : (wrapBits 32 y).toNat = (y % 2 ^ 32).toNat := by
  have hlt : (y % 2 ^ 32).toNat < 2 ^ 64 := by omega
  exact Nat.mod_eq_of_lt hlt

/-! ### Rotations (R309, R310) -/

theorem recalibration_begins {s : State} {ctx h tile a b : Nat} {x : Handle} {v : Version} (hx : s.handleAt ctx h = some x)
    (hv : x.cur = some v) (hr : x.rotating = none) (hd : v.degraded = false) (ha : v.arrays[tile]? = some a)
    (hb : spareOf s (a / Config.arraysPerDie) = some b) :
    exec (.recalibration ctx h tile) s = .next ((writtenArray ctx s b).setHandle ctx h { x with rotating := some (tile, b) }) := by
  have hb' : spareOf s (dieOfArray a) = some b := hb
  rw [exec_recalibration]
  simp only [execRecalibration, hx, hv, ha, hr, hd, hb']
  rfl

theorem rotationSwitch_ends {s : State} {ctx h tile b : Nat} {x : Handle} {v : Version} (hx : s.handleAt ctx h = some x)
    (hv : x.cur = some v) (hr : x.rotating = some (tile, b)) :
    let a := v.arrays.getD tile 0
    let t := s.setArray b { mgetD s.warrays b .initial with owner := some ctx, calibrated := s.gtime }
    let t := t.setArray a { mgetD t.warrays a .initial with owner := none, calibrated := t.gtime }
    exec (.rotationSwitch ctx h) s = .next ((t.setHandle ctx h
      { x with cur := some { v with arrays := v.arrays.set tile b }, rotating := none }).calDone ctx h tile) := by
  rw [exec_rotationSwitch]
  simp only [execRotationSwitch, hx, hv, hr]
  rfl

end Machine
end Sys2Proof

open Sys2Proof Sys2Proof.Machine

/-- Settles O41: each event's answer is that of its one enabled branch; a CWRITE's arrays by induction on those it has chosen. -/
theorem arrayPoints : Obligations.ArrayPoints := by
  unfold Obligations.ArrayPoints
  intro s n
  refine ⟨?_, fun t ctx a b hb => replaceArray_spare hb, ?_, ?_,
    fun ctx h tile x v a b hx hv hr hd ha hb => recalibration_begins hx hv hr hd ha hb,
    fun ctx h tile x v b hx hv hr => rotationSwitch_ends hx hv hr⟩
  · intro c h q hc hk f ends old sizes need free put ho
    refine ⟨fun x hx hs => ?_, fun hs hfull => ?_, fun hs hroom => ?_⟩
    · have hx' : cwriteHandle f c.ctx h q = x := congrArg (·.getD (freshHandle q)) hx
      exact cwriteComplete_ends hc hk ho (cwritePoint_sizes (by rwa [hx', ← not_and_or]))
    · obtain ⟨hkin, hn⟩ := cwriteHandle_sizes hs
      exact cwriteComplete_ends hc hk ho (cwritePoint_full hkin hn hfull)
    · obtain ⟨hkin, hn⟩ := cwriteHandle_sizes hs
      refine ⟨fun code t hr => cwriteComplete_ends hc hk ho (cwritePoint_unread hkin hn hroom hr), fun w z u hr => ?_⟩
      have hlen : (chooseArrays need u.free free).length = need := chooseArrays_length hroom
      refine ⟨chooseArrays need u.free free, hlen, chooseArrays_subset, chooseArrays_nodup, fun hgood => ?_,
        fun k hlt hfail hbefore => ⟨fun t ht => ?_, fun b t ht hafter => ?_⟩⟩
      · refine cwriteComplete_ends hc hk ho (cwritePoint_writes hkin hn hroom hr ?_)
        change _ = (allWritten c.ctx _ ((chooseArrays need u.free free).take need), _)
        rw [List.take_of_length_le hlen.le]
        exact writeArrays_all fun j hj => hgood j (hj.trans_eq hlen)
      · have hw := writeArrays_first_lost (tile := 0) (hlt.trans_eq hlen.symm) hbefore hfail ht
        rw [Nat.zero_add] at hw
        exact cwriteComplete_ends hc hk ho (cwritePoint_lost hkin hn hroom hr hw)
      · exact cwriteComplete_ends hc hk ho (cwritePoint_writes hkin hn hroom hr
          (writeArrays_first_replaced (hlt.trans_eq hlen.symm) hbefore hfail ht fun j hj hj' => hafter j hj (hj'.trans_eq hlen)))
  · intro c h hc hk
    exact ⟨fun x p hx hp => (versionSwitch_ends hc hk).trans (congrArg _ (switchPoint_pending hx hp)),
      fun hp => (versionSwitch_ends hc hk).trans (congrArg _ (switchPoint_none hp))⟩
  · intro c j h v hc hk hh hv
    refine ⟨fun tile hd ht hdone => ⟨?_, fun h3 => ?_, fun h3 => ?_⟩, fun hd hall => ?_, fun hd => ?_⟩
    · refine (arrayPass_keeps hc hk hh hv hd ht hdone).trans ?_
      rw [tilePass_eq]
      rfl
    · refine (arrayPass_discards hc hk hh hv hd ht hdone).trans ?_
      rw [if_pos h3]
      rfl
    · refine (arrayPass_discards hc hk hh hv hd ht hdone).trans ?_
      rw [if_neg (Nat.not_lt.2 h3)]
      rfl
    · refine (cmvComplete_writes hc hk hh hv hd hall).trans ?_
      simp only [cmvResult, wrapBits_toNat]
      rfl
    · refine (cmvComplete_degraded hc hk hh hv hd).trans ?_
      rfl

end

section
/-! CERTIFICATES. Matrix instructions at their points (O35). -/

namespace Sys2Proof
namespace Machine

/-! ### The head of the queue (R264) -/

/-- The machine that a matrix instruction of hart h works on: the hart in place, its queue without the instruction. -/
def State.taken (s : State) (h : Nat) (rest : List MatrixOp) : State :=
  (s.focus h).setHart { (s.focus h).hart with matrixQ := rest }

/-- What a matrix instruction that has left its queue comes to. -/
def matrixEffect (c : State) : MatrixOp → Point
  | .zero t => .ok (c.setCore ((c.core.setTile t zeroTile).setTileFlags t 0))
  | .mop t k a b mwb => .ok (c.setCore (mopRun c.core t k a b mwb))
  | .load cmd src line count => loadRun c cmd src line count
  | .drain cmd t d => drainRun c cmd t d

section
variable {s t : State} {h : Nat} {op : MatrixOp} {rest : List MatrixOp} (hq : (s.focus h).hart.matrixQ = op :: rest)
  (hh : (s.focus h).holds = true) (hr : (s.taken h rest).core.retired = false)
include hq hh hr

/-- What a matrix instruction comes to at its point, its hart's local stores there. -/
theorem matrixExecute_done
    (hp : matrixEffect (s.taken h rest) op = .ok t) :
    exec (.matrixExecute h) s = .next (t.focus s.cur) := by
  have hpoint : matrixPoint (s.focus h) = .ok t := by
    have hgo : (!(s.taken h rest).holds || (s.taken h rest).core.retired) = false := by
      rw [hr, Bool.or_false, Bool.not_eq_false']
      exact hh
    unfold matrixPoint
    rw [hq]
    refine (if_neg (by rw [← State.taken, hgo]; exact Bool.false_ne_true)).trans ?_
    rw [← hp]
    cases op <;> rfl
  rw [exec_matrixExecute, execMatrixExecute, hpoint]
  rfl

end

/-! ### Results of one element after another -/

theorem foldl_push {α β : Type} (g : Nat → α) (f : β → Nat → β) (l : List Nat) (st : Array α × β) :
    l.foldl (fun st n => (st.1.push (g n), f st.2 n)) st = (st.1 ++ (l.map g).toArray, l.foldl f st.2) := by
  induction l generalizing st with
  | nil => simp
  | cons n l ih =>
    rw [List.foldl_cons, ih]
    simp

theorem toArray_map_span_getD {α : Type} (g : Nat → α) (d : α) {n k : Nat} (hk : k < n) : ((span 0 n).map g).toArray.getD k d = g k := by
  rw [← map_span_getD g d hk, Array.getD_eq_getD_getElem?, List.getElem?_toArray, List.getD_eq_getElem?_getD]

/-- A flag of some elements is one of an element. -/
theorem foldl_or_getLsbD (g : Nat → Flags) (l : List Nat) (f : Flags) (j : Nat) :
    (l.foldl (fun f i => f ||| g i) f).getLsbD j = true ↔ f.getLsbD j = true ∨ ∃ i ∈ l, (g i).getLsbD j = true := by
  induction l generalizing f with
  | nil => simp
  | cons i l ih =>
    rw [List.foldl_cons, ih, BitVec.getLsbD_or, Bool.or_eq_true, List.exists_mem_cons_iff, or_assoc]

/-- The flags of some elements taken together. -/
theorem foldl_or_span (g : Nat → Flags) (n j : Nat) :
    ((span 0 n).foldl (fun f i => f ||| g i) 0).getLsbD j = true ↔ ∃ i, i < n ∧ (g i).getLsbD j = true := by
  rw [foldl_or_getLsbD]
  simp [mem_span]

/-! ### MOP (R269 to R271) -/

/-- Accumulator i of a tile after MOP, with its flags: the blocks in their order. -/
def mopAcc (k : Core) (mwb n : Nat) (a b : MopOperand) (old : Array (BitVec 32)) (i : Nat) : Nat × Flags :=
  (span 0 ((n + 31) / 32)).foldl (fun q blk =>
    mopBlock ((span (32 * blk) (min 32 (n - 32 * blk))).map
        (fun j => (operandVal k mwb n a (i / 64) j).mul (operandVal k mwb n b (i % 64) j)))
      (scaleCode k a.desc (i / 64) blk) (scaleCode k b.desc (i % 64) blk) q) ((old.getD i 0).toNat, 0)

/-- An operand's values, as MOP takes them together: 64 rows of so many steps. -/
def operandRows (k : Core) (mwb n : Nat) (o : MopOperand) : Array (Array Val) :=
  ((span 0 64).map (fun r => ((span 0 n).map (operandVal k mwb n o r)).toArray)).toArray

theorem operandRows_getD (k : Core) (mwb : Nat) {n : Nat} (o : MopOperand) {r q : Nat} (hr : r < 64) (hq : q < n) :
    ((operandRows k mwb n o).getD r #[]).getD q .nan = operandVal k mwb n o r q := by
  rw [operandRows, toArray_map_span_getD _ _ hr, toArray_map_span_getD _ _ hq]

/-- The accumulator as MOP works it out. -/
def mopCell (k : Core) (mwb n : Nat) (a b : MopOperand) (old : Array (BitVec 32)) (i : Nat) : Nat × Flags :=
  (span 0 ((n + 31) / 32)).foldl (fun q blk =>
    mopBlock ((span (32 * blk) (min 32 (n - 32 * blk))).map
        (fun j => (((operandRows k mwb n a).getD (i / 64) #[]).getD j .nan).mul (((operandRows k mwb n b).getD (i % 64) #[]).getD j .nan)))
      (scaleCode k a.desc (i / 64) blk) (scaleCode k b.desc (i % 64) blk) q) ((old.getD i 0).toNat, 0)

theorem mopCell_eq (k : Core) (mwb n : Nat) (a b : MopOperand) (old : Array (BitVec 32)) {i : Nat} (hi : i < 4096) :
    mopCell k mwb n a b old i = mopAcc k mwb n a b old i := by
  have hrow : i / 64 < 64 := by omega
  have hcol : i % 64 < 64 := by omega
  refine List.foldl_ext _ _ _ fun q blk hblk => ?_
  have hvals : (span (32 * blk) (min 32 (n - 32 * blk))).map (fun j => (((operandRows k mwb n a).getD (i / 64) #[]).getD j .nan).mul
        (((operandRows k mwb n b).getD (i % 64) #[]).getD j .nan)) =
      (span (32 * blk) (min 32 (n - 32 * blk))).map
        (fun j => (operandVal k mwb n a (i / 64) j).mul (operandVal k mwb n b (i % 64) j)) :=
    List.map_congr_left fun j hj => by
      obtain ⟨hle, hlt⟩ := mem_span.1 hj
      rw [operandRows_getD k mwb a hrow (by omega), operandRows_getD k mwb b hcol (by omega)]
  rw [hvals]

/-- MOP gives a new tile and adds flags. -/
theorem mopRun_eq (k : Core) (t n : Nat) (a b : MopOperand) (mwb : Nat) :
    mopRun k t n a b mwb =
      (k.setTile t ((span 0 4096).map (fun i => BitVec.ofNat 32 (mopCell k mwb n a b (k.tile t) i).1)).toArray).setTileFlags t
        (k.tileFlags t ||| (span 0 4096).foldl (fun f i => f ||| (mopCell k mwb n a b (k.tile t) i).2) 0) := by
  have hfold := foldl_push (fun i => BitVec.ofNat 32 (mopCell k mwb n a b (k.tile t) i).1)
    (fun (f : Flags) i => f ||| (mopCell k mwb n a b (k.tile t) i).2) (span 0 4096) (#[], 0)
  rw [Array.empty_append] at hfold
  have hrun : mopRun k t n a b mwb =
      let st := (span 0 4096).foldl (fun (st : Array (BitVec 32) × Flags) i => (st.1.push (BitVec.ofNat 32 (mopCell k mwb n a b (k.tile t) i).1),
        st.2 ||| (mopCell k mwb n a b (k.tile t) i).2)) (#[], 0)
      (k.setTile t st.1).setTileFlags t (k.tileFlags t ||| st.2) := by
    unfold mopRun
    generalize span 0 4096 = l
    rfl
  rw [hrun, hfold]

/-! ### MLDW and MDRAIN (R273, R274) -/

/-- Lines read one after the other are gathered, each as it was read. -/
theorem gather_reads {cmd : Nat} {bytes : XWord → List Byte} {src : XWord} {item : Nat → List Byte → Item}
    {f : State → Nat → Eng (Item × State)} {c u : State} {l : List Nat}
    (hf : ∀ s t i, engReadGood s cmd (src + xword (128 * i)) 128 = .ok (bytes (src + xword (128 * i)), t) →
      f s i = .ok (item i (bytes (src + xword (128 * i))), t))
    (h : EngineReads cmd bytes c (l.map (fun j => (src + xword (128 * j), 128))) u) :
    gather f id c l = .ok (l.map (fun j => item j (bytes (src + xword (128 * j)))), none, u) := by
  induction l generalizing c with
  | nil =>
    cases h
    rfl
  | cons i l ih =>
    obtain ⟨d, hd, hrest⟩ := h
    simp only [gather, hf c d i hd, ih hrest, List.map_cons]

/-- Destinations found one after the other are gathered, each with its data. -/
theorem gather_targets {cmd : Nat} {pa : XWord → Nat} {va : Nat → XWord} {item : Nat → Nat → Item}
    {f : State → Nat → Eng (Item × State)} {c u : State} {l : List Nat}
    (hf : ∀ i ∈ l, ∀ s t, engAddr s cmd .write (va i) = .ok (pa (va i), t) → f s i = .ok (item i (pa (va i)), t))
    (h : EngineTargets cmd pa c (l.map va) u) :
    gather f id c l = .ok (l.map (fun j => item j (pa (va j))), none, u) := by
  induction l generalizing c with
  | nil =>
    cases h
    rfl
  | cons i l ih =>
    rw [List.forall_mem_cons] at hf
    obtain ⟨hi, hl⟩ := hf
    obtain ⟨d, hd, hrest⟩ := h
    simp only [gather, hi c d hd, ih hl hrest, List.map_cons]

/-- Units of work that need no access are all gathered. -/
theorem gather_free {item : Nat → Item} {f : State → Nat → Eng (Item × State)} {c : State} {l : List Nat}
    (hf : ∀ i ∈ l, f c i = .ok (item i, c)) : gather f id c l = .ok (l.map item, none, c) := by
  induction l with
  | nil => rfl
  | cons i l ih =>
    rw [List.forall_mem_cons] at hf
    obtain ⟨hi, hl⟩ := hf
    simp only [gather, hi, ih hl, List.map_cons]

theorem EngineTargets.frame {cmd : Nat} {pa : XWord → Nat} {c u : State} {l : List XWord} (h : EngineTargets cmd pa c l u) :
    EngFrame c u := by
  induction l generalizing c with
  | nil => exact h ▸ .refl _
  | cons a l ih =>
    obtain ⟨d, hd, hrest⟩ := h
    exact (engAddr_frame hd).eng.trans (ih hrest)

/-- The unit of work of line j of an MLDW. -/
def loadItem (src : XWord) (line j : Nat) (bytes : List Byte) : Item :=
  { sp := true, va := src + xword (128 * j), pa := 128 * (line + j), data := bytes, bad := [], done := j + 1 }

theorem loadRun_eq {c u : State} {cmd line n : Nat} {src : XWord} {bytes : XWord → List Byte}
    (h : EngineReads cmd bytes c ((span 0 n).map (fun j => (src + xword (128 * j), 128))) u) :
    loadRun c cmd src line n = .ok ((u.setCore { u.core with wbuf := (span 0 n).foldl (fun m j =>
      memWriteN m (128 * (line + j)) (bytes (src + xword (128 * j)))) u.core.wbuf }).finishCmd cmd 0 0 0) := by
  unfold loadRun
  dsimp only
  rw [gather_reads (item := loadItem src line) (fun s t i hr => by rw [hr]; rfl) h]
  simp only [Eng.point, List.foldl_map, loadItem]

/-- Accumulator i times the drain's scale, exact, and rounded, each with its flags. -/
def drainScaled (tile : Array (BitVec 32)) (q : BitVec 256) (i : Nat) : Val × Flags :=
  (fp32.val (tile.getD i 0).toNat).mul (fp32.val (drainScale q))

def drainCode (tile : Array (BitVec 32)) (q : BitVec 256) (i : Nat) : Nat × Flags :=
  roundCore (drainFormat q).fp Rnd.rne (drainScaled tile q i).1

def drainFlags (tile : Array (BitVec 32)) (q : BitVec 256) : Flags :=
  (span 0 4096).foldl (fun f i => f ||| (drainScaled tile q i).2 ||| (drainCode tile q i).2) 0

theorem drained_eq (tile : Array (BitVec 32)) (q : BitVec 256) :
    drained tile q = (((span 0 4096).map (fun i => (drainCode tile q i).1)).toArray, drainFlags tile q) := by
  have hfold := foldl_push (fun i => (drainCode tile q i).1)
    (fun (f : Flags) i => f ||| (drainScaled tile q i).2 ||| (drainCode tile q i).2) (span 0 4096) (#[], 0)
  rw [Array.empty_append] at hfold
  exact hfold

/-- Byte of element i of a drain. -/
def drainAt (q : BitVec 256) (i : Nat) : Nat := drainPlace q (i / 64) (i % 64)

/-- What the drain's writes leave: element i goes to S-space, or to memory where its address leads. -/
def drainWrites (core : Nat) (tile : Array (BitVec 32)) (q : BitVec 256) (pa : XWord → Nat) (u : State) : State :=
  (span 0 4096).foldl (fun u i =>
    if drainSp q then u.spWrite core (drainAt q i) (leBytes (drainFormat q).bytes (drainCode tile q i).1)
    else u.engWrite (xword (drainAt q i)) (pa (xword (drainAt q i)))
      (leBytes (drainFormat q).bytes (drainCode tile q i).1) []) u

/-- The unit of work of element i of a drain, which goes to `pa` where it goes to memory. -/
def drainItem (tile : Array (BitVec 32)) (q : BitVec 256) (i pa : Nat) : Item :=
  let data := leBytes (drainFormat q).bytes (drainCode tile q i).1
  if drainSp q then { sp := true, va := 0, pa := drainAt q i, data := data, bad := [], done := i + 1 }
  else { sp := false, va := xword (drainAt q i), pa := pa, data := data, bad := [], done := i + 1 }

theorem performItems_drain (u : State) (core : Nat) (tile : Array (BitVec 32)) (q : BitVec 256) (pa : XWord → Nat) :
    u.performItems core ((span 0 4096).map (fun i => drainItem tile q i (pa (xword (drainAt q i))))) =
      drainWrites core tile q pa u := by
  rw [State.performItems, List.foldl_map, drainWrites]
  congr 1
  funext u i
  cases h : drainSp q <;> simp [drainItem, h]

/-- Where a drain's elements go: to S-space, or one after the other to an address in memory. -/
def DrainTargets (cmd : Nat) (q : BitVec 256) (pa : XWord → Nat) (c u : State) : Prop :=
  if drainSp q then u = c else EngineTargets cmd pa c ((span 0 4096).map (fun i => xword (drainAt q i))) u

theorem DrainTargets.coreId {cmd : Nat} {q : BitVec 256} {pa : XWord → Nat} {c u : State} (h : DrainTargets cmd q pa c u) :
    u.coreId = c.coreId := by
  unfold DrainTargets at h
  split at h
  · rw [h]
  · exact h.frame.coreId

/-- One element of a drain, of some codes: its unit of work, once its address is known. -/
def drainUnit (cmd : Nat) (q : BitVec 256) (codes : Array Nat) (s : State) (i : Nat) : Eng (Item × State) := do
  let data := leBytes (drainFormat q).bytes (codes.getD i 0)
  if drainSp q then return ({ sp := true, va := 0, pa := drainAt q i, data := data, bad := [], done := i + 1 }, s)
  else
    let (pa, s) ← engAddr s cmd .write (xword (drainAt q i))
    return ({ sp := false, va := xword (drainAt q i), pa := pa, data := data, bad := [], done := i + 1 }, s)

theorem drain_gathers {cmd : Nat} {q : BitVec 256} {pa : XWord → Nat} {c u : State} (tile : Array (BitVec 32))
    (hu : DrainTargets cmd q pa c u) :
    gather (drainUnit cmd q ((span 0 4096).map (fun i => (drainCode tile q i).1)).toArray) id c (span 0 4096) =
      .ok ((span 0 4096).map (fun i => drainItem tile q i (pa (xword (drainAt q i)))), none, u) := by
  have hcode (i : Nat) (hi : i ∈ span 0 4096) :
      ((span 0 4096).map (fun i => (drainCode tile q i).1)).toArray.getD i 0 = (drainCode tile q i).1 :=
    toArray_map_span_getD _ _ ((mem_span.1 hi).2.trans_eq (Nat.zero_add _))
  unfold DrainTargets at hu
  cases hsp : drainSp q with
  | true =>
    rw [hsp, if_pos rfl] at hu
    rw [hu]
    refine gather_free fun i hi => ?_
    simp only [drainUnit, hsp, if_true, hcode i hi, drainItem]
    rfl
  | false =>
    rw [hsp, if_neg Bool.false_ne_true] at hu
    refine gather_targets (va := fun i => xword (drainAt q i)) (item := drainItem tile q) (fun i hi s t ht => ?_) hu
    simp only [drainUnit, hsp, Bool.false_eq_true, if_false, hcode i hi, drainItem, ht]
    rfl

/-- A drain's flags entered in those of its tile. -/
def drainFlagged (v : State) (t : Nat) (fl : Flags) : State := v.setCore (v.core.setTileFlags t (v.core.tileFlags t ||| fl))

/-- The machine once a drain has written its elements and raised its flags. -/
def drainedTo (c : State) (t : Nat) (q : BitVec 256) (pa : XWord → Nat) (u : State) : State :=
  drainFlagged (drainWrites c.coreId (c.core.tile t) q pa u) t (drainFlags (c.core.tile t) q)

theorem Eng.point_ok {α : Type} (a : α) (f : α → Point) (g : Nat → State → Point) : Eng.point (.ok a) f g = f a := rfl

theorem drainRun_eq {c u w : State} {cmd t : Nat} {q : BitVec 256} {pa : XWord → Nat} (hu : DrainTargets cmd q pa c u)
    (hw : if drainAmax q then amaxUpdate (drainedTo c t q pa u) cmd q (amaxOf (c.core.tile t) q) = .ok w
      else w = drainedTo c t q pa u) :
    drainRun c cmd t q = .ok ((if drainClears q then w.setCore ((w.core.setTile t zeroTile).setTileFlags t 0) else w).finishCmd cmd 0
      ((drainedTo c t q pa u).core.tileFlags t).toNat 0) := by
  have hgather := drain_gathers (c.core.tile t) hu
  have hitems : u.performItems u.coreId ((span 0 4096).map (fun i => drainItem (c.core.tile t) q i (pa (xword (drainAt q i))))) =
      drainWrites c.coreId (c.core.tile t) q pa u := by
    rw [hu.coreId]
    exact performItems_drain u c.coreId (c.core.tile t) q pa
  unfold drainRun
  dsimp only
  rw [drained_eq]
  dsimp only
  generalize hcodes : ((span 0 4096).map (fun i => (drainCode (c.core.tile t) q i).1)).toArray = codes at hgather ⊢
  generalize span 0 4096 = l at hgather hitems ⊢
  change (gather (drainUnit cmd q codes) id c l).point _ _ = _
  rw [hgather, Eng.point_ok]
  simp only [hitems]
  change (if drainAmax q then (amaxUpdate (drainedTo c t q pa u) cmd q (amaxOf (c.core.tile t) q)).point _ _ else _) = _
  cases ha : drainAmax q with
  | true =>
    rw [ha, if_pos rfl] at hw
    rw [if_pos rfl, hw]
    rfl
  | false =>
    rw [ha, if_neg Bool.false_ne_true] at hw
    rw [if_neg Bool.false_ne_true, hw]
    rfl

end Machine
end Sys2Proof

open Sys2Proof Sys2Proof.Machine

/-- Settles O35: at its point each instruction does to all elements what its equation says of one; MOP's and MDRAIN's loops push one
result and join its flags in every turn. -/
theorem matrixPoints : Obligations.MatrixPoints := by
  unfold Obligations.MatrixPoints
  intro s h op rest f c k done hq hh hr
  refine ⟨fun t hop => ?_, fun t n a b mwb hop => ?_, fun cmd src line n bytes u hop hreads => ?_,
    fun cmd t q pa u w hop hu hw => ?_⟩
  · exact matrixExecute_done hq hh hr (by rw [hop]; rfl)
  · refine ⟨((span 0 4096).map (fun i => BitVec.ofNat 32 (mopCell k mwb n a b (k.tile t) i).1)).toArray,
      (span 0 4096).foldl (fun f i => f ||| (mopCell k mwb n a b (k.tile t) i).2) 0,
      matrixExecute_done hq hh hr ?_, ?_, fun i hi => ?_, fun j => ?_⟩
    · subst hop
      exact congrArg (fun q => Except.ok (c.setCore q)) (mopRun_eq k t n a b mwb)
    · rw [List.size_toArray, List.length_map, span_length]
    · rw [toArray_map_span_getD _ _ hi, mopCell_eq k mwb n a b (k.tile t) hi]
      rfl
    · rw [foldl_or_span]
      refine exists_congr fun i => and_congr_right fun hi => ?_
      rw [mopCell_eq k mwb n a b (k.tile t) hi]
      rfl
  · subst hop
    exact matrixExecute_done hq hh hr (loadRun_eq hreads)
  · subst hop
    have hrun := drainRun_eq (c := c) (u := u) (w := w) (cmd := cmd) (t := t) (q := q) (pa := pa) hu hw
    exact matrixExecute_done hq hh hr hrun

end
